-- ==== Sys2Proof/Word.lean ====
section
/-! DEFINITION. The plain words of the Ednos: bytes, 64-bit scalars, 512-byte vector registers, 512-bit masks,
64 KiB tiles and 16 KiB accumulator banks (R5, R6, R99, R128, R131, R155, R219). -/

namespace Sys2Proof

/-- A byte of memory (R6). -/
abbrev Byte := BitVec 8

/-- A scalar register or a device address (R99, R186). -/
abbrev W64 := BitVec 64

/-- A bundle word, slot word or 32-bit register (R27). -/
abbrev W32 := BitVec 32

/-- A vector register of 512 bytes; byte i is bits [8i+7:8i] (R6, R128). -/
abbrev VReg := BitVec 4096

/-- A mask register of 512 bits (R131). -/
abbrev Mask := BitVec 512

/-- The bytes of the largest tile, 64 KiB; byte o is bits [8o+7:8o] (R155). -/
abbrev TileBytes := BitVec 524288

/-- An accumulator bank, 64 rows of 64 words of 32 bits; word (i, j) is bits [32(64i+j)+31 : 32(64i+j)] (R219). -/
abbrev Bank := BitVec 131072

/-- A core number 0-1535 (R96). -/
abbrev CoreId := Nat

/-- A context number of a core (R67). -/
abbrev CtxId := Fin 4

end Sys2Proof
end

