-- ==== Sys2Proof/Config.lean ====
section
/-! DEFINITION. What an implementation fixes, and the free values: constants with no body, of which nothing can be proved. -/

namespace Sys2Proof.Config

/-- The bytes 224-8,079 of an attestation report: the SLH-DSA signature over its first bytes under the device key (R403). -/
opaque signature : BitVec 1792 → BitVec 62848

/-- Bytes of a section of a frame record whose layout inside the section the spec does not give (R341 Table 4), by what the section holds and by
offset. -/
opaque frameByte : List Nat → Nat → Byte

/-- Ralnak's certificate for the device public key, word by word (R403). -/
opaque certificate : Nat → W64

/-- A special function's correctly rounded result where its interval bounds, at the finest precision they are computed to, do not decide the
rounding (R147), by operand. -/
opaque hardRounding : Nat → W64

/-- State that the management window shows at offsets the spec does not give (R171, R188, R198, R264, R297, R299, R371): numbers name core, context,
queue, function or place in a list, and last the word. -/
inductive Shown where
  | unitTile (core ctx name : Nat)
  | launchTile (core launch name : Nat)
  | tileData (core ctx name word : Nat)
  | bank (core bank word : Nat)
  | front (core engine word : Nat)
  | engine (core word : Nat)
  | routine (core place word : Nat)
  | arrival (place word : Nat)
  | inst (place word : Nat)
  | tenant (device : Nat)
  | route (device : Nat)
  | group (number word : Nat)
  | debugSlot (vf slot word : Nat)
  | traceReg (vf word : Nat)
  | certificate (word : Nat)
  | context (core ctx word : Nat)
  | frame (place word : Nat)
  | barrier (core name word : Nat)
  | progress (core ctx queue place : Nat)
  | object (vf id : Nat)
  | queue (vf q word : Nat)
  | slot (n : Nat)
  | pending (place word : Nat)
  | fault (vf place word : Nat)
  | counter (vf which : Nat)
  | corrected (core : Nat)
  | fenCorrected
  | hostRange
  | bias (die set column : Nat) (active : Bool)
  | biasVersion (die set : Nat)
  | translation (core place word : Nat)
  | clusterTranslation (cluster place word : Nat)
  | fenRange (place word : Nat)
  deriving DecidableEq, Repr

/-- Which of them the word at an offset of a window shows; none where the offset names no state. -/
opaque shownAt : Nat → Option Shown

/-- A byte that a command reads outside its tile data from a line marked poisoned (R199), by command and address. -/
opaque poisonByte : Nat → Nat → Byte

/-- A value that the spec does not state, by the number of its use (`State.freeCtr`). -/
opaque freeWord : Nat → W64

/-- A byte of a plane that lies past the end of its row (R116 lays a row out in whole groups), by use and position. -/
opaque pastRow : Nat → Nat → Byte

end Sys2Proof.Config
end

