-- ==== Sys2Proof/Syntax.lean ====
section
/-! DEFINITION. The syntax of the machine: one constructor of `Instr` for every row of the table of operations and events
(R26, R48, 95_what_each_step_holds). Slot words keep their encoded fields; the world's data for an event stand in `Args`. -/

namespace Sys2Proof

/-- Device registers that a REGISTER_WRITE acts on: those with no behaviour of their own at a write beyond R11
(R358 Table 2, R365 Table 4, R380 SNAPADDR, R384, R385 Table 6), and what firmware sets while the device runs: the park allowance
(R168), the window's slots and expert quotas (R294), a partition's floor (R320), the slewing of device time (R314). -/
inductive DevReg where
  | qbase (vf q : Nat)
  | qctl (vf q : Nat)
  | cqbase (vf q : Nat)
  | cqsig (vf q : Nat)
  | snapaddr (c : Nat) (x : CtxId)
  | tbase (vf : Nat)
  | tctl (vf : Nat)
  | trd (vf : Nat)
  | tmask (vf : Nat)
  | sper (vf : Nat)
  | sbase (vf : Nat)
  | slog2 (vf : Nat)
  | tenant (n : Nat) (priv : Bool)
  | parkAllow (vf : Nat)
  | hdmWindow
  | windowSlots (bits general : Nat)
  | expertQuota (vf n : Nat)
  | floor (vf : Nat)
  | slew
  | deviceNumber (n : BitVec 12)
  | route (dev : BitVec 12) (port : Option Nat)
  | group (g p : Nat) (members : List (Nat × W32 × W32))
  | readOnly
  deriving DecidableEq, Repr

/-- What the boot finds (R401): whether each step of Table 1 passes, the images' version and digests, fen channels that failed,
and the device number and routes that firmware brings up. -/
structure BootIn where
  fuseOk : Bool
  keyOk : Bool
  sigOk : Bool
  version : W32
  beatOk : Bool
  hbmOk : Bool
  fenDown : List Nat
  hostTime : W64
  digests : BitVec 1024
  hostSize : Nat
  devno : BitVec 12
  routes : List (Nat × Nat)
  deriving DecidableEq, Repr

/-- What firmware fixes when the physical function creates a virtual function
(R186, R314, R316, R317, R318, R329, R168, R306, R307, R294). -/
structure VfConfig where
  root : W64
  timeOff : W64
  sigBase : W64
  sigCount : Nat
  cores : List Nat
  floor : Nat
  budgetLimit : W32
  plsShare : Nat
  parkKiB : Nat
  expertQuota : Nat
  bsets : List Nat
  deriving DecidableEq, Repr

/-- What the world decides in an event: which core, context, function, queue, number or launch it concerns, and its data.
Each event's meaning says which of these it reads. -/
structure Args where
  c : Nat
  x : CtxId
  vf : Nat
  q : Nat
  n : Nat
  m : Nat
  l : W32
  u : W32
  v : W64
  w : W64
  pte : Option W64
  flag : Bool
  list : List Nat
  data : List (BitVec 512)
  wide : BitVec 256
  dev : BitVec 12
  svf : BitVec 8
  reg : DevReg
  boot : BootIn
  cfg : VfConfig
  deriving DecidableEq, Repr

/-- A bundle header (R28 Table 2). -/
structure Header where
  lvl : BitVec 3
  trc : Bool
  seg : Bool
  nt : BitVec 3
  syn : Bool
  drn : Bool
  pop : BitVec 4
  pres : BitVec 8
  deriving DecidableEq, Repr

/-- The names under which the decoder rejects words (R12, R29, R35, R48, R49). -/
inductive Reject where
  | headerReserved
  | headerField
  | shortBundle
  | unassigned (slot : Nat)
  | reservedTag (slot : Nat)
  | reservedBits (slot : Nat)
  | reservedField (slot : Nat)
  | routineWord
  deriving DecidableEq, Repr

/-- One constructor per row of spec/opcode_table.json. Slot words carry TAG (t), IT (i) and the operand fields of
their row, in the table's order; routine words their operand. What the world decides in an event stands in `Args`. -/
inductive Instr where
  /-- NOP (R47): Does nothing in any slot. -/
  | nop (t : BitVec 3) (i : BitVec 2)
  /-- BR (R86): Branches to the bundle address plus 4 times off21. -/
  | br (t : BitVec 3) (i : BitVec 2) (o : BitVec 21)
  /-- BRT (R86): Branches to the address in a target register. -/
  | brt (t : BitVec 3) (i : BitVec 2) (n : BitVec 3)
  /-- MBR (R86): Branches to tg(B + leaf) on leaves 0-3. -/
  | mbr (t : BitVec 3) (i : BitVec 2) (b : BitVec 3)
  /-- CALL (R86): Branches and writes the return address to s31. -/
  | call (t : BitVec 3) (i : BitVec 2) (o : BitVec 21)
  /-- RET (R86): Branches to s31. -/
  | ret (t : BitVec 3) (i : BitVec 2)
  /-- LOOP_REG (R87): Activates a hardware loop level with a count from a register. -/
  | loopReg (t : BitVec 3) (i : BitVec 2) (n : BitVec 3) (c : BitVec 5) (e : BitVec 12)
  /-- LOOP_IMM (R87): Activates a hardware loop level with an immediate count. -/
  | loopImm (t : BitVec 3) (i : BitVec 2) (n : BitVec 3) (c : BitVec 5) (e : BitVec 12)
  /-- LBRK (R87): Makes level N and below inactive and goes to level N's end address. -/
  | lbrk (t : BitVec 3) (i : BitVec 2) (n : BitVec 3)
  /-- TGSET_LABEL (R88): Writes a target register from a label offset. -/
  | tgsetLabel (t : BitVec 3) (i : BitVec 2) (n : BitVec 3) (o : BitVec 17)
  /-- TGSET_REG (R88): Writes a target register from a scalar register. -/
  | tgsetReg (t : BitVec 3) (i : BitVec 2) (n : BitVec 3) (a : BitVec 5)
  /-- IDLE (R89): Blocks the context for n cycles. -/
  | idle (t : BitVec 3) (i : BitVec 2) (m : BitVec 16)
  /-- CQCLR (R91): Discards every condition-queue entry reserved by older bundles. -/
  | cqclr (t : BitVec 3) (i : BitVec 2)
  /-- WFE (R84): Clears the event latch if set, or blocks until it is set. -/
  | wfe (t : BitVec 3) (i : BitVec 2)
  /-- SEV (R90): Sets the event latches of the named contexts of the core. -/
  | sev (t : BitVec 3) (i : BitVec 2) (m : BitVec 4)
  /-- YIELD (R89): Makes the context READY and lets another READY context issue. -/
  | yield (t : BitVec 3) (i : BitVec 2)
  /-- LAUNCH (R92): Submits a launch packet from eight scalar registers to admission. -/
  | launch (t : BitVec 3) (i : BitVec 2) (d : BitVec 5) (a : BitVec 5)
  /-- RETIRE (R93): Ends the unit and makes the context RETIRING. -/
  | retire (t : BitVec 3) (i : BitVec 2)
  /-- XDISP (R311): Closes an expert's token list and jumps to the schedule of its bucket. -/
  | xdisp (t : BitVec 3) (i : BitVec 2) (d : BitVec 5) (a : BitVec 5)
  /-- TRAP (R95): Takes a resumable software trap into the unit's handler. -/
  | trap (t : BitVec 3) (i : BitVec 2) (m : BitVec 16)
  /-- ERET (R338): Returns from the handler and restores the trap shadow. -/
  | eret (t : BitVec 3) (i : BitVec 2)
  /-- CSRR (R96): Reads a system register into a scalar register. -/
  | csrr (t : BitVec 3) (i : BitVec 2) (d : BitVec 5) (c : BitVec 11)
  /-- CSRW (R96): Writes a system register under its access code. -/
  | csrw (t : BitVec 3) (i : BitVec 2) (a : BitVec 5) (c : BitVec 11)
  /-- BKPT (R95): Makes a debug stop after its bundle when stops are enabled. -/
  | bkpt (t : BitVec 3) (i : BitVec 2) (m : BitVec 16)
  /-- SEGLD (R97): Starts the copy of overlay segment n. -/
  | segld (t : BitVec 3) (i : BitVec 2) (n : BitVec 6)
  /-- CANCEL (R98): Starts the cancellation of a work-hierarchy instance. -/
  | cancel (t : BitVec 3) (i : BitVec 2) (l : BitVec 3) (a : BitVec 5)
  /-- ADD (R103): sD := sA + sB. -/
  | add (t : BitVec 3) (i : BitVec 2) (d : BitVec 5) (a : BitVec 5) (b : BitVec 5)
  /-- SUB (R103): sD := sA - sB. -/
  | sub (t : BitVec 3) (i : BitVec 2) (d : BitVec 5) (a : BitVec 5) (b : BitVec 5)
  /-- MUL (R103): Low 64 bits of the product. -/
  | mul (t : BitVec 3) (i : BitVec 2) (d : BitVec 5) (a : BitVec 5) (b : BitVec 5)
  /-- MULH (R103): High 64 bits of the signed product. -/
  | mulh (t : BitVec 3) (i : BitVec 2) (d : BitVec 5) (a : BitVec 5) (b : BitVec 5)
  /-- MULHU (R103): High 64 bits of the unsigned product. -/
  | mulhu (t : BitVec 3) (i : BitVec 2) (d : BitVec 5) (a : BitVec 5) (b : BitVec 5)
  /-- DIV (R103): Signed quotient rounded toward zero. -/
  | div (t : BitVec 3) (i : BitVec 2) (d : BitVec 5) (a : BitVec 5) (b : BitVec 5)
  /-- DIVU (R103): Unsigned quotient. -/
  | divu (t : BitVec 3) (i : BitVec 2) (d : BitVec 5) (a : BitVec 5) (b : BitVec 5)
  /-- REM (R103): Signed remainder. -/
  | rem (t : BitVec 3) (i : BitVec 2) (d : BitVec 5) (a : BitVec 5) (b : BitVec 5)
  /-- REMU (R103): Unsigned remainder. -/
  | remu (t : BitVec 3) (i : BitVec 2) (d : BitVec 5) (a : BitVec 5) (b : BitVec 5)
  /-- AND (R103): Bitwise and. -/
  | and (t : BitVec 3) (i : BitVec 2) (d : BitVec 5) (a : BitVec 5) (b : BitVec 5)
  /-- OR (R103): Bitwise or. -/
  | or (t : BitVec 3) (i : BitVec 2) (d : BitVec 5) (a : BitVec 5) (b : BitVec 5)
  /-- XOR (R103): Bitwise exclusive or. -/
  | xor (t : BitVec 3) (i : BitVec 2) (d : BitVec 5) (a : BitVec 5) (b : BitVec 5)
  /-- SHL (R103): Shift left by sB[5:0]. -/
  | shl (t : BitVec 3) (i : BitVec 2) (d : BitVec 5) (a : BitVec 5) (b : BitVec 5)
  /-- SHR (R103): Logical shift right. -/
  | shr (t : BitVec 3) (i : BitVec 2) (d : BitVec 5) (a : BitVec 5) (b : BitVec 5)
  /-- SAR (R103): Arithmetic shift right. -/
  | sar (t : BitVec 3) (i : BitVec 2) (d : BitVec 5) (a : BitVec 5) (b : BitVec 5)
  /-- ROT (R103): Rotate right. -/
  | rot (t : BitVec 3) (i : BitVec 2) (d : BitVec 5) (a : BitVec 5) (b : BitVec 5)
  /-- MIN (R103): Signed minimum. -/
  | min (t : BitVec 3) (i : BitVec 2) (d : BitVec 5) (a : BitVec 5) (b : BitVec 5)
  /-- MAX (R103): Signed maximum. -/
  | max (t : BitVec 3) (i : BitVec 2) (d : BitVec 5) (a : BitVec 5) (b : BitVec 5)
  /-- MINU (R103): Unsigned minimum. -/
  | minu (t : BitVec 3) (i : BitVec 2) (d : BitVec 5) (a : BitVec 5) (b : BitVec 5)
  /-- MAXU (R103): Unsigned maximum. -/
  | maxu (t : BitVec 3) (i : BitVec 2) (d : BitVec 5) (a : BitVec 5) (b : BitVec 5)
  /-- CLZ (R104): Counts leading zero bits. -/
  | clz (t : BitVec 3) (i : BitVec 2) (d : BitVec 5) (a : BitVec 5)
  /-- CTZ (R104): Counts trailing zero bits. -/
  | ctz (t : BitVec 3) (i : BitVec 2) (d : BitVec 5) (a : BitVec 5)
  /-- POPC (R104): Counts one bits. -/
  | popc (t : BitVec 3) (i : BitVec 2) (d : BitVec 5) (a : BitVec 5)
  /-- SEXT (R104): Sign-extends from width w. -/
  | sext (t : BitVec 3) (i : BitVec 2) (d : BitVec 5) (a : BitVec 5) (w : BitVec 2)
  /-- ZEXT (R104): Zero-extends from width w. -/
  | zext (t : BitVec 3) (i : BitVec 2) (d : BitVec 5) (a : BitVec 5) (w : BitVec 2)
  /-- ADDI (R105): Adds a signed 11-bit immediate. -/
  | addi (t : BitVec 3) (i : BitVec 2) (d : BitVec 5) (a : BitVec 5) (m : BitVec 11)
  /-- ANDI (R105): Ands a signed immediate. -/
  | andi (t : BitVec 3) (i : BitVec 2) (d : BitVec 5) (a : BitVec 5) (m : BitVec 11)
  /-- ORI (R105): Ors a signed immediate. -/
  | ori (t : BitVec 3) (i : BitVec 2) (d : BitVec 5) (a : BitVec 5) (m : BitVec 11)
  /-- XORI (R105): Exclusive-ors a signed immediate. -/
  | xori (t : BitVec 3) (i : BitVec 2) (d : BitVec 5) (a : BitVec 5) (m : BitVec 11)
  /-- SHLI (R105): Shift left by an immediate. -/
  | shli (t : BitVec 3) (i : BitVec 2) (d : BitVec 5) (a : BitVec 5) (s : BitVec 6)
  /-- SHRI (R105): Logical shift right by an immediate. -/
  | shri (t : BitVec 3) (i : BitVec 2) (d : BitVec 5) (a : BitVec 5) (s : BitVec 6)
  /-- SARI (R105): Arithmetic shift right by an immediate. -/
  | sari (t : BitVec 3) (i : BitVec 2) (d : BitVec 5) (a : BitVec 5) (s : BitVec 6)
  /-- LI (R105): Loads a sign-extended 16-bit immediate. -/
  | li (t : BitVec 3) (i : BitVec 2) (d : BitVec 5) (m : BitVec 16)
  /-- LIH (R105): Shifts sD left by 16 and ors in an immediate. -/
  | lih (t : BitVec 3) (i : BitVec 2) (d : BitVec 5) (m : BitVec 16)
  /-- CMP (R106): Pushes the result of a register compare onto the condition queue. -/
  | cmp (t : BitVec 3) (i : BitVec 2) (a : BitVec 5) (b : BitVec 5) (c : BitVec 4)
  /-- CMPI (R106): Pushes the result of a compare against an immediate. -/
  | cmpi (t : BitVec 3) (i : BitVec 2) (c : BitVec 5) (a : BitVec 5) (m : BitVec 11)
  /-- SEL (R107): Chooses sA or sB by sC. -/
  | sel (t : BitVec 3) (i : BitVec 2) (d : BitVec 5) (a : BitVec 5) (b : BitVec 5) (c : BitVec 5)
  /-- AGSET (R108): Writes a field of an address generator. -/
  | agset (t : BitVec 3) (i : BitVec 2) (n : BitVec 3) (a : BitVec 5) (f : BitVec 3)
  /-- AGSTEP (R108): Adds sA to a generator's address. -/
  | agstep (t : BitVec 3) (i : BitVec 2) (n : BitVec 3) (a : BitVec 5)
  /-- AGRD (R108): Reads a field of an address generator. -/
  | agrd (t : BitVec 3) (i : BitVec 2) (d : BitVec 5) (n : BitVec 3) (f : BitVec 3)
  /-- CQPUSH (R106): Pushes sA != 0 onto the condition queue. -/
  | cqpush (t : BitVec 3) (i : BitVec 2) (a : BitVec 5)
  /-- VADD_VA (R134): Element-wise add in VA. -/
  | vaddVa (t : BitVec 3) (i : BitVec 2) (d : BitVec 5) (a : BitVec 5) (b : BitVec 5) (h : BitVec 2) (k : BitVec 3) (l : BitVec 1)
  /-- VSUB_VA (R134): Element-wise subtract in VA. -/
  | vsubVa (t : BitVec 3) (i : BitVec 2) (d : BitVec 5) (a : BitVec 5) (b : BitVec 5) (h : BitVec 2) (k : BitVec 3) (l : BitVec 1)
  /-- VMUL_VA (R134): Element-wise multiply in VA. -/
  | vmulVa (t : BitVec 3) (i : BitVec 2) (d : BitVec 5) (a : BitVec 5) (b : BitVec 5) (h : BitVec 2) (k : BitVec 3) (l : BitVec 1)
  /-- VFMA_VA (R134): Fused multiply-add into vD in VA. -/
  | vfmaVa (t : BitVec 3) (i : BitVec 2) (d : BitVec 5) (a : BitVec 5) (b : BitVec 5) (h : BitVec 2) (k : BitVec 3) (l : BitVec 1)
  /-- VFMS (R134): Fused multiply-subtract from vD. -/
  | vfms (t : BitVec 3) (i : BitVec 2) (d : BitVec 5) (a : BitVec 5) (b : BitVec 5) (h : BitVec 2) (k : BitVec 3) (l : BitVec 1)
  /-- VMIN_VA (R135): Element-wise minimum in VA. -/
  | vminVa (t : BitVec 3) (i : BitVec 2) (d : BitVec 5) (a : BitVec 5) (b : BitVec 5) (h : BitVec 2) (k : BitVec 3) (l : BitVec 1)
  /-- VMAX_VA (R135): Element-wise maximum in VA. -/
  | vmaxVa (t : BitVec 3) (i : BitVec 2) (d : BitVec 5) (a : BitVec 5) (b : BitVec 5) (h : BitVec 2) (k : BitVec 3) (l : BitVec 1)
  /-- VABS (R134): Element-wise absolute value. -/
  | vabs (t : BitVec 3) (i : BitVec 2) (d : BitVec 5) (a : BitVec 5) (h : BitVec 2) (k : BitVec 3) (l : BitVec 1)
  /-- VNEG (R134): Element-wise negation. -/
  | vneg (t : BitVec 3) (i : BitVec 2) (d : BitVec 5) (a : BitVec 5) (h : BitVec 2) (k : BitVec 3) (l : BitVec 1)
  /-- VAND (R134): Element-wise bitwise and. -/
  | vand (t : BitVec 3) (i : BitVec 2) (d : BitVec 5) (a : BitVec 5) (b : BitVec 5) (h : BitVec 2) (k : BitVec 3) (l : BitVec 1)
  /-- VOR (R134): Element-wise bitwise or. -/
  | vor (t : BitVec 3) (i : BitVec 2) (d : BitVec 5) (a : BitVec 5) (b : BitVec 5) (h : BitVec 2) (k : BitVec 3) (l : BitVec 1)
  /-- VXOR (R134): Element-wise exclusive or. -/
  | vxor (t : BitVec 3) (i : BitVec 2) (d : BitVec 5) (a : BitVec 5) (b : BitVec 5) (h : BitVec 2) (k : BitVec 3) (l : BitVec 1)
  /-- VNOT (R134): Element-wise bitwise not. -/
  | vnot (t : BitVec 3) (i : BitVec 2) (d : BitVec 5) (a : BitVec 5) (h : BitVec 2) (k : BitVec 3) (l : BitVec 1)
  /-- VSHL (R134): Element-wise shift left. -/
  | vshl (t : BitVec 3) (i : BitVec 2) (d : BitVec 5) (a : BitVec 5) (b : BitVec 5) (h : BitVec 2) (k : BitVec 3) (l : BitVec 1)
  /-- VSHR (R134): Element-wise logical shift right. -/
  | vshr (t : BitVec 3) (i : BitVec 2) (d : BitVec 5) (a : BitVec 5) (b : BitVec 5) (h : BitVec 2) (k : BitVec 3) (l : BitVec 1)
  /-- VSAR (R134): Element-wise arithmetic shift right. -/
  | vsar (t : BitVec 3) (i : BitVec 2) (d : BitVec 5) (a : BitVec 5) (b : BitVec 5) (h : BitVec 2) (k : BitVec 3) (l : BitVec 1)
  /-- VCMP (R138): Compares elements and writes a mask. -/
  | vcmp (t : BitVec 3) (i : BitVec 2) (c : BitVec 3) (a : BitVec 5) (b : BitVec 5) (h : BitVec 2) (e : BitVec 3) (l : BitVec 1)
  /-- VSEL (R137): Selects elements of vA or vB by a mask. -/
  | vsel (t : BitVec 3) (i : BitVec 2) (d : BitVec 5) (a : BitVec 5) (b : BitVec 5) (h : BitVec 2) (k : BitVec 3) (l : BitVec 1)
  /-- VCVT (R141): Converts elements to another type. -/
  | vcvt (t : BitVec 3) (i : BitVec 2) (d : BitVec 5) (a : BitVec 5) (y : BitVec 4) (h : BitVec 2) (r : BitVec 2)
  /-- VMOV (R137): Copies elements of vA. -/
  | vmov (t : BitVec 3) (i : BitVec 2) (d : BitVec 5) (a : BitVec 5) (h : BitVec 2) (k : BitVec 3) (l : BitVec 1)
  /-- VBCAST (R137): Broadcasts a scalar into every element. -/
  | vbcast (t : BitVec 3) (i : BitVec 2) (d : BitVec 5) (a : BitVec 5) (h : BitVec 2) (k : BitVec 3) (l : BitVec 1)
  /-- VLI (R137): Writes an immediate into every element. -/
  | vli (t : BitVec 3) (i : BitVec 2) (d : BitVec 5) (m : BitVec 16)
  /-- VSHAPE (R143): Writes a shape record if valid. -/
  | vshape (t : BitVec 3) (i : BitVec 2) (n : BitVec 2) (a : BitVec 5)
  /-- VRLEN (R144): Writes the row lengths from column 0 of each row. -/
  | vrlen (t : BitVec 3) (i : BitVec 2) (a : BitVec 5) (h : BitVec 2)
  /-- VBMM (R145): Batched small matrix multiply-accumulate in every row. -/
  | vbmm (t : BitVec 3) (i : BitVec 2) (d : BitVec 5) (a : BitVec 5) (b : BitVec 5) (h : BitVec 2) (k : BitVec 3) (l : BitVec 1)
  /-- VSAT (R136): Saturating add, subtract or multiply. -/
  | vsat (t : BitVec 3) (i : BitVec 2) (d : BitVec 5) (a : BitVec 5) (b : BitVec 5) (h : BitVec 2) (o : BitVec 2) (l : BitVec 1)
  /-- VCLAMP (R135): Clamps vD between vA and vB. -/
  | vclamp (t : BitVec 3) (i : BitVec 2) (d : BitVec 5) (a : BitVec 5) (b : BitVec 5) (h : BitVec 2) (k : BitVec 3) (l : BitVec 1)
  /-- VANY (R140): Pushes whether any participating mask bit is 1. -/
  | vany (t : BitVec 3) (i : BitVec 2) (h : BitVec 2) (k : BitVec 3) (l : BitVec 1)
  /-- VALL (R140): Pushes whether every participating mask bit is 1. -/
  | vall (t : BitVec 3) (i : BitVec 2) (h : BitVec 2) (k : BitVec 3) (l : BitVec 1)
  /-- KOP (R139): Combines two masks into a mask. -/
  | kop (t : BitVec 3) (i : BitVec 2) (c : BitVec 3) (e : BitVec 3) (f : BitVec 3) (o : BitVec 4)
  /-- VACR_VA_IMM (R152): Copies two bank rows at an immediate index into vD. -/
  | vacrVaImm (t : BitVec 3) (i : BitVec 2) (d : BitVec 5) (b : BitVec 3) (x : BitVec 5)
  /-- VACR_VA_REG (R152): Copies two bank rows at a register index into vD. -/
  | vacrVaReg (t : BitVec 3) (i : BitVec 2) (d : BitVec 5) (b : BitVec 3) (s : BitVec 5)
  /-- VACW_VA_IMM (R152): Copies vA into two bank rows at an immediate index. -/
  | vacwVaImm (t : BitVec 3) (i : BitVec 2) (a : BitVec 5) (b : BitVec 3) (x : BitVec 5)
  /-- VACW_VA_REG (R152): Copies vA into two bank rows at a register index. -/
  | vacwVaReg (t : BitVec 3) (i : BitVec 2) (a : BitVec 5) (b : BitVec 3) (s : BitVec 5)
  /-- VEXT (R137): Extracts 512 bytes from the concatenation of vA and vB. -/
  | vext (t : BitVec 3) (i : BitVec 2) (d : BitVec 5) (a : BitVec 5) (b : BitVec 5) (m : BitVec 6)
  /-- VADD_VB (R134): Element-wise add in VB. -/
  | vaddVb (t : BitVec 3) (i : BitVec 2) (d : BitVec 5) (a : BitVec 5) (b : BitVec 5) (h : BitVec 2) (k : BitVec 3) (l : BitVec 1)
  /-- VSUB_VB (R134): Element-wise subtract in VB. -/
  | vsubVb (t : BitVec 3) (i : BitVec 2) (d : BitVec 5) (a : BitVec 5) (b : BitVec 5) (h : BitVec 2) (k : BitVec 3) (l : BitVec 1)
  /-- VMUL_VB (R134): Element-wise multiply in VB. -/
  | vmulVb (t : BitVec 3) (i : BitVec 2) (d : BitVec 5) (a : BitVec 5) (b : BitVec 5) (h : BitVec 2) (k : BitVec 3) (l : BitVec 1)
  /-- VFMA_VB (R134): Fused multiply-add in VB. -/
  | vfmaVb (t : BitVec 3) (i : BitVec 2) (d : BitVec 5) (a : BitVec 5) (b : BitVec 5) (h : BitVec 2) (k : BitVec 3) (l : BitVec 1)
  /-- VMIN_VB (R135): Element-wise minimum in VB. -/
  | vminVb (t : BitVec 3) (i : BitVec 2) (d : BitVec 5) (a : BitVec 5) (b : BitVec 5) (h : BitVec 2) (k : BitVec 3) (l : BitVec 1)
  /-- VMAX_VB (R135): Element-wise maximum in VB. -/
  | vmaxVb (t : BitVec 3) (i : BitVec 2) (d : BitVec 5) (a : BitVec 5) (b : BitVec 5) (h : BitVec 2) (k : BitVec 3) (l : BitVec 1)
  /-- VEXP2 (R147): Correctly rounded 2 to the power a. -/
  | vexp2 (t : BitVec 3) (i : BitVec 2) (d : BitVec 5) (a : BitVec 5) (h : BitVec 2) (k : BitVec 3) (l : BitVec 1)
  /-- VLOG2 (R147): Correctly rounded base-2 logarithm. -/
  | vlog2 (t : BitVec 3) (i : BitVec 2) (d : BitVec 5) (a : BitVec 5) (h : BitVec 2) (k : BitVec 3) (l : BitVec 1)
  /-- VRCP (R147): Correctly rounded reciprocal. -/
  | vrcp (t : BitVec 3) (i : BitVec 2) (d : BitVec 5) (a : BitVec 5) (h : BitVec 2) (k : BitVec 3) (l : BitVec 1)
  /-- VRSQRT (R147): Correctly rounded reciprocal square root. -/
  | vrsqrt (t : BitVec 3) (i : BitVec 2) (d : BitVec 5) (a : BitVec 5) (h : BitVec 2) (k : BitVec 3) (l : BitVec 1)
  /-- VSQRT (R147): Correctly rounded square root. -/
  | vsqrt (t : BitVec 3) (i : BitVec 2) (d : BitVec 5) (a : BitVec 5) (h : BitVec 2) (k : BitVec 3) (l : BitVec 1)
  /-- VDIV (R147): Correctly rounded division. -/
  | vdiv (t : BitVec 3) (i : BitVec 2) (d : BitVec 5) (a : BitVec 5) (b : BitVec 5) (h : BitVec 2) (k : BitVec 3) (l : BitVec 1)
  /-- VTANH (R147): Correctly rounded hyperbolic tangent. -/
  | vtanh (t : BitVec 3) (i : BitVec 2) (d : BitVec 5) (a : BitVec 5) (h : BitVec 2) (k : BitVec 3) (l : BitVec 1)
  /-- VSIGM (R147): Correctly rounded logistic sigmoid. -/
  | vsigm (t : BitVec 3) (i : BitVec 2) (d : BitVec 5) (a : BitVec 5) (h : BitVec 2) (k : BitVec 3) (l : BitVec 1)
  /-- VRSUM (R148): Sums each row's inputs into column 0. -/
  | vrsum (t : BitVec 3) (i : BitVec 2) (d : BitVec 5) (a : BitVec 5) (h : BitVec 2) (k : BitVec 3) (l : BitVec 1)
  /-- VRMAX (R148): Row maximum into column 0. -/
  | vrmax (t : BitVec 3) (i : BitVec 2) (d : BitVec 5) (a : BitVec 5) (h : BitVec 2) (k : BitVec 3) (l : BitVec 1)
  /-- VRMIN (R148): Row minimum into column 0. -/
  | vrmin (t : BitVec 3) (i : BitVec 2) (d : BitVec 5) (a : BitVec 5) (h : BitVec 2) (k : BitVec 3) (l : BitVec 1)
  /-- VARGMAX (R148): Column of the first greatest row input. -/
  | vargmax (t : BitVec 3) (i : BitVec 2) (d : BitVec 5) (a : BitVec 5) (h : BitVec 2) (k : BitVec 3) (l : BitVec 1)
  /-- VSCAN (R149): Running sum along each row. -/
  | vscan (t : BitVec 3) (i : BitVec 2) (d : BitVec 5) (a : BitVec 5) (h : BitVec 2) (k : BitVec 3) (l : BitVec 1)
  /-- VPERM (R150): Permutes elements of vA by indices in vB. -/
  | vperm (t : BitVec 3) (i : BitVec 2) (d : BitVec 5) (a : BitVec 5) (b : BitVec 5) (h : BitVec 2) (k : BitVec 3) (l : BitVec 1)
  /-- VTRANS (R150): Transposes the row-element matrix. -/
  | vtrans (t : BitVec 3) (i : BitVec 2) (d : BitVec 5) (a : BitVec 5) (h : BitVec 2)
  /-- VCOMPACT (R151): Moves selected rows to the front and zeroes the rest. -/
  | vcompact (t : BitVec 3) (i : BitVec 2) (d : BitVec 5) (a : BitVec 5) (h : BitVec 2) (k : BitVec 3)
  /-- VEXPAND (R151): Spreads rows of vA into the selected rows. -/
  | vexpand (t : BitVec 3) (i : BitVec 2) (d : BitVec 5) (a : BitVec 5) (h : BitVec 2) (k : BitVec 3)
  /-- VROT (R150): Rotates each row by a scalar amount. -/
  | vrot (t : BitVec 3) (i : BitVec 2) (d : BitVec 5) (a : BitVec 5) (b : BitVec 5) (h : BitVec 2) (k : BitVec 3)
  /-- VACR_VB_IMM (R152): VB copy of two bank rows at an immediate index into vD. -/
  | vacrVbImm (t : BitVec 3) (i : BitVec 2) (d : BitVec 5) (b : BitVec 3) (x : BitVec 5)
  /-- VACR_VB_REG (R152): VB copy of two bank rows at a register index into vD. -/
  | vacrVbReg (t : BitVec 3) (i : BitVec 2) (d : BitVec 5) (b : BitVec 3) (s : BitVec 5)
  /-- VACW_VB_IMM (R152): VB copy of vA into bank rows at an immediate index. -/
  | vacwVbImm (t : BitVec 3) (i : BitVec 2) (a : BitVec 5) (b : BitVec 3) (x : BitVec 5)
  /-- VACW_VB_REG (R152): VB copy of vA into bank rows at a register index. -/
  | vacwVbReg (t : BitVec 3) (i : BitVec 2) (a : BitVec 5) (b : BitVec 3) (s : BitVec 5)
  /-- VROUND (R142): Rounds floating elements to integral values. -/
  | vround (t : BitVec 3) (i : BitVec 2) (d : BitVec 5) (a : BitVec 5) (h : BitVec 2) (k : BitVec 3) (l : BitVec 1)
  /-- MCALL (R239): Accepts a matrix routine call into a bank with a copy of the parameters. -/
  | mcall (t : BitVec 3) (i : BitVec 2) (m : BitVec 8) (d : BitVec 3) (a : BitVec 1) (e : BitVec 1) (f : BitVec 1)
  /-- MPSET (R240): Writes a shadow parameter register. -/
  | mpset (t : BitVec 3) (i : BitVec 2) (n : BitVec 3) (a : BitVec 5)
  /-- MPGET (R240): Reads a shadow parameter register. -/
  | mpget (t : BitVec 3) (i : BitVec 2) (d : BitVec 5) (n : BitVec 3)
  /-- MLOAD (R241): Accepts the installation of a routine from global memory. -/
  | mload (t : BitVec 3) (i : BitVec 2) (a : BitVec 5)
  /-- ACLASS (R242): Sets a bank's class and zeroes it. -/
  | aclass (t : BitVec 3) (i : BitVec 2) (n : BitVec 3) (c : BitVec 2)
  /-- ACLR (R243): Accepts the zeroing of a bank. -/
  | aclr (t : BitVec 3) (i : BitVec 2) (n : BitVec 3)
  /-- ACMV (R243): Accepts a copy, transpose or add of one bank into another. -/
  | acmv (t : BitVec 3) (i : BitVec 2) (d : BitVec 3) (s : BitVec 3) (m : BitVec 2)
  /-- MWAIT_ALL (R244): Blocks until every accepted engine operation of the context has completed. -/
  | mwaitAll (t : BitVec 3) (i : BitVec 2)
  /-- MWAIT_BANK (R244): Blocks until the context's operations on one bank have completed. -/
  | mwaitBank (t : BitVec 3) (i : BitVec 2) (n : BitVec 3)
  /-- SQCLR (R245): Empties named scale-queue sides once loads and calls are done. -/
  | sqclr (t : BitVec 3) (i : BitVec 2) (m : BitVec 2)
  /-- FTSET (R246): Writes a format-table entry if valid. -/
  | ftset (t : BitVec 3) (i : BitVec 2) (n : BitVec 4) (a : BitVec 5)
  /-- FTSEL (R246): Names the loop level that indexes the format table. -/
  | ftsel (t : BitVec 3) (i : BitVec 2) (l : BitVec 3)
  /-- FINIT (R260): Configures and empties a front. -/
  | finit (t : BitVec 3) (i : BitVec 2) (n : BitVec 3) (a : BitVec 5)
  /-- FINS (R261): Inserts n tuple rows of a vector register into a front. -/
  | fins (t : BitVec 3) (i : BitVec 2) (n : BitVec 3) (a : BitVec 5) (b : BitVec 5)
  /-- FMRG (R262): Merges one front into another. -/
  | fmrg (t : BitVec 3) (i : BitVec 2) (d : BitVec 3) (s : BitVec 3)
  /-- FRD (R263): Reads 16 held tuples into a vector register. -/
  | frd (t : BitVec 3) (i : BitVec 2) (d : BitVec 5) (n : BitVec 3) (a : BitVec 5)
  /-- FCNT (R263): Reads a front counter or status word. -/
  | fcnt (t : BitVec 3) (i : BitVec 2) (d : BitVec 5) (n : BitVec 3) (s : BitVec 3)
  /-- FCLR (R260): Empties a front and keeps its configuration. -/
  | fclr (t : BitVec 3) (i : BitVec 2) (n : BitVec 3)
  /-- TALLOC_IMM (R179): Creates a PRESENT zero-filled tile with an immediate count. -/
  | tallocImm (t : BitVec 3) (i : BitVec 2) (x : BitVec 9) (a : BitVec 5) (c : BitVec 6)
  /-- TALLOC_REG (R179): Creates a PRESENT zero-filled tile with a register count. -/
  | tallocReg (t : BitVec 3) (i : BitVec 2) (x : BitVec 9) (a : BitVec 5) (b : BitVec 5)
  /-- TLD (R177): Reads 512 bytes of a tile into a vector register. -/
  | tld (t : BitVec 3) (i : BitVec 2) (x : BitVec 9) (r : BitVec 2) (d : BitVec 5) (p : BitVec 5)
  /-- TST (R178): Writes a vector register into a tile. -/
  | tst (t : BitVec 3) (i : BitVec 2) (x : BitVec 9) (a : BitVec 5) (p : BitVec 5)
  /-- TCNT_IMM (R180): Adds a signed immediate to a tile's count. -/
  | tcntImm (t : BitVec 3) (i : BitVec 2) (x : BitVec 9) (m : BitVec 11)
  /-- TCNT_REG (R180): Adds a signed register to a tile's count. -/
  | tcntReg (t : BitVec 3) (i : BitVec 2) (x : BitVec 9) (a : BitVec 5)
  /-- TDROP (R180): Sets a tile's count to 0 and vanishes it. -/
  | tdrop (t : BitVec 3) (i : BitVec 2) (x : BitVec 9)
  /-- TPARK_TILE (R182): Starts parking a named tile. -/
  | tparkTile (t : BitVec 3) (i : BitVec 2) (x : BitVec 9)
  /-- TPARK_REG (R182): Starts parking the tile named in a register. -/
  | tparkReg (t : BitVec 3) (i : BitVec 2) (a : BitVec 5)
  /-- TUNPARK_TILE (R182): Starts the unpark of a named PARKED tile. -/
  | tunparkTile (t : BitVec 3) (i : BitVec 2) (x : BitVec 9)
  /-- TUNPARK_REG (R182): Starts the unpark of the tile named in a register. -/
  | tunparkReg (t : BitVec 3) (i : BitVec 2) (a : BitVec 5)
  /-- TSTAT (R182): Reads a tile entry's state, count and shape. -/
  | tstat (t : BitVec 3) (i : BitVec 2) (x : BitVec 9) (d : BitVec 5)
  /-- TPLANE (R183): Encodes an element tile into a plane tile and its scales. -/
  | tplane (t : BitVec 3) (i : BitVec 2) (d : BitVec 8) (s : BitVec 8) (r : BitVec 2)
  /-- HBIND (R184): Binds a handle as a ring over n tiles. -/
  | hbind (t : BitVec 3) (i : BitVec 2) (m : BitVec 8) (n : BitVec 4) (c : BitVec 4)
  /-- HADVP (R184): Advances a ring's producer pointer. -/
  | hadvp (t : BitVec 3) (i : BitVec 2) (n : BitVec 4) (c : BitVec 4)
  /-- HADVC (R184): Advances a ring's consumer pointer. -/
  | hadvc (t : BitVec 3) (i : BitVec 2) (n : BitVec 4) (c : BitVec 4)
  /-- QBIND (R184): Binds a latch to a handle. -/
  | qbind (t : BitVec 3) (i : BitVec 2) (h : BitVec 4) (q : BitVec 2)
  /-- QBIND_UNBIND (R184): Unbinds a latch. -/
  | qbindUnbind (t : BitVec 3) (i : BitVec 2) (q : BitVec 2)
  /-- SQLD (R177): Appends one scale-queue entry from a scale tile. -/
  | sqld (t : BitVec 3) (i : BitVec 2) (x : BitVec 9) (r : BitVec 2) (s : BitVec 1) (p : BitVec 5)
  /-- TSHARE (R181): Moves a unit-scope tile into the launch table. -/
  | tshare (t : BitVec 3) (i : BitVec 2) (x : BitVec 9)
  /-- TLW (R177): Reads one 64-bit tile word into a scalar register. -/
  | tlw (t : BitVec 3) (i : BitVec 2) (x : BitVec 9) (r : BitVec 2) (d : BitVec 5) (a : BitVec 5)
  /-- TSW (R178): Writes one 64-bit word into a tile. -/
  | tsw (t : BitVec 3) (i : BitVec 2) (x : BitVec 9) (a : BitVec 5) (b : BitVec 5)
  /-- TATOM (R178): Read-modify-write of one tile word at core scope. -/
  | tatom (t : BitVec 3) (i : BitVec 2) (x : BitVec 9) (o : BitVec 2) (d : BitVec 5) (a : BitVec 5)
  /-- TQUOTA (R185): Privileged: sets a context's guaranteed quota. -/
  | tquota (t : BitVec 3) (i : BitVec 2) (c : BitVec 2) (a : BitVec 5)
  /-- CLD (R273): Reads 512 bytes of a peer tile into a vector register. -/
  | cld (t : BitVec 3) (i : BitVec 2) (x : BitVec 9) (r : BitVec 2) (d : BitVec 5) (c : BitVec 5)
  /-- CST (R273): Writes a vector register into a peer tile. -/
  | cst (t : BitVec 3) (i : BitVec 2) (x : BitVec 9) (a : BitVec 5) (c : BitVec 5)
  /-- CCOPY (R276): Copies a peer tile into a new tile of the issuing core. -/
  | ccopy (t : BitVec 3) (i : BitVec 2) (x : BitVec 9) (r : BitVec 2) (c : BitVec 5)
  /-- CCNT (R275): Adds to a peer tile's count. -/
  | ccnt (t : BitVec 3) (i : BitVec 2) (x : BitVec 9) (a : BitVec 5) (c : BitVec 5)
  /-- CLW (R273): Reads one word of a peer tile. -/
  | clw (t : BitVec 3) (i : BitVec 2) (x : BitVec 9) (r : BitVec 2) (d : BitVec 5) (c : BitVec 5)
  /-- CSW (R273): Writes one word into a peer tile. -/
  | csw (t : BitVec 3) (i : BitVec 2) (x : BitVec 9) (b : BitVec 5) (c : BitVec 5)
  /-- CATOM (R274): Read-modify-write of a peer tile word at cluster scope. -/
  | catom (t : BitVec 3) (i : BitVec 2) (x : BitVec 9) (o : BitVec 2) (d : BitVec 5) (a : BitVec 5)
  /-- BINIT_IMM (R278): Takes or re-targets a barrier with an immediate target. -/
  | binitImm (t : BitVec 3) (i : BitVec 2) (n : BitVec 11) (m : BitVec 9)
  /-- BINIT_REG (R278): Takes or re-targets a barrier with a register target. -/
  | binitReg (t : BitVec 3) (i : BitVec 2) (n : BitVec 11) (a : BitVec 5)
  /-- BARV (R279): Arrives at a barrier of the issuing core. -/
  | barv (t : BitVec 3) (i : BitVec 2) (n : BitVec 11)
  /-- BARV_REMOTE (R279): Arrives at a barrier of a peer core. -/
  | barvRemote (t : BitVec 3) (i : BitVec 2) (n : BitVec 11) (c : BitVec 5)
  /-- BWAIT (R280): Holds the MC stream until the barrier's phase completes. -/
  | bwait (t : BitVec 3) (i : BitVec 2) (n : BitVec 11)
  /-- BEXP (R281): Changes the arrivals still due in the current phase. -/
  | bexp (t : BitVec 3) (i : BitVec 2) (n : BitVec 11) (a : BitVec 5)
  /-- BTRY (R280): Pushes whether the barrier phase has completed. -/
  | btry (t : BitVec 3) (i : BitVec 2) (n : BitVec 11)
  /-- CSEV (R282): Sets event latches of contexts on a cluster core. -/
  | csev (t : BitVec 3) (i : BitVec 2) (c : BitVec 5) (m : BitVec 4)
  /-- GLS (R202): Loads a global value into a scalar register. -/
  | gls (t : BitVec 3) (i : BitVec 2) (d : BitVec 5) (e : BitVec 6) (y : BitVec 3)
  /-- GSS (R202): Stores a scalar value to global memory. -/
  | gss (t : BitVec 3) (i : BitVec 2) (a : BitVec 5) (e : BitVec 6) (y : BitVec 3)
  /-- GVST (R202): Stores a vector register to global memory. -/
  | gvst (t : BitVec 3) (i : BitVec 2) (a : BitVec 5) (e : BitVec 6)
  /-- GFETCH_IMM (R203): Creates a tile and fills it from global memory, immediate count. -/
  | gfetchImm (t : BitVec 3) (i : BitVec 2) (x : BitVec 9) (n : BitVec 3) (c : BitVec 5) (p : BitVec 3)
  /-- GFETCH_REG (R203): Creates a tile and fills it from global memory, register count. -/
  | gfetchReg (t : BitVec 3) (i : BitVec 2) (x : BitVec 9) (n : BitVec 3) (c : BitVec 5) (p : BitVec 3)
  /-- GGATHER (R205): Creates a tile from rows addressed through an index list. -/
  | ggather (t : BitVec 3) (i : BitVec 2) (x : BitVec 9) (n : BitVec 3) (j : BitVec 5)
  /-- GSCATTER (R205): Writes tile rows to addresses through an index list. -/
  | gscatter (t : BitVec 3) (i : BitVec 2) (x : BitVec 9) (n : BitVec 3) (j : BitVec 5) (r : BitVec 2)
  /-- GSTORE (R206): Writes a tile to contiguous global memory. -/
  | gstore (t : BitVec 3) (i : BitVec 2) (x : BitVec 9) (n : BitVec 3) (r : BitVec 2) (p : BitVec 3)
  /-- GCOPY (R207): Copies sL bytes of global memory. -/
  | gcopy (t : BitVec 3) (i : BitVec 2) (d : BitVec 3) (s : BitVec 3) (l : BitVec 5) (p : BitVec 3)
  /-- GATOM (R208): Atomic read-modify-write of a global word. -/
  | gatom (t : BitVec 3) (i : BitVec 2) (d : BitVec 5) (e : BitVec 6) (a : BitVec 5) (o : BitVec 2) (s : BitVec 3)
  /-- GCAS (R208): Atomic compare-and-swap of a global word. -/
  | gcas (t : BitVec 3) (i : BitVec 2) (d : BitVec 5) (e : BitVec 6) (a : BitVec 5) (s : BitVec 3)
  /-- GWAIT (R209): Blocks until a flag word differs from a value. -/
  | gwait (t : BitVec 3) (i : BitVec 2) (f : BitVec 5) (v : BitVec 5)
  /-- GACQ (R210): Acquires a sync object at a scope. -/
  | gacq (t : BitVec 3) (i : BitVec 2) (f : BitVec 5) (s : BitVec 3)
  /-- GREL (R210): Releases bound writes and adds 1 to the flag word. -/
  | grel (t : BitVec 3) (i : BitVec 2) (f : BitVec 5) (s : BitVec 3)
  /-- GBIND (R211): Binds a region to a sync object. -/
  | gbind (t : BitVec 3) (i : BitVec 2) (r : BitVec 5) (l : BitVec 5) (f : BitVec 5)
  /-- GUNBIND (R211): Removes a binding. -/
  | gunbind (t : BitVec 3) (i : BitVec 2) (r : BitVec 5) (f : BitVec 5)
  /-- GQFENCE (R212): Puts a fence entry into each named engine queue. -/
  | gqfence (t : BitVec 3) (i : BitVec 2) (m : BitVec 4)
  /-- GSLUICE_PROMOTE (R303): Promotes listed weight objects into general window slots. -/
  | gsluicePromote (t : BitVec 3) (i : BitVec 2) (a : BitVec 5) (p : BitVec 3)
  /-- GSLUICE_PROMOTE_X (R306): Promotes listed objects into expert slots, borrowing or demanding slots. -/
  | gsluicePromoteX (t : BitVec 3) (i : BitVec 2) (a : BitVec 5) (p : BitVec 3)
  /-- GSLUICE_RELEASE (R304): Drops the launch's pins on listed objects. -/
  | gsluiceRelease (t : BitVec 3) (i : BitVec 2) (a : BitVec 5) (p : BitVec 3)
  /-- GSKIM_SELECT (R308): Sends logit rows to their dies for biased top-k selection. -/
  | gskimSelect (t : BitVec 3) (i : BitVec 2) (a : BitVec 5) (p : BitVec 3)
  /-- GSKIM_BIASW (R309): Writes values into the shadow copy of a bias set in all dies. -/
  | gskimBiasw (t : BitVec 3) (i : BitVec 2) (a : BitVec 5) (p : BitVec 3)
  /-- GSKIM_EPOCH (R309): Publishes a bias set's shadow copy as a new version. -/
  | gskimEpoch (t : BitVec 3) (i : BitVec 2) (a : BitVec 5) (p : BitVec 3)
  /-- GCOLL_ALLREDUCE (R369): Takes part in an ALLREDUCE instance of a group. -/
  | gcollAllreduce (t : BitVec 3) (i : BitVec 2) (a : BitVec 5) (p : BitVec 3)
  /-- GCOLL_REDUCESCATTER (R369): Takes part in a REDUCESCATTER instance. -/
  | gcollReducescatter (t : BitVec 3) (i : BitVec 2) (a : BitVec 5) (p : BitVec 3)
  /-- GCOLL_ALLGATHER (R369): Takes part in an ALLGATHER instance. -/
  | gcollAllgather (t : BitVec 3) (i : BitVec 2) (a : BitVec 5) (p : BitVec 3)
  /-- GCOLL_BROADCAST (R369): Takes part in a BROADCAST instance. -/
  | gcollBroadcast (t : BitVec 3) (i : BitVec 2) (a : BitVec 5) (p : BitVec 3)
  /-- GSEND_DATA (R367): Sends a block of memory to a function on another device. -/
  | gsendData (t : BitVec 3) (i : BitVec 2) (a : BitVec 5) (p : BitVec 3)
  /-- GSEND_LAUNCH (R367): Sends a launch packet to a function on another device. -/
  | gsendLaunch (t : BitVec 3) (i : BitVec 2) (a : BitVec 5) (p : BitVec 3)
  /-- GRECV (R367): Posts a receive buffer in the function's receive list. -/
  | grecv (t : BitVec 3) (i : BitVec 2) (a : BitVec 5) (p : BitVec 3)
  /-- GPREF (R207): Pre-translates the pages of a range into the buffers. -/
  | gpref (t : BitVec 3) (i : BitVec 2) (e : BitVec 6) (l : BitVec 5)
  /-- GTLBI (R214): Privileged: performs a translation invalidation. -/
  | gtlbi (t : BitVec 3) (i : BitVec 2) (a : BitVec 5) (b : BitVec 5) (m : BitVec 2)
  /-- LDA (R232): Routine word: loads the A slice of the current group. -/
  | rwLda
  /-- LDB (R232): Routine word: loads the B planes of the current group. -/
  | rwLdb
  /-- STEP (R227): Routine word: runs QA times QB plane pairs into the inner accumulators. -/
  | rwStep
  /-- SKIP (R232): Routine word: continues at TGT when the group is not a promotion point. -/
  | rwSkip (tgt : BitVec 11)
  /-- SPOP (R123): Routine word: pops one scale entry per side used, waiting if one is outstanding. -/
  | rwSpop
  /-- PROM (R126): Routine word: promotes the inner accumulators into the bank. -/
  | rwProm (tr : Bool)
  /-- KADV (R232): Routine word: advances to the next k-group. -/
  | rwKadv
  /-- JMORE (R232): Routine word: continues at TGT while groups remain. -/
  | rwJmore (tgt : BitVec 11)
  /-- BWR (R234): Routine word: applies the epilogue to the result region one row per cycle. -/
  | rwBwr (e : BitVec 2)
  /-- END (R233): Routine word: ends the call. -/
  | rwEnd
  /-- BUNDLE_ISSUE (R37): The core issues one bundle of a context: it reads all operands, starts the compute group, puts memory words into their streams and acts on the header fields. -/
  | bundleIssue
  /-- COMPUTE_RESULT_LAND (R41): A compute result of latency L lands at the end of cycle c + L - 1. -/
  | computeResultLand
  /-- GLOBAL_LOAD_RETURN (R40): The data of a memory-slot read returns, and its interlocked register write lands. -/
  | globalLoadReturn
  /-- IDLE_EXPIRE (R89): The n cycles of an idle run out, and the context may issue again. -/
  | idleExpire
  /-- FORCED_SWITCH (R327): A READY context with an earlier or equal deadline has waited 3,072 cycles, so the issuing context freezes and becomes READY. -/
  | forcedSwitch
  /-- SEGMENT_COPY_COMPLETE (R82): An overlay segment copy completes, and contexts blocked on it may issue. -/
  | segmentCopyComplete
  /-- LAUNCH_ANSWER (R92): The admission answer to a launch instruction arrives, writes sD and fills the reserved condition-queue entry. -/
  | launchAnswer
  /-- RETIRE_COMPLETE (R93): A RETIRING context has drained its streams and accepted operations; its tiles vanish, its banks and quota are released and it becomes FREE. -/
  | retireComplete
  /-- KILLED (R75): A cancelled running unit takes the fatal KILLED fault at its next bundle boundary. -/
  | killed
  /-- WATCHDOG (R345): A context has stayed ISSUING for 1,048,576 cycles without issuing, and takes the fatal fault. -/
  | watchdog
  /-- STORE_FULL (R166): A waiting allocation's counter reaches 4,096 cycles, and the context enters its handler. -/
  | storeFull
  /-- OVERRUN_CROSSING (R322): SPENT first exceeds the budget, and the controller applies the overrun policy once. -/
  | overrunCrossing
  /-- OVERRUN (R337): A running unit of a TRAP-policy launch takes the resumable OVERRUN trap at its next boundary. -/
  | overrun
  /-- LATE (R323): Device time passes a launch's deadline before it completes, and LATE is set. -/
  | late
  /-- UNIT_PLACE (R68): The cluster dispatcher places a ready group of units on FREE contexts and sets up their start state. -/
  | unitPlace
  /-- PREEMPT (R328): The dispatcher requests the pre-emption of a victim unit with a later deadline, and the context freezes. -/
  | preempt
  /-- FRAME_WRITTEN (R340): The frame of a pre-empted unit has been written, its banks are scrubbed and the context is FREE. -/
  | frameWritten
  /-- UNIT_RESUME (R336): A pre-empted unit is resumed from its frame; saved operations are re-accepted and latched results land at their offsets. -/
  | unitResume
  /-- PREEMPTED_COMMAND_FAULT (R409): A started command of a pre-empted unit meets a fatal fault, and the unit ends without resuming. -/
  | preemptedCommandFault
  /-- TRANSLATION_WALK_DONE (R190): A translation walk completes and serves every request that joined it. -/
  | translationWalkDone
  /-- PAGE_FAULT_RESOLVED (R197): The page handler resolves a translation fault, and the access is replayed or the command resumes at NEXT. -/
  | pageFaultResolved
  /-- COMMAND_START (R193): A queued command starts in queue order. -/
  | commandStart
  /-- COPY_ENGINE_LINE (R193): The copy engine moves one line for a started command and lands its bytes. -/
  | copyEngineLine
  /-- COMMAND_COMPLETE (R194): A command completes once its writes are performed at device scope and its tile reads are counted. -/
  | commandComplete
  /-- INVALIDATION (R200): A firmware invalidation drops buffer entries and enters a marker in every queue of the function. -/
  | invalidation
  /-- INVALIDATION_COMPLETE (R200): Every command ahead of every marker has completed, and the invalidation is complete. -/
  | invalidationComplete
  /-- GWAIT_REREAD (R209): A write to the line of a waited flag word makes the blocked gwait read it again. -/
  | gwaitReread
  /-- PARK_COMPLETE (R168): A park copy completes, and the tile becomes PARKED and frees its granules. -/
  | parkComplete
  /-- UNPARK_COMPLETE (R169): An unpark copy completes, and the tile becomes PRESENT. -/
  | unparkComplete
  /-- STORE_ERROR_UNCORRECTABLE (R171): An uncorrectable error in a live tile's granule makes the tile POISONED. -/
  | storeErrorUncorrectable
  /-- SOFT_ERROR_CORRECTED (R171): A corrected soft error adds one to the core's corrected-error counter. -/
  | softErrorCorrected
  /-- RETENTION_ENTER (R170): A CTS bank idle for 16,384 cycles begins entering retention mode. -/
  | retentionEnter
  /-- RETENTION_ENTRY_DONE (R170): A bank's 2,048-cycle entry into retention mode completes. -/
  | retentionEntryDone
  /-- RETENTION_EXIT_DONE (R170): A bank's 2,048-cycle exit from retention completes, and waiting accesses proceed. -/
  | retentionExitDone
  /-- MATRIX_OP_START (R223): A queued matrix-engine operation starts after its predecessors and performs the waits of R225. -/
  | matrixOpStart
  /-- MATRIX_CALL_COMPLETE (R223): A call completes after its completion tail or epilogue, and its queue place is freed. -/
  | matrixCallComplete
  /-- MATRIX_OP_COMPLETE (R243): An aclr or acmv completes after 64 engine cycles. -/
  | matrixOpComplete
  /-- MLOAD_INSTALL (R241): The fetched routine record is checked and installed for the calling launch. -/
  | mloadInstall
  /-- FRONT_OP_START (R256): A queued front operation starts in acceptance order. -/
  | frontOpStart
  /-- FRONT_INSERT (R253): The front engine inserts one arrival per cycle, discarding it or removing dominated tuples. -/
  | frontInsert
  /-- ADMISSION_TEST (R317): The partition's controller tests one launch packet whole and answers with an admission code. -/
  | admissionTest
  /-- SIGNAL_RECHECK (R316): A write to a signal word's line makes the controller re-examine launches waiting on it. -/
  | signalRecheck
  /-- LAUNCH_COMPLETE (R291): The launch's completion counter reaches zero; its DONE signal is released at system scope. -/
  | launchComplete
  /-- QUEUE_ENTRY_FETCH (R324): A mapped hardware queue slot fetches its queue's head entry and submits it to admission. -/
  | queueEntryFetch
  /-- MAP (R324): The firmware scheduler binds a hardware queue slot to a software queue. -/
  | map
  /-- UNMAP (R324): The firmware scheduler stops a slot after its current entry. -/
  | unmap
  /-- SWITCH (R324): The firmware scheduler unmaps and maps one slot as one step. -/
  | switch
  /-- ALL_WAITING (R331): Every mapped slot's head waits on a signal; the dispatcher raises ALL_WAITING and firmware resolves any deadlock. -/
  | allWaiting
  /-- PARTITION_MOVE (R330): The firmware scheduler moves a core from one partition to another after re-running the demand test. -/
  | partitionMove
  /-- PLUGIN_CALL (R362): The scheduler calls a tenant's U-mode policy plug-in and checks its outputs. -/
  | pluginCall
  /-- PLUGIN_TIMEOUT (R362): A plug-in call runs over 20 us, is stopped and the default policy applies. -/
  | pluginTimeout
  /-- FIRMWARE_CORE_RESET (R363): A firmware core's heartbeat stops for 1 ms, and it is reset. -/
  | firmwareCoreReset
  /-- TAIL (R359): A host write of a queue's TAIL register is checked, and if accepted acts as a system-scope acquire of the entries. -/
  | tail
  /-- EN_SET (R358): A write of EN from 0 to 1 enables a queue and zeroes HEAD, the tail and DONE. -/
  | enSet
  /-- EN_CLEAR (R358): A write of EN to 0 stops offering the queue once the slot has finished its head entry. -/
  | enClear
  /-- PHASE (R358): A write of a new PHASE id closes the queue's current phase. -/
  | phase
  /-- JOB (R358): A write of JOB closes the queue's current job and phase and sets PHASE to 0. -/
  | job
  /-- REGISTER_WRITE (R11): A write to a register with no behaviour of its own acts under its access code. -/
  | registerWrite
  /-- HOST_SNOOP (R356): A host write to a line in the device cache arrives as a snoop and counts as a write. -/
  | hostSnoop
  /-- HOST_MEM_ACCESS (R356): A host access through the CXL.mem window takes effect in HBM at device scope. -/
  | hostMemAccess
  /-- IDE_INTEGRITY_FAIL (R356): A flit fails its IDE integrity check; the link enters error state and requests in flight complete poisoned. -/
  | ideIntegrityFail
  /-- LAUNCH_FLIT (R365): A LAUNCH flit is checked against the tenant table and submitted to admission or refused. -/
  | launchFlit
  /-- SEND_FLIT (R367): A DATA send arrives and matches the oldest admitting posted receive. -/
  | sendFlit
  /-- COLL_FLIT (R369): A collective flit carries data for a collective instance through the Causeway interfaces. -/
  | collFlit
  /-- ABORT_FLIT (R370): An ABORT flit completes every unfinished gcoll of the instance with ABORTED. -/
  | abortFlit
  /-- TIME_FLIT (R364): A TIME flit keeps device time in agreement across chips. -/
  | timeFlit
  /-- CREDIT_FLIT (R364): A CREDIT flit is received on a Causeway link. -/
  | creditFlit
  /-- ANSWER_FLIT (R365): An ANSWER flit returns the admission answer of a fabric launch. -/
  | answerFlit
  /-- LINK_LEVEL_RETRY (R364): A flit that fails its check is sent again. -/
  | linkLevelRetry
  /-- PROMOTE_COPY_COMPLETE (R301): A promotion's copy completes; the object becomes RESIDENT and its pages are mapped. -/
  | promoteCopyComplete
  /-- STRIPE_UNCORRECTABLE (R301): A promotion meets a stripe uncorrectable after retries, and reloads from backing or becomes POISONED. -/
  | stripeUncorrectable
  /-- PROMOTE_NOSPACE (R301): A promotion finds no free slot for 100 us and fails with NOSPACE. -/
  | promoteNospace
  /-- LEAVE_COMPLETE (R301): An object's leave completes, its slots are freed and it becomes FEN. -/
  | leaveComplete
  /-- FEN_CHANNEL_DOWN (R297): A fen-tier channel is marked down, and its chunks are rebuilt from the others. -/
  | fenChannelDown
  /-- SKIM_ROW (R308): A base die dequeues one SELECT row and writes its top-k result row. -/
  | skimRow
  /-- SKIM_EPOCH_DEQUEUE (R309): A die dequeues an EPOCH, copies its shadow biases to active and raises the version. -/
  | skimEpochDequeue
  /-- DEBUG_SLOT_WRITE (R377): A write to a debug slot takes effect for the launch's units at their next boundary. -/
  | debugSlotWrite
  /-- HALT (R378): A write of HALT requests a debug stop of the context at its next boundary. -/
  | halt
  /-- RESUME (R382): A write of RESUME restarts a stopped context. -/
  | resume
  /-- DCTL_STEP (R382): A write of STEP resumes a stopped context for one bundle. -/
  | dctlStep
  /-- SNAP (R398): A write of SNAP writes the replay checkpoint of a stopped context. -/
  | snap
  /-- LIVE_STATE_WRITE (R381): A window write changes the live state of a stopped context in permitted sections. -/
  | liveStateWrite
  /-- TEN_SET (R385): A write of TEN from 0 to 1 zeroes TWR, TRD and TLOST and starts trace. -/
  | tenSet
  /-- SAMPLE (R392): Every SPER ns the sampler snapshots each context of the function into the sample ring. -/
  | sample
  /-- REPLAY_REQUEST (R399): A replay is requested, and firmware places one unit in replay mode from a checkpoint. -/
  | replayRequest
  /-- POWER_ON (R401): At power-on the security core runs the boot steps in order. -/
  | powerOn
  /-- COMMIT (R402): The PF's commit request raises the rollback counter to the running image's version. -/
  | commit
  /-- ATTESTATION_REQUEST (R403): A function requests a signed attestation report with a nonce. -/
  | attestationRequest
  /-- FUSE_ERROR (R405): An uncorrectable fuse or ROM error after boot clears READY and cancels admitted launches. -/
  | fuseError
  /-- THERMAL_SAMPLE (R407): Each die senses its junction temperature every 10 us and throttles or trips. -/
  | thermalSample
  /-- STORE_PERFORMED (R210): A direct store or release write of the MG stream becomes performed at its scope, freeing its request place and letting a waiting grel proceed. -/
  | storePerformed
  /-- PEER_REQUEST (R269): A slot-6 request of another core arrives at this core's tile store and is performed there in the third class of R160. -/
  | peerRequest
  /-- FUNCTION_CREATE (R314): The physical function creates a virtual function, whose root table, time offset and resources firmware fixes. -/
  | functionCreate
  /-- FUNCTION_DESTROY (R404): A virtual function is destroyed and all its non-persistent memory is scrubbed before its number is reused. -/
  | functionDestroy
  /-- WEIGHT_OBJECT_REGISTER (R299): Firmware registers a weight object, its id, fen range, class and backing copy, through the function's management window. -/
  | weightObjectRegister
  /-- FEN_RANGE_ASSIGN (R404): The physical function assigns a fen range to a function, which the security core zeroes first unless it is marked persistent. -/
  | fenRangeAssign
  /-- ATTESTATION_REPORT (R403): The security core finishes signing a report and answers the request, then serves the next waiting request. -/
  | attestationReport
  /-- FIRMWARE_UNCORRECTABLE_ERROR (R405): An uncorrectable error in a firmware core's memory resets that core. -/
  | firmwareUncorrectableError
  /-- PLUGIN_LOAD (R362): A tenant loads its policy plug-in, re-enabling one that was disabled. -/
  | pluginLoad
  /-- DEBUGGER_EVENT_SET (R83): The debugger sets a context's event latch, waking a wfe. -/
  | debuggerEventSet
  /-- IDE_KEY_SET (R355): The security core sets CXL IDE keys through an SPDM exchange with the host. -/
  | ideKeySet
  deriving DecidableEq, Repr

end Sys2Proof
end

