-- ==== Sys2Proof/WellFormed.lean ====
section
/-! DEFINITION. Well-formed instructions: no TAG 6 and no field value that the encodings reserve
(R29, R35, R85 Table 6, R102 Table 3, R133 Table 2, R175 Table 7, R201 Table 5, R238, R259, R272). -/

namespace Sys2Proof

/-- An address field adr: with bit 5 set, bits [4:3] are reserved (R201). -/
def adrWf (e : BitVec 6) : Bool := !(e.getLsbD 5) || e.extractLsb' 3 2 == 0#2

/-- The check of R35 that one slot word alone can fail, beyond its opcode and reserved bits. -/
def Instr.wf : Instr → Bool
  | .nop t _ => t != 6#3
  | .br t _ _ => t != 6#3
  | .brt t _ _ => t != 6#3
  | .mbr t _ b => t != 6#3 && b.toNat ≤ 4
  | .call t _ _ => t != 6#3
  | .ret t _ => t != 6#3
  | .loopReg t _ n _ _ => t != 6#3 && n.toNat ≤ 5
  | .loopImm t _ n _ _ => t != 6#3 && n.toNat ≤ 5
  | .lbrk t _ n => t != 6#3 && n.toNat ≤ 5
  | .tgsetLabel t _ _ _ => t != 6#3
  | .tgsetReg t _ _ _ => t != 6#3
  | .idle t _ _ => t != 6#3
  | .cqclr t _ => t != 6#3
  | .wfe t _ => t != 6#3
  | .sev t _ _ => t != 6#3
  | .yield t _ => t != 6#3
  | .launch t _ _ a => t != 6#3 && a.toNat ≤ 24
  | .retire t _ => t != 6#3
  | .xdisp t _ _ _ => t != 6#3
  | .trap t _ _ => t != 6#3
  | .eret t _ => t != 6#3
  | .csrr t _ _ _ => t != 6#3
  | .csrw t _ _ _ => t != 6#3
  | .bkpt t _ _ => t != 6#3
  | .segld t _ _ => t != 6#3
  | .cancel t _ l _ => t != 6#3 && l.toNat ≤ 4
  | .add t _ _ _ _ => t != 6#3
  | .sub t _ _ _ _ => t != 6#3
  | .mul t _ _ _ _ => t != 6#3
  | .mulh t _ _ _ _ => t != 6#3
  | .mulhu t _ _ _ _ => t != 6#3
  | .div t _ _ _ _ => t != 6#3
  | .divu t _ _ _ _ => t != 6#3
  | .rem t _ _ _ _ => t != 6#3
  | .remu t _ _ _ _ => t != 6#3
  | .and t _ _ _ _ => t != 6#3
  | .or t _ _ _ _ => t != 6#3
  | .xor t _ _ _ _ => t != 6#3
  | .shl t _ _ _ _ => t != 6#3
  | .shr t _ _ _ _ => t != 6#3
  | .sar t _ _ _ _ => t != 6#3
  | .rot t _ _ _ _ => t != 6#3
  | .min t _ _ _ _ => t != 6#3
  | .max t _ _ _ _ => t != 6#3
  | .minu t _ _ _ _ => t != 6#3
  | .maxu t _ _ _ _ => t != 6#3
  | .clz t _ _ _ => t != 6#3
  | .ctz t _ _ _ => t != 6#3
  | .popc t _ _ _ => t != 6#3
  | .sext t _ _ _ w => t != 6#3 && w.toNat ≤ 2
  | .zext t _ _ _ w => t != 6#3 && w.toNat ≤ 2
  | .addi t _ _ _ _ => t != 6#3
  | .andi t _ _ _ _ => t != 6#3
  | .ori t _ _ _ _ => t != 6#3
  | .xori t _ _ _ _ => t != 6#3
  | .shli t _ _ _ _ => t != 6#3
  | .shri t _ _ _ _ => t != 6#3
  | .sari t _ _ _ _ => t != 6#3
  | .li t _ _ _ => t != 6#3
  | .lih t _ _ _ => t != 6#3
  | .cmp t _ _ _ c => t != 6#3 && c.toNat ≤ 9
  | .cmpi t _ c _ _ => t != 6#3 && c.toNat ≤ 9
  | .sel t _ _ _ _ _ => t != 6#3
  | .agset t _ _ _ f => t != 6#3 && f.toNat ≤ 6
  | .agstep t _ _ _ => t != 6#3
  | .agrd t _ _ _ f => t != 6#3 && f.toNat ≤ 6
  | .cqpush t _ _ => t != 6#3
  | .vaddVa t _ _ _ _ _ _ _ => t != 6#3
  | .vsubVa t _ _ _ _ _ _ _ => t != 6#3
  | .vmulVa t _ _ _ _ _ _ _ => t != 6#3
  | .vfmaVa t _ _ _ _ _ _ _ => t != 6#3
  | .vfms t _ _ _ _ _ _ _ => t != 6#3
  | .vminVa t _ _ _ _ _ _ _ => t != 6#3
  | .vmaxVa t _ _ _ _ _ _ _ => t != 6#3
  | .vabs t _ _ _ _ _ _ => t != 6#3
  | .vneg t _ _ _ _ _ _ => t != 6#3
  | .vand t _ _ _ _ _ _ _ => t != 6#3
  | .vor t _ _ _ _ _ _ _ => t != 6#3
  | .vxor t _ _ _ _ _ _ _ => t != 6#3
  | .vnot t _ _ _ _ _ _ => t != 6#3
  | .vshl t _ _ _ _ _ _ _ => t != 6#3
  | .vshr t _ _ _ _ _ _ _ => t != 6#3
  | .vsar t _ _ _ _ _ _ _ => t != 6#3
  | .vcmp t _ _ _ _ _ e _ => t != 6#3 && e.toNat ≤ 5
  | .vsel t _ _ _ _ _ _ _ => t != 6#3
  | .vcvt t _ _ _ y _ _ => t != 6#3 && y.toNat ≤ 10
  | .vmov t _ _ _ _ _ _ => t != 6#3
  | .vbcast t _ _ _ _ _ _ => t != 6#3
  | .vli t _ _ _ => t != 6#3
  | .vshape t _ _ _ => t != 6#3
  | .vrlen t _ _ _ => t != 6#3
  | .vbmm t _ _ _ _ _ _ _ => t != 6#3
  | .vsat t _ _ _ _ _ o _ => t != 6#3 && o.toNat ≤ 2
  | .vclamp t _ _ _ _ _ _ _ => t != 6#3
  | .vany t _ _ _ _ => t != 6#3
  | .vall t _ _ _ _ => t != 6#3
  | .kop t _ _ _ _ o => t != 6#3 && o.toNat ≤ 5
  | .vacrVaImm t _ _ _ _ => t != 6#3
  | .vacrVaReg t _ _ _ _ => t != 6#3
  | .vacwVaImm t _ _ _ _ => t != 6#3
  | .vacwVaReg t _ _ _ _ => t != 6#3
  | .vext t _ _ _ _ _ => t != 6#3
  | .vaddVb t _ _ _ _ _ _ _ => t != 6#3
  | .vsubVb t _ _ _ _ _ _ _ => t != 6#3
  | .vmulVb t _ _ _ _ _ _ _ => t != 6#3
  | .vfmaVb t _ _ _ _ _ _ _ => t != 6#3
  | .vminVb t _ _ _ _ _ _ _ => t != 6#3
  | .vmaxVb t _ _ _ _ _ _ _ => t != 6#3
  | .vexp2 t _ _ _ _ _ _ => t != 6#3
  | .vlog2 t _ _ _ _ _ _ => t != 6#3
  | .vrcp t _ _ _ _ _ _ => t != 6#3
  | .vrsqrt t _ _ _ _ _ _ => t != 6#3
  | .vsqrt t _ _ _ _ _ _ => t != 6#3
  | .vdiv t _ _ _ _ _ _ _ => t != 6#3
  | .vtanh t _ _ _ _ _ _ => t != 6#3
  | .vsigm t _ _ _ _ _ _ => t != 6#3
  | .vrsum t _ _ _ _ _ _ => t != 6#3
  | .vrmax t _ _ _ _ _ _ => t != 6#3
  | .vrmin t _ _ _ _ _ _ => t != 6#3
  | .vargmax t _ _ _ _ _ _ => t != 6#3
  | .vscan t _ _ _ _ _ _ => t != 6#3
  | .vperm t _ _ _ _ _ _ _ => t != 6#3
  | .vtrans t _ _ _ _ => t != 6#3
  | .vcompact t _ _ _ _ _ => t != 6#3
  | .vexpand t _ _ _ _ _ => t != 6#3
  | .vrot t _ _ _ _ _ _ => t != 6#3
  | .vacrVbImm t _ _ _ _ => t != 6#3
  | .vacrVbReg t _ _ _ _ => t != 6#3
  | .vacwVbImm t _ _ _ _ => t != 6#3
  | .vacwVbReg t _ _ _ _ => t != 6#3
  | .vround t _ _ _ _ _ _ => t != 6#3
  | .mcall t _ _ _ _ _ _ => t != 6#3
  | .mpset t _ _ _ => t != 6#3
  | .mpget t _ _ _ => t != 6#3
  | .mload t _ _ => t != 6#3
  | .aclass t _ _ c => t != 6#3 && c.toNat ≤ 2
  | .aclr t _ _ => t != 6#3
  | .acmv t _ _ _ _ => t != 6#3
  | .mwaitAll t _ => t != 6#3
  | .mwaitBank t _ _ => t != 6#3
  | .sqclr t _ _ => t != 6#3
  | .ftset t _ _ _ => t != 6#3
  | .ftsel t _ l => t != 6#3 && l.toNat ≤ 5
  | .finit t _ _ _ => t != 6#3
  | .fins t _ _ _ _ => t != 6#3
  | .fmrg t _ _ _ => t != 6#3
  | .frd t _ _ _ _ => t != 6#3
  | .fcnt t _ _ _ s => t != 6#3 && s.toNat ≤ 4
  | .fclr t _ _ => t != 6#3
  | .tallocImm t _ _ _ _ => t != 6#3
  | .tallocReg t _ _ _ _ => t != 6#3
  | .tld t _ _ r _ p => t != 6#3 && r.toNat ≤ 2 && p.toNat ≤ 23
  | .tst t _ _ _ p => t != 6#3 && p.toNat ≤ 23
  | .tcntImm t _ _ _ => t != 6#3
  | .tcntReg t _ _ _ => t != 6#3
  | .tdrop t _ _ => t != 6#3
  | .tparkTile t _ _ => t != 6#3
  | .tparkReg t _ _ => t != 6#3
  | .tunparkTile t _ _ => t != 6#3
  | .tunparkReg t _ _ => t != 6#3
  | .tstat t _ _ _ => t != 6#3
  | .tplane t _ d _ r => t != 6#3 && d.toNat ≤ 254 && r.toNat ≤ 1
  | .hbind t _ _ _ _ => t != 6#3
  | .hadvp t _ _ _ => t != 6#3
  | .hadvc t _ _ _ => t != 6#3
  | .qbind t _ _ _ => t != 6#3
  | .qbindUnbind t _ _ => t != 6#3
  | .sqld t _ _ r _ p => t != 6#3 && r.toNat ≤ 1 && p.toNat ≤ 23
  | .tshare t _ _ => t != 6#3
  | .tlw t _ _ r _ _ => t != 6#3 && r.toNat ≤ 2
  | .tsw t _ _ _ _ => t != 6#3
  | .tatom t _ _ o _ a => t != 6#3 && !(o.toNat == 3 && a.toNat == 31)
  | .tquota t _ _ _ => t != 6#3
  | .cld t _ _ r _ _ => t != 6#3 && r.toNat ≤ 2
  | .cst t _ _ _ _ => t != 6#3
  | .ccopy t _ _ r _ => t != 6#3 && r.toNat ≤ 1
  | .ccnt t _ _ _ _ => t != 6#3
  | .clw t _ _ r _ _ => t != 6#3 && r.toNat ≤ 2
  | .csw t _ _ _ _ => t != 6#3
  | .catom t _ _ o _ a => t != 6#3 && !(o.toNat == 3 && a.toNat == 31)
  | .binitImm t _ _ _ => t != 6#3
  | .binitReg t _ _ _ => t != 6#3
  | .barv t _ _ => t != 6#3
  | .barvRemote t _ _ _ => t != 6#3
  | .bwait t _ _ => t != 6#3
  | .bexp t _ _ _ => t != 6#3
  | .btry t _ _ => t != 6#3
  | .csev t _ _ _ => t != 6#3
  | .gls t _ _ e _ => t != 6#3 && adrWf e
  | .gss t _ _ e _ => t != 6#3 && adrWf e
  | .gvst t _ _ e => t != 6#3 && adrWf e
  | .gfetchImm t _ _ _ _ _ => t != 6#3
  | .gfetchReg t _ _ _ _ _ => t != 6#3
  | .ggather t _ _ _ j => t != 6#3 && j.toNat ≤ 30
  | .gscatter t _ _ _ j r => t != 6#3 && j.toNat ≤ 30 && r.toNat ≤ 1
  | .gstore t _ _ _ r _ => t != 6#3 && r.toNat ≤ 1
  | .gcopy t _ _ _ _ _ => t != 6#3
  | .gatom t _ _ e _ _ s => t != 6#3 && adrWf e && s.toNat ≤ 4
  | .gcas t _ _ e a s => t != 6#3 && adrWf e && a.toNat ≤ 30 && s.toNat ≤ 4
  | .gwait t _ _ _ => t != 6#3
  | .gacq t _ _ s => t != 6#3 && s.toNat ≤ 4
  | .grel t _ _ s => t != 6#3 && s.toNat ≤ 4
  | .gbind t _ _ _ _ => t != 6#3
  | .gunbind t _ _ _ => t != 6#3
  | .gqfence t _ _ => t != 6#3
  | .gsluicePromote t _ _ _ => t != 6#3
  | .gsluicePromoteX t _ _ _ => t != 6#3
  | .gsluiceRelease t _ _ _ => t != 6#3
  | .gskimSelect t _ _ _ => t != 6#3
  | .gskimBiasw t _ _ _ => t != 6#3
  | .gskimEpoch t _ _ _ => t != 6#3
  | .gcollAllreduce t _ _ _ => t != 6#3
  | .gcollReducescatter t _ _ _ => t != 6#3
  | .gcollAllgather t _ _ _ => t != 6#3
  | .gcollBroadcast t _ _ _ => t != 6#3
  | .gsendData t _ _ _ => t != 6#3
  | .gsendLaunch t _ _ _ => t != 6#3
  | .grecv t _ _ _ => t != 6#3
  | .gpref t _ e _ => t != 6#3 && adrWf e
  | .gtlbi t _ _ _ m => t != 6#3 && m.toNat ≤ 2
  | .rwLda => true
  | .rwLdb => true
  | .rwStep => true
  | .rwSkip _ => true
  | .rwSpop => true
  | .rwProm _ => true
  | .rwKadv => true
  | .rwJmore _ => true
  | .rwBwr _ => true
  | .rwEnd => true
  | .bundleIssue => true
  | .computeResultLand => true
  | .globalLoadReturn => true
  | .idleExpire => true
  | .forcedSwitch => true
  | .segmentCopyComplete => true
  | .launchAnswer => true
  | .retireComplete => true
  | .killed => true
  | .watchdog => true
  | .storeFull => true
  | .overrunCrossing => true
  | .overrun => true
  | .late => true
  | .unitPlace => true
  | .preempt => true
  | .frameWritten => true
  | .unitResume => true
  | .preemptedCommandFault => true
  | .translationWalkDone => true
  | .pageFaultResolved => true
  | .commandStart => true
  | .copyEngineLine => true
  | .commandComplete => true
  | .invalidation => true
  | .invalidationComplete => true
  | .gwaitReread => true
  | .parkComplete => true
  | .unparkComplete => true
  | .storeErrorUncorrectable => true
  | .softErrorCorrected => true
  | .retentionEnter => true
  | .retentionEntryDone => true
  | .retentionExitDone => true
  | .matrixOpStart => true
  | .matrixCallComplete => true
  | .matrixOpComplete => true
  | .mloadInstall => true
  | .frontOpStart => true
  | .frontInsert => true
  | .admissionTest => true
  | .signalRecheck => true
  | .launchComplete => true
  | .queueEntryFetch => true
  | .map => true
  | .unmap => true
  | .switch => true
  | .allWaiting => true
  | .partitionMove => true
  | .pluginCall => true
  | .pluginTimeout => true
  | .firmwareCoreReset => true
  | .tail => true
  | .enSet => true
  | .enClear => true
  | .phase => true
  | .job => true
  | .registerWrite => true
  | .hostSnoop => true
  | .hostMemAccess => true
  | .ideIntegrityFail => true
  | .launchFlit => true
  | .sendFlit => true
  | .collFlit => true
  | .abortFlit => true
  | .timeFlit => true
  | .creditFlit => true
  | .answerFlit => true
  | .linkLevelRetry => true
  | .promoteCopyComplete => true
  | .stripeUncorrectable => true
  | .promoteNospace => true
  | .leaveComplete => true
  | .fenChannelDown => true
  | .skimRow => true
  | .skimEpochDequeue => true
  | .debugSlotWrite => true
  | .halt => true
  | .resume => true
  | .dctlStep => true
  | .snap => true
  | .liveStateWrite => true
  | .tenSet => true
  | .sample => true
  | .replayRequest => true
  | .powerOn => true
  | .commit => true
  | .attestationRequest => true
  | .fuseError => true
  | .thermalSample => true
  | .storePerformed => true
  | .peerRequest => true
  | .functionCreate => true
  | .functionDestroy => true
  | .weightObjectRegister => true
  | .fenRangeAssign => true
  | .attestationReport => true
  | .firmwareUncorrectableError => true
  | .pluginLoad => true
  | .debuggerEventSet => true
  | .ideKeySet => true

end Sys2Proof
end

