-- ==== Sys2Proof/Decode.lean ====
section
/-! DEFINITION. The decoder of headers, slot words, routine words and bundles, and the encoder
(R27-R31, R35, R48, R85, R102, R133, R175, R201, R232, R238, R259, R272). -/

namespace Sys2Proof

/-- Bits [lo+n-1:lo] of a word. -/
def fld {w : Nat} (x : BitVec w) (lo n : Nat) : BitVec n := x.extractLsb' lo n

/-- A row whose fixed bits hold. -/
def row (ok : Bool) (i : Instr) : Option Instr := if ok then some i else none

/-- The row that a word of slot 0 spells, by opcode and fixed bits (R48 Table 11). -/
def decodeCtl (w : W32) : Option Instr :=
  let t := fld w 23 3
  let i := fld w 21 2
  match (fld w 26 6).toNat with
  | 0 => row (fld w 0 21 == 0#21) (.nop t i)
  | 1 => row (true) (.br t i (fld w 0 21))
  | 2 => row (fld w 0 18 == 0#18) (.brt t i (fld w 18 3))
  | 3 => row (fld w 0 18 == 0#18) (.mbr t i (fld w 18 3))
  | 4 => row (true) (.call t i (fld w 0 21))
  | 5 => row (fld w 0 21 == 0#21) (.ret t i)
  | 6 => if fld w 17 1 == 0#1 then some (.loopReg t i (fld w 18 3) (fld w 12 5) (fld w 0 12)) else if fld w 17 1 == 1#1 then some (.loopImm t i (fld w 18 3) (fld w 12 5) (fld w 0 12)) else none
  | 7 => row (fld w 0 18 == 0#18) (.lbrk t i (fld w 18 3))
  | 8 => if fld w 17 1 == 0#1 then some (.tgsetLabel t i (fld w 18 3) (fld w 0 17)) else if fld w 0 12 == 0#12 && fld w 17 1 == 1#1 then some (.tgsetReg t i (fld w 18 3) (fld w 12 5)) else none
  | 9 => row (fld w 16 5 == 0#5) (.idle t i (fld w 0 16))
  | 10 => row (fld w 0 21 == 0#21) (.cqclr t i)
  | 11 => row (fld w 0 21 == 0#21) (.wfe t i)
  | 12 => row (fld w 4 17 == 0#17) (.sev t i (fld w 0 4))
  | 13 => row (fld w 0 21 == 0#21) (.yield t i)
  | 14 => row (fld w 0 11 == 0#11) (.launch t i (fld w 16 5) (fld w 11 5))
  | 15 => row (fld w 0 21 == 0#21) (.retire t i)
  | 16 => row (fld w 0 11 == 0#11) (.xdisp t i (fld w 16 5) (fld w 11 5))
  | 17 => row (fld w 16 5 == 0#5) (.trap t i (fld w 0 16))
  | 18 => row (fld w 0 21 == 0#21) (.eret t i)
  | 19 => row (fld w 11 5 == 0#5) (.csrr t i (fld w 16 5) (fld w 0 11))
  | 20 => row (fld w 16 5 == 0#5) (.csrw t i (fld w 11 5) (fld w 0 11))
  | 21 => row (fld w 16 5 == 0#5) (.bkpt t i (fld w 0 16))
  | 22 => row (fld w 6 15 == 0#15) (.segld t i (fld w 0 6))
  | 23 => row (fld w 0 11 == 0#11 && fld w 16 2 == 0#2) (.cancel t i (fld w 18 3) (fld w 11 5))
  | _ => none

/-- The row that a word of slot 1 spells, by opcode and fixed bits (R48 Table 11). -/
def decodeSca (w : W32) : Option Instr :=
  let t := fld w 23 3
  let i := fld w 21 2
  match (fld w 26 6).toNat with
  | 0 => row (fld w 0 21 == 0#21) (.nop t i)
  | 1 => row (fld w 0 6 == 0#6) (.add t i (fld w 16 5) (fld w 11 5) (fld w 6 5))
  | 2 => row (fld w 0 6 == 0#6) (.sub t i (fld w 16 5) (fld w 11 5) (fld w 6 5))
  | 3 => row (fld w 0 6 == 0#6) (.mul t i (fld w 16 5) (fld w 11 5) (fld w 6 5))
  | 4 => row (fld w 0 6 == 0#6) (.mulh t i (fld w 16 5) (fld w 11 5) (fld w 6 5))
  | 5 => row (fld w 0 6 == 0#6) (.mulhu t i (fld w 16 5) (fld w 11 5) (fld w 6 5))
  | 6 => row (fld w 0 6 == 0#6) (.div t i (fld w 16 5) (fld w 11 5) (fld w 6 5))
  | 7 => row (fld w 0 6 == 0#6) (.divu t i (fld w 16 5) (fld w 11 5) (fld w 6 5))
  | 8 => row (fld w 0 6 == 0#6) (.rem t i (fld w 16 5) (fld w 11 5) (fld w 6 5))
  | 9 => row (fld w 0 6 == 0#6) (.remu t i (fld w 16 5) (fld w 11 5) (fld w 6 5))
  | 10 => row (fld w 0 6 == 0#6) (.and t i (fld w 16 5) (fld w 11 5) (fld w 6 5))
  | 11 => row (fld w 0 6 == 0#6) (.or t i (fld w 16 5) (fld w 11 5) (fld w 6 5))
  | 12 => row (fld w 0 6 == 0#6) (.xor t i (fld w 16 5) (fld w 11 5) (fld w 6 5))
  | 13 => row (fld w 0 6 == 0#6) (.shl t i (fld w 16 5) (fld w 11 5) (fld w 6 5))
  | 14 => row (fld w 0 6 == 0#6) (.shr t i (fld w 16 5) (fld w 11 5) (fld w 6 5))
  | 15 => row (fld w 0 6 == 0#6) (.sar t i (fld w 16 5) (fld w 11 5) (fld w 6 5))
  | 16 => row (fld w 0 6 == 0#6) (.rot t i (fld w 16 5) (fld w 11 5) (fld w 6 5))
  | 17 => row (fld w 0 6 == 0#6) (.min t i (fld w 16 5) (fld w 11 5) (fld w 6 5))
  | 18 => row (fld w 0 6 == 0#6) (.max t i (fld w 16 5) (fld w 11 5) (fld w 6 5))
  | 19 => row (fld w 0 6 == 0#6) (.minu t i (fld w 16 5) (fld w 11 5) (fld w 6 5))
  | 20 => row (fld w 0 6 == 0#6) (.maxu t i (fld w 16 5) (fld w 11 5) (fld w 6 5))
  | 21 => row (fld w 0 11 == 0#11) (.clz t i (fld w 16 5) (fld w 11 5))
  | 22 => row (fld w 0 11 == 0#11) (.ctz t i (fld w 16 5) (fld w 11 5))
  | 23 => row (fld w 0 11 == 0#11) (.popc t i (fld w 16 5) (fld w 11 5))
  | 24 => row (fld w 2 9 == 0#9) (.sext t i (fld w 16 5) (fld w 11 5) (fld w 0 2))
  | 25 => row (fld w 2 9 == 0#9) (.zext t i (fld w 16 5) (fld w 11 5) (fld w 0 2))
  | 26 => row (true) (.addi t i (fld w 16 5) (fld w 11 5) (fld w 0 11))
  | 27 => row (true) (.andi t i (fld w 16 5) (fld w 11 5) (fld w 0 11))
  | 28 => row (true) (.ori t i (fld w 16 5) (fld w 11 5) (fld w 0 11))
  | 29 => row (true) (.xori t i (fld w 16 5) (fld w 11 5) (fld w 0 11))
  | 30 => row (fld w 6 5 == 0#5) (.shli t i (fld w 16 5) (fld w 11 5) (fld w 0 6))
  | 31 => row (fld w 6 5 == 0#5) (.shri t i (fld w 16 5) (fld w 11 5) (fld w 0 6))
  | 32 => row (fld w 6 5 == 0#5) (.sari t i (fld w 16 5) (fld w 11 5) (fld w 0 6))
  | 33 => row (true) (.li t i (fld w 16 5) (fld w 0 16))
  | 34 => row (true) (.lih t i (fld w 16 5) (fld w 0 16))
  | 35 => row (fld w 4 2 == 0#2 && fld w 16 5 == 0#5) (.cmp t i (fld w 11 5) (fld w 6 5) (fld w 0 4))
  | 36 => row (true) (.cmpi t i (fld w 16 5) (fld w 11 5) (fld w 0 11))
  | 37 => row (fld w 5 1 == 0#1) (.sel t i (fld w 16 5) (fld w 11 5) (fld w 6 5) (fld w 0 5))
  | 38 => row (fld w 3 8 == 0#8 && fld w 19 2 == 0#2) (.agset t i (fld w 16 3) (fld w 11 5) (fld w 0 3))
  | 39 => row (fld w 0 11 == 0#11 && fld w 19 2 == 0#2) (.agstep t i (fld w 16 3) (fld w 11 5))
  | 40 => row (fld w 3 8 == 0#8 && fld w 14 2 == 0#2) (.agrd t i (fld w 16 5) (fld w 11 3) (fld w 0 3))
  | 41 => row (fld w 0 11 == 0#11 && fld w 16 5 == 0#5) (.cqpush t i (fld w 11 5))
  | _ => none

/-- The row that a word of slot 2 spells, by opcode and fixed bits (R48 Table 11). -/
def decodeVa (w : W32) : Option Instr :=
  let t := fld w 23 3
  let i := fld w 21 2
  match (fld w 26 6).toNat with
  | 0 => row (fld w 0 21 == 0#21) (.nop t i)
  | 1 => row (true) (.vaddVa t i (fld w 16 5) (fld w 11 5) (fld w 6 5) (fld w 4 2) (fld w 1 3) (fld w 0 1))
  | 2 => row (true) (.vsubVa t i (fld w 16 5) (fld w 11 5) (fld w 6 5) (fld w 4 2) (fld w 1 3) (fld w 0 1))
  | 3 => row (true) (.vmulVa t i (fld w 16 5) (fld w 11 5) (fld w 6 5) (fld w 4 2) (fld w 1 3) (fld w 0 1))
  | 4 => row (true) (.vfmaVa t i (fld w 16 5) (fld w 11 5) (fld w 6 5) (fld w 4 2) (fld w 1 3) (fld w 0 1))
  | 5 => row (true) (.vfms t i (fld w 16 5) (fld w 11 5) (fld w 6 5) (fld w 4 2) (fld w 1 3) (fld w 0 1))
  | 6 => row (true) (.vminVa t i (fld w 16 5) (fld w 11 5) (fld w 6 5) (fld w 4 2) (fld w 1 3) (fld w 0 1))
  | 7 => row (true) (.vmaxVa t i (fld w 16 5) (fld w 11 5) (fld w 6 5) (fld w 4 2) (fld w 1 3) (fld w 0 1))
  | 8 => row (fld w 6 5 == 0#5) (.vabs t i (fld w 16 5) (fld w 11 5) (fld w 4 2) (fld w 1 3) (fld w 0 1))
  | 9 => row (fld w 6 5 == 0#5) (.vneg t i (fld w 16 5) (fld w 11 5) (fld w 4 2) (fld w 1 3) (fld w 0 1))
  | 10 => row (true) (.vand t i (fld w 16 5) (fld w 11 5) (fld w 6 5) (fld w 4 2) (fld w 1 3) (fld w 0 1))
  | 11 => row (true) (.vor t i (fld w 16 5) (fld w 11 5) (fld w 6 5) (fld w 4 2) (fld w 1 3) (fld w 0 1))
  | 12 => row (true) (.vxor t i (fld w 16 5) (fld w 11 5) (fld w 6 5) (fld w 4 2) (fld w 1 3) (fld w 0 1))
  | 13 => row (fld w 6 5 == 0#5) (.vnot t i (fld w 16 5) (fld w 11 5) (fld w 4 2) (fld w 1 3) (fld w 0 1))
  | 14 => row (true) (.vshl t i (fld w 16 5) (fld w 11 5) (fld w 6 5) (fld w 4 2) (fld w 1 3) (fld w 0 1))
  | 15 => row (true) (.vshr t i (fld w 16 5) (fld w 11 5) (fld w 6 5) (fld w 4 2) (fld w 1 3) (fld w 0 1))
  | 16 => row (true) (.vsar t i (fld w 16 5) (fld w 11 5) (fld w 6 5) (fld w 4 2) (fld w 1 3) (fld w 0 1))
  | 17 => row (fld w 16 2 == 0#2) (.vcmp t i (fld w 18 3) (fld w 11 5) (fld w 6 5) (fld w 4 2) (fld w 1 3) (fld w 0 1))
  | 18 => row (true) (.vsel t i (fld w 16 5) (fld w 11 5) (fld w 6 5) (fld w 4 2) (fld w 1 3) (fld w 0 1))
  | 19 => row (fld w 0 1 == 0#1 && fld w 3 1 == 0#1 && fld w 6 1 == 0#1) (.vcvt t i (fld w 16 5) (fld w 11 5) (fld w 7 4) (fld w 4 2) (fld w 1 2))
  | 20 => row (fld w 6 5 == 0#5) (.vmov t i (fld w 16 5) (fld w 11 5) (fld w 4 2) (fld w 1 3) (fld w 0 1))
  | 21 => row (fld w 6 5 == 0#5) (.vbcast t i (fld w 16 5) (fld w 11 5) (fld w 4 2) (fld w 1 3) (fld w 0 1))
  | 22 => row (true) (.vli t i (fld w 16 5) (fld w 0 16))
  | 23 => row (fld w 0 11 == 0#11 && fld w 18 3 == 0#3) (.vshape t i (fld w 16 2) (fld w 11 5))
  | 24 => row (fld w 0 4 == 0#4 && fld w 6 5 == 0#5 && fld w 16 5 == 0#5) (.vrlen t i (fld w 11 5) (fld w 4 2))
  | 25 => row (true) (.vbmm t i (fld w 16 5) (fld w 11 5) (fld w 6 5) (fld w 4 2) (fld w 1 3) (fld w 0 1))
  | 26 => row (fld w 1 1 == 0#1) (.vsat t i (fld w 16 5) (fld w 11 5) (fld w 6 5) (fld w 4 2) (fld w 2 2) (fld w 0 1))
  | 27 => row (true) (.vclamp t i (fld w 16 5) (fld w 11 5) (fld w 6 5) (fld w 4 2) (fld w 1 3) (fld w 0 1))
  | 28 => row (fld w 6 15 == 0#15) (.vany t i (fld w 4 2) (fld w 1 3) (fld w 0 1))
  | 29 => row (fld w 6 15 == 0#15) (.vall t i (fld w 4 2) (fld w 1 3) (fld w 0 1))
  | 30 => row (fld w 0 8 == 0#8) (.kop t i (fld w 18 3) (fld w 15 3) (fld w 12 3) (fld w 8 4))
  | 31 => if fld w 0 7 == 0#7 && fld w 12 1 == 0#1 then some (.vacrVaImm t i (fld w 16 5) (fld w 13 3) (fld w 7 5)) else if fld w 0 7 == 0#7 && fld w 12 1 == 1#1 then some (.vacrVaReg t i (fld w 16 5) (fld w 13 3) (fld w 7 5)) else none
  | 32 => if fld w 0 7 == 0#7 && fld w 12 1 == 0#1 then some (.vacwVaImm t i (fld w 16 5) (fld w 13 3) (fld w 7 5)) else if fld w 0 7 == 0#7 && fld w 12 1 == 1#1 then some (.vacwVaReg t i (fld w 16 5) (fld w 13 3) (fld w 7 5)) else none
  | 33 => row (true) (.vext t i (fld w 16 5) (fld w 11 5) (fld w 6 5) (fld w 0 6))
  | _ => none

/-- The row that a word of slot 3 spells, by opcode and fixed bits (R48 Table 11). -/
def decodeVb (w : W32) : Option Instr :=
  let t := fld w 23 3
  let i := fld w 21 2
  match (fld w 26 6).toNat with
  | 0 => row (fld w 0 21 == 0#21) (.nop t i)
  | 1 => row (true) (.vaddVb t i (fld w 16 5) (fld w 11 5) (fld w 6 5) (fld w 4 2) (fld w 1 3) (fld w 0 1))
  | 2 => row (true) (.vsubVb t i (fld w 16 5) (fld w 11 5) (fld w 6 5) (fld w 4 2) (fld w 1 3) (fld w 0 1))
  | 3 => row (true) (.vmulVb t i (fld w 16 5) (fld w 11 5) (fld w 6 5) (fld w 4 2) (fld w 1 3) (fld w 0 1))
  | 4 => row (true) (.vfmaVb t i (fld w 16 5) (fld w 11 5) (fld w 6 5) (fld w 4 2) (fld w 1 3) (fld w 0 1))
  | 5 => row (true) (.vminVb t i (fld w 16 5) (fld w 11 5) (fld w 6 5) (fld w 4 2) (fld w 1 3) (fld w 0 1))
  | 6 => row (true) (.vmaxVb t i (fld w 16 5) (fld w 11 5) (fld w 6 5) (fld w 4 2) (fld w 1 3) (fld w 0 1))
  | 7 => row (fld w 6 5 == 0#5) (.vexp2 t i (fld w 16 5) (fld w 11 5) (fld w 4 2) (fld w 1 3) (fld w 0 1))
  | 8 => row (fld w 6 5 == 0#5) (.vlog2 t i (fld w 16 5) (fld w 11 5) (fld w 4 2) (fld w 1 3) (fld w 0 1))
  | 9 => row (fld w 6 5 == 0#5) (.vrcp t i (fld w 16 5) (fld w 11 5) (fld w 4 2) (fld w 1 3) (fld w 0 1))
  | 10 => row (fld w 6 5 == 0#5) (.vrsqrt t i (fld w 16 5) (fld w 11 5) (fld w 4 2) (fld w 1 3) (fld w 0 1))
  | 11 => row (fld w 6 5 == 0#5) (.vsqrt t i (fld w 16 5) (fld w 11 5) (fld w 4 2) (fld w 1 3) (fld w 0 1))
  | 12 => row (true) (.vdiv t i (fld w 16 5) (fld w 11 5) (fld w 6 5) (fld w 4 2) (fld w 1 3) (fld w 0 1))
  | 13 => row (fld w 6 5 == 0#5) (.vtanh t i (fld w 16 5) (fld w 11 5) (fld w 4 2) (fld w 1 3) (fld w 0 1))
  | 14 => row (fld w 6 5 == 0#5) (.vsigm t i (fld w 16 5) (fld w 11 5) (fld w 4 2) (fld w 1 3) (fld w 0 1))
  | 15 => row (fld w 6 5 == 0#5) (.vrsum t i (fld w 16 5) (fld w 11 5) (fld w 4 2) (fld w 1 3) (fld w 0 1))
  | 16 => row (fld w 6 5 == 0#5) (.vrmax t i (fld w 16 5) (fld w 11 5) (fld w 4 2) (fld w 1 3) (fld w 0 1))
  | 17 => row (fld w 6 5 == 0#5) (.vrmin t i (fld w 16 5) (fld w 11 5) (fld w 4 2) (fld w 1 3) (fld w 0 1))
  | 18 => row (fld w 6 5 == 0#5) (.vargmax t i (fld w 16 5) (fld w 11 5) (fld w 4 2) (fld w 1 3) (fld w 0 1))
  | 19 => row (fld w 6 5 == 0#5) (.vscan t i (fld w 16 5) (fld w 11 5) (fld w 4 2) (fld w 1 3) (fld w 0 1))
  | 20 => row (true) (.vperm t i (fld w 16 5) (fld w 11 5) (fld w 6 5) (fld w 4 2) (fld w 1 3) (fld w 0 1))
  | 21 => row (fld w 0 4 == 0#4 && fld w 6 5 == 0#5) (.vtrans t i (fld w 16 5) (fld w 11 5) (fld w 4 2))
  | 22 => row (fld w 0 1 == 0#1 && fld w 6 5 == 0#5) (.vcompact t i (fld w 16 5) (fld w 11 5) (fld w 4 2) (fld w 1 3))
  | 23 => row (fld w 0 1 == 0#1 && fld w 6 5 == 0#5) (.vexpand t i (fld w 16 5) (fld w 11 5) (fld w 4 2) (fld w 1 3))
  | 24 => row (fld w 0 1 == 0#1) (.vrot t i (fld w 16 5) (fld w 11 5) (fld w 6 5) (fld w 4 2) (fld w 1 3))
  | 25 => if fld w 0 7 == 0#7 && fld w 12 1 == 0#1 then some (.vacrVbImm t i (fld w 16 5) (fld w 13 3) (fld w 7 5)) else if fld w 0 7 == 0#7 && fld w 12 1 == 1#1 then some (.vacrVbReg t i (fld w 16 5) (fld w 13 3) (fld w 7 5)) else none
  | 26 => if fld w 0 7 == 0#7 && fld w 12 1 == 0#1 then some (.vacwVbImm t i (fld w 16 5) (fld w 13 3) (fld w 7 5)) else if fld w 0 7 == 0#7 && fld w 12 1 == 1#1 then some (.vacwVbReg t i (fld w 16 5) (fld w 13 3) (fld w 7 5)) else none
  | 27 => row (fld w 6 5 == 0#5) (.vround t i (fld w 16 5) (fld w 11 5) (fld w 4 2) (fld w 1 3) (fld w 0 1))
  | _ => none

/-- The row that a word of slot 4 spells, by opcode and fixed bits (R48 Table 11). -/
def decodeMx (w : W32) : Option Instr :=
  let t := fld w 23 3
  let i := fld w 21 2
  match (fld w 26 6).toNat with
  | 0 => row (fld w 0 21 == 0#21) (.nop t i)
  | 1 => row (fld w 0 7 == 0#7) (.mcall t i (fld w 13 8) (fld w 10 3) (fld w 9 1) (fld w 8 1) (fld w 7 1))
  | 2 => row (fld w 0 11 == 0#11 && fld w 16 2 == 0#2) (.mpset t i (fld w 18 3) (fld w 11 5))
  | 3 => row (fld w 0 13 == 0#13) (.mpget t i (fld w 16 5) (fld w 13 3))
  | 4 => row (fld w 0 11 == 0#11 && fld w 16 5 == 0#5) (.mload t i (fld w 11 5))
  | 5 => row (fld w 0 16 == 0#16) (.aclass t i (fld w 18 3) (fld w 16 2))
  | 6 => row (fld w 0 18 == 0#18) (.aclr t i (fld w 18 3))
  | 7 => row (fld w 0 13 == 0#13) (.acmv t i (fld w 18 3) (fld w 15 3) (fld w 13 2))
  | 8 => if fld w 0 21 == 0#21 then some (.mwaitAll t i) else if fld w 0 17 == 0#17 && fld w 20 1 == 1#1 then some (.mwaitBank t i (fld w 17 3)) else none
  | 9 => row (fld w 2 19 == 0#19) (.sqclr t i (fld w 0 2))
  | 10 => row (fld w 0 11 == 0#11 && fld w 16 1 == 0#1) (.ftset t i (fld w 17 4) (fld w 11 5))
  | 11 => row (fld w 0 18 == 0#18) (.ftsel t i (fld w 18 3))
  | 12 => row (fld w 0 11 == 0#11 && fld w 16 2 == 0#2) (.finit t i (fld w 18 3) (fld w 11 5))
  | 13 => row (fld w 0 6 == 0#6 && fld w 16 2 == 0#2) (.fins t i (fld w 18 3) (fld w 11 5) (fld w 6 5))
  | 14 => row (fld w 0 15 == 0#15) (.fmrg t i (fld w 18 3) (fld w 15 3))
  | 15 => row (fld w 0 8 == 0#8) (.frd t i (fld w 16 5) (fld w 13 3) (fld w 8 5))
  | 16 => row (fld w 0 10 == 0#10) (.fcnt t i (fld w 16 5) (fld w 13 3) (fld w 10 3))
  | 17 => row (fld w 0 18 == 0#18) (.fclr t i (fld w 18 3))
  | _ => none

/-- The row that a word of slot 5 spells, by opcode and fixed bits (R48 Table 11). -/
def decodeMt (w : W32) : Option Instr :=
  let t := fld w 23 3
  let i := fld w 21 2
  match (fld w 26 6).toNat with
  | 0 => row (fld w 0 21 == 0#21) (.nop t i)
  | 1 => if fld w 6 1 == 1#1 then some (.tallocImm t i (fld w 12 9) (fld w 7 5) (fld w 0 6)) else if fld w 5 2 == 0#2 then some (.tallocReg t i (fld w 12 9) (fld w 7 5) (fld w 0 5)) else none
  | 2 => row (true) (.tld t i (fld w 12 9) (fld w 10 2) (fld w 5 5) (fld w 0 5))
  | 3 => row (fld w 10 2 == 0#2) (.tst t i (fld w 12 9) (fld w 5 5) (fld w 0 5))
  | 4 => if fld w 11 1 == 1#1 then some (.tcntImm t i (fld w 12 9) (fld w 0 11)) else if fld w 0 6 == 0#6 && fld w 11 1 == 0#1 then some (.tcntReg t i (fld w 12 9) (fld w 6 5)) else none
  | 5 => row (fld w 0 12 == 0#12) (.tdrop t i (fld w 12 9))
  | 6 => if fld w 0 12 == 0#12 then some (.tparkTile t i (fld w 12 9)) else if fld w 0 6 == 0#6 && fld w 11 10 == 1#10 then some (.tparkReg t i (fld w 6 5)) else none
  | 7 => if fld w 0 12 == 0#12 then some (.tunparkTile t i (fld w 12 9)) else if fld w 0 6 == 0#6 && fld w 11 10 == 1#10 then some (.tunparkReg t i (fld w 6 5)) else none
  | 8 => row (fld w 0 5 == 0#5 && fld w 10 2 == 0#2) (.tstat t i (fld w 12 9) (fld w 5 5))
  | 9 => row (fld w 0 2 == 0#2 && fld w 20 1 == 0#1) (.tplane t i (fld w 12 8) (fld w 4 8) (fld w 2 2))
  | 10 => row (fld w 0 4 == 0#4 && fld w 20 1 == 0#1) (.hbind t i (fld w 12 8) (fld w 8 4) (fld w 4 4))
  | 11 => row (fld w 0 8 == 0#8 && fld w 12 4 == 0#4 && fld w 20 1 == 1#1) (.hadvp t i (fld w 16 4) (fld w 8 4))
  | 12 => row (fld w 0 8 == 0#8 && fld w 12 4 == 0#4 && fld w 20 1 == 1#1) (.hadvc t i (fld w 16 4) (fld w 8 4))
  | 13 => if fld w 0 5 == 0#5 && fld w 7 9 == 7#9 && fld w 20 1 == 1#1 then some (.qbind t i (fld w 16 4) (fld w 5 2)) else if fld w 0 5 == 0#5 && fld w 7 14 == 23#14 then some (.qbindUnbind t i (fld w 5 2)) else none
  | 14 => row (fld w 5 4 == 0#4) (.sqld t i (fld w 12 9) (fld w 10 2) (fld w 9 1) (fld w 0 5))
  | 15 => row (fld w 0 12 == 0#12) (.tshare t i (fld w 12 9))
  | 16 => row (true) (.tlw t i (fld w 12 9) (fld w 10 2) (fld w 5 5) (fld w 0 5))
  | 17 => row (fld w 10 2 == 0#2) (.tsw t i (fld w 12 9) (fld w 5 5) (fld w 0 5))
  | 18 => row (true) (.tatom t i (fld w 12 9) (fld w 10 2) (fld w 5 5) (fld w 0 5))
  | 19 => row (fld w 0 5 == 0#5 && fld w 12 9 == 0#9) (.tquota t i (fld w 10 2) (fld w 5 5))
  | _ => none

/-- The row that a word of slot 6 spells, by opcode and fixed bits (R48 Table 11). -/
def decodeMc (w : W32) : Option Instr :=
  let t := fld w 23 3
  let i := fld w 21 2
  match (fld w 26 6).toNat with
  | 0 => row (fld w 0 21 == 0#21) (.nop t i)
  | 1 => row (true) (.cld t i (fld w 12 9) (fld w 10 2) (fld w 5 5) (fld w 0 5))
  | 2 => row (fld w 10 2 == 0#2) (.cst t i (fld w 12 9) (fld w 5 5) (fld w 0 5))
  | 3 => row (fld w 5 5 == 0#5) (.ccopy t i (fld w 12 9) (fld w 10 2) (fld w 0 5))
  | 4 => row (fld w 10 2 == 0#2) (.ccnt t i (fld w 12 9) (fld w 5 5) (fld w 0 5))
  | 5 => row (true) (.clw t i (fld w 12 9) (fld w 10 2) (fld w 5 5) (fld w 0 5))
  | 6 => row (fld w 10 2 == 0#2) (.csw t i (fld w 12 9) (fld w 5 5) (fld w 0 5))
  | 7 => row (true) (.catom t i (fld w 12 9) (fld w 10 2) (fld w 5 5) (fld w 0 5))
  | 8 => if fld w 9 1 == 1#1 then some (.binitImm t i (fld w 10 11) (fld w 0 9)) else if fld w 0 4 == 0#4 && fld w 9 1 == 0#1 then some (.binitReg t i (fld w 10 11) (fld w 4 5)) else none
  | 9 => if fld w 0 10 == 0#10 then some (.barv t i (fld w 10 11)) else if fld w 0 4 == 0#4 && fld w 9 1 == 1#1 then some (.barvRemote t i (fld w 10 11) (fld w 4 5)) else none
  | 10 => row (fld w 0 10 == 0#10) (.bwait t i (fld w 10 11))
  | 11 => row (fld w 0 4 == 0#4 && fld w 9 1 == 0#1) (.bexp t i (fld w 10 11) (fld w 4 5))
  | 12 => row (fld w 0 10 == 0#10) (.btry t i (fld w 10 11))
  | 13 => row (fld w 9 12 == 0#12) (.csev t i (fld w 4 5) (fld w 0 4))
  | _ => none

/-- The row that a word of slot 7 spells, by opcode and fixed bits (R48 Table 11). -/
def decodeMg (w : W32) : Option Instr :=
  let t := fld w 23 3
  let i := fld w 21 2
  match (fld w 26 6).toNat with
  | 0 => row (fld w 0 21 == 0#21) (.nop t i)
  | 1 => row (fld w 0 7 == 0#7) (.gls t i (fld w 16 5) (fld w 10 6) (fld w 7 3))
  | 2 => row (fld w 0 7 == 0#7) (.gss t i (fld w 16 5) (fld w 10 6) (fld w 7 3))
  | 3 => row (fld w 0 10 == 0#10) (.gvst t i (fld w 16 5) (fld w 10 6))
  | 4 => if fld w 8 1 == 1#1 then some (.gfetchImm t i (fld w 12 9) (fld w 9 3) (fld w 3 5) (fld w 0 3)) else if fld w 8 1 == 0#1 then some (.gfetchReg t i (fld w 12 9) (fld w 9 3) (fld w 3 5) (fld w 0 3)) else none
  | 5 => row (fld w 0 4 == 0#4) (.ggather t i (fld w 12 9) (fld w 9 3) (fld w 4 5))
  | 6 => row (fld w 0 2 == 0#2) (.gscatter t i (fld w 12 9) (fld w 9 3) (fld w 4 5) (fld w 2 2))
  | 7 => row (fld w 3 4 == 0#4) (.gstore t i (fld w 12 9) (fld w 9 3) (fld w 7 2) (fld w 0 3))
  | 8 => row (fld w 3 7 == 0#7) (.gcopy t i (fld w 18 3) (fld w 15 3) (fld w 10 5) (fld w 0 3))
  | 9 => row (true) (.gatom t i (fld w 16 5) (fld w 10 6) (fld w 5 5) (fld w 3 2) (fld w 0 3))
  | 10 => row (fld w 3 2 == 0#2) (.gcas t i (fld w 16 5) (fld w 10 6) (fld w 5 5) (fld w 0 3))
  | 11 => row (fld w 0 6 == 0#6 && fld w 16 5 == 0#5) (.gwait t i (fld w 11 5) (fld w 6 5))
  | 12 => row (fld w 3 8 == 0#8 && fld w 16 5 == 0#5) (.gacq t i (fld w 11 5) (fld w 0 3))
  | 13 => row (fld w 3 8 == 0#8 && fld w 16 5 == 0#5) (.grel t i (fld w 11 5) (fld w 0 3))
  | 14 => row (fld w 0 6 == 0#6) (.gbind t i (fld w 16 5) (fld w 11 5) (fld w 6 5))
  | 15 => row (fld w 0 6 == 0#6 && fld w 11 5 == 0#5) (.gunbind t i (fld w 16 5) (fld w 6 5))
  | 16 => row (fld w 4 17 == 0#17) (.gqfence t i (fld w 0 4))
  | 17 => row (fld w 3 8 == 0#8 && fld w 16 5 == 0#5) (.gsluicePromote t i (fld w 11 5) (fld w 0 3))
  | 18 => row (fld w 3 8 == 0#8 && fld w 16 5 == 0#5) (.gskimSelect t i (fld w 11 5) (fld w 0 3))
  | 19 => row (fld w 3 8 == 0#8 && fld w 16 5 == 0#5) (.gcollAllreduce t i (fld w 11 5) (fld w 0 3))
  | 20 => row (fld w 3 8 == 0#8 && fld w 16 5 == 0#5) (.gsendData t i (fld w 11 5) (fld w 0 3))
  | 21 => row (fld w 3 8 == 0#8 && fld w 16 5 == 0#5) (.grecv t i (fld w 11 5) (fld w 0 3))
  | 22 => row (fld w 0 5 == 0#5 && fld w 16 5 == 0#5) (.gpref t i (fld w 10 6) (fld w 5 5))
  | 23 => row (fld w 0 4 == 0#4 && fld w 16 5 == 0#5) (.gtlbi t i (fld w 11 5) (fld w 6 5) (fld w 4 2))
  | _ => none

/-- The opcodes that R48 Table 11 assigns in a slot: 0 and a run from 1. -/
def assigned (slot : Nat) (op : BitVec 6) : Bool :=
  let n := op.toNat
  match slot with
  | 0 => n ≤ 0x17
  | 1 => n ≤ 0x29
  | 2 => n ≤ 0x21
  | 3 => n ≤ 0x1B
  | 4 => n ≤ 0x11
  | 5 => n ≤ 0x13
  | 6 => n ≤ 0x0D
  | 7 => n ≤ 0x17
  | _ => false

/-- The slot's decoder without the well-formedness check. -/
def decodeRaw (slot : Nat) (w : W32) : Option Instr :=
  match slot with
  | 0 => decodeCtl w
  | 1 => decodeSca w
  | 2 => decodeVa w
  | 3 => decodeVb w
  | 4 => decodeMx w
  | 5 => decodeMt w
  | 6 => decodeMc w
  | 7 => decodeMg w
  | _ => none

/-- The instruction of a word that stands in a slot, or the name under which it is rejected (R35, R48). -/
def decodeSlot (slot : Nat) (w : W32) : Except Reject Instr :=
  if assigned slot (fld w 26 6) then
    if fld w 23 3 == 6#3 then .error (.reservedTag slot)
    else match decodeRaw slot w with
      | none => .error (.reservedBits slot)
      | some i => if i.wf then .ok i else .error (.reservedField slot)
  else .error (.unassigned slot)

/-- A header, or its rejection (R28, R35). -/
def decodeHeader (w : W32) : Except Reject Header :=
  let h : Header := ⟨fld w 19 3, w.getLsbD 18, w.getLsbD 17, fld w 14 3, w.getLsbD 13, w.getLsbD 12, fld w 8 4, fld w 0 8⟩
  if fld w 22 10 != 0#10 then .error .headerReserved
  else if 5 < h.lvl.toNat || 4 < h.nt.toNat then .error .headerField
  else .ok h

/-- The header's word. -/
def encodeHeader (h : Header) : W32 :=
  (0#10 ++ h.lvl ++ BitVec.ofBool h.trc ++ BitVec.ofBool h.seg ++ h.nt ++ BitVec.ofBool h.syn ++ BitVec.ofBool h.drn ++
    h.pop ++ h.pres)

/-- The slots whose PRES bit is set, ascending (R27). -/
def presSlots (pres : BitVec 8) : List Nat := (List.range 8).filter fun n => pres.getLsbD n

/-- The length of a bundle in words (R27). -/
def bundleLen (w : W32) : Nat := 1 + (presSlots (fld w 0 8)).length

/-- The slot words of a bundle, in ascending slot order, with their instructions. -/
def decodeWords : List Nat → List W32 → Except Reject (List (Nat × W32 × Instr))
  | [], _ => .ok []
  | _ :: _, [] => .error .shortBundle
  | n :: ns, w :: ws =>
    match decodeSlot n w with
    | .error e => .error e
    | .ok i =>
      match decodeWords ns ws with
      | .error e => .error e
      | .ok r => .ok ((n, w, i) :: r)

/-- A bundle from the words at its address (R27). -/
def decodeBundle : List W32 → Except Reject (Header × List (Nat × W32 × Instr))
  | [] => .error .shortBundle
  | w :: ws =>
    match decodeHeader w with
    | .error e => .error e
    | .ok h =>
      match decodeWords (presSlots h.pres) ws with
      | .error e => .error e
      | .ok r => .ok (h, r)

/-- A word from four bytes, the lowest address first (R6). -/
def wordOfBytes (a b c d : Byte) : W32 := d ++ c ++ b ++ a

/-- The words of a run of bytes; a rest of fewer than four bytes gives none. -/
def wordsOfBytes : List Byte → List W32
  | a :: b :: c :: d :: r => wordOfBytes a b c d :: wordsOfBytes r
  | _ => []

/-- A bundle from bytes. -/
def decodeBytes (bs : List Byte) : Except Reject (Header × List (Nat × W32 × Instr)) := decodeBundle (wordsOfBytes bs)

/-- A routine word (R232 Table 4); every bit without a meaning is reserved. -/
def decodeRoutine (w : W64) : Option Instr :=
  match (fld w 58 6).toNat with
  | 0 => row (fld w 0 58 == 0#58) .rwEnd
  | 1 => row (fld w 0 58 == 0#58) .rwLda
  | 2 => row (fld w 0 58 == 0#58) .rwLdb
  | 3 => row (fld w 0 58 == 0#58) .rwStep
  | 4 => row (fld w 11 47 == 0#47) (.rwSkip (fld w 0 11))
  | 5 => row (fld w 0 58 == 0#58) .rwSpop
  | 6 => row (fld w 1 57 == 0#57) (.rwProm (w.getLsbD 0))
  | 7 => row (fld w 0 58 == 0#58) .rwKadv
  | 8 => row (fld w 11 47 == 0#47) (.rwJmore (fld w 0 11))
  | 9 => row (fld w 2 56 == 0#56) (.rwBwr (fld w 0 2))
  | _ => none

/-- The word of a routine instruction (R232 Table 4). -/
def encodeRoutine : Instr → Option W64
  | .rwEnd => some 0#64
  | .rwLda => some (1#6 ++ 0#58)
  | .rwLdb => some (2#6 ++ 0#58)
  | .rwStep => some (3#6 ++ 0#58)
  | .rwSkip g => some (4#6 ++ 0#47 ++ g)
  | .rwSpop => some (5#6 ++ 0#58)
  | .rwProm b => some (6#6 ++ 0#57 ++ BitVec.ofBool b)
  | .rwKadv => some (7#6 ++ 0#58)
  | .rwJmore g => some (8#6 ++ 0#47 ++ g)
  | .rwBwr e => some (9#6 ++ 0#56 ++ e)
  | _ => none

/-- The slot of a slot word (R26); `nop` goes in any slot, and is given slot 0. -/
def slotOf : Instr → Option Nat
  | .nop _ _ => some 0
  | .br _ _ _ => some 0
  | .brt _ _ _ => some 0
  | .mbr _ _ _ => some 0
  | .call _ _ _ => some 0
  | .ret _ _ => some 0
  | .loopReg _ _ _ _ _ => some 0
  | .loopImm _ _ _ _ _ => some 0
  | .lbrk _ _ _ => some 0
  | .tgsetLabel _ _ _ _ => some 0
  | .tgsetReg _ _ _ _ => some 0
  | .idle _ _ _ => some 0
  | .cqclr _ _ => some 0
  | .wfe _ _ => some 0
  | .sev _ _ _ => some 0
  | .yield _ _ => some 0
  | .launch _ _ _ _ => some 0
  | .retire _ _ => some 0
  | .xdisp _ _ _ _ => some 0
  | .trap _ _ _ => some 0
  | .eret _ _ => some 0
  | .csrr _ _ _ _ => some 0
  | .csrw _ _ _ _ => some 0
  | .bkpt _ _ _ => some 0
  | .segld _ _ _ => some 0
  | .cancel _ _ _ _ => some 0
  | .add _ _ _ _ _ => some 1
  | .sub _ _ _ _ _ => some 1
  | .mul _ _ _ _ _ => some 1
  | .mulh _ _ _ _ _ => some 1
  | .mulhu _ _ _ _ _ => some 1
  | .div _ _ _ _ _ => some 1
  | .divu _ _ _ _ _ => some 1
  | .rem _ _ _ _ _ => some 1
  | .remu _ _ _ _ _ => some 1
  | .and _ _ _ _ _ => some 1
  | .or _ _ _ _ _ => some 1
  | .xor _ _ _ _ _ => some 1
  | .shl _ _ _ _ _ => some 1
  | .shr _ _ _ _ _ => some 1
  | .sar _ _ _ _ _ => some 1
  | .rot _ _ _ _ _ => some 1
  | .min _ _ _ _ _ => some 1
  | .max _ _ _ _ _ => some 1
  | .minu _ _ _ _ _ => some 1
  | .maxu _ _ _ _ _ => some 1
  | .clz _ _ _ _ => some 1
  | .ctz _ _ _ _ => some 1
  | .popc _ _ _ _ => some 1
  | .sext _ _ _ _ _ => some 1
  | .zext _ _ _ _ _ => some 1
  | .addi _ _ _ _ _ => some 1
  | .andi _ _ _ _ _ => some 1
  | .ori _ _ _ _ _ => some 1
  | .xori _ _ _ _ _ => some 1
  | .shli _ _ _ _ _ => some 1
  | .shri _ _ _ _ _ => some 1
  | .sari _ _ _ _ _ => some 1
  | .li _ _ _ _ => some 1
  | .lih _ _ _ _ => some 1
  | .cmp _ _ _ _ _ => some 1
  | .cmpi _ _ _ _ _ => some 1
  | .sel _ _ _ _ _ _ => some 1
  | .agset _ _ _ _ _ => some 1
  | .agstep _ _ _ _ => some 1
  | .agrd _ _ _ _ _ => some 1
  | .cqpush _ _ _ => some 1
  | .vaddVa _ _ _ _ _ _ _ _ => some 2
  | .vsubVa _ _ _ _ _ _ _ _ => some 2
  | .vmulVa _ _ _ _ _ _ _ _ => some 2
  | .vfmaVa _ _ _ _ _ _ _ _ => some 2
  | .vfms _ _ _ _ _ _ _ _ => some 2
  | .vminVa _ _ _ _ _ _ _ _ => some 2
  | .vmaxVa _ _ _ _ _ _ _ _ => some 2
  | .vabs _ _ _ _ _ _ _ => some 2
  | .vneg _ _ _ _ _ _ _ => some 2
  | .vand _ _ _ _ _ _ _ _ => some 2
  | .vor _ _ _ _ _ _ _ _ => some 2
  | .vxor _ _ _ _ _ _ _ _ => some 2
  | .vnot _ _ _ _ _ _ _ => some 2
  | .vshl _ _ _ _ _ _ _ _ => some 2
  | .vshr _ _ _ _ _ _ _ _ => some 2
  | .vsar _ _ _ _ _ _ _ _ => some 2
  | .vcmp _ _ _ _ _ _ _ _ => some 2
  | .vsel _ _ _ _ _ _ _ _ => some 2
  | .vcvt _ _ _ _ _ _ _ => some 2
  | .vmov _ _ _ _ _ _ _ => some 2
  | .vbcast _ _ _ _ _ _ _ => some 2
  | .vli _ _ _ _ => some 2
  | .vshape _ _ _ _ => some 2
  | .vrlen _ _ _ _ => some 2
  | .vbmm _ _ _ _ _ _ _ _ => some 2
  | .vsat _ _ _ _ _ _ _ _ => some 2
  | .vclamp _ _ _ _ _ _ _ _ => some 2
  | .vany _ _ _ _ _ => some 2
  | .vall _ _ _ _ _ => some 2
  | .kop _ _ _ _ _ _ => some 2
  | .vacrVaImm _ _ _ _ _ => some 2
  | .vacrVaReg _ _ _ _ _ => some 2
  | .vacwVaImm _ _ _ _ _ => some 2
  | .vacwVaReg _ _ _ _ _ => some 2
  | .vext _ _ _ _ _ _ => some 2
  | .vaddVb _ _ _ _ _ _ _ _ => some 3
  | .vsubVb _ _ _ _ _ _ _ _ => some 3
  | .vmulVb _ _ _ _ _ _ _ _ => some 3
  | .vfmaVb _ _ _ _ _ _ _ _ => some 3
  | .vminVb _ _ _ _ _ _ _ _ => some 3
  | .vmaxVb _ _ _ _ _ _ _ _ => some 3
  | .vexp2 _ _ _ _ _ _ _ => some 3
  | .vlog2 _ _ _ _ _ _ _ => some 3
  | .vrcp _ _ _ _ _ _ _ => some 3
  | .vrsqrt _ _ _ _ _ _ _ => some 3
  | .vsqrt _ _ _ _ _ _ _ => some 3
  | .vdiv _ _ _ _ _ _ _ _ => some 3
  | .vtanh _ _ _ _ _ _ _ => some 3
  | .vsigm _ _ _ _ _ _ _ => some 3
  | .vrsum _ _ _ _ _ _ _ => some 3
  | .vrmax _ _ _ _ _ _ _ => some 3
  | .vrmin _ _ _ _ _ _ _ => some 3
  | .vargmax _ _ _ _ _ _ _ => some 3
  | .vscan _ _ _ _ _ _ _ => some 3
  | .vperm _ _ _ _ _ _ _ _ => some 3
  | .vtrans _ _ _ _ _ => some 3
  | .vcompact _ _ _ _ _ _ => some 3
  | .vexpand _ _ _ _ _ _ => some 3
  | .vrot _ _ _ _ _ _ _ => some 3
  | .vacrVbImm _ _ _ _ _ => some 3
  | .vacrVbReg _ _ _ _ _ => some 3
  | .vacwVbImm _ _ _ _ _ => some 3
  | .vacwVbReg _ _ _ _ _ => some 3
  | .vround _ _ _ _ _ _ _ => some 3
  | .mcall _ _ _ _ _ _ _ => some 4
  | .mpset _ _ _ _ => some 4
  | .mpget _ _ _ _ => some 4
  | .mload _ _ _ => some 4
  | .aclass _ _ _ _ => some 4
  | .aclr _ _ _ => some 4
  | .acmv _ _ _ _ _ => some 4
  | .mwaitAll _ _ => some 4
  | .mwaitBank _ _ _ => some 4
  | .sqclr _ _ _ => some 4
  | .ftset _ _ _ _ => some 4
  | .ftsel _ _ _ => some 4
  | .finit _ _ _ _ => some 4
  | .fins _ _ _ _ _ => some 4
  | .fmrg _ _ _ _ => some 4
  | .frd _ _ _ _ _ => some 4
  | .fcnt _ _ _ _ _ => some 4
  | .fclr _ _ _ => some 4
  | .tallocImm _ _ _ _ _ => some 5
  | .tallocReg _ _ _ _ _ => some 5
  | .tld _ _ _ _ _ _ => some 5
  | .tst _ _ _ _ _ => some 5
  | .tcntImm _ _ _ _ => some 5
  | .tcntReg _ _ _ _ => some 5
  | .tdrop _ _ _ => some 5
  | .tparkTile _ _ _ => some 5
  | .tparkReg _ _ _ => some 5
  | .tunparkTile _ _ _ => some 5
  | .tunparkReg _ _ _ => some 5
  | .tstat _ _ _ _ => some 5
  | .tplane _ _ _ _ _ => some 5
  | .hbind _ _ _ _ _ => some 5
  | .hadvp _ _ _ _ => some 5
  | .hadvc _ _ _ _ => some 5
  | .qbind _ _ _ _ => some 5
  | .qbindUnbind _ _ _ => some 5
  | .sqld _ _ _ _ _ _ => some 5
  | .tshare _ _ _ => some 5
  | .tlw _ _ _ _ _ _ => some 5
  | .tsw _ _ _ _ _ => some 5
  | .tatom _ _ _ _ _ _ => some 5
  | .tquota _ _ _ _ => some 5
  | .cld _ _ _ _ _ _ => some 6
  | .cst _ _ _ _ _ => some 6
  | .ccopy _ _ _ _ _ => some 6
  | .ccnt _ _ _ _ _ => some 6
  | .clw _ _ _ _ _ _ => some 6
  | .csw _ _ _ _ _ => some 6
  | .catom _ _ _ _ _ _ => some 6
  | .binitImm _ _ _ _ => some 6
  | .binitReg _ _ _ _ => some 6
  | .barv _ _ _ => some 6
  | .barvRemote _ _ _ _ => some 6
  | .bwait _ _ _ => some 6
  | .bexp _ _ _ _ => some 6
  | .btry _ _ _ => some 6
  | .csev _ _ _ _ => some 6
  | .gls _ _ _ _ _ => some 7
  | .gss _ _ _ _ _ => some 7
  | .gvst _ _ _ _ => some 7
  | .gfetchImm _ _ _ _ _ _ => some 7
  | .gfetchReg _ _ _ _ _ _ => some 7
  | .ggather _ _ _ _ _ => some 7
  | .gscatter _ _ _ _ _ _ => some 7
  | .gstore _ _ _ _ _ _ => some 7
  | .gcopy _ _ _ _ _ _ => some 7
  | .gatom _ _ _ _ _ _ _ => some 7
  | .gcas _ _ _ _ _ _ => some 7
  | .gwait _ _ _ _ => some 7
  | .gacq _ _ _ _ => some 7
  | .grel _ _ _ _ => some 7
  | .gbind _ _ _ _ _ => some 7
  | .gunbind _ _ _ _ => some 7
  | .gqfence _ _ _ => some 7
  | .gsluicePromote _ _ _ _ => some 7
  | .gsluicePromoteX _ _ _ _ => some 7
  | .gsluiceRelease _ _ _ _ => some 7
  | .gskimSelect _ _ _ _ => some 7
  | .gskimBiasw _ _ _ _ => some 7
  | .gskimEpoch _ _ _ _ => some 7
  | .gcollAllreduce _ _ _ _ => some 7
  | .gcollReducescatter _ _ _ _ => some 7
  | .gcollAllgather _ _ _ _ => some 7
  | .gcollBroadcast _ _ _ _ => some 7
  | .gsendData _ _ _ _ => some 7
  | .gsendLaunch _ _ _ _ => some 7
  | .grecv _ _ _ _ => some 7
  | .gpref _ _ _ _ => some 7
  | .gtlbi _ _ _ _ _ => some 7
  | .rwLda => none
  | .rwLdb => none
  | .rwStep => none
  | .rwSkip _ => none
  | .rwSpop => none
  | .rwProm _ => none
  | .rwKadv => none
  | .rwJmore _ => none
  | .rwBwr _ => none
  | .rwEnd => none
  | .bundleIssue => none
  | .computeResultLand => none
  | .globalLoadReturn => none
  | .idleExpire => none
  | .forcedSwitch => none
  | .segmentCopyComplete => none
  | .launchAnswer => none
  | .retireComplete => none
  | .killed => none
  | .watchdog => none
  | .storeFull => none
  | .overrunCrossing => none
  | .overrun => none
  | .late => none
  | .unitPlace => none
  | .preempt => none
  | .frameWritten => none
  | .unitResume => none
  | .preemptedCommandFault => none
  | .translationWalkDone => none
  | .pageFaultResolved => none
  | .commandStart => none
  | .copyEngineLine => none
  | .commandComplete => none
  | .invalidation => none
  | .invalidationComplete => none
  | .gwaitReread => none
  | .parkComplete => none
  | .unparkComplete => none
  | .storeErrorUncorrectable => none
  | .softErrorCorrected => none
  | .retentionEnter => none
  | .retentionEntryDone => none
  | .retentionExitDone => none
  | .matrixOpStart => none
  | .matrixCallComplete => none
  | .matrixOpComplete => none
  | .mloadInstall => none
  | .frontOpStart => none
  | .frontInsert => none
  | .admissionTest => none
  | .signalRecheck => none
  | .launchComplete => none
  | .queueEntryFetch => none
  | .map => none
  | .unmap => none
  | .switch => none
  | .allWaiting => none
  | .partitionMove => none
  | .pluginCall => none
  | .pluginTimeout => none
  | .firmwareCoreReset => none
  | .tail => none
  | .enSet => none
  | .enClear => none
  | .phase => none
  | .job => none
  | .registerWrite => none
  | .hostSnoop => none
  | .hostMemAccess => none
  | .ideIntegrityFail => none
  | .launchFlit => none
  | .sendFlit => none
  | .collFlit => none
  | .abortFlit => none
  | .timeFlit => none
  | .creditFlit => none
  | .answerFlit => none
  | .linkLevelRetry => none
  | .promoteCopyComplete => none
  | .stripeUncorrectable => none
  | .promoteNospace => none
  | .leaveComplete => none
  | .fenChannelDown => none
  | .skimRow => none
  | .skimEpochDequeue => none
  | .debugSlotWrite => none
  | .halt => none
  | .resume => none
  | .dctlStep => none
  | .snap => none
  | .liveStateWrite => none
  | .tenSet => none
  | .sample => none
  | .replayRequest => none
  | .powerOn => none
  | .commit => none
  | .attestationRequest => none
  | .fuseError => none
  | .thermalSample => none
  | .storePerformed => none
  | .peerRequest => none
  | .functionCreate => none
  | .functionDestroy => none
  | .weightObjectRegister => none
  | .fenRangeAssign => none
  | .attestationReport => none
  | .firmwareUncorrectableError => none
  | .pluginLoad => none
  | .debuggerEventSet => none
  | .ideKeySet => none

/-- The word of an instruction, written from the encoding tables (R85, R102, R133, R175, R201, R238, R259, R272);
events and routine words have no slot word. -/
def encode : Instr → Option W32
  | .nop t i => some (0#6 ++ t ++ i ++ 0#21)
  | .br t i o => some (1#6 ++ t ++ i ++ o)
  | .brt t i n => some (2#6 ++ t ++ i ++ n ++ 0#18)
  | .mbr t i b => some (3#6 ++ t ++ i ++ b ++ 0#18)
  | .call t i o => some (4#6 ++ t ++ i ++ o)
  | .ret t i => some (5#6 ++ t ++ i ++ 0#21)
  | .loopReg t i n c e => some (6#6 ++ t ++ i ++ n ++ 0#1 ++ c ++ e)
  | .loopImm t i n c e => some (6#6 ++ t ++ i ++ n ++ 1#1 ++ c ++ e)
  | .lbrk t i n => some (7#6 ++ t ++ i ++ n ++ 0#18)
  | .tgsetLabel t i n o => some (8#6 ++ t ++ i ++ n ++ 0#1 ++ o)
  | .tgsetReg t i n a => some (8#6 ++ t ++ i ++ n ++ 1#1 ++ a ++ 0#12)
  | .idle t i m => some (9#6 ++ t ++ i ++ 0#5 ++ m)
  | .cqclr t i => some (10#6 ++ t ++ i ++ 0#21)
  | .wfe t i => some (11#6 ++ t ++ i ++ 0#21)
  | .sev t i m => some (12#6 ++ t ++ i ++ 0#17 ++ m)
  | .yield t i => some (13#6 ++ t ++ i ++ 0#21)
  | .launch t i d a => some (14#6 ++ t ++ i ++ d ++ a ++ 0#11)
  | .retire t i => some (15#6 ++ t ++ i ++ 0#21)
  | .xdisp t i d a => some (16#6 ++ t ++ i ++ d ++ a ++ 0#11)
  | .trap t i m => some (17#6 ++ t ++ i ++ 0#5 ++ m)
  | .eret t i => some (18#6 ++ t ++ i ++ 0#21)
  | .csrr t i d c => some (19#6 ++ t ++ i ++ d ++ 0#5 ++ c)
  | .csrw t i a c => some (20#6 ++ t ++ i ++ 0#5 ++ a ++ c)
  | .bkpt t i m => some (21#6 ++ t ++ i ++ 0#5 ++ m)
  | .segld t i n => some (22#6 ++ t ++ i ++ 0#15 ++ n)
  | .cancel t i l a => some (23#6 ++ t ++ i ++ l ++ 0#2 ++ a ++ 0#11)
  | .add t i d a b => some (1#6 ++ t ++ i ++ d ++ a ++ b ++ 0#6)
  | .sub t i d a b => some (2#6 ++ t ++ i ++ d ++ a ++ b ++ 0#6)
  | .mul t i d a b => some (3#6 ++ t ++ i ++ d ++ a ++ b ++ 0#6)
  | .mulh t i d a b => some (4#6 ++ t ++ i ++ d ++ a ++ b ++ 0#6)
  | .mulhu t i d a b => some (5#6 ++ t ++ i ++ d ++ a ++ b ++ 0#6)
  | .div t i d a b => some (6#6 ++ t ++ i ++ d ++ a ++ b ++ 0#6)
  | .divu t i d a b => some (7#6 ++ t ++ i ++ d ++ a ++ b ++ 0#6)
  | .rem t i d a b => some (8#6 ++ t ++ i ++ d ++ a ++ b ++ 0#6)
  | .remu t i d a b => some (9#6 ++ t ++ i ++ d ++ a ++ b ++ 0#6)
  | .and t i d a b => some (10#6 ++ t ++ i ++ d ++ a ++ b ++ 0#6)
  | .or t i d a b => some (11#6 ++ t ++ i ++ d ++ a ++ b ++ 0#6)
  | .xor t i d a b => some (12#6 ++ t ++ i ++ d ++ a ++ b ++ 0#6)
  | .shl t i d a b => some (13#6 ++ t ++ i ++ d ++ a ++ b ++ 0#6)
  | .shr t i d a b => some (14#6 ++ t ++ i ++ d ++ a ++ b ++ 0#6)
  | .sar t i d a b => some (15#6 ++ t ++ i ++ d ++ a ++ b ++ 0#6)
  | .rot t i d a b => some (16#6 ++ t ++ i ++ d ++ a ++ b ++ 0#6)
  | .min t i d a b => some (17#6 ++ t ++ i ++ d ++ a ++ b ++ 0#6)
  | .max t i d a b => some (18#6 ++ t ++ i ++ d ++ a ++ b ++ 0#6)
  | .minu t i d a b => some (19#6 ++ t ++ i ++ d ++ a ++ b ++ 0#6)
  | .maxu t i d a b => some (20#6 ++ t ++ i ++ d ++ a ++ b ++ 0#6)
  | .clz t i d a => some (21#6 ++ t ++ i ++ d ++ a ++ 0#11)
  | .ctz t i d a => some (22#6 ++ t ++ i ++ d ++ a ++ 0#11)
  | .popc t i d a => some (23#6 ++ t ++ i ++ d ++ a ++ 0#11)
  | .sext t i d a w => some (24#6 ++ t ++ i ++ d ++ a ++ 0#9 ++ w)
  | .zext t i d a w => some (25#6 ++ t ++ i ++ d ++ a ++ 0#9 ++ w)
  | .addi t i d a m => some (26#6 ++ t ++ i ++ d ++ a ++ m)
  | .andi t i d a m => some (27#6 ++ t ++ i ++ d ++ a ++ m)
  | .ori t i d a m => some (28#6 ++ t ++ i ++ d ++ a ++ m)
  | .xori t i d a m => some (29#6 ++ t ++ i ++ d ++ a ++ m)
  | .shli t i d a s => some (30#6 ++ t ++ i ++ d ++ a ++ 0#5 ++ s)
  | .shri t i d a s => some (31#6 ++ t ++ i ++ d ++ a ++ 0#5 ++ s)
  | .sari t i d a s => some (32#6 ++ t ++ i ++ d ++ a ++ 0#5 ++ s)
  | .li t i d m => some (33#6 ++ t ++ i ++ d ++ m)
  | .lih t i d m => some (34#6 ++ t ++ i ++ d ++ m)
  | .cmp t i a b c => some (35#6 ++ t ++ i ++ 0#5 ++ a ++ b ++ 0#2 ++ c)
  | .cmpi t i c a m => some (36#6 ++ t ++ i ++ c ++ a ++ m)
  | .sel t i d a b c => some (37#6 ++ t ++ i ++ d ++ a ++ b ++ 0#1 ++ c)
  | .agset t i n a f => some (38#6 ++ t ++ i ++ 0#2 ++ n ++ a ++ 0#8 ++ f)
  | .agstep t i n a => some (39#6 ++ t ++ i ++ 0#2 ++ n ++ a ++ 0#11)
  | .agrd t i d n f => some (40#6 ++ t ++ i ++ d ++ 0#2 ++ n ++ 0#8 ++ f)
  | .cqpush t i a => some (41#6 ++ t ++ i ++ 0#5 ++ a ++ 0#11)
  | .vaddVa t i d a b h k l => some (1#6 ++ t ++ i ++ d ++ a ++ b ++ h ++ k ++ l)
  | .vsubVa t i d a b h k l => some (2#6 ++ t ++ i ++ d ++ a ++ b ++ h ++ k ++ l)
  | .vmulVa t i d a b h k l => some (3#6 ++ t ++ i ++ d ++ a ++ b ++ h ++ k ++ l)
  | .vfmaVa t i d a b h k l => some (4#6 ++ t ++ i ++ d ++ a ++ b ++ h ++ k ++ l)
  | .vfms t i d a b h k l => some (5#6 ++ t ++ i ++ d ++ a ++ b ++ h ++ k ++ l)
  | .vminVa t i d a b h k l => some (6#6 ++ t ++ i ++ d ++ a ++ b ++ h ++ k ++ l)
  | .vmaxVa t i d a b h k l => some (7#6 ++ t ++ i ++ d ++ a ++ b ++ h ++ k ++ l)
  | .vabs t i d a h k l => some (8#6 ++ t ++ i ++ d ++ a ++ 0#5 ++ h ++ k ++ l)
  | .vneg t i d a h k l => some (9#6 ++ t ++ i ++ d ++ a ++ 0#5 ++ h ++ k ++ l)
  | .vand t i d a b h k l => some (10#6 ++ t ++ i ++ d ++ a ++ b ++ h ++ k ++ l)
  | .vor t i d a b h k l => some (11#6 ++ t ++ i ++ d ++ a ++ b ++ h ++ k ++ l)
  | .vxor t i d a b h k l => some (12#6 ++ t ++ i ++ d ++ a ++ b ++ h ++ k ++ l)
  | .vnot t i d a h k l => some (13#6 ++ t ++ i ++ d ++ a ++ 0#5 ++ h ++ k ++ l)
  | .vshl t i d a b h k l => some (14#6 ++ t ++ i ++ d ++ a ++ b ++ h ++ k ++ l)
  | .vshr t i d a b h k l => some (15#6 ++ t ++ i ++ d ++ a ++ b ++ h ++ k ++ l)
  | .vsar t i d a b h k l => some (16#6 ++ t ++ i ++ d ++ a ++ b ++ h ++ k ++ l)
  | .vcmp t i c a b h e l => some (17#6 ++ t ++ i ++ c ++ 0#2 ++ a ++ b ++ h ++ e ++ l)
  | .vsel t i d a b h k l => some (18#6 ++ t ++ i ++ d ++ a ++ b ++ h ++ k ++ l)
  | .vcvt t i d a y h r => some (19#6 ++ t ++ i ++ d ++ a ++ y ++ 0#1 ++ h ++ 0#1 ++ r ++ 0#1)
  | .vmov t i d a h k l => some (20#6 ++ t ++ i ++ d ++ a ++ 0#5 ++ h ++ k ++ l)
  | .vbcast t i d a h k l => some (21#6 ++ t ++ i ++ d ++ a ++ 0#5 ++ h ++ k ++ l)
  | .vli t i d m => some (22#6 ++ t ++ i ++ d ++ m)
  | .vshape t i n a => some (23#6 ++ t ++ i ++ 0#3 ++ n ++ a ++ 0#11)
  | .vrlen t i a h => some (24#6 ++ t ++ i ++ 0#5 ++ a ++ 0#5 ++ h ++ 0#4)
  | .vbmm t i d a b h k l => some (25#6 ++ t ++ i ++ d ++ a ++ b ++ h ++ k ++ l)
  | .vsat t i d a b h o l => some (26#6 ++ t ++ i ++ d ++ a ++ b ++ h ++ o ++ 0#1 ++ l)
  | .vclamp t i d a b h k l => some (27#6 ++ t ++ i ++ d ++ a ++ b ++ h ++ k ++ l)
  | .vany t i h k l => some (28#6 ++ t ++ i ++ 0#15 ++ h ++ k ++ l)
  | .vall t i h k l => some (29#6 ++ t ++ i ++ 0#15 ++ h ++ k ++ l)
  | .kop t i c e f o => some (30#6 ++ t ++ i ++ c ++ e ++ f ++ o ++ 0#8)
  | .vacrVaImm t i d b x => some (31#6 ++ t ++ i ++ d ++ b ++ 0#1 ++ x ++ 0#7)
  | .vacrVaReg t i d b s => some (31#6 ++ t ++ i ++ d ++ b ++ 1#1 ++ s ++ 0#7)
  | .vacwVaImm t i a b x => some (32#6 ++ t ++ i ++ a ++ b ++ 0#1 ++ x ++ 0#7)
  | .vacwVaReg t i a b s => some (32#6 ++ t ++ i ++ a ++ b ++ 1#1 ++ s ++ 0#7)
  | .vext t i d a b m => some (33#6 ++ t ++ i ++ d ++ a ++ b ++ m)
  | .vaddVb t i d a b h k l => some (1#6 ++ t ++ i ++ d ++ a ++ b ++ h ++ k ++ l)
  | .vsubVb t i d a b h k l => some (2#6 ++ t ++ i ++ d ++ a ++ b ++ h ++ k ++ l)
  | .vmulVb t i d a b h k l => some (3#6 ++ t ++ i ++ d ++ a ++ b ++ h ++ k ++ l)
  | .vfmaVb t i d a b h k l => some (4#6 ++ t ++ i ++ d ++ a ++ b ++ h ++ k ++ l)
  | .vminVb t i d a b h k l => some (5#6 ++ t ++ i ++ d ++ a ++ b ++ h ++ k ++ l)
  | .vmaxVb t i d a b h k l => some (6#6 ++ t ++ i ++ d ++ a ++ b ++ h ++ k ++ l)
  | .vexp2 t i d a h k l => some (7#6 ++ t ++ i ++ d ++ a ++ 0#5 ++ h ++ k ++ l)
  | .vlog2 t i d a h k l => some (8#6 ++ t ++ i ++ d ++ a ++ 0#5 ++ h ++ k ++ l)
  | .vrcp t i d a h k l => some (9#6 ++ t ++ i ++ d ++ a ++ 0#5 ++ h ++ k ++ l)
  | .vrsqrt t i d a h k l => some (10#6 ++ t ++ i ++ d ++ a ++ 0#5 ++ h ++ k ++ l)
  | .vsqrt t i d a h k l => some (11#6 ++ t ++ i ++ d ++ a ++ 0#5 ++ h ++ k ++ l)
  | .vdiv t i d a b h k l => some (12#6 ++ t ++ i ++ d ++ a ++ b ++ h ++ k ++ l)
  | .vtanh t i d a h k l => some (13#6 ++ t ++ i ++ d ++ a ++ 0#5 ++ h ++ k ++ l)
  | .vsigm t i d a h k l => some (14#6 ++ t ++ i ++ d ++ a ++ 0#5 ++ h ++ k ++ l)
  | .vrsum t i d a h k l => some (15#6 ++ t ++ i ++ d ++ a ++ 0#5 ++ h ++ k ++ l)
  | .vrmax t i d a h k l => some (16#6 ++ t ++ i ++ d ++ a ++ 0#5 ++ h ++ k ++ l)
  | .vrmin t i d a h k l => some (17#6 ++ t ++ i ++ d ++ a ++ 0#5 ++ h ++ k ++ l)
  | .vargmax t i d a h k l => some (18#6 ++ t ++ i ++ d ++ a ++ 0#5 ++ h ++ k ++ l)
  | .vscan t i d a h k l => some (19#6 ++ t ++ i ++ d ++ a ++ 0#5 ++ h ++ k ++ l)
  | .vperm t i d a b h k l => some (20#6 ++ t ++ i ++ d ++ a ++ b ++ h ++ k ++ l)
  | .vtrans t i d a h => some (21#6 ++ t ++ i ++ d ++ a ++ 0#5 ++ h ++ 0#4)
  | .vcompact t i d a h k => some (22#6 ++ t ++ i ++ d ++ a ++ 0#5 ++ h ++ k ++ 0#1)
  | .vexpand t i d a h k => some (23#6 ++ t ++ i ++ d ++ a ++ 0#5 ++ h ++ k ++ 0#1)
  | .vrot t i d a b h k => some (24#6 ++ t ++ i ++ d ++ a ++ b ++ h ++ k ++ 0#1)
  | .vacrVbImm t i d b x => some (25#6 ++ t ++ i ++ d ++ b ++ 0#1 ++ x ++ 0#7)
  | .vacrVbReg t i d b s => some (25#6 ++ t ++ i ++ d ++ b ++ 1#1 ++ s ++ 0#7)
  | .vacwVbImm t i a b x => some (26#6 ++ t ++ i ++ a ++ b ++ 0#1 ++ x ++ 0#7)
  | .vacwVbReg t i a b s => some (26#6 ++ t ++ i ++ a ++ b ++ 1#1 ++ s ++ 0#7)
  | .vround t i d a h k l => some (27#6 ++ t ++ i ++ d ++ a ++ 0#5 ++ h ++ k ++ l)
  | .mcall t i m d a e f => some (1#6 ++ t ++ i ++ m ++ d ++ a ++ e ++ f ++ 0#7)
  | .mpset t i n a => some (2#6 ++ t ++ i ++ n ++ 0#2 ++ a ++ 0#11)
  | .mpget t i d n => some (3#6 ++ t ++ i ++ d ++ n ++ 0#13)
  | .mload t i a => some (4#6 ++ t ++ i ++ 0#5 ++ a ++ 0#11)
  | .aclass t i n c => some (5#6 ++ t ++ i ++ n ++ c ++ 0#16)
  | .aclr t i n => some (6#6 ++ t ++ i ++ n ++ 0#18)
  | .acmv t i d s m => some (7#6 ++ t ++ i ++ d ++ s ++ m ++ 0#13)
  | .mwaitAll t i => some (8#6 ++ t ++ i ++ 0#21)
  | .mwaitBank t i n => some (8#6 ++ t ++ i ++ 1#1 ++ n ++ 0#17)
  | .sqclr t i m => some (9#6 ++ t ++ i ++ 0#19 ++ m)
  | .ftset t i n a => some (10#6 ++ t ++ i ++ n ++ 0#1 ++ a ++ 0#11)
  | .ftsel t i l => some (11#6 ++ t ++ i ++ l ++ 0#18)
  | .finit t i n a => some (12#6 ++ t ++ i ++ n ++ 0#2 ++ a ++ 0#11)
  | .fins t i n a b => some (13#6 ++ t ++ i ++ n ++ 0#2 ++ a ++ b ++ 0#6)
  | .fmrg t i d s => some (14#6 ++ t ++ i ++ d ++ s ++ 0#15)
  | .frd t i d n a => some (15#6 ++ t ++ i ++ d ++ n ++ a ++ 0#8)
  | .fcnt t i d n s => some (16#6 ++ t ++ i ++ d ++ n ++ s ++ 0#10)
  | .fclr t i n => some (17#6 ++ t ++ i ++ n ++ 0#18)
  | .tallocImm t i x a c => some (1#6 ++ t ++ i ++ x ++ a ++ 1#1 ++ c)
  | .tallocReg t i x a b => some (1#6 ++ t ++ i ++ x ++ a ++ 0#2 ++ b)
  | .tld t i x r d p => some (2#6 ++ t ++ i ++ x ++ r ++ d ++ p)
  | .tst t i x a p => some (3#6 ++ t ++ i ++ x ++ 0#2 ++ a ++ p)
  | .tcntImm t i x m => some (4#6 ++ t ++ i ++ x ++ 1#1 ++ m)
  | .tcntReg t i x a => some (4#6 ++ t ++ i ++ x ++ 0#1 ++ a ++ 0#6)
  | .tdrop t i x => some (5#6 ++ t ++ i ++ x ++ 0#12)
  | .tparkTile t i x => some (6#6 ++ t ++ i ++ x ++ 0#12)
  | .tparkReg t i a => some (6#6 ++ t ++ i ++ 1#10 ++ a ++ 0#6)
  | .tunparkTile t i x => some (7#6 ++ t ++ i ++ x ++ 0#12)
  | .tunparkReg t i a => some (7#6 ++ t ++ i ++ 1#10 ++ a ++ 0#6)
  | .tstat t i x d => some (8#6 ++ t ++ i ++ x ++ 0#2 ++ d ++ 0#5)
  | .tplane t i d s r => some (9#6 ++ t ++ i ++ 0#1 ++ d ++ s ++ r ++ 0#2)
  | .hbind t i m n c => some (10#6 ++ t ++ i ++ 0#1 ++ m ++ n ++ c ++ 0#4)
  | .hadvp t i n c => some (11#6 ++ t ++ i ++ 1#1 ++ n ++ 0#4 ++ c ++ 0#8)
  | .hadvc t i n c => some (12#6 ++ t ++ i ++ 1#1 ++ n ++ 0#4 ++ c ++ 0#8)
  | .qbind t i h q => some (13#6 ++ t ++ i ++ 1#1 ++ h ++ 7#9 ++ q ++ 0#5)
  | .qbindUnbind t i q => some (13#6 ++ t ++ i ++ 23#14 ++ q ++ 0#5)
  | .sqld t i x r s p => some (14#6 ++ t ++ i ++ x ++ r ++ s ++ 0#4 ++ p)
  | .tshare t i x => some (15#6 ++ t ++ i ++ x ++ 0#12)
  | .tlw t i x r d a => some (16#6 ++ t ++ i ++ x ++ r ++ d ++ a)
  | .tsw t i x a b => some (17#6 ++ t ++ i ++ x ++ 0#2 ++ a ++ b)
  | .tatom t i x o d a => some (18#6 ++ t ++ i ++ x ++ o ++ d ++ a)
  | .tquota t i c a => some (19#6 ++ t ++ i ++ 0#9 ++ c ++ a ++ 0#5)
  | .cld t i x r d c => some (1#6 ++ t ++ i ++ x ++ r ++ d ++ c)
  | .cst t i x a c => some (2#6 ++ t ++ i ++ x ++ 0#2 ++ a ++ c)
  | .ccopy t i x r c => some (3#6 ++ t ++ i ++ x ++ r ++ 0#5 ++ c)
  | .ccnt t i x a c => some (4#6 ++ t ++ i ++ x ++ 0#2 ++ a ++ c)
  | .clw t i x r d c => some (5#6 ++ t ++ i ++ x ++ r ++ d ++ c)
  | .csw t i x b c => some (6#6 ++ t ++ i ++ x ++ 0#2 ++ b ++ c)
  | .catom t i x o d a => some (7#6 ++ t ++ i ++ x ++ o ++ d ++ a)
  | .binitImm t i n m => some (8#6 ++ t ++ i ++ n ++ 1#1 ++ m)
  | .binitReg t i n a => some (8#6 ++ t ++ i ++ n ++ 0#1 ++ a ++ 0#4)
  | .barv t i n => some (9#6 ++ t ++ i ++ n ++ 0#10)
  | .barvRemote t i n c => some (9#6 ++ t ++ i ++ n ++ 1#1 ++ c ++ 0#4)
  | .bwait t i n => some (10#6 ++ t ++ i ++ n ++ 0#10)
  | .bexp t i n a => some (11#6 ++ t ++ i ++ n ++ 0#1 ++ a ++ 0#4)
  | .btry t i n => some (12#6 ++ t ++ i ++ n ++ 0#10)
  | .csev t i c m => some (13#6 ++ t ++ i ++ 0#12 ++ c ++ m)
  | .gls t i d e y => some (1#6 ++ t ++ i ++ d ++ e ++ y ++ 0#7)
  | .gss t i a e y => some (2#6 ++ t ++ i ++ a ++ e ++ y ++ 0#7)
  | .gvst t i a e => some (3#6 ++ t ++ i ++ a ++ e ++ 0#10)
  | .gfetchImm t i x n c p => some (4#6 ++ t ++ i ++ x ++ n ++ 1#1 ++ c ++ p)
  | .gfetchReg t i x n c p => some (4#6 ++ t ++ i ++ x ++ n ++ 0#1 ++ c ++ p)
  | .ggather t i x n j => some (5#6 ++ t ++ i ++ x ++ n ++ j ++ 0#4)
  | .gscatter t i x n j r => some (6#6 ++ t ++ i ++ x ++ n ++ j ++ r ++ 0#2)
  | .gstore t i x n r p => some (7#6 ++ t ++ i ++ x ++ n ++ r ++ 0#4 ++ p)
  | .gcopy t i d s l p => some (8#6 ++ t ++ i ++ d ++ s ++ l ++ 0#7 ++ p)
  | .gatom t i d e a o s => some (9#6 ++ t ++ i ++ d ++ e ++ a ++ o ++ s)
  | .gcas t i d e a s => some (10#6 ++ t ++ i ++ d ++ e ++ a ++ 0#2 ++ s)
  | .gwait t i f v => some (11#6 ++ t ++ i ++ 0#5 ++ f ++ v ++ 0#6)
  | .gacq t i f s => some (12#6 ++ t ++ i ++ 0#5 ++ f ++ 0#8 ++ s)
  | .grel t i f s => some (13#6 ++ t ++ i ++ 0#5 ++ f ++ 0#8 ++ s)
  | .gbind t i r l f => some (14#6 ++ t ++ i ++ r ++ l ++ f ++ 0#6)
  | .gunbind t i r f => some (15#6 ++ t ++ i ++ r ++ 0#5 ++ f ++ 0#6)
  | .gqfence t i m => some (16#6 ++ t ++ i ++ 0#17 ++ m)
  | .gsluicePromote t i a p => some (17#6 ++ t ++ i ++ 0#5 ++ a ++ 0#8 ++ p)
  | .gsluicePromoteX t i a p => some (17#6 ++ t ++ i ++ 0#5 ++ a ++ 0#8 ++ p)
  | .gsluiceRelease t i a p => some (17#6 ++ t ++ i ++ 0#5 ++ a ++ 0#8 ++ p)
  | .gskimSelect t i a p => some (18#6 ++ t ++ i ++ 0#5 ++ a ++ 0#8 ++ p)
  | .gskimBiasw t i a p => some (18#6 ++ t ++ i ++ 0#5 ++ a ++ 0#8 ++ p)
  | .gskimEpoch t i a p => some (18#6 ++ t ++ i ++ 0#5 ++ a ++ 0#8 ++ p)
  | .gcollAllreduce t i a p => some (19#6 ++ t ++ i ++ 0#5 ++ a ++ 0#8 ++ p)
  | .gcollReducescatter t i a p => some (19#6 ++ t ++ i ++ 0#5 ++ a ++ 0#8 ++ p)
  | .gcollAllgather t i a p => some (19#6 ++ t ++ i ++ 0#5 ++ a ++ 0#8 ++ p)
  | .gcollBroadcast t i a p => some (19#6 ++ t ++ i ++ 0#5 ++ a ++ 0#8 ++ p)
  | .gsendData t i a p => some (20#6 ++ t ++ i ++ 0#5 ++ a ++ 0#8 ++ p)
  | .gsendLaunch t i a p => some (20#6 ++ t ++ i ++ 0#5 ++ a ++ 0#8 ++ p)
  | .grecv t i a p => some (21#6 ++ t ++ i ++ 0#5 ++ a ++ 0#8 ++ p)
  | .gpref t i e l => some (22#6 ++ t ++ i ++ 0#5 ++ e ++ l ++ 0#5)
  | .gtlbi t i a b m => some (23#6 ++ t ++ i ++ 0#5 ++ a ++ b ++ m ++ 0#4)
  | .rwLda => none
  | .rwLdb => none
  | .rwStep => none
  | .rwSkip _ => none
  | .rwSpop => none
  | .rwProm _ => none
  | .rwKadv => none
  | .rwJmore _ => none
  | .rwBwr _ => none
  | .rwEnd => none
  | .bundleIssue => none
  | .computeResultLand => none
  | .globalLoadReturn => none
  | .idleExpire => none
  | .forcedSwitch => none
  | .segmentCopyComplete => none
  | .launchAnswer => none
  | .retireComplete => none
  | .killed => none
  | .watchdog => none
  | .storeFull => none
  | .overrunCrossing => none
  | .overrun => none
  | .late => none
  | .unitPlace => none
  | .preempt => none
  | .frameWritten => none
  | .unitResume => none
  | .preemptedCommandFault => none
  | .translationWalkDone => none
  | .pageFaultResolved => none
  | .commandStart => none
  | .copyEngineLine => none
  | .commandComplete => none
  | .invalidation => none
  | .invalidationComplete => none
  | .gwaitReread => none
  | .parkComplete => none
  | .unparkComplete => none
  | .storeErrorUncorrectable => none
  | .softErrorCorrected => none
  | .retentionEnter => none
  | .retentionEntryDone => none
  | .retentionExitDone => none
  | .matrixOpStart => none
  | .matrixCallComplete => none
  | .matrixOpComplete => none
  | .mloadInstall => none
  | .frontOpStart => none
  | .frontInsert => none
  | .admissionTest => none
  | .signalRecheck => none
  | .launchComplete => none
  | .queueEntryFetch => none
  | .map => none
  | .unmap => none
  | .switch => none
  | .allWaiting => none
  | .partitionMove => none
  | .pluginCall => none
  | .pluginTimeout => none
  | .firmwareCoreReset => none
  | .tail => none
  | .enSet => none
  | .enClear => none
  | .phase => none
  | .job => none
  | .registerWrite => none
  | .hostSnoop => none
  | .hostMemAccess => none
  | .ideIntegrityFail => none
  | .launchFlit => none
  | .sendFlit => none
  | .collFlit => none
  | .abortFlit => none
  | .timeFlit => none
  | .creditFlit => none
  | .answerFlit => none
  | .linkLevelRetry => none
  | .promoteCopyComplete => none
  | .stripeUncorrectable => none
  | .promoteNospace => none
  | .leaveComplete => none
  | .fenChannelDown => none
  | .skimRow => none
  | .skimEpochDequeue => none
  | .debugSlotWrite => none
  | .halt => none
  | .resume => none
  | .dctlStep => none
  | .snap => none
  | .liveStateWrite => none
  | .tenSet => none
  | .sample => none
  | .replayRequest => none
  | .powerOn => none
  | .commit => none
  | .attestationRequest => none
  | .fuseError => none
  | .thermalSample => none
  | .storePerformed => none
  | .peerRequest => none
  | .functionCreate => none
  | .functionDestroy => none
  | .weightObjectRegister => none
  | .fenRangeAssign => none
  | .attestationReport => none
  | .firmwareUncorrectableError => none
  | .pluginLoad => none
  | .debuggerEventSet => none
  | .ideKeySet => none

/-- The row that stands for the rows of one word: the Sluice, Skim, collective and send operations share theirs, and the
descriptor's OP tells them apart (R302, R307, R366, R368). -/
def wordRow : Instr → Instr
  | .gsluicePromoteX t i a p => .gsluicePromote t i a p
  | .gsluiceRelease t i a p => .gsluicePromote t i a p
  | .gskimBiasw t i a p => .gskimSelect t i a p
  | .gskimEpoch t i a p => .gskimSelect t i a p
  | .gcollReducescatter t i a p => .gcollAllreduce t i a p
  | .gcollAllgather t i a p => .gcollAllreduce t i a p
  | .gcollBroadcast t i a p => .gcollAllreduce t i a p
  | .gsendLaunch t i a p => .gsendData t i a p
  | i => i

/-- The first slot, from slot n on, in which a word decodes. -/
def firstSlot (w : W32) : Nat → Nat → Option (Nat × Instr)
  | 0, _ => none
  | k + 1, n =>
    match decodeSlot n w with
    | .ok i => some (n, i)
    | .error _ => firstSlot w k (n + 1)

/-- The bytes of a word, the lowest address first. -/
def bytesOfWord (w : W32) : List Byte := [fld w 0 8, fld w 8 8, fld w 16 8, fld w 24 8]

/-- The instruction read from bits numbered as the opcode table numbers them. The table gives slot words without their slot,
which is the word's position in the bundle (R26): the answer is that of the lowest slot in which the word decodes. A 64-bit
row is a routine word. -/
def decodeTableWord (nbits w : Nat) : Option Instr :=
  if nbits = 64 then decodeRoutine (BitVec.ofNat 64 w)
  else match wordsOfBytes (bytesOfWord (BitVec.ofNat 32 w)) with
    | [x] => (firstSlot x 8 0).map Prod.snd
    | _ => none

end Sys2Proof
end

