-- ==== Sys2Proof/Machine/State.lean ====
section
/-! DEFINITION. The state of the device as plain data: contexts, cores, and what the cores share (R67, R99, R100, R128-R131,
R155-R158, R219-R222, R250, R264, R315-R332, R341, R357, R358, R377-R400, R401), with `State.reset`. -/

namespace Sys2Proof.Machine

/-! ### Association lists: sparse tables with a default, keys strictly rising -/

/-- The entry of key k, or the default d where the table lists none. -/
def alGet {α : Type} (d : α) (k : Nat) : List (Nat × α) → α
  | [] => d
  | (j, a) :: r => if j = k then a else alGet d k r

/-- The table with key k set to a. -/
def alSet {α : Type} (k : Nat) (a : α) : List (Nat × α) → List (Nat × α)
  | [] => [(k, a)]
  | (j, b) :: r => if j = k then (k, a) :: r else if k < j then (k, a) :: (j, b) :: r else (j, b) :: alSet k a r

/-! ### One context -/

/-- Context states, R67 Table 1 (in the order R392 counts). -/
inductive CtxState where
  | free | ready | issuing | blocked | frozen | retiring
  deriving DecidableEq, Repr

/-- What a context or stream waits on, coded as R392 lists the waits. -/
inductive Wait where
  | none | stall | tile | ring | bank | queueFull | barrier | wfe | address | segment | unpark | idle | xdisp
  deriving DecidableEq, Repr

/-- Fatal causes, coded as R346 Table 6. -/
inductive Fatal where
  | illegalBundle | cqOverflow | sqImbalance | misalign | permission | poison | unbound | segment | watchdog | killed
  deriving DecidableEq, Repr

/-- The bundle a word or command belongs to: its address, schedule cycle and TIF (R344, R347, R342). -/
structure Org where
  ba : W32
  sc : BitVec 40
  tif : Bool
  deriving DecidableEq, Repr

def Org.zero : Org := ⟨0, 0, false⟩

/-- An address generator (R100 Table 2). -/
structure AGen where
  a : W64
  st : Vector W64 6
  deriving DecidableEq, Repr

/-- A hardware loop level (R77, R341). -/
structure Loop where
  active : Bool
  count : W32
  index : W32
  start : W32
  stop : W32
  deriving DecidableEq, Repr

def Loop.off : Loop := ⟨false, 0, 0, 0, 0⟩

/-- A condition-queue entry: its reservation number, and its value once filled (R42). -/
structure CqEntry where
  tok : Nat
  val : Option Bool
  deriving DecidableEq, Repr

/-- Where a compute result lands (R41, R46). -/
inductive Dest where
  | s (r : BitVec 5) (v : W64)
  | v (r : BitVec 5) (v : VReg)
  | k (r : BitVec 3) (v : Mask)
  | sh (r : BitVec 2) (v : W32)
  | rlen (v : BitVec 512)
  | tg (r : BitVec 3) (v : W32)
  | agA (r : BitVec 3) (v : W64)
  | agS (r : BitVec 3) (l : Nat) (v : W64)
  | cq (tok : Nat) (b : Bool)
  | mp (r : BitVec 3) (v : W64)
  | ft (r : BitVec 4) (v : W32)
  | ftlevel (l : BitVec 3)
  | clear (n : BitVec 3) (v : W64)
  | bank (b : BitVec 3) (idx : BitVec 5) (v : VReg)
  | none
  deriving DecidableEq, Repr

/-- A compute result in flight: cycle ends until it lands, where, and the causes it sets on landing (R41, R336, R347). -/
structure Land where
  left : Nat
  dest : Dest
  slot : Nat
  causes : BitVec 12
  org : Org
  deriving DecidableEq, Repr

/-- A register that an interlocked write names (R40). -/
inductive PReg where
  | s (r : BitVec 5)
  | v (r : BitVec 5)
  | none
  deriving DecidableEq, Repr

/-- The operand values a memory-slot word carries into its stream (R37): the scalar file, the vector source,
the generators' addresses, and the format-table entry a table call of its bundle would use (R204). -/
structure Ops where
  s : Vector W64 32
  v : VReg
  ag : Vector W64 8
  ft : W32
  deriving DecidableEq, Repr

/-- A memory-slot word in its stream (R37-R39, R335). -/
structure StreamWord where
  tok : Nat
  slot : Nat
  word : W32
  org : Org
  bundle : Nat
  ops : Ops
  cqTok : Nat
  note : Option Nat
  deriving DecidableEq, Repr

/-- An interlocked write that is owed: the word that owes it, its register, the value once known, cycles until it lands for MT
words, the word to perform again after a freeze cancels its read, whether it is a read that R39 counts, and whether it is a load of host memory
(R39, R40, R175, R335, R356). -/
structure Pend where
  tok : Nat
  reg : PReg
  slot : Nat
  val : Option VReg
  left : Nat
  again : Option StreamWord
  rd : Bool
  org : Org
  host : Bool
  deriving DecidableEq, Repr

/-- A handle's ring: M, n, P, C (R172). -/
structure Ring where
  m : Nat
  n : Nat
  p : Nat
  c : Nat
  deriving DecidableEq, Repr

/-- A binding of a region to a flag word (R211). -/
structure Binding where
  base : W64
  len : W64
  flag : W64
  deriving DecidableEq, Repr

/-- Tile states, R158 Table 2. -/
inductive TileState where
  | absent | filling | present | parking | parked | unparking | poisoned
  deriving DecidableEq, Repr

/-- A tile entry: R158 Table 1, its bytes, the unit that created it, by launch and index, whose context its granules are charged to while that unit is on
the core (R164, R169), the number of granules in each store bank (R155, RETN), and the number of its current tile (for commands that name it). -/
structure Tile where
  uid : Nat
  st : TileState
  count : Nat
  rowsm1 : BitVec 6
  rbm1 : BitVec 10
  layout : Bool
  fmt : BitVec 5
  scope : Bool
  data : TileBytes
  charge : Option (W32 × W32)
  gb : List Nat
  deriving DecidableEq, Repr

/-- Where an entry stands: in a context's unit table, in a launch's table on a core, or in the unit table of a pre-empted unit's frame
bound to the core (R156, R411). -/
inductive TLoc where
  | unit (c : Nat) (x : CtxId) (n : Nat)
  | launch (c : Nat) (l : W32) (n : Nat)
  | frame (c : Nat) (l u : W32) (n : Nat)
  deriving DecidableEq, Repr

def Tile.absent : Tile := ⟨0, .absent, 0, 0, 0, false, 0, false, 0, none, []⟩

/-- A command in an engine queue or the copy queue, with its progress (R192-R198 Table 4, R277), and the weight objects it has read (R299). `idx`: the
index last read, and `reread`: it must be read again (R205); `line`, `top`: lines of the row at NEXT that have moved, and that have counted as landed;
`lines`: what a converting fetch has taken of its source (R204). -/
structure Cmd where
  num : Nat
  slot : Nat
  op : BitVec 6
  word : W32
  org : Org
  launch : W32
  unit : W32
  state : Nat
  next : Nat
  total : Nat
  a1 : W64
  a2 : W64
  len : Nat
  ctl : W64
  dst : Option Nat
  dst2 : Option Nat
  src : Option Nat
  srcCore : Nat
  consume : Bool
  buf : TileBytes
  idx : Option W64
  reread : Bool
  line : Nat
  top : Nat
  lines : List (BitVec 512)
  pb : BitVec 3
  pbInst : Nat
  pbLeft : Nat
  desc : BitVec 512
  causes : BitVec 12
  bytes : Nat
  aux : List Nat
  dead : Bool
  tok : Nat
  seen : List W32
  deriving DecidableEq, Repr

/-- A direct store of the MG stream that is not yet performed (R210, R283). -/
structure Store where
  num : Nat
  va : W64
  pa : Nat
  n : Nat
  data : VReg
  deriving DecidableEq, Repr

/-- A party to the order of global memory (R287): a unit on its core, or the host, which stands on no core. -/
structure Party where
  core : Nat
  launch : W32
  unit : W32
  deriving DecidableEq, Repr

/-- A write that has its place in the coherence order of its bytes and is not yet visible to every party (R284-R286): its number, the unit that made it, the
bytes, and the parties that an acquisition has made it visible to, with the flag they acquired (none: the commands of that unit see it everywhere). -/
structure Late where
  num : Nat
  launch : W32
  unit : W32
  st : Store
  seen : List (W32 × W32 × Option W64)
  deriving DecidableEq, Repr

/-- A release whose sequence a flag word's value still continues (R285, R288): who made it, at which scope, the writes it covers, and the read-modify-writes
of the sequence after it, each with its party and scope. -/
structure Rel where
  by_ : Party
  scope : Nat
  covers : List Nat
  chain : List (Party × Nat)
  deriving DecidableEq, Repr

/-- The other half of a window: the segment it holds or receives (R81). -/
structure Half where
  seg : Nat
  complete : Bool
  code : List W32
  deriving DecidableEq, Repr

/-- Events that wait for a boundary (R339), and debug requests (R378, R382). -/
structure Pending where
  kill : Bool
  halt : Bool
  haltAll : Bool
  preempt : Bool
  overrun : Bool
  overrunTaken : Bool
  full : Option (Nat × Nat × Org)
  trap : Option (BitVec 16 × Org)
  bkpt : Option (BitVec 16)
  stepStop : Bool
  skipBp : Bool
  eret : Bool
  deriving DecidableEq, Repr

def Pending.none : Pending := ⟨false, false, false, false, false, false, .none, .none, .none, false, false, false⟩

/-- The trap shadow (R337). -/
structure Shadow where
  resumeAt : W32
  lands : List Land
  pend : List Pend
  mt : List StreamWord
  mc : List StreamWord
  mg : List StreamWord
  cq : List CqEntry
  loops : Vector Loop 6
  q : Vector (Option (BitVec 4)) 4
  s16 : List W64
  tg : Vector W32 8
  ag : Vector AGen 8
  vbmm : Nat
  idle : Nat
  wait : Wait
  waitOrg : Org
  drn : Bool
  bundles : Nat
  deriving DecidableEq, Repr

/-- An entry of the fault list: the command or stream at fault, whether it writes, and TIF of its bundle (R342). -/
structure FaultEntry where
  queue : Nat
  num : Nat
  va : W64
  wr : Bool
  tif : Bool
  deriving DecidableEq, Repr

/-- Loop counters of one level (R389, R391). -/
structure Counters where
  issued : BitVec 48
  stall : BitVec 48
  fill : Vector (BitVec 48) 8
  noop : Vector (BitVec 48) 8
  deriving DecidableEq, Repr

/-- What a debug stop shows of the unit that a context holds (DSTAT of R380 Table 3). -/
structure Dbg where
  stopped : Bool
  why : BitVec 4
  arg : BitVec 16
  fatal : Bool
  deriving DecidableEq, Repr

/-- Replay logging and replay mode of a unit (R393-R400); `since` counts its cycles from its last issue; `asId` is the logged unit that a replay
stands for: its launch, unit and CTXID; `issued`: the bundles a replay has issued, with the slots of their executing words (R400). -/
structure Replay where
  since : Nat
  logging : Bool
  replaying : Bool
  base : W64
  log2 : Nat
  ord : W32
  wr : Nat
  rd : Nat
  asId : Option (W32 × W32 × BitVec 14)
  issued : List (Org × List Nat)
  deriving DecidableEq, Repr

/-- The answer of a `launch` that has not landed: register, condition entry, code and id once given, bundle (R92). In a replay also an
`xdisp` that waits for its answer from the log (`disp`). -/
structure Answer where
  reg : BitVec 5
  tok : Nat
  cqTok : Nat
  res : Option (BitVec 4 × W32)
  org : Org
  disp : Bool
  deriving DecidableEq, Repr

/-- A matrix-engine operation's kind (R222). -/
inductive MKind where
  | call | mload | aclr | acmv
  deriving DecidableEq, Repr

/-- An accepted matrix-engine operation (R222, R239). -/
structure MOp where
  kind : MKind
  seq : Nat
  x : CtxId
  launch : W32
  unit : W32
  org : Org
  mp : Vector W64 8
  d : BitVec 3
  src : BitVec 3
  mode : BitVec 2
  idx : BitVec 8
  na : Bool
  nega : Bool
  negb : Bool
  ft : W32
  ta : Option (BitVec 8)
  tb : Option (BitVec 8)
  addr : W64
  after : Nat
  deriving DecidableEq, Repr

/-- The decoded parameters of a running call (R227, R229, R230); la and lb say in which table each operand's name resolved when it started:
none for an unbound handle, true for the launch table. -/
structure CallPar where
  m : Nat
  n : Nat
  kg : Nat
  g : Nat
  fa : BitVec 5
  fb : BitVec 5
  qa : Nat
  qb : Nat
  smode : BitVec 2
  fp32 : Bool
  drow : Nat
  dcol : Nat
  sa : Nat
  sb : Nat
  la : Option Bool
  lb : Option Bool
  deriving DecidableEq, Repr

/-- A call under way (R223, R226, R232, R233, R235): its routine position, group, inner accumulators, slices and popped scales, which sides' CK reads
have been counted, and the tile that each side last loaded from; the epilogue that it has still to make, the core's cycle at which its latest step is
over, and the one at which it completes (R223). -/
structure Call where
  op : MOp
  par : CallPar
  pos : Nat
  group : Nat
  first : Bool
  inner : List Int
  aSl : Option (List Int)
  bSl : Option (List Int)
  stepped : Bool
  popped : Bool
  promoted : Bool
  scA : BitVec 1024
  scB : BitVec 1024
  tr : Option Bool
  kadv : Bool
  bwrDone : Bool
  causes : BitVec 12
  steps : Nat
  ckA : Bool
  ckB : Bool
  atA : Option Nat
  atB : Option Nat
  epi : Option (BitVec 2)
  ready : Nat
  doneAt : Nat
  deriving DecidableEq, Repr

/-- A held tuple of a front (R250, R251). -/
structure Tuple where
  obj : BitVec 128
  tag : W32
  deriving DecidableEq, Repr

/-- Front state, R250 Table 1. -/
structure Front where
  dm1 : BitVec 2
  dir : BitVec 4
  pol : BitVec 2
  kappa : BitVec 2
  sph : BitVec 4
  tuples : List Tuple
  sr : BitVec 4
  disc : W32
  remv : W32
  nand : W32
  ovfd : W32
  deriving DecidableEq, Repr

def Front.empty : Front := ⟨0, 0, 0, 0, 0, [], 0, 0, 0, 0, 0⟩

/-- Front operations (R256). -/
inductive FKind where
  | finit | fins | fmrg | fclr
  deriving DecidableEq, Repr

/-- An accepted front operation (R256). -/
structure FOp where
  kind : FKind
  seq : Nat
  x : CtxId
  launch : W32
  unit : W32
  org : Org
  bank : BitVec 3
  src : BitVec 3
  cfg : W64
  v : VReg
  n : W64
  after : Nat
  deriving DecidableEq, Repr

/-- A running front operation: what remains to insert, whether its unit has ended, which discards its results, and the core's cycle at which its engine
cycle at hand is over (R256, R258, R261, R262, R343). -/
structure FRun where
  op : FOp
  todo : List Tuple
  causes : BitVec 12
  dead : Bool
  ready : Nat
  deriving DecidableEq, Repr

/-- One hardware context (R67, R68, R99-R101, R128-R131, R341 Table 4). `arv`: ARV and AP of the barriers where either is set (R267). `latchAlloc`: its next bundle waits for the allocation of an unpark that a latch read
started (R165, R166). `latched`: its results stay latched until its next bundle can issue, as a fault of its shadow is with the page handler (R336, R342).
`obs`: of each flag word, by address, the releases that the value last read continues (R285). `prog`: the progress words of completed commands, by queue and number, as their queue keeps them (R198). -/
structure Ctx where
  st : CtxState
  wait : Wait
  waitOrg : Org
  sw : Vector Wait 3
  fz : Bool
  latched : Bool
  launch : W32
  unit : W32
  vf : Nat
  priv : Bool
  pc : W32
  nextPc : Option W32
  s : Vector W64 32
  v : Vector VReg 32
  k : Vector Mask 8
  sh : Vector W32 4
  rlen : BitVec 512
  tg : Vector W32 8
  ag : Vector AGen 8
  loops : Vector Loop 6
  cq : List CqEntry
  event : Bool
  segs : List (W32 × W32)
  half0 : Option Half
  half1 : Option Half
  idle : Nat
  lands : List Land
  vbmm : Nat
  pend : List Pend
  mt : List StreamWord
  mc : List StreamWord
  mg : List StreamWord
  drn : Bool
  bundles : Nat
  sqA : List (BitVec 1024)
  sqB : List (BitVec 1024)
  ft : Vector W32 16
  ftlevel : BitVec 3
  mp : Vector W64 8
  sticky : Vector W64 8
  trapcause : W32
  trapba : W32
  trapsc : BitVec 40
  trapvec : W32
  tif : Bool
  shadow : Option Shadow
  faultList : List FaultEntry
  scycle : BitVec 40
  quota : BitVec 11
  h : Vector (Option Ring) 16
  q : Vector (Option (BitVec 4)) 4
  binds : List Binding
  obs : List (W64 × List Rel)
  arv : List (Nat × Bool × Bool)
  tiles : List (Nat × Tile)
  eq : Vector (List Cmd) 4
  ccq : List Cmd
  stores : List Store
  cnt : Vector Counters 6
  allocWait : Vector Nat 4
  latchAlloc : Bool
  prog : List (Nat × Nat × W64)
  wd : Nat
  readyWait : Nat
  pendEv : Pending
  dbg : Dbg
  rep : Replay
  ans : List Answer
  saved : List MOp
  savedCall : Option Call
  savedF : List FOp
  tokCtr : Nat
  deriving DecidableEq, Repr

/-! ### One core -/

/-- A named barrier's record (R264 Table 1), with the number of its holding (R196), and how often PHASE has flipped in it, for the waits that the next
flip ends (R280). -/
structure Barrier where
  pend : BitVec 36
  exp : BitVec 16
  owner : W32
  phase : Bool
  target : BitVec 16
  inst : Nat
  flips : Nat
  deriving DecidableEq, Repr

def Barrier.free : Barrier := ⟨0, 0, 0, false, 0, 0, 0⟩

/-- A loaded routine of a launch (R231). -/
structure Routine where
  launch : W32
  idx : BitVec 8
  words : List W64
  deriving DecidableEq, Repr

/-- A translation-buffer entry: function, page base, page size in bits, physical base, W and PRIV (R187, R190). -/
structure Tlb where
  vf : Nat
  va : Nat
  bits : Nat
  pa : Nat
  w : Bool
  priv : Bool
  deriving DecidableEq, Repr

/-- Retention states of a store bank (R170). -/
inductive Reten where
  | active | entering | retained | leaving
  deriving DecidableEq, Repr

/-- One core (R2 Table 2, R67, R155, R170, R219, R222, R231, R256, R264). `last`: launch and unit index of its latest issuing context (R72). `bankAt`,
`retenAt`: the cycles of each store bank's latest access and latest step into or out of retention (R170). `took`: the tile entries accessed in this
cycle, with the accessor's place in the order of R160. `snapaddr`: register SNAPADDR of each context (R380). -/
structure Core where
  ctx : Vector Ctx 4
  cur : Option CtxId
  nxt : Option CtxId
  last : Option (W32 × W32)
  ltiles : List (Nat × List (Nat × Tile))
  banks : Vector Bank 8
  grant : Vector (Option CtxId) 8
  cls : Vector (BitVec 2) 8
  front : Vector Front 2
  fq : Vector (List FOp) 2
  frun : Vector (Option FRun) 2
  mq : List MOp
  call : Option Call
  tails : List Call
  mrun : Option MOp
  rts : List Routine
  nb : List (Nat × Barrier)
  reten : Vector Reten 4
  bankAt : Vector Nat 4
  retenAt : Vector Nat 4
  took : List (TLoc × Nat)
  snapaddr : Vector W64 4
  corrected : W64
  tlb : List Tlb
  rotX : Nat
  rotQ : Nat
  cyc : Nat
  seqCtr : Nat
  deriving DecidableEq, Repr

/-! ### The device -/

/-- Stages of a launch (R74, R325). -/
inductive LStage where
  | admitted | complete | cancelled
  deriving DecidableEq, Repr

/-- A launch: its packet's fields (R315) and its counters (R157, R318, R321-R325, R332); the number of its graph's instance, whether that still counts it
(R74), and when its last unit was done (R323). -/
structure Launch where
  id : W32
  vf : Nat
  corr : W32
  coloc : Nat
  pol : BitVec 2
  priv : Bool
  bg : Bool
  deadline : W64
  budget : W32
  units : W32
  image : W64
  args : W64
  cmask : BitVec 16
  graph : W32
  waits : List (BitVec 16)
  done : BitVec 16
  source : Option (Nat × W32)
  slot : Nat
  stage : LStage
  spent : W64
  residue : W32
  late : Bool
  ovr : Bool
  crossed : Bool
  demoted : Bool
  placed : Nat
  doneUnits : Nat
  cause : BitVec 8
  parkUsed : Nat
  parkCap : Nat
  seq : Nat
  gone : List Nat
  inst : Nat
  counted : Bool
  doneAt : Option W64
  skimNs : Nat
  deriving DecidableEq, Repr

/-- An instance of GRAPH, PHASE or JOB (levels 2, 3, 4) (R74, R75): its own number and that of its parent, whether it takes no further children, and its
completion counter of outstanding children. An id may name a new one once the old one is complete; the old one is then `past` (R358). -/
structure Inst where
  level : Nat
  id : W32
  up : Nat
  vf : Nat
  closed : Bool
  cancelled : Bool
  count : Nat
  serial : Nat
  past : Bool
  deriving DecidableEq, Repr

/-- A packet that has reached a partition's controller and awaits its test (R319): the cycle it came in, who awaits the answer (an entry of a queue, a
`launch` word of a unit, or a function of another device), and the phase and job that its queue named as it was fetched (R358). -/
structure Arrival where
  vf : Nat
  slot : Nat
  packet : BitVec 512
  fromQueue : Option (Nat × W32)
  fromCtx : Option (W32 × W32 × Nat)
  fromDev : Option (BitVec 12 × BitVec 8)
  priv : Bool
  graph : W32
  phase : W32
  job : W32
  cycle : Nat
  refused : Bool
  deriving DecidableEq, Repr

/-- A software queue's registers (R358 Table 2). -/
structure Queue where
  qbase : W64
  cqbase : W64
  cqsig : W64
  log2n : BitVec 5
  en : Bool
  vec : Byte
  irq : Bool
  qerr : Bool
  tail : W32
  head : W32
  done : W32
  job : W32
  phase : W32
  headId : W32
  fetched : Bool
  closing : Bool
  deriving DecidableEq, Repr

def Queue.reset : Queue := ⟨0, 0, 0, 0, false, 0, false, false, 0, 0, 0, 0, 0, 0, false, false⟩

/-- A breakpoint entry's two words (R384 Table 5). -/
structure BreakPt where
  w0 : W64
  w1 : W64
  deriving DecidableEq, Repr

/-- A debug slot (R377 Table 1). -/
structure DbgSlot where
  w0 : W64
  logbase : W64
  loglog2 : BitVec 6
  bps : Vector BreakPt 8
  deriving DecidableEq, Repr

/-- Trace and sampling registers (R385 Table 6). -/
structure TraceRegs where
  tbase : W64
  ten : Bool
  wrap : Bool
  tlog2 : BitVec 6
  twr : W64
  trd : W64
  tlost : W64
  tmask : W64
  sper : W64
  sbase : W64
  slog2 : BitVec 6
  swr : W64
  lost : List Nat
  deriving DecidableEq, Repr

/-- The fields of a trace record (R386 Table 7) before it enters its ring. -/
structure TraceRec where
  type : Nat
  eng : Nat
  core : Nat
  ctx : Nat
  sub : Nat
  ba : Nat
  hnd : Bool
  sc : Nat
  corr : Nat
  payload : Nat
  deriving DecidableEq, Repr

/-- A record in its source's queue: its function, its time, and whether records of the source were dropped before it (R386, R388). -/
structure Traced where
  vf : Nat
  rec_ : TraceRec
  time : Nat
  lost : Bool
  deriving DecidableEq, Repr

/-- A fault record (R348). -/
structure FaultRec where
  launch : W32
  unit : W32
  ctxid : BitVec 14
  cause : W32
  ba : W32
  sc : BitVec 40
  scycle : BitVec 40
  sticky : Vector W64 8
  deriving DecidableEq, Repr

/-- A virtual function (R357). -/
structure Vf where
  live : Bool
  cfg : VfConfig
  queues : List (Nat × Queue)
  dbg : List (Nat × DbgSlot)
  tr : TraceRegs
  faults : List FaultRec
  lateCtr : W64
  faultCtr : W64
  errCtr : W64
  plugin : Bool
  pluginStops : Nat
  pluginDigest : BitVec 256
  pluginOrder : List Nat
  pluginTarget : Nat
  broken : List (BitVec 16)
  setters : List (BitVec 16 × W32)
  posted : List (Nat × CtxId × Nat)
  deriving DecidableEq, Repr

/-- A hardware queue slot: its queue, whether it stops after the entry at hand, and the queue that a SWITCH gives it then (R324). -/
structure HwSlot where
  vf : Nat
  q : Nat
  stopping : Bool
  next : Option (Nat × Nat)
  deriving DecidableEq, Repr

/-- A frame: the pre-empted unit's core, its context, its granted banks, and whether it lies in the core's frame store or in the launch's frame region in
HBM (R340, R341). -/
structure Frame where
  core : Nat
  ctx : Ctx
  banks : List (Nat × BitVec 2 × Bank × Front)
  inStore : Bool
  deriving DecidableEq, Repr

/-- A checkpoint that a SNAP wrote (R398): its function and address, its header and the header of its frame record as they were written, and the unit it stands
for, with the tiles the unit could name. -/
structure Snap where
  vf : Nat
  addr : W64
  head : List W64
  x : CtxId
  frame : Frame
  tiles : List (Nat × Tile)
  deriving DecidableEq, Repr

/-- A translation fault with the page handler (R189, R197, R198): who met it, and where; with `hold`, it was delivered from a fault list as the
interrupted code resumed, and the code waits for it (R342). -/
structure PFault where
  core : Nat
  x : CtxId
  va : W64
  wr : Bool
  queue : Nat
  num : Nat
  hold : Bool
  deriving DecidableEq, Repr

/-- A walk in progress or waiting in a cluster (R190). -/
structure Walk where
  vf : Nat
  va : Nat
  who : List PFault
  deriving DecidableEq, Repr

/-- An invalidation: the commands ahead of its markers, the `gtlbi` that waits for it, and the old mapping those commands complete with: the
buffer entries it dropped and the table words it replaced (R200). -/
structure Inval where
  ahead : List Nat
  waiter : Option (Nat × CtxId × Nat)
  old : List Tlb
  pte : List (Nat × Nat)
  deriving DecidableEq, Repr

/-- Weight-object states (R299 Table 1). -/
inductive ObjState where
  | fen | promoting | resident | reclaiming | poisoned
  deriving DecidableEq, Repr

/-- A weight object (R299-R306): its pins with their use counts, the commands and list places that wait for its copy, the launch that started
the copy, in which order it was asked for, and the device time at which its wait for slots began; `was`: the slots it last lost to their owner's demand (R306);
`spent`: the slots that a failed copy of it gave back, no fresh ones for the next (R301). -/
structure WObj where
  vf : Nat
  id : W32
  base : Nat
  len : Nat
  expert : Bool
  back : Option Nat
  st : ObjState
  pins : List (W32 × Nat)
  slots : List Nat
  was : List Nat
  lent : Bool
  odem : Bool
  waiters : List (Nat × Nat)
  payer : W32
  since : Nat
  asked : W64
  spent : List Nat
  fromBack : Bool
  deriving DecidableEq, Repr

/-- A window slot: its class, its owner function (expert slots), and when the owner last held a pin on an object in it (R294, R306). -/
structure WSlot where
  expert : Bool
  owner : Nat
  lastPin : Option Nat
  deriving DecidableEq, Repr

/-- A bias set in one die (R307). -/
structure Bias where
  active : List (Nat × W32)
  shadow : List (Nat × W32)
  version : W32
  deriving DecidableEq, Repr

def Bias.zero : Bias := ⟨[], [], 0⟩

/-- A message that leaves on the Causeway, in its flits (R364): packets and blocks, what a receiver answers, collective data and aborts. -/
inductive Flit where
  | launch (dev : BitVec 12) (vf : BitVec 8) (packet : BitVec 512)
  | send (dev : BitVec 12) (vf : BitVec 8) (tag : W32) (len : Nat) (data : List (BitVec 512))
  | sendAnswer (dev : BitVec 12) (vf : BitVec 8) (tag : W32) (len code : Nat)
  | coll (group : BitVec 12) (inst : W32) (rank : Nat) (data : List (BitVec 512))
  | abort (group : BitVec 12) (inst : W32)
  | answer (dev : BitVec 12) (vf : BitVec 8) (id : W32) (code : BitVec 4)
  | denied (dev : BitVec 12) (vf : BitVec 8) (group : BitVec 12) (inst : W32)
  | time (dev : BitVec 12) (now : W64)
  | credit (port n : Nat)
  deriving DecidableEq, Repr

/-- What is there of a rank's data in an instance: the lines so far, and whether they are all; for the ranks of one function, as flits bring it, or for
every rank here (R365, R369). -/
structure RankData where
  inst : W32
  rank : Nat
  vf : Option Nat
  lines : List (BitVec 512)
  all : Bool
  deriving DecidableEq, Repr

/-- A collective group: its number of ranks, this device's member ranks (rank, launch, unit), the last INST each rank issued, the instances that
have been aborted, the ranks whose units a fatal fault has ended, and the data of the ranks (R368-R370). -/
structure Group where
  p : Nat
  members : List (Nat × W32 × W32)
  lastInst : List (Nat × W32)
  aborted : List W32
  ended : List Nat
  inbox : List RankData
  deriving DecidableEq, Repr

/-- Security, boot and power state (R401-R407). -/
structure Boot where
  ready : Bool
  fail : BitVec 4
  stp : BitVec 4
  fch : BitVec 7
  thr : Bool
  version : W32
  rollback : W64
  digests : BitVec 1024
  powered : Bool
  hot : Vector Bool 2
  temp : Vector Nat 2
  attestQ : List (BitVec 8 × BitVec 256)
  reports : List (BitVec 8 × BitVec 1792 × BitVec 62848)
  fwUp : Vector Bool 4
  fwResets : Nat
  ideIo : Bool
  ideMem : Bool
  ideKeys : Vector (BitVec 256) 2
  ideSkid : Vector Bool 2
  linkErr : Bool
  deriving DecidableEq, Repr

/-- Who performs the word or event at hand: core, context, slot, its origin, its leaf, its token, the operand values it carries
(R37) and the condition entry it reserved (R42). -/
structure Cur where
  core : Nat
  x : CtxId
  slot : Nat
  org : Org
  leaf : Nat
  tok : Nat
  bundle : Nat
  ops : Ops
  cqTok : Nat
  note : Option Nat
  raw : W32
  deriving DecidableEq, Repr

/-- An executing compute word of the bundle being issued: its slot, its bits, its number, and the condition entry it reserved. -/
structure IssueWord where
  slot : Nat
  word : W32
  tok : Nat
  cqTok : Nat
  deriving DecidableEq, Repr

/-- Who moves next: a row of the table with the world's data for it, the head of a memory stream (0 MT, 1 MC, 2 MG), or the matrix engine's next
routine word. The order of the device's agents is free (R410); it is held here as data. -/
inductive Move where
  | row (i : Instr) (a : Args)
  | stream (c : Nat) (x : CtxId) (m : Fin 3)
  | engine (c : Nat)
  deriving DecidableEq, Repr

/-- The state of the device. `preempts`: the core chosen for each group whose victims leave one after another, by launch and first unit (R328);
`moving`: the cores under way from one partition to another (R330); `wstores`: stores of ended units into their windows, not yet performed, by launch
and function (R291); `hostData`: what the host's latest read of the device returned;
`late`: the writes that are not yet visible to all, in coherence order, and `rels`: the releases that the value of each flag word, by physical address,
continues (R284-R288); `traceq`: the records that wait in their sources' queues, `traceHeld`: none enters a ring for now, `traceLost`: the sources that
have dropped one since (R388); `closed`: phases and jobs, by level, function and id, that a queue has closed before the first packet of
theirs was tested (R358). -/
structure State where
  cores : List (Nat × Core)
  mem : List Host.Cell
  late : List Late
  rels : List (Nat × List Rel)
  poison : List Nat
  vfs : List (Nat × Vf)
  launches : List Launch
  insts : List Inst
  closed : List (Nat × Nat × W32)
  slots : List (Nat × HwSlot)
  adm : List Arrival
  rot : List (Nat × Nat)
  frames : List Frame
  wstores : List (W32 × Nat × Store)
  preempts : List (W32 × W32 × Nat)
  moving : List (Nat × Nat × Nat)
  snaps : List Snap
  traceq : List Traced
  traceHeld : Bool
  traceLost : List Nat
  pfaults : List PFault
  walks : List (Nat × List Walk)
  ctlb : List (Nat × List Tlb)
  invs : List Inval
  objs : List WObj
  wslots : List (Nat × WSlot)
  slotBits : Nat
  winBase : Nat
  bias : List (Nat × Bias)
  devno : BitVec 12
  routes : List (Nat × Nat)
  tenants : List (Nat × W64)
  flits : List Flit
  credits : Vector Nat 16
  retries : W64
  groups : List (Nat × Group)
  msix : List (Nat × Byte)
  hostSize : Nat
  hdmSize : W64
  fenDown : List Nat
  fenCorrected : W64
  fenBad : List (Nat × Nat)
  fenErr : List (Nat × Nat)
  hostData : BitVec 512
  fenRanges : List (Nat × Nat × Nat × Bool)
  boot : Boot
  timeBase : W64
  slewBy : Int
  slewAt : Nat
  clk : Nat
  idCtr : W32
  uidCtr : Nat
  freeCtr : Nat
  sched : List Move
  cur : Cur
  ev : Args
  words : List IssueWord
  popMask : BitVec 4
  issuing : Bool
  deriving DecidableEq, Repr

/-! ### Ways a step can stop -/

/-- Faults: the machine as a whole stops. The fatal faults of R343 end a context, are NEXT states, and are not here. -/
inductive Fault where
  /-- Raised by `step` when power has been removed after a thermal trip and no POWER_ON is scheduled (R407: the device
  restarts only after a cold boot). Safe: nothing runs. -/
  | powerRemoved
  deriving DecidableEq, Repr

/-- Refusals. -/
inductive Refusal where
  /-- Raised by an arm of `exec` that has no meaning yet. Safe. -/
  | notModelled (mnemonic : String)
  /-- Raised by `step` when a scheduled stream or engine move names a word that does not decode, which no issued bundle
  leaves behind (R35). Safe: the step answers nothing. -/
  | undecodable
  deriving DecidableEq, Repr

/-! ### Reset -/

def AGen.zero : AGen := ⟨0, Vector.replicate 6 0⟩

def Ops.zero : Ops := ⟨Vector.replicate 32 0, 0, Vector.replicate 8 0, 0⟩

def Counters.zero : Counters := ⟨0, 0, Vector.replicate 8 0, Vector.replicate 8 0⟩

/-- A FREE context: every register at the reset value of its table; TRAPVEC as placement sets it (R68, R96, R337). -/
def Ctx.reset : Ctx where
  st := .free
  wait := .none
  waitOrg := Org.zero
  sw := Vector.replicate 3 .none
  fz := false
  latched := false
  launch := 0
  unit := 0
  vf := 0
  priv := false
  pc := 0
  nextPc := none
  s := Vector.replicate 32 0
  v := Vector.replicate 32 0
  k := Vector.replicate 8 0
  sh := Vector.replicate 4 0
  rlen := 0
  tg := Vector.replicate 8 0
  ag := Vector.replicate 8 AGen.zero
  loops := Vector.replicate 6 Loop.off
  cq := []
  event := false
  segs := []
  half0 := none
  half1 := none
  idle := 0
  lands := []
  vbmm := 0
  pend := []
  mt := []
  mc := []
  mg := []
  drn := false
  bundles := 0
  sqA := []
  sqB := []
  ft := Vector.replicate 16 0
  ftlevel := 0
  mp := Vector.replicate 8 0
  sticky := Vector.replicate 8 0
  trapcause := 0
  trapba := 0
  trapsc := 0
  trapvec := 0xFFFFFFFF#32
  tif := false
  shadow := none
  faultList := []
  scycle := 0
  quota := 0
  h := Vector.replicate 16 none
  q := Vector.replicate 4 none
  binds := []
  obs := []
  arv := []
  tiles := []
  eq := Vector.replicate 4 []
  ccq := []
  stores := []
  cnt := Vector.replicate 6 Counters.zero
  allocWait := Vector.replicate 4 0
  latchAlloc := false
  prog := []
  wd := 0
  readyWait := 0
  pendEv := Pending.none
  dbg := ⟨false, 0, 0, false⟩
  rep := ⟨0, false, false, 0, 0, 0, 0, 0, none, []⟩
  ans := []
  saved := []
  savedCall := none
  savedF := []
  tokCtr := 0

/-- A core after reset: four FREE contexts, banks zero, ungranted and of class MATRIX (R67, R220), every barrier free (R264). -/
def Core.reset : Core where
  ctx := Vector.replicate 4 Ctx.reset
  cur := none
  nxt := none
  last := none
  ltiles := []
  banks := Vector.replicate 8 0
  grant := Vector.replicate 8 none
  cls := Vector.replicate 8 0
  front := Vector.replicate 2 Front.empty
  fq := Vector.replicate 2 []
  frun := Vector.replicate 2 none
  mq := []
  call := none
  tails := []
  mrun := none
  rts := []
  nb := []
  reten := Vector.replicate 4 .active
  bankAt := Vector.replicate 4 0
  retenAt := Vector.replicate 4 0
  took := []
  snapaddr := Vector.replicate 4 0
  corrected := 0
  tlb := []
  rotX := 0
  rotQ := 0
  cyc := 0
  seqCtr := 0

def TraceRegs.reset : TraceRegs := ⟨0, false, false, 0, 0, 0, 0, 0, 0, 0, 0, 0, []⟩

def DbgSlot.reset : DbgSlot := ⟨0, 0, 0, Vector.replicate 8 ⟨0, 0⟩⟩

def VfConfig.none : VfConfig := ⟨0, 0, 0, 0, [], 20, 0, 0, 1024, 0, []⟩

/-- A configuration with a floor within its limits (R320). DESIGN CHOICE: a larger one is taken as 500 (log entry 40). -/
def legalCfg (k : VfConfig) : VfConfig := { k with floor := Nat.min k.floor 500 }

/-- A virtual function that does not exist yet (R357); its registers at their reset values (R358, R377, R385). -/
def Vf.reset : Vf := ⟨false, VfConfig.none, [], [], TraceRegs.reset, [], 0, 0, 0, false, 0, 0, [], 0, [], [], []⟩

def Boot.reset : Boot :=
  ⟨false, 0, 0, 0, false, 0, 0, 0, true, Vector.replicate 2 false, Vector.replicate 2 0, [], [],
    Vector.replicate 4 false, 0, false, false, Vector.replicate 2 0, Vector.replicate 2 false, false⟩

def Args.zero : Args :=
  ⟨0, 0, 0, 0, 0, 0, 0, 0, 0, 0, none, false, [], [], 0, 0, 0, .readOnly,
    ⟨false, false, false, 0, false, false, [], 0, 0, 0, 0, []⟩, VfConfig.none⟩

def Cur.zero : Cur := ⟨0, 0, 0, Org.zero, 4, 0, 0, Ops.zero, 0, none, 0⟩

/-- The device at power-on, before the boot steps of R401: every register at its reset value (R11), device time zero (R314),
memory with nothing listed. -/
def State.reset : State where
  cores := []
  mem := []
  late := []
  rels := []
  poison := []
  vfs := []
  launches := []
  insts := []
  closed := []
  slots := []
  adm := []
  rot := []
  frames := []
  wstores := []
  preempts := []
  moving := []
  snaps := []
  traceq := []
  traceHeld := false
  traceLost := []
  pfaults := []
  walks := []
  ctlb := []
  invs := []
  objs := []
  wslots := []
  slotBits := 15
  winBase := 0
  bias := []
  devno := 0
  routes := []
  tenants := []
  flits := []
  credits := Vector.replicate 16 0
  retries := 0
  groups := []
  msix := []
  hostSize := 0
  hdmSize := 0
  fenDown := []
  fenCorrected := 0
  fenBad := []
  fenErr := []
  hostData := 0
  fenRanges := []
  boot := Boot.reset
  timeBase := 0
  slewBy := 0
  slewAt := 0
  clk := 0
  idCtr := 0
  uidCtr := 0
  freeCtr := 0
  sched := []
  cur := Cur.zero
  ev := Args.zero
  words := []
  popMask := 0
  issuing := false

end Sys2Proof.Machine
end

