-- ==== Sys2Proof/Machine/Bits.lean ====
section
/-! DEFINITION. Bit fields, bytes and lists: reading and writing fields of wide words, little-endian bytes,
and lists as vectors (R4-R6, R14). -/

namespace Sys2Proof.Machine

/-- The value w with bits [lo+n-1:lo] replaced by v. -/
def putBits {w : Nat} (x : BitVec w) (lo n : Nat) (v : BitVec n) : BitVec w :=
  (x &&& ~~~((BitVec.allOnes n).setWidth w <<< lo)) ||| (v.setWidth w <<< lo)

/-- n bytes from byte offset o. -/
def bytesAt {w : Nat} (x : BitVec w) (o n : Nat) : BitVec (8 * n) := fld x (8 * o) (8 * n)

/-- Byte o. -/
def byteAt {w : Nat} (x : BitVec w) (o : Nat) : Byte := fld x (8 * o) 8

/-- x with n bytes from offset o replaced. -/
def putBytes {w : Nat} (x : BitVec w) (o n : Nat) (v : BitVec (8 * n)) : BitVec w := putBits x (8 * o) (8 * n) v

/-- Element i of width n. -/
def elemAt {w : Nat} (x : BitVec w) (n i : Nat) : BitVec n := fld x (n * i) n

/-- Little-endian number of a list of n-bit digits. -/
def packNat (n : Nat) : List Nat → Nat
  | [] => 0
  | e :: r => e % 2 ^ n + 2 ^ n * packNat n r

/-- The word whose n-bit elements from bit 0 up are the list. -/
def packElems (w n : Nat) (l : List Nat) : BitVec w := BitVec.ofNat w (packNat n l)

/-- Sign extension of the low n bits of a natural number. -/
def signed (n v : Nat) : Int := if v % 2 ^ n < 2 ^ (n - 1) then (v % 2 ^ n : Nat) else (v % 2 ^ n : Nat) - (2 ^ n : Nat)

/-- A list as a vector, padded or cut (elements beyond the list are d). -/
def vecOf {α : Type} (n : Nat) (d : α) (l : List α) : Vector α n := ⟨((l ++ List.replicate n d).take n).toArray, by simp⟩

/-- A vector with entry i replaced, i taken modulo its length by the caller's type. -/
def vset {α : Type} {n : Nat} (v : Vector α n) (i : Fin n) (a : α) : Vector α n := v.set i a

/-- A vector with f applied to every entry and its number. -/
def vmapI {α : Type} {n : Nat} (f : Nat → α → α) (v : Vector α n) : Vector α n := ⟨(v.toList.mapIdx f).toArray, by simp⟩

/-- The entry of a register file that a field of n bits names. -/
def vget {α : Type} {n : Nat} (v : Vector α (2 ^ n)) (i : BitVec n) : α := v[i.toNat]'i.isLt

def bit (b : Bool) : Nat := if b then 1 else 0

/-- Replace the element at position i of a list. -/
def lset {α : Type} (l : List α) (i : Nat) (a : α) : List α := l.set i a

/-- ceil(a / b). -/
def ceilDiv (a b : Nat) : Nat := (a + b - 1) / b

/-- Number of trailing zero bits, at most fuel. -/
def ctzFuel : Nat → Nat → Nat
  | 0, _ => 0
  | f + 1, v => if v % 2 = 1 then 0 else 1 + ctzFuel f (v / 2)

/-- Bits needed to write v: floor(log2 v) + 1, and 0 for 0. -/
def bitLen (v : Nat) : Nat := if v = 0 then 0 else v.log2 + 1

/-- Number of one bits among the low f bits. -/
def popFuel : Nat → Nat → Nat
  | 0, _ => 0
  | f + 1, v => v % 2 + popFuel f (v / 2)

/-- Bits of a parameter register that are not reserved (R229 Tables 2 and 3). -/
def mpMask (n : BitVec 3) : W64 :=
  match n.toNat with
  | 0 | 1 => 0x000000FFFFFFFFFF
  | 2 => 0x00000FFF00000FFF
  | 3 => 0x00000000900007DF
  | 4 => 0x000000000000007F
  | 5 => 0x0000000000000003
  | 6 => 0x0000000000003F3F
  | _ => 0xFFFFFFFFFFFFFFFF

/-- Bits of a shape record that are not reserved (R129). -/
def shMask : W32 := 0x00FFFFBF

/-- A shape record may hold a value (R129, R143). -/
def shapeOk (v : W32) : Bool := (fld v 0 4).toNat ≤ 10 && fld v 7 3 != 7#3 && fld v 6 1 = 0#1 && fld v 24 8 = 0#8

/-- Bits of a format-table entry that are not reserved (R124 Table 6). -/
def ftMask : W32 := 0x1FFFF7DF

end Sys2Proof.Machine
end

