-- ==== Sys2Proof/Machine/Access.lean ====
section
/-! DEFINITION. Reading and writing the parts of the state: cores, contexts, launches, functions and registers
(R67, R74, R99-R101, R128-R131, R357), and the results a word owes (R40-R42). -/

namespace Sys2Proof.Machine

abbrev Out := Host.Outcome State Fault Refusal

/-! ### Cores and contexts -/

def State.core (s : State) (c : Nat) : Core := alGet Core.reset c s.cores

def State.setCore (s : State) (c : Nat) (k : Core) : State := { s with cores := alSet c k s.cores }

def State.modCore (s : State) (c : Nat) (f : Core → Core) : State := s.setCore c (f (s.core c))

def Core.setCtx (k : Core) (x : CtxId) (cx : Ctx) : Core := { k with ctx := k.ctx.set x cx }

def Core.modCtx (k : Core) (x : CtxId) (f : Ctx → Ctx) : Core := k.setCtx x (f k.ctx[x])

def State.ctx (s : State) (c : Nat) (x : CtxId) : Ctx := (s.core c).ctx[x]

def State.setCtx (s : State) (c : Nat) (x : CtxId) (cx : Ctx) : State := s.modCore c (·.setCtx x cx)

def State.modCtx (s : State) (c : Nat) (x : CtxId) (f : Ctx → Ctx) : State := s.setCtx c x (f (s.ctx c x))

/-- The context that performs the word at hand. -/
def State.me (s : State) : Ctx := s.ctx s.cur.core s.cur.x

def State.modMe (s : State) (f : Ctx → Ctx) : State := s.modCtx s.cur.core s.cur.x f

/-- The core that performs the word at hand. -/
def State.here (s : State) : Core := s.core s.cur.core

def State.modHere (s : State) (f : Core → Core) : State := s.modCore s.cur.core f

/-- The cluster of a core: 96 cores each (R2). -/
def clusterOf (c : Nat) : Nat := c / 96

/-- The die of a core: clusters 0-7 and 8-15 (R2). -/
def dieOf (c : Nat) : Nat := c / 768

def allCtx : List CtxId := [0, 1, 2, 3]

/-- Every context of the listed cores that holds a unit (R67). -/
def State.units (s : State) : List (Nat × CtxId) :=
  s.cores.flatMap fun (c, k) => (allCtx.filter fun x => k.ctx[x].st != .free).map fun x => (c, x)

/-! ### Launches, functions -/

def State.launch? (s : State) (id : W32) : Option Launch := s.launches.find? fun l => l.id == id

def State.modLaunch (s : State) (id : W32) (f : Launch → Launch) : State :=
  { s with launches := s.launches.map fun l => if l.id = id then f l else l }

def State.vf (s : State) (n : Nat) : Vf := alGet Vf.reset n s.vfs

def State.setVf (s : State) (n : Nat) (v : Vf) : State := { s with vfs := alSet n v s.vfs }

def State.modVf (s : State) (n : Nat) (f : Vf → Vf) : State := s.setVf n (f (s.vf n))

/-- Cycles charged to a launch (R321). -/
def State.charge (s : State) (id : W32) (n : Nat) : State :=
  s.modLaunch id fun l => { l with spent := l.spent + BitVec.ofNat 64 n }

/-- The deadline of a unit: infinite for background and demoted launches (R71, R320, R322). -/
def Launch.dl (l : Launch) : Nat := if l.bg || l.demoted then 2 ^ 64 - 1 else l.deadline.toNat

def State.deadlineOf (s : State) (id : W32) : Nat := ((s.launch? id).map Launch.dl).getD (2 ^ 64 - 1)

/-- The unit index that a context shows: in a replay the logged unit's (R399). -/
def Ctx.unitNo (cx : Ctx) : W32 := (cx.rep.asId.map fun i => i.2.1).getD cx.unit

/-- DEADLINE as a function reads it: in its own time, all ones where it is infinite (R96, R314). -/
def State.deadlineCsr (s : State) (id : W32) : W64 :=
  match s.launch? id with
  | none => BitVec.allOnes 64
  | some l => if l.bg || l.demoted then BitVec.allOnes 64 else l.deadline + (alGet Vf.reset l.vf s.vfs).cfg.timeOff

/-- The part of a correction that has been slewed in: 100 parts per million of the nanoseconds since it began, up to the whole of it (R314). -/
def State.slewed (s : State) : Int :=
  let part := Nat.min s.slewBy.natAbs ((s.clk * 2 / 3 - s.slewAt * 2 / 3) / 10000)
  if s.slewBy < 0 then -(part : Int) else part

/-- A new correction by d nanoseconds begins; what the last one has done stays done (R314). -/
def State.slewTo (s : State) (d : Int) : State :=
  { s with timeBase := s.timeBase + BitVec.ofInt 64 s.slewed, slewBy := d, slewAt := s.clk }

/-- Firmware core q runs (R361, R363). -/
def State.fwRuns (s : State) (q : Nat) : Bool := (s.boot.fwUp.toList[q]?).getD false

/-- Device time in ns: 1.5 cycles per ns since the time was set (R2, R314). -/
def State.now (s : State) : W64 :=
  s.timeBase + BitVec.ofNat 64 (s.clk * 2 / 3) + BitVec.ofInt 64 s.slewed

/-- Time as a function reads it (R314). -/
def State.vfNow (s : State) (vf : Nat) : W64 := s.now + (s.vf vf).cfg.timeOff

/-! ### Registers as the compute group reads them (R37) -/

/-- Scalar register: s0 reads as zero (R68, R99). -/
def Ctx.sreg (cx : Ctx) (r : BitVec 5) : W64 := if r = 0 then 0 else vget (n := 5) cx.s r

def State.sreg (s : State) (r : BitVec 5) : W64 := s.me.sreg r

/-- Mask register: k0 reads as all ones (R68, R131). -/
def Ctx.kreg (cx : Ctx) (r : BitVec 3) : Mask := if r = 0 then BitVec.allOnes 512 else vget (n := 3) cx.k r

/-- A scalar value a memory-slot word carries from its issue (R37). -/
def Ops.sreg (o : Ops) (r : BitVec 5) : W64 := if r = 0 then 0 else vget (n := 5) o.s r

def State.opS (s : State) (r : BitVec 5) : W64 := s.cur.ops.sreg r

def Ctx.setS (cx : Ctx) (r : BitVec 5) (v : W64) : Ctx :=
  if r = 0 then cx else { cx with s := vset (n := 2 ^ 5) cx.s r.toFin v }

def Ctx.setV (cx : Ctx) (r : BitVec 5) (v : VReg) : Ctx := { cx with v := vset (n := 2 ^ 5) cx.v r.toFin v }

def Ctx.setK (cx : Ctx) (r : BitVec 3) (v : Mask) : Ctx :=
  if r = 0 then cx else { cx with k := vset (n := 2 ^ 3) cx.k r.toFin v }

def Ctx.agOf (cx : Ctx) (r : BitVec 3) : AGen := vget (n := 3) cx.ag r

def Ctx.setAg (cx : Ctx) (r : BitVec 3) (a : AGen) : Ctx := { cx with ag := vset (n := 2 ^ 3) cx.ag r.toFin a }

def AGen.setStride (a : AGen) (l : Nat) (v : W64) : AGen := if h : l < 6 then { a with st := a.st.set l v } else a

/-! ### Results in flight -/

/-- A compute result is put in flight: it lands at the end of the lat-th cycle from this one (R41). -/
def State.land (s : State) (lat : Nat) (d : Dest) (causes : BitVec 12) : State :=
  s.modMe fun cx => { cx with lands := cx.lands ++ [⟨lat, d, s.cur.slot, causes, s.cur.org⟩] }

/-- A word at hand as the stream word it was (R37). -/
def Cur.word (u : Cur) : StreamWord :=
  ⟨u.tok, u.slot, u.raw, u.org, u.bundle, u.ops, u.cqTok, u.note⟩

/-- Slots 5, 6, 7 feed the streams MT, MC, MG (R26 Table 1). -/
def streamOf (slot : Nat) : Fin 3 := if slot = 5 then 0 else if slot = 6 then 1 else 2

def Ctx.stream (cx : Ctx) (m : Fin 3) : List StreamWord :=
  match m with
  | 0 => cx.mt
  | 1 => cx.mc
  | 2 => cx.mg

def Ctx.setStream (cx : Ctx) (m : Fin 3) (l : List StreamWord) : Ctx :=
  match m with
  | 0 => { cx with mt := l }
  | 1 => { cx with mc := l }
  | 2 => { cx with mg := l }

/-- The word at hand stays at the head of its stream, waiting on w (R38, R73). -/
def State.waitHead (s : State) (w : Wait) : State :=
  let m := streamOf s.cur.slot
  s.modMe fun cx => { (cx.setStream m (s.cur.word :: cx.stream m)) with sw := vset cx.sw m w }

/-- The word at hand has been performed: its stream waits on nothing (R44). -/
def State.performed (s : State) : State :=
  s.modMe fun cx => { cx with sw := vset cx.sw (streamOf s.cur.slot) .none }

/-- An interlocked write's value is known: it lands after `left` cycles, or when the world returns it (R40, R175). -/
def Ctx.fillPend (cx : Ctx) (tok left : Nat) (v : VReg) (again : Option StreamWord) : Ctx :=
  { cx with pend := cx.pend.map fun p => if p.tok = tok then { p with val := some v, left := left, again := again } else p }

/-- The interlocked write of a word is dropped: it performed without a result. -/
def Ctx.dropPend (cx : Ctx) (tok : Nat) : Ctx := { cx with pend := cx.pend.filter fun p => p.tok != tok }

/-- The value of the word's interlocked write (R40). -/
def State.result (s : State) (left : Nat) (v : VReg) : State := s.modMe (·.fillPend s.cur.tok left v none)

/-- A reservation of the condition queue fills; one that `cqclr` discarded is dropped (R42, R91). -/
def Ctx.fillCq (cx : Ctx) (tok : Nat) (b : Bool) : Ctx :=
  { cx with cq := cx.cq.map fun e => if e.tok = tok then { e with val := some b } else e }

/-- The word at hand fills the entry it reserved (R42). -/
def State.pushCq (s : State) (b : Bool) : State := s.modMe (·.fillCq s.cur.cqTok b)

/-- A fresh number for tokens of one context. -/
def Ctx.newTok (cx : Ctx) : Nat × Ctx := (cx.tokCtr, { cx with tokCtr := cx.tokCtr + 1 })

/-- A fresh free value: what the spec does not state (`Config.freeWord`). -/
def State.free (s : State) : W64 × State := (Config.freeWord s.freeCtr, { s with freeCtr := s.freeCtr + 1 })

/-- A fresh tile or command number. -/
def State.newUid (s : State) : Nat × State := (s.uidCtr, { s with uidCtr := s.uidCtr + 1 })

/-! ### Sticky records (R347) -/

/-- An operation sets causes X in the record of a slot. -/
def stickySet (r : W64) (x : BitVec 12) (o : Org) : W64 :=
  if x = 0 then r else
    let first := fld r 0 12 = 0#12
    let hi : BitVec 46 := if first then (o.ba.extractLsb' 2 18) ++ (o.sc.extractLsb' 0 28) else fld r 18 46
    let cnt : BitVec 6 := fld r 12 6
    let cnt' : BitVec 6 := if cnt = 63#6 then 63#6 else cnt + 1
    hi ++ cnt' ++ (fld r 0 12 ||| x)

def Ctx.sticky1 (cx : Ctx) (slot : Nat) (x : BitVec 12) (o : Org) : Ctx :=
  if h : slot < 8 then { cx with sticky := cx.sticky.set slot (stickySet cx.sticky[slot] x o) } else cx

/-- Writing ones to a sticky record clears those causes; with none left the whole record is zero (R11, R347). -/
def stickyClear (r v : W64) : W64 :=
  let c : BitVec 12 := fld r 0 12 &&& ~~~(fld v 0 12)
  if c = 0 then 0 else putBits r 0 12 c

def cINV : BitVec 12 := 0x001
def cDZ : BitVec 12 := 0x002
def cOVF : BitVec 12 := 0x004
def cUNF : BitVec 12 := 0x008
def cIOVF : BitVec 12 := 0x010
def cABSENT : BitVec 12 := 0x020
def cCONV : BitVec 12 := 0x040
def cFRONTOVF : BitVec 12 := 0x080
def cNANDROP : BitVec 12 := 0x100
def cSCALEBAD : BitVec 12 := 0x200
def cCOUNTSAT : BitVec 12 := 0x400
def cLATE : BitVec 12 := 0x800

/-- The word at hand sets causes in its slot's record (memory-slot words and engine operations, at once). -/
def State.cause (s : State) (x : BitVec 12) : State := s.modMe (·.sticky1 s.cur.slot x s.cur.org)

/-! ### Segments (R63, R81, R82) -/

/-- The segment that holds a bundle address. -/
def segFind (pc : Nat) : Nat → List (W32 × W32) → Option Nat
  | _, [] => none
  | n, (o, l) :: r => if o.toNat ≤ pc ∧ pc < o.toNat + l.toNat then some n else segFind pc (n + 1) r

def Ctx.segOf (cx : Ctx) (pc : W32) : Option Nat := segFind pc.toNat 0 cx.segs

/-- The half that holds a segment complete, half 0 first, else one that receives it (R82; log entry 83). -/
def Ctx.halfOf (cx : Ctx) (n : Nat) : Option Half :=
  let hs := (cx.half0.toList ++ cx.half1.toList).filter fun (h : Half) => h.seg = n
  (hs.find? fun h => h.complete).or hs.head?

/-- The words of the window from a bundle address on (R82). -/
def Ctx.wordsAt (cx : Ctx) (pc : W32) : List W32 :=
  match cx.segOf pc with
  | none => []
  | some n =>
    match cx.halfOf n with
    | some h => h.code.drop ((pc.toNat - ((cx.segs[n]?.map fun p => p.1.toNat).getD 0)) / 4)
    | none => []

/-- Starts the copy of a segment into the half that does not hold the bundle at pc; nothing if the other half holds
or receives it (R81). DESIGN CHOICE: where both halves hold the bundle's segment complete, half 0 is the one that holds it (log entry 83). -/
def Ctx.startCopy (cx : Ctx) (pc : W32) (n : Nat) : Ctx :=
  let mine := cx.segOf pc
  let in0 := match cx.half0 with
    | some h => some h.seg = mine && h.complete
    | none => false
  if in0 then
    if (cx.half1.map fun h => h.seg) = some n then cx else { cx with half1 := some ⟨n, false, []⟩ }
  else
    if (cx.half0.map fun h => h.seg) = some n then cx else { cx with half0 := some ⟨n, false, []⟩ }

/-! ### Tile entries (R158) -/

def Tile.rows (t : Tile) : Nat := t.rowsm1.toNat + 1
def Tile.rowBytes (t : Tile) : Nat := (t.rbm1.toNat + 1) * 64
def Tile.size (t : Tile) : Nat := t.rows * t.rowBytes
def Tile.granules (t : Tile) : Nat := ceilDiv t.size 1024

def TileState.holds : TileState → Bool
  | .absent | .parked => false
  | .filling | .present | .parking | .unparking | .poisoned => true

def TileState.code : TileState → Nat
  | .absent => 0
  | .filling => 1
  | .present => 2
  | .parking => 3
  | .parked => 4
  | .unparking => 5
  | .poisoned => 6

/-- Some granule of a tile lies in a bank of the core that is in retention or entering it (R158 RETN, R170). -/
def Core.retained (k : Core) (t : Tile) : Bool :=
  [0, 1, 2, 3].any fun b =>
    ((t.gb[b]?).getD 0 != 0) && (let r := vget (n := 2) k.reten (BitVec.ofNat 2 b); r = .retained || r = .entering)

/-- A tile entry as one word (R158 Table 1); `ret`: a granule of it lies in a retained bank. -/
def Tile.word (t : Tile) (ret : Bool) : W64 :=
  BitVec.ofNat 64 (
    (if t.st = .absent then 0 else t.count) + t.st.code * 2 ^ 16 + bit t.scope * 2 ^ 19 + bit t.layout * 2 ^ 20
    + t.fmt.toNat * 2 ^ 21 + t.rowsm1.toNat * 2 ^ 26 + t.rbm1.toNat * 2 ^ 32
    + (if t.st.holds then (t.granules - 1) * 2 ^ 42 else 0) + bit (t.st.holds && ret) * 2 ^ 48)

end Sys2Proof.Machine
end

