-- ==== Sys2Proof/Machine/Mem.lean ====
section
/-! DEFINITION. Device memory: bytes by physical address in one canonical form, poison, the physical regions, page tables
and translation (R186-R191, R199, R297, R298). -/

namespace Sys2Proof.Machine

/-! ### Bytes -/

/-- What an unlisted byte of memory reads as: zero, as R401 step 5 scrubs memory. -/
def memDefault : Byte := 0

/-- The memory holds each address once, in rising order, and lists no byte that reads as `memDefault`. -/
def Memory.wf : List Host.Cell → Bool
  | [] => true
  | [(_, b)] => b != memDefault
  | (a, b) :: (a', b') :: r => b != memDefault && decide (a < a') && Memory.wf ((a', b') :: r)

/-- The byte at a physical address. -/
def readByte (m : List Host.Cell) (a : Nat) : Byte := alGet memDefault a m

/-- The memory with the byte at a set to b, in canonical form. -/
def writeByte (a : Nat) (b : Byte) : List Host.Cell → List Host.Cell
  | [] => if b = memDefault then [] else [(a, b)]
  | (j, c) :: r =>
    if j = a then (if b = memDefault then r else (a, b) :: r)
    else if a < j then (if b = memDefault then (j, c) :: r else (a, b) :: (j, c) :: r)
    else (j, c) :: writeByte a b r

/-- Two byte ranges share a byte. -/
def bytesMeet (a n b k : Nat) : Bool := n != 0 && k != 0 && a < b + k && b < a + n

/-- n bytes from a as a little-endian number (R5). -/
def readNat (m : List Host.Cell) (a : Nat) : Nat → Nat
  | 0 => 0
  | n + 1 => (readByte m a).toNat + 256 * readNat m (a + 1) n

/-- The memory with n bytes from a set to a little-endian number. -/
def writeNat (m : List Host.Cell) (a v : Nat) : Nat → List Host.Cell
  | 0 => m
  | n + 1 => writeNat (writeByte a (BitVec.ofNat 8 v) m) (a + 1) (v / 256) n

/-- The memory with [lo, hi) zeroed (R404). -/
def scrub (lo hi : Nat) (m : List Host.Cell) : List Host.Cell := m.filter fun p => !(lo ≤ p.1 && p.1 < hi)

/-! ### Regions (R188 Table 2) -/

/-- The region of a physical address, PA[51:48]. -/
def region (pa : Nat) : Nat := pa / 2 ^ 48

/-- The installed size of a region. -/
def State.regionSize (s : State) (r : Nat) : Nat :=
  match r with
  | 0 => 512 * 2 ^ 30
  | 1 => 3 * 2 ^ 39
  | 2 => s.hostSize
  | 3 => 2 ^ 32
  | _ => 0

/-- The n bytes from pa lie in installed memory; of a leaf, all of the page does, or no access to it is allowed (R188). -/
def State.present (s : State) (pa n : Nat) : Bool := pa % 2 ^ 48 + n ≤ s.regionSize (region pa)

/-- The memory as it stands once every late write is performed: what an access that no visibility rule binds finds (R284, R286). -/
def State.memNow (s : State) : List Host.Cell :=
  s.late.foldl (fun m e => writeNat m e.st.pa (e.st.data.toNat % 256 ^ e.st.n) e.st.n) s.mem

/-! ### Poison (R199, R298) -/

/-- The channel that chunk j of a stripe lies on: 0 and 1 the check chunks, 2 + i data chunk i (R296). -/
def fenChannel (stripe j : Nat) : Nat := (2 * stripe % 48 + j) % 48

/-- Where on its channel every chunk of a stripe lies (R296). -/
def fenOffset (stripe : Nat) : Nat := 256 * stripe

/-- The channel that the byte at a fen offset lies on, and its offset there (R296). -/
def fenPlace (a : Nat) : Nat × Nat :=
  (fenChannel (a / 11776) (2 + a % 11776 / 256), fenOffset (a / 11776) + a % 256)

/-- The stripes that n bytes from pa lie in. -/
def stripesOf (pa n : Nat) : List Nat :=
  let a := pa % 2 ^ 48
  if n = 0 then [] else (List.range ((a + n - 1) / 11776 - a / 11776 + 1)).map fun i => a / 11776 + i

/-- The chunks of a stripe that are marked failed: their channel is down, or has reported them uncorrectable (R297). -/
def State.fenFailed (s : State) (stripe : Nat) : List Nat :=
  (List.range 48).filter fun j => s.fenDown.contains (fenChannel stripe j) || s.fenBad.contains (stripe, j)

/-- The chunks of a stripe that are in error without being marked (R297). -/
def State.fenWrong (s : State) (stripe : Nat) : List Nat :=
  (List.range 48).filter fun j => s.fenErr.contains (stripe, j) && !((s.fenFailed stripe).contains j)

/-- A stripe reads back, by a rebuild of up to two failed chunks or the correction of one in error; any other is uncorrectable (R297). -/
def State.fenReads (s : State) (stripe : Nat) : Bool :=
  let f := (s.fenFailed stripe).length
  let w := (s.fenWrong stripe).length
  (w = 0 && f ≤ 2) || (f = 0 && w ≤ 1)

/-- A read of a stripe rebuilds or corrects it. -/
def State.fenMends (s : State) (stripe : Nat) : Bool :=
  s.fenReads stripe && !((s.fenFailed stripe).isEmpty && (s.fenWrong stripe).isEmpty)

/-- Some line of the n bytes from pa is poisoned, or lies in a stripe that is uncorrectable (R199, R297). -/
def State.poisoned (s : State) (pa n : Nat) : Bool :=
  (s.poison.any fun l => pa / 64 ≤ l && l * 64 < pa + n) || (region pa = 2 && s.boot.linkErr) || (region pa = 1 && (stripesOf pa n).any fun k => !(s.fenReads k))

/-- No chunk of the fen tier is failed or in error. -/
def State.fenSound (s : State) : Bool := s.fenDown.isEmpty && s.fenBad.isEmpty && s.fenErr.isEmpty

/-- How many stripes a read of some pieces rebuilds or corrects (R297). -/
def State.fenCount (s : State) (ps : List (Nat × Nat)) : Nat :=
  if s.fenSound then 0
  else (ps.map fun p => if region p.1 = 1 then ((stripesOf p.1 p.2).filter s.fenMends).length else 0).sum

/-- Rebuilds and corrections are counted (R297). -/
def State.fenAdd (s : State) (n : Nat) : State := if n = 0 then s else { s with fenCorrected := s.fenCorrected + BitVec.ofNat 64 n }

/-- Reads of pieces of the fen tier: each stripe rebuilt or corrected adds one to the corrected-error counter (R297). -/
def State.fenTouch (s : State) (ps : List (Nat × Nat)) : State := s.fenAdd (s.fenCount ps)

/-! ### The code of a stripe (R296) -/

/-- A product in GF(256) with the field polynomial 0x11D. -/
def gfMul (a b : Byte) : Byte :=
  ((List.range 8).foldl (fun (p : Byte × Byte) i =>
    ((if b.getLsbD i then p.1 ^^^ p.2 else p.1), (p.2 <<< 1) ^^^ (if p.2.getLsbD 7 then 0x1D else 0))) ((0 : Byte), a)).1

/-- The power of α = 2. -/
def gfPow : Nat → Byte
  | 0 => 1
  | n + 1 => gfMul (gfPow n) 2

/-- The syndromes of a word at the generator's roots 1 and α: a codeword has both zero. -/
def rsSyndrome (w : List Byte) : Byte × Byte :=
  (w.foldl (· ^^^ ·) 0, (w.mapIdx fun j b => gfMul b (gfPow j)).foldl (· ^^^ ·) 0)

/-- The two check bytes before 46 data bytes: c0 + c1 = S0 and c0 + α c1 = S1 of the data, where 1 + α = 3 and its inverse is 0xF4. DESIGN CHOICE: chunk j is
the coefficient of x^j (log entry 26). -/
def rsCheck (data : List Byte) : List Byte :=
  let (a, b) := rsSyndrome (0 :: 0 :: data)
  let c1 := gfMul (a ^^^ b) 0xF4
  [a ^^^ c1, c1]

/-- The codeword at byte b of a stripe's chunks: the check bytes and the 46 data bytes. -/
def State.fenCodeword (s : State) (stripe b : Nat) : List Byte :=
  let data := (List.range 46).map fun i => readByte s.memNow (2 ^ 48 + 11776 * stripe + 256 * i + b)
  rsCheck data ++ data

/-- The codeword at channel offset a of every channel: chunk j of the stripe there lies on channel `fenChannel` of it (R296). -/
def State.fenAt (s : State) (a : Nat) : List (Nat × Byte) :=
  (s.fenCodeword (a / 256) (a % 256)).mapIdx fun j b => (fenChannel (a / 256) j, b)

/-- Marks the lines of n bytes from pa as poisoned. -/
def State.setPoison (s : State) (pa n : Nat) : State :=
  { s with poison := s.poison ++ ((List.range (ceilDiv n 64)).map fun i => pa / 64 + i).filter fun l => !(s.poison.contains l) }

/-- A write of n bytes clears the poison of each line it covers whole, and no other (R199). -/
def clearPoison (pa n : Nat) (p : List Nat) : List Nat := p.filter fun l => !(pa ≤ l * 64 && l * 64 + 64 ≤ pa + n)

/-- A write of n bytes to the fen tier writes its stripes anew, with fresh check chunks; a stripe that it covers in part it reads first, which a rebuild or
correction counts; the lines of a stripe that was uncorrectable are poisoned, but for those the write covers (R297, R298). -/
def State.fenWritten (s : State) (pa n : Nat) : State :=
  if s.fenSound then s
  else
    let hit := stripesOf pa n
    let a := pa % 2 ^ 48
    let part := hit.filter fun k => !(a ≤ 11776 * k && 11776 * (k + 1) ≤ a + n)
    let lost := (hit.filter fun k => !(s.fenReads k)).flatMap fun k => (List.range 184).map fun i => (2 ^ 48 + 11776 * k) / 64 + i
    { s.fenAdd (part.filter s.fenMends).length with
      poison := s.poison ++ lost.filter fun l => !(s.poison.contains l)
      fenBad := s.fenBad.filter fun p => !(hit.contains p.1)
      fenErr := s.fenErr.filter fun p => !(hit.contains p.1) }

/-! ### The management window as memory (R188, R371, R377, R380, R381, R385, R391, R401) -/

/-- A counter block's word i of level L: ISSUED, STALL, FILL0-7, NOOP0-7 (R391). -/
def Counters.word (k : Counters) (i : Nat) : W64 :=
  if i = 0 then k.issued.setWidth 64
  else if i = 1 then k.stall.setWidth 64
  else if i < 10 then (vget (n := 3) k.fill (BitVec.ofNat 3 (i - 2))).setWidth 64
  else (vget (n := 3) k.noop (BitVec.ofNat 3 (i - 10))).setWidth 64

/-- A result in flight that the frame record keeps as a vector entry, and the bytes of its data (R341). -/
def Dest.data : Dest → Bool × VReg
  | .v _ w => (true, w)
  | .bank _ _ w => (true, w)
  | .s _ w => (false, w.setWidth 4096)
  | .k _ w => (false, w.setWidth 4096)
  | .sh _ w => (false, w.setWidth 4096)
  | .rlen w => (false, w.setWidth 4096)
  | .tg _ w => (false, w.setWidth 4096)
  | .agA _ w => (false, w.setWidth 4096)
  | .agS _ _ w => (false, w.setWidth 4096)
  | .cq _ b => (false, (BitVec.ofBool b).setWidth 4096)
  | .mp _ w => (false, w.setWidth 4096)
  | .ft _ w => (false, w.setWidth 4096)
  | .ftlevel l => (false, l.setWidth 4096)
  | .clear _ w => (false, w.setWidth 4096)
  | .none => (false, 0)

/-- A format-table entry, parameter register or shape record takes a live write: reserved bits stay zero (R12), and a value that a shape record never holds
leaves it (R129). -/
def liveSh (old v : W32) : W32 := if shapeOk (v &&& shMask) then v &&& shMask else old

/-- The same result with other data. -/
def Dest.withData : Dest → VReg → Dest
  | .v r _, d => .v r d
  | .bank b i _, d => .bank b i d
  | .s r _, d => .s r (d.setWidth 64)
  | .k r _, d => .k r (d.setWidth 512)
  | .sh r old, d => .sh r (liveSh old (d.setWidth 32))
  | .rlen _, d => .rlen (d.setWidth 512)
  | .tg r _, d => .tg r (d.setWidth 32)
  | .agA r _, d => .agA r (d.setWidth 64)
  | .agS r l _, d => .agS r l (d.setWidth 64)
  | .cq t _, d => .cq t (d.getLsbD 0)
  | .mp r _, d => .mp r (d.setWidth 64 &&& mpMask r)
  | .ft r _, d => .ft r (d.setWidth 32 &&& ftMask)
  | .ftlevel _, d => .ftlevel (d.setWidth 3)
  | .clear n _, d => .clear n (d.setWidth 64)
  | .none, _ => .none

/-- Where offset o lies among the shadow-latch entries: whether in the vector entries, which of them, and the offset in its data. -/
def latchAt (o : Nat) : Option (Bool × Nat × Nat) :=
  let at_ (b : Bool) (n k : Nat) : Option (Bool × Nat × Nat) := if n % k < 16 then none else some (b, n / k, n % k - 16)
  if 0x6400 ≤ o ∧ o < 0x6400 + 12672 then at_ true (o - 0x6400) 528
  else if 0x6400 + 12672 ≤ o ∧ o < 0x9F80 then at_ false (o - 0x6400 - 12672) 80
  else none

/-- An interlocked write whose value is latched, as an entry: whether a vector entry, and its data; none while its value is still owed (R335). -/
def Pend.data (p : Pend) : Option (Bool × VReg) :=
  match p.val, p.reg with
  | some v, .v _ => some (true, v)
  | some v, .s _ => some (false, v)
  | _, _ => none

/-- What the head of an entry holds: its destination, its offset, its causes (R341). -/
def Land.head (l : Land) : List Nat :=
  let d : Nat × Nat := match l.dest with
    | .s r _ => (0, r.toNat)
    | .v r _ => (1, r.toNat)
    | .k r _ => (2, r.toNat)
    | .sh r _ => (3, r.toNat)
    | .rlen _ => (4, 0)
    | .tg r _ => (5, r.toNat)
    | .agA r _ => (6, r.toNat)
    | .agS r n _ => (7, 8 * n + r.toNat)
    | .cq t _ => (8, t)
    | .mp r _ => (9, r.toNat)
    | .ft r _ => (10, r.toNat)
    | .ftlevel _ => (11, 0)
    | .clear n _ => (12, n.toNat)
    | .bank b i _ => (13, 32 * b.toNat + i.toNat)
    | .none => (14, 0)
  [d.1, d.2, l.left, l.slot, l.causes.toNat, l.org.ba.toNat, l.org.sc.toNat, bit l.org.tif]

def Pend.head (p : Pend) : List Nat :=
  let d : Nat × Nat := match p.reg with
    | .s r => (0, r.toNat)
    | .v r => (1, r.toNat)
    | .none => (14, 0)
  [d.1, d.2, 0, p.slot, 0, p.org.ba.toNat, p.org.sc.toNat, bit p.org.tif]

/-- The shadow-latch entries of a kind, in program order, the compute results first: head and data (R335, R341). -/
def latchesOf (lands : List Land) (pend : List Pend) (wide : Bool) : List (List Nat × VReg) :=
  ((lands.filter fun l => l.dest.data.1 = wide).map fun l => (l.head, l.dest.data.2))
  ++ pend.filterMap fun p => (p.data.filter fun d => d.1 = wide).map fun d => (p.head, d.2)

/-- A command belongs to the unit that a context holds. -/
def Cmd.of (m : Cmd) (cx : Ctx) : Bool := m.launch = cx.launch && m.unit = cx.unit

/-! What the sections of a frame record hold whose layout R341 Table 4 leaves open. -/

def Loop.data (l : Loop) : List Nat := [bit l.active, l.count.toNat, l.index.toNat, l.start.toNat, l.stop.toNat]

def AGen.data (g : AGen) : List Nat := g.a.toNat :: g.st.toList.map BitVec.toNat

def cqData (l : List CqEntry) (lands : List Land) : List Nat :=
  l.flatMap fun e => [(e.val.map fun b => 1 + bit b).getD 0, ((lands.find? fun z => match z.dest with
    | .cq t _ => t = e.tok
    | _ => false).map fun z => z.left).getD 0]

def StreamWord.data (w : StreamWord) : List Nat :=
  [w.slot, w.word.toNat, w.org.ba.toNat, w.org.sc.toNat, bit w.org.tif, w.ops.v.toNat, w.ops.ft.toNat] ++ w.ops.s.toList.map BitVec.toNat
  ++ w.ops.ag.toList.map BitVec.toNat

def Cmd.data (m : Cmd) : List Nat :=
  [m.slot, m.op.toNat, m.word.toNat, m.org.ba.toNat, m.org.sc.toNat, bit m.org.tif, m.next, m.total, m.a1.toNat, m.a2.toNat, m.len, m.ctl.toNat
    , m.pb.toNat, bit m.consume] ++ m.aux

def MOp.data (m : MOp) : List Nat :=
  [match m.kind with
    | .call => 0
    | .mload => 1
    | .aclr => 2
    | .acmv => 3
    , m.org.ba.toNat, m.org.sc.toNat, bit m.org.tif, m.d.toNat, m.src.toNat, m.mode.toNat, m.idx.toNat, bit m.na, bit m.nega, bit m.negb, m.ft.toNat
    , (m.ta.map fun n => n.toNat + 1).getD 0, (m.tb.map fun n => n.toNat + 1).getD 0, m.addr.toNat] ++ m.mp.toList.map BitVec.toNat

def Tuple.data (t : Tuple) : List Nat := [t.obj.toNat, t.tag.toNat]

def Front.data (f : Front) : List Nat :=
  [f.dm1.toNat, f.dir.toNat, f.pol.toNat, f.kappa.toNat, f.sph.toNat, f.sr.toNat, f.disc.toNat, f.remv.toNat, f.nand.toNat, f.ovfd.toNat]
  ++ f.tuples.flatMap Tuple.data

def FOp.data (f : FOp) : List Nat :=
  [match f.kind with
    | .finit => 0
    | .fins => 1
    | .fmrg => 2
    | .fclr => 3
    , f.org.ba.toNat, f.org.sc.toNat, bit f.org.tif, f.bank.toNat, f.src.toNat, f.cfg.toNat, f.v.toNat, f.n.toNat]

def FaultEntry.data (f : FaultEntry) : List Nat := [f.queue, f.num, f.va.toNat, bit f.wr, bit f.tif]

def Shadow.data (h : Shadow) : List Nat :=
  [h.resumeAt.toNat, h.idle, h.vbmm] ++ h.s16.map BitVec.toNat ++ h.tg.toList.map BitVec.toNat ++ h.ag.toList.flatMap AGen.data
  ++ h.loops.toList.flatMap Loop.data ++ cqData h.cq h.lands ++ h.q.toList.map (fun b => (b.map fun n => n.toNat + 1).getD 0)
  ++ ((latchesOf h.lands h.pend true ++ latchesOf h.lands h.pend false).flatMap fun e => e.1 ++ [e.2.toNat])
  ++ (h.mt ++ h.mc ++ h.mg).flatMap StreamWord.data

/-- What the header holds (R341 Table 4). -/
def Ctx.headerData (cx : Ctx) (grant : Nat) : List Nat :=
  [1, bit cx.tif, bit cx.dbg.stopped, bit cx.pendEv.preempt, cx.pc.toNat, cx.idle, cx.trapcause.toNat, cx.trapba.toNat, cx.trapsc.toNat, cx.scycle.toNat
    , cx.trapvec.toNat, cx.ftlevel.toNat, cx.quota.toNat, bit cx.event, cx.sqA.length, cx.sqB.length, grant, cx.launch.toNat, cx.unit.toNat]

/-- The sections of the frame record whose entries' layout R341 does not give: start, end, bytes an entry, and what each held entry holds. -/
def Ctx.frameRuns (cx : Ctx) : List (Nat × Nat × Nat × List (List Nat)) :=
  let waiting (l : List Cmd) : List (List Nat) := (l.filter fun m => m.of cx && m.state = 0).map Cmd.data
  let bank (b : Nat) : List (List Nat) := (cx.savedF.filter fun f => f.bank.toNat % 2 = b).map FOp.data
  let one (b : Bool) (l : List Nat) : List (List Nat) := if b then [l] else []
  let call := cx.savedCall.toList
  [ (0x640, 0x6A0, 96, one (cx.loops.toList.any fun l => l.active) (cx.loops.toList.flatMap Loop.data))
    , (0x6A0, 0x6C0, 32, one (cx.cq != []) (cqData cx.cq cx.lands))
    , (0x840, 0x940, 16, cx.binds.map fun b => [b.base.toNat, b.len.toNat, b.flag.toNat])
    , (0x9F80, 0xE180, 528, cx.mt.map StreamWord.data), (0xE180, 0x12380, 528, cx.mc.map StreamWord.data)
    , (0x12380, 0x16580, 528, cx.mg.map StreamWord.data)
    , (0x16580, 0x16D80, 64, waiting (vget (n := 2) cx.eq 0)), (0x16D80, 0x17580, 64, waiting (vget (n := 2) cx.eq 1))
    , (0x17580, 0x17D80, 64, waiting (vget (n := 2) cx.eq 2)), (0x17D80, 0x18580, 64, waiting (vget (n := 2) cx.eq 3))
    , (0x18580, 0x18780, 64, waiting cx.ccq), (0x18780, 0x18980, 512, one (cx.saved != []) (cx.saved.flatMap MOp.data))
    , (0x18980, 0x18A80, 256, call.map fun a => [a.pos, a.group, bit a.first])
    , (0x18A80, 0x1CA80, 16384, call.map fun a => a.inner.map fun i => (BitVec.ofInt 32 i).toNat)
    , (0x1CA80, 0x1D380, 576, bank 0), (0x1D380, 0x1DC80, 576, bank 1), (0x1DC80, 0x1DE80, 32, cx.faultList.map FaultEntry.data)
    , (0x1DE80, 0x2E420, 66976, cx.shadow.toList.map Shadow.data) ]

/-- The eight bytes at offset o of what some contents fill. -/
def freeWordOf (l : List Nat) (o : Nat) : W64 := packElems 64 8 ((List.range 8).map fun i => (Config.frameByte l (o + i)).toNat)

/-- The 64-bit word at offset o of the frame record of a context on core k with a grant mask (R341 Table 4); an empty section or entry reads zero. Where
the layout inside a section is not given, its bytes are an unstated function of what it holds. DESIGN CHOICE (log entry 27): a latch binding and a ring
fill 16 and 8 bytes, the ring's base, size, P and C 16 bits each, and the ARV bits take the first half of their section. -/
def Ctx.frameWord (cx : Ctx) (k : Core) (grant o : Nat) : W64 :=
  let w4 (f : Nat → W32) (i : Nat) : W64 := f (i + 1) ++ f i
  let bits (i : Nat) (f : Bool × Bool → Bool) : W64 :=
    BitVec.ofNat 64 ((cx.arv.map fun p => if p.1 / 64 = i ∧ f p.2 then 2 ^ (p.1 % 64) else 0).sum)
  if o < 0x100 then freeWordOf (cx.headerData grant) o
  else if 0x100 ≤ o ∧ o < 0x200 then cx.sreg (BitVec.ofNat 5 ((o - 0x100) / 8))
  else if 0x200 ≤ o ∧ o < 0x400 then fld (cx.kreg (BitVec.ofNat 3 ((o - 0x200) / 64))) (8 * (o % 64)) 64
  else if 0x400 ≤ o ∧ o < 0x410 then w4 (fun i => vget (n := 2) cx.sh (BitVec.ofNat 2 i)) ((o - 0x400) / 4)
  else if 0x410 ≤ o ∧ o < 0x450 then fld cx.rlen (8 * (o - 0x410)) 64
  else if 0x450 ≤ o ∧ o < 0x470 then w4 (fun i => vget (n := 3) cx.tg (BitVec.ofNat 3 i)) ((o - 0x450) / 4)
  else if 0x470 ≤ o ∧ o < 0x480 then 0
  else if 0x480 ≤ o ∧ o < 0x640 then
    let g := cx.agOf (BitVec.ofNat 3 ((o - 0x480) / 56))
    let i := (o - 0x480) % 56 / 8
    if i = 0 then g.a else (g.st.toList[i - 1]?).getD 0
  else if 0x6C0 ≤ o ∧ o < 0x700 then vget (n := 3) cx.mp (BitVec.ofNat 3 ((o - 0x6C0) / 8))
  else if 0x700 ≤ o ∧ o < 0x740 then w4 (fun i => vget (n := 4) cx.ft (BitVec.ofNat 4 i)) ((o - 0x700) / 4)
  else if 0x740 ≤ o ∧ o < 0x780 then vget (n := 3) cx.sticky (BitVec.ofNat 3 ((o - 0x740) / 8))
  else if 0x780 ≤ o ∧ o < 0x800 then
    ((cx.h.toList[(o - 0x780) / 8]?).join.map fun r => BitVec.ofNat 64 (r.m + r.n * 2 ^ 16 + r.p * 2 ^ 32 + r.c * 2 ^ 48)).getD 0
  else if 0x800 ≤ o ∧ o < 0x840 then ((cx.q.toList[(o - 0x800) / 16]?).join.map fun h => freeWordOf [h.toNat] (o % 16)).getD 0
  else if 0x940 ≤ o ∧ o < 0xA40 then bits ((o - 0x940) / 8) Prod.fst
  else if 0xA40 ≤ o ∧ o < 0xB40 then bits ((o - 0xA40) / 8) Prod.snd
  else if 0xB40 ≤ o ∧ o < 0xC00 then 0
  else if 0xC00 ≤ o ∧ o < 0x1400 then let t := alGet Tile.absent ((o - 0xC00) / 8) cx.tiles; t.word (k.retained t)
  else if 0x1400 ≤ o ∧ o < 0x2400 then
    let q := if o < 0x1C00 then cx.sqA else cx.sqB
    fld (q.getD ((o - 0x1400) % 2048 / 128) 0) (8 * (o % 128)) 64
  else if 0x2400 ≤ o ∧ o < 0x6400 then fld (vget (n := 5) cx.v (BitVec.ofNat 5 ((o - 0x2400) / 512))) (8 * (o % 512)) 64
  else if 0x2E440 ≤ o ∧ o < 0x2E440 + 864 then
    ((cx.cnt.toList[(o - 0x2E440) / 144]?).map fun k => k.word ((o - 0x2E440) % 144 / 8)).getD 0
  else if 0x6400 ≤ o ∧ o < 0x9F80 then
    let narrow := 0x6400 + 12672 ≤ o
    let at_ := if narrow then o - 0x6400 - 12672 else o - 0x6400
    let size := if narrow then 80 else 528
    match (latchesOf cx.lands cx.pend (!narrow))[at_ / size]? with
    | none => 0
    | some e => if at_ % size < 16 then freeWordOf e.1 (at_ % size) else fld e.2 (8 * (at_ % size - 16)) 64
  else match cx.frameRuns.find? fun r => r.1 ≤ o && o < r.2.1 with
    | some r => ((r.2.2.2[(o - r.1) / r.2.2.1]?).map fun l => freeWordOf l ((o - r.1) % r.2.2.1)).getD 0
    | none => 0

/-- The banks that a context is granted, as a mask (R220). -/
def Core.grantMask (k : Core) (x : CtxId) : Nat := ((List.range 8).map fun b => if (k.grant.toList[b]?).join = some x then 2 ^ b else 0).sum

/-- The grant mask of a frame. -/
def Frame.grantMask (f : Frame) : Nat := (f.banks.map fun b => 2 ^ b.1).sum

/-- DSTAT (R380 Table 3). -/
def Dbg.dstat (d : Dbg) : W64 := BitVec.ofNat 64 (d.arg.toNat * 256 + d.why.toNat * 2 + bit d.stopped)

/-- The boot status register (R401 Table 2). -/
def Boot.status (b : Boot) : W64 :=
  b.version ++ (0#15 : BitVec 15) ++ BitVec.ofBool b.thr ++ b.stp ++ b.fail ++ b.fch ++ BitVec.ofBool b.ready

/-- The words of a barrier record (R264 Table 1). -/
def Barrier.word (b : Barrier) (i : Nat) : W64 :=
  if i = 0 then BitVec.ofNat 64 (b.pend.toNat * 2 ^ 28 + b.exp.toNat * 2 ^ 12)
  else if i = 1 then BitVec.ofNat 64 (b.owner.toNat * 2 ^ 32 + bit b.phase * 2 ^ 16 + b.target.toNat)
  else 0

/-- The progress word of a command (R198 Table 4). -/
def Cmd.progress (m : Cmd) : W64 := BitVec.ofNat 64 (m.state * 2 ^ 62 + m.next % 2 ^ 48)

/-- The status word of an object (R299 Table 1). -/
def WObj.status (o : WObj) : W64 :=
  let st := match o.st with
    | .fen => 0
    | .promoting => 1
    | .resident => 2
    | .reclaiming => 3
    | .poisoned => 4
  BitVec.ofNat 64 (o.slots.headD 0 % 4096 * 2 ^ 32 + o.pins.length * 2 ^ 16 + bit o.back.isSome * 2 ^ 15 + bit o.expert * 2 ^ 14
    + bit o.lent * 2 ^ 13 + bit o.odem * 2 ^ 12 + st)

/-- A queue's registers as a read of its page finds them (R358 Table 2); TAIL is write-only. -/
def Queue.word (q : Queue) (i : Nat) : W64 :=
  match i with
  | 0 => q.qbase
  | 1 => BitVec.ofNat 64 (bit q.qerr * 2 ^ 17 + bit q.irq * 2 ^ 16 + q.vec.toNat * 2 ^ 8 + bit q.en * 2 ^ 5 + q.log2n.toNat)
  | 3 => q.head.setWidth 64
  | 4 => q.cqbase
  | 5 => q.cqsig
  | 6 => q.done.setWidth 64
  | 7 => q.job ++ q.phase
  | _ => 0

/-- The word at offset o of function vf's queue page, BAR0: queue q at 64·q (R358). -/
def State.bar0Read (s : State) (vf o : Nat) : W64 :=
  if o / 64 < 64 then ((s.vf vf).queues.find? fun p => p.1 = o / 64).elim 0 fun p => p.2.word (o % 64 / 8) else 0

/-- The words of a fault record, in R348's order. -/
def FaultRec.words (r : FaultRec) : List W64 :=
  [r.unit ++ r.launch, r.ctxid.setWidth 64, r.cause.setWidth 64, r.ba.setWidth 64, r.sc.setWidth 64, r.scycle.setWidth 64] ++ r.sticky.toList

/-- The words of a launch in the pending-launch store. -/
def Launch.words (l : Launch) : List W64 :=
  [l.units ++ l.id, l.corr ++ l.graph, l.deadline, l.budget.setWidth 64, l.image, l.args, l.spent, l.residue.setWidth 64
    , BitVec.ofNat 64 l.placed, BitVec.ofNat 64 l.doneUnits
    , BitVec.ofNat 64 (l.done.toNat * 2 ^ 32 + l.cmask.toNat * 2 ^ 16 + l.coloc)
    , BitVec.ofNat 64 (l.cause.toNat * 2 ^ 32 + l.slot * 2 ^ 8 + l.pol.toNat * 2 ^ 6 + bit l.priv * 2 ^ 5 + bit l.bg * 2 ^ 4 + bit l.late * 2 ^ 3
        + bit l.ovr * 2 ^ 2 + bit l.demoted * 2 + bit l.counted)] ++ l.waits.map fun w => w.setWidth 64

/-- The words of an engine operation, a call and a front state, as the window shows them. -/
def MOp.words (m : MOp) : List W64 := m.data.map (BitVec.ofNat 64)

def Call.words (a : Call) : List W64 :=
  a.op.words ++ [BitVec.ofNat 64 a.pos, BitVec.ofNat 64 a.group, BitVec.ofNat 64 (bit a.first), BitVec.ofNat 64 a.steps, a.causes.setWidth 64]
  ++ a.inner.map (BitVec.ofInt 64)

/-- The matrix engine of a core: its queue, its call, the finished calls, the running operation. -/
def Core.engineWords (k : Core) : List W64 :=
  k.mq.flatMap MOp.words ++ k.call.toList.flatMap Call.words ++ k.tails.flatMap Call.words ++ k.mrun.toList.flatMap MOp.words

/-- A front engine: its front, its queue and its running operation. -/
def Core.frontWords (k : Core) (i : Fin 2) : List W64 :=
  (k.front[i].data ++ (k.fq[i]).flatMap FOp.data ++ (k.frun[i]).toList.flatMap fun (r : FRun) => r.op.data ++ r.todo.flatMap Tuple.data).map (BitVec.ofNat 64)

/-- The words of a packet that awaits its test, and of an instance. -/
def Arrival.words (a : Arrival) : List W64 :=
  (List.range 8).map (fun i => fld a.packet (64 * i) 64)
  ++ [BitVec.ofNat 64 a.vf, BitVec.ofNat 64 a.slot, a.job ++ a.phase, a.graph.setWidth 64, BitVec.ofNat 64 a.cycle]

def Inst.words (i : Inst) : List W64 :=
  [BitVec.ofNat 64 i.level, i.id.setWidth 64, BitVec.ofNat 64 i.up, BitVec.ofNat 64 (bit i.cancelled * 2 + bit i.closed), BitVec.ofNat 64 i.count
    , BitVec.ofNat 64 i.serial]

/-- The words of a collective group. -/
def Group.words (g : Group) : List W64 :=
  BitVec.ofNat 64 g.p :: g.members.flatMap (fun m => [BitVec.ofNat 64 m.1, m.2.2 ++ m.2.1]) ++ g.lastInst.flatMap (fun p => [BitVec.ofNat 64 p.1, p.2.setWidth 64])
  ++ g.aborted.map fun i => i.setWidth 64

/-- A debug slot's word at offset r of its page (R377 Table 1). -/
def DbgSlot.word (d : DbgSlot) (r : Nat) : W64 :=
  if r = 0 then d.w0 else if r = 8 then d.logbase else if r = 16 then d.loglog2.setWidth 64
  else if 0x100 ≤ r ∧ r < 0x180 then
    let b := vget (n := 3) d.bps (BitVec.ofNat 3 ((r - 0x100) / 16))
    if r % 16 = 0 then b.w0 else b.w1
  else 0

/-- A trace or sampling register (R385 Table 6). -/
def TraceRegs.word (t : TraceRegs) (i : Nat) : W64 :=
  match i with
  | 0 => t.tbase
  | 1 => BitVec.ofNat 64 (bit t.ten * 512 + bit t.wrap * 256 + t.tlog2.toNat)
  | 2 => t.twr
  | 3 => t.trd
  | 4 => t.tlost
  | 5 => t.tmask
  | 6 => t.sper
  | 7 => t.sbase
  | 8 => t.slog2.setWidth 64
  | 9 => t.swr
  | _ => 0

/-- An entry of a translation buffer: its page, and what it maps the page to. -/
def Tlb.word (t : Tlb) (i : Nat) : W64 :=
  BitVec.ofNat 64 (if i = 0 then t.va else if i = 1 then t.pa else t.vf * 256 + t.bits * 4 + bit t.w * 2 + bit t.priv)

/-- What window `vf` shows of an item: of another function's state a VF's window shows nothing, the PF's everything (R357, R371). -/
def State.shown (s : State) (vf : Nat) (i : Config.Shown) : W64 :=
  let may (f : Nat) (w : W64) : W64 := if vf = 128 ∨ f = vf then w else 0
  let owner (n : Nat) (w : W64) : W64 := may (((s.vfs.find? fun v => v.2.cfg.bsets.contains n).map fun v => v.1).getD 128) w
  let ofLaunch (l : W32) (w : W64) : W64 := ((s.launches.find? fun k => k.id = l).map fun k => may k.vf w).getD (may 128 w)
  match i with
  | .unitTile c x n => let cx := s.ctx c (Fin.ofNat 4 x); let t := alGet Tile.absent n cx.tiles; may cx.vf (t.word ((s.core c).retained t))
  | .launchTile c l n => let t := alGet Tile.absent n (alGet [] l (s.core c).ltiles); ofLaunch (BitVec.ofNat 32 l) (t.word ((s.core c).retained t))
  | .tileData c x n w =>
    let cx := s.ctx c (Fin.ofNat 4 x)
    let t := if (alGet Tile.absent n cx.tiles).st = .absent then alGet Tile.absent n (alGet [] cx.launch.toNat (s.core c).ltiles) else alGet Tile.absent n cx.tiles
    may cx.vf (fld t.data (64 * w) 64)
  | .bank c b w =>
    let k := s.core c
    may (((k.grant.toList[b]?).join.map fun x => k.ctx[x].vf).getD 128) (fld ((k.banks.toList[b]?).getD 0) (64 * w) 64)
  | .front c i w =>
    let k := s.core c
    may (((k.grant.toList[6 + i % 2]?).join.map fun x => k.ctx[x].vf).getD 128) (((k.frontWords (Fin.ofNat 2 i))[w]?).getD 0)
  | .engine c w => may 128 (((s.core c).engineWords[w]?).getD 0)
  | .routine c p w => (((s.core c).rts[p]?).map fun r => ofLaunch r.launch ((r.words[w]?).getD 0)).getD 0
  | .arrival k w => ((s.adm[k]?).map fun a => may a.vf ((a.words[w]?).getD 0)).getD 0
  | .inst k w => ((s.insts[k]?).map fun i => may i.vf ((i.words[w]?).getD 0)).getD 0
  | .tenant d => may 128 (alGet 0 d s.tenants)
  | .route d => may 128 (BitVec.ofNat 64 (alGet 0 d s.routes))
  | .group g w => may 128 ((((s.groups.find? fun p => p.1 = g).map fun p => p.2.words).getD [])[w]?.getD 0)
  | .debugSlot f d w => may f ((alGet DbgSlot.reset d (s.vf f).dbg).word (8 * w))
  | .traceReg f w => may f ((s.vf f).tr.word w)
  | .certificate w => may 128 (Config.certificate w)
  | .context c x o => let cx := s.ctx c (Fin.ofNat 4 x); may cx.vf (cx.frameWord (s.core c) ((s.core c).grantMask (Fin.ofNat 4 x)) (8 * o))
  | .frame k o => ((s.frames[k]?).map fun f => may f.ctx.vf (f.ctx.frameWord (s.core f.core) f.grantMask (8 * o))).getD 0
  | .barrier c n w => let b := alGet Barrier.free n (s.core c).nb; ofLaunch b.owner (b.word w)
  | .progress c x q k =>
    let cx := s.ctx c (Fin.ofNat 4 x)
    let l := if q = 4 then cx.ccq else (cx.eq.toList[q]?).getD []
    (l[k]?).elim (may cx.vf ((((cx.prog.filter fun p => p.1 = q).map fun p => p.2.2)[k - l.length]?).getD 0)) fun m => ofLaunch m.launch m.progress
  | .object f o => may f (((s.objs.find? fun k => k.vf = f && k.id.toNat = o).map WObj.status).getD 0)
  | .queue f q w => may f (((s.vf f).queues.find? fun p => p.1 = q).elim 0 fun p => p.2.word w)
  | .slot n => ((s.slots.find? fun p => p.1 = n).map fun p => may p.2.vf (BitVec.ofNat 64 (p.2.q * 512 + p.2.vf * 2 + bit p.2.stopping))).getD 0
  | .pending k w => ((s.launches[k]?).map fun l => may l.vf ((l.words[w]?).getD 0)).getD 0
  | .fault f k w => may f ((((s.vf f).faults[k]?).bind fun r => r.words[w]?).getD 0)
  | .counter f k => let v := s.vf f; may f (if k = 0 then v.lateCtr else if k = 1 then v.faultCtr else if k = 2 then v.errCtr else 0)
  | .corrected c => (s.core c).corrected
  | .fenCorrected => s.fenCorrected
  | .hostRange => may 128 (BitVec.ofNat 64 s.hostSize)
  | .bias d n k act => let b := alGet Bias.zero (64 * d + n) s.bias; owner n ((alGet (0 : W32) k (if act then b.active else b.shadow)).setWidth 64)
  | .biasVersion d n => owner n ((alGet Bias.zero (64 * d + n) s.bias).version.setWidth 64)
  | .translation c k w => (((s.core c).tlb[k]?).map fun t => may t.vf (t.word w)).getD 0
  | .clusterTranslation n k w => (((alGet [] n s.ctlb)[k]?).map fun t => may t.vf (t.word w)).getD 0
  | .fenRange k w => ((s.fenRanges[k]?).map fun r => may r.1 (BitVec.ofNat 64 (if w = 0 then r.2.1 else if w = 1 then r.2.2.1 else bit r.2.2.2))).getD 0

/-- The word at offset o of the management window of function vf (128: the physical function); offsets that name nothing read zero.
Where the spec gives state of the window no offset, `Config.shownAt` says what an offset shows (log entry 28). -/
def State.winRead (s : State) (vf o : Nat) : W64 :=
  let v := s.vf vf
  if o = 0 ∧ vf = 128 then s.boot.status
  else if 0x800000 ≤ o ∧ o < 0x810000 then
    (alGet DbgSlot.reset ((o - 0x800000) / 4096) v.dbg).word (o % 4096)
  else if 0x900000 ≤ o ∧ o < 0x900000 + 64 * 6144 then
    let i := (o - 0x900000) / 64
    let cx := s.ctx (i / 4) (Fin.ofNat 4 i)
    if cx.vf = vf ∨ vf = 128 then
      (if o % 64 = 8 then cx.dbg.dstat else if o % 64 = 16 then vget (n := 2) (s.core (i / 4)).snapaddr (BitVec.ofNat 2 i) else 0)
    else 0
  else if 0xA00000 ≤ o ∧ o < 0xA00050 then
    v.tr.word ((o - 0xA00000) / 8)
  else if 0x1000000 ≤ o ∧ o < 0x1000000 + 0x40000 * 6144 then
    let i := (o - 0x1000000) / 0x40000
    let cx := s.ctx (i / 4) (Fin.ofNat 4 i)
    if cx.dbg.stopped ∧ (cx.vf = vf ∨ vf = 128) then
      cx.frameWord (s.core (i / 4)) ((s.core (i / 4)).grantMask (Fin.ofNat 4 i)) (o % 0x40000) else 0
  else ((Config.shownAt (o / 8)).map (s.shown vf)).getD 0

/-- n bytes from pa as function vf reads them: memory with every write performed so far, or the words of its window in region 3. -/
def State.load (s : State) (vf pa n : Nat) : Nat :=
  if region pa = 3 then
    let o := pa % 2 ^ 48
    (packNat 64 ((List.range ((o % 8 + n + 7) / 8)).map fun i => (s.winRead vf (o / 8 * 8 + 8 * i)).toNat)) / 2 ^ (8 * (o % 8)) % 2 ^ (8 * n)
  else readNat s.memNow pa n

/-! ### Page tables (R187) -/

/-- A leaf found by a walk. -/
structure Leaf where
  pa : Nat
  bits : Nat
  w : Bool
  priv : Bool
  deriving DecidableEq, Repr

/-- One level of the walk: none where the entry acts as V = 0. -/
def walkLevel (m : List Host.Cell) (va : Nat) : Nat → Nat → Option Leaf
  | 0, _ => none
  | l + 1, table =>
    let bits := 15 + 12 * l
    let e := readNat m (table + 8 * (va / 2 ^ bits % 4096)) 8
    let pa := e / 2 ^ 15 % 2 ^ 37 * 2 ^ 15
    if e % 2 = 0 ∨ e / 2 ^ 52 ≠ 0 ∨ e / 2 ^ 4 % 2 ^ 11 ≠ 0 then none
    else if e / 2 % 2 = 1 then
      (if pa % 2 ^ bits ≠ 0 then none else some ⟨pa, bits, e / 4 % 2 = 1, e / 8 % 2 = 1⟩)
    else walkLevel m va l pa

/-- The address of a window slot; programs see the window at its physical addresses. -/
def State.slotAddr (s : State) (n : Nat) : Nat := s.winBase + n * 2 ^ s.slotBits

/-- Where an object's window copy starts. -/
def State.objAddr (s : State) (o : WObj) : Nat := s.slotAddr (o.slots.headD 0)

/-- An address lies in the window. -/
def State.inWindow (s : State) (a : Nat) : Bool := s.winBase ≤ a && a < s.slotAddr s.wslots.length

/-- The pages of an object cover an address when its copy starts in a slot. -/
def State.coversFrom (s : State) (o : WObj) (slot va : Nat) : Bool :=
  s.slotAddr slot ≤ va && va < s.slotAddr slot + (o.len + 32767) / 32768 * 32768

/-- The leaf that the tier manager keeps for a window page of a function, with W = 0: while the object there is RESIDENT or POISONED (R300); and, of a
page whose object was lost to a slot's owner and is in the window again elsewhere, the page of the new copy (R306). DEDUCED: that is how a fault on the
old page can be resolved (log entry 36). -/
def State.windowLeaf (s : State) (vf va : Nat) : Option Leaf :=
  let mapped (o : WObj) : Bool := o.vf = vf && (o.st = .resident || o.st = .poisoned)
  if s.objs.any fun o => mapped o && s.coversFrom o (o.slots.headD 0) va then some ⟨va / 32768 * 32768, 15, false, false⟩
  else (s.objs.find? fun o => mapped o && o.was != [] && s.coversFrom o (o.was.headD 0) va).map fun o =>
    ⟨(s.objAddr o + (va - s.slotAddr (o.was.headD 0))) / 32768 * 32768, 15, false, false⟩

/-- A leaf may be mapped for a function: none of it lies in a fen range that is marked persistent for another, or for one that has been destroyed (R404). -/
def State.mayMap (s : State) (vf : Nat) (t : Leaf) : Bool :=
  s.fenRanges.all fun r => !r.2.2.2 || r.1 = vf || !(bytesMeet (2 ^ 48 + r.2.1) r.2.2.1 t.pa (2 ^ t.bits))

/-- A walk of function vf's tables from its root (R186, R187), the window's pages as the tier manager keeps them (R300). -/
def State.walk (s : State) (vf va : Nat) : Option Leaf :=
  if s.inWindow va then s.windowLeaf vf va else (walkLevel s.memNow va 3 (s.vf vf).cfg.root.toNat).filter (s.mayMap vf)

/-- The physical address of the page-table entry that a walk of va ends at: where the handler installs a mapping (R189). An entry of the last level that is
no leaf acts as V = 0 (R187), and the walk ends at it. -/
def ptePlace (m : List Host.Cell) (va : Nat) : Nat → Nat → Nat
  | 0, table => table
  | l + 1, table =>
    let a := table + 8 * (va / 2 ^ (15 + 12 * l) % 4096)
    let e := readNat m a 8
    if l = 0 ∨ e % 2 = 0 ∨ e / 2 % 2 = 1 ∨ e / 2 ^ 52 ≠ 0 ∨ e / 2 ^ 4 % 2 ^ 11 ≠ 0 then a else ptePlace m va l (e / 2 ^ 15 % 2 ^ 37 * 2 ^ 15)

/-- Whether a buffer entry covers an address of a function. -/
def Tlb.hit (t : Tlb) (vf va : Nat) : Bool := t.vf = vf && t.va / 2 ^ t.bits = va / 2 ^ t.bits

/-- What translation answers: an address; a miss, which starts or joins a walk; a translation fault; or PERMISSION (R186-R190). -/
inductive Xl where
  | ok (pa : Nat)
  | miss
  | fault
  | perm
  deriving DecidableEq, Repr

/-- A context's access within the page of va: its core's buffer, then the cluster's (R190). -/
def State.xlate (s : State) (c : Nat) (vf : Nat) (priv wr : Bool) (va : W64) : Xl :=
  if va.toNat / 2 ^ 51 ≠ 0 then .perm
  else
    match ((s.core c).tlb ++ alGet [] (clusterOf c) s.ctlb).find? (fun t => t.hit vf va.toNat) with
    | none => .miss
    | some t =>
      let pa := t.pa + va.toNat % 2 ^ t.bits
      if t.priv && !priv then .perm
      else if !(s.present t.pa (2 ^ t.bits)) then .perm
      else if wr && !t.w then .fault
      else .ok pa

/-- An access of a device agent outside the cores, by a walk of its own (queues, records, trace, signals). -/
def State.xlateDirect (s : State) (vf : Nat) (va : Nat) (n : Nat) : Option Nat :=
  if va / 2 ^ 51 ≠ 0 then none
  else match s.walk vf va with
    | none => none
    | some t =>
      let pa := t.pa + va % 2 ^ t.bits
      if s.present t.pa (2 ^ t.bits) && s.present pa n then some pa else none

/-- A device agent reads n bytes at a function's address; zero where nothing is mapped. -/
def State.loadVa (s : State) (vf va n : Nat) : Nat := ((s.xlateDirect vf va n).map fun pa => s.load vf pa n).getD 0

/-- A write of the word of a broken signal ends its being broken (R316). -/
def State.mend (s : State) (pa n : Nat) : State :=
  if s.vfs.all fun p => p.2.broken = [] then s
  else { s with vfs := s.vfs.map fun p =>
    (p.1, { p.2 with broken := p.2.broken.filter fun i =>
      !((s.xlateDirect p.1 (p.2.cfg.sigBase.toNat + 8 * i.toNat) 8).any fun a => a < pa + n && pa < a + 8) }) }

/-- A write performed in memory for every party: whole lines lose their poison, and in the fen tier what was uncorrectable in the stripes written stays
poisoned outside the bytes written (R199, R298); it ends the release sequences of the flag words it writes (R288). The management window takes no memory
write (R188), and nothing passes a link in the error state to host memory (R356). DESIGN CHOICE: host memory keeps poison as HBM does (log entry
85). -/
def State.write (s : State) (pa n v : Nat) : State :=
  if region pa = 3 ∨ (region pa = 2 ∧ s.boot.linkErr) then s
  else
    let t : State := if region pa = 1 then s.fenWritten pa n else s
    ({ t with
      mem := writeNat t.mem pa v n, poison := clearPoison pa n t.poison
      rels := t.rels.filter fun p => !(bytesMeet p.1 8 pa n) } : State).mend pa n

/-- The oldest k late writes are performed for every party, in coherence order (R284). -/
def State.settleFirst (s : State) (k : Nat) : State :=
  (s.late.take k).foldl (fun t e => t.write e.st.pa e.st.n (e.st.data.toNat % 256 ^ e.st.n)) { s with late := s.late.drop k }

/-- The late writes through the last that meets a test are performed for every party. -/
def State.settleBy (s : State) (p : Late → Bool) : State := s.settleFirst (s.late.length - (s.late.reverse.takeWhile fun e => !(p e)).length)

/-- The late writes through the last to some bytes are performed for every party: a later write of the bytes follows them (R284). -/
def State.settle (s : State) (pa n : Nat) : State := s.settleBy fun e => bytesMeet pa n e.st.pa e.st.n

/-- A write takes its place after every earlier write of its bytes, and is performed for every party (R284). -/
def State.store (s : State) (pa n v : Nat) : State := (s.settle pa n).write pa n v

/-- A range of memory zeroed and free of poison; a fen range gets fresh check chunks with it (R298, R404). -/
def State.scrubRange (s : State) (lo n : Nat) : State :=
  let t := s.settle lo n
  let u := if region lo = 1 then t.fenWritten lo n else t
  { u with
    mem := scrub lo (lo + n) u.mem, poison := u.poison.filter fun l => !(lo ≤ l * 64 && l * 64 < lo + n)
    rels := u.rels.filter fun p => !(bytesMeet p.1 8 lo n) }

/-- A device agent writes n bytes at a function's address; nothing where nothing is mapped. DEDUCED: nothing also where the page has W = 0, as the
pages of the window have (R187, R300; log entry 24). -/
def State.storeVa (s : State) (vf va n v : Nat) : State :=
  match s.xlateDirect vf va n with
  | some pa => if (s.walk vf va).any fun l => l.w then s.store pa n v else s
  | none => s

/-- An uncorrectable error in a function's data. DESIGN CHOICE: R357 gives each function an error counter and not what it counts; it counts these (log
entry 25). -/
def State.countError (s : State) (vf : Nat) : State := s.modVf vf fun v => { v with errCtr := v.errCtr + 1 }

/-- A request joins the walk of its page, or starts one (R190). -/
def joinWalk (vf va : Nat) (w : PFault) : List Walk → List Walk
  | [] => [⟨vf, va / 32768 * 32768, [w]⟩]
  | k :: r =>
    if k.vf = vf ∧ k.va = va / 32768 * 32768 then (if k.who.contains w then k else { k with who := k.who ++ [w] }) :: r
    else k :: joinWalk vf va w r

/-- A miss of a direct access or command is entered in its cluster's walks. -/
def State.missed (s : State) (vf : Nat) (w : PFault) : State :=
  let cl := clusterOf w.core
  { s with walks := alSet cl (joinWalk vf w.va.toNat w (alGet [] cl s.walks)) s.walks }

/-- A completed walk installs its leaf in the core's buffer (256 entries) and the cluster's (8,192) (R190). DESIGN CHOICE: a full buffer drops the entry that
was installed first (log entry 84). -/
def State.install (s : State) (c vf va : Nat) (l : Leaf) : State :=
  let t : Tlb := ⟨vf, va / 2 ^ l.bits * 2 ^ l.bits, l.bits, l.pa, l.w, l.priv⟩
  let put (n : Nat) (r : List Tlb) : List Tlb := (t :: r.filter fun u => u != t).take n
  let s1 := s.modCore c fun k => { k with tlb := put 256 k.tlb }
  { s1 with ctlb := alSet (clusterOf c) (put 8192 (alGet [] (clusterOf c) s.ctlb)) s1.ctlb }

/-- A device agent's read of n bytes at a function's address, counted where it rebuilds or corrects a stripe of the fen tier (R297). -/
def State.touchVa (s : State) (vf va n : Nat) : State := ((s.xlateDirect vf va n).map fun pa => s.fenTouch [(pa, n)]).getD s

/-- Translation buffers drop the entries that an invalidation covers (R200). -/
def State.dropTlb (s : State) (covers : Tlb → Bool) : State :=
  { s with
    cores := s.cores.map fun p => (p.1, { p.2 with tlb := p.2.tlb.filter fun t => !(covers t) })
    ctlb := s.ctlb.map fun p => (p.1, p.2.filter fun t => !(covers t)) }

/-- The old mapping of the commands ahead of markers forgets some entries: they are translated afresh (R198, R200, R301). -/
def State.forgetOld (s : State) (covers : Tlb → Bool) : State :=
  { s with invs := s.invs.map fun i => { i with old := i.old.filter fun t => !(covers t) } }

/-! ### A context's own stores (R283) -/

/-- The bytes of the context's unperformed direct stores laid over what memory holds, oldest first. -/
def overlay (l : List Store) (pa n v : Nat) : Nat :=
  l.foldl (fun acc st =>
    (List.range n).foldl (fun a i =>
      if st.pa ≤ pa + i ∧ pa + i < st.pa + st.n then
        let b := (byteAt st.data (pa + i - st.pa)).toNat
        a - (a / 256 ^ i % 256) * 256 ^ i + b * 256 ^ i
      else a) acc) v

end Sys2Proof.Machine
end

