-- ==== Sys2Proof/Machine/Trace.lean ====
section
/-! DEFINITION. Trace records and fault records (R348, R385-R388). -/

namespace Sys2Proof.Machine

/-- The number of a record's source (R388): a core's issue slots, its matrix engine, each of its two front engines, its copy engine; each die's comparators;
each cluster's dispatcher and, apart from them, admission; the tier manager, the Causeway interface, the firmware complex and the sampler. -/
def TraceRec.source (r : TraceRec) : Nat :=
  r.eng * 4096 + match r.eng with
    | 0 | 1 | 3 => r.core
    | 2 => 2 * r.core + r.sub % 2
    | 5 => dieOf r.core
    | 7 => if r.core = 0x7FF then 16 else clusterOf r.core
    | _ => 0

/-- The 32 bytes of a record as a number (R386 Table 7). -/
def TraceRec.bytes (r : TraceRec) (vf time : Nat) (lost : Bool) : Nat :=
  (r.type * 2 ^ 56 + r.eng * 2 ^ 52 + r.core % 2048 * 2 ^ 41 + r.ctx % 4 * 2 ^ 39 + vf % 256 * 2 ^ 31 + bit lost * 2 ^ 30
    + r.sub % 1024 * 2 ^ 20 + r.ba % 2 ^ 20)
  + (time % 2 ^ 48 * 2 ^ 16 + bit r.hnd * 256 + r.sc / 2 ^ 32 % 256) * 2 ^ 64
  + (r.corr % 2 ^ 32 * 2 ^ 32 + r.sc % 2 ^ 32) * 2 ^ 128
  + r.payload % 2 ^ 64 * 2 ^ 192

/-- The trace ring of a function takes records. -/
def TraceRegs.on (t : TraceRegs) : Bool := t.ten && 12 ≤ t.tlog2.toNat && t.tlog2.toNat ≤ 40

/-- A record leaves its source's queue for its function's ring, or is dropped and counted where the ring is full (R385, R388). -/
def State.traceOut (s : State) (e : Traced) : State :=
  let v := s.vf e.vf
  let t := v.tr
  let src := e.rec_.source
  if !t.on then s
  else
    let size := 2 ^ t.tlog2.toNat
    if !t.wrap && size < (t.twr - t.trd).toNat + 32 then
      s.setVf e.vf { v with tr := { t with tlost := t.tlost + 1, lost := if t.lost.contains src then t.lost else t.lost ++ [src] } }
    else
      let s1 := s.storeVa e.vf (t.tbase.toNat + t.twr.toNat % size) 32 (e.rec_.bytes e.vf e.time (e.lost || t.lost.contains src))
      s1.modVf e.vf fun k => { k with tr := { t with twr := t.twr + 32, lost := t.lost.filter fun q => q != src } }

/-- An event is recorded: its record passes through its source's queue of 64 places to the ring, or is dropped and counted where the queue is full (R388). -/
def State.trace (s : State) (vf : Nat) (r : TraceRec) : State :=
  let t := (s.vf vf).tr
  let src := r.source
  let e : Traced := ⟨vf, r, (s.vfNow vf).toNat, s.traceLost.contains src⟩
  if !t.on || !(t.tmask.getLsbD r.type) then s
  else if !s.traceHeld then { s with traceLost := s.traceLost.filter fun q => q != src }.traceOut e
  else if 64 ≤ (s.traceq.filter fun q => q.rec_.source = src).length then
    { s with traceLost := src :: s.traceLost.filter fun q => q != src }.modVf vf fun k => { k with tr := { k.tr with tlost := k.tr.tlost + 1 } }
  else { s with traceq := s.traceq ++ [e], traceLost := s.traceLost.filter fun q => q != src }

/-- Whether memory takes the records that wait in the sources' queues, in their order: the time of their writes is free (R388, R410). -/
def State.traceGate (s : State) (held : Bool) : State :=
  if held then { s with traceHeld := true } else s.traceq.foldl (fun t e => t.traceOut e) { s with traceq := [], traceHeld := false }

/-- The correlation number of a launch (R387). -/
def State.corrOf (s : State) (id : W32) : Nat := ((s.launch? id).map fun l => l.corr.toNat).getD 0

/-- A record of an event at a context (R386). -/
def State.traceCtx (s : State) (c : Nat) (x : CtxId) (type eng sub : Nat) (o : Org) (payload : Nat) : State :=
  let cx := s.ctx c x
  s.trace cx.vf ⟨type, eng, c, x.val, sub, o.ba.toNat, o.tif, o.sc.toNat, s.corrOf cx.launch, payload⟩

/-- A record of an event at an engine: it carries the bundle that issued the call or command, and its launch's function (R386, R387). -/
def State.traceFor (s : State) (c : Nat) (x : CtxId) (launch : W32) (type eng sub : Nat) (o : Org) (payload : Nat) : State :=
  match s.launch? launch with
  | some l => s.trace l.vf ⟨type, eng, c, x.val, sub, o.ba.toNat, o.tif, o.sc.toNat, l.corr.toNat, payload⟩
  | none => s

/-- CTXID (R96 Table 8). -/
def ctxid (priv : Bool) (c : Nat) (x : CtxId) : BitVec 14 := BitVec.ofNat 14 (bit priv * 2 ^ 13 + c % 2048 * 4 + x.val)

/-- A fault record is logged, and traced: FAULT, FAULTX, FSTICKY (R348, R386). -/
def State.logRecord (s : State) (c : Nat) (x : CtxId) (vf : Nat) (r : FaultRec) (o : Org) : State :=
  let s1 := s.modVf vf fun v => { v with faults := v.faults ++ [r], faultCtr := v.faultCtr + 1 }
  let skid := (r.scycle - r.sc).toNat - 1
  let rec_ (t : State) (type sub payload : Nat) : State :=
    t.trace vf ⟨type, 0, c, x.val, sub, o.ba.toNat, o.tif, o.sc.toNat, t.corrOf r.launch, payload⟩
  let s2 := rec_ s1 0x08 (if 1023 < skid then 1023 else skid) (r.launch.toNat * 2 ^ 32 + r.cause.toNat)
  let s3 := rec_ s2 0x09 (r.scycle.toNat / 2 ^ 32) (r.unit.toNat * 2 ^ 32 + r.scycle.toNat % 2 ^ 32)
  (List.range 8).foldl (fun t n =>
    let k := vget (n := 3) r.sticky (BitVec.ofNat 3 n)
    if fld k 0 12 = 0#12 then t else rec_ t 0x0A n k.toNat) s3

/-- The record of a context's fatal fault. -/
def Ctx.faultRec (cx : Ctx) (c : Nat) (x : CtxId) : FaultRec :=
  ⟨cx.launch, cx.unit, ctxid cx.priv c x, cx.trapcause, cx.trapba, cx.trapsc, cx.scycle, cx.sticky⟩

/-- The fault record of a context that ends (R348). -/
def State.logFault (s : State) (c : Nat) (x : CtxId) : State :=
  let cx := s.ctx c x
  s.logRecord c x cx.vf (cx.faultRec c x) ⟨cx.trapba, cx.trapsc, cx.tif⟩

end Sys2Proof.Machine
end

