-- ==== Sys2Proof/Machine/Objects.lean ====
section
/-! DEFINITION. Weight objects and window slots: pins, allocation, copies and leaves (R294, R299-R306). -/

namespace Sys2Proof.Machine

/-! ### Pins (R299, R304) -/

/-- Whether a launch of the owner function of a slot holds a pin on an object in it. -/
def State.ownerPins (s : State) (n : Nat) (w : WSlot) : Bool :=
  s.objs.any fun o => o.vf = w.owner && o.pins != [] && o.slots.contains n

/-- The objects replaced: a slot whose owner has dropped its last pin there notes the time (R306), and the translation buffers drop the pages of
objects that are no longer mapped (R300). -/
def State.setObjs (s : State) (l : List WObj) : State :=
  let s1 : State := { s with objs := l }
  let s2 : State := { s1 with wslots := s.wslots.map fun p =>
    (p.1, if s.ownerPins p.1 p.2 && !(s1.ownerPins p.1 p.2) then { p.2 with lastPin := some s.now.toNat } else p.2) }
  let stale (t : Tlb) : Bool := s.inWindow t.va && (s2.windowLeaf t.vf t.va).all fun l => l.pa != t.pa
  (s2.dropTlb stale).forgetOld stale

/-- An object whose last pin has been dropped starts to leave (R301). -/
def WObj.unpinned (before after : WObj) : WObj :=
  if (after.st = .resident ∨ after.st = .poisoned) ∧ after.pins = [] ∧ before.pins ≠ [] then { after with st := .reclaiming } else after

/-- The pin of a launch dropped from an object. -/
def WObj.unpin (o : WObj) (id : W32) : WObj := o.unpinned { o with pins := o.pins.filter fun p => p.1 != id }

/-- The completion or cancellation of a launch drops its pins (R299). -/
def State.unpinAll (s : State) (id : W32) : State := s.setObjs (s.objs.map fun o => o.unpin id)

/-- A command of a launch has completed after reading a byte of the object's copy: U falls by one, and from 1 the pin is dropped (R299). -/
def WObj.used (o : WObj) (id : W32) : WObj :=
  o.unpinned { o with pins := o.pins.filterMap fun p =>
    if p.1 ≠ id ∨ p.2 = 0 then some p else if p.2 = 1 then none else some (p.1, p.2 - 1) }

/-- A pin taken or extended (R304). -/
def WObj.pin (o : WObj) (id : W32) (uses : Nat) : WObj :=
  if o.pins.any fun p => p.1 = id then
    { o with pins := o.pins.map fun p => if p.1 = id then (id, if uses = 0 ∨ p.2 = 0 then 0 else Nat.min (p.2 + uses) 65535) else p }
  else { o with pins := o.pins ++ [(id, uses)] }

/-! ### Slots (R294, R305, R306) -/

/-- A slot holds no object. -/
def State.slotFree (s : State) (n : Nat) : Bool := !(s.objs.any fun o => o.slots.contains n)

/-- A free slot whose owner has held no pin on an object in it for 20 µs (R306). -/
def State.slotIdle (s : State) (n : Nat) (w : WSlot) : Bool :=
  s.slotFree n && (match w.lastPin with
    | none => true
    | some t => t + 20000 ≤ s.now.toNat)

/-- Slots an object needs. -/
def State.slotsFor (s : State) (o : WObj) : Nat := ceilDiv o.len (2 ^ s.slotBits)

/-- The lowest run of k consecutive slots that all pass a test. -/
def State.findRun (s : State) (k : Nat) (ok : Nat → WSlot → Bool) : Option (List Nat) :=
  let pass (n : Nat) : Bool := match s.wslots.find? fun p => p.1 = n with
    | some p => ok n p.2
    | none => false
  ((s.wslots.map fun p => (List.range k).map fun i => p.1 + i).find? fun r => r.all pass)

/-- The free slots a promotion takes of its class, in ascending index; an expert object's of its function's own (R305, R306). -/
def State.ownSlots (s : State) (o : WObj) : Option (List Nat) :=
  s.findRun (s.slotsFor o) fun n w =>
    w.expert = o.expert && (!o.expert || w.owner = o.vf) && s.slotFree n && !(o.spent.contains n)

/-- The slots an expert object borrows: idle ones of other functions, beside free ones of its own (R306). -/
def State.idleSlots (s : State) (o : WObj) : Option (List Nat) :=
  if o.expert then s.findRun (s.slotsFor o) fun n w =>
    w.expert && (if w.owner = o.vf then s.slotFree n else s.slotIdle n w) && !(o.spent.contains n) else none

/-- The slots a promotion can take now, and whether they are lent. -/
def State.takeSlots (s : State) (o : WObj) : Option (List Nat × Bool) :=
  ((s.ownSlots o).map fun r => (r, false)).or ((s.idleSlots o).map fun r => (r, true))

/-- One object changed, by its function and id. -/
def State.modObj (s : State) (vf : Nat) (id : W32) (f : WObj → WObj) : State :=
  s.setObjs (s.objs.map fun o => if o.vf = vf ∧ o.id = id then f o else o)

def State.obj? (s : State) (vf : Nat) (id : W32) : Option WObj := s.objs.find? fun o => o.vf = vf && o.id = id

/-- The borrowed object that an owner demands back: RESIDENT in a slot lent from it, fewest pins, then lowest slot (R306). -/
def State.demanded (s : State) (vf : Nat) : Option WObj :=
  let mine (o : WObj) : Bool := o.lent && o.st = .resident && o.slots.any fun n => s.wslots.any fun p => p.1 = n && p.2.owner = vf && p.2.expert
  (s.objs.filter mine).foldl (fun best o => match best with
    | none => some o
    | some b => if o.pins.length < b.pins.length ∨ (o.pins.length = b.pins.length ∧ o.slots.headD 0 < b.slots.headD 0) then some o else some b) none

/-- Objects on their way out of a function's slots by its demand. -/
def State.comingBack (s : State) (vf : Nat) : Nat :=
  (s.objs.filter fun o => o.odem && o.st = .reclaiming && o.slots.any fun n => s.wslots.any fun p => p.1 = n && p.2.owner = vf).length

/-- A promotion without slots takes free ones of its own; an expert object's else demands a lent slot of its function, one for each promotion that waits;
and else borrows idle ones (R305, R306). -/
def State.seekSlots (s : State) (o : WObj) : State :=
  let take (r : List Nat) (lent : Bool) : State := s.modObj o.vf o.id fun k => { k with slots := r, lent := lent }
  let waiting := (s.objs.filter fun k => k.vf = o.vf && k.expert && k.st = .promoting && k.slots = []).length
  match s.ownSlots o, (if o.expert then s.demanded o.vf else none) with
  | some r, _ => take r false
  | none, some d =>
    if s.comingBack o.vf < waiting then s.modObj d.vf d.id fun k => { k with pins := [], odem := true, st := .reclaiming } else s
  | none, none => (s.idleSlots o).elim s fun r => if s.comingBack o.vf < waiting then take r true else s

/-- Every promotion that waits for slots tries again, the oldest first (R305). -/
def State.serveSlots (s : State) : State :=
  let waiting := (s.objs.filter fun o => o.st = .promoting && o.slots = []).mergeSort fun a b => a.since ≤ b.since
  waiting.foldl (fun t o => match t.obj? o.vf o.id with
    | some k => if k.slots = [] then t.seekSlots k else t
    | none => t) s

end Sys2Proof.Machine
end

