-- ==== Sys2Proof/Machine/Tiles.lean ====
section
/-! DEFINITION. The Counted Tile Store: names, rings, granules, reads, writes, counts and the tile state machine
(R155-R174, R411). -/

namespace Sys2Proof.Machine

/-! ### Shapes -/

/-- Element types 0-10, and plane codes BPN2-BPN8 and APF2-APF12, by layout (R109, R115, R158). -/
def fmtOk (layout : Bool) (f : Nat) : Bool :=
  if layout then (2 ≤ f && f ≤ 8) || (0x12 ≤ f && f ≤ 0x1C) else f ≤ 10

/-- A descriptor is valid when its bytes fit a tile and FMT is legal for LAYOUT (R158). -/
def descOk (d : W64) : Bool :=
  (((fld d 26 6).toNat + 1) * ((fld d 32 10).toNat + 1) * 64 ≤ 65536) && fmtOk (d.getLsbD 20) (fld d 21 5).toNat

/-- The shape fields of a descriptor put into an entry (R158). -/
def Tile.shape (t : Tile) (d : W64) : Tile :=
  { t with rowsm1 := fld d 26 6, rbm1 := fld d 32 10, layout := d.getLsbD 20, fmt := fld d 21 5 }

/-! ### Names (R156, R172, R411) -/

def TLoc.core : TLoc → Nat
  | .unit c _ _ => c
  | .launch c _ _ => c
  | .frame c _ _ _ => c

/-- The frame of a unit. -/
def State.frameOf (s : State) (l u : W32) : Option Frame := s.frames.find? fun f => f.ctx.launch = l && f.ctx.unit = u

def State.modFrame (s : State) (l u : W32) (g : Ctx → Ctx) : State :=
  { s with frames := s.frames.map fun f => if f.ctx.launch = l ∧ f.ctx.unit = u then { f with ctx := g f.ctx } else f }

/-- The context of a core that holds a unit. -/
def State.unitCtx (s : State) (c : Nat) (l u : W32) : Option CtxId :=
  allCtx.find? fun x => (s.ctx c x).st != .free && (s.ctx c x).launch = l && (s.ctx c x).unit = u

/-- A unit's state where it stands: its context, or its frame. -/
def State.unitState (s : State) (c : Nat) (l u : W32) : Option Ctx :=
  match s.unitCtx c l u with
  | some x => some (s.ctx c x)
  | none => (s.frameOf l u).map fun f => f.ctx

def State.modUnit (s : State) (c : Nat) (l u : W32) (g : Ctx → Ctx) : State :=
  match s.unitCtx c l u with
  | some x => s.modCtx c x g
  | none => s.modFrame l u g

def State.tile (s : State) : TLoc → Tile
  | .unit c x n => alGet Tile.absent n (s.ctx c x).tiles
  | .launch c l n => alGet Tile.absent n (alGet [] l.toNat (s.core c).ltiles)
  | .frame _ l u n => ((s.frameOf l u).map fun f => alGet Tile.absent n f.ctx.tiles).getD Tile.absent

def State.setTile (s : State) (l : TLoc) (t : Tile) : State :=
  match l with
  | .unit c x n => s.modCtx c x fun cx => { cx with tiles := alSet n t cx.tiles }
  | .launch c l n =>
    s.modCore c fun k => { k with ltiles := alSet l.toNat (alSet n t (alGet [] l.toNat k.ltiles)) k.ltiles }
  | .frame _ l u n => s.modFrame l u fun cx => { cx with tiles := alSet n t cx.tiles }

/-- A name resolves to the unit entry unless that is ABSENT, else to the launch entry (R156). -/
def State.resolve (s : State) (c : Nat) (x : CtxId) (n : Nat) : TLoc :=
  if (s.tile (.unit c x n)).st = .absent then .launch c (s.ctx c x).launch n else .unit c x n

/-- The ring of a handle; none while it is unbound (R411). -/
def Ctx.ring (cx : Ctx) (h : BitVec 4) : Option Ring := vget (n := 4) cx.h h

/-- The tile name that an operand selects: itself, or t(M + (C + k) mod n) or t(M + (P + k) mod n) of a handle; none for an
unbound handle (R31, R172, R411). -/
def Ctx.name (cx : Ctx) (producer : Bool) (o : BitVec 9) : Option Nat :=
  if o.getLsbD 8 then
    (cx.ring (fld o 4 4)).map fun r => r.m + ((if producer then r.p else r.c) + (fld o 0 4).toNat) % r.n
  else some (fld o 0 8).toNat

def isHandle (o : BitVec 9) : Bool := o.getLsbD 8

/-- The entry a consumer operand of the word at hand names. -/
def State.consumer (s : State) (o : BitVec 9) : Option TLoc := (s.me.name false o).map (s.resolve s.cur.core s.cur.x)

/-- The unit-table entry a create of the word at hand names. -/
def State.producer (s : State) (o : BitVec 9) : Option TLoc := (s.me.name true o).map fun n => .unit s.cur.core s.cur.x n

/-- A create through hN^ advances P by one (R172). -/
def State.advanceP (s : State) (o : BitVec 9) : State :=
  if isHandle o ∧ fld o 0 4 = 0#4 then
    s.modMe fun cx => match cx.ring (fld o 4 4) with
      | some r => { cx with h := vset (n := 2 ^ 4) cx.h (fld o 4 4).toFin (some { r with p := (r.p + 1) % r.n }) }
      | none => cx
  else s

/-! ### Granules (R155, R164, R165) -/

/-- The account of a tile on a core: the context that its creating unit holds there, else the pool (R164, R169). -/
def State.account (s : State) (c : Nat) (t : Tile) : Option CtxId := t.charge.bind fun u => s.unitCtx c u.1 u.2

/-- Every tile whose granules lie on a core, with the account it is charged to: contexts' unit tables, launch tables, and the tables of frames
bound to the core. -/
def State.storeTiles (s : State) (c : Nat) : List (Option CtxId × Tile) :=
  let k := s.core c
  let all : List (Nat × Tile) := (allCtx.flatMap fun x => k.ctx[x].tiles) ++ (k.ltiles.flatMap fun p => p.2)
    ++ (s.frames.filter fun f => f.core = c).flatMap fun f => f.ctx.tiles
  all.map fun p => (s.account c p.2, p.2)

/-- Granules charged to an account. -/
def State.held (s : State) (c : Nat) (a : Option CtxId) : Nat :=
  ((s.storeTiles c).map fun p => if p.1 = a ∧ p.2.st.holds then p.2.granules else 0).sum

/-- The free pool, which quotas beyond what is held may leave below zero (R164). -/
def State.pool (s : State) (c : Nat) : Int :=
  1024 - (s.held c none : Int) - ((allCtx.map fun x => Nat.max (s.ctx c x).quota.toNat (s.held c (some x))).sum : Nat)

/-- Whether an allocation of n granules for an account is met (R164, R169). -/
def State.allocOk (s : State) (c : Nat) (a : Option CtxId) (n : Nat) : Bool :=
  let unused : Nat := match a with
    | some x => (s.ctx c x).quota.toNat - s.held c (some x)
    | none => 0
  decide ((n : Int) ≤ (unused : Int) + s.pool c)

/-- Granules in use in a store bank. -/
def State.bankUsed (s : State) (c b : Nat) : Nat :=
  ((s.storeTiles c).map fun p => if p.2.st.holds then (p.2.gb[b]?).getD 0 else 0).sum

/-- Takes n granules from banks with the given free counts, the listed banks first. -/
def takeBanks : List Nat → Nat → List Nat → List Nat
  | [], _, free => free.map fun _ => 0
  | b :: r, n, free =>
    let k := Nat.min n ((free[b]?).getD 0)
    (takeBanks r (n - k) free).set b k

/-- The banks that an allocation of n granules uses: those not in retention first (R164). -/
def State.place (s : State) (c n : Nat) : List Nat :=
  let free := [0, 1, 2, 3].map fun b => 256 - s.bankUsed c b
  let act : List Nat := [0, 1, 2, 3].filter fun b => vget (n := 2) (s.core c).reten (BitVec.ofNat 2 b) = .active
  takeBanks (act ++ [0, 1, 2, 3].filter fun b => !(act.contains b)) n free

/-- A tile made: state, count, zero bytes, granules charged to a context of the core (R163-R165). -/
def State.makeTile (s : State) (l : TLoc) (st : TileState) (count : Nat) (x : CtxId) : State :=
  let t := s.tile l
  let cx := s.ctx l.core x
  let (u, s1) := s.newUid
  s1.setTile l { t with
    uid := u, st := st, count := count, scope := false, data := 0, charge := some (cx.launch, cx.unit), gb := s.place l.core t.granules }

/-- What an entry keeps when its tile has vanished: its shape (R158). -/
def Tile.gone (t : Tile) : Tile := { t with st := .absent, count := 0, scope := false, data := 0, charge := none, gb := [] }

/-- A granule is freed: waiting allocations of the core count from zero (R166). -/
def State.freed (s : State) (c : Nat) : State :=
  s.modCore c fun k => { k with ctx := vmapI (fun _ cx => { cx with allocWait := Vector.replicate 4 0 }) k.ctx }

/-- The rings of a context whose entry at C resolves to the vanished tile advance C (R173). -/
def Ctx.advanceC (cx : Ctx) (hit : Nat → Bool) : Ctx :=
  { cx with h := vmapI (fun _ r => r.map fun q => if hit (q.m + q.c) then { q with c := (q.c + 1) % q.n } else q) cx.h }

/-- The park space a tile takes (R168). -/
def Tile.parkBytes (t : Tile) : Nat := ceilDiv t.size 1024 * 1024 + 64

/-- The launch whose table or unit owns an entry. -/
def State.ownerLaunch (s : State) : TLoc → W32
  | .unit c x _ => (s.ctx c x).launch
  | .launch _ l _ => l
  | .frame _ l _ _ => l

/-- Frees a launch's park space. -/
def State.unparkSpace (s : State) (l : TLoc) (t : Tile) : State :=
  s.modLaunch (s.ownerLaunch l) fun k => { k with parkUsed := k.parkUsed - t.parkBytes }

/-- The tile vanishes: the entry becomes ABSENT and keeps its shape; granules and park space are freed; rings whose C names it
advance (R158, R163, R173). -/
def State.vanish (s : State) (l : TLoc) : State :=
  let t := s.tile l
  let hits (c : Nat) (x : CtxId) (n : Nat) : Bool := s.resolve c x n == l
  let s0 := if t.st = .parking ∨ t.st = .parked ∨ t.st = .unparking then s.unparkSpace l t else s
  let s1 := s0.setTile l t.gone
  let s2 := s1.modCore l.core fun k => { k with ctx := vmapI (fun i cx => cx.advanceC (hits l.core (Fin.ofNat 4 i))) k.ctx }
  let inFrame (f : Frame) (n : Nat) : Bool := match l with
    | .unit _ _ _ => false
    | .launch _ a m => a = f.ctx.launch && m = n && (alGet Tile.absent n f.ctx.tiles).st = .absent
    | .frame _ a u m => a = f.ctx.launch && u = f.ctx.unit && m = n
  let s2 := { s2 with frames := s2.frames.map fun f => if f.core = l.core then { f with ctx := f.ctx.advanceC (inFrame f) } else f }
  if t.st.holds then s2.freed l.core else s2

/-! ### Reads and writes (R159-R161, R170) -/

/-- What an access finds. -/
inductive Avail where
  | absent
  | ready
  | waiting
  | unpark
  | poison
  deriving DecidableEq, Repr

/-- Some granule of the tile lies in a bank in the given retention states. -/
def State.inReten (s : State) (l : TLoc) (p : Reten → Bool) : Bool :=
  [0, 1, 2, 3].any fun b =>
    (((s.tile l).gb[b]?).getD 0 != 0) && p (vget (n := 2) (s.core l.core).reten (BitVec.ofNat 2 b))

/-- The state an access meets (R161, R163, R170). -/
def State.avail (s : State) (l : TLoc) : Avail :=
  match (s.tile l).st with
  | .absent => .absent
  | .filling | .unparking => .waiting
  | .parked => .unpark
  | .poisoned => .poison
  | .present | .parking => if s.inReten l (· != .active) then .waiting else .ready

/-- An access wakes the retained banks of its tile: they begin to leave retention (R170). -/
def State.wakeBanks (s : State) (l : TLoc) : State :=
  let gb := (s.tile l).gb
  s.modCore l.core fun k =>
    { k with
      reten := vmapI (fun b r => if (gb[b]?).getD 0 ≠ 0 ∧ r = .retained then .leaving else r) k.reten
      retenAt := vmapI (fun b t => if (gb[b]?).getD 0 ≠ 0 ∧ k.reten.toList[b]? = some .retained then k.cyc else t) k.retenAt }

/-- Parks and unparks in progress on a core (R168). -/
def State.parks (s : State) (c : Nat) : Nat :=
  ((s.storeTiles c).filter fun p => p.2.st = .parking || p.2.st = .unparking).length

/-- The account an unpark allocates for (R169). -/
def State.unparkAccount (s : State) (l : TLoc) : Option CtxId := s.account l.core (s.tile l)

/-- An unpark started: granules allocated, copy back begins; none where the allocation is not met or 64 are in progress (R168, R169). -/
def State.startUnpark (s : State) (l : TLoc) : Option State :=
  let t := s.tile l
  if 64 ≤ s.parks l.core || !(s.allocOk l.core (s.unparkAccount l) t.granules) then none
  else some (s.setTile l { t with st := .unparking, gb := s.place l.core t.granules })

/-- Bytes o .. o+n-1 of a tile; bytes at or beyond rows x rowbytes read as zero (R174, R177). -/
def Tile.read (t : Tile) (o n : Nat) : BitVec (8 * n) :=
  if t.size ≤ o then 0 else (fld t.data (8 * o) (8 * Nat.min n (t.size - o))).setWidth (8 * n)

/-- A tile with n bytes written from o; bytes at or beyond rows x rowbytes are not written (R178). -/
def Tile.write (t : Tile) (o n : Nat) (v : BitVec (8 * n)) : Tile :=
  if t.size ≤ o then t
  else { t with data := putBits t.data (8 * o) (8 * Nat.min n (t.size - o)) (v.setWidth _) }

/-- A consuming read takes one from the count; at 0 the tile vanishes (R159). -/
def State.consume (s : State) (l : TLoc) : State :=
  let t := s.tile l
  if t.count ≤ 1 then s.vanish l else s.setTile l { t with count := t.count - 1 }

/-- A read of the kind: `.c` and `.q` consume, `.p` does not (R159). -/
def State.countRead (s : State) (l : TLoc) (rk : BitVec 2) : State := if rk = 1#2 then s else s.consume l

/-- A write performed: a PARKING tile becomes PRESENT and its park is abandoned (R163). -/
def State.writeTile (s : State) (l : TLoc) (f : Tile → Tile) : State :=
  let t := s.tile l
  let s1 := if t.st = .parking then s.unparkSpace l t else s
  s1.setTile l (f { t with st := if t.st = .parking then .present else t.st })

/-- The count after adding a signed value, clamped to [0, 65,535], and whether the top clamp acted (R180). -/
def addCount (n : Nat) (v : Int) : Nat × Bool :=
  let r := (n : Int) + v
  if r < 0 then (0, false) else if 65535 < r then (65535, true) else (r.toNat, false)

/-- Changes a live tile's count: 0 makes it vanish (R180). -/
def State.setCount (s : State) (l : TLoc) (n : Nat) : State :=
  if n = 0 then s.vanish l else s.setTile l { s.tile l with count := n }

/-- The entry as `tstat` returns it (R158 Table 1). -/
def State.tstatWord (s : State) (l : TLoc) : W64 :=
  (s.tile l).word (s.inReten l fun r => r = .retained || r = .entering)

/-- Surviving counts are added to a launch's RESIDUE, saturating (R157). -/
def State.addResidue (s : State) (id : W32) (n : Nat) : State :=
  s.modLaunch id fun l => { l with residue := if 2 ^ 32 - 1 < l.residue.toNat + n then 0xFFFFFFFF#32 else l.residue + BitVec.ofNat 32 n }

/-- The tiles at some entries vanish as their owner scope ends: their surviving counts go to the launch's RESIDUE (R157, R173). -/
def State.endTiles (s : State) (id : W32) (l : List TLoc) : State :=
  let live := l.filter fun p => (s.tile p).st != .absent
  live.foldl (fun t p => t.vanish p) (s.addResidue id (live.map fun p => (s.tile p).count).sum)

/-- A unit's tiles vanish with its end or its cancellation (R75, R157). -/
def State.endUnitTiles (s : State) (c : Nat) (x : CtxId) : State :=
  let cx := s.ctx c x
  s.endTiles cx.launch (cx.tiles.map fun p => .unit c x p.1)

/-- A launch's own tiles vanish with its end, on every core (R75, R157). -/
def State.endLaunchTiles (s : State) (id : W32) : State :=
  s.endTiles id (s.cores.flatMap fun p => (alGet [] id.toNat p.2.ltiles).map fun q => .launch p.1 id q.1)

/-! ### The order of accesses within a cycle, and the service of banks (R160, R170) -/

/-- An entry has already been accessed in this cycle by a party that R160 puts behind the one of the given place: that access belongs to a later cycle. -/
def State.passedBy (s : State) (l : List TLoc) (place : Nat) : Bool :=
  l.any fun p => (s.core p.core).took.any fun q => q.1 = p && place < q.2

/-- Accesses performed now, from a state before them: their places in the cycle's order are noted, and the banks that hold the tiles have served one
(R160, R170). -/
def State.serve (s before : State) (l : List TLoc) (place : Nat) : State :=
  l.foldl (fun t p =>
    let gb := (before.tile p).gb
    t.modCore p.core fun k =>
      { k with took := k.took ++ [(p, place)], bankAt := vmapI (fun b n => if (gb[b]?).getD 0 ≠ 0 then k.cyc else n) k.bankAt }) s

end Sys2Proof.Machine
end

