-- ==== Sys2Proof/Machine/Sync.lean ====
section
/-! DEFINITION. Named barriers: phases, pending bytes, and who holds them (R196, R264-R267). -/

namespace Sys2Proof.Machine

def State.nb (s : State) (c n : Nat) : Barrier := alGet Barrier.free n (s.core c).nb

def State.setNb (s : State) (c n : Nat) (b : Barrier) : State :=
  s.modCore c fun k => { k with nb := if b = Barrier.free then k.nb.filter fun p => p.1 != n else alSet n b k.nb }

/-- A phase completes when an arrival, a `bexp` or a landing leaves EXP = 0 and PEND = 0: PHASE flips and EXP := TARGET. One of TARGET 0 only a landing
completes (R266). -/
def Barrier.settle (b : Barrier) (landing : Bool) : Barrier :=
  if b.exp = 0 ∧ b.pend = 0 ∧ (landing ∨ b.target ≠ 0) then { b with phase := !b.phase, exp := b.target, flips := b.flips + 1 } else b

/-- The record as two words (R264 Table 1). -/
def Barrier.words (b : Barrier) : W64 × W64 :=
  (b.pend ++ b.exp ++ (0#12 : BitVec 12), b.owner ++ (0#15 : BitVec 15) ++ BitVec.ofBool b.phase ++ b.target)

/-- Bytes added to a barrier's pending counter when a command enters its queue; no phase completes (R196, R266). -/
def State.addBytes (s : State) (c : Nat) (pb : BitVec 3) (n : Nat) : State :=
  if pb = 0 then s
  else let b := s.nb c pb.toNat; s.setNb c pb.toNat { b with pend := b.pend + BitVec.ofNat 36 n }

/-- Whether adding n bytes keeps the counter within 36 bits (R196). -/
def State.bytesFit (s : State) (c : Nat) (pb : BitVec 3) (n : Nat) : Bool :=
  pb = 0 || (s.nb c pb.toNat).owner = 0 || (s.nb c pb.toNat).pend.toNat + n < 2 ^ 36

/-- Landing bytes lower the counter of the holding the command recorded, and may complete the phase (R196, R266). -/
def State.landBytes (s : State) (c : Nat) (pb : BitVec 3) (inst n : Nat) : State :=
  if pb = 0 ∨ n = 0 then s
  else
    let b := s.nb c pb.toNat
    if inst = 0 ∨ b.owner = 0 ∨ b.inst ≠ inst then s
    else s.setNb c pb.toNat ({ b with pend := b.pend - BitVec.ofNat 36 n }.settle true)

/-- Whether a launch has a unit in a context of a core that is not done, a retired one with incomplete commands among them (R194). -/
def State.unitOn (s : State) (c : Nat) (id : W32) : Bool :=
  allCtx.any fun x =>
    let cx := s.ctx c x
    (cx.st != .free && cx.launch = id) || (cx.eq.toList.flatten ++ cx.ccq).any fun m => m.launch = id && !m.dead

/-- Whether a launch still has a unit on a core that is neither done nor cancelled, a pre-empted one that has not resumed elsewhere among them (R264). -/
def State.launchOn (s : State) (c : Nat) (id : W32) : Bool := s.unitOn c id || s.frames.any fun f => f.core = c && f.ctx.launch = id

/-- Whether a frame still binds its unit to its core: it holds matrix or front operations or ARV bits, the unit has live tiles there, or a command of it
is incomplete (R340). -/
def State.frameBound (s : State) (f : Frame) : Bool :=
  f.ctx.saved != [] || f.ctx.savedCall.isSome || f.ctx.savedF != [] || (f.ctx.arv.any fun p => p.2.1) || (f.ctx.tiles.any fun p => p.2.st != .absent)
  || ((s.core f.core).ctx.toList ++ s.frames.map fun g => g.ctx).any fun cx =>
    (cx.eq.toList.flatten ++ cx.ccq).any fun m => m.of f.ctx && !m.dead

/-- Whether a unit of a function that is not done is on a core, or a frame of one is bound to it (R330). -/
def State.functionOn (s : State) (c vf : Nat) : Bool :=
  (allCtx.any fun x => (s.ctx c x).st != .free && (s.ctx c x).vf = vf)
  || s.launches.any fun l => l.vf = vf && (s.unitOn c l.id || s.frames.any fun f => f.core = c && f.ctx.launch = l.id && s.frameBound f)

/-- A core that moves joins the gaining partition once the last unit of the losing one has left it (R330), and not while firmware core 0 is down (R363). -/
def State.settleMoves (s : State) : State :=
  if !(s.fwRuns 0) then s else
  let done := s.moving.filter fun m => !(s.functionOn m.1 m.2.1)
  done.foldl (fun t m => t.modVf m.2.2 fun v => { v with cfg := { v.cfg with cores := v.cfg.cores ++ [m.1] } })
    { s with moving := s.moving.filter fun m => s.functionOn m.1 m.2.1 }

/-- A unit has left a core: what its launch held there is given back once its last unit has left, barriers and routines (R231, R264), and a move of
the core may complete (R330). -/
def State.leaveCore (s : State) (c : Nat) (id : W32) : State :=
  let s1 := if s.launchOn c id then s
    else s.modCore c fun k =>
      { k with nb := k.nb.filter fun p => p.2.owner != id, rts := k.rts.filter fun r => r.launch != id }
  s1.settleMoves

end Sys2Proof.Machine
end

