-- ==== Sys2Proof/Machine/Ops.lean ====
section
/-! DEFINITION. The named operations over contexts: results landing, the core's cycle, freezing and resuming, taking a trap and returning from
it, fatal faults and the end of a unit (R41, R72, R93, R335-R348, R378-R382). -/

namespace Sys2Proof.Machine

/-! ### Results land (R41, R101, R152, R347) -/

/-- Element i of a vector, or the vector unchanged, for a field-named destination. -/
def Core.apply (k : Core) (x : CtxId) (l : Land) : Core :=
  let f (cx : Ctx) : Ctx :=
    match l.dest with
    | .s r v => cx.setS r v
    | .v r v => cx.setV r v
    | .k r v => cx.setK r v
    | .sh r v => { cx with sh := vset (n := 2 ^ 2) cx.sh r.toFin v }
    | .rlen v => { cx with rlen := v }
    | .tg r v => { cx with tg := vset (n := 2 ^ 3) cx.tg r.toFin v }
    | .agA r v => cx.setAg r { cx.agOf r with a := v }
    | .agS r n v => cx.setAg r ((cx.agOf r).setStride n v)
    | .cq tok b => cx.fillCq tok b
    | .mp r v => { cx with mp := vset (n := 2 ^ 3) cx.mp r.toFin v }
    | .ft r v => { cx with ft := vset (n := 2 ^ 4) cx.ft r.toFin v }
    | .ftlevel n => { cx with ftlevel := n }
    | .clear n v => { cx with sticky := vset (n := 2 ^ 3) cx.sticky n.toFin (stickyClear (vget (n := 3) cx.sticky n) v) }
    | .bank _ _ _ => cx
    | .none => cx
  let k1 := k.modCtx x fun cx => (f cx).sticky1 l.slot l.causes l.org
  match l.dest with
  | .bank b i v =>
    { k1 with banks := vset (n := 2 ^ 3) k1.banks b.toFin (putBits (vget (n := 3) k1.banks b) (4096 * i.toNat) 4096 v) }
  | _ => k1

/-- Whether a compute result in flight names a register (R40). -/
def Ctx.landsOn (cx : Ctx) (r : PReg) : Bool :=
  cx.lands.any fun l => match l.dest, r with
    | .s a _, .s b => a == b
    | .v a _, .v b => a == b
    | _, _ => false

/-- An interlocked value written to its register (R40). -/
def Ctx.writeReg (cx : Ctx) (r : PReg) (v : VReg) : Ctx :=
  match r with
  | .s n => cx.setS n (v.setWidth 64)
  | .v n => cx.setV n v
  | .none => cx

/-- One cycle of a context: compute results due land, oldest bundle first; interlocked values due land after them; idle and reservation
counts run (R40, R41, R89, R146). A frozen context's cycles stop (R335), and those of one that resumes until its first bundle can issue (R336); while it
is READY its wait for the core is still counted (R327). -/
def Core.tickCtx (k : Core) (x : CtxId) : Core :=
  let cx := k.ctx[x]
  if cx.st = .free ∨ cx.st = .frozen ∨ cx.fz then
    (if cx.st = .ready then k.modCtx x fun c => { c with readyWait := c.readyWait + 1 } else k)
  else
    let due := cx.lands.filter fun l => !cx.latched && l.left ≤ 1
    let k1 := if cx.latched then k else due.foldl (fun a l => a.apply x l) (k.modCtx x fun c =>
      { c with lands := (c.lands.filter fun l => 1 < l.left).map fun l => { l with left := l.left - 1 } })
    k1.modCtx x fun c =>
      let ripe (p : Pend) : Bool := p.val.isSome && p.left = 1 && !(c.landsOn p.reg)
      let c1 := (c.pend.filter ripe).foldl (fun a p => match p.val with
        | some v => a.writeReg p.reg v
        | none => a) c
      { c1 with
        pend := (c.pend.filter fun p => !(ripe p)).map fun p => if 1 < p.left then { p with left := p.left - 1 } else p
        idle := if c.latched then c.idle else c.idle - 1
        vbmm := if c.latched then c.vbmm else c.vbmm - 1
        allocWait := if c.tif then c.allocWait else vmapI (fun _ n => n + 1) c.allocWait
        rep := if c.latched then c.rep else { c.rep with since := c.rep.since + 1 }
        wd := if c.st = .issuing then c.wd + 1 else c.wd
        readyWait := if c.st = .ready then c.readyWait + 1 else 0 }

/-- One cycle of a core (R41, R327, R345): row COMPUTE_RESULT_LAND, and the end of every issue cycle. -/
def State.tick (s : State) (c : Nat) : State :=
  let k := s.core c
  let k1 := allCtx.foldl (fun a x => a.tickCtx x) { k with cyc := k.cyc + 1, took := [] }
  { s.setCore c k1 with clk := Nat.max s.clk k1.cyc }

/-- Every compute result in flight lands at once (R343). -/
def State.landAll (s : State) (c : Nat) (x : CtxId) : State :=
  s.modCore c fun k => (k.ctx[x].lands.foldl (fun a l => a.apply x l) k).modCtx x fun cx => { cx with lands := [] }

/-! ### Freeze and resume (R335, R336) -/

/-- The freeze at a bundle boundary: cycles stop, and issued loads whose data has not returned go back to the head of their stream
(R335, R215). -/
def Ctx.freeze (cx : Ctx) : Ctx :=
  { cx with
    fz := true
    mt := cx.mt.map fun w => { w with note := none }
    mc := cx.mc.map fun w => { w with note := none }
    mg := ((cx.pend.filterMap fun p => p.again) ++ cx.mg).map fun w => { w with note := none }
    pend := cx.pend.map fun p => if p.again.isSome then { p with val := none, again := none } else p
    sw := vmapI (fun _ _ => Wait.none) cx.sw }

/-- Latched interlocked writes land before the first bundle after a freeze (R336), but for one behind an older compute result to its register, which it
follows (R40); those that are inputs of a logged or replayed unit land at their
entries, and hold the bundles that name their registers until then (R40, R395). -/
def Ctx.landLatched (cx : Ctx) : Ctx :=
  let logged (p : Pend) : Bool := 6 ≤ p.slot && (cx.rep.logging || cx.rep.replaying)
  let due (p : Pend) : Bool := p.val.isSome && p.again.isNone && !(logged p) && !(cx.landsOn p.reg)
  let c1 := (cx.pend.filter due).foldl (fun a p => match p.val with
    | some v => a.writeReg p.reg v
    | none => a) cx
  { c1 with pend := cx.pend.filter fun p => !(due p) }

/-- The translation faults met in a freeze's shadow go to the page handler when the streams that met them resume: a handler's where it runs on, the
interrupted code's once no handler holds it (R342). -/
def State.deliver (s : State) (c : Nat) (x : CtxId) : State :=
  let cx := s.ctx c x
  let due := cx.faultList.filter fun f => cx.shadow.isNone || f.tif
  let s1 : State := { s with pfaults := s.pfaults ++ due.map fun f => ⟨c, x, f.va, f.wr, f.queue, f.num, true⟩ }
  s1.modCtx c x fun k => { k with faultList := k.faultList.filter fun f => k.shadow.isSome && !f.tif }

/-- A frozen context runs on: latched writes land, its streams move, and its cycles restart with its first bundle (R336). DEDUCED: they do so in the cycle
in which that bundle can issue as far as faults of the shadow, its window and its saved engine operations go (log entry 86). -/
def State.unfreeze (s : State) (c : Nat) (x : CtxId) : State :=
  (s.modCtx c x fun cx => { cx.landLatched with fz := false, latched := true, allocWait := Vector.replicate 4 0 }).deliver c x

/-- The cycles of a context that waits on w for its next bundle restart (R336). -/
def Ctx.restart (cx : Ctx) (w : Wait) : Ctx :=
  { cx with latched := cx.latched && (w = .address || w = .segment || cx.saved != [] || cx.savedF != []) }

/-- The wait that a context blocks in again at once when it resumes (R67, R84, R94). -/
def Wait.kept : Wait → Wait
  | .wfe => .wfe
  | .xdisp => .xdisp
  | .none | .stall | .tile | .ring | .bank | .queueFull | .barrier | .address | .segment | .unpark | .idle => .none

/-- The issuing context leaves the core (R72). -/
def State.release (s : State) (c : Nat) (x : CtxId) : State :=
  s.modCore c fun k => if k.cur = some x then { k with cur := none } else k

/-! ### Debug settings (R377, R384) -/

/-- The debug slots that name a launch, with their numbers: those of its function, then those of the PF, whose window reaches every launch (R377). -/
def State.dbgSlots (s : State) (vf : Nat) (id : W32) : List (Nat × DbgSlot) :=
  ((s.vf vf).dbg ++ if vf = 128 then [] else (s.vf 128).dbg).filter fun p => id != 0 && (fld p.2.w0 32 32 : W32) = id

def State.dbgBit (s : State) (vf : Nat) (id : W32) (b : Nat) : Bool := (s.dbgSlots vf id).any fun p => p.2.w0.getLsbD b

/-! ### Trap cause and the saved registers (R337, R346) -/

def trapCause (slot arg code : Nat) : W32 := BitVec.ofNat 32 (slot % 16 * 2 ^ 24 + arg % 2 ^ 16 * 2 ^ 8 + code)

def Fatal.code : Fatal → Nat
  | .illegalBundle => 0x10
  | .cqOverflow => 0x11
  | .sqImbalance => 0x12
  | .misalign => 0x13
  | .permission => 0x14
  | .poison => 0x15
  | .unbound => 0x16
  | .segment => 0x17
  | .watchdog => 0x18
  | .killed => 0x19

/-- TRAPCAUSE, TRAPBA and TRAPSC of an event (R346). -/
def Ctx.setTrap (cx : Ctx) (slot arg code : Nat) (o : Org) : Ctx :=
  { cx with trapcause := trapCause slot arg code, trapba := o.ba, trapsc := o.sc }

/-- The bundle a context would issue next, as an event's origin (R346). -/
def Ctx.next (cx : Ctx) : Org := ⟨cx.pc, cx.scycle, cx.tif⟩

/-! ### The end of a unit (R75, R93, R343) -/

/-- A queue after the end of a unit: its started commands stay, their results to be discarded, its unstarted ones go, and those of other units are as they
were (R343). -/
def Ctx.orphaned (cx : Ctx) (q : List Cmd) : List Cmd :=
  q.filterMap fun m => if !(m.of cx) then some m else if m.state = 0 then none else some { m with dead := true }

/-- A context that its unit has left: FREE, its registers as they stand until a unit is placed on it (R68, R93). -/
def Ctx.freed (cx : Ctx) : Ctx :=
  { Ctx.reset with
    vf := cx.vf, priv := cx.priv, pc := cx.pc, s := cx.s, v := cx.v, k := cx.k, sh := cx.sh, rlen := cx.rlen, tg := cx.tg, ag := cx.ag
    ft := cx.ft, ftlevel := cx.ftlevel, mp := cx.mp, sticky := cx.sticky, trapcause := cx.trapcause, trapba := cx.trapba, trapsc := cx.trapsc
    trapvec := cx.trapvec, scycle := cx.scycle, h := cx.h, q := cx.q, cnt := cx.cnt, prog := cx.prog, eq := cx.eq, ccq := cx.ccq
    tokCtr := cx.tokCtr }

/-- A context is left with the tile shapes, the progress words and the queued commands of its unit, which has ended (R218, R343). -/
def Core.leaveCtx (k : Core) (x : CtxId) : Core :=
  let cx := k.ctx[x]
  { k with ctx := vmapI (fun y z =>
      { (if y = x.val then { cx.freed with tiles := cx.tiles } else z) with
        eq := vmapI (fun _ q => cx.orphaned q) z.eq, ccq := cx.orphaned z.ccq }) k.ctx }

/-- Whether an operation or command belongs to the unit a context holds. -/
def MOp.of (m : MOp) (cx : Ctx) : Bool := m.launch = cx.launch && m.unit = cx.unit

/-- Units of a launch that have still to be placed. -/
def Launch.left (l : Launch) : Nat := l.units.toNat - l.placed - (l.gone.filter fun u => l.placed ≤ u).length

/-- Every unit of a launch is done: all placed or cancelled before it, and each placed one done (R74). -/
def Launch.allDone (l : Launch) : Bool := l.left = 0 && l.placed ≤ l.doneUnits

/-- A launch changed; the time at which its last unit is done is noted (R323). -/
def State.noteDone (s : State) (id : W32) (f : Launch → Launch) : State :=
  s.modLaunch id fun l => let k := f l; if k.allDone && k.doneAt.isNone then { k with doneAt := some s.now } else k

/-- A unit of a launch, last of core c and context x, is done: its record, and its launch's count (R74, R386). -/
def State.unitDone (s : State) (c : Nat) (x : CtxId) (id unit : W32) (o : Org) : State :=
  (s.traceFor c x id 0x04 7 (((s.launch? id).map fun l => l.cause.toNat).getD 0) o (unit.toNat * 2 ^ 32 + id.toNat)).noteDone id
    fun l => { l with doneUnits := l.doneUnits + 1 }

/-- The fetch of a running `mload` has started (R241). -/
def Core.fetching (k : Core) (m : MOp) : Bool :=
  k.ctx.toList.any fun cx => (vget (n := 2) cx.eq 0#2).any fun q => q.slot = 4 && q.launch = m.launch && q.unit = m.unit && q.state != 0

/-- A context's banks are scrubbed and released; its running front operations complete with their results discarded, the queued ones are discarded,
and its calls stop; a started `mload` goes on (R220, R235, R237, R241, R258, R343, R404). With `ended`, the unit ends. -/
def Core.releaseBanks (k : Core) (x : CtxId) (ended : Bool) : Core :=
  let mine := vmapI (fun _ (g : Option CtxId) => if g = some x then (none : Option CtxId) else g) k.grant
  { k with
    grant := mine
    banks := vmapI (fun b v => if (k.grant.toList[b]?).getD none = some x then 0 else v) k.banks
    cls := vmapI (fun b v => if (k.grant.toList[b]?).getD none = some x then 0 else v) k.cls
    front := vmapI (fun b v => if (k.grant.toList[b + 6]?).getD none = some x then Front.empty else v) k.front
    frun := vmapI (fun _ r => r.map fun (f : FRun) => if f.op.x = x then { f with dead := true } else f) k.frun
    fq := vmapI (fun _ q => q.filter fun (f : FOp) => f.x != x) k.fq
    mq := k.mq.filter fun m => !(m.of k.ctx[x])
    call := k.call.filter fun a => !(a.op.of k.ctx[x])
    tails := k.tails.filter fun a => !(a.op.of k.ctx[x])
    mrun := k.mrun.filter fun m => !(m.of k.ctx[x]) || (m.kind = .mload && (!ended || k.fetching m)) }

/-- The walks and faults that the direct accesses of a context wait for are no longer its own: its words have left the context (R341, R343). -/
def State.forgetDirect (s : State) (c : Nat) (x : CtxId) : State :=
  let mine (f : PFault) : Bool := f.core = c && f.x = x && f.queue = 7
  { s with
    pfaults := s.pfaults.filter fun f => !(mine f)
    walks := s.walks.map fun p => (p.1, p.2.map fun w => { w with who := w.who.filter fun f => !(mine f) }) }

/-- Performed stores of a context reach memory (R335, R343); those to its function's window follow before its launch completes (R291). -/
def State.flushStores (s : State) (c : Nat) (x : CtxId) : State :=
  let cx := s.ctx c x
  let win (st : Store) : Bool := region st.pa = 3
  let s1 := (cx.stores.filter fun st => !(win st)).foldl (fun a st => a.store st.pa st.n (st.data.toNat % 2 ^ (8 * st.n))) s
  ({ s1 with wstores := s1.wstores ++ (cx.stores.filter win).map fun st => (cx.launch, cx.vf, st) } : State).modCtx c x fun k => { k with stores := [] }

/-- What a unit's end does: its tiles vanish into RESIDUE, its banks are scrubbed, quota and barrier bits released, and the
context is FREE; the launch counts a done unit (R74, R93, R343). -/
def State.endUnit (s : State) (c : Nat) (x : CtxId) : State :=
  let cx := s.ctx c x
  let s1 := ((s.flushStores c x).endUnitTiles c x).release c x
  let s2 := s1.modCore c fun k => (k.releaseBanks x true).leaveCtx x
  let s3 := s2.unitDone c x cx.launch cx.unit cx.next
  (s3.forgetDirect c x).leaveCore c cx.launch

/-- GROUP and INST of a collective command: of its descriptor once read, else as memory holds it (R368, R370). -/
def State.collName (s : State) (vf : Nat) (m : Cmd) : BitVec 12 × W32 :=
  let w := if m.len = 0 then s.loadVa vf m.a1.toNat 8 else m.desc.toNat
  (BitVec.ofNat 12 (w / 2 ^ 20), BitVec.ofNat 32 (w / 2 ^ 32))

def State.group? (s : State) (g : Nat) : Option Group := (s.groups.find? fun p => p.1 = g).map fun p => p.2

/-- The rank of a command's unit in its group. -/
def Group.rankOf (g : Group) (m : Cmd) : Option Nat := (g.members.find? fun k => k.2.1 = m.launch && k.2.2 = m.unit).map fun k => k.1

/-- What a group has of a rank in an instance for the ranks of a function. -/
def Group.dataOf (g : Group) (vf : Nat) (inst : W32) (rank : Nat) : Option RankData :=
  g.inbox.find? fun e => e.inst = inst && e.rank = rank && (e.vf.isNone || e.vf = some vf)

/-- A rank's own data of an instance has left. -/
def Group.sent (g : Group) (inst : W32) (rank : Nat) : Bool := g.inbox.any fun e => e.inst = inst && e.rank = rank && e.vf.isNone && e.all

/-- ABORT flits naming an instance of a group leave for every rank, traced as of a bundle of a unit (R370, R386). -/
def State.sendAbort (s : State) (c x : Nat) (vf : Nat) (l : W32) (o : Org) (g : BitVec 12) (i : W32) : State :=
  ({ s with flits := s.flits ++ [Flit.abort g i] } : State).trace vf
    ⟨0x11, 6, c, x, 0, o.ba.toNat, o.tif, o.sc.toNat, s.corrOf l, i.toNat * 2 ^ 32 + g.toNat⟩

/-- The instances of a group that other ranks have begun, as far as their data shows, and that a rank has sent nothing whole of. -/
def Group.awaited (g : Group) (rank : Nat) : List W32 :=
  ((g.inbox.filter fun e => e.rank != rank && !(g.sent e.inst rank) && !(g.aborted.contains e.inst)).map fun e => e.inst).eraseDups

/-- The fatal end of a unit that is a rank aborts the collective instances it has unstarted or running, and those that others have begun and wait for
it in (R370): ABORT flits leave for every rank; the group keeps the rank as ended, so that later instances are aborted as they come. Its commands are in the
queues of its core, and in its frame. -/
def State.abortColls (s : State) (c x : Nat) (cx : Ctx) (frame : List Ctx) : State :=
  let all := ((s.core c).ctx.toList ++ frame).flatMap fun y => vget (n := 2) y.eq 3#2
  let own := ((all.filter fun m => m.of cx && !m.dead && m.op = 0x13#6 && m.state != 3).map fun m => (m, s.collName cx.vf m)).filter fun p =>
    ((s.group? p.2.1.toNat).bind fun k => k.rankOf p.1).isSome
  let s1 := own.foldl (fun a p => a.sendAbort c x cx.vf cx.launch p.1.org p.2.1 p.2.2) s
  let o := cx.next
  s1.groups.foldl (fun a p => match p.2.members.find? fun k => k.2.1 = cx.launch && k.2.2 = cx.unit with
    | none => a
    | some k =>
      let a1 : State := { a with groups := a.groups.map fun q => if q.1 = p.1 then (q.1, { q.2 with ended := q.2.ended ++ [k.1] }) else q }
      ((p.2.awaited k.1).filter fun i => !(own.any fun w => w.2.1.toNat = p.1 && w.2.2 = i)).foldl (fun t i =>
        t.sendAbort c x cx.vf cx.launch o (BitVec.ofNat 12 p.1) i) a1) s1

/-- The commands of a unit that has ended: started ones go on, their results discarded (R343, R409). -/
def State.deadCmds (s : State) (l u : W32) : State :=
  let f (m : Cmd) : Cmd := if m.launch = l ∧ m.unit = u then { m with dead := true } else m
  { s with cores := s.cores.map fun p => (p.1, { p.2 with ctx := vmapI (fun _ cx => { cx with eq := vmapI (fun _ q => q.map f) cx.eq, ccq := cx.ccq.map f }) p.2.ctx }) }

/-- The rest of R343 once results have landed: fault record, launch cause, and the unit's end. -/
def State.endFatal (s : State) (c : Nat) (x : CtxId) : State :=
  let id := (s.ctx c x).launch
  let s1 := ((s.logFault c x).abortColls c x.val (s.ctx c x) []).modLaunch id fun l => { l with cause := if l.cause = 0 then 5 else l.cause }
  s1.endUnit c x

/-- What the performed words of a context still owe (R335, R343): every write but those of words that have not been performed. -/
def Ctx.owedPend (cx : Ctx) : List Pend :=
  let words := cx.mt ++ cx.mc ++ cx.mg ++ match cx.shadow with
    | some h => h.mt ++ h.mc ++ h.mg
    | none => []
  ((match cx.shadow with
    | some h => h.pend
    | none => []) ++ cx.pend).filter fun p => p.again.isNone && !(words.any fun w => w.tok = p.tok)

/-- THE FATAL FAULT (R343): no further bundle issues, results in flight land, unperformed words and unstarted queue entries are discarded,
and the context ends; under FSTOP the debugger sees it first, with the writes that performed words owe latched (R379). Slot 8, 9, 10: matrix engine, front
engine, queue; 15 none. -/
def State.fatal (s : State) (c : Nat) (x : CtxId) (f : Fatal) (slot : Nat) (o : Org) : State :=
  let s1 := (s.landAll c x).modCtx c x fun cx =>
    { cx.setTrap slot 0 f.code o with mt := [], mc := [], mg := [], pend := cx.owedPend, shadow := none, saved := [], savedF := [] }
  let cx := s1.ctx c x
  if s.dbgBit cx.vf cx.launch 3 then
    ((s1.release c x).modCtx c x fun cx =>
      { cx with st := .frozen, fz := true, dbg := { cx.dbg with stopped := true, why := 4, arg := 0, fatal := true } }).traceCtx c x 0x07 0 0 o
        (2 * 4 + 1)
  else s1.endFatal c x

/-- Forgets what is left of the issuing bundle: its context has ended. -/
def State.dropIssue (s : State) (c : Nat) (x : CtxId) : State :=
  if s.issuing && s.cur.core = c && s.cur.x = x then { s with words := [], issuing := false } else s

/-- The fatal fault of the word at hand. -/
def State.fatalMe (s : State) (f : Fatal) : State :=
  (s.fatal s.cur.core s.cur.x f s.cur.slot s.cur.org).dropIssue s.cur.core s.cur.x

/-! ### Traps into the unit's handler, and the return (R337, R338) -/

/-- TAKING A TRAP (R337): cause, address and schedule cycle are saved, TIF is set, the interrupted state goes to the shadow, and the next
bundle is at TRAPVEC. A bad TRAPVEC is fatal with TRAPBA its value. -/
def State.enterTrap (s : State) (c : Nat) (x : CtxId) (slot arg code : Nat) (o : Org) : State :=
  let cx := (s.ctx c x).freeze
  let vec : Org := ⟨cx.trapvec, cx.scycle, true⟩
  if cx.trapvec.toNat % 4 ≠ 0 then s.fatal c x .misalign 15 vec
  else if (cx.segOf cx.trapvec).isNone then s.fatal c x .segment 15 vec
  else
    let sh : Shadow :=
      { resumeAt := cx.pc, lands := cx.lands, pend := cx.pend, mt := cx.mt, mc := cx.mc, mg := cx.mg, cq := cx.cq, loops := cx.loops,
        q := cx.q, s16 := cx.s.toList.drop 16, tg := cx.tg, ag := cx.ag, vbmm := cx.vbmm, idle := cx.idle, wait := cx.wait
        waitOrg := cx.waitOrg, drn := cx.drn, bundles := cx.bundles }
    let s1 := s.setCtx c x
      { cx.setTrap slot arg code o with
        tif := true, shadow := some sh, lands := [], pend := [], mt := [], mc := [], mg := [], cq := [], vbmm := 0
        loops := Vector.replicate 6 Loop.off, q := Vector.replicate 4 none, pc := cx.trapvec, nextPc := none, fz := false, latched := false
        wait := .none, idle := 0, allocWait := Vector.replicate 4 0, drn := false }
    s1.traceCtx c x 0x06 0 0 o (trapCause slot arg code).toNat

/-- THE RETURN FROM A TRAP (R338): the shadow is restored, TIF cleared, latched writes land, saved words return to their streams, and the
fault list is delivered. A `launch` of the handler still owes its register (R40, R92). -/
def State.leaveTrap (s : State) (c : Nat) (x : CtxId) : State :=
  match (s.ctx c x).shadow with
  | none => s
  | some h =>
    let shift (w : StreamWord) : StreamWord := { w with bundle := w.bundle + ((s.ctx c x).bundles - h.bundles) }
    let s1 := s.modCtx c x fun cx =>
      { cx with
        idle := h.idle, wait := h.wait, waitOrg := h.waitOrg
        tif := false, shadow := none, pc := h.resumeAt, nextPc := none, lands := h.lands, pend := h.pend ++ cx.pend.filter fun p => p.slot = 0
        mt := h.mt.map shift, mc := h.mc.map shift, mg := h.mg.map shift, cq := h.cq, loops := h.loops, q := h.q, vbmm := h.vbmm
        s := vecOf 32 0 (cx.s.toList.take 16 ++ h.s16), tg := h.tg, ag := h.ag, drn := h.drn }
    s1.unfreeze c x

/-! ### Debug stops and pre-emption (R328, R339, R340, R378-R380) -/

/-- A DEBUG STOP (R379): a freeze; TRAPCAUSE gets STOP, TRAPBA and TRAPSC name the resume bundle; WHY and ARG are recorded. DEDUCED: the stop of a
`bkpt` has SLOT 0 and ARG n, which R346 states of `bkpt`; every other stop SLOT 15 and ARG 0 (log entry 11). -/
def State.debugStop (s : State) (c : Nat) (x : CtxId) (why arg : Nat) : State :=
  let s1 := (s.release c x).modCtx c x fun cx =>
    { (cx.freeze.setTrap (if why = 2 then 0 else 15) (if why = 2 then arg else 0) 0x05 cx.next) with
      st := .frozen
      dbg := { cx.dbg with stopped := true, why := BitVec.ofNat 4 why, arg := BitVec.ofNat 16 arg, fatal := false }
      pendEv := { cx.pendEv with halt := false, haltAll := false, bkpt := none, stepStop := false } }
  s1.traceCtx c x 0x07 0 0 (s1.ctx c x).next ((s1.ctx c x).dbg.dstat.toNat % 2 ^ 24)

/-- A pre-emption has frozen the context, and its frame is being written (R340). -/
def Ctx.leaving (cx : Ctx) : Bool := cx.pendEv.preempt && cx.fz

/-- Front operations in acceptance order. -/
def insertOp (f : FOp) : List FOp → List FOp
  | [] => [f]
  | g :: r => if f.seq < g.seq then f :: g :: r else g :: insertOp f r

/-- The accepted matrix and front operations of a unit that have not started leave their queues, for its frame (R235, R258). -/
def Core.unqueue (k : Core) (x : CtxId) : Core :=
  let mine := k.mq.filter fun m => m.of k.ctx[x]
  let front := (k.fq.toList.flatMap fun q => q.filter fun (f : FOp) => f.x = x).foldr insertOp []
  { k with
    mq := k.mq.filter fun m => !(m.of k.ctx[x])
    fq := vmapI (fun _ q => q.filter fun (f : FOp) => f.x != x) k.fq
    ctx := vmapI (fun y cx => if y = x.val then { cx with saved := mine ++ cx.saved, savedF := front ++ cx.savedF } else cx) k.ctx }

/-- A PRE-EMPTION takes the context: it freezes, leaves the core, and waits for its frame; its queued engine operations leave at once (R235, R258, R340,
R346). -/
def State.preemptFreeze (s : State) (c : Nat) (x : CtxId) : State :=
  ((s.release c x).modCore c fun k => k.unqueue x).modCtx c x fun cx => { (cx.freeze.setTrap 15 0 0x01 cx.next) with st := .ready, wait := cx.wait.kept }

/-- Whether a context is one that pre-emption and stops act on. -/
def CtxState.live : CtxState → Bool
  | .ready | .issuing | .blocked => true
  | .free | .frozen | .retiring => false

/-- The READY context with the earliest deadline, ties to the lowest number, other than a given one (R72). -/
def State.chosen (s : State) (c : Nat) (but : Option CtxId) : Option CtxId :=
  allCtx.foldl (fun best x =>
    let cx := s.ctx c x
    if cx.st != .ready || some x = but || cx.pendEv.preempt then best
    else match best with
      | none => some x
      | some y => if s.deadlineOf cx.launch < s.deadlineOf (s.ctx c y).launch then some x else best) none

/-- The context becomes the issuing one: its cycles restart if they stood (R72, R336). -/
def State.makeIssuing (s : State) (c : Nat) (x : CtxId) : State :=
  let s1 := if (s.ctx c x).fz then s.unfreeze c x else s
  (s1.modCtx c x fun cx => { cx with st := .issuing, readyWait := 0 }).modCore c fun k => { k with cur := some x, last := some (k.ctx[x].launch, k.ctx[x].unit) }

/-- The issuing context blocks: the core may take another (R72, R73). -/
def State.blockCtx (s : State) (c : Nat) (x : CtxId) : State :=
  (s.modCtx c x fun cx => { cx with st := .blocked }).release c x

end Sys2Proof.Machine
end

