-- ==== Sys2Proof/Machine/Work.lean ====
section
/-! DEFINITION. The work hierarchy: instances, completion and cancellation (R74, R75, R98, R299, R316, R332, R360). -/

namespace Sys2Proof.Machine

/-- The instance of a number. -/
def State.instAt (s : State) (n : Nat) : Option Inst := s.insts.find? fun i => i.serial = n

/-- The instance that an id names at a level of a function: the latest of that id, while the id has not been given to another. -/
def State.inst? (s : State) (vf level : Nat) (id : W32) : Option Inst :=
  (s.insts.filter fun i => i.vf = vf && i.level = level && i.id = id && !i.past).getLast?

def State.modInst (s : State) (n : Nat) (f : Inst → Inst) : State :=
  { s with insts := s.insts.map fun i => if i.serial = n then f i else i }

/-- The graph, phase and job of a launch, each with its number (R74). -/
def State.above (s : State) (l : Launch) : List Inst :=
  let g := s.instAt l.inst
  let p := g.bind fun i => s.instAt i.up
  g.toList ++ p.toList ++ (p.bind fun i => s.instAt i.up).toList

/-- The instance of a level above a launch. -/
def State.aboveAt (s : State) (l : Launch) (level : Nat) : Option Inst := (s.above l).find? fun i => i.level = level

/-- The id of the instance of a level above a launch (CSR GRAPH, PHASE, JOB). -/
def State.idAbove (s : State) (id : W32) (level : Nat) : W32 := (((s.launch? id).bind fun l => s.aboveAt l level).map fun i => i.id).getD 0

/-- A `launch` packet that awaits its test is to become a child of the instance, or of a graph below it (R74, R92). -/
def State.awaits (s : State) (i : Inst) : Bool :=
  s.adm.any fun a => a.vf = i.vf && a.fromCtx.isSome && (s.inst? a.vf 2 a.graph).any fun g =>
    g.serial = i.serial || g.up = i.serial || (s.instAt g.up).any fun p => p.up = i.serial

/-- An instance is complete: no child is outstanding and none can be added. Graphs join a phase until it is closed, and packets a graph until its phase is
(R74, R358); an entry already fetched still opens its graph in the phase that its queue named, and a `launch` word's packet still joins its caller's
graph (R92). -/
def State.instDone (s : State) (i : Inst) : Bool :=
  i.past || i.count = 0 && !(s.awaits i) && (match i.level with
    | 2 => ((s.instAt i.up).map fun p => p.closed).getD true
    | 3 => i.closed && !(s.adm.any fun a => a.vf = i.vf && a.graph = 0 && a.phase = i.id)
    | _ => i.closed && !(s.adm.any fun a => a.vf = i.vf && a.graph = 0 && a.job = i.id))

/-- A child is added to an instance: one with its first outstanding child is outstanding in its parent (R74). -/
def State.countUp : Nat → State → Nat → State
  | 0, s, _ => s
  | f + 1, s, n => match s.instAt n with
    | none => s
    | some i =>
      let s1 := s.modInst n fun k => { k with count := k.count + 1 }
      if i.count = 0 then State.countUp f s1 i.up else s1

/-- A child of an instance is done: one with none left outstanding is no longer outstanding in its parent (R74). -/
def State.countDown : Nat → State → Nat → State
  | 0, s, _ => s
  | f + 1, s, n => match s.instAt n with
    | none => s
    | some i =>
      let s1 := s.modInst n fun k => { k with count := k.count - 1 }
      if i.count = 1 then State.countDown f s1 i.up else s1

/-- A launch that is complete, or cancelled with no unit left, is no longer outstanding in its graph (R74). -/
def State.leaveGraph (s : State) (id : W32) : State :=
  match s.launch? id with
  | none => s
  | some l => if !l.counted then s else (s.modLaunch id fun k => { k with counted := false }).countDown 3 l.inst

/-- The ids in use: of instances and launches, and those that queues and packets name (R74, R358). -/
def State.idsInUse (s : State) : List W32 :=
  (s.insts.map fun k => k.id) ++ (s.launches.map fun l => l.id) ++ (s.vfs.flatMap fun v => v.2.queues.flatMap fun q => [q.2.phase, q.2.job])
  ++ s.adm.flatMap fun a => [a.graph, a.phase, a.job]

/-- A fresh id: nonzero, and in no other use (R74, R358). -/
def State.newId (s : State) : W32 × State :=
  let used := s.idsInUse
  let next := (List.range (used.length + 2)).map fun i => s.idCtr + 1 + BitVec.ofNat 32 i
  let id := (next.find? fun i => i != 0 && !(used.contains i)).getD (s.idCtr + 1)
  (id, { s with idCtr := id })

/-- A frame's unit ends without resuming: tiles into RESIDUE, frame scrubbed, quota and barrier bits gone, its collectives aborted, and its started commands
left to complete without effect (R343, R370, R404, R409). -/
def State.endFramed (s : State) (f : Frame) : State :=
  let s0 := (s.abortColls f.core 0 f.ctx [f.ctx]).deadCmds f.ctx.launch f.ctx.unit
  let s1 := s0.endTiles f.ctx.launch (f.ctx.tiles.map fun p => .frame f.core f.ctx.launch f.ctx.unit p.1)
  let s2 : State := { s1 with frames := s1.frames.filter fun g => !(g.ctx.launch = f.ctx.launch && g.ctx.unit = f.ctx.unit) }
  (s2.unitDone f.core 0 f.ctx.launch f.ctx.unit f.ctx.next).leaveCore f.core f.ctx.launch

/-- Running units of a launch are to take KILLED at their next boundary, their tiles vanish at once; framed ones end (R75). -/
def State.killUnits (s : State) (id : W32) (which : W32 → Bool) : State :=
  let running := s.units.filter fun p => (s.ctx p.1 p.2).launch = id && which (s.ctx p.1 p.2).unit
  let s1 := running.foldl (fun t p =>
    (t.modCtx p.1 p.2 fun cx => { cx with pendEv := { cx.pendEv with kill := true } }).endUnitTiles p.1 p.2) s
  (s1.frames.filter fun f => f.ctx.launch = id && which f.ctx.unit).foldl (fun a f => a.endFramed f) s1

/-- One of the 64 queues of a function changed (R357). -/
def State.modQueue (s : State) (vf q : Nat) (f : Queue → Queue) : State :=
  if 64 ≤ q then s else s.modVf vf fun v => { v with queues := alSet q (f (alGet Queue.reset q v.queues)) v.queues }

/-- The slot of a queue moves past its head entry: HEAD rises by one (R324, R359). -/
def State.passHead (s : State) (vf q : Nat) : State :=
  s.modQueue vf q fun k => { k with head := k.head + 1, headId := 0, fetched := false }

/-- The head entry of a queue is with admission (R324). -/
def Queue.testing (k : Queue) : Bool := k.fetched && k.headId = 0

/-- Slots that are to stop or switch once their entry has its code do so, while the firmware scheduler runs (R324, R363). -/
def State.finishStops (s : State) : State :=
  if !(s.fwRuns 0) then s
  else { s with slots := s.slots.filterMap fun p =>
    if p.2.stopping && !((alGet Queue.reset p.2.q (s.vf p.2.vf).queues).testing) then p.2.next.map fun n => (p.1, ⟨n.1, n.2, false, none⟩) else some p }

/-- The entry at a queue's head has its code: a queue that is being disabled, and a slot that is to stop or switch, do so now (R324, R331, R358). -/
def State.finishEntry (s : State) (vf q : Nat) : State :=
  let s1 := s.modQueue vf q fun k => { k with en := k.en && !k.closing, closing := false }
  s1.finishStops

/-- The head entry of a queue that is the packet of a launch is left behind. -/
def State.passIfHead (s : State) (l : Launch) : State :=
  match l.source with
  | some (q, _) => if (alGet Queue.reset q (s.vf l.vf).queues).headId = l.id then s.passHead l.vf q else s
  | none => s

/-- One launch is cancelled with a cause (R75): it leaves the pending store, its units are killed, its tiles vanish, its pins drop. -/
def State.cancelOne (s : State) (id : W32) (cause : Nat) : State :=
  match s.launch? id with
  | none => s
  | some l =>
    if l.stage ≠ .admitted then s
    else
      let s1 := s.modLaunch id fun k => { k with stage := .cancelled, cause := BitVec.ofNat 8 cause }
      let s2 := (s1.killUnits id fun _ => true).endLaunchTiles id
      (s2.unpinAll id).passIfHead l

/-- The signal that a cancelled setter leaves broken (R316). -/
def State.breakSignal (s : State) (l : Launch) : State :=
  if l.done = 0 then s
  else s.modVf l.vf fun v =>
    { v with setters := v.setters.filter fun p => p.2 != l.id, broken := if v.broken.contains l.done then v.broken else v.broken ++ [l.done] }

/-- Launches are cancelled, and those that wait on the signals this breaks, with cause DEPEND (R75, R316); each launch at most once. -/
def State.cancelAll : Nat → State → List (W32 × Nat) → State
  | _, s, [] => s
  | 0, s, _ => s
  | n + 1, s, (id, cause) :: r =>
    match s.launch? id with
    | none => State.cancelAll n s r
    | some l =>
      if l.stage ≠ .admitted then State.cancelAll n s r
      else
        let s1 := (s.cancelOne id cause).breakSignal l
        let more := (s1.launches.filter fun k => k.vf = l.vf && k.stage = .admitted && l.done != 0 && k.waits.contains l.done).map fun k => (k.id, 4)
        State.cancelAll n s1 (more ++ r)

/-- Launches are cancelled with a cause. -/
def State.cancelLaunches (s : State) (ids : List W32) (cause : Nat) : State :=
  s.cancelAll (ids.length + s.launches.length * s.launches.length + 1) (ids.map fun i => (i, cause))

/-- The launches under an instance (R74). -/
def State.under (s : State) (n : Nat) : List W32 := (s.launches.filter fun l => (s.above l).any fun i => i.serial = n).map fun l => l.id

/-- A graph, phase or job is cancelled with everything below it (R75); a complete or cancelled one is left as it is (R98). -/
def State.cancelInst (s : State) (i : Inst) (cause : Nat) : State :=
  if i.cancelled || s.instDone i then s
  else
    let below (k : Inst) : Bool := k.serial = i.serial || k.up = i.serial || ((s.instAt k.up).map fun p => decide (p.up = i.serial)).getD false
    let s1 : State := { s with insts := s.insts.map fun k => if below k then { k with cancelled := true } else k }
    s1.cancelLaunches (s.under i.serial) cause

/-- One unit of a launch is cancelled: killed if it runs, ended if framed, never placed otherwise (R75). The launch's record then carries the cancel
cause, over that of a fatal fault (R74, R343); a unit that has ended, and one of a launch that is complete or cancelled, is left as it is (R98). -/
def State.cancelUnit (s : State) (id : W32) (u : W32) : State :=
  if !(s.launches.any fun l => l.id = id && l.stage = .admitted) then s
  else
    let runs := (s.units.any fun p => (s.ctx p.1 p.2).launch = id && (s.ctx p.1 p.2).unit = u)
      || s.frames.any fun f => f.ctx.launch = id && f.ctx.unit = u
    let s1 := s.noteDone id fun l =>
      let waits := decide (l.placed ≤ u.toNat) && decide (u.toNat < l.units.toNat) && !(l.gone.contains u.toNat)
      { l with
        gone := if waits then l.gone ++ [u.toNat] else l.gone
        cause := if (runs || waits) && (l.cause = 0 || l.cause = 5) then 1 else l.cause }
    s1.killUnits id (· == u)

/-- A 32-byte completion record (R332 Table 7). -/
def completionRecord (corr id residue : W32) (ovr late : Bool) (cause code : Nat) (spent finish : W64) : Nat :=
  (corr.toNat * 2 ^ 32 + id.toNat)
  + (residue.toNat * 2 ^ 32 + bit ovr * 2 ^ 17 + bit late * 2 ^ 16 + cause % 256 * 256 + code % 256) * 2 ^ 64
  + spent.toNat * 2 ^ 128 + finish.toNat * 2 ^ 192

/-- An MSI-X message to a function (R360): the PF has 256 vectors, a VF 64 (R355). -/
def State.msi (s : State) (vf : Nat) (vec : Byte) : State :=
  if vec.toNat < (if vf = 128 then 256 else 64) then { s with msix := s.msix ++ [(vf, vec)] } else s

/-- The record of queue entry n is written, then DONE, CQSIG and the vector, in that order (R360). -/
def State.postRecord (s : State) (vf q : Nat) (n : W32) (rec : Nat) : State :=
  let k := alGet Queue.reset q (s.vf vf).queues
  let s1 := s.storeVa vf (k.cqbase.toNat + 32 * (n.toNat % 2 ^ k.log2n.toNat)) 32 rec
  let s2 := s1.modVf vf fun v => { v with queues := alSet q { k with done := k.done + 1 } v.queues }
  let s3 := if k.cqsig = 0 then s2
    else s2.storeVa vf k.cqsig.toNat 8 ((s2.loadVa vf k.cqsig.toNat 8 + 1) % 2 ^ 64)
  if k.irq then s3.msi vf k.vec else s3

end Sys2Proof.Machine
end

