-- ==== Sys2Proof/Machine/Replay.lean ====
section
/-! DEFINITION. Replay logs: entries written as inputs arrive, and taken back in a replay (R393-R400). -/

namespace Sys2Proof.Machine

/-- The bytes of a unit's ring after its 64-byte header. -/
def Replay.room (r : Replay) : Nat := 2 ^ r.log2 - 64

/-- The address of byte offset n, free-running, of a ring (R393). -/
def Replay.at (r : Replay) (n : Nat) : Nat := r.base.toNat + 64 + n % r.room

def State.writeWords (s : State) (vf : Nat) (r : Replay) : Nat → List W64 → State
  | _, [] => s
  | n, w :: t => State.writeWords (s.storeVa vf (r.at n) 8 w.toNat) vf r (n + 8) t

/-- The head of an entry (R394 Table 11). -/
def entryHead (kind src len aux : Nat) (ord : W32) (o : Org) : List W64 :=
  [BitVec.ofNat 64 (kind * 2 ^ 58 + src % 16 * 2 ^ 54 + len % 4096 * 2 ^ 42 + o.sc.toNat),
   BitVec.ofNat 64 (ord.toNat * 2 ^ 32 + aux % 4096 * 2 ^ 20 + o.ba.toNat % 2 ^ 20)]

/-- Where a unit that keeps a log stands: a context of the core, or a frame. -/
inductive Logger where
  | ctx (x : CtxId)
  | frame (l u : W32)
  deriving DecidableEq, Repr

def State.loggerCtx (s : State) (c : Nat) : Logger → Ctx
  | .ctx x => s.ctx c x
  | .frame l u => ((s.frameOf l u).map fun f => f.ctx).getD Ctx.reset

/-- Whether an entry of n data words fits in a unit's ring (R395, R397). -/
def State.roomFor (s : State) (c : Nat) (p : Logger) (n : Nat) : Bool :=
  let cx := s.loggerCtx c p
  !cx.rep.logging || cx.rep.wr - s.loadVa cx.vf (cx.rep.base.toNat + 8) 8 + 16 + 8 * n ≤ cx.rep.room

def State.logFits (s : State) (c : Nat) (x : CtxId) (n : Nat) : Bool := s.roomFor c (.ctx x) n

/-- An entry is written, its cycles charged as copy-engine cycles; a move that would overrun a ring in writing one is not made (R395, R397,
`State.logsOver`). -/
def State.logFor (s : State) (c : Nat) (p : Logger) (kind src aux : Nat) (o : Org) (data : List W64) : State :=
  let cx := s.loggerCtx c p
  let words := entryHead kind src data.length aux cx.rep.ord o ++ data
  let n := cx.rep.wr + 8 * words.length
  let s1 := (s.writeWords cx.vf cx.rep cx.rep.wr words).storeVa cx.vf cx.rep.base.toNat 8 n
  let f (k : Ctx) : Ctx := { k with rep := { k.rep with wr := n } }
  (match p with
    | .ctx x => s1.modCtx c x f
    | .frame l u => s1.modFrame l u f).charge cx.launch (ceilDiv (8 * words.length) 64)

def State.logEntry (s : State) (c : Nat) (x : CtxId) (kind src aux : Nat) (o : Org) (data : List W64) : State :=
  s.logFor c (.ctx x) kind src aux o data

/-- An entry as a replay reads it. -/
structure Entry where
  kind : Nat
  src : Nat
  sc : Nat
  ord : Nat
  aux : Nat
  ba : Nat
  len : Nat
  data : List W64
  deriving DecidableEq, Repr

/-- Bytes that an entry fills. -/
def Entry.size (e : Entry) : Nat := 16 + 8 * e.len

/-- The entry at a byte offset of a replaying unit's log; none where none is written. -/
def State.entryAt (s : State) (c : Nat) (x : CtxId) (rd : Nat) : Option Entry :=
  let cx := s.ctx c x
  let r := cx.rep
  if !r.replaying || s.loadVa cx.vf r.base.toNat 8 ≤ rd then none
  else
    let w0 := s.loadVa cx.vf (r.at rd) 8
    let w1 := s.loadVa cx.vf (r.at (rd + 8)) 8
    let len := w0 / 2 ^ 42 % 4096
    some ⟨w0 / 2 ^ 58, w0 / 2 ^ 54 % 16, w0 % 2 ^ 40, w1 / 2 ^ 32, w1 / 2 ^ 20 % 4096, w1 % 2 ^ 20, len,
      (List.range len).map fun i => BitVec.ofNat 64 (s.loadVa cx.vf (r.at (rd + 16 + 8 * i)) 8)⟩

/-- The next entry of a replaying unit's log; none where none remains. -/
def State.nextEntry (s : State) (c : Nat) (x : CtxId) : Option Entry := s.entryAt c x (s.ctx c x).rep.rd

/-- The entries of the log from an offset on. -/
def State.entriesFrom (s : State) (c : Nat) (x : CtxId) : Nat → Nat → List Entry
  | 0, _ => []
  | f + 1, rd => match s.entryAt c x rd with
    | none => []
    | some e => e :: State.entriesFrom s c x f (rd + e.size)

/-- An entry by no word of the unit names its next bundle, by SC, BA and SRC 15 (R394, R400). -/
def Entry.atNext (e : Entry) (cx : Ctx) : Bool := e.src = 15 && e.sc = cx.scycle.toNat && e.ba = cx.pc.toNat % 2 ^ 20

/-- The GAP entry of the context's next bundle, at the head of its log (R395 kind 8). -/
def State.ownGap (s : State) (c : Nat) (x : CtxId) : Option Entry := (s.nextEntry c x).filter fun e => e.kind = 8 && e.atNext (s.ctx c x)

/-- The GAP entry of the context's next bundle stands further on in its log. -/
def State.gapAhead (s : State) (c : Nat) (x : CtxId) : Bool :=
  (s.entriesFrom c x ((s.ctx c x).rep.room / 16) (s.ctx c x).rep.rd).any fun e => e.kind = 8 && e.atNext (s.ctx c x)

/-- The entry that a `csrr` of the next bundle takes: the one after that bundle's GAP. -/
def State.afterGap (s : State) (c : Nat) (x : CtxId) : Option Entry :=
  match s.ownGap c x with
  | some e => s.entryAt c x ((s.ctx c x).rep.rd + e.size)
  | none => s.nextEntry c x

/-- A CAUSE entry names a word of a bundle that the replay has issued, by SC, BA and SRC: an engine's is of an MX word, a queue's of an MG word (R400). -/
def Ctx.causedBy (cx : Ctx) (e : Entry) : Option Org :=
  let slot := if e.src = 8 ∨ e.src = 9 then 4 else if e.src = 10 then 7 else e.src
  (cx.rep.issued.find? fun p => p.1.sc.toNat = e.sc && p.1.ba.toNat % 2 ^ 20 = e.ba && p.2.contains slot).map Prod.fst

/-- The entry at the log's head is one that nothing of the unit will take: a GAP or TRAPIN entry of a bundle that has gone by, or a CAUSE entry of no
word of its bundle (R400). -/
def State.strays (s : State) (c : Nat) (x : CtxId) : Bool :=
  let cx := s.ctx c x
  (s.nextEntry c x).any fun e =>
    ((e.kind = 8 || e.kind = 9) && (e.sc < cx.scycle.toNat || (e.sc = cx.scycle.toNat && !cx.tif && !(e.atNext cx))))
    || (e.kind = 3 && e.sc < cx.scycle.toNat && (cx.causedBy e).isNone)

/-- Whether other words of a unit than one are outstanding that may take the log's next entry. -/
def Ctx.othersOut (cx : Ctx) (tok : Nat) : Bool :=
  (cx.mt ++ cx.mc ++ cx.mg).any (fun w => w.tok != tok) || cx.pend.any (fun p => p.tok != tok) || cx.ans.any fun a => a.tok != tok

/-- In a replay, an input of a kind by a bundle of the unit may be taken: the next entry is its own, or no other word could take that entry, so
that a mismatch is a divergence (R396, R399, R400). -/
def State.replayReady (s : State) (c : Nat) (x : CtxId) (kind src tok : Nat) (o : Org) : Bool :=
  !((s.ctx c x).othersOut tok) || match s.nextEntry c x with
    | some e => e.kind = kind && e.src = src && e.sc = o.sc.toNat && e.ba = o.ba.toNat % 2 ^ 20
    | none => false

/-- The entry has been taken. -/
def State.tookEntry (s : State) (c : Nat) (x : CtxId) (e : Entry) : State :=
  s.modCtx c x fun k => { k with rep := { k.rep with rd := k.rep.rd + e.size } }

/-- Where an entry's tile is, for the unit that reads it: AUX [9] its launch table, [7:0] the name (R395); the checkpoint's launch tiles stand in
the replaying unit's own table (R399). -/
def State.entryLoc (s : State) (c : Nat) (x : CtxId) (aux : Nat) : TLoc :=
  let u := TLoc.unit c x (aux % 256)
  let l := TLoc.launch c (s.ctx c x).launch (aux % 256)
  if aux / 512 % 2 = 1 then (if (s.tile l).st = .absent ∧ (s.tile u).st ≠ .absent then u else l) else u

/-- A FILL entry applied: its lines land in the tile, which is PRESENT once the command that fills it has landed its last (R399). -/
def State.applyFill (s : State) (c : Nat) (x : CtxId) (e : Entry) : State :=
  let l := s.entryLoc c x e.aux
  let t := s.tile l
  let off := (e.data.headD 0).toNat
  let n := 8 * (e.len - 1)
  let s1 := s.setTile l (t.write off n (packElems (8 * n) 64 ((e.data.drop 1).map BitVec.toNat)))
  let touch (m : Cmd) : Cmd := if m.dst = some t.uid ∧ m.state ≠ 3 then
      let k := m.next + n / 64
      { m with next := k, state := if m.total ≤ k then 3 else 1 }
    else m
  let s2 := s1.modCtx c x fun cx => { cx with eq := vmapI (fun _ q => q.map touch) cx.eq, ccq := cx.ccq.map touch }
  let cx := s2.ctx c x
  if t.st = .filling ∧ ((cx.eq.toList.flatten ++ cx.ccq).any fun m => m.dst = some t.uid && m.state = 3) then
    s2.setTile l { s2.tile l with st := .present }
  else s2

/-- A TSTATE entry applied: the state and count another party left (R395, R399). -/
def State.applyTstate (s : State) (c : Nat) (x : CtxId) (e : Entry) : State :=
  let l := s.entryLoc c x e.aux
  let w : W64 := e.data.headD 0
  let st : TileState := match (fld w 16 3).toNat with
    | 1 => .filling
    | 2 => .present
    | 3 => .parking
    | 4 => .parked
    | 5 => .unparking
    | 6 => .poisoned
    | _ => .absent
  if st = .absent then (if (s.tile l).st = .absent then s else s.vanish l)
  else
    let t := (s.tile l).shape w
    s.setTile l { t with st := st, count := (fld w 0 16).toNat }

/-- FILL, TSTATE and CAUSE entries at the head of a replaying unit's log take effect: the first two once their own accesses have been performed,
the last once its bundle has issued (R395, R399). -/
def State.drainLog (s : State) (c : Nat) (x : CtxId) : Nat → State
  | 0 => s
  | n + 1 =>
    match s.nextEntry c x with
    | none => s
    | some e =>
      let cx := s.ctx c x
      if e.kind = 6 ∧ e.ord ≤ cx.rep.ord.toNat then State.drainLog ((s.tookEntry c x e).applyFill c x e) c x n
      else if e.kind = 7 ∧ e.ord ≤ cx.rep.ord.toNat then State.drainLog ((s.tookEntry c x e).applyTstate c x e) c x n
      else if e.kind = 3 then
        (match cx.causedBy e with
        | none => s
        | some o =>
          let slot := if e.src < 8 then e.src else if e.src < 10 then 4 else 7
          State.drainLog ((s.tookEntry c x e).modCtx c x fun k => k.sticky1 slot (BitVec.ofNat 12 e.aux) o) c x n)
      else s

def State.drained (s : State) (c : Nat) (x : CtxId) : State :=
  if (s.ctx c x).rep.replaying then s.drainLog c x (s.ctx c x).rep.room else s

/-- Why an input of a replaying unit stops it: no entry remains, WHY 7, or the next is of another kind, bundle or source, WHY 6 (R400). -/
def State.diverges (s : State) (c : Nat) (x : CtxId) (kind src : Nat) (o : Org) : Option Nat :=
  if !((s.ctx c x).rep.replaying) then none
  else match (s.drained c x).nextEntry c x with
    | none => some 7
    | some e => if e.kind ≠ kind ∨ e.src ≠ src % 16 ∨ e.sc ≠ o.sc.toNat ∨ e.ba ≠ o.ba.toNat % 2 ^ 20 then some 6 else none

/-- AN INPUT OF A UNIT (R395, R399, R400): logged when the unit logs; taken from the log, checked by kind, schedule cycle, address and source,
when it replays (a mismatch stops it with WHY 6, an exhausted log with WHY 7); the world's data otherwise. Answers AUX and the data. -/
def State.inputAux (s : State) (c : Nat) (x : CtxId) (kind src aux : Nat) (o : Org) (data : List W64) : State × Nat × List W64 :=
  if (s.ctx c x).rep.replaying then
    let s1 := s.drained c x
    match s.diverges c x kind src o, s1.nextEntry c x with
    | some why, _ => (s1.debugStop c x why 0, aux, data)
    | none, some e => (s1.tookEntry c x e, e.aux, e.data)
    | none, none => (s1, aux, data)
  else if (s.ctx c x).rep.logging then (s.logEntry c x kind src aux o data, aux, data)
  else (s, aux, data)

def State.input (s : State) (c : Nat) (x : CtxId) (kind src aux : Nat) (o : Org) (data : List W64) : State × List W64 :=
  let r := s.inputAux c x kind src aux o data
  (r.1, r.2.2)

/-- An input of the word at hand. -/
def State.inputMe (s : State) (kind aux : Nat) (data : List W64) : State × List W64 :=
  s.input s.cur.core s.cur.x kind s.cur.slot aux s.cur.org data

/-- The word at hand may take its input now (R396). -/
def State.inputReady (s : State) (kind : Nat) : Bool :=
  !(s.me.rep.replaying) || s.replayReady s.cur.core s.cur.x kind s.cur.slot s.cur.tok s.cur.org

/-- One performed access of a unit to its core's store (R394, ORD). -/
def State.accessAt (s : State) (c : Nat) (x : CtxId) : State :=
  (s.modCtx c x fun cx => { cx with rep := { cx.rep with ord := cx.rep.ord + 1 } }).drained c x

def State.ownAccess (s : State) : State := s.accessAt s.cur.core s.cur.x

/-- Whether the word at hand belongs to a unit in replay mode: its effects on the world are not performed (R399). -/
def State.replaying (s : State) : Bool := s.me.rep.replaying

/-- The 64 words of a vector, and back. -/
def vwords (v : VReg) : List W64 := (List.range 64).map fun i => elemAt v 64 i

def ofWords (l : List W64) : VReg := packElems 4096 64 (l.map BitVec.toNat)

/-- The logger that a unit is. -/
def State.loggerOf (s : State) (c : Nat) (l u : W32) : Option Logger :=
  match s.unitCtx c l u with
  | some x => some (.ctx x)
  | none => (s.frameOf l u).map fun _ => .frame l u

/-- Causes that an engine sets in the record of a slot of a unit (R347): an input of the unit, which is logged, and which a replay takes from its log (R395
kind 3). -/
def State.engineCause (s : State) (c : Nat) (l u : W32) (slot src : Nat) (x : BitVec 12) (o : Org) : State :=
  if x = 0 then s
  else match s.loggerOf c l u with
    | none => s
    | some p =>
      let r := (s.loggerCtx c p).rep
      if r.replaying then s
      else
        let s1 := s.modUnit c l u fun k => k.sticky1 slot x o
        if r.logging then s1.logFor c p 3 src x.toNat o [] else s1

/-- Causes of an MC or MG word: logged; in a replay they come from the log (R395 kind 3). Other slots set theirs at once. -/
def State.causeIn (s : State) (x : BitVec 12) : State :=
  if x = 0 ∨ (5 < s.cur.slot ∧ s.replaying) then s
  else
    let s1 := s.cause x
    if 5 < s.cur.slot ∧ s.me.rep.logging then s1.logEntry s.cur.core s.cur.x 3 s.cur.slot x.toNat s.cur.org [] else s1

/-- The condition entry of an MT, MC or MG word fills; an MC or MG fill is an input (R395 kind 2). -/
def State.pushCqIn (s : State) (b : Bool) : State :=
  if s.cur.slot ≤ 5 then s.pushCq b
  else
    let (s1, aux, _) := s.inputAux s.cur.core s.cur.x 2 s.cur.slot (bit b) s.cur.org []
    s1.pushCq (aux % 2 = 1)

/-! ### Landings and changes that other parties make (R395 kinds 6 and 7) -/

/-- The logging units of a tile's core that can name it, with AUX. -/
def State.namers (s : State) (l : TLoc) : List (Logger × Nat) :=
  let c := l.core
  let here := (allCtx.map fun x => (Logger.ctx x, s.ctx c x)) ++ (s.frames.filter fun f => f.core = c).map fun f => (Logger.frame f.ctx.launch f.ctx.unit, f.ctx)
  (here.filter fun p => p.2.rep.logging).filterMap fun p =>
    match l, p.1 with
    | .unit _ y n, .ctx x => if x = y then some (p.1, n) else none
    | .launch _ a n, _ => if p.2.launch = a ∧ (alGet Tile.absent n p.2.tiles).st = .absent then some (p.1, 512 + n) else none
    | .frame _ a u n, .frame b v => if a = b ∧ u = v then some (p.1, n) else none
    | _, _ => none

/-- Every log that would take n data words has room. -/
def State.namersFit (s : State) (l : TLoc) (n : Nat) : Bool := (s.namers l).all fun p => s.roomFor l.core p.1 n

/-- A ring of a unit that a move has written to holds more than its reader has left room for: the move waits, as on a full engine queue (R395, R397). -/
def State.logsOver (before after : State) : Bool :=
  let full (was cx : Ctx) : Bool :=
    cx.rep.logging && cx.rep.wr != was.rep.wr && decide (cx.rep.room < cx.rep.wr - after.loadVa cx.vf (cx.rep.base.toNat + 8) 8)
  (after.units.any fun p => full (before.ctx p.1 p.2) (after.ctx p.1 p.2))
  || after.frames.any fun f => full (before.loggerCtx f.core (.frame f.ctx.launch f.ctx.unit)) f.ctx

/-- Lines have landed in a tile: FILL entries for every logging unit but one (R395). A unit's own command is named with its bundle. -/
def State.logFill (s : State) (l : TLoc) (off : Nat) (data : List W64) (by_ : Option (W32 × W32 × Org)) (but : Option CtxId) : State :=
  ((s.namers l).filter fun p => some p.1 != but.map Logger.ctx).foldl (fun (a : State) p =>
    let cx := a.loggerCtx l.core p.1
    let own := (by_.map fun q => decide (q.1 = cx.launch ∧ q.2.1 = cx.unit)).getD false
    let o := if own then (by_.map fun q => q.2.2).getD Org.zero else cx.next
    a.logFor l.core p.1 6 (if own then 10 else 11) p.2 o (BitVec.ofNat 64 off :: data)) s

/-- A word of context x has written n bytes at o of a tile: the lines that hold them are logged for the others. -/
def State.noteWrite (s : State) (l : TLoc) (o n : Nat) (x : Option CtxId) : State :=
  if s.namers l = [] then s
  else
    let lo := o / 64 * 64
    let k := (o + n + 63) / 64 * 8 - lo / 8
    s.logFill l lo ((List.range k).map fun i => ((s.tile l).read (lo + 8 * i) 8)) none x

/-- A party, of the unit given or of none, has changed a tile's state or count: TSTATE entries for the other logging units that can name it, by the entry
before the change (R395). -/
def State.logTstate (s before : State) (l : TLoc) (by_ : Option Logger) : State :=
  ((before.namers l).filter fun p => some p.1 != by_).foldl (fun (a : State) p =>
    a.logFor l.core p.1 7 11 p.2 (before.loggerCtx l.core p.1).next [s.tstatWord l]) s

end Sys2Proof.Machine
end

