-- ==== Sys2Proof/Machine/Boundary.lean ====
section
/-! DEFINITION. Events at a bundle boundary, in the order of R339, and as a log records and replays them (R395 kind 9). -/

namespace Sys2Proof.Machine

/-- OVERRUN or STORE_FULL enters the handler; the entry is logged (R395). -/
def State.enterLogged (s : State) (c : Nat) (x : CtxId) (slot arg code : Nat) (o : Org) : State :=
  let s1 := if (s.ctx c x).rep.logging then s.logEntry c x 9 15 code (s.ctx c x).next [] else s
  s1.enterTrap c x slot arg code o

/-- The trap that a replaying unit's log enters at this boundary, its code (R399): an entry that names its next bundle (R400). -/
def State.replayedTrap (s : State) (c : Nat) (x : CtxId) : Option (Entry × Nat) :=
  match s.nextEntry c x with
  | some e => if e.kind = 9 ∧ e.atNext (s.ctx c x) then some (e, e.aux % 256) else none
  | none => none

/-! ### Breakpoints (R384) -/

def BreakPt.hits (b : BreakPt) (cx : Ctx) : Bool :=
  b.w0.getLsbD 63 && fld b.w0 52 9 = 0#9 && fld b.w1 40 24 = 0#24 && fld b.w0 32 2 = 0#2
  && (fld b.w0 32 20 : BitVec 20).toNat = cx.pc.toNat
  && (!(b.w0.getLsbD 62) || (!cx.tif && fld b.w1 0 40 = cx.scycle))
  && (!(b.w0.getLsbD 61) || (fld b.w0 0 32 : W32) = cx.unitNo)

/-- ARG of the first entry that matches the bundle about to issue: none while control still waits for an `xdisp` or an `eret`. -/
def State.breakAt (s : State) (c : Nat) (x : CtxId) : Option Nat :=
  let cx := s.ctx c x
  if cx.pendEv.skipBp || cx.pendEv.eret || cx.wait = .xdisp || !(s.dbgBit cx.vf cx.launch 0) then none
  else ((s.dbgSlots cx.vf cx.launch).flatMap fun p => (p.2.bps.toList.zipIdx).filterMap fun b =>
    if b.1.hits cx then some (16 * p.1 + b.2) else none).head?

/-! ### The boundary -/

/-- The debug stop that a context takes at a boundary, WHY and ARG: a step completed, a `bkpt`, a breakpoint, a HALT (R339, R378, R382 Table 4). -/
def State.stopAt (s : State) (c : Nat) (x : CtxId) : Option (Nat × Nat) :=
  let cx := s.ctx c x
  let p := cx.pendEv
  if p.stepStop && !p.skipBp then some (3, 0)
  else match p.bkpt, s.breakAt c x with
    | some n, _ => some (2, n.toNat)
    | none, some n => some (1, n)
    | none, none => if p.halt then some (0, 0) else if p.haltAll then some (5, 0) else none

/-- EVENTS AT A BOUNDARY, in the order of R339: fatal, debug stop, pre-emption, STORE_FULL, software trap, OVERRUN. Those not taken stay
pending, as does one for whose entry a log has no room (R397). DEDUCED: a unit that is RETIRING takes no boundary any more, so a cancellation ends it
by its own retirement (R75, R93; log entry 88). -/
def State.boundary (s : State) (c : Nat) (x : CtxId) : State :=
  let cx := s.ctx c x
  let p := cx.pendEv
  if !cx.st.live then s
  else if p.kill then s.fatal c x .killed 15 cx.next
  else match s.stopAt c x with
    | some (why, arg) => s.debugStop c x why arg
    | none =>
      if p.preempt then s.preemptFreeze c x
      else if (s.drained c x).strays c x then s.debugStop c x 6 0
      else if cx.tif then s
      else if cx.rep.replaying then
        (match s.replayedTrap c x, p.trap with
        | some (e, code), _ =>
          let (slot, n, o) := p.full.getD (15, 0, cx.next)
          (s.tookEntry c x e).enterTrap c x slot n code o
        | none, some (n, o) =>
          let s1 := s.modCtx c x fun k => { k with pendEv := { k.pendEv with trap := none } }
          if cx.trapvec = 0xFFFFFFFF#32 then s1.fatal c x .permission 0 o else s1.enterTrap c x 0 n.toNat 0x04 o
        | none, none => s)
      else if (p.full.isSome || p.overrun) && cx.trapvec ≠ 0xFFFFFFFF#32 && !(s.logFits c x 0) then s
      else match p.full with
        | some (slot, n, o) =>
          let s1 := s.modCtx c x fun k => { k with pendEv := { k.pendEv with full := none }, allocWait := Vector.replicate 4 0 }
          if cx.trapvec = 0xFFFFFFFF#32 then s1 else s1.enterLogged c x slot n 0x03 o
        | none =>
          match p.trap with
          | some (n, o) =>
            let s1 := s.modCtx c x fun k => { k with pendEv := { k.pendEv with trap := none } }
            if cx.trapvec = 0xFFFFFFFF#32 then s1.fatal c x .permission 0 o else s1.enterTrap c x 0 n.toNat 0x04 o
          | none =>
            if p.overrun && !p.overrunTaken then
              let s1 := s.modCtx c x fun k => { k with pendEv := { k.pendEv with overrun := false, overrunTaken := true } }
              if cx.trapvec = 0xFFFFFFFF#32 then s1 else s1.enterLogged c x 15 0 0x02 cx.next
            else s

end Sys2Proof.Machine
end

