-- ==== Sys2Proof/Machine/Loops.lean ====
section
/-! DEFINITION. Hardware loops, branches, iteration positions and generator steps (R33, R77-R80, R86). -/

namespace Sys2Proof.Machine

/-- Levels 0-5, innermost first. -/
def levels : List (Fin 6) := [0, 1, 2, 3, 4, 5]

/-- The level is in its last iteration. -/
def Loop.last (l : Loop) : Bool := l.index.toNat + 1 = l.count.toNat

/-- Whether IT accepts the iteration of a level (R33 Table 6). -/
def itAccepts (it : BitVec 2) (l : Loop) : Bool :=
  let first := l.index = 0
  let last := l.last
  match it.toNat with
  | 0 => true
  | 1 => first
  | 2 => last
  | _ => !first && !last

/-- Whether TAG accepts a leaf (R33 Table 5). -/
def tagAccepts (t : BitVec 3) (leaf : Nat) : Bool :=
  if t = 7 then true else if t = 5 then leaf ≤ 3 else t.toNat = leaf

/-- The leaf: the lowest i with ci = 1, else 4 (R76). -/
def leafOf : Nat → List Bool → Nat
  | _, [] => 4
  | i, b :: r => if b then i else leafOf (i + 1) r

/-- A body bundle whose next sequential address is given ends iterations, from the innermost active level outwards (R77): where
control goes, and the loop state. DEDUCED: where an inner loop's end lies beyond the enclosing loop's, the enclosing iteration ends only once the inner
level has ended; the spec is silent (log entry 16). -/
def endIteration (loops : Vector Loop 6) (next : W32) : List (Fin 6) → Vector Loop 6 × W32
  | [] => (loops, next)
  | n :: r =>
    let l := loops[n]
    if !l.active then endIteration loops next r
    else if next.toNat < l.stop.toNat then (loops, next)
    else if l.last then endIteration (loops.set n Loop.off) next r
    else (loops.set n { l with index := l.index + 1 }, l.start)

/-- Control leaves the bodies that do not hold the target: those levels and all below become inactive (R79). -/
def leaveBodies (loops : Vector Loop 6) (target : W32) : Vector Loop 6 :=
  let out (l : Loop) : Bool := l.active && !(l.start.toNat ≤ target.toNat && target.toNat < l.stop.toNat)
  vmapI (fun n l => if levels.any fun m => n ≤ m.val && out loops[m] then Loop.off else l) loops

/-- The lowest active level that is not in its last iteration (R80). -/
def stepLevel (loops : Vector Loop 6) : Option (Fin 6) := levels.find? fun n => loops[n].active && !loops[n].last

/-- The innermost active level (R392). -/
def innerLevel (loops : Vector Loop 6) : Option (Fin 6) := levels.find? fun n => loops[n].active

/-- The outermost active level (R78). -/
def outerLevel (loops : Vector Loop 6) : Option (Fin 6) := levels.reverse.find? fun n => loops[n].active

/-- How many bundles stand in the given words before distance d (in words), counted up to the fuel (R78). -/
def bundlesBefore : Nat → List W32 → Nat → Nat
  | 0, _, _ => 0
  | f + 1, ws, d =>
    match ws with
    | [] => 0
    | h :: _ => if d = 0 then 0 else 1 + bundlesBefore f (ws.drop (bundleLen h)) (d - bundleLen h)

/-- The next sequential address of the bundle being issued, which the issue leaves in `pc` (R27). -/
def State.seqNext (s : State) : W32 := s.me.pc

/-- A TAKEN BRANCH of the word at hand (R79, R86): a misaligned target is MISALIGN, one in no segment SEGMENT, at the branch's bundle. DESIGN
CHOICE: a target that is both is MISALIGN (log entry 20). -/
def State.branch (s : State) (target : W32) : State :=
  if target.toNat % 4 ≠ 0 then s.fatalMe .misalign
  else if (s.me.segOf target).isNone then s.fatalMe .segment
  else s.modMe fun cx => { cx with nextPc := some target, loops := leaveBodies cx.loops target }

/-- A `loop` of count 0 or an `lbrk`: control goes to an end address and may end enclosing iterations there (R77, R79). -/
def State.goEnd (s : State) (target : W32) : State :=
  s.modMe fun cx =>
    let (l, pc) := endIteration cx.loops target levels
    { cx with loops := l, nextPc := some pc }

/-- The address off words from the bundle at hand (R30). -/
def State.label (s : State) {w : Nat} (off : BitVec w) : W32 := s.cur.org.ba + BitVec.ofInt 32 (4 * off.toInt)

end Sys2Proof.Machine
end

