-- ==== Sys2Proof/Machine/Control.lean ====
section
/-! DEFINITION. The control slot: branches, loops, events, launches, traps, system registers (R85-R98, R339). -/

namespace Sys2Proof.Machine

/-- NOP changes no architectural state (R47). -/
def execNop (_t : BitVec 3) (_i : BitVec 2) (s : State) : Out :=
  .next (if 5 ≤ s.cur.slot then s.performed else s)

/-! ### Branches (R86) -/

/-- BR (R86 Table 7). -/
def execBr (_t : BitVec 3) (_i : BitVec 2) (o : BitVec 21) (s : State) : Out := .next (s.branch (s.label o))

/-- BRT (R86 Table 7). -/
def execBrt (_t : BitVec 3) (_i : BitVec 2) (n : BitVec 3) (s : State) : Out := .next (s.branch (vget (n := 3) s.me.tg n))

/-- MBR branches on leaves 0-3 only (R86 Table 7). -/
def execMbr (_t : BitVec 3) (_i : BitVec 2) (b : BitVec 3) (s : State) : Out :=
  .next (if s.cur.leaf ≤ 3 then s.branch (vget (n := 3) s.me.tg (b + BitVec.ofNat 3 s.cur.leaf)) else s)

/-- CALL writes the link to s31 with latency 1 and branches (R86). -/
def execCall (_t : BitVec 3) (_i : BitVec 2) (o : BitVec 21) (s : State) : Out :=
  .next ((s.land 1 (.s 31 (s.seqNext.setWidth 64)) 0).branch (s.label o))

/-- RET branches to s31 as read at issue (R86): a target that is not a multiple of 4 is MISALIGN; one that no segment holds, or past every bundle
address, is SEGMENT. -/
def execRet (_t : BitVec 3) (_i : BitVec 2) (s : State) : Out :=
  let t := s.sreg 31
  .next (if t.toNat % 4 = 0 ∧ 2 ^ 32 ≤ t.toNat then s.fatalMe .segment else s.branch (t.setWidth 32))

/-! ### Loops (R77, R78, R79, R87) -/

/-- `loop lvN` with a count (R77, R78): over an active level N or below it is ILLEGAL_BUNDLE; a body in two segments is SEGMENT; count 0 goes
to the end. -/
def State.loop (s : State) (n : BitVec 3) (count : W32) (e : BitVec 12) : State :=
  let cx := s.me
  let stop := s.cur.org.ba + 4 * e.setWidth 32
  if levels.any fun m => m.val ≤ n.toNat && cx.loops[m].active then s.fatalMe .illegalBundle
  else if (cx.segOf s.seqNext).isNone || cx.segOf s.seqNext != cx.segOf (stop - 4) then s.fatalMe .segment
  else if count = 0 then s.goEnd stop
  else s.modMe fun cx =>
    { cx with loops := vmapI (fun m l => if m = n.toNat then ⟨true, count, 0, s.seqNext, stop⟩ else l) cx.loops }

/-- LOOP with a register count: bits [31:0] of sA (R87). -/
def execLoopReg (_t : BitVec 3) (_i : BitVec 2) (n : BitVec 3) (c : BitVec 5) (e : BitVec 12) (s : State) : Out :=
  .next (s.loop n ((s.sreg c).setWidth 32) e)

/-- LOOP with an immediate count 0-31 (R87). -/
def execLoopImm (_t : BitVec 3) (_i : BitVec 2) (n : BitVec 3) (c : BitVec 5) (e : BitVec 12) (s : State) : Out :=
  .next (s.loop n (c.setWidth 32) e)

/-- LBRK makes level N and below inactive and goes to level N's end; no effect on an inactive level (R79, R87). -/
def execLbrk (_t : BitVec 3) (_i : BitVec 2) (n : BitVec 3) (s : State) : Out :=
  .next (match s.me.loops.toList[n.toNat]? with
    | some l =>
      if l.active then
        (s.modMe fun cx => { cx with loops := vmapI (fun m k => if m ≤ n.toNat then Loop.off else k) cx.loops }).goEnd l.stop
      else s
    | none => s)

/-! ### Target registers, waits and events (R83, R84, R88-R91) -/

/-- TGSET from a label (R88). -/
def execTgsetLabel (_t : BitVec 3) (_i : BitVec 2) (n : BitVec 3) (o : BitVec 17) (s : State) : Out :=
  .next (s.land 1 (.tg n (s.label o)) 0)

/-- TGSET from a register: bits [31:0] (R88). -/
def execTgsetReg (_t : BitVec 3) (_i : BitVec 2) (n : BitVec 3) (a : BitVec 5) (s : State) : Out :=
  .next (s.land 1 (.tg n ((s.sreg a).setWidth 32)) 0)

/-- IDLE: the next bundle issues no earlier than n cycles from this one (R89). -/
def execIdle (_t : BitVec 3) (_i : BitVec 2) (m : BitVec 16) (s : State) : Out :=
  .next (s.modMe fun cx => { cx with idle := m.toNat })

/-- CQCLR discards the entries of older bundles; those of its own bundle remain (R91). -/
def execCqclr (_t : BitVec 3) (_i : BitVec 2) (s : State) : Out :=
  .next (s.modMe fun cx => { cx with cq := cx.cq.filter fun e => s.cur.tok ≤ e.tok })

/-- WFE clears a set latch and completes; else the context waits for the next set (R84). In replay it completes at its entry (R396). -/
def execWfe (_t : BitVec 3) (_i : BitVec 2) (s : State) : Out :=
  .next (if (if s.replaying then s.inputReady 10 else s.me.event) then ((s.modMe fun cx => { cx with event := false }).inputMe 10 0 []).1
    else s.modMe fun cx => { cx with wait := .wfe, waitOrg := s.cur.org })

/-- Sets the event latches of contexts of a core: those that hold a unit, of one function where it matters (R83, R90, R282). -/
def State.setEvents (s : State) (c : Nat) (mask : BitVec 4) (vf : Option Nat) : State :=
  s.modCore c fun k => { k with ctx := vmapI (fun i cx =>
    if mask.getLsbD i && cx.st != .free && (vf.map fun v => v == cx.vf).getD true then { cx with event := true } else cx) k.ctx }

/-- SEV (R90); a replay sends no event (R399). -/
def execSev (_t : BitVec 3) (_i : BitVec 2) (m : BitVec 4) (s : State) : Out :=
  .next (if s.replaying then s else s.setEvents s.cur.core m none)

/-- YIELD: READY, and another READY context takes the core; no effect where there is none (R89). -/
def execYield (_t : BitVec 3) (_i : BitVec 2) (s : State) : Out :=
  .next (match s.chosen s.cur.core (some s.cur.x) with
    | none => s
    | some y =>
      (s.modMe fun cx => { cx with st := .ready, readyWait := 0 }).modHere fun k => { k with cur := none, nxt := some y })

/-! ### Launch, retire, expert dispatch (R92-R94) -/

/-- The answer of a `launch`: sD and its condition entry, together (R92). -/
def Ctx.answer (cx : Ctx) (a : Answer) (code : BitVec 4) (id : W32) : Ctx :=
  let ok := code = 0
  let v : W64 := (if ok then id else 0) ++ (0#28 : BitVec 28) ++ code
  let c1 := ((({ cx with ans := cx.ans.filter fun b => b.tok != a.tok } : Ctx).setS a.reg v).fillCq a.cqTok ok)
  { c1 with pend := cx.pend.filter fun p => p.tok != a.tok }

/-- LAUNCH hands the packet in sA..sA+7 to admission and goes on (R92); in replay its answer comes from the log (R399). -/
def execLaunch (_t : BitVec 3) (_i : BitVec 2) (d a : BitVec 5) (s : State) : Out :=
  let cx := s.me
  let w (n : Nat) : W64 := s.sreg (a + BitVec.ofNat 5 n)
  let packet : BitVec 512 := w 7 ++ w 6 ++ w 5 ++ w 4 ++ w 3 ++ w 2 ++ w 1 ++ w 0
  let me : Answer := ⟨d, s.cur.tok, s.cur.cqTok, none, s.cur.org, false⟩
  .next (if s.replaying then s.modMe fun k => { k with ans := k.ans ++ [me] }
  else
    let slot := ((s.launch? cx.launch).map fun l => l.slot).getD 0
    let graph := ((s.launch? cx.launch).map fun l => l.graph).getD 0
    { s.modMe fun k => { k with ans := k.ans ++ [me] } with
      adm := s.adm ++ [⟨cx.vf, slot, packet, none, some (cx.launch, cx.unit, s.cur.tok), none, cx.priv, graph, 0, 0, s.clk, false⟩] })

/-- RETIRE: no later bundle issues and the context is RETIRING; in a handler the saved words drain first and the rest of the shadow goes
(R93). -/
def execRetire (_t : BitVec 3) (_i : BitVec 2) (s : State) : Out :=
  let s1 := s.modMe fun cx =>
    let c1 := match cx.shadow with
      | some h =>
        let owed := h.pend.filter fun (p : Pend) => 5 ≤ p.slot && p.val.isNone
        { cx with mt := h.mt ++ cx.mt, mc := h.mc ++ cx.mc, mg := h.mg ++ cx.mg, pend := owed ++ cx.pend, shadow := none }
      | none => cx
    { c1 with st := .retiring, pendEv := Pending.none, wait := .none }
  .next ((s1.release s.cur.core s.cur.x).deliver s.cur.core s.cur.x)

/-- A command with every field at rest. -/
def Cmd.zero : Cmd :=
  { num := 0, slot := 0, op := 0, word := 0, org := Org.zero, launch := 0, unit := 0, state := 0, next := 0, total := 0, a1 := 0, a2 := 0, len := 0
    ctl := 0, dst := none, dst2 := none, src := none, srcCore := 0, consume := false, buf := 0, idx := none, reread := false, line := 0, top := 0, lines := [], pb := 0, pbInst := 0
    pbLeft := 0, desc := 0, causes := 0, bytes := 0, aux := [], dead := false, tok := 0, seen := [] }

def Ctx.pushEq (cx : Ctx) (q : BitVec 2) (m : Cmd) : Ctx :=
  { cx with eq := vset (n := 2 ^ 2) cx.eq q.toFin (vget (n := 2) cx.eq q ++ [m]) }

/-- XDISP blocks the context; its reads and writes are a command of eq0 (R94, R313), marked by slot 0. In replay its answer and target come
from the log (R399). -/
def execXdisp (_t : BitVec 3) (_i : BitVec 2) (d a : BitVec 5) (s : State) : Out :=
  .next (if s.replaying then
    s.modMe fun cx => { cx with wait := .xdisp, waitOrg := s.cur.org, ans := cx.ans ++ [⟨d, s.cur.tok, s.cur.tok, none, s.cur.org, true⟩] }
  else
    let (u, s1) := s.newUid
    s1.modMe fun cx =>
      let m : Cmd := { Cmd.zero with
        num := u, op := 0x10#6, word := s.cur.raw, org := s.cur.org, launch := cx.launch, unit := cx.unit, a1 := s.sreg a, tok := s.cur.tok, ctl := d.setWidth 64 }
      { (cx.pushEq 0 m) with wait := .xdisp, waitOrg := s.cur.org })

/-- Where a context goes after its `xdisp`: to the target (R79), or on in sequence (R310). -/
def Ctx.dispatchTo (cx : Ctx) (target : Option W32) : Ctx :=
  match target with
  | some t => { cx with pc := t, loops := leaveBodies cx.loops t }
  | none => let (l, p) := endIteration cx.loops cx.pc levels; { cx with loops := l, pc := p }

/-- The end of an `xdisp` for its context: the count is on its way to sD, and control goes on; where a handler holds the context, both wait in
the trap shadow (R94, R335, R337). -/
def Ctx.xdispEnd (cx : Ctx) (tok : Nat) (v : W64) (target : Option W32) : Ctx :=
  match cx.shadow with
  | some h =>
    if h.wait = .xdisp then
      let in_ := ({ cx with pc := h.resumeAt, loops := h.loops, pend := h.pend } : Ctx)
      let out := (in_.dispatchTo target).fillPend tok 1 (v.setWidth 4096) none
      { cx with shadow := some { h with wait := .none, resumeAt := out.pc, loops := out.loops, pend := out.pend } }
    else { (cx.dispatchTo target).fillPend tok 1 (v.setWidth 4096) none with wait := .none }
  | none => { (cx.dispatchTo target).fillPend tok 1 (v.setWidth 4096) none with wait := .none }

/-- The fault of an `xdisp` target: misaligned, or in no segment (R86, R310). -/
def Ctx.badTarget (cx : Ctx) (target : Option W32) : Option Fatal :=
  target.bind fun t => if t.toNat % 4 ≠ 0 then some .misalign else if (cx.segOf t).isNone then some .segment else none

/-- An `xdisp` completes at a resident context: the jump, or its fault at the `xdisp` bundle (R310). -/
def State.xdispDone (s : State) (c : Nat) (x : CtxId) (tok : Nat) (o : Org) (v : W64) (target : Option W32) : State :=
  match (s.ctx c x).badTarget target with
  | some f => s.fatal c x f 0 o
  | none => s.modCtx c x fun cx => cx.xdispEnd tok v target

/-! ### Traps and stops (R95) -/

/-- TRAP: the trap is taken at the boundary after its bundle; in a handler it is fatal (R95, R339). -/
def execTrap (_t : BitVec 3) (_i : BitVec 2) (m : BitVec 16) (s : State) : Out :=
  .next (if s.me.tif then s.fatalMe .permission
    else s.modMe fun cx => { cx with pendEv := { cx.pendEv with trap := some (m, s.cur.org) } })

/-- ERET: with no trap in force, fatal; else the return follows once the handler's results and words are done (R95, R338). -/
def execEret (_t : BitVec 3) (_i : BitVec 2) (s : State) : Out :=
  .next (if s.me.tif then s.modMe fun cx => { cx with drn := true, pendEv := { cx.pendEv with eret := true } } else s.fatalMe .permission)

/-- BKPT stops at the boundary after its bundle where stops are enabled (R95, R378). -/
def execBkpt (_t : BitVec 3) (_i : BitVec 2) (m : BitVec 16) (s : State) : Out :=
  .next (if s.dbgBit s.me.vf s.me.launch 0 then s.modMe fun cx => { cx with pendEv := { cx.pendEv with bkpt := some m } } else s)

/-! ### System registers (R96 Table 8) -/

/-- PARKHINT: of the PRESENT tiles the context can name, the one whose launch has the latest deadline, ties to the larger tile, then to the
higher name; 0x1FF with none (R167). -/
def State.parkHint (s : State) (c : Nat) (x : CtxId) : Nat :=
  let one (best : Option (Nat × Nat × Nat)) (n : Nat) : Option (Nat × Nat × Nat) :=
    let l := s.resolve c x n
    let t := s.tile l
    if t.st ≠ .present then best
    else
      let dl := s.deadlineOf (s.ownerLaunch l)
      match best with
      | none => some (dl, t.granules, n)
      | some (d, g, m) => if d < dl ∨ (d = dl ∧ g ≤ t.granules) then some (dl, t.granules, n) else some (d, g, m)
  match (List.range 256).foldl one none with
  | some (_, _, n) => n
  | none => 0x1FF

/-- A system register as the context reads it, zero-extended; unlisted numbers read zero (R96). DESIGN CHOICE: LIDX of an inactive level reads 0, as LCNT
does; Table 8 says so of LCNT only (log entry 18). -/
def State.csr (s : State) (n : Nat) : W64 :=
  let cx := s.me
  let id := (cx.rep.asId.map fun i => i.1).getD cx.launch
  let l := s.launch? id
  let graph : W32 := (l.map fun k => k.graph).getD 0
  if n = 0x000 then ((cx.rep.asId.map fun i => i.2.2).getD (ctxid cx.priv s.cur.core s.cur.x)).setWidth 64
  else if n = 0x001 then cx.unitNo.setWidth 64
  else if n = 0x002 then id.setWidth 64
  else if n = 0x003 then graph.setWidth 64
  else if n = 0x004 then (s.idAbove id 3).setWidth 64
  else if n = 0x005 then (s.idAbove id 4).setWidth 64
  else if n = 0x008 then s.deadlineCsr cx.launch
  else if n = 0x009 then (l.map fun k => k.budget.setWidth 64).getD 0
  else if n = 0x00A then (l.map fun k => k.spent).getD 0
  else if n = 0x00B then (l.map fun k => k.corr.setWidth 64).getD 0
  else if n = 0x00C then s.vfNow cx.vf
  else if n = 0x00D then (l.map fun k => k.residue.setWidth 64).getD 0
  else if n = 0x00E then cx.quota.setWidth 64
  else if n = 0x010 then BitVec.ofNat 64 (s.parkHint s.cur.core s.cur.x)
  else if n = 0x011 then cx.ftlevel.setWidth 64
  else if n = 0x018 then cx.trapcause.setWidth 64
  else if n = 0x019 then cx.trapba.setWidth 64
  else if n = 0x01A then cx.trapsc.setWidth 64
  else if n = 0x01B then cx.trapvec.setWidth 64
  else if n = 0x01C then s.cur.org.sc.setWidth 64
  else if 0x020 ≤ n ∧ n ≤ 0x027 then vget (n := 3) cx.sticky (BitVec.ofNat 3 n)
  else if 0x030 ≤ n ∧ n ≤ 0x035 then ((cx.loops.toList[n - 0x030]?).map fun k => if k.active then k.index.setWidth 64 else 0).getD 0
  else if 0x036 ≤ n ∧ n ≤ 0x03B then ((cx.loops.toList[n - 0x036]?).map fun k => if k.active then k.count.setWidth 64 else 0).getD 0
  else if 0x040 ≤ n ∧ n ≤ 0x045 then ((cx.cnt.toList[n - 0x040]?).map fun k => k.issued.setWidth 64).getD 0
  else if 0x048 ≤ n ∧ n ≤ 0x04D then ((cx.cnt.toList[n - 0x048]?).map fun k => k.stall.setWidth 64).getD 0
  else if 0x080 ≤ n ∧ n ≤ 0x0AF then
    ((cx.cnt.toList[(n - 0x080) / 8]?).map fun k => (vget (n := 3) k.fill (BitVec.ofNat 3 n)).setWidth 64).getD 0
  else if 0x0C0 ≤ n ∧ n ≤ 0x0EF then
    ((cx.cnt.toList[(n - 0x0C0) / 8]?).map fun k => (vget (n := 3) k.noop (BitVec.ofNat 3 n)).setWidth 64).getD 0
  else 0

/-- The registers whose `csrr` is an input of the unit: DEADLINE, SPENT, DEVTIME, RESIDUE, PARKHINT (R395 kind 4). -/
def csrLogged (n : Nat) : Bool := n = 0x008 || n = 0x00A || n = 0x00C || n = 0x00D || n = 0x010

/-- CSRR (R96): latency 2. -/
def execCsrr (_t : BitVec 3) (_i : BitVec 2) (d : BitVec 5) (c : BitVec 11) (s : State) : Out :=
  .next (if csrLogged c.toNat then
    let (s1, l) := s.inputMe 4 c.toNat [s.csr c.toNat]
    s1.land 2 (.s d (l.headD 0)) 0
  else s.land 2 (.s d (s.csr c.toNat)) 0)

/-- CSRW (R96): TRAPVEC is RW, STICKY0-7 are W1C; writes to the others are ignored. It acts on the next bundle: a sticky field is cleared as a result of
latency 1, after older results of the same cycle (R41). -/
def execCsrw (_t : BitVec 3) (_i : BitVec 2) (a : BitVec 5) (c : BitVec 11) (s : State) : Out :=
  let v := s.sreg a
  .next (if c = 0x01B#11 then s.modMe fun cx => { cx with trapvec := v.setWidth 32 }
    else if 0x020 ≤ c.toNat ∧ c.toNat ≤ 0x027 then
      s.land 1 (.clear (BitVec.ofNat 3 (c.toNat - 0x020)) v) 0
    else s)

/-! ### Overlays and cancellation (R97, R98) -/

/-- SEGLD: a segment number beyond the table is SEGMENT; else its copy starts (R97). -/
def execSegld (_t : BitVec 3) (_i : BitVec 2) (n : BitVec 6) (s : State) : Out :=
  .next (if s.me.segs.length ≤ n.toNat then s.fatalMe .segment else s.modMe fun cx => cx.startCopy s.cur.org.ba n.toNat)

/-- CANCEL starts the cancellation of an instance within the caller's job; an id never assigned there is PERMISSION (R98). DESIGN CHOICE: bits 63:32 of sA
are ignored but for `cancel.unit`, whose launch they name (log entry 19); sA[31:0] = 0 of a `cancel.unit` is unit index 0, not the caller's own unit (log
entry 87). -/
def execCancel (_t : BitVec 3) (_i : BitVec 2) (l : BitVec 3) (a : BitVec 5) (s : State) : Out :=
  let cx := s.me
  let v := s.sreg a
  let own (level : Nat) : Option Inst := (s.launch? cx.launch).bind fun k => s.aboveAt k level
  let job := (own 4).map fun i => i.serial
  let id : W32 := v.setWidth 32
  let inJob (k : Launch) : Bool := k.vf = cx.vf && (s.aboveAt k 4).map (fun i => i.serial) = job
  let named (level : Nat) : Option Inst :=
    let mine (i : Inst) : Bool := job.isSome && (match level with
      | 2 => ((s.instAt i.up).map fun p => p.up) = job
      | 3 => some i.up = job
      | _ => some i.serial = job)
    if id = 0 then own level
    else (s.insts.filter fun i => i.vf = cx.vf && i.level = level && i.id = id && mine i).getLast?
  .next (match l.toNat with
    | 0 =>
      let la : W32 := if fld v 32 32 = 0#32 then cx.launch else fld v 32 32
      match s.launch? la with
      | some k => if inJob k && id.toNat < k.units.toNat then s.cancelUnit la id else s.fatalMe .permission
      | none => s.fatalMe .permission
    | 1 =>
      let la := if id = 0 then cx.launch else id
      if ((s.launch? la).map inJob).getD false then s.cancelLaunches [la] 1 else s.fatalMe .permission
    | n =>
      match named n with
      | some i => s.cancelInst i 1
      | none => s.fatalMe .permission)

end Sys2Proof.Machine
end

