-- ==== Sys2Proof/Machine/Float.lean ====
section
/-! DEFINITION. Number formats, exact values, and the one rounding of every floating result (R109-R114, R118-R121, R124, R126). -/

namespace Sys2Proof.Machine

/-! ### Element types (R109) -/

/-- Width in bits of an element type. -/
def tyBits (t : Nat) : Nat :=
  match t with
  | 0 | 4 => 8
  | 1 | 5 | 8 | 9 => 16
  | 2 | 6 | 10 => 32
  | _ => 64

def tyFloat (t : Nat) : Bool := t = 8 || t = 9 || t = 10

def tySigned (t : Nat) : Bool := t ≤ 3

/-- The least and greatest values of an integer type. -/
def tyRange (t : Nat) : Int × Int :=
  let n := tyBits t
  if tySigned t then (-(2 ^ (n - 1) : Nat), (2 ^ (n - 1) : Nat) - 1) else (0, (2 ^ n : Nat) - 1)

/-- The integer an element of an integer type holds. -/
def tyInt (t v : Nat) : Int := if tySigned t then signed (tyBits t) v else (v % 2 ^ tyBits t : Nat)

/-- An integer as an element, wrapped (R113). -/
def ofIntBits (n : Nat) (v : Int) : Nat := (v % (2 ^ n : Nat)).toNat

/-! ### Floating values (R110) -/

/-- A floating format: exponent bits, fraction bits, bias. -/
structure FFmt where
  eb : Nat
  mb : Nat
  bias : Nat
  deriving DecidableEq, Repr

def fp16 : FFmt := ⟨5, 10, 15⟩
def bf16 : FFmt := ⟨8, 7, 127⟩
def fp32 : FFmt := ⟨8, 23, 127⟩

def tyFmt (t : Nat) : FFmt := if t = 8 then fp16 else if t = 9 then bf16 else fp32

/-- A floating value: a NaN, an infinity, or (-1)^s m 2^e. -/
inductive FVal where
  | nan (signalling : Bool)
  | inf (s : Bool)
  | fin (s : Bool) (m : Nat) (e : Int)
  deriving DecidableEq, Repr

/-- The value that the bits of a format spell. -/
def FFmt.decode (f : FFmt) (v : Nat) : FVal :=
  let s := v / 2 ^ (f.eb + f.mb) % 2 = 1
  let e := v / 2 ^ f.mb % 2 ^ f.eb
  let m := v % 2 ^ f.mb
  if e = 2 ^ f.eb - 1 then
    if m = 0 then .inf s else .nan (m < 2 ^ (f.mb - 1))
  else if e = 0 then .fin s m (1 - (f.bias : Int) - f.mb)
  else .fin s (2 ^ f.mb + m) ((e : Int) - f.bias - f.mb)

def FFmt.sgn (f : FFmt) (s : Bool) : Nat := bit s * 2 ^ (f.eb + f.mb)

/-- The canonical NaN (R110 Table 2). -/
def FFmt.qnan (f : FFmt) : Nat := (2 ^ f.eb - 1) * 2 ^ f.mb + 2 ^ (f.mb - 1)

def FFmt.infBits (f : FFmt) (s : Bool) : Nat := f.sgn s + (2 ^ f.eb - 1) * 2 ^ f.mb

/-- The largest finite value of a sign. -/
def FFmt.maxBits (f : FFmt) (s : Bool) : Nat := f.sgn s + (2 ^ f.eb - 1) * 2 ^ f.mb - 1

/-! ### Rounding (R111, R112) -/

/-- Rounding modes 0 RNE, 1 RZ, 2 RDN, 3 RUP: whether a magnitude r with a remainder is taken up. -/
def roundUp (mode : Nat) (s : Bool) (r rem half : Nat) : Bool :=
  match mode with
  | 0 => half < rem || (rem = half && r % 2 = 1)
  | 1 => false
  | 2 => s && rem != 0
  | _ => !s && rem != 0

/-- m 2^-k rounded to an integer magnitude, and whether that was inexact. -/
def roundShift (mode : Nat) (s : Bool) (m : Nat) (k : Int) : Nat × Bool :=
  if k ≤ 0 then (m * 2 ^ k.natAbs, false)
  else
    let d := 2 ^ k.toNat
    let r := m / d
    let rem := m % d
    (if roundUp mode s r (2 * rem) d then r + 1 else r, rem != 0)

/-- What happens beyond the largest finite value: R111 Table 3 with OVF, or the largest finite value with CONV (R114). -/
inductive Over where
  | arith
  | conv
  deriving DecidableEq, Repr

/-- THE ROUNDING of an exact value (-1)^s m 2^e, m > 0, to a format (R111, R112): the bits and the causes OVF or CONV, and UNF by
tininess after rounding. -/
def FFmt.round (f : FFmt) (ov : Over) (mode : Nat) (s : Bool) (m : Nat) (e : Int) : Nat × BitVec 12 :=
  let emin : Int := 1 - f.bias
  let top : Int := (bitLen m : Int) - 1 + e
  let q : Int := if top < emin then emin - f.mb else top - f.mb
  let (r, inexact) := roundShift mode s m (q - e)
  let carried := 2 ^ (f.mb + 1) ≤ r
  let r1 := if carried then r / 2 else r
  let q1 := if carried then q + 1 else q
  if f.bias < q1 + f.mb ∧ 2 ^ f.mb ≤ r1 then
    match ov with
    | .conv => (f.maxBits s, cCONV)
    | .arith =>
      let toInf := match mode with
        | 0 => true
        | 1 => false
        | 2 => s
        | _ => !s
      (if toInf then f.infBits s else f.maxBits s, cOVF)
  else
    let tiny := top < emin - 1 || (top = emin - 1 && (roundShift mode s m (top - f.mb - e)).1 < 2 ^ (f.mb + 1))
    let unf := if tiny && inexact then cUNF else 0
    let bits := if r1 < 2 ^ f.mb then r1 else ((q1 + f.mb + f.bias).toNat) * 2 ^ f.mb + (r1 - 2 ^ f.mb)
    (f.sgn s + bits, unf)

/-- The bits of an exact value, which may be a zero of sign s. -/
def FFmt.ofExact (f : FFmt) (ov : Over) (mode : Nat) (s : Bool) (m : Nat) (e : Int) : Nat × BitVec 12 :=
  if m = 0 then (f.sgn s, 0) else f.round ov mode s m e

/-- The exact sum of two finite values: sign, magnitude, exponent; a zero sum takes the sign IEEE 754 gives (R112). -/
def exactAdd (mode : Nat) (s1 : Bool) (m1 : Nat) (e1 : Int) (s2 : Bool) (m2 : Nat) (e2 : Int) : Bool × Nat × Int :=
  let e := if e1 < e2 then e1 else e2
  let a : Nat := m1 * 2 ^ (e1 - e).toNat
  let b : Nat := m2 * 2 ^ (e2 - e).toNat
  if s1 = s2 then (s1, a + b, e)
  else if a = b then (mode = 2, 0, e)
  else if b < a then (s1, a - b, e) else (s2, b - a, e)

/-- Any NaN input: the canonical NaN, with INV if one is signalling (R112). -/
def nanResult (f : FFmt) (l : List FVal) : Option (Nat × BitVec 12) :=
  if l.any fun v => match v with
    | .nan _ => true
    | _ => false
  then some (f.qnan, if l.any fun v => v == .nan true then cINV else 0) else none

/-- Floating sum, rounded once (R112). -/
def fAddV (f : FFmt) (mode : Nat) (a b : FVal) : Nat × BitVec 12 :=
  match nanResult f [a, b] with
  | some r => r
  | none =>
    match a, b with
    | .inf s, .inf t => if s = t then (f.infBits s, 0) else (f.qnan, cINV)
    | .inf s, _ => (f.infBits s, 0)
    | _, .inf t => (f.infBits t, 0)
    | .fin s1 m1 e1, .fin s2 m2 e2 => let (s, m, e) := exactAdd mode s1 m1 e1 s2 m2 e2; f.ofExact .arith mode s m e
    | _, _ => (f.qnan, 0)

def FVal.neg : FVal → FVal
  | .nan q => .nan q
  | .inf s => .inf !s
  | .fin s m e => .fin (!s) m e

/-- Floating product plus addend, rounded once; the addend may be absent (R112). -/
def fMulAddV (f : FFmt) (mode : Nat) (a b : FVal) (c : Option FVal) : Nat × BitVec 12 :=
  match nanResult f ([a, b] ++ c.toList) with
  | some r => r
  | none =>
    let sgn (v : FVal) : Bool := match v with
      | .nan _ => false
      | .inf s => s
      | .fin s _ _ => s
    let sp := sgn a != sgn b
    match a, b with
    | .fin _ m1 e1, .fin _ m2 e2 =>
      match c with
      | none => f.ofExact .arith mode sp (m1 * m2) (e1 + e2)
      | some (.inf t) => (f.infBits t, 0)
      | some (.fin t m e) => let (s, n, x) := exactAdd mode sp (m1 * m2) (e1 + e2) t m e; f.ofExact .arith mode s n x
      | some (.nan _) => (f.qnan, 0)
    | .fin _ 0 _, .inf _ => (f.qnan, cINV)
    | .inf _, .fin _ 0 _ => (f.qnan, cINV)
    | _, _ =>
      match c with
      | some (.inf t) => if t = sp then (f.infBits sp, 0) else (f.qnan, cINV)
      | _ => (f.infBits sp, 0)

def fAdd (f : FFmt) (mode a b : Nat) : Nat × BitVec 12 := fAddV f mode (f.decode a) (f.decode b)
def fSub (f : FFmt) (mode a b : Nat) : Nat × BitVec 12 := fAddV f mode (f.decode a) (f.decode b).neg
def fMul (f : FFmt) (mode a b : Nat) : Nat × BitVec 12 := fMulAddV f mode (f.decode a) (f.decode b) none
def fFma (f : FFmt) (mode a b c : Nat) : Nat × BitVec 12 := fMulAddV f mode (f.decode a) (f.decode b) (some (f.decode c))

/-! ### Comparison -/

/-- The order of two values that are not NaN; zeros are equal. -/
def fvLt (a b : FVal) : Bool :=
  match a, b with
  | .inf s, .inf t => s && !t
  | .inf s, _ => s
  | _, .inf t => !t
  | .fin s1 m1 e1, .fin s2 m2 e2 =>
    let (s, m, _) := exactAdd 0 s1 m1 e1 (!s2) m2 e2
    s && m != 0
  | _, _ => false

def FVal.isNan : FVal → Bool
  | .nan _ => true
  | _ => false

def FVal.isZero : FVal → Bool
  | .fin _ 0 _ => true
  | _ => false

/-! ### Conversions (R114) -/

/-- A value clamped to [lo, hi], with CONV where it lay outside. -/
def clampConv (lo hi v : Int) : Int × BitVec 12 := if v < lo then (lo, cCONV) else if hi < v then (hi, cCONV) else (v, 0)

/-- A finite value rounded to an integer in a mode. -/
def toIntMode (mode : Nat) (s : Bool) (m : Nat) (e : Int) : Int :=
  let r := (roundShift mode s m (-e)).1
  if s then -(r : Int) else r

/-- Conversion of one element between types (R114). -/
def convert (x y mode v : Nat) : Nat × BitVec 12 :=
  if tyFloat x then
    match (tyFmt x).decode v with
    | .nan q => if tyFloat y then ((tyFmt y).qnan, if q then cINV else 0) else (0, cCONV)
    | .inf s =>
      if tyFloat y then ((tyFmt y).infBits s, 0)
      else (ofIntBits (tyBits y) (if s then (tyRange y).1 else (tyRange y).2), cCONV)
    | .fin s m e =>
      if tyFloat y then (tyFmt y).ofExact .conv mode s m e
      else
        let (r, c) := clampConv (tyRange y).1 (tyRange y).2 (toIntMode mode s m e)
        (ofIntBits (tyBits y) r, c)
  else
    let i := tyInt x v
    if tyFloat y then (tyFmt y).ofExact .conv mode (i < 0) i.natAbs 0
    else
      let (r, c) := clampConv (tyRange y).1 (tyRange y).2 i
      (ofIntBits (tyBits y) r, c)

/-! ### Plane formats (R115-R121, R124) -/

/-- The legal plane codes: BPN2-BPN8 and APF2-APF12 (R115). -/
def fmtLegal (f : Nat) : Bool := (2 ≤ f && f ≤ 8) || (0x12 ≤ f && f ≤ 0x1C)

/-- The plane count of a format code. -/
def fmtPlanes (f : Nat) : Nat := f % 16

def fmtApf (f : Nat) : Bool := 16 ≤ f

/-- floor(log2 |x|) of a nonzero finite value. -/
def fvLog (m : Nat) (e : Int) : Int := (bitLen m : Int) - 1 + e

/-- Integer or floating element as an exact value; none for NaN and infinities. -/
def elemExact (t v : Nat) : Option (Bool × Nat × Int) :=
  if tyFloat t then
    match (tyFmt t).decode v with
    | .fin s m e => some (s, m, e)
    | _ => none
  else let i := tyInt t v; some (i < 0, i.natAbs, 0)

/-- An element encoded in BPNn (R118). -/
def encodeBpn (n t v : Nat) : Int × BitVec 12 :=
  let lo : Int := -(2 ^ (n - 1) : Nat)
  let hi : Int := (2 ^ (n - 1) : Nat) - 1
  if tyFloat t then
    match (tyFmt t).decode v with
    | .nan _ => (0, cCONV)
    | .inf s => (if s then lo else hi, cCONV)
    | .fin s m e => clampConv lo hi (toIntMode 0 s m e)
  else clampConv lo hi (tyInt t v)

/-- The exponent E of a block: the largest floor(log2 |x|) of its finite nonzero elements, or -133 (R119). -/
def blockExp (t : Nat) (l : List Nat) : Int :=
  (l.foldl (fun (b : Option Int) v =>
    match elemExact t v with
    | some (_, m, e) =>
      if m = 0 then b
      else match b with
        | some x => some (if x < fvLog m e then fvLog m e else x)
        | none => some (fvLog m e)
    | none => b) none).getD (-133)

/-- The scale exponent of a block (R119). -/
def scaleExp (n : Nat) (e : Int) : Int := if e - n + 2 < -133 then -133 else e - n + 2

/-- An element encoded in APFn against a scale exponent (R119). -/
def encodeApf (n : Nat) (se : Int) (t v : Nat) : Int × BitVec 12 :=
  match elemExact t v with
  | none => (0, cCONV)
  | some (s, m, e) => clampConv (-(2 ^ (n - 1) : Nat)) ((2 ^ (n - 1) : Nat) - 1) (toIntMode 0 s m (e - se))

/-- 2^se as SE8M7, subnormals included (R119, R120). -/
def scaleBits (se : Int) : Nat :=
  if -126 ≤ se then (se + 127).toNat * 128 else 2 ^ (se + 133).toNat

/-- A code's plane p of n: plane 0 holds the sign bit (R116). -/
def planeBit (n p : Nat) (c : Int) : Nat := ofIntBits n c / 2 ^ (n - 1 - p) % 2

/-- The code of n planes read at q planes (R117). -/
def reduceCode (n q : Nat) (c : Int) : Int := c / (2 ^ (n - q) : Nat)

/-- A format-table entry is valid (R124). -/
def ftValid (v : W32) : Bool :=
  let fa := (fld v 0 5).toNat
  let fb := (fld v 6 5).toNat
  let qa := (fld v 12 4).toNat
  let qb := (fld v 16 4).toNat
  let g := (fld v 20 6).toNat
  fmtLegal fa && fmtLegal fb && 1 ≤ qa && qa ≤ fmtPlanes fa && 1 ≤ qb && qb ≤ fmtPlanes fb && 1 ≤ g
    && (v.getLsbD 28 || fld v 26 2 = 0#2)

/-- An integer clamped to 32 bits, with IOVF where it lay outside (R126). -/
def sat32 (v : Int) : Int × BitVec 12 :=
  if v < -(2 ^ 31 : Nat) then (-(2 ^ 31 : Nat), cIOVF) else if (2 ^ 31 : Nat) - 1 < v then ((2 ^ 31 : Nat) - 1, cIOVF) else (v, 0)

end Sys2Proof.Machine
end

