-- ==== Sys2Proof/Machine/Special.lean ====
section
/-! DEFINITION. Correctly rounded functions: division, roots, powers, logarithms, tanh and the logistic function (R147). Roots and quotients
are exact integers with a sticky bit; the others are bounded from both sides in fixed point until both bounds round alike. -/

namespace Sys2Proof.Machine

/-! ### Quotients and roots -/

/-- A value between two integers: twice the floor, plus one where it is not exact. -/
def stickyNat (q : Nat) (exact : Bool) : Nat := 2 * q + bit !exact

/-- |a / b| for finite nonzero operands, with enough bits to round once. -/
def quotient (m1 m2 : Nat) (e1 e2 : Int) : Nat × Int :=
  let n := m1 * 2 ^ 80
  (stickyNat (n / m2) (n % m2 = 0), e1 - e2 - 81)

/-- floor(sqrt v), bit by bit from bit k down. -/
def isqrt (v : Nat) : Nat → Nat → Nat
  | 0, r => r
  | k + 1, r => if (r + 2 ^ k) * (r + 2 ^ k) ≤ v then isqrt v k (r + 2 ^ k) else isqrt v k r

/-- sqrt(m 2^e) (R147). -/
def rootOf (m : Nat) (e : Int) : Nat × Int :=
  let (m1, e1) := if e % 2 = 0 then (m, e) else (2 * m, e - 1)
  let v := m1 * 2 ^ 80
  let r := isqrt v 64 0
  (stickyNat r (r * r = v), e1 / 2 - 41)

/-- 1 / sqrt(m 2^e) (R147). -/
def invRootOf (m : Nat) (e : Int) : Nat × Int :=
  let (m1, e1) := if e % 2 = 0 then (m, e) else (2 * m, e - 1)
  let v := 2 ^ 140 / m1
  let r := isqrt v 72 0
  (stickyNat r (r * r * m1 = 2 ^ 140), -(e1 / 2) - 71)

/-! ### Fixed-point series at P fraction bits; every bound below holds within `slack` units -/

def slack : Nat := 2 ^ 22

/-- Sum of z^(2k+1) / (2k+1) from k on, z and z^2 in fixed point: atanh z for z ≤ 1/3. -/
def atanhSum (p z2 : Nat) : Nat → Nat → Nat → Nat
  | 0, _, _ => 0
  | f + 1, k, t => if t = 0 then 0 else t / (2 * k + 1) + atanhSum p z2 f (k + 1) (t * z2 / 2 ^ p)

/-- ln 2 in fixed point. -/
def ln2Fix (p : Nat) : Nat := 2 * atanhSum p (2 ^ p / 9) p 0 (2 ^ p / 3)

/-- Sum of t^k / k! from k on: e^t for 0 ≤ t < 1. -/
def expSum (p t : Nat) : Nat → Nat → Nat → Nat
  | 0, _, _ => 0
  | f + 1, k, term => if term = 0 then 0 else term + expSum p t f (k + 1) (term * t / 2 ^ p / (k + 1))

/-- e^t as (mantissa in fixed point in [1, 2), power of two), for a fixed-point t of either sign. -/
def expFix (p : Nat) (t : Int) : Nat × Int :=
  let l := ln2Fix p
  let n := t / (l : Int)
  let r := (t - n * l).toNat
  (expSum p r p 0 (2 ^ p), n)

/-- ln y in fixed point, for y = a / b between 3/4 and 3/2. -/
def lnFix (p a b : Nat) : Int :=
  let up := b ≤ a
  let d := if up then a - b else b - a
  let z := d * 2 ^ p / (a + b)
  let r := 2 * atanhSum p (z * z / 2 ^ p) p 0 z
  if up then r else -(r : Int)

/-- The result when both bounds of a positive value (in units of 2^e) round alike. -/
def agree (f : FFmt) (mode : Nat) (s : Bool) (lo hi : Nat) (e : Int) : Option (Nat × BitVec 12) :=
  if lo = 0 then none
  else
    let a := f.round .arith mode s lo e
    if a = f.round .arith mode s hi e then some a else none

/-- Tries a bounded value at growing precision; beyond it a free value stands, which no input reaches (R147: the results are irrational). -/
def refine (try_ : Nat → Option (Nat × BitVec 12)) (key : Nat) : Nat × BitVec 12 :=
  match try_ 192 with
  | some r => r
  | none =>
    match try_ 320 with
    | some r => r
    | none =>
      match try_ 640 with
      | some r => r
      | none => ((Config.hardRounding key).toNat, 0)

/-! ### The functions on finite nonzero inputs (-1)^s m 2^e -/

/-- 2^a (R147). -/
def exp2Fin (f : FFmt) (mode : Nat) (s : Bool) (m : Nat) (e : Int) : Nat × BitVec 12 :=
  let top := fvLog m e
  if 9 ≤ top then (if s then f.round .arith mode false 1 (-400) else f.round .arith mode false 1 400)
  else if top < -64 then f.round .arith mode false (if s then 2 ^ 60 - 1 else 2 ^ 60 + 1) (-60)
  else
    let whole := 0 ≤ e || m % 2 ^ (-e).toNat = 0
    if whole then
      let n := toIntMode 1 s m e
      f.round .arith mode false 1 n
    else refine (fun p =>
      let x : Int := (if s then -1 else 1) * ((m * 2 ^ (e + p).toNat : Nat) : Int)
      let (v, n) := expFix p (x * ln2Fix p / (2 ^ p : Nat))
      agree f mode false (v - slack) (v + slack) (n - p)) (m + 1)

/-- log2 a for a > 0 (R147). -/
def log2Fin (f : FFmt) (mode : Nat) (m : Nat) (e : Int) : Nat × BitVec 12 :=
  let k := bitLen m - 1
  let n0 := e + k
  if m = 2 ^ k then f.ofExact .arith mode (n0 < 0) n0.natAbs 0
  else
    let big := 3 * 2 ^ k ≤ 2 * m
    let n := if big then n0 + 1 else n0
    let b := if big then 2 ^ (k + 1) else 2 ^ k
    refine (fun p =>
      let v : Int := n * (2 ^ p : Nat) + lnFix p m b * (2 ^ p : Nat) / (ln2Fix p : Int)
      agree f mode (v < 0) (v.natAbs - slack) (v.natAbs + slack) (-p)) (m + 2)

/-- tanh a (R147). -/
def tanhFin (f : FFmt) (mode : Nat) (s : Bool) (m : Nat) (e : Int) : Nat × BitVec 12 :=
  let top := fvLog m e
  if 6 ≤ top then f.round .arith mode s (2 ^ 40 - 1) (-40)
  else if top < -50 then f.round .arith mode s (m * 2 ^ 64 - 1) (e - 64)
  else refine (fun p =>
    let (v, n) := expFix p ((m * 2 ^ (e + p + 1).toNat : Nat) : Int)
    let w := v * 2 ^ n.toNat
    let q := (w - 2 ^ p) * 2 ^ p / (w + 2 ^ p)
    agree f mode s (q - slack) (q + slack) (-p)) (m + 3)

/-- 1 / (1 + e^-a) (R147). -/
def sigmFin (f : FFmt) (mode : Nat) (s : Bool) (m : Nat) (e : Int) : Nat × BitVec 12 :=
  let top := fvLog m e
  if !s && 6 ≤ top then f.round .arith mode false (2 ^ 40 - 1) (-40)
  else if s && 8 ≤ top then f.round .arith mode false 1 (-300)
  else if top < -64 then f.round .arith mode false (if s then 2 ^ 60 - 1 else 2 ^ 60 + 1) (-61)
  else refine (fun p =>
    let x : Int := (if s then 1 else -1) * ((m * 2 ^ (e + p).toNat : Nat) : Int)
    let (v, n) := expFix p x
    let w := if 0 ≤ n then v * 2 ^ n.toNat else v / 2 ^ (-n).toNat
    let k := 400
    let q := 2 ^ (p + k) * 2 ^ p / (w + 2 ^ p)
    agree f mode false (q - q * slack / 2 ^ p - 1) (q + q * slack / 2 ^ p + 1) (-(p + k : Int) )) (m + 4)

/-- The functions of R147 by number: 0 exp2, 1 log2, 2 rcp, 3 rsqrt, 4 sqrt, 5 tanh, 6 sigm. -/
def specialV (f : FFmt) (fn mode : Nat) (a : FVal) : Nat × BitVec 12 :=
  match nanResult f [a] with
  | some r => r
  | none =>
    let one (s : Bool) : Nat := f.sgn s + f.bias * 2 ^ f.mb
    match fn, a with
    | 0, .inf s => (if s then 0 else f.infBits false, 0)
    | 0, .fin _ 0 _ => (one false, 0)
    | 0, .fin s m e => exp2Fin f mode s m e
    | 1, .fin _ 0 _ => (f.infBits true, cDZ)
    | 1, .inf s => if s then (f.qnan, cINV) else (f.infBits false, 0)
    | 1, .fin s m e => if s then (f.qnan, cINV) else log2Fin f mode m e
    | 2, .fin s 0 _ => (f.infBits s, cDZ)
    | 2, .inf s => (f.sgn s, 0)
    | 2, .fin s m e => let (q, x) := quotient 1 m 0 e; f.round .arith mode s q x
    | 3, .fin s 0 _ => (f.infBits s, cDZ)
    | 3, .inf s => if s then (f.qnan, cINV) else (0, 0)
    | 3, .fin s m e => if s then (f.qnan, cINV) else let (q, x) := invRootOf m e; f.round .arith mode false q x
    | 4, .fin s 0 _ => (f.sgn s, 0)
    | 4, .inf s => if s then (f.qnan, cINV) else (f.infBits false, 0)
    | 4, .fin s m e => if s then (f.qnan, cINV) else let (q, x) := rootOf m e; f.round .arith mode false q x
    | 5, .fin s 0 _ => (f.sgn s, 0)
    | 5, .inf s => (one s, 0)
    | 5, .fin s m e => tanhFin f mode s m e
    | _, .fin _ 0 _ => ((f.bias - 1) * 2 ^ f.mb, 0)
    | _, .inf s => (if s then 0 else one false, 0)
    | _, .fin s m e => sigmFin f mode s m e
    | _, .nan _ => (f.qnan, 0)

/-- Floating a / b (R112, R147): 0/0 and inf/inf give the canonical NaN with INV (log entry 90). -/
def fDiv (f : FFmt) (mode a b : Nat) : Nat × BitVec 12 :=
  let x := f.decode a
  let y := f.decode b
  match nanResult f [x, y] with
  | some r => r
  | none =>
    match x, y with
    | .inf _, .inf _ => (f.qnan, cINV)
    | .fin _ 0 _, .fin _ 0 _ => (f.qnan, cINV)
    | .inf s, .fin t _ _ => (f.infBits (s != t), 0)
    | .fin s _ _, .inf t => (f.sgn (s != t), 0)
    | .fin s 0 _, .fin t _ _ => (f.sgn (s != t), 0)
    | .fin s _ _, .fin t 0 _ => (f.infBits (s != t), cDZ)
    | .fin s m1 e1, .fin t m2 e2 => let (q, e) := quotient m1 m2 e1 e2; f.round .arith mode (s != t) q e
    | _, _ => (f.qnan, 0)

end Sys2Proof.Machine
end

