-- ==== Sys2Proof/Machine/Operands.lean ====
section
/-! DEFINITION. Operand forms: latch and register vector sources, shapes, elements and who takes part, and the address and P fields of
memory-slot words (R32, R128-R131, R174, R175, R201). -/

namespace Sys2Proof.Machine

/-! ### Vector sources (R32, R174) -/

/-- The latch that a register number 28-31 names while it is bound: the handle it is bound to. -/
def Ctx.latch (cx : Ctx) (r : BitVec 5) : Option (BitVec 4) :=
  if 28 ≤ r.toNat then vget (n := 2) cx.q (BitVec.ofNat 2 (r.toNat - 28)) else none

/-- The entry at C of a handle's ring; none for an unbound handle (R174, R411). -/
def State.headOf (s : State) (c : Nat) (x : CtxId) (h : BitVec 4) : Option TLoc :=
  (((s.ctx c x).ring h).map fun r => r.m + r.c).map (s.resolve c x)

/-- A vector source: the register, or bytes 0-511 of a bound latch's head, with ABSENT where it finds none (R32, R174, R411). -/
def State.vsrcOf (s : State) (c : Nat) (x : CtxId) (r : BitVec 5) : VReg × BitVec 12 :=
  let cx := s.ctx c x
  match cx.latch r with
  | none => (vget (n := 5) cx.v r, 0)
  | some h =>
    match s.headOf c x h with
    | none => (0, cABSENT)
    | some l => if (s.tile l).st = .absent then (0, cABSENT) else ((s.tile l).read 0 512, 0)

def State.vsrc (s : State) (r : BitVec 5) : VReg × BitVec 12 := s.vsrcOf s.cur.core s.cur.x r

/-- The register a destination field names, as it stands: never a latch head (R32). -/
def State.vold (s : State) (d : BitVec 5) : VReg := vget (n := 5) s.me.v d

/-! ### Shapes (R128, R129) -/

/-- A decoded shape record. -/
structure Shape where
  ty : Nat
  mode : Nat
  rows : Nat
  m : Nat
  n : Nat
  kmax : Nat
  deriving DecidableEq, Repr

def shapeOf (w : W32) : Shape :=
  ⟨(fld w 0 4).toNat, (fld w 4 2).toNat, 2 ^ (fld w 7 3).toNat, (fld w 14 4).toNat + 1, (fld w 10 4).toNat + 1, (fld w 18 6).toNat + 1⟩

def State.shape (s : State) (h : BitVec 2) : Shape := shapeOf (vget (n := 2) s.me.sh h)

/-- Element width, element count, and elements per row. -/
def Shape.bits (p : Shape) : Nat := tyBits p.ty
def Shape.count (p : Shape) : Nat := 4096 / p.bits
def Shape.cols (p : Shape) : Nat := p.count / p.rows

/-! ### Elements and participation (R131) -/

/-- The n elements of w bits from bit 0 up. -/
def splitNat (w : Nat) : Nat → Nat → List Nat
  | 0, _ => []
  | n + 1, v => v % 2 ^ w :: splitNat w n (v / 2 ^ w)

def elems (p : Shape) (v : VReg) : List Nat := splitNat p.bits p.count v.toNat

def ofElems (p : Shape) (l : List Nat) : VReg := packElems 4096 p.bits l

/-- rlen[r] (R130). -/
def rlenAt (rl : BitVec 512) (r : Nat) : Nat := (fld rl (8 * r) 8).toNat

/-- Whether element e lies within its row's length: rl = 0, or c < rlen[r]. -/
def inRow (p : Shape) (rl : Bool) (len : BitVec 512) (e : Nat) : Bool := !rl || e % p.cols < rlenAt len (e / p.cols)

/-- Applies f to each element that takes part, and keeps the old value of the others; causes are gathered (R131). -/
def mapElems (part : Nat → Bool) (f : Nat → Nat × BitVec 12) (old : List Nat) : List Nat × BitVec 12 :=
  let r := old.mapIdx fun e o => if part e then f e else (o, 0)
  (r.map Prod.fst, r.foldl (fun c x => c ||| x.2) 0)

/-- The element-wise shape of an operation in the Vector format (R131): mask k, row limit l. -/
def State.vecOp (s : State) (lat : Nat) (p : Shape) (d : BitVec 5) (k : BitVec 3) (l : BitVec 1) (extra : BitVec 12)
    (f : Nat → Nat × BitVec 12) : State :=
  let cx := s.me
  let (r, c) := mapElems (fun e => (cx.kreg k).getLsbD e && inRow p (l = 1) cx.rlen e) f (elems p (s.vold d))
  s.land lat (.v d (ofElems p r)) (c ||| extra)

def nth (l : List Nat) (i : Nat) : Nat := l.getD i 0

/-! ### Memory-slot operands (R175, R201) -/

/-- The address of an adr field: a scalar, or A of a generator (R201). -/
def State.adr (s : State) (e : BitVec 6) : W64 :=
  if e.getLsbD 5 then vget (n := 3) s.cur.ops.ag (fld e 0 3) else s.opS (fld e 0 5)

/-- The byte offset of a P field: unit·P for 0-15, else A of a generator modulo 65,536 (R175). -/
def State.pOffset (s : State) (p : BitVec 5) (unit : Nat) : Nat :=
  if p.toNat < 16 then unit * p.toNat else (vget (n := 3) s.cur.ops.ag (fld p 0 3)).toNat % 65536

end Sys2Proof.Machine
end

