-- ==== Sys2Proof/Machine/Hazard.lean ====
section
/-! DEFINITION. Order between the streams of one context: which tiles a memory word accesses, and when a younger word is held
(R45, R225, R270, R271). -/

namespace Sys2Proof.Machine

/-- What an unperformed word does to the rings before a younger word uses them: whether it binds a handle anew, how far it moves P and C, the
tiles it takes counts from (of the own core's table, or a peer word's) and whether it may take all of a count, and a tile it hands to its launch
(R172, R173, R180, R181). -/
structure RingMove where
  bind : Option (BitVec 4 × Ring) := none
  p : Option (BitVec 4 × Nat) := none
  c : Option (BitVec 4 × Nat) := none
  takes : List (BitVec 9) := []
  peer : Option (BitVec 5) := none
  all : Bool := false
  shares : List (BitVec 9) := []

/-- A create through hN^ moves P by one (R172). -/
def creates (o : BitVec 9) : RingMove := if isHandle o ∧ fld o 0 4 = 0#4 then { p := some (fld o 4 4, 1) } else {}

/-- A read that takes one count, unless it peeks (R159). -/
def reads (o : BitVec 9) (rk : BitVec 2) (peer : Option (BitVec 5)) : RingMove := if rk = 1#2 then {} else { takes := [o], peer := peer }

/-- How a memory word may move rings as it is performed; the read of a command that it hands over is the command's. -/
def ringMove (w : StreamWord) : RingMove :=
  match decodeRaw w.slot w.word with
  | some (.hbind _ _ m n k) => { bind := some (n, ⟨m.toNat, k.toNat + 1, 0, 0⟩) }
  | some (.hadvp _ _ h k) => { p := some (h, k.toNat + 1) }
  | some (.hadvc _ _ h k) => { c := some (h, k.toNat + 1) }
  | some (.tallocImm _ _ x _ _) => creates x
  | some (.tallocReg _ _ x _ _) => creates x
  | some (.gfetchImm _ _ x _ _ _) => creates x
  | some (.gfetchReg _ _ x _ _ _) => creates x
  | some (.ggather _ _ x _ _) => creates x
  | some (.ccopy _ _ x _ r) => { creates x with takes := [(fld (w.ops.sreg r) 52 8).setWidth 9], peer := some r }
  | some (.tld _ _ x r _ _) => reads x r none
  | some (.tlw _ _ x r _ _) => reads x r none
  | some (.sqld _ _ x r _ _) => reads x r none
  | some (.cld _ _ x r _ d) => reads x r (some d)
  | some (.clw _ _ x r _ d) => reads x r (some d)
  | some (.tplane _ _ _ n r) => reads (n.setWidth 9) r none
  | some (.tcntImm _ _ x _) => { takes := [x], all := true }
  | some (.tcntReg _ _ x _) => { takes := [x], all := true }
  | some (.ccnt _ _ x _ r) => { takes := [x], peer := some r, all := true }
  | some (.tdrop _ _ x) => { takes := [x], all := true }
  | some (.tshare _ _ x) => { shares := [x] }
  | some (.gscatter _ _ x _ _ _) => { takes := [x] }
  | some (.gstore _ _ x _ _ _) => { takes := [x] }
  | _ => {}

/-- One count, or all of them, that a party ahead of a word may take of the tile of a name: of the launch table's for a peer word. -/
structure Taker where
  name : Nat
  launch : Bool
  all : Bool

/-- What the older words and the other readers of a context may do to its rings and names before a word is performed: rings that may be bound, moves of
P and C, counts that may be taken, names that may be handed to the launch, and the names that may become ABSENT. -/
structure Ahead where
  binds : List (BitVec 4 × Ring) := []
  p : List (BitVec 4 × Nat) := []
  c : List (BitVec 4 × Nat) := []
  took : List Taker := []
  shared : List Nat := []
  gone : List Nat := []

/-- How far C may have come from where it stands: past every entry that may become ABSENT, and past others by the moves of `hadvc` (R173). -/
def Ahead.far (a : Ahead) (r : Ring) : Nat → Nat → Nat → Nat
  | 0, i, _ => i
  | f + 1, i, b =>
    if a.gone.contains (r.m + (r.c + i) % r.n) then a.far r f (i + 1) b
    else match b with
      | 0 => i
      | k + 1 => a.far r f (i + 1) k

/-- Steps of a list of moves for one handle. -/
def movesOf (l : List (BitVec 4 × Nat)) (h : BitVec 4) : Nat := (l.map fun q => if q.1 = h then q.2 else 0).sum

/-- The names that an operand may select when a word is performed, after what is ahead of it: itself, or the entries of its handle's ring from the
pointer as it stands to as far as that may move it (R172, R173). -/
def Ctx.names (cx : Ctx) (a : Ahead) (producer : Bool) (o : BitVec 9) : List Nat :=
  if !(isHandle o) then [(fld o 0 8).toNat]
  else
    let h := fld o 4 4
    let rings := (cx.ring h).toList ++ (a.binds.filter fun b => b.1 = h).map fun b => b.2
    rings.flatMap fun r =>
      let reach := if producer then movesOf a.p h else a.far r r.n 0 (movesOf a.c h)
      (List.range (Nat.min r.n (reach + 1))).map fun i => r.m + ((if producer then r.p else r.c) + (fld o 0 4).toNat + i) % r.n

/-- The core that a peer word names (R268). -/
def peerCore (c : Nat) (w : W64) : Nat := clusterOf c * 96 + (fld w 0 7).toNat

/-- A place in a tile store: core, tile name, and whether it is the launch table's entry or the unit table's. -/
abbrev Place := Nat × Nat × Bool

/-- The launch-table entries of names on a core (R268). -/
def shared (c : Nat) (l : List Nat) : List Place := l.map fun n => (c, n, true)

/-- The entries that names may resolve to on the own core: the unit's, and the launch's where the unit's is ABSENT or may become so first (R156). -/
def Ctx.places (cx : Ctx) (c : Nat) (gone : List Nat) (l : List Nat) : List Place :=
  l.flatMap fun n => (c, n, false) :: if gone.contains n || (alGet Tile.absent n cx.tiles).st = .absent then [(c, n, true)] else []

/-- The tile operand in the low bits of a scalar (R182). -/
def regTile (v : W64) : BitVec 9 := v.setWidth 9

/-- The tiles that a memory word accesses, after what is ahead of it (R45, R156, R172). -/
def Ctx.touches (cx : Ctx) (c : Nat) (a : Ahead) (w : StreamWord) : List Place :=
  let names := cx.names a
  let gone := a.gone ++ a.shared
  let own (o : BitVec 9) : List Place := cx.places c gone (names false o)
  let made (o : BitVec 9) : List Place := cx.places c gone (names true o)
  let plus (o : BitVec 9) : List Place := made o ++ cx.places c gone ((names true o).map fun n => n + 1)
  let peer (o : BitVec 9) (r : BitVec 5) : List Place := shared (peerCore c (w.ops.sreg r)) (names false o)
  match decodeRaw w.slot w.word with
  | some (.tallocImm _ _ x _ _) => made x
  | some (.tallocReg _ _ x _ _) => made x
  | some (.tld _ _ x _ _ _) => own x
  | some (.tst _ _ x _ _) => own x
  | some (.tcntImm _ _ x _) => own x
  | some (.tcntReg _ _ x _) => own x
  | some (.tdrop _ _ x) => own x
  | some (.tparkTile _ _ x) => own x
  | some (.tparkReg _ _ a) => own (regTile (w.ops.sreg a))
  | some (.tunparkTile _ _ x) => own x
  | some (.tunparkReg _ _ a) => own (regTile (w.ops.sreg a))
  | some (.tstat _ _ x _) => own x
  | some (.tplane _ _ d n _) => cx.places c gone [d.toNat, d.toNat + 1, n.toNat]
  | some (.sqld _ _ x _ _ _) => own x
  | some (.tshare _ _ x) => own x ++ shared c (names false x)
  | some (.tlw _ _ x _ _ _) => own x
  | some (.tsw _ _ x _ _) => own x
  | some (.tatom _ _ x _ _ _) => own x
  | some (.cld _ _ x _ _ r) => peer x r
  | some (.cst _ _ x _ r) => peer x r
  | some (.ccopy _ _ x _ r) => made x ++ shared (peerCore c (w.ops.sreg r)) [(fld (w.ops.sreg r) 52 8).toNat]
  | some (.ccnt _ _ x _ r) => peer x r
  | some (.clw _ _ x _ _ r) => peer x r
  | some (.csw _ _ x _ r) => peer x r
  | some (.catom _ _ x _ d _) => peer x d
  | some (.gfetchImm _ _ x _ _ _) => plus x
  | some (.gfetchReg _ _ x _ _ _) => plus x
  | some (.ggather _ _ x _ _) => made x
  | some (.gscatter _ _ x _ _ _) => own x
  | some (.gstore _ _ x _ _ _) => own x
  | _ => []

/-- The barrier that a command's PB field names (R196): 0 names none. -/
def pbOf (w : StreamWord) : BitVec 3 :=
  match decodeRaw w.slot w.word with
  | some (.ccopy _ _ _ _ r) => fld (w.ops.sreg r) 48 3
  | some (.gfetchImm _ _ _ _ _ p) => p
  | some (.gfetchReg _ _ _ _ _ p) => p
  | some (.ggather _ _ _ _ j) => fld (w.ops.sreg (j + 1)) 30 3
  | some (.gscatter _ _ _ _ j _) => fld (w.ops.sreg (j + 1)) 30 3
  | some (.gstore _ _ _ _ _ p) => p
  | some (.gcopy _ _ _ _ _ p) => p
  | some (.gsluicePromote _ _ _ p) => p
  | some (.gsluicePromoteX _ _ _ p) => p
  | some (.gsluiceRelease _ _ _ p) => p
  | some (.gskimSelect _ _ _ p) => p
  | some (.gskimBiasw _ _ _ p) => p
  | some (.gskimEpoch _ _ _ p) => p
  | some (.gcollAllreduce _ _ _ p) => p
  | some (.gcollReducescatter _ _ _ p) => p
  | some (.gcollAllgather _ _ _ p) => p
  | some (.gcollBroadcast _ _ _ p) => p
  | some (.gsendData _ _ _ p) => p
  | some (.gsendLaunch _ _ _ p) => p
  | some (.grecv _ _ _ p) => p
  | _ => 0

/-- Whether a word writes or changes by an atomic some tile through MT or MC (R270). -/
def writesTile (w : StreamWord) : Bool :=
  match decodeRaw w.slot w.word with
  | some (.tst _ _ _ _ _) => true
  | some (.tsw _ _ _ _ _) => true
  | some (.tatom _ _ _ _ _ _) => true
  | some (.tplane _ _ _ _ _) => true
  | some (.cst _ _ _ _ _) => true
  | some (.csw _ _ _ _ _) => true
  | some (.catom _ _ _ _ _ _) => true
  | _ => false

def isBwait (w : StreamWord) : Bool :=
  match decodeRaw w.slot w.word with
  | some (.bwait _ _ _) => true
  | _ => false

/-- Every unperformed memory word of a context's streams. -/
def Ctx.words (cx : Ctx) : List StreamWord := cx.mt ++ cx.mc ++ cx.mg

/-- The words of the interrupted code that a trap shadow holds (R337). -/
def Ctx.savedWords (cx : Ctx) : List StreamWord :=
  match cx.shadow with
  | some h => h.mt ++ h.mc ++ h.mg
  | none => []

def meet (a b : List Place) : Bool := a.any fun p => b.contains p

/-- The tile that an incomplete command has still to read: the source of a `gstore`, `gscatter` or `ccopy` (R206, R205, R276). -/
def Ctx.unread (cx : Ctx) (c : Nat) (m : Cmd) : List Place :=
  if m.state = 3 ∨ m.dead then []
  else if m.slot = 7 ∧ (m.op = 0x06#6 ∨ m.op = 0x07#6) then cx.places c [] m.aux
  else if m.slot = 6 then shared m.srcCore m.aux
  else []

/-- A die is in thermal throttle (R407). -/
def State.dieHot (s : State) (c : Nat) : Bool := (s.boot.hot.toList[dieOf c]?).getD false

/-! ### Bytes of global memory -/

/-- Two byte ranges meet in a 64-byte line. -/
def linesMeet (a n b k : Nat) : Bool := n != 0 && k != 0 && a / 64 ≤ (b + k - 1) / 64 && b / 64 ≤ (a + n - 1) / 64

/-- The physical bytes of a range, page by page, as the tables of function vf stand. -/
def State.physOf (s : State) (vf a n : Nat) : List (Nat × Nat) :=
  if n = 0 ∨ 2 ^ 51 < a + n then []
  else (List.range ((a + n - 1) / 32768 - a / 32768 + 1)).filterMap fun i =>
    let p := (a / 32768 + i) * 32768
    let lo := Nat.max a p
    (s.walk vf lo).map fun l => (l.pa + lo % 2 ^ l.bits, Nat.min (a + n) (p + 32768) - lo)

/-- Two ranges of addresses of one function share a byte, be it through two mappings of it (R283). -/
def State.rangesMeet (s : State) (vf : Nat) (r t : Nat × Nat) : Bool :=
  bytesMeet r.1 r.2 t.1 t.2
  || (s.physOf vf r.1 r.2).any fun p => (s.physOf vf t.1 t.2).any fun k => bytesMeet p.1 p.2 k.1 k.2

/-- The address operand of an unperformed MG word. -/
def StreamWord.adr (w : StreamWord) (e : BitVec 6) : W64 :=
  if e.getLsbD 5 then vget (n := 3) w.ops.ag (fld e 0 3) else w.ops.sreg (fld e 0 5)

/-- The bytes of a direct access: whether it writes them, their start, their length; of a `gbind` or `gunbind` none (R202, R208-R210). -/
def StreamWord.direct (w : StreamWord) : Option (Bool × Nat × Nat) :=
  match decodeRaw w.slot w.word with
  | some (.gls _ _ _ e y) => some (false, (w.adr e).toNat, 2 ^ (y.toNat % 4))
  | some (.gss _ _ _ e y) => some (true, (w.adr e).toNat, 2 ^ (y.toNat % 4))
  | some (.gvst _ _ _ e) => some (true, (w.adr e).toNat, 512)
  | some (.gatom _ _ _ e _ _ _) => some (true, (w.adr e).toNat, 8)
  | some (.gcas _ _ _ e _ _) => some (true, (w.adr e).toNat, 8)
  | some (.gwait _ _ f _) => some (false, (w.ops.sreg f).toNat, 8)
  | some (.gacq _ _ f _) => some (false, (w.ops.sreg f).toNat, 8)
  | some (.grel _ _ f _) => some (true, (w.ops.sreg f).toNat, 8)
  | _ => none

/-- The direct accesses of the interrupted code that a trap shadow holds: older than every access of the handler (R337). -/
def Ctx.savedDirect (cx : Ctx) : List (Bool × Nat × Nat) := ((cx.shadow.map fun h => h.mg).getD []).filterMap StreamWord.direct

/-- An access of the context to n bytes waits for a saved older access to them, of which one writes (R283, R290, R337). -/
def State.behindSaved (s : State) (cx : Ctx) (wr : Bool) (a n : Nat) : Bool :=
  cx.savedDirect.any fun d => (wr || d.1) && s.rangesMeet cx.vf (a, n) d.2

/-- Words that never wait for a tile's readers: a create waits for ABSENT, and `tstat` waits for nothing (R176, R182). -/
def freeOfReads (w : StreamWord) : Bool :=
  match decodeRaw w.slot w.word with
  | some (.tstat _ _ _ _) => true
  | some (.tallocImm _ _ _ _ _) => true
  | some (.tallocReg _ _ _ _ _) => true
  | _ => 7 ≤ w.slot

/-- Words that create a tile. -/
def isCreate (w : StreamWord) : Bool :=
  match decodeRaw w.slot w.word with
  | some (.tallocImm _ _ _ _ _) => true
  | some (.tallocReg _ _ _ _ _) => true
  | some (.gfetchImm _ _ _ _ _ _) => true
  | some (.gfetchReg _ _ _ _ _ _) => true
  | some (.ggather _ _ _ _ _) => true
  | _ => false

/-- An older command of the context has still to read a tile that the word accesses; or it has still to find absent a tile that the word creates
(R45, R206, R283). -/
def Ctx.behindCmd (cx : Ctx) (c : Nat) (w : StreamWord) (t : List Place) : Bool :=
  let gone (p : Place) : Bool := p.1 = c && !p.2.2 && (alGet Tile.absent p.2.1 cx.tiles).st = .absent
  (cx.eq.toList.flatten ++ cx.ccq).any fun m => m.tok < w.tok
    && (if freeOfReads w then isCreate w && ((cx.unread c m).filter gone).any fun p => t.contains p else meet (cx.unread c m) t)

/-- The counts that readers other than stream words may still take: the context's incomplete commands, one of each source tile, and its calls in the
matrix engine, one of each operand (R205, R206, R225, R276). -/
def Core.readers (k : Core) (c : Nat) (x : CtxId) : List Taker :=
  let cx := k.ctx[x]
  ((cx.eq.toList.flatten ++ cx.ccq).flatMap fun m => (cx.unread c m).filterMap fun p => if p.1 = c then some ⟨p.2.1, p.2.2, false⟩ else none)
    ++ (((k.mq ++ k.tails.map (fun (a : Call) => a.op) ++ k.call.toList.map fun (a : Call) => a.op).filter fun m => m.of cx).flatMap fun m =>
      (m.ta.toList ++ m.tb.toList).map fun n => ⟨n.toNat, false, false⟩)

/-- A name that live tiles stand behind may become ABSENT: a party may take its whole count, or as many as the count take one. -/
def Core.mayGo (k : Core) (x : CtxId) (took : List Taker) (n : Nat) : Bool :=
  let cx := k.ctx[x]
  let u := alGet Tile.absent n cx.tiles
  let t := if u.st = .absent then alGet Tile.absent n (alGet [] cx.launch.toNat k.ltiles) else u
  let l := took.filter fun q => q.name = n && (u.st = .absent || !q.launch)
  l.any (fun q => q.all) || (!l.isEmpty && decide (t.count ≤ l.length))

/-- With further counts that may be taken. -/
def Core.taken (k : Core) (x : CtxId) (a : Ahead) (l : List Taker) : Ahead :=
  let took := a.took ++ l
  { a with took := took, gone := (took.map fun q => q.name).eraseDups.filter fun n => k.mayGo x took n }

/-- One more older word stands ahead. -/
def Core.ahead1 (k : Core) (c : Nat) (x : CtxId) (a : Ahead) (z : StreamWord) : Ahead :=
  let cx := k.ctx[x]
  let v := ringMove z
  let here := (v.peer.map fun r => decide (peerCore c (z.ops.sreg r) = c)).getD true
  let l := if here then (v.takes.flatMap (cx.names a false)).map fun n => ⟨n, v.peer.isSome, v.all⟩ else []
  let b := k.taken x a l
  { b with
    binds := b.binds ++ v.bind.toList
    p := b.p ++ v.p.toList
    c := b.c ++ v.c.toList
    shared := b.shared ++ v.shares.flatMap (cx.names a false) }

/-- A word put into its place by issue. -/
def byToken (w : StreamWord) : List StreamWord → List StreamWord
  | [] => [w]
  | z :: r => if w.tok ≤ z.tok then w :: z :: r else z :: byToken w r

/-- The tiles that an unperformed word of a context accesses when it is performed: after the older words and the other readers, in order. -/
def Core.touched (k : Core) (c : Nat) (x : CtxId) (z : StreamWord) : List Place :=
  let cx := k.ctx[x]
  let older := ((cx.savedWords ++ cx.words).filter fun y => y.tok < z.tok).foldr byToken []
  cx.touches c (older.foldl (k.ahead1 c x) (k.taken x {} (k.readers c x))) z

/-- The head of a stream is held by an older word of another stream, one that accesses the same tile, or a `bwait`; or by an older command's
read of the tile (R45, R271, R283); a `barv` also by the older words that R270 names, the saved ones of interrupted code among them (R337). -/
def Core.headHeld (k : Core) (c : Nat) (x : CtxId) (w : StreamWord) : Bool :=
  let cx := k.ctx[x]
  let older := cx.words.filter fun z => z.tok < w.tok && z.slot != w.slot
  let before := older ++ cx.savedWords
  let t := cx.touches c {} w
  older.any (fun z => isBwait z || meet (k.touched c x z) t)
  || cx.behindCmd c w t
  || (match decodeRaw w.slot w.word with
    | some (.barv _ _ n) => before.any fun z => writesTile z || (pbOf z != 0 && (pbOf z).toNat = n.toNat)
    | some (.barvRemote _ _ n r) =>
      before.any fun z => writesTile z || (pbOf z != 0 && (pbOf z).toNat = n.toNat && peerCore c (w.ops.sreg r) = c)
    | _ => false)

/-! ### The order of a cycle's accesses (R160, R163) -/

/-- The streams of a context run: it holds a unit and its cycles do not stand (R335). -/
def Ctx.flows (cx : Ctx) : Bool := cx.st != .free && cx.st != .frozen && !cx.fz

/-- The entries that the head of a stream accesses. -/
def State.reaches (s : State) (c : Nat) (x : CtxId) (w : StreamWord) : List TLoc :=
  ((s.ctx c x).touches c {} w).map fun p => if p.2.2 then .launch p.1 (s.ctx c x).launch p.2.1 else .unit p.1 x p.2.1

/-- An MT word of an earlier place has waited for an entry that is now ready, and can be performed: it goes first. -/
def State.awaited (s : State) (l : List TLoc) (place : Nat) : Bool :=
  l.any fun p => s.avail p = .ready && allCtx.any fun y =>
    let cx := s.ctx p.core y
    y.val < place && cx.flows && cx.sw.toList.head? = some .tile && cx.mt.head?.any fun z =>
      !(isCreate z) && !((s.core p.core).headHeld p.core y z)
      && (let r := s.reaches p.core y z; r.contains p && r.all fun k => s.avail k != .waiting && s.avail k != .unpark)

/-- Accesses of a place in the order of R160 are out of turn: one of a later place has been performed in this cycle, or one of an earlier place that has
waited is due. They wait for the next cycle, or for that one. -/
def State.outOfTurn (s : State) (l : List TLoc) (place : Nat) : Bool := s.passedBy l place || s.awaited l place

/-- Whether a word of the context older than a call accesses one of the call's own-core tiles and is unperformed, or a command it handed over has
still to read the tile (R225). -/
def Core.olderNaming (k : Core) (c : Nat) (x : CtxId) (tok : Nat) (l : List Nat) : Bool :=
  let cx := k.ctx[x]
  let t : List Place := l.flatMap fun n => [(c, n, false), (c, n, true)]
  ((cx.words ++ cx.savedWords).any fun z => z.tok < tok && meet (k.touched c x z) t)
  || (cx.eq.toList.flatten ++ cx.ccq).any fun m => m.tok < tok && meet (cx.unread c m) t

/-- Side of the scale queue that an `sqld` word loads. -/
def sqldSide (w : StreamWord) : Option (BitVec 1) :=
  match decodeRaw w.slot w.word with
  | some (.sqld _ _ _ _ d _) => some d
  | _ => none

/-- An `sqld` of a side is outstanding from its issue until its entry is in the queue (R123). -/
def Ctx.sqldOut (cx : Ctx) (side : BitVec 1) : Bool := (cx.words ++ cx.savedWords).any fun z => sqldSide z = some side

end Sys2Proof.Machine
end

