-- ==== Sys2Proof/Machine/Flags.lean ====
section
/-! DEFINITION. Flag and cause computations of the vector slots: element operations with the causes they set (R134-R138, R142, R147, R148). -/

namespace Sys2Proof.Machine

/-- The element operations. -/
inductive EOp where
  | add | sub | mul | fma | fms | vmin | vmax | abs | neg | and | or | xor | not | shl | shr | sar
  deriving DecidableEq, Repr

/-- Floating minimum and maximum: one NaN gives the other operand, two the canonical NaN; signalling sets INV; -0 is below +0 (R135). -/
def fMinMax (f : FFmt) (isMin : Bool) (a b : Nat) : Nat × BitVec 12 :=
  let x := f.decode a
  let y := f.decode b
  let c := if x = .nan true ∨ y = .nan true then cINV else 0
  match x.isNan, y.isNan with
  | true, true => (f.qnan, c)
  | true, false => (b, c)
  | false, true => (a, c)
  | false, false =>
    let less := if x.isZero ∧ y.isZero then f.sgn true ≤ a && a ≠ b else fvLt x y
    (if less = isMin then a else b, c)

/-- Integer minimum or maximum by the type's sign. -/
def iMinMax (t : Nat) (isMin : Bool) (a b : Nat) : Nat := if (tyInt t a < tyInt t b : Bool) = isMin then a else b

/-- One element of an element-wise operation: a, b, and the old destination d (R134 Table 3). -/
def elemOp (op : EOp) (p : Shape) (a b d : Nat) : Nat × BitVec 12 :=
  let w := p.bits
  let f := tyFmt p.ty
  let fl := tyFloat p.ty
  match op with
  | .add => if fl then fAdd f p.mode a b else ((a + b) % 2 ^ w, 0)
  | .sub => if fl then fSub f p.mode a b else ((a + 2 ^ w - b) % 2 ^ w, 0)
  | .mul => if fl then fMul f p.mode a b else (a * b % 2 ^ w, 0)
  | .fma => if fl then fFma f p.mode a b d else ((d + a * b) % 2 ^ w, 0)
  | .fms =>
    if fl then fMulAddV f p.mode (f.decode a).neg (f.decode b) (some (f.decode d)) else ((d + 2 ^ (2 * w) - a * b) % 2 ^ w, 0)
  | .vmin => if fl then fMinMax f true a b else (iMinMax p.ty true a b, 0)
  | .vmax => if fl then fMinMax f false a b else (iMinMax p.ty false a b, 0)
  | .abs =>
    if fl then (match f.decode a with
      | .nan q => (f.qnan, if q then cINV else 0)
      | _ => (a % 2 ^ (w - 1), 0))
    else (if tySigned p.ty ∧ 2 ^ (w - 1) < a then 2 ^ w - a else a, 0)
  | .neg =>
    if fl then (match f.decode a with
      | .nan q => (f.qnan, if q then cINV else 0)
      | _ => ((a + 2 ^ (w - 1)) % 2 ^ w, 0))
    else ((2 ^ w - a) % 2 ^ w, 0)
  | .and => (a &&& b, 0)
  | .or => (a ||| b, 0)
  | .xor => (a ^^^ b, 0)
  | .not => (2 ^ w - 1 - a, 0)
  | .shl => (if w ≤ b then 0 else a * 2 ^ b % 2 ^ w, 0)
  | .shr => (if w ≤ b then 0 else a / 2 ^ b, 0)
  | .sar => (ofIntBits w (signed w a / (2 ^ (if w ≤ b then w else b) : Nat)), 0)

/-- Saturating integer arithmetic; floating types as the plain operation (R136): 0 add, 1 sub, 2 mul. -/
def satOp (o : Nat) (p : Shape) (a b : Nat) : Nat × BitVec 12 :=
  if tyFloat p.ty then elemOp (if o = 0 then .add else if o = 1 then .sub else .mul) p a b 0
  else
    let x := tyInt p.ty a
    let y := tyInt p.ty b
    let r := if o = 0 then x + y else if o = 1 then x - y else x * y
    (ofIntBits p.bits (clampConv (tyRange p.ty).1 (tyRange p.ty).2 r).1, 0)

/-- A compare condition 0-5 (.eq .ne .lt .le .gt .ge) with the cause of a signalling NaN (R138). -/
def cmpOp (c : Nat) (p : Shape) (a b : Nat) : Bool × BitVec 12 :=
  let pick (lt eq : Bool) : Bool := match c with
    | 0 => eq
    | 1 => !eq
    | 2 => lt
    | 3 => lt || eq
    | 4 => !(lt || eq)
    | _ => !lt
  if tyFloat p.ty then
    let f := tyFmt p.ty
    let x := f.decode a
    let y := f.decode b
    let inv := if x = .nan true ∨ y = .nan true then cINV else 0
    if x.isNan || y.isNan then (c = 1, inv) else (pick (fvLt x y) (!(fvLt x y) && !(fvLt y x)), inv)
  else
    let x := tyInt p.ty a
    let y := tyInt p.ty b
    (pick (x < y) (x = y), 0)

/-- A floating element rounded to an integral value of its type (R142). -/
def roundElem (p : Shape) (a : Nat) : Nat × BitVec 12 :=
  if !(tyFloat p.ty) then (a, 0)
  else
    let f := tyFmt p.ty
    match f.decode a with
    | .nan q => (f.qnan, if q then cINV else 0)
    | .inf _ => (a, 0)
    | .fin _ 0 _ => (a, 0)
    | .fin s m e => let (r, _) := f.ofExact .conv p.mode s (roundShift p.mode s m (-e)).1 0; (r, 0)

/-- A step of `vrsum` and `vscan` (R148). -/
def sumStep (p : Shape) (acc x : Nat) : Nat × BitVec 12 := elemOp .add p acc x 0

/-- One element of a special function: integer types give 0 with INV (R147). -/
def specialElem (fn : Nat) (p : Shape) (a : Nat) : Nat × BitVec 12 :=
  if tyFloat p.ty then specialV (tyFmt p.ty) fn p.mode ((tyFmt p.ty).decode a) else (0, cINV)

def divElem (p : Shape) (a b : Nat) : Nat × BitVec 12 := if tyFloat p.ty then fDiv (tyFmt p.ty) p.mode a b else (0, cINV)

end Sys2Proof.Machine
end

