-- ==== Sys2Proof/Machine/Scalar.lean ====
section
/-! DEFINITION. The scalar slot: arithmetic, extensions, constants, compares, selection and address generators (R99-R108). -/

namespace Sys2Proof.Machine

/-! ### Shared operations -/

/-- A scalar result lands in sD (R41, R46). -/
def State.landS (s : State) (lat : Nat) (d : BitVec 5) (v : W64) : State := s.land lat (.s d v) 0

/-- The shift amount sB[5:0] (R103). -/
def shamt (v : W64) : Nat := v.toNat % 64

/-- Bits [127:64] of the signed product (R103). -/
def mulHigh (a b : W64) : W64 := BitVec.ofInt 64 (a.toInt * b.toInt / 2 ^ 64)

/-- Bits [127:64] of the unsigned product (R103). -/
def mulHighU (a b : W64) : W64 := BitVec.ofNat 64 (a.toNat * b.toNat / 2 ^ 64)

/-- Quotient, remainder and causes of the division group (R103): by 0, q is all ones and r is sA with DZ; -2^63 by -1 gives -2^63 and 0
with INV. -/
def divide (sgn : Bool) (a b : W64) : W64 × W64 × BitVec 12 :=
  if b = 0 then (BitVec.allOnes 64, a, cDZ)
  else if sgn && a = BitVec.intMin 64 && b = BitVec.allOnes 64 then (BitVec.intMin 64, 0, cINV)
  else if sgn then (BitVec.ofInt 64 (a.toInt.tdiv b.toInt), BitVec.ofInt 64 (a.toInt.tmod b.toInt), 0)
  else (BitVec.ofNat 64 (a.toNat / b.toNat), BitVec.ofNat 64 (a.toNat % b.toNat), 0)

/-- The number of leading zero bits; 64 for 0 (R104). -/
def clz64 (v : W64) : Nat := 64 - bitLen v.toNat

/-- The number of trailing zero bits; 64 for 0 (R104). -/
def ctz64 (v : W64) : Nat := ctzFuel 64 v.toNat

/-- The low bits of width w (0: 8, 1: 16, else 32) sign-extended (R104). -/
def sextW (w : BitVec 2) (v : W64) : W64 :=
  match w.toNat with
  | 0 => (v.setWidth 8).signExtend 64
  | 1 => (v.setWidth 16).signExtend 64
  | _ => (v.setWidth 32).signExtend 64

/-- The low bits of width w zero-extended (R104). -/
def zextW (w : BitVec 2) (v : W64) : W64 :=
  match w.toNat with
  | 0 => (v.setWidth 8).setWidth 64
  | 1 => (v.setWidth 16).setWidth 64
  | _ => (v.setWidth 32).setWidth 64

/-- A condition of R106 Table 5. -/
def condHolds (c : Nat) (a b : W64) : Bool :=
  match c with
  | 0 => a == b
  | 1 => a != b
  | 2 => a.slt b
  | 3 => a.sle b
  | 4 => b.slt a
  | 5 => b.sle a
  | 6 => a.ult b
  | 7 => a.ule b
  | 8 => b.ult a
  | _ => b.ule a

/-- A compare's result fills the reserved entry at the end of the issue cycle (R42, R106). -/
def State.landCq (s : State) (lat : Nat) (b : Bool) : State := s.land lat (.cq s.cur.cqTok b) 0


/-! ### Register arithmetic (R103 Table 4) -/

/-- ADD (R103 Table 4). -/
def execAdd (_t : BitVec 3) (_i : BitVec 2) (d a b : BitVec 5) (s : State) : Out :=
  .next (s.landS 1 d (s.sreg a + s.sreg b))

/-- SUB (R103 Table 4). -/
def execSub (_t : BitVec 3) (_i : BitVec 2) (d a b : BitVec 5) (s : State) : Out :=
  .next (s.landS 1 d (s.sreg a - s.sreg b))

/-- MUL (R103 Table 4). -/
def execMul (_t : BitVec 3) (_i : BitVec 2) (d a b : BitVec 5) (s : State) : Out :=
  .next (s.landS 3 d (s.sreg a * s.sreg b))

/-- MULH (R103 Table 4). -/
def execMulh (_t : BitVec 3) (_i : BitVec 2) (d a b : BitVec 5) (s : State) : Out :=
  .next (s.landS 3 d (mulHigh (s.sreg a) (s.sreg b)))

/-- MULHU (R103 Table 4). -/
def execMulhu (_t : BitVec 3) (_i : BitVec 2) (d a b : BitVec 5) (s : State) : Out :=
  .next (s.landS 3 d (mulHighU (s.sreg a) (s.sreg b)))

/-- AND (R103 Table 4). -/
def execAnd (_t : BitVec 3) (_i : BitVec 2) (d a b : BitVec 5) (s : State) : Out :=
  .next (s.landS 1 d (s.sreg a &&& s.sreg b))

/-- OR (R103 Table 4). -/
def execOr (_t : BitVec 3) (_i : BitVec 2) (d a b : BitVec 5) (s : State) : Out :=
  .next (s.landS 1 d (s.sreg a ||| s.sreg b))

/-- XOR (R103 Table 4). -/
def execXor (_t : BitVec 3) (_i : BitVec 2) (d a b : BitVec 5) (s : State) : Out :=
  .next (s.landS 1 d (s.sreg a ^^^ s.sreg b))

/-- SHL (R103 Table 4). -/
def execShl (_t : BitVec 3) (_i : BitVec 2) (d a b : BitVec 5) (s : State) : Out :=
  .next (s.landS 1 d (s.sreg a <<< shamt (s.sreg b)))

/-- SHR (R103 Table 4). -/
def execShr (_t : BitVec 3) (_i : BitVec 2) (d a b : BitVec 5) (s : State) : Out :=
  .next (s.landS 1 d (s.sreg a >>> shamt (s.sreg b)))

/-- SAR (R103 Table 4). -/
def execSar (_t : BitVec 3) (_i : BitVec 2) (d a b : BitVec 5) (s : State) : Out :=
  .next (s.landS 1 d ((s.sreg a).sshiftRight (shamt (s.sreg b))))

/-- ROT (R103 Table 4). -/
def execRot (_t : BitVec 3) (_i : BitVec 2) (d a b : BitVec 5) (s : State) : Out :=
  .next (s.landS 1 d ((s.sreg a).rotateRight (shamt (s.sreg b))))

/-- MIN (R103 Table 4). -/
def execMin (_t : BitVec 3) (_i : BitVec 2) (d a b : BitVec 5) (s : State) : Out :=
  .next (s.landS 1 d (if (s.sreg a).slt (s.sreg b) then s.sreg a else s.sreg b))

/-- MAX (R103 Table 4). -/
def execMax (_t : BitVec 3) (_i : BitVec 2) (d a b : BitVec 5) (s : State) : Out :=
  .next (s.landS 1 d (if (s.sreg a).slt (s.sreg b) then s.sreg b else s.sreg a))

/-- MINU (R103 Table 4). -/
def execMinu (_t : BitVec 3) (_i : BitVec 2) (d a b : BitVec 5) (s : State) : Out :=
  .next (s.landS 1 d (if (s.sreg a).ult (s.sreg b) then s.sreg a else s.sreg b))

/-- MAXU (R103 Table 4). -/
def execMaxu (_t : BitVec 3) (_i : BitVec 2) (d a b : BitVec 5) (s : State) : Out :=
  .next (s.landS 1 d (if (s.sreg a).ult (s.sreg b) then s.sreg b else s.sreg a))

/-- DIV (R103): latency 20; its causes go to STICKY1. -/
def execDiv (_t : BitVec 3) (_i : BitVec 2) (d a b : BitVec 5) (s : State) : Out :=
  let r := divide true (s.sreg a) (s.sreg b)
  .next (s.land 20 (.s d r.1) r.2.2)

/-- DIVU (R103): latency 20; its causes go to STICKY1. -/
def execDivu (_t : BitVec 3) (_i : BitVec 2) (d a b : BitVec 5) (s : State) : Out :=
  let r := divide false (s.sreg a) (s.sreg b)
  .next (s.land 20 (.s d r.1) r.2.2)

/-- REM (R103): latency 20; its causes go to STICKY1. -/
def execRem (_t : BitVec 3) (_i : BitVec 2) (d a b : BitVec 5) (s : State) : Out :=
  let r := divide true (s.sreg a) (s.sreg b)
  .next (s.land 20 (.s d r.2.1) r.2.2)

/-- REMU (R103): latency 20; its causes go to STICKY1. -/
def execRemu (_t : BitVec 3) (_i : BitVec 2) (d a b : BitVec 5) (s : State) : Out :=
  let r := divide false (s.sreg a) (s.sreg b)
  .next (s.land 20 (.s d r.2.1) r.2.2)

/-! ### Unary and extension operations (R104) -/

/-- CLZ (R104). -/
def execClz (_t : BitVec 3) (_i : BitVec 2) (d a : BitVec 5) (s : State) : Out :=
  .next (s.landS 1 d (BitVec.ofNat 64 (clz64 (s.sreg a))))

/-- CTZ (R104). -/
def execCtz (_t : BitVec 3) (_i : BitVec 2) (d a : BitVec 5) (s : State) : Out :=
  .next (s.landS 1 d (BitVec.ofNat 64 (ctz64 (s.sreg a))))

/-- POPC (R104). -/
def execPopc (_t : BitVec 3) (_i : BitVec 2) (d a : BitVec 5) (s : State) : Out :=
  .next (s.landS 1 d (BitVec.ofNat 64 (popFuel 64 (s.sreg a).toNat)))

/-- SEXT (R104). -/
def execSext (_t : BitVec 3) (_i : BitVec 2) (d a : BitVec 5) (w : BitVec 2) (s : State) : Out :=
  .next (s.landS 1 d (sextW w (s.sreg a)))

/-- ZEXT (R104). -/
def execZext (_t : BitVec 3) (_i : BitVec 2) (d a : BitVec 5) (w : BitVec 2) (s : State) : Out :=
  .next (s.landS 1 d (zextW w (s.sreg a)))

/-! ### Immediates (R105) -/

/-- ADDI (R105): imm11 sign-extended. -/
def execAddi (_t : BitVec 3) (_i : BitVec 2) (d a : BitVec 5) (m : BitVec 11) (s : State) : Out :=
  .next (s.landS 1 d (s.sreg a + m.signExtend 64))

/-- ANDI (R105): imm11 sign-extended. -/
def execAndi (_t : BitVec 3) (_i : BitVec 2) (d a : BitVec 5) (m : BitVec 11) (s : State) : Out :=
  .next (s.landS 1 d (s.sreg a &&& m.signExtend 64))

/-- ORI (R105): imm11 sign-extended. -/
def execOri (_t : BitVec 3) (_i : BitVec 2) (d a : BitVec 5) (m : BitVec 11) (s : State) : Out :=
  .next (s.landS 1 d (s.sreg a ||| m.signExtend 64))

/-- XORI (R105): imm11 sign-extended. -/
def execXori (_t : BitVec 3) (_i : BitVec 2) (d a : BitVec 5) (m : BitVec 11) (s : State) : Out :=
  .next (s.landS 1 d (s.sreg a ^^^ m.signExtend 64))

/-- SHLI (R105). -/
def execShli (_t : BitVec 3) (_i : BitVec 2) (d a : BitVec 5) (h : BitVec 6) (s : State) : Out :=
  .next (s.landS 1 d (s.sreg a <<< h.toNat))

/-- SHRI (R105). -/
def execShri (_t : BitVec 3) (_i : BitVec 2) (d a : BitVec 5) (h : BitVec 6) (s : State) : Out :=
  .next (s.landS 1 d (s.sreg a >>> h.toNat))

/-- SARI (R105). -/
def execSari (_t : BitVec 3) (_i : BitVec 2) (d a : BitVec 5) (h : BitVec 6) (s : State) : Out :=
  .next (s.landS 1 d ((s.sreg a).sshiftRight h.toNat))

/-- LI (R105): imm16 sign-extended. -/
def execLi (_t : BitVec 3) (_i : BitVec 2) (d : BitVec 5) (m : BitVec 16) (s : State) : Out :=
  .next (s.landS 1 d (m.signExtend 64))

/-- LIH (R105): sD as read at issue, shifted left by 16, with imm16 ored in. -/
def execLih (_t : BitVec 3) (_i : BitVec 2) (d : BitVec 5) (m : BitVec 16) (s : State) : Out :=
  .next (s.landS 1 d (s.sreg d <<< 16 ||| m.setWidth 64))

/-! ### Compares and pushes (R106) -/

/-- CMP (R106). -/
def execCmp (_t : BitVec 3) (_i : BitVec 2) (a b : BitVec 5) (c : BitVec 4) (s : State) : Out :=
  .next (s.landCq 1 (condHolds c.toNat (s.sreg a) (s.sreg b)))

/-- CMPI (R106): against imm11 sign-extended. -/
def execCmpi (_t : BitVec 3) (_i : BitVec 2) (c a : BitVec 5) (m : BitVec 11) (s : State) : Out :=
  .next (s.landCq 1 (condHolds c.toNat (s.sreg a) (m.signExtend 64)))

/-- CQPUSH (R106). -/
def execCqpush (_t : BitVec 3) (_i : BitVec 2) (a : BitVec 5) (s : State) : Out :=
  .next (s.landCq 1 (s.sreg a != 0))

/-- SEL (R107): sA if sC is not 0, else sB. -/
def execSel (_t : BitVec 3) (_i : BitVec 2) (d a b c : BitVec 5) (s : State) : Out :=
  .next (s.landS 1 d (if s.sreg c = 0 then s.sreg b else s.sreg a))

/-! ### Address generators (R100, R101, R108) -/

/-- A field of a generator: 0-5 the strides, 6 the address (R102). -/
def AGen.field (g : AGen) (f : BitVec 3) : W64 := if f = 6#3 then g.a else (g.st.toList[f.toNat]?).getD 0

/-- AGSET (R108). -/
def execAgset (_t : BitVec 3) (_i : BitVec 2) (n : BitVec 3) (a : BitVec 5) (f : BitVec 3) (s : State) : Out :=
  .next (s.land 1 (if f = 6#3 then .agA n (s.sreg a) else .agS n f.toNat (s.sreg a)) 0)

/-- AGSTEP (R108): A + sA modulo 2^64, A read at issue. -/
def execAgstep (_t : BitVec 3) (_i : BitVec 2) (n : BitVec 3) (a : BitVec 5) (s : State) : Out :=
  .next (s.land 1 (.agA n ((s.me.agOf n).a + s.sreg a)) 0)

/-- AGRD (R108). -/
def execAgrd (_t : BitVec 3) (_i : BitVec 2) (d : BitVec 5) (n f : BitVec 3) (s : State) : Out :=
  .next (s.landS 1 d ((s.me.agOf n).field f))

end Sys2Proof.Machine
end

