-- ==== Sys2Proof/Machine/Vector.lean ====
section
/-! DEFINITION. The vector slots VA and VB (R128-R154). -/

namespace Sys2Proof.Machine

/-! ### Shared operations -/

/-- Latency of an element operation: 4 fused, 3 floating arithmetic, else 2 (R46 Table 10). -/
def EOp.lat (op : EOp) (fl : Bool) : Nat :=
  match op with
  | .fma | .fms => 4
  | .add | .sub | .mul | .vmin | .vmax | .abs | .neg => if fl then 3 else 2
  | .and | .or | .xor | .not | .shl | .shr | .sar => 2

/-- A two-source element-wise operation, in either slot (R26, R131, R134). -/
def State.elem2 (s : State) (op : EOp) (d a b : BitVec 5) (h : BitVec 2) (k : BitVec 3) (l : BitVec 1) : State :=
  let p := s.shape h
  let (va, ca) := s.vsrc a
  let (vb, cb) := s.vsrc b
  let x := elems p va
  let y := elems p vb
  let z := elems p (s.vold d)
  s.vecOp (op.lat (tyFloat p.ty)) p d k l (ca ||| cb) fun e => elemOp op p (nth x e) (nth y e) (nth z e)

/-- A one-source operation on elements, with its latency (R131). -/
def State.elem1 (s : State) (lat : Nat) (f : Shape → Nat → Nat × BitVec 12) (d a : BitVec 5) (h : BitVec 2) (k : BitVec 3) (l : BitVec 1) : State :=
  let p := s.shape h
  let (va, ca) := s.vsrc a
  let x := elems p va
  s.vecOp lat p d k l ca fun e => f p (nth x e)

/-- The elements of row r whose mask bit is 1 and that lie within the row limit, as columns (R148). -/
def State.inputs (s : State) (p : Shape) (k : BitVec 3) (l : BitVec 1) (r : Nat) : List Nat :=
  (List.range p.cols).filter fun c => (s.me.kreg k).getLsbD (r * p.cols + c) && inRow p (l = 1) s.me.rlen (r * p.cols + c)

/-- A fold over values that gathers causes; none for no values. -/
def foldOp (f : Nat → Nat → Nat × BitVec 12) : List Nat → Option (Nat × BitVec 12)
  | [] => none
  | x :: r => some (r.foldl (fun acc y => let q := f acc.1 y; (q.1, acc.2 ||| q.2)) (x, 0))

/-- A row reduction: column 0 receives the result, every other column 0 (R148). -/
def State.reduce (s : State) (f : Shape → List (Nat × Nat) → Nat × BitVec 12) (d a : BitVec 5) (h : BitVec 2) (k : BitVec 3) (l : BitVec 1) : State :=
  let p := s.shape h
  let (va, ca) := s.vsrc a
  let x := elems p va
  let rows := (List.range p.rows).map fun r => f p ((s.inputs p k l r).map fun c => (c, nth x (r * p.cols + c)))
  let out := rows.flatMap fun q => q.1 :: List.replicate (p.cols - 1) 0
  s.land 6 (.v d (ofElems p out)) (rows.foldl (fun c q => c ||| q.2) ca)

/-- A value that is a result by itself: of a NaN the canonical one, and INV of a signalling one (R112). -/
def aloneIn (p : Shape) (v : Nat) : Nat × BitVec 12 :=
  if tyFloat p.ty && ((tyFmt p.ty).decode v).isNan then ((tyFmt p.ty).qnan, if (tyFmt p.ty).decode v == .nan true then cINV else 0) else (v, 0)

/-- A signalling input of a reduction sets INV, a single one too (R112, R148). -/
def sigInv (p : Shape) (l : List (Nat × Nat)) : BitVec 12 :=
  if tyFloat p.ty ∧ l.any (fun q => (tyFmt p.ty).decode q.2 == .nan true) then cINV else 0

/-- The sum of a row's inputs in order (R148), a NaN as the canonical one even of a single input (R112). -/
def rowSum (p : Shape) (l : List (Nat × Nat)) : Nat × BitVec 12 :=
  ((foldOp (sumStep p) (l.map Prod.snd)).map fun q => ((aloneIn p q.1).1, q.2 ||| sigInv p l)).getD (0, 0)

/-- The extreme of a row, a NaN as the canonical one even of a single input (R112); with no inputs the identity of R148. -/
def rowExt (isMin : Bool) (p : Shape) (l : List (Nat × Nat)) : Nat × BitVec 12 :=
  let step (a b : Nat) : Nat × BitVec 12 := elemOp (if isMin then .vmin else .vmax) p a b 0
  match foldOp step (l.map Prod.snd) with
  | some (v, c) =>
    ((aloneIn p v).1, c ||| sigInv p l)
  | none =>
    if tyFloat p.ty then ((tyFmt p.ty).infBits !isMin, 0)
    else (ofIntBits p.bits (if isMin then (tyRange p.ty).2 else (tyRange p.ty).1), 0)

/-- Whether element y ranks above x for `vargmax`: NaN below -inf (R148). -/
def above (p : Shape) (y x : Nat) : Bool :=
  if tyFloat p.ty then
    let a := (tyFmt p.ty).decode x
    let b := (tyFmt p.ty).decode y
    if b.isNan then false else if a.isNan then true else fvLt a b
  else tyInt p.ty x < tyInt p.ty y

/-- The column of the first greatest input, as an element (R148). -/
def rowArg (p : Shape) (l : List (Nat × Nat)) : Nat × BitVec 12 :=
  match l with
  | [] => (0, 0)
  | q :: r =>
    let c := (r.foldl (fun best y => if above p y.2 best.2 then y else best) q).1
    let (v, cv) := convert 7 p.ty p.mode c
    (v, cv ||| sigInv p l)

/-- A special function of VB with its latency (R147). -/
def State.special (s : State) (lat fn : Nat) (d a : BitVec 5) (h : BitVec 2) (k : BitVec 3) (l : BitVec 1) : State :=
  s.elem1 lat (specialElem fn) d a h k l

/-- Whether a bank is granted to the context at hand (R220). -/
def State.granted (s : State) (b : BitVec 3) : Bool := vget (n := 3) s.here.grant b = some s.cur.x

/-- The class of a bank: 0 MATRIX, 1 FRONT, 2 FREE (R221). -/
def State.bankClass (s : State) (b : BitVec 3) : BitVec 2 := vget (n := 3) s.here.cls b

/-- `vacr` (R152, R153). -/
def State.vacr (s : State) (d : BitVec 5) (b : BitVec 3) (i : BitVec 5) : State :=
  if !(s.granted b) then s.fatalMe .permission
  else if s.bankClass b = 1 then s.land 3 (.v d 0) cINV
  else s.land 3 (.v d (fld (vget (n := 3) s.here.banks b) (4096 * i.toNat) 4096)) 0

/-- `vacw` (R152, R153): the write is a compute result of latency 3. -/
def State.vacw (s : State) (a : BitVec 5) (b : BitVec 3) (i : BitVec 5) : State :=
  if !(s.granted b) then s.fatalMe .permission
  else
    let (v, c) := s.vsrc a
    if s.bankClass b = 1 then s.land 3 .none (cINV ||| c) else s.land 3 (.bank b i v) c

/-! ### Element-wise operations -/

/-- VaddVa (R134 Table 3). -/
def execVaddVa (_t : BitVec 3) (_i : BitVec 2) (d a b : BitVec 5) (h : BitVec 2) (k : BitVec 3) (l : BitVec 1) (s : State) : Out :=
  .next (s.elem2 .add d a b h k l)

/-- VsubVa (R134 Table 3). -/
def execVsubVa (_t : BitVec 3) (_i : BitVec 2) (d a b : BitVec 5) (h : BitVec 2) (k : BitVec 3) (l : BitVec 1) (s : State) : Out :=
  .next (s.elem2 .sub d a b h k l)

/-- VmulVa (R134 Table 3). -/
def execVmulVa (_t : BitVec 3) (_i : BitVec 2) (d a b : BitVec 5) (h : BitVec 2) (k : BitVec 3) (l : BitVec 1) (s : State) : Out :=
  .next (s.elem2 .mul d a b h k l)

/-- VfmaVa (R134 Table 3). -/
def execVfmaVa (_t : BitVec 3) (_i : BitVec 2) (d a b : BitVec 5) (h : BitVec 2) (k : BitVec 3) (l : BitVec 1) (s : State) : Out :=
  .next (s.elem2 .fma d a b h k l)

/-- Vfms (R134 Table 3). -/
def execVfms (_t : BitVec 3) (_i : BitVec 2) (d a b : BitVec 5) (h : BitVec 2) (k : BitVec 3) (l : BitVec 1) (s : State) : Out :=
  .next (s.elem2 .fms d a b h k l)

/-- VminVa (R135). -/
def execVminVa (_t : BitVec 3) (_i : BitVec 2) (d a b : BitVec 5) (h : BitVec 2) (k : BitVec 3) (l : BitVec 1) (s : State) : Out :=
  .next (s.elem2 .vmin d a b h k l)

/-- VmaxVa (R135). -/
def execVmaxVa (_t : BitVec 3) (_i : BitVec 2) (d a b : BitVec 5) (h : BitVec 2) (k : BitVec 3) (l : BitVec 1) (s : State) : Out :=
  .next (s.elem2 .vmax d a b h k l)

/-- Vand (R134 Table 3). -/
def execVand (_t : BitVec 3) (_i : BitVec 2) (d a b : BitVec 5) (h : BitVec 2) (k : BitVec 3) (l : BitVec 1) (s : State) : Out :=
  .next (s.elem2 .and d a b h k l)

/-- Vor (R134 Table 3). -/
def execVor (_t : BitVec 3) (_i : BitVec 2) (d a b : BitVec 5) (h : BitVec 2) (k : BitVec 3) (l : BitVec 1) (s : State) : Out :=
  .next (s.elem2 .or d a b h k l)

/-- Vxor (R134 Table 3). -/
def execVxor (_t : BitVec 3) (_i : BitVec 2) (d a b : BitVec 5) (h : BitVec 2) (k : BitVec 3) (l : BitVec 1) (s : State) : Out :=
  .next (s.elem2 .xor d a b h k l)

/-- Vshl (R134 Table 3). -/
def execVshl (_t : BitVec 3) (_i : BitVec 2) (d a b : BitVec 5) (h : BitVec 2) (k : BitVec 3) (l : BitVec 1) (s : State) : Out :=
  .next (s.elem2 .shl d a b h k l)

/-- Vshr (R134 Table 3). -/
def execVshr (_t : BitVec 3) (_i : BitVec 2) (d a b : BitVec 5) (h : BitVec 2) (k : BitVec 3) (l : BitVec 1) (s : State) : Out :=
  .next (s.elem2 .shr d a b h k l)

/-- Vsar (R134 Table 3). -/
def execVsar (_t : BitVec 3) (_i : BitVec 2) (d a b : BitVec 5) (h : BitVec 2) (k : BitVec 3) (l : BitVec 1) (s : State) : Out :=
  .next (s.elem2 .sar d a b h k l)

/-- Vabs (R134). -/
def execVabs (_t : BitVec 3) (_i : BitVec 2) (d a : BitVec 5) (h : BitVec 2) (k : BitVec 3) (l : BitVec 1) (s : State) : Out :=
  .next (s.elem1 (EOp.lat .abs (tyFloat (s.shape h).ty)) (fun p x => elemOp .abs p x 0 0) d a h k l)

/-- Vneg (R134). -/
def execVneg (_t : BitVec 3) (_i : BitVec 2) (d a : BitVec 5) (h : BitVec 2) (k : BitVec 3) (l : BitVec 1) (s : State) : Out :=
  .next (s.elem1 (EOp.lat .neg (tyFloat (s.shape h).ty)) (fun p x => elemOp .neg p x 0 0) d a h k l)

/-- Vnot (R134). -/
def execVnot (_t : BitVec 3) (_i : BitVec 2) (d a : BitVec 5) (h : BitVec 2) (k : BitVec 3) (l : BitVec 1) (s : State) : Out :=
  .next (s.elem1 2 (fun p x => elemOp .not p x 0 0) d a h k l)

/-- VaddVb (R26, R134). -/
def execVaddVb (_t : BitVec 3) (_i : BitVec 2) (d a b : BitVec 5) (h : BitVec 2) (k : BitVec 3) (l : BitVec 1) (s : State) : Out :=
  .next (s.elem2 .add d a b h k l)

/-- VsubVb (R26, R134). -/
def execVsubVb (_t : BitVec 3) (_i : BitVec 2) (d a b : BitVec 5) (h : BitVec 2) (k : BitVec 3) (l : BitVec 1) (s : State) : Out :=
  .next (s.elem2 .sub d a b h k l)

/-- VmulVb (R26, R134). -/
def execVmulVb (_t : BitVec 3) (_i : BitVec 2) (d a b : BitVec 5) (h : BitVec 2) (k : BitVec 3) (l : BitVec 1) (s : State) : Out :=
  .next (s.elem2 .mul d a b h k l)

/-- VfmaVb (R26, R134). -/
def execVfmaVb (_t : BitVec 3) (_i : BitVec 2) (d a b : BitVec 5) (h : BitVec 2) (k : BitVec 3) (l : BitVec 1) (s : State) : Out :=
  .next (s.elem2 .fma d a b h k l)

/-- VminVb (R26, R135). -/
def execVminVb (_t : BitVec 3) (_i : BitVec 2) (d a b : BitVec 5) (h : BitVec 2) (k : BitVec 3) (l : BitVec 1) (s : State) : Out :=
  .next (s.elem2 .vmin d a b h k l)

/-- VmaxVb (R26, R135). -/
def execVmaxVb (_t : BitVec 3) (_i : BitVec 2) (d a b : BitVec 5) (h : BitVec 2) (k : BitVec 3) (l : BitVec 1) (s : State) : Out :=
  .next (s.elem2 .vmax d a b h k l)

/-- Vclamp: min(max(vD, vA), vB), vD as before the write (R135). -/
def execVclamp (_t : BitVec 3) (_i : BitVec 2) (d a b : BitVec 5) (h : BitVec 2) (k : BitVec 3) (l : BitVec 1) (s : State) : Out :=
  let p := s.shape h
  let (va, ca) := s.vsrc a
  let (vb, cb) := s.vsrc b
  let x := elems p va
  let y := elems p vb
  let z := elems p (s.vold d)
  .next (s.vecOp (if tyFloat p.ty then 3 else 2) p d k l (ca ||| cb) fun e =>
    let (m, c1) := elemOp .vmax p (nth z e) (nth x e) 0
    let (r, c2) := elemOp .vmin p m (nth y e) 0
    (r, c1 ||| c2))

/-- Vsat (R136): saturating on integer types; it takes no mask. -/
def execVsat (_t : BitVec 3) (_i : BitVec 2) (d a b : BitVec 5) (h : BitVec 2) (o : BitVec 2) (l : BitVec 1) (s : State) : Out :=
  let p := s.shape h
  let (va, ca) := s.vsrc a
  let (vb, cb) := s.vsrc b
  let x := elems p va
  let y := elems p vb
  .next (s.vecOp 2 p d 0 l (ca ||| cb) fun e => satOp o.toNat p (nth x e) (nth y e))

/-! ### Moves, constants and selection (R137) -/

/-- Vmov. -/
def execVmov (_t : BitVec 3) (_i : BitVec 2) (d a : BitVec 5) (h : BitVec 2) (k : BitVec 3) (l : BitVec 1) (s : State) : Out := .next (s.elem1 2 (fun _ x => (x, 0)) d a h k l)

/-- Vsel: vA where kC is 1, else vB; only the row limit decides who takes part. -/
def execVsel (_t : BitVec 3) (_i : BitVec 2) (d a b : BitVec 5) (h : BitVec 2) (k : BitVec 3) (l : BitVec 1) (s : State) : Out :=
  let p := s.shape h
  let (va, ca) := s.vsrc a
  let (vb, cb) := s.vsrc b
  let x := elems p va
  let y := elems p vb
  let m := s.me.kreg k
  .next (s.vecOp 2 p d 0 l (ca ||| cb) fun e => (if m.getLsbD e then nth x e else nth y e, 0))

/-- Vbcast: the low bits of sA into every element that takes part. -/
def execVbcast (_t : BitVec 3) (_i : BitVec 2) (d a : BitVec 5) (h : BitVec 2) (k : BitVec 3) (l : BitVec 1) (s : State) : Out :=
  let p := s.shape h
  let v := (s.sreg a).toNat % 2 ^ p.bits
  .next (s.vecOp 2 p d k l 0 fun _ => (v, 0))

/-- The element that `vli` writes for a type. -/
def vliElem (t : Nat) (m : BitVec 16) : Nat :=
  if t = 10 then m.toNat * 2 ^ 16
  else if tyBits t ≤ 16 then m.toNat % 2 ^ tyBits t
  else if tySigned t then ofIntBits (tyBits t) m.toInt else m.toNat

/-- Vli: the type of sh0 decides; masks and rows do not. -/
def execVli (_t : BitVec 3) (_i : BitVec 2) (d : BitVec 5) (m : BitVec 16) (s : State) : Out :=
  let p := s.shape 0
  .next (s.land 2 (.v d (ofElems p (List.replicate p.count (vliElem p.ty m)))) 0)

/-- Vext: 512 bytes from 8·n of vA followed by vB. -/
def execVext (_t : BitVec 3) (_i : BitVec 2) (d a b : BitVec 5) (m : BitVec 6) (s : State) : Out :=
  let (va, ca) := s.vsrc a
  let (vb, cb) := s.vsrc b
  .next (s.land 2 (.v d (fld (vb ++ va) (64 * m.toNat) 4096)) (ca ||| cb))

/-! ### Compares and masks (R138-R140) -/

/-- Vcmp writes every bit of kD. -/
def execVcmp (_t : BitVec 3) (_i : BitVec 2) (c : BitVec 3) (a b : BitVec 5) (h : BitVec 2) (e : BitVec 3) (l : BitVec 1) (s : State) : Out :=
  let p := s.shape h
  let (va, ca) := s.vsrc a
  let (vb, cb) := s.vsrc b
  let x := elems p va
  let y := elems p vb
  let r := (List.range p.count).map fun i =>
    if inRow p (l = 1) s.me.rlen i then cmpOp e.toNat p (nth x i) (nth y i) else (false, 0)
  .next (s.land 2 (.k c (packElems 512 1 (r.map fun q => bit q.1))) (r.foldl (fun z q => z ||| q.2) (ca ||| cb)))

/-- Kop (R139). -/
def execKop (_t : BitVec 3) (_i : BitVec 2) (c e f : BitVec 3) (o : BitVec 4) (s : State) : Out :=
  let x := s.me.kreg e
  let y := s.me.kreg f
  let r : Mask := match o.toNat with
    | 0 => x &&& y
    | 1 => x ||| y
    | 2 => x ^^^ y
    | 3 => x &&& ~~~y
    | 4 => ~~~x
    | _ => x
  .next (s.land 2 (.k c r) 0)

/-- The mask bits of the elements that take part under the row limit (R140). -/
def State.tested (s : State) (h : BitVec 2) (k : BitVec 3) (l : BitVec 1) : List Bool :=
  let p := s.shape h
  ((List.range p.count).filter fun e => inRow p (l = 1) s.me.rlen e).map fun e => (s.me.kreg k).getLsbD e

/-- Vany (R140). -/
def execVany (_t : BitVec 3) (_i : BitVec 2) (h : BitVec 2) (k : BitVec 3) (l : BitVec 1) (s : State) : Out := .next (s.landCq 3 ((s.tested h k l).any id))

/-- Vall (R140). -/
def execVall (_t : BitVec 3) (_i : BitVec 2) (h : BitVec 2) (k : BitVec 3) (l : BitVec 1) (s : State) : Out := .next (s.landCq 3 ((s.tested h k l).all id))

/-! ### Conversion and rounding (R141, R142) -/

/-- Vcvt: N = 512 / max(sX, sY) elements in mode rnd; narrower results leave the rest zero. -/
def execVcvt (_t : BitVec 3) (_i : BitVec 2) (d a : BitVec 5) (y : BitVec 4) (h : BitVec 2) (r : BitVec 2) (s : State) : Out :=
  let p := s.shape h
  let n := 4096 / (if p.bits < tyBits y.toNat then tyBits y.toNat else p.bits)
  let (va, ca) := s.vsrc a
  let out := ((elems p va).take n).map fun v => convert p.ty y.toNat r.toNat v
  .next (s.land 3 (.v d (packElems 4096 (tyBits y.toNat) (out.map Prod.fst))) (out.foldl (fun c q => c ||| q.2) ca))

/-- Vround (R142). -/
def execVround (_t : BitVec 3) (_i : BitVec 2) (d a : BitVec 5) (h : BitVec 2) (k : BitVec 3) (l : BitVec 1) (s : State) : Out := .next (s.elem1 3 roundElem d a h k l)

/-! ### Shapes and row lengths (R143, R144) -/

/-- Vshape: a valid record is written; another sets INV. -/
def execVshape (_t : BitVec 3) (_i : BitVec 2) (n : BitVec 2) (a : BitVec 5) (s : State) : Out :=
  let v : W32 := (s.sreg a).setWidth 32
  .next (if shapeOk v then s.land 1 (.sh n v) 0 else s.land 1 .none cINV)

/-- An element as a row length: clamped to [0, 255], floating types under RZ, NaN 0 (R144). -/
def lenElem (p : Shape) (v : Nat) : Nat := (convert p.ty 4 1 v).1

/-- Vrlen: element (r, 0) of each row; 0 beyond the rows. -/
def execVrlen (_t : BitVec 3) (_i : BitVec 2) (a : BitVec 5) (h : BitVec 2) (s : State) : Out :=
  let p := s.shape h
  let (va, ca) := s.vsrc a
  let x := elems p va
  .next (s.land 1 (.rlen (packElems 512 8 ((List.range p.rows).map fun r => lenElem p (nth x (r * p.cols))))) ca)

/-! ### Batched small matrices (R127, R145, R146) -/

/-- The chain of one C(m, n) over len steps (R127). -/
def bmmChain (p : Shape) (x y : List Nat) (base m n : Nat) (acc : Nat) : Nat → Nat × BitVec 12
  | 0 => (acc, 0)
  | k + 1 =>
    let (v, c) := bmmChain p x y base m n acc k
    let (r, c2) := elemOp .fma p (nth x (base + m * p.kmax + k)) (nth y (base + k * p.n + n)) v
    (r, c ||| c2)

/-- Vbmm: in each row C += A B, mask bits choosing the C(m, n) written; VA is reserved for kmax cycles. -/
def execVbmm (_t : BitVec 3) (_i : BitVec 2) (d a b : BitVec 5) (h : BitVec 2) (k : BitVec 3) (l : BitVec 1) (s : State) : Out :=
  let p := s.shape h
  let lat := 4 * p.kmax + 2
  let (va, ca) := s.vsrc a
  let (vb, cb) := s.vsrc b
  let s1 := s.modMe fun cx => { cx with vbmm := p.kmax }
  if p.cols < p.m * p.kmax ∨ p.cols < p.kmax * p.n ∨ p.cols < p.m * p.n then .next (s1.land lat .none (cINV ||| ca ||| cb))
  else
    let x := elems p va
    let y := elems p vb
    let rl := s.me.rlen
    let long := l = 1 ∧ (List.range p.rows).any fun r => p.kmax < rlenAt rl r
    let len (r : Nat) : Nat := if l = 1 then Nat.min (rlenAt rl r) p.kmax else p.kmax
    let (out, c) := mapElems (fun e => (s.me.kreg k).getLsbD e && e % p.cols < p.m * p.n)
      (fun e =>
        let r := e / p.cols
        let j := e % p.cols
        bmmChain p x y (r * p.cols) (j / p.n) (j % p.n) (nth (elems p (s.vold d)) e) (len r))
      (elems p (s.vold d))
    .next (s1.land lat (.v d (ofElems p out)) (c ||| ca ||| cb ||| if long then cINV else 0))

/-! ### Special functions and division (R147) -/

/-- Vexp2 (R147 Table 5). -/
def execVexp2 (_t : BitVec 3) (_i : BitVec 2) (d a : BitVec 5) (h : BitVec 2) (k : BitVec 3) (l : BitVec 1) (s : State) : Out := .next (s.special 8 0 d a h k l)

/-- Vlog2 (R147 Table 5). -/
def execVlog2 (_t : BitVec 3) (_i : BitVec 2) (d a : BitVec 5) (h : BitVec 2) (k : BitVec 3) (l : BitVec 1) (s : State) : Out := .next (s.special 8 1 d a h k l)

/-- Vrcp (R147 Table 5). -/
def execVrcp (_t : BitVec 3) (_i : BitVec 2) (d a : BitVec 5) (h : BitVec 2) (k : BitVec 3) (l : BitVec 1) (s : State) : Out := .next (s.special 8 2 d a h k l)

/-- Vrsqrt (R147 Table 5). -/
def execVrsqrt (_t : BitVec 3) (_i : BitVec 2) (d a : BitVec 5) (h : BitVec 2) (k : BitVec 3) (l : BitVec 1) (s : State) : Out := .next (s.special 8 3 d a h k l)

/-- Vsqrt (R147 Table 5). -/
def execVsqrt (_t : BitVec 3) (_i : BitVec 2) (d a : BitVec 5) (h : BitVec 2) (k : BitVec 3) (l : BitVec 1) (s : State) : Out := .next (s.special 8 4 d a h k l)

/-- Vtanh (R147 Table 5). -/
def execVtanh (_t : BitVec 3) (_i : BitVec 2) (d a : BitVec 5) (h : BitVec 2) (k : BitVec 3) (l : BitVec 1) (s : State) : Out := .next (s.special 10 5 d a h k l)

/-- Vsigm (R147 Table 5). -/
def execVsigm (_t : BitVec 3) (_i : BitVec 2) (d a : BitVec 5) (h : BitVec 2) (k : BitVec 3) (l : BitVec 1) (s : State) : Out := .next (s.special 10 6 d a h k l)

/-- Vdiv (R147). -/
def execVdiv (_t : BitVec 3) (_i : BitVec 2) (d a b : BitVec 5) (h : BitVec 2) (k : BitVec 3) (l : BitVec 1) (s : State) : Out :=
  let p := s.shape h
  let (va, ca) := s.vsrc a
  let (vb, cb) := s.vsrc b
  let x := elems p va
  let y := elems p vb
  .next (s.vecOp 12 p d k l (ca ||| cb) fun e => divElem p (nth x e) (nth y e))

/-! ### Reductions and scan (R148, R149) -/

/-- Vrsum. -/
def execVrsum (_t : BitVec 3) (_i : BitVec 2) (d a : BitVec 5) (h : BitVec 2) (k : BitVec 3) (l : BitVec 1) (s : State) : Out := .next (s.reduce rowSum d a h k l)

/-- Vrmax. -/
def execVrmax (_t : BitVec 3) (_i : BitVec 2) (d a : BitVec 5) (h : BitVec 2) (k : BitVec 3) (l : BitVec 1) (s : State) : Out := .next (s.reduce (rowExt false) d a h k l)

/-- Vrmin. -/
def execVrmin (_t : BitVec 3) (_i : BitVec 2) (d a : BitVec 5) (h : BitVec 2) (k : BitVec 3) (l : BitVec 1) (s : State) : Out := .next (s.reduce (rowExt true) d a h k l)

/-- Vargmax. -/
def execVargmax (_t : BitVec 3) (_i : BitVec 2) (d a : BitVec 5) (h : BitVec 2) (k : BitVec 3) (l : BitVec 1) (s : State) : Out := .next (s.reduce rowArg d a h k l)

/-- Vscan: the running sum of the inputs up to each column; columns beyond the row limit are unchanged. -/
def execVscan (_t : BitVec 3) (_i : BitVec 2) (d a : BitVec 5) (h : BitVec 2) (k : BitVec 3) (l : BitVec 1) (s : State) : Out :=
  let p := s.shape h
  let (va, ca) := s.vsrc a
  let x := elems p va
  let run (r : Nat) : List (Nat × BitVec 12) :=
    ((List.range p.cols).foldl (fun (q : List (Nat × BitVec 12) × Option Nat) c =>
      let e := r * p.cols + c
      let inp := (s.me.kreg k).getLsbD e && inRow p (l = 1) s.me.rlen e
      let (acc, cause) := if inp then (match q.2 with
        | none => let (v, z) := aloneIn p (nth x e); (some v, z)
        | some t => let (v, z) := sumStep p t (nth x e); (some v, z)) else (q.2, 0)
      (q.1 ++ [(acc.getD 0, cause)], acc)) ([], none)).1
  let all := (List.range p.rows).flatMap run
  let (out, c) := mapElems (inRow p (l = 1) s.me.rlen) (fun e => all.getD e (0, 0)) (elems p (s.vold d))
  .next (s.land 8 (.v d (ofElems p out)) (c ||| ca))

/-! ### Permutes and compaction (R150, R151) -/

/-- Vperm. -/
def execVperm (_t : BitVec 3) (_i : BitVec 2) (d a b : BitVec 5) (h : BitVec 2) (k : BitVec 3) (l : BitVec 1) (s : State) : Out :=
  let p := s.shape h
  let (va, ca) := s.vsrc a
  let (vb, cb) := s.vsrc b
  let x := elems p va
  let y := elems p vb
  .next (s.vecOp 4 p d k l (ca ||| cb) fun e => (nth x (nth y e % p.count), 0))

/-- Vtrans: vD(c·NR + r) := vA(r·E + c). -/
def execVtrans (_t : BitVec 3) (_i : BitVec 2) (d a : BitVec 5) (h : BitVec 2) (s : State) : Out :=
  let p := s.shape h
  let (va, ca) := s.vsrc a
  let x := elems p va
  .next (s.land 4 (.v d (ofElems p ((List.range p.count).map fun i => nth x (i % p.rows * p.cols + i / p.rows)))) ca)

/-- Vrot: columns rotate upwards by sB mod E. -/
def execVrot (_t : BitVec 3) (_i : BitVec 2) (d a b : BitVec 5) (h : BitVec 2) (k : BitVec 3) (s : State) : Out :=
  let p := s.shape h
  let (va, ca) := s.vsrc a
  let x := elems p va
  let n := (s.sreg b).toNat % p.cols
  .next (s.vecOp 4 p d k 0 ca fun e => (nth x (e / p.cols * p.cols + (e % p.cols + p.cols - n) % p.cols), 0))

/-- The rows of a register. -/
def rowsOf (p : Shape) (x : List Nat) : List (List Nat) := (List.range p.rows).map fun r => (x.drop (r * p.cols)).take p.cols

/-- Vcompact: the selected rows move together; the rest is zero. -/
def execVcompact (_t : BitVec 3) (_i : BitVec 2) (d a : BitVec 5) (h : BitVec 2) (k : BitVec 3) (s : State) : Out :=
  let p := s.shape h
  let (va, ca) := s.vsrc a
  let m := s.me.kreg k
  let rows := rowsOf p (elems p va)
  let pick := ((List.range p.rows).filter fun r => m.getLsbD (r * p.cols)).flatMap fun r => rows.getD r []
  .next (s.land 6 (.v d (ofElems p pick)) ca)

/-- Vexpand: selected rows take the rows of vA in order; the others are zero. -/
def execVexpand (_t : BitVec 3) (_i : BitVec 2) (d a : BitVec 5) (h : BitVec 2) (k : BitVec 3) (s : State) : Out :=
  let p := s.shape h
  let (va, ca) := s.vsrc a
  let m := s.me.kreg k
  let rows := rowsOf p (elems p va)
  let out := (List.range p.rows).flatMap fun r =>
    if m.getLsbD (r * p.cols) then rows.getD (((List.range r).filter fun q => m.getLsbD (q * p.cols)).length) []
    else List.replicate p.cols 0
  .next (s.land 6 (.v d (ofElems p out)) ca)

/-! ### Bank access (R152, R153) -/

/-- VACR, immediate index, in VA. -/
def execVacrVaImm (_t : BitVec 3) (_i : BitVec 2) (d : BitVec 5) (b : BitVec 3) (x : BitVec 5) (s : State) : Out := .next (s.vacr d b x)

/-- VACR, index sB[4:0], in VA. -/
def execVacrVaReg (_t : BitVec 3) (_i : BitVec 2) (d : BitVec 5) (b : BitVec 3) (x : BitVec 5) (s : State) : Out := .next (s.vacr d b ((s.sreg x).setWidth 5))

/-- VACW, immediate index, in VA. -/
def execVacwVaImm (_t : BitVec 3) (_i : BitVec 2) (a : BitVec 5) (b : BitVec 3) (x : BitVec 5) (s : State) : Out := .next (s.vacw a b x)

/-- VACW, index sB[4:0], in VA. -/
def execVacwVaReg (_t : BitVec 3) (_i : BitVec 2) (a : BitVec 5) (b : BitVec 3) (x : BitVec 5) (s : State) : Out := .next (s.vacw a b ((s.sreg x).setWidth 5))

/-- VACR, immediate index, in VB. -/
def execVacrVbImm (_t : BitVec 3) (_i : BitVec 2) (d : BitVec 5) (b : BitVec 3) (x : BitVec 5) (s : State) : Out := .next (s.vacr d b x)

/-- VACR, index sB[4:0], in VB. -/
def execVacrVbReg (_t : BitVec 3) (_i : BitVec 2) (d : BitVec 5) (b : BitVec 3) (x : BitVec 5) (s : State) : Out := .next (s.vacr d b ((s.sreg x).setWidth 5))

/-- VACW, immediate index, in VB. -/
def execVacwVbImm (_t : BitVec 3) (_i : BitVec 2) (a : BitVec 5) (b : BitVec 3) (x : BitVec 5) (s : State) : Out := .next (s.vacw a b x)

/-- VACW, index sB[4:0], in VB. -/
def execVacwVbReg (_t : BitVec 3) (_i : BitVec 2) (a : BitVec 5) (b : BitVec 3) (x : BitVec 5) (s : State) : Out := .next (s.vacw a b ((s.sreg x).setWidth 5))

end Sys2Proof.Machine
end

