-- ==== Sys2Proof/Machine/Matrix.lean ====
section
/-! DEFINITION. The matrix engine: the MX words of its queue, its operations, its routine words, and parameter, bank and format-table
words (R121-R126, R219-R246). -/

namespace Sys2Proof.Machine

/-! ### The engine queue (R222, R223) -/

/-- Places of the engine queue in use: waiting, running, and finished but not complete (R222). -/
def Core.places (k : Core) : Nat := k.mq.length + k.call.toList.length + k.mrun.toList.length + k.tails.length

/-- Banks an accepted operation will write (R224). -/
def MOp.writes (m : MOp) : List (BitVec 3) :=
  match m.kind with
  | .call | .aclr | .acmv => [m.d]
  | .mload => []

/-- Banks it will read. -/
def MOp.reads (m : MOp) : List (BitVec 3) :=
  match m.kind with
  | .acmv => [m.src]
  | .call | .aclr | .mload => []

/-- Every accepted operation of a core that has not completed. -/
def Core.ops (k : Core) : List MOp := k.mq ++ (k.call.toList.map fun a => a.op) ++ k.mrun.toList ++ k.tails.map fun a => a.op

/-- An accepted matrix operation will write a bank (R153, R224). -/
def Core.willWrite (k : Core) (b : BitVec 3) : Bool := k.ops.any fun m => m.writes.contains b

/-- An accepted matrix operation reads or writes a bank. -/
def Core.uses (k : Core) (b : BitVec 3) : Bool := k.ops.any fun m => (m.writes ++ m.reads).contains b

/-- The front operations of a bank, waiting or running (R256). -/
def Core.frontBusy (k : Core) (f : Fin 2) : Bool := !(k.fq[f].isEmpty) || k.frun[f].isSome

/-- Accepted front operations that have not completed, but for those of ended units, whose results are discarded (R258, R343). -/
def Core.frontOps (k : Core) : List FOp :=
  k.fq.toList.flatten ++ k.frun.toList.flatMap fun r => (r.toList.filter fun (f : FRun) => !f.dead).map fun (f : FRun) => f.op

/-- Front operations that name a bank as their bank or their source. DESIGN CHOICE: an `fmrg` counts on its source too, which its inserts are taken from
(R256, R257; log entry 94). -/
def Core.frontUses (k : Core) (b : BitVec 3) : Bool := k.frontOps.any fun f => f.bank = b || (f.kind = .fmrg && f.src = b)

/-- The context has an accepted matrix or front operation outstanding (R244). -/
def Core.outstanding (k : Core) (x : CtxId) : Bool := (k.ops.any fun m => m.of k.ctx[x]) || k.frontOps.any fun f => f.x = x

/-- A `vacw` result of some context, in flight or latched by a freeze, is still to land in a bank: the engine's first access of the bank follows it
(R152, R153). -/
def Core.bankLanding (k : Core) (b : BitVec 3) : Bool :=
  let hits (l : List Land) : Bool := l.any fun d => match d.dest with
    | .bank n _ _ => n = b
    | _ => false
  k.ctx.toList.any fun cx => hits cx.lands || ((cx.shadow.map fun h => hits h.lands).getD false)

/-- Accepted operation of the word at hand, before its kind's fields (R239). -/
def State.newOp (s : State) (kind : MKind) : MOp :=
  let cx := s.me
  { kind := kind, seq := s.cur.tok, x := s.cur.x, launch := cx.launch, unit := cx.unit, org := s.cur.org, mp := cx.mp, d := 0, src := 0
    mode := 0, idx := 0, na := false, nega := false, negb := false, ft := 0, ta := none, tb := none, addr := 0, after := s.here.cyc + 4 }

def State.accept (s : State) (m : MOp) : State := s.modHere fun k => { k with mq := k.mq ++ [m] }

/-- The iteration index of the level FTLEVEL names, modulo 16: 0 if that level is inactive (R125). -/
def Ctx.ftIndex (cx : Ctx) : BitVec 4 :=
  match cx.loops.toList[cx.ftlevel.toNat]? with
  | some l => if l.active then l.index.setWidth 4 else 0
  | none => 0

/-- The format-table entry that a table call would use (R125). -/
def Ctx.ftEntry (cx : Ctx) : W32 := vget (n := 4) cx.ft cx.ftIndex

/-- MCALL is accepted with copies of its parameters, table entry and ring selections (R239). -/
def execMcall (_t : BitVec 3) (_i : BitVec 2) (m : BitVec 8) (d : BitVec 3) (a e f : BitVec 1) (s : State) : Out :=
  let cx := s.me
  let name (r : BitVec 3) : Option (BitVec 8) := (cx.name false (fld (vget (n := 3) cx.mp r) 0 9)).map (BitVec.ofNat 8)
  .next (if !(s.granted d) then s.fatalMe .permission
    else s.accept { s.newOp .call with
      d := d, idx := m, na := a = 1, nega := e = 1, negb := f = 1, ft := s.cur.ops.ft, ta := name 0, tb := name 1 })

/-- MPSET writes a shadow parameter register; reserved fields ignore writes (R240). -/
def execMpset (_t : BitVec 3) (_i : BitVec 2) (n : BitVec 3) (a : BitVec 5) (s : State) : Out :=
  .next (s.land 1 (.mp n (s.sreg a &&& mpMask n)) 0)

/-- MPGET reads a shadow parameter register (R240). -/
def execMpget (_t : BitVec 3) (_i : BitVec 2) (d : BitVec 5) (n : BitVec 3) (s : State) : Out :=
  .next (s.landS 2 d (vget (n := 3) s.me.mp n))

/-- MLOAD is accepted; a misaligned record is MISALIGN (R241). -/
def execMload (_t : BitVec 3) (_i : BitVec 2) (a : BitVec 5) (s : State) : Out :=
  .next (if (s.sreg a).toNat % 64 ≠ 0 then s.fatalMe .misalign else s.accept { s.newOp .mload with addr := s.sreg a })

/-- ACLASS changes a bank's class and zeroes it; FRONT on ab0-ab5 sets INV (R242). DESIGN CHOICE: it zeroes the bank as it issues, and an older `vacw`
that lands in the same cycle is written over the zeros (R41 orders registers, masks and sticky fields; log entry 89). -/
def execAclass (_t : BitVec 3) (_i : BitVec 2) (n : BitVec 3) (c : BitVec 2) (s : State) : Out :=
  .next (if !(s.granted n) then s.fatalMe .permission
    else if s.bankClass n = c then s
    else if c = 1 ∧ n.toNat < 6 then s.land 1 .none cINV
    else s.modHere fun k =>
      { k with
        cls := vset (n := 2 ^ 3) k.cls n.toFin c
        banks := vset (n := 2 ^ 3) k.banks n.toFin 0
        front := vmapI (fun f v => if f + 6 = n.toNat then Front.empty else v) k.front })

/-- ACLR is accepted (R243). -/
def execAclr (_t : BitVec 3) (_i : BitVec 2) (n : BitVec 3) (s : State) : Out :=
  .next (if !(s.granted n) then s.fatalMe .permission else s.accept { s.newOp .aclr with d := n })

/-- ACMV is accepted (R243). -/
def execAcmv (_t : BitVec 3) (_i : BitVec 2) (d n : BitVec 3) (m : BitVec 2) (s : State) : Out :=
  .next (if !(s.granted d && s.granted n) then s.fatalMe .permission
    else s.accept { s.newOp .acmv with d := d, src := n, mode := m })

/-- MWAIT: its bundle waits; the word itself changes nothing (R244). -/
def execMwaitAll (_t : BitVec 3) (_i : BitVec 2) (s : State) : Out := .next s

/-- MWAIT on a bank: its bundle waits for the operations that use the bank (R220, R244). -/
def execMwaitBank (_t : BitVec 3) (_i : BitVec 2) (n : BitVec 3) (s : State) : Out :=
  .next (if s.granted n then s else s.fatalMe .permission)

/-- SQCLR empties the named sides; its bundle waits (R245). -/
def execSqclr (_t : BitVec 3) (_i : BitVec 2) (m : BitVec 2) (s : State) : Out :=
  .next (s.modMe fun cx =>
    { cx with sqA := if m.getLsbD 0 then [] else cx.sqA, sqB := if m.getLsbD 1 then [] else cx.sqB })

/-- FTSET writes a valid entry; an invalid value sets INV (R124, R246). -/
def execFtset (_t : BitVec 3) (_i : BitVec 2) (n : BitVec 4) (a : BitVec 5) (s : State) : Out :=
  let v : W32 := (s.sreg a).setWidth 32 &&& ftMask
  .next (if ftValid v then s.land 1 (.ft n v) 0 else s.land 1 .none cINV)

/-- FTSEL sets FTLEVEL (R246). -/
def execFtsel (_t : BitVec 3) (_i : BitVec 2) (l : BitVec 3) (s : State) : Out := .next (s.land 1 (.ftlevel l) 0)

/-! ### Routines (R231-R234) -/

def rwop (n : Nat) : W64 := BitVec.ofNat 64 (n * 2 ^ 58)

/-- A library routine: routine 0, with `.t` on its promotion and an epilogue before its end (R233, R234 Table 5). -/
def libRoutine (tr : Bool) (epi : Option Nat) : List W64 :=
  [rwop 1, rwop 2, rwop 3, rwop 4 + 6, rwop 5, rwop 6 + BitVec.ofNat 64 (bit tr), rwop 7, rwop 8]
  ++ (epi.toList.map fun e => rwop 9 + BitVec.ofNat 64 e) ++ [rwop 0]

/-- The words of the routine an index names for a launch; none where it is reserved or not loaded (R231, R234). -/
def Core.routine (k : Core) (launch : W32) (idx : BitVec 8) : Option (List W64) :=
  match idx.toNat with
  | 0 => some (libRoutine false none)
  | 1 => some (libRoutine true none)
  | 7 => some (libRoutine false (some 0))
  | 8 => some (libRoutine true (some 0))
  | 9 => some (libRoutine false (some 1))
  | 10 => some (libRoutine false (some 2))
  | 11 => some (libRoutine false (some 3))
  | _ => (k.rts.find? fun r => r.launch = launch && r.idx = idx).map fun r => r.words

/-- The static conditions that an installed routine meets (R232, R233). -/
def routineOk (words : List W64) : Bool :=
  (words.mapIdx fun i w => match decodeRoutine w with
    | none => false
    | some (.rwSkip g) => i < g.toNat && g.toNat < words.length
    | some (.rwJmore g) => g.toNat < words.length
    | some _ => true).all id

/-- Whether a routine's promotions are transposed (R232). -/
def routineTr (words : List W64) : Bool :=
  ((words.map decodeRoutine).findSome? fun w => match w with
    | some (.rwProm b) => some b
    | _ => none).getD false

/-! ### A call's parameters (R229, R230) -/

def MOp.p (m : MOp) (n : BitVec 3) : W64 := vget (n := 3) m.mp n

def strideOf (c : BitVec 2) : Nat := 2 ^ c.toNat

/-- The parameters a call runs with, of the table under TBL or its own (R229). -/
def MOp.par (m : MOp) (la lb : Option Bool) : CallPar :=
  let p2 := m.p 2
  let p3 := m.p 3
  let p4 := m.p 4
  let p6 := m.p 6
  let kg := (fld p2 32 12).toNat + 1
  let tbl := p3.getLsbD 31
  let g := if p4.getLsbD 6 then kg else if tbl then (fld m.ft 20 6).toNat else (fld p4 0 6).toNat
  { m := (fld p2 6 6).toNat + 1, n := (fld p2 0 6).toNat + 1, kg := kg, g := g
    fa := if tbl then fld m.ft 0 5 else fld p3 0 5
    fb := if tbl then fld m.ft 6 5 else fld p3 6 5
    qa := if tbl then (fld m.ft 12 4).toNat else (fld (m.p 0) 36 4).toNat
    qb := if tbl then (fld m.ft 16 4).toNat else (fld (m.p 1) 36 4).toNat
    smode := if tbl then fld m.ft 26 2 else fld (m.p 5) 0 2
    fp32 := if tbl then m.ft.getLsbD 28 else p3.getLsbD 28
    drow := (fld p6 8 6).toNat, dcol := (fld p6 0 6).toNat
    sa := strideOf (fld (m.p 0) 34 2), sb := strideOf (fld (m.p 1) 34 2), la := la, lb := lb }

/-- Table or explicit fields of a call are legal (R230). -/
def MOp.fieldsOk (m : MOp) : Bool :=
  if (m.p 3).getLsbD 31 then ftValid m.ft
  else
    let c := m.par none none
    fmtLegal c.fa.toNat && fmtLegal c.fb.toNat && 1 ≤ c.qa && c.qa ≤ fmtPlanes c.fa.toNat && 1 ≤ c.qb && c.qb ≤ fmtPlanes c.fb.toNat
      && 1 ≤ c.g && (c.fp32 || c.smode = 0)

/-- One operand's tile agrees with the call: layout, format, rows, and the reach along K (R230). -/
def operandOk (t : Tile) (p : W64) (fmt : BitVec 5) (count stride kg : Nat) : Bool :=
  (t.st = .absent || (t.layout && t.fmt = fmt)) && (fld p 9 6).toNat + count ≤ t.rows
    && ((fld p 16 18).toNat + stride * (64 * kg - 1)) * fmtPlanes fmt.toNat < 8 * t.rowBytes

/-- The entry an operand's name resolves to: in the context's unit table, or in its launch's table (R156). -/
def State.opLoc (s : State) (c : Nat) (m : MOp) (name : Option (BitVec 8)) (tab : Option Bool) : Option TLoc :=
  match name, tab with
  | some n, some true => some (.launch c m.launch n.toNat)
  | some n, some false =>
    match s.unitCtx c m.launch m.unit with
    | some x => some (.unit c x n.toNat)
    | none => some (.frame c m.launch m.unit n.toNat)
  | _, _ => none

/-- In which table an operand's name resolves at this moment. -/
def State.opTable (s : State) (c : Nat) (x : CtxId) (name : Option (BitVec 8)) : Option Bool :=
  name.map fun n => match s.resolve c x n.toNat with
    | .launch _ _ _ => true
    | _ => false

/-- A call is valid (R230). -/
def State.callOk (s : State) (c : Nat) (m : MOp) (par : CallPar) (words : Option (List W64)) : Bool :=
  match words with
  | none => false
  | some w =>
    let side (name : Option (BitVec 8)) (tab : Option Bool) (p : W64) (fmt : BitVec 5) (count stride : Nat) : Bool :=
      match s.opLoc c m name tab with
      | some l => operandOk (s.tile l) p fmt count stride par.kg
      | none => true
    let (h, v) := if routineTr w then (par.n, par.m) else (par.m, par.n)
    vget (n := 3) (s.core c).cls m.d = 0 && m.fieldsOk && fld (m.p 0) 34 2 != 3#2 && fld (m.p 1) 34 2 != 3#2
      && side m.ta par.la (m.p 0) par.fa par.m par.sa && side m.tb par.lb (m.p 1) par.fb par.n par.sb
      && par.drow + h ≤ 64 && par.dcol + v ≤ 64

/-! ### Starting an operation (R223, R225, R226, R230) -/

/-- The causes of an engine operation are set in STICKY4 of its unit: an input of the unit (R347, R395 kind 3, SRC 8). -/
def State.opCause (s : State) (c : Nat) (m : MOp) (x : BitVec 12) : State := s.engineCause c m.launch m.unit 4 8 x m.org

/-- What a load of a tile meets: the state to wait in, a fault, or that it may go on (R161, R225, R226). -/
inductive Meet where
  | go
  | wait (s : State)
  | poison
  deriving DecidableEq, Repr

def State.meetTile (s : State) (l : Option TLoc) : Meet :=
  match l with
  | none => .go
  | some l =>
    match s.avail l with
    | .absent | .ready => .go
    | .waiting => .wait (s.wakeBanks l)
    | .unpark => .wait ((s.startUnpark l).getD s)
    | .poison => .poison

/-- A stopped call of the unit that an accepted operation continues (R236). -/
def State.stoppedCall (s : State) (c : Nat) (m : MOp) : Option Call :=
  ((s.unitState c m.launch m.unit).bind fun cx => cx.savedCall).filter fun a => a.op.launch = m.launch && a.op.unit = m.unit && a.op.seq = m.seq

/-- The head of the engine queue starts (R223): its waits, its checks, or a stop by INV or POISON. -/
def State.startCall (s : State) (c : Nat) (m : MOp) (rest : List MOp) : State :=
  let names := (m.ta.toList ++ m.tb.toList).map BitVec.toNat
  if ((s.core c).olderNaming c m.x m.seq names) then s
  else
    let k := s.core c
    let words := k.routine m.launch m.idx
    let again := s.stoppedCall c m
    let par := match again with
      | some a => a.par
      | none => m.par (s.opTable c m.x m.ta) (s.opTable c m.x m.tb)
    if again.isNone && !(s.callOk c m par words) then (s.setCore c { k with mq := rest }).opCause c m cINV
    else
      let drop := s.modCore c fun k => { k with mq := rest }
      match s.meetTile (s.opLoc c m m.ta par.la) with
      | .wait s1 => s1
      | .poison => drop.fatal c m.x .poison 8 m.org
      | .go =>
        match s.meetTile (s.opLoc c m m.tb par.lb) with
        | .wait s1 => s1
        | .poison => drop.fatal c m.x .poison 8 m.org
        | .go =>
          let fresh : Call :=
            { op := m, par := par, pos := 0, group := 0, first := true, inner := List.replicate (par.m * par.n) 0, aSl := none, bSl := none
              stepped := false, popped := false, promoted := false, scA := 0, scB := 0, tr := none, kadv := false, bwrDone := false, causes := 0, steps := 0
              ckA := false, ckB := false, atA := none, atB := none, epi := none, ready := k.cyc, doneAt := 0 }
          let s1 := drop.modCore c fun k => { k with call := some { again.getD fresh with op := m, ready := k.cyc } }
          if again.isSome then s1.modCtx c m.x fun cx => { cx with savedCall := none } else s1

/-- A place that frees goes to the next saved operation of a resumed unit (R236). -/
def State.readmit (s : State) (c : Nat) : State :=
  let k := s.core c
  if 4 ≤ k.places then s
  else match allCtx.find? fun x => k.ctx[x].saved != [] && k.ctx[x].st != .free && !(k.ctx[x].leaving) with
    | none => s
    | some x =>
      match k.ctx[x].saved with
      | [] => s
      | m :: r =>
        (s.modCtx c x fun cx => { cx with saved := r }).modCore c fun k => { k with mq := k.mq ++ [{ m with x := x, after := k.cyc + 4 }] }

/-- MATRIX_OP_START (R223, R225, R241, R243): core c. Not enabled before four cycles from acceptance, or while an older operation has steps
left. An `aclr` or `acmv` runs for 64 cycles. `mload` hands its fetch to eq0 once the unit's older direct accesses are performed, saved ones of interrupted
code among them (R195, R283, R337). -/
def execMatrixOpStart (s : State) : Out :=
  let c := s.ev.c
  let s := s.readmit c
  let k := s.core c
  .next (match k.mq with
    | [] => s
    | m :: rest =>
      if k.call.isSome || k.mrun.isSome || k.cyc < m.after then s
      else match m.kind with
        | .call => s.startCall c m rest
        | .aclr | .acmv =>
          let fr := (m.writes ++ m.reads).any fun b => vget (n := 3) k.cls b = 1
          let s1 := s.setCore c { k with mq := rest, mrun := some { m with after := k.cyc + 64 } }
          if fr then s1.opCause c m cINV else s1
        | .mload =>
          let cx := s.ctx c m.x
          if 32 ≤ (vget (n := 2) cx.eq 0#2).length || !(cx.stores.isEmpty) || cx.mg.any (fun w => w.tok < m.seq)
              || s.behindSaved cx false m.addr.toNat (64 + 8 * 1792) then s
          else
            let (u, s1) := s.newUid
            let cmd : Cmd := { Cmd.zero with num := u, slot := 4, op := 0x04#6, org := m.org, launch := m.launch, unit := m.unit, a1 := m.addr }
            (s1.modCtx c m.x fun x => x.pushEq 0 cmd).modCore c fun k => { k with mq := rest, mrun := some m })

/-! ### Routine words (R232, R233) -/

/-- A word acts on the running call of the core at hand; without one it changes nothing. -/
def State.onCall (s : State) (f : Call → State) : State :=
  match s.here.call with
  | some a => f a
  | none => s

def State.setCall (s : State) (a : Call) : State := s.modHere fun k => { k with call := some a }

/-- The call continues at its next word. -/
def Call.next (a : Call) : Call := { a with pos := a.pos + 1 }

/-- The entry that a side of a call reads: A, or with b B. -/
def State.sideLoc (s : State) (c : Nat) (a : Call) (b : Bool) : Option TLoc :=
  if b then s.opLoc c a.op a.op.tb a.par.lb else s.opLoc c a.op a.op.ta a.par.la

/-- A consuming read of a side is counted, once, on a live tile: the one it last loaded from, where it has loaded (R159, R226); other units that log see it
(R395). -/
def State.countSide (s : State) (c : Nat) (b : Bool) (a : Call) : State × Call :=
  let p := a.op.p (if b then 1 else 0)
  if !(p.getLsbD 15) || (if b then a.ckB else a.ckA) then (s, a)
  else
    let a1 := if b then { a with ckB := true } else { a with ckA := true }
    match s.sideLoc c a b with
    | none => (s, a1)
    | some l =>
      let same := ((if b then a.atB else a.atA).map fun u => decide (u = (s.tile l).uid)).getD true
      (if (s.tile l).st = .absent || !same then s else ((s.serve s [l] 4).consume l).logTstate s l (s.loggerOf c a.op.launch a.op.unit), a1)

/-- Result rows of a bank that a call's epilogue passes over, one a cycle (R223, R234). -/
def Call.rows (a : Call) : Nat := if a.epi.isNone then 0 else if a.tr = some true then a.par.n else a.par.m

/-- The call ends: CK reads not counted yet are counted (R226, R233), and it completes three cycles after its last step and its epilogue's rows (R223). -/
def State.finishCall (s : State) (a : Call) : State :=
  let c := s.cur.core
  let (s1, a1) := s.countSide c false a
  let (s2, a2) := s1.countSide c true a1
  s2.modHere fun k => { k with call := none, tails := k.tails ++ [{ a2 with doneAt := a2.ready + 3 + a2.rows }] }

/-- A routine error ends the call with INV (R233). -/
def State.routineError (s : State) (a : Call) : State := s.finishCall { a with causes := a.causes ||| cINV }

/-- The current group ends a k-span or the call (R126). -/
def Call.atPromotion (a : Call) : Bool := a.group < a.par.kg && ((a.group + 1) % a.par.g = 0 || a.group + 1 = a.par.kg)

/-- The last promotion has been made. -/
def Call.allPromoted (a : Call) : Bool := a.par.kg ≤ a.group || (a.group + 1 = a.par.kg && a.promoted)

/-- The code of logical element e of a stored row, read at q of n planes (R116, R117). The bits of a plane that starts past the row's end are
free, by the number of the read: the spec stores no byte there. -/
def codeAt (use : Nat) (t : Tile) (n q row e : Nat) : Int :=
  let at_ (p : Nat) : Nat :=
    let b := 8 * n * (e / 64) + 8 * p + e % 64 / 8
    bit (if b < t.rowBytes then t.data.getLsbD (8 * (row * t.rowBytes + b) + e % 8) else (Config.pastRow use (1024 * row + b)).getLsbD (e % 8))
  signed q ((List.range q).foldl (fun acc p => 2 * acc + at_ p) 0)

/-- The slice of one operand's current group: count rows of 64 codes (R226, R227). -/
def sliceOf (use : Nat) (t : Tile) (p : W64) (n q count stride group : Nat) : List Int :=
  (List.range count).flatMap fun i => (List.range 64).map fun m =>
    codeAt use t n q ((fld p 9 6).toNat + i) ((fld p 16 18).toNat + stride * (64 * group + m))

/-- Whether a call that stands at a routine position will still load from given sides: control depends only on the group and the groups that remain
(R232, R233). The fuel bounds the words up to the next load. -/
def loadsMore (words : List W64) (par : CallPar) (hit : Bool → Bool) : Nat → Nat → Nat → Bool → Bool → Bool
  | 0, _, _, _, _ => false
  | f + 1, pos, g, stepped, kadv =>
    let point := g < par.kg && ((g + 1) % par.g = 0 || g + 1 = par.kg)
    let load (b : Bool) : Bool := if par.kg ≤ g then false else hit b || loadsMore words par hit f (pos + 1) g stepped kadv
    match (words[pos]?).bind decodeRoutine with
    | some .rwLda => load false
    | some .rwLdb => load true
    | some .rwStep => loadsMore words par hit f (pos + 1) g true kadv
    | some (.rwSkip t) => loadsMore words par hit f (if point then pos + 1 else t.toNat) g stepped kadv
    | some .rwKadv => if stepped then loadsMore words par hit f (pos + 1) (g + 1) false true else false
    | some (.rwJmore t) =>
      if par.kg ≤ g then loadsMore words par hit f (pos + 1) g stepped kadv
      else if kadv then loadsMore words par hit f t.toNat g stepped false else false
    | some .rwSpop => loadsMore words par hit f (pos + 1) g stepped kadv
    | some (.rwProm _) => loadsMore words par hit f (pos + 1) g stepped kadv
    | some (.rwBwr _) => loadsMore words par hit f (pos + 1) g stepped kadv
    | _ => false

/-- After a load: the CK reads of the tile are counted once the call has made its last load from it (R226). -/
def State.countLoaded (s : State) (c : Nat) (l : Option TLoc) (a : Call) : State × Call :=
  let words := ((s.core c).routine a.op.launch a.op.idx).getD []
  let mine (b : Bool) : Bool := l.isSome && s.sideLoc c a b = l
  if loadsMore words a.par mine (4 * words.length + 4) a.pos a.group a.stepped a.kadv then (s, a)
  else
    let (s1, a1) := if mine false then s.countSide c false a else (s, a)
    if mine true then s1.countSide c true a1 else (s1, a1)

/-- `lda` and `ldb`: one access of the tile; ABSENT reads as zeros (R226). -/
def State.loadSide (s : State) (b : Bool) : State :=
  s.onCall fun a =>
    let c := s.cur.core
    let par := a.par
    let l := s.sideLoc c a b
    if par.kg ≤ a.group then s.routineError a
    else if s.outOfTurn l.toList 4 then s
    else match s.meetTile l with
      | .wait s1 => s1
      | .poison => (s.modHere fun k => { k with call := none }).fatal c a.op.x .poison 8 a.op.org
      | .go =>
        let count := if b then par.n else par.m
        let t := (l.map s.tile).getD Tile.absent
        let gone := t.st = .absent
        let sl :=
          if gone then List.replicate (count * 64) 0
          else if b then sliceOf s.freeCtr t (a.op.p 1) (fmtPlanes par.fb.toNat) par.qb count par.sb a.group
          else sliceOf s.freeCtr t (a.op.p 0) (fmtPlanes par.fa.toNat) par.qa count par.sa a.group
        let at_ := if gone then none else some t.uid
        let a1 := { a.next with causes := a.causes ||| (if gone then cABSENT else 0) }
        let a2 := if b then { a1 with bSl := some sl, atB := at_ } else { a1 with aSl := some sl, atA := at_ }
        let (s1, a3) := ((({ s with freeCtr := s.freeCtr + 1 } : State).serve s l.toList 4).accessAt c a.op.x).countLoaded c l a2
        s1.setCall a3

/-- LDA loads the A slice of the current group (R232). -/
def execRwLda (s : State) : Out := .next (s.loadSide false)

/-- LDB loads the B planes of the current group (R232). -/
def execRwLdb (s : State) : Out := .next (s.loadSide true)

/-- The exact dot product of two 64-element rows. -/
def dot : List Int → List Int → Int
  | x :: r, y :: t => x * y + dot r t
  | _, _ => 0

/-- The cycles of a call's step: QA·QB, and twice as many while the core's die is throttled, which holds matrix steps to one every two cycles (R227,
R407). -/
def State.stepCycles (s : State) (par : CallPar) : Nat := par.qa * par.qb * (if s.dieHot s.cur.core then 2 else 1)

/-- STEP adds the group's dot products to the inner accumulators, saturating; its cycles, each charged, end before the engine goes on (R126, R223, R227,
R321, R407). -/
def execRwStep (s : State) : Out :=
  .next (s.onCall fun a => match a.aSl, a.bSl with
    | some la, some lb =>
      let neg := a.op.nega != a.op.negb
      let out := (List.range a.par.m).flatMap fun i => (List.range a.par.n).map fun j =>
        let d := dot ((la.drop (64 * i)).take 64) ((lb.drop (64 * j)).take 64)
        sat32 (a.inner.getD (i * a.par.n + j) 0 + (if neg then -d else d))
      (s.setCall { a.next with
        inner := out.map Prod.fst, stepped := true, steps := a.steps + a.par.qa * a.par.qb, ready := s.here.cyc + s.stepCycles a.par
        causes := out.foldl (fun c q => c ||| q.2) a.causes }).charge a.op.launch (s.stepCycles a.par)
    | _, _ => s.routineError a)

/-- SKIP passes to its target unless the group is a promotion point (R232). -/
def execRwSkip (tgt : BitVec 11) (s : State) : Out :=
  .next (s.onCall fun a => s.setCall (if a.atPromotion then a.next else { a with pos := tgt.toNat }))

/-- A popped scale vector holds a forbidden exponent (R120). -/
def scalesBad (e : BitVec 1024) : Bool := (List.range 64).any fun i => (fld e (16 * i + 7) 8 : BitVec 8) = 255#8

/-- SPOP pops one entry of each side that SMODE uses (R123); it waits while a load is outstanding, and without one it is SQ_IMBALANCE. A popped entry with a
forbidden scale sets SCALE_BAD (R120). DESIGN CHOICE: where one of two sides waits, neither entry is popped until both can be; and side A is tested first, so
that a wait of A comes before an SQ_IMBALANCE of B (log entry 21). -/
def execRwSpop (s : State) : Out :=
  .next (s.onCall fun a =>
    let c := s.cur.core
    let x := a.op.x
    let cx := s.ctx c x
    let ua := a.par.smode.getLsbD 0
    let ub := a.par.smode.getLsbD 1
    let gone := s.modHere fun k => { k with call := none }
    if !(a.stepped && a.atPromotion) || a.popped then s.routineError a
    else if ua && cx.sqA.isEmpty then (if cx.sqldOut 0 then s else gone.fatal c x .sqImbalance 8 a.op.org)
    else if ub && cx.sqB.isEmpty then (if cx.sqldOut 1 then s else gone.fatal c x .sqImbalance 8 a.op.org)
    else
      let s1 := s.modCtx c x fun k =>
        { k with sqA := if ua then k.sqA.drop 1 else k.sqA, sqB := if ub then k.sqB.drop 1 else k.sqB }
      let bad := (ua && scalesBad (cx.sqA.headD 0)) || (ub && scalesBad (cx.sqB.headD 0))
      s1.setCall { a.next with
        popped := true, scA := cx.sqA.headD 0, scB := cx.sqB.headD 0, causes := a.causes ||| (if bad then cSCALEBAD else 0) })

/-- A popped scale's value: one with a forbidden exponent counts as 0 (R120, R121). -/
def scaleAt (used : Bool) (e : BitVec 1024) (i : Nat) : FVal :=
  if !used then .fin false 1 0
  else
    let v := (fld e (16 * i) 16).toNat
    if v / 2 ^ 7 % 2 ^ 8 = 255 then .fin false 0 0 else bf16.decode v

/-- Where output (i, j) of a call lies in its bank: the index of its 32-bit word (R219, R232). -/
def CallPar.word (par : CallPar) (tr : Bool) (i j : Nat) : Nat :=
  if tr then (par.drow + j) * 64 + par.dcol + i else (par.drow + i) * 64 + par.dcol + j

/-- An FP32 pattern is an infinity. -/
def isInf32 (v : Nat) : Bool := v % 2 ^ 31 = 0x7F800000

/-- One promoted element; an infinite t or sum sets OVF (R126). -/
def promoteElem (a : Call) (i j : Nat) (old : Nat) : Nat × BitVec 12 :=
  let x := a.inner.getD (i * a.par.n + j) 0
  let opening := a.first && a.op.na
  if a.par.fp32 then
    let va := scaleAt (a.par.smode.getLsbD 0) a.scA ((fld (a.op.p 0) 9 6).toNat + i)
    let vb := scaleAt (a.par.smode.getLsbD 1) a.scB ((fld (a.op.p 1) 9 6).toNat + j)
    let f : Int := (fmtPlanes a.par.fa.toNat - a.par.qa : Nat) + (fmtPlanes a.par.fb.toNat - a.par.qb : Nat)
    match va, vb with
    | .fin sa ma ea, .fin sb mb eb =>
      let (t, ct) := fp32.ofExact .arith 0 ((x < 0 : Bool) != (sa != sb)) (x.natAbs * ma * mb) (ea + eb + f)
      if opening then (t, ct)
      else let (r, cr) := fAdd fp32 0 old t; (r, cr ||| ct ||| (if isInf32 r then cOVF else 0))
    | _, _ => (old, 0)
  else if opening then (ofIntBits 32 x, 0)
  else let (r, c) := sat32 (signed 32 old + x); (ofIntBits 32 r, c)

/-- Applies f to the M × N result elements of a bank, gathering causes. -/
def overRegion (par : CallPar) (tr : Bool) (bank : Bank) (f : Nat → Nat → Nat → Nat × BitVec 12) : Bank × BitVec 12 :=
  (List.range par.m).foldl (fun acc i => (List.range par.n).foldl (fun (b, c) j =>
    let w := par.word tr i j
    let (v, x) := f i j (fld b (32 * w) 32).toNat
    (putBits b (32 * w) 32 (BitVec.ofNat 32 v), c ||| x)) acc) (bank, 0)

/-- PROM promotes into the bank (R126, R232), after an earlier call on the bank has completed (R223) and an earlier `vacw` has landed (R153). -/
def execRwProm (tr : Bool) (s : State) : Out :=
  .next (s.onCall fun a =>
    if !(a.stepped && a.atPromotion) || a.promoted || (a.par.smode != 0 && !a.popped) || a.tr = some (!tr) then s.routineError a
    else if (s.here.tails.any fun b => b.op.d = a.op.d) || s.here.bankLanding a.op.d then s
    else
      let (b, c) := overRegion a.par tr (vget (n := 3) s.here.banks a.op.d) (promoteElem a)
      (s.setCall { a.next with
        promoted := true, first := false, tr := some tr, causes := a.causes ||| c, inner := List.replicate (a.par.m * a.par.n) 0 }).modHere fun k =>
          { k with banks := vset (n := 2 ^ 3) k.banks a.op.d.toFin b })

/-- KADV advances to the next k-group (R232, R233). -/
def execRwKadv (s : State) : Out :=
  .next (s.onCall fun a =>
    if !a.stepped || (a.atPromotion && !a.promoted) then s.routineError a
    else s.setCall { a.next with
      group := a.group + 1, aSl := none, bSl := none, stepped := false, popped := false, promoted := false, kadv := true })

/-- JMORE continues at its target while groups remain (R232, R233). -/
def execRwJmore (tgt : BitVec 11) (s : State) : Out :=
  .next (s.onCall fun a =>
    if a.par.kg ≤ a.group then s.setCall a.next
    else if !a.kadv then s.routineError a
    else s.setCall { a with pos := tgt.toNat, kadv := false })

/-- One element of an epilogue: 0 relu, 1 mulc, 2 addc, 3 clamp (R234). -/
def epilogueElem (e : Nat) (fl : Bool) (c : W32) (v : Nat) : Nat × BitVec 12 :=
  if fl then
    match e with
    | 0 => fMinMax fp32 false v 0
    | 1 => fMul fp32 0 v c.toNat
    | 2 => fAdd fp32 0 v c.toNat
    | _ =>
      let a := c.toNat % 2 ^ 31
      let (x, cx) := fMinMax fp32 false v (2 ^ 31 + a)
      let (y, cy) := fMinMax fp32 true x a
      (y, cx ||| cy)
  else
    let x := signed 32 v
    let k := signed 32 c.toNat
    match e with
    | 0 => (if x < 0 then 0 else v, 0)
    | 1 => let (r, z) := sat32 (x * k); (ofIntBits 32 r, z)
    | 2 => let (r, z) := sat32 (x + k); (ofIntBits 32 r, z)
    | _ =>
      let a : Int := (sat32 k.natAbs).1
      (ofIntBits 32 (if x < -a then -a else if a < x then a else x), 0)

/-- BWR starts the epilogue, which acts on the result region after the last promotion (R223, R233, R234). -/
def execRwBwr (e : BitVec 2) (s : State) : Out :=
  .next (s.onCall fun a =>
    if a.bwrDone || !a.allPromoted then s.routineError a
    else if s.here.bankLanding a.op.d then s
    else s.setCall { a.next with bwrDone := true, epi := some e })

/-- END ends the call (R232, R233). -/
def execRwEnd (s : State) : Out := .next (s.onCall fun a => if a.allPromoted then s.finishCall a else s.routineError a)

/-- The engine's move: the routine word at the call's position; past the last word a routine error. -/
def State.engineWord (s : State) : Option W64 :=
  (s.here.call).bind fun a => ((s.here.routine a.op.launch a.op.idx).getD [])[a.pos]?

/-! ### Completion (R222, R223, R236, R241, R243) -/

/-- The result region of a call after its epilogue (R234). -/
def Call.epilogue (a : Call) (b : Bank) : Bank × BitVec 12 :=
  match a.epi with
  | none => (b, 0)
  | some e => overRegion a.par (a.tr.getD false) b fun _ _ v => epilogueElem e.toNat a.par.fp32 ((a.op.p 7).setWidth 32) v

/-- MATRIX_CALL_COMPLETE (R223): core c; the oldest call in its tail completes, at the end of the third cycle after its last step and of its epilogue's last
row: its rows are written, its place is freed, its causes set, and it is traced. -/
def execMatrixCallComplete (s : State) : Out :=
  let c := s.ev.c
  let k := s.core c
  .next (match k.tails with
    | [] => s
    | a :: r =>
      if k.cyc < a.doneAt then s
      else
        let (b, x) := a.epilogue (vget (n := 3) k.banks a.op.d)
        (((s.setCore c { k with tails := r, banks := vset (n := 2 ^ 3) k.banks a.op.d.toFin b }).opCause c a.op (a.causes ||| x)).readmit c).traceFor
          c a.op.x a.op.launch 0x0B 1 a.op.d.toNat a.op.org (a.steps * 2 ^ 32 + a.op.idx.toNat * 2 ^ 24 + a.par.kg))

/-- The bank that an `aclr` or `acmv` leaves (R243). -/
def MOp.bankAfter (m : MOp) (src dst : Bank) : Bank × BitVec 12 :=
  match m.kind with
  | .aclr => (0, 0)
  | _ =>
    let el (b : Bank) (i j : Nat) : Nat := (fld b (32 * (64 * i + j)) 32).toNat
    let out := (List.range 64).flatMap fun i => (List.range 64).map fun j =>
      match m.mode.toNat with
      | 0 => (el src i j, (0 : BitVec 12))
      | 1 => (el src j i, 0)
      | 2 => let (r, c) := sat32 (signed 32 (el dst i j) + signed 32 (el src i j)); (ofIntBits 32 r, c)
      | _ => fAdd fp32 0 (el dst i j) (el src i j)
    (packElems 131072 32 (out.map Prod.fst), out.foldl (fun c q => c ||| q.2) 0)

/-- MATRIX_OP_COMPLETE (R243): core c; the running `aclr` or `acmv` makes its bank writes at the end of its 64 cycles, after an earlier call on the bank
(R223) and an earlier `vacw` (R153). A FRONT bank leaves every bank unchanged (R221). -/
def execMatrixOpComplete (s : State) : Out :=
  let c := s.ev.c
  let k := s.core c
  .next (match k.mrun with
    | none => s
    | some m =>
      if m.kind = .mload || k.cyc < m.after || (k.tails.any fun a => (m.writes ++ m.reads).contains a.op.d) || (m.writes ++ m.reads).any k.bankLanding then s
      else
        let s1 := s.setCore c { k with mrun := none }
        if (m.writes ++ m.reads).any fun b => vget (n := 3) k.cls b = 1 then s1.readmit c
        else
          let (b, x) := m.bankAfter (vget (n := 3) k.banks m.src) (vget (n := 3) k.banks m.d)
          (((s1.modCore c fun k => { k with banks := vset (n := 2 ^ 3) k.banks m.d.toFin b }).opCause c m x).readmit c))

/-- Free words of the routine store for loaded routines (R231). -/
def Core.rtFree (k : Core) : Nat := 1792 - (k.rts.map fun r => r.words.length).sum

/-- A routine installed for a launch, replacing one of the same index; none where it does not pass (R231, R241). -/
def Core.installRt (k : Core) (launch : W32) (idx : BitVec 8) (words : List W64) : Option Core :=
  let keep := { k with rts := k.rts.filter fun r => !(r.launch = launch && r.idx = idx) }
  if idx.toNat < 64 || words.isEmpty || !(routineOk words) || keep.rtFree < words.length || 192 ≤ keep.rts.length then none
  else some { keep with rts := keep.rts ++ [⟨launch, idx, words⟩] }

/-! ### Withdrawal at a pre-emption (R235, R236) -/

/-- The unit's running call stands at a step boundary, its step over and the zero-cycle words after it performed up to the loads of the next group or to
another step, or at a wait of a load or a `spop` (R235). -/
def State.callStops (s : State) (c : Nat) (a : Call) : Bool :=
  let waits (b : Bool) : Bool := a.group < a.par.kg && (match s.meetTile (s.sideLoc c a b) with
    | .wait _ => true
    | .go | .poison => false)
  let fresh := a.steps != 0 && !a.stepped && a.aSl.isNone && a.bSl.isNone
  let cx := s.ctx c a.op.x
  a.ready ≤ (s.core c).cyc && match ((((s.core c).routine a.op.launch a.op.idx).getD [])[a.pos]?).bind decodeRoutine with
  | some .rwStep => a.stepped
  | some .rwLda => fresh || waits false
  | some .rwLdb => fresh || waits true
  | some .rwSpop =>
    a.stepped && a.atPromotion && !a.popped
      && ((a.par.smode.getLsbD 0 && cx.sqA.isEmpty && cx.sqldOut 0) || (a.par.smode.getLsbD 1 && cx.sqB.isEmpty && cx.sqldOut 1))
  | _ => false

/-- The engine has wound down for a unit: its call stands at a boundary and nothing of it runs (R235). -/
def State.woundDown (s : State) (c : Nat) (x : CtxId) : Bool :=
  let k := s.core c
  !(k.tails.any fun a => a.op.of k.ctx[x]) && !(k.mrun.any fun m => m.of k.ctx[x] && m.kind != .mload)
  && !(k.call.any fun a => a.op.of k.ctx[x] && !(s.callStops c a)) && !(k.frun.toList.any fun r => r.any fun (f : FRun) => f.op.x = x && !f.dead)

/-- The unit's stopped call leaves the engine for its frame, ahead of its queued operations (R235). -/
def State.withdraw (s : State) (c : Nat) (x : CtxId) : State :=
  let k := s.core c
  let stopped := k.call.filter fun a => a.op.of k.ctx[x]
  let s1 := s.setCore c { k with call := k.call.filter fun a => !(a.op.of k.ctx[x]) }
  s1.modCtx c x fun cx =>
    { cx with saved := (stopped.toList.map fun a => a.op) ++ cx.saved, savedCall := if stopped.isSome then stopped else cx.savedCall }

/-- The context of a running call that a pre-emption stops at the boundary where it stands (R235). -/
def State.callLeaves (s : State) (c : Nat) (a : Call) : Option CtxId :=
  let k := s.core c
  if s.callStops c a then allCtx.find? fun x => a.op.of k.ctx[x] && k.ctx[x].st != .free && k.ctx[x].leaving else none

end Sys2Proof.Machine
end

