-- ==== Sys2Proof/Machine/Fronts.lean ====
section
/-! DEFINITION. Front banks: comparison and insertion, the front engines, and the front words of the MX slot (R250-R263). -/

namespace Sys2Proof.Machine

/-! ### Comparing and inserting (R252-R254) -/

/-- d, the number of objectives. -/
def Front.d (f : Front) : Nat := f.dm1.toNat + 1

/-- Objective k of a tuple as a value, and as normalised: smaller is better (R252). -/
def Tuple.val (t : Tuple) (k : Nat) : FVal := fp32.decode (fld t.obj (32 * k) 32).toNat

def Front.y (f : Front) (t : Tuple) (k : Nat) : FVal := if f.dir.getLsbD k then (t.val k).neg else t.val k

/-- A is no worse than B (R252). -/
def Front.noWorse (f : Front) (a b : Tuple) : Bool := (List.range f.d).all fun k => !(fvLt (f.y b k) (f.y a k))

/-- A 32-bit counter that saturates (R250). -/
def satAdd32 (a : W32) (n : Nat) : W32 := if 2 ^ 32 - 1 < a.toNat + n then 0xFFFFFFFF#32 else a + BitVec.ofNat 32 n

/-- The held index of the tuple with the largest y(κ), the oldest among equals (R254). -/
def Front.worst (f : Front) : Nat :=
  ((f.tuples.zipIdx).foldl (fun (b : Option (Tuple × Nat)) p =>
    match b with
    | none => some p
    | some q => if fvLt (f.y q.1 f.kappa.toNat) (f.y p.1 f.kappa.toNat) then some p else b) none).map Prod.snd |>.getD 0

/-- The policy of a full front on a surviving arrival: the front, and the victim (R254). -/
def Front.overflow (f : Front) (t : Tuple) : Front × Tuple :=
  let i := f.worst
  match f.tuples[i]? with
  | none => (f, t)
  | some w =>
    if f.pol = 0 ∨ fvLt (f.y w f.kappa.toNat) (f.y t f.kappa.toNat) then (f, t)
    else ({ f with tuples := f.tuples.eraseIdx i ++ [t] }, w)

/-- One arrival (R253): the front after it, a victim to spill, and causes. -/
def Front.insert (f : Front) (t : Tuple) : Front × Option Tuple × BitVec 12 :=
  if (List.range f.d).any fun k => (t.val k).isNan then ({ f with nand := satAdd32 f.nand 1 }, none, cNANDROP)
  else if f.tuples.any fun h => f.noWorse h t then ({ f with disc := satAdd32 f.disc 1 }, none, 0)
  else
    let keep := f.tuples.filter fun h => !(f.noWorse t h)
    let f1 := { f with tuples := keep, remv := satAdd32 f.remv (f.tuples.length - keep.length) }
    if keep.length < 256 then ({ f1 with tuples := keep ++ [t] }, none, 0)
    else
      let (f2, v) := f1.overflow t
      let f3 := { f2 with ovfd := satAdd32 f2.ovfd 1 }
      if f.pol = 2 then (f3, some v, 0) else (f3, none, cFRONTOVF)

/-- The 32 bytes of a tuple row; objectives at or above d are zero (R251 Table 3). -/
def Tuple.row (d : Nat) (t : Tuple) : BitVec 256 :=
  (0#96 : BitVec 96) ++ t.tag ++ (t.obj &&& BitVec.ofNat 128 (2 ^ (32 * d) - 1))

/-- The tuple of row r of a vector, its objectives below d (R251, R261). -/
def rowTuple (d : Nat) (v : VReg) (r : Nat) : Tuple :=
  ⟨fld v (256 * r) 128 &&& BitVec.ofNat 128 (2 ^ (32 * d) - 1), fld v (256 * r + 128) 32⟩

/-! ### The engine (R255-R258) -/

/-- Which front engine a bank has. -/
def frontOf (b : BitVec 3) : Option (Fin 2) := if b = 6 then some 0 else if b = 7 then some 1 else none

/-- The tile that a spill of a front would write: the producer entry P of its handle, PRESENT and long enough (R255). -/
def State.spillTo (s : State) (c : Nat) (x : CtxId) (i : Fin 2) : Option TLoc :=
  let f := (s.core c).front[i]
  ((s.ctx c x).ring f.sph).bind fun r =>
    let l := s.resolve c x (r.m + r.p)
    if (s.tile l).st ≠ .present ∨ (s.tile l).size < 32 * (f.sr.toNat + 1) then none else some l

/-- A victim written to the spill tile of its front, as a matrix engine's access is (R160, R170); a lost spill sets FRONT_OVF (R255). -/
def State.spill (s : State) (c : Nat) (x : CtxId) (i : Fin 2) (t : Tuple) : State × BitVec 12 :=
  let f := (s.core c).front[i]
  match s.spillTo c x i, (s.ctx c x).ring f.sph with
  | some l, some r =>
    let o := 32 * f.sr.toNat
    let s1 := ((s.serve s [l] 4).setTile l ((s.tile l).write o 32 (t.row f.d))).noteWrite l o 32 (some x)
    let s2 := s1.modCore c fun k => { k with front := k.front.set i { f with sr := f.sr + 1 } }
    (if f.sr = 15 then s2.modCtx c x fun cx => { cx with h := vset (n := 2 ^ 4) cx.h f.sph.toFin (some { r with p := (r.p + 1) % r.n }) }
      else s2, 0)
  | _, _ => (s, cFRONTOVF)

/-- A front operation completes: causes in STICKY4, its trace record (R256, R386). DESIGN CHOICE: what the arrivals of a `fins` or `fmrg` set is gathered and
set once, as the operation completes (R253, R347; log entry 92). -/
def State.frontDone (s : State) (c : Nat) (i : Fin 2) (op : FOp) (x : BitVec 12) : State :=
  let opcode : Nat := match op.kind with
    | .finit => 0x0C
    | .fins => 0x0D
    | .fmrg => 0x0E
    | .fclr => 0x11
  let s1 := (s.modCore c fun k => { k with frun := k.frun.set i none }).engineCause c op.launch op.unit 4 9 x op.org
  s1.traceFor c op.x op.launch 0x0C 2 op.bank.toNat op.org (opcode * 2 ^ 58 + ((s1.core c).front[i]).tuples.length)

/-- An operation may start: an `fmrg` after the older operations of its source, and an operation on a source after an older `fmrg` (R256). -/
def Core.frontReady (k : Core) (op : FOp) : Bool :=
  let all := k.fq.toList.flatten ++ k.frun.toList.flatMap fun r => r.toList.map fun (f : FRun) => f.op
  !(all.any fun o => o.seq < op.seq &&
    ((op.kind = .fmrg && op.src != op.bank && o.bank = op.src) || (o.kind = .fmrg && o.src != o.bank && o.src = op.bank)))

/-- A configuration word is legal (R260). -/
def finitOk (w : W64) : Bool := fld w 14 50 = 0#50 && fld w 6 2 != 3#2 && (fld w 8 2).toNat ≤ (fld w 0 2).toNat

/-- Begins an operation on a front engine: it has its arrivals to insert, one a cycle, or runs for its cycles and changes nothing more (R256, R260-R262).
DESIGN CHOICE: a `fins` of n above 16 takes one cycle (R261; log entry 91). -/
def State.frontStart (s : State) (c : Nat) (i : Fin 2) (op : FOp) : State :=
  let k := s.core c
  let f := k.front[i]
  let put (g : Front) : State := s.modCore c fun k => { k with front := k.front.set i g }
  let run (t : State) (l : List Tuple) (x : BitVec 12) (n : Nat) : State :=
    t.modCore c fun k => { k with frun := k.frun.set i (some ⟨op, l, x, false, k.cyc + n⟩) }
  let idle (t : State) (n : Nat) (x : BitVec 12) : State := run (t.charge op.launch n) [] x n
  match op.kind with
  | .finit =>
    if finitOk op.cfg then
      idle (put { Front.empty with
        dm1 := fld op.cfg 0 2, dir := fld op.cfg 2 4, pol := fld op.cfg 6 2, kappa := fld op.cfg 8 2, sph := fld op.cfg 10 4 }) 1 0
    else idle s 1 cINV
  | .fclr => idle (put { Front.empty with dm1 := f.dm1, dir := f.dir, pol := f.pol, kappa := f.kappa, sph := f.sph }) 1 0
  | .fins =>
    if op.n = 0 then idle s 1 0
    else if 16 < op.n.toNat then idle s 1 cINV
    else run s ((List.range op.n.toNat).map fun r => rowTuple f.d op.v r) 0 1
  | .fmrg =>
    match frontOf op.src with
    | none => idle s 1 cINV
    | some j =>
      let g := k.front[j]
      let same := f.dm1 = g.dm1 && (List.range f.d).all fun n => f.dir.getLsbD n == g.dir.getLsbD n
      let n := Nat.max 1 g.tuples.length
      if !same then idle s n cINV
      else if j = i ∨ g.tuples = [] then idle s n 0
      else run s g.tuples 0 1

/-- FRONT_OP_START (R256): core c, engine n (0 for ab6, 1 for ab7): from the cycle after the acceptance of the queue's head, and after the landing of an older
`vacw` on its banks (R153). -/
def execFrontOpStart (s : State) : Out :=
  let c := s.ev.c
  let i : Fin 2 := Fin.ofNat 2 s.ev.n
  let k := s.core c
  .next (match k.fq[i], k.frun[i] with
    | op :: r, none =>
      if op.after ≤ k.cyc && k.frontReady op && !(k.bankLanding op.bank || (op.kind = .fmrg && k.bankLanding op.src)) then
        (s.setCore c { k with fq := k.fq.set i r }).frontStart c i op
      else s
    | _, _ => s)

/-- FRONT_INSERT (R253): core c, engine n, at the end of a cycle of the running operation; one arrival, the operation completing after its last. That of an
ended unit runs on, its results discarded (R258, R343). -/
def execFrontInsert (s : State) : Out :=
  let c := s.ev.c
  let i : Fin 2 := Fin.ofNat 2 s.ev.n
  let k := s.core c
  .next (match k.frun[i] with
    | none => s
    | some run =>
      let go (t : State) (r : List Tuple) (x : BitVec 12) : State :=
        if r.isEmpty then t.frontDone c i run.op x
        else t.modCore c fun k => { k with frun := k.frun.set i (some { run with todo := r, causes := x, ready := k.cyc + 1 }) }
      if k.cyc < run.ready then s
      else match run.todo with
        | [] => s.frontDone c i run.op run.causes
        | t :: r =>
          if run.dead then go (s.charge run.op.launch 1) r 0
          else
            let (f, victim, x) := k.front[i].insert t
            if victim.isSome && s.outOfTurn (s.spillTo c run.op.x i).toList 4 then s
            else
              let s1 := (s.setCore c { k with front := k.front.set i f }).charge run.op.launch 1
              let (s2, y) := match victim with
                | some v => s1.spill c run.op.x i v
                | none => (s1, 0)
              go s2 r (run.causes ||| x ||| y))

/-! ### The words (R259-R263) -/

/-- Accepts a front operation on its bank, or sets INV where the bank is no front (R221, R256, R259). -/
def State.acceptFront (s : State) (b : BitVec 3) (kind : FKind) (src : BitVec 3) (cfg n : W64) (v : VReg) (x : BitVec 12) : State :=
  if !(s.granted b && (kind != .fmrg || s.granted src)) then s.fatalMe .permission
  else
    match frontOf b with
    | none => s.land 1 .none (cINV ||| x)
    | some i =>
      if s.bankClass b ≠ 1 ∨ (kind = .fmrg ∧ s.bankClass src ≠ 1) then s.land 1 .none (cINV ||| x)
      else
        let cx := s.me
        let s1 := if x = 0 then s else s.land 1 .none x
        s1.modHere fun k =>
          { k with
            seqCtr := k.seqCtr + 1
            fq := k.fq.set i (k.fq[i] ++ [⟨kind, k.seqCtr, s.cur.x, cx.launch, cx.unit, s.cur.org, b, src, cfg, v, n, k.cyc + 1⟩]) }

/-- FINIT configures and empties a front (R260). -/
def execFinit (_t : BitVec 3) (_i : BitVec 2) (n : BitVec 3) (a : BitVec 5) (s : State) : Out :=
  .next (s.acceptFront n .finit n (s.sreg a) 0 0 0)

/-- FINS inserts rows of a vector (R261). -/
def execFins (_t : BitVec 3) (_i : BitVec 2) (n : BitVec 3) (a b : BitVec 5) (s : State) : Out :=
  let (v, c) := s.vsrc a
  .next (s.acceptFront n .fins n 0 (s.sreg b) v c)

/-- FMRG merges a front into another (R262). -/
def execFmrg (_t : BitVec 3) (_i : BitVec 2) (d n : BitVec 3) (s : State) : Out := .next (s.acceptFront d .fmrg n 0 0 0 0)

/-- The front of a bank of class FRONT. -/
def State.frontAt (s : State) (b : BitVec 3) : Option Front :=
  match frontOf b with
  | some i => if s.bankClass b = 1 then some s.here.front[i] else none
  | none => none

/-- FRD reads sixteen tuples, latency 4; zeros with INV where the bank is no front (R259, R263). -/
def execFrd (_t : BitVec 3) (_i : BitVec 2) (d : BitVec 5) (n : BitVec 3) (a : BitVec 5) (s : State) : Out :=
  .next (if !(s.granted n) then s.fatalMe .permission
    else match s.frontAt n with
      | none => s.land 4 (.v d 0) cINV
      | some f =>
        let i := (fld (s.sreg a) 0 8).toNat
        s.land 4 (.v d (packElems 4096 256 ((List.range 16).map fun r => ((f.tuples[i + r]?).map fun t => (t.row f.d).toNat).getD 0))) 0)

/-- The status word of `fcnt st` (R263 Table 6). -/
def Front.status (f : Front) : W64 :=
  BitVec.ofNat 64 (f.sr.toNat * 2 ^ 24 + f.sph.toNat * 2 ^ 20 + f.kappa.toNat * 2 ^ 18 + f.pol.toNat * 2 ^ 16 + f.dir.toNat * 2 ^ 12
    + f.dm1.toNat * 2 ^ 10 + f.tuples.length)

/-- FCNT reads the status or a counter, latency 2; 0 with INV where the bank is no front (R259, R263). -/
def execFcnt (_t : BitVec 3) (_i : BitVec 2) (d : BitVec 5) (n k : BitVec 3) (s : State) : Out :=
  .next (if !(s.granted n) then s.fatalMe .permission
    else match s.frontAt n with
      | none => s.land 2 (.s d 0) cINV
      | some f =>
        let v : W64 := match k.toNat with
          | 0 => f.status
          | 1 => f.disc.setWidth 64
          | 2 => f.remv.setWidth 64
          | 3 => f.nand.setWidth 64
          | _ => f.ovfd.setWidth 64
        s.land 2 (.s d v) 0)

/-- FCLR empties a front and keeps its configuration (R260). -/
def execFclr (_t : BitVec 3) (_i : BitVec 2) (n : BitVec 3) (s : State) : Out := .next (s.acceptFront n .fclr n 0 0 0 0)

/-- Saved front operations are accepted again (R258). -/
def State.readmitFront (s : State) (c : Nat) (x : CtxId) : State :=
  ((s.ctx c x).savedF.foldl (fun (a : State) f =>
    match frontOf f.bank with
    | some i => a.modCore c fun k =>
      { k with seqCtr := k.seqCtr + 1, fq := k.fq.set i (k.fq[i] ++ [{ f with x := x, seq := k.seqCtr, after := k.cyc + 1 }]) }
    | none => a) s).modCtx c x fun cx => { cx with savedF := [] }

end Sys2Proof.Machine
end

