-- ==== Sys2Proof/Machine/TileWords.lean ====
section
/-! DEFINITION. The MT slot: reads and writes of the core's own tiles, creation, counts, parking, planes, rings and latches, quotas
(R155-R185, R411). -/

namespace Sys2Proof.Machine

/-! ### Waiting at a stream head (R38, R165, R166) -/

/-- The word waits for an allocation of n granules: its counter starts at zero when the wait does (R165, R166). -/
def State.waitAlloc (s : State) (n : Nat) : State :=
  let m := streamOf s.cur.slot
  let s1 := if s.cur.note.isNone then s.modMe fun cx => { cx with allocWait := vmapI (fun i k => if i = m.val then 0 else k) cx.allocWait } else s
  ({ s1 with cur := { s1.cur with note := some n } } : State).waitHead .tile

/-- The word waits for no allocation (R166). -/
def State.unnoted (s : State) : State := { s with cur := { s.cur with note := none } }

/-- A change made by the word at hand to an entry, logged for the units that can name it (R395 kind 7). -/
def State.noted (s before : State) (l : TLoc) : State := s.logTstate before l (some (.ctx before.cur.x))

/-- The word meets a PARKED tile: the unpark starts, or waits for one of 64 places or for granules (R161, R168, R169). -/
def State.meetParked (s : State) (l : TLoc) (trap : Bool) : State :=
  if 64 ≤ s.parks l.core then s.unnoted.waitHead .queueFull
  else match s.startUnpark l with
    | some s1 => ((s1.noted s l).unnoted).waitHead .unpark
    | none => if trap then s.waitAlloc (s.tile l).granules else s.waitHead .tile

/-- An access at the head of a stream to an entry: it goes on with the state it finds, or waits, or is the fatal POISON fault (R161, Table 4). -/
def State.access (s : State) (l : TLoc) (trap : Bool) (k : Bool → State) : State :=
  match s.avail l with
  | .absent => k false
  | .ready => k true
  | .waiting => ((s.wakeBanks l).unnoted).waitHead .tile
  | .unpark => s.meetParked l trap
  | .poison => s.fatalMe .poison

/-- A read operand of an own tile: none where it finds no tile; an ABSENT ring entry is waited for (R161, R173, R411). -/
def State.readOp (s : State) (o : BitVec 9) (k : Option TLoc → State) : State :=
  match s.consumer o with
  | none => k none
  | some l =>
    if isHandle o ∧ (s.tile l).st = .absent then s.waitHead .ring
    else s.access l true fun found => k (if found then some l else none)

/-- A write operand of an own tile (Table 4, R411). -/
def State.writeOp (s : State) (o : BitVec 9) (k : Option TLoc → State) : State :=
  match s.consumer o with
  | none => k none
  | some l => s.access l true fun found => k (if found then some l else none)

/-- An MT word has been performed: one access of its unit (R394). -/
def State.mtDone (s : State) : State := s.performed.ownAccess

/-- A performed read of a found tile: its count change, and the `.q` push (R159, R161). -/
def State.readDone (s : State) (l : Option TLoc) (rk : BitVec 2) : State :=
  let s1 := match l with
    | some l => (s.countRead l rk).noted s l
    | none => s
  if rk = 2 then s1.pushCqIn l.isSome else s1

/-- n bytes at offset o of what a read finds, with the causes it sets (R161, R177). -/
def State.readData (s : State) (l : Option TLoc) (o n : Nat) : BitVec (8 * n) × BitVec 12 :=
  match l with
  | none => (0, cABSENT)
  | some l => ((s.tile l).read o n, if (s.tile l).size ≤ o then cINV else 0)

/-! ### Reads (R177) -/

/-- TLD loads 512 bytes; it lands 4 cycles after (R175, R177). -/
def execTld (_t : BitVec 3) (_i : BitVec 2) (x : BitVec 9) (r : BitVec 2) (_d p : BitVec 5) (s : State) : Out :=
  let o := s.pOffset p 512
  .next (if o % 64 ≠ 0 then s.fatalMe .misalign
    else s.readOp x fun l =>
      let (v, c) := s.readData l o 512
      (((s.result 4 v).causeIn c).readDone l r).mtDone)

/-- TLW loads one word; it lands 3 cycles after (R175, R177). -/
def execTlw (_t : BitVec 3) (_i : BitVec 2) (x : BitVec 9) (r : BitVec 2) (_d a : BitVec 5) (s : State) : Out :=
  let o := (s.opS a).toNat % 65536
  .next (if o % 8 ≠ 0 then s.fatalMe .misalign
    else s.readOp x fun l =>
      let (v, c) := s.readData l o 8
      (((s.result 3 (v.setWidth 4096)).causeIn c).readDone l r).mtDone)

/-- SQLD appends an entry of 64 scales to a side; a full side is a full engine queue (R122, R177). -/
def execSqld (_t : BitVec 3) (_i : BitVec 2) (x : BitVec 9) (r : BitVec 2) (d : BitVec 1) (p : BitVec 5) (s : State) : Out :=
  let o := s.pOffset p 128
  let side := if d = 0 then s.me.sqA else s.me.sqB
  .next (if o % 128 ≠ 0 then s.fatalMe .misalign
    else if 16 ≤ side.length then s.waitHead .queueFull
    else s.readOp x fun l =>
      let (v, c) := s.readData l o 128
      let s1 := s.modMe fun cx => if d = 0 then { cx with sqA := cx.sqA ++ [v] } else { cx with sqB := cx.sqB ++ [v] }
      ((s1.causeIn c).readDone l r).mtDone)

/-! ### Writes (R178) -/

/-- n bytes written at o of a found tile: INV wholly beyond it, ABSENT where there is none (R178). -/
def State.writeData (s : State) (l : Option TLoc) (o n : Nat) (v : BitVec (8 * n)) : State :=
  match l with
  | none => s.causeIn cABSENT
  | some l =>
    let s1 := ((s.writeTile l fun t => t.write o n v).noteWrite l o n (some s.cur.x)).noted s l
    if (s.tile l).size ≤ o then s1.causeIn cINV else s1

/-- TST stores 512 bytes (R178). -/
def execTst (_t : BitVec 3) (_i : BitVec 2) (x : BitVec 9) (_a p : BitVec 5) (s : State) : Out :=
  let o := s.pOffset p 512
  .next (if o % 64 ≠ 0 then s.fatalMe .misalign
    else s.writeOp x fun l => (s.writeData l o 512 s.cur.ops.v).mtDone)

/-- TSW stores one word (R178). -/
def execTsw (_t : BitVec 3) (_i : BitVec 2) (x : BitVec 9) (a b : BitVec 5) (s : State) : Out :=
  let o := (s.opS a).toNat % 65536
  .next (if o % 8 ≠ 0 then s.fatalMe .misalign
    else s.writeOp x fun l => (s.writeData l o 8 (s.opS b)).mtDone)

/-- The word an atomic leaves: 0 add, 1 max, 2 swap, 3 compare and swap (R178). -/
def atomicWord (o : BitVec 2) (old a b : W64) : W64 :=
  match o.toNat with
  | 0 => old + a
  | 1 => if old.slt a then a else old
  | 2 => a
  | _ => if old = a then b else old

/-- An atomic on the word at offset o of a found tile: the old value, 0 for no tile (R178). -/
def State.atomData (s : State) (l : Option TLoc) (op : BitVec 2) (o : Nat) (a b : W64) : W64 × State :=
  match l with
  | none => (0, s.causeIn cABSENT)
  | some k =>
    let old : W64 := (s.tile k).read o 8
    (old, s.writeData l o 8 (atomicWord op old a b))

/-- TATOM: its offset is sD[15:0] as read at issue (R178). -/
def execTatom (_t : BitVec 3) (_i : BitVec 2) (x : BitVec 9) (op : BitVec 2) (d a : BitVec 5) (s : State) : Out :=
  let o := (s.opS d).toNat % 65536
  .next (if o % 8 ≠ 0 then s.fatalMe .misalign
    else s.writeOp x fun l =>
      let (old, s1) := s.atomData l op o (s.opS a) (s.opS (a + 1))
      (s1.result 3 (old.setWidth 4096)).mtDone)

/-! ### Creating and ending (R162-R166, R179-R181) -/

/-- A declared count, and whether it saturates (R162). -/
def declared (v : W64) : Nat × BitVec 12 := if 65535 < v.toNat then (65535, cCOUNTSAT) else (v.toNat, 0)

/-- TALLOC (R179): d is the descriptor, if one is supplied. -/
def State.talloc (s : State) (o : BitVec 9) (d : Option W64) (n : W64) : State :=
  let c := s.cur.core
  match s.producer o with
  | none => (s.causeIn cINV).mtDone
  | some l =>
    let t := s.tile l
    if t.st ≠ .absent then s.waitHead .ring
    else if (d.map fun w => !(descOk w)).getD false then (s.causeIn cINV).mtDone
    else
      let t1 := (d.map t.shape).getD t
      let (k, sat) := declared n
      if k = 0 then (s.setTile l t1).mtDone
      else if !(s.allocOk c (some s.cur.x) t1.granules) then s.waitAlloc t1.granules
      else ((((s.setTile l t1).makeTile l .present k s.cur.x).advanceP o).causeIn sat).mtDone

/-- The descriptor operand: register 0 keeps the entry's (R179). -/
def State.descOf (s : State) (a : BitVec 5) : Option W64 := if a = 0 then none else some (s.opS a)

def execTallocImm (_t : BitVec 3) (_i : BitVec 2) (x : BitVec 9) (a : BitVec 5) (c : BitVec 6) (s : State) : Out :=
  .next (s.talloc x (s.descOf a) (c.setWidth 64))

def execTallocReg (_t : BitVec 3) (_i : BitVec 2) (x : BitVec 9) (a b : BitVec 5) (s : State) : Out :=
  .next (s.talloc x (s.descOf a) (s.opS b))

/-- A signed change of a count (R180). -/
def State.changeCount (s : State) (l : Option TLoc) (v : Int) : State :=
  match l with
  | none => s.causeIn cABSENT
  | some l =>
    if (s.tile l).st = .absent then s.causeIn cABSENT
    else
      let (n, sat) := addCount (s.tile l).count v
      ((s.setCount l n).noted s l).causeIn (if sat then cCOUNTSAT else 0)

def execTcntImm (_t : BitVec 3) (_i : BitVec 2) (x : BitVec 9) (m : BitVec 11) (s : State) : Out :=
  .next (s.changeCount (s.consumer x) m.toInt).mtDone

def execTcntReg (_t : BitVec 3) (_i : BitVec 2) (x : BitVec 9) (a : BitVec 5) (s : State) : Out :=
  .next (s.changeCount (s.consumer x) (s.opS a).toInt).mtDone

/-- TDROP vanishes a live tile; no cause on an ABSENT one (R180). An unbound handle acts as on an ABSENT entry (R411). -/
def execTdrop (_t : BitVec 3) (_i : BitVec 2) (x : BitVec 9) (s : State) : Out :=
  .next (match s.consumer x with
    | some l => if (s.tile l).st = .absent then s.mtDone else ((s.vanish l).noted s l).mtDone
    | none => s.mtDone)

/-- TSHARE moves a unit's tile into its launch's table; in a cancelled launch it vanishes at once (R75, R157, R181). -/
def execTshare (_t : BitVec 3) (_i : BitVec 2) (x : BitVec 9) (s : State) : Out :=
  .next (match s.me.name false x with
    | none => (s.causeIn cABSENT).mtDone
    | some n =>
      let u : TLoc := .unit s.cur.core s.cur.x n
      let l : TLoc := .launch s.cur.core s.me.launch n
      let t := s.tile u
      if (s.tile (s.resolve s.cur.core s.cur.x n)).st = .absent then (s.causeIn cABSENT).mtDone
      else if t.st = .absent then s.mtDone
      else if (s.tile l).st ≠ .absent then (s.causeIn cINV).mtDone
      else
        let s1 := (s.setTile u { Tile.absent with rowsm1 := t.rowsm1, rbm1 := t.rbm1, layout := t.layout, fmt := t.fmt }).setTile l
          { t with scope := true }
        let s2 := s1.logTstate s1 l (some (.ctx s.cur.x))
        let ended := (s.launch? s.me.launch).any fun k => k.stage = .cancelled
        (if ended then s2.endTiles s.me.launch [l] else s2).mtDone)

/-! ### Parking and status (R168, R169, R182) -/

/-- TPARK (R182): waits for a FILLING tile; too little park space sets INV. -/
def State.park (s : State) (l : Option TLoc) : State :=
  match l with
  | none => (s.causeIn cABSENT).mtDone
  | some l =>
    let t := s.tile l
    match t.st with
    | .absent => (s.causeIn cABSENT).mtDone
    | .filling => s.waitHead .tile
    | .present =>
      match s.launch? (s.ownerLaunch l) with
      | none => s.mtDone
      | some k =>
        if s.avail l = .waiting then (s.wakeBanks l).waitHead .tile
        else if 64 ≤ s.parks l.core then s.waitHead .queueFull
        else if k.parkCap < k.parkUsed + t.parkBytes then (s.causeIn cINV).mtDone
        else (((s.setTile l { t with st := .parking }).modLaunch k.id fun k => { k with parkUsed := k.parkUsed + t.parkBytes }).noted s l).mtDone
    | .parking | .parked | .unparking | .poisoned => s.mtDone

/-- TUNPARK starts the unpark of a PARKED tile (R182). -/
def State.unpark (s : State) (l : Option TLoc) : State :=
  match l with
  | none => (s.causeIn cABSENT).mtDone
  | some l =>
    match (s.tile l).st with
    | .absent => (s.causeIn cABSENT).mtDone
    | .parked =>
      if 64 ≤ s.parks l.core then s.waitHead .queueFull
      else match s.startUnpark l with
        | some s1 => (s1.noted s l).mtDone
        | none => s.waitAlloc (s.tile l).granules
    | _ => s.mtDone

def execTparkTile (_t : BitVec 3) (_i : BitVec 2) (x : BitVec 9) (s : State) : Out := .next (s.park (s.consumer x))

/-- The register form: 0x1FF does nothing (R182). -/
def execTparkReg (_t : BitVec 3) (_i : BitVec 2) (a : BitVec 5) (s : State) : Out :=
  .next (if regTile (s.opS a) = 0x1FF then s.mtDone else s.park (s.consumer (regTile (s.opS a))))

def execTunparkTile (_t : BitVec 3) (_i : BitVec 2) (x : BitVec 9) (s : State) : Out := .next (s.unpark (s.consumer x))

def execTunparkReg (_t : BitVec 3) (_i : BitVec 2) (a : BitVec 5) (s : State) : Out :=
  .next (if regTile (s.opS a) = 0x1FF then s.mtDone else s.unpark (s.consumer (regTile (s.opS a))))

/-- TSTAT reads the entry without waiting; 0 for an unbound handle (R182, R411). -/
def execTstat (_t : BitVec 3) (_i : BitVec 2) (x : BitVec 9) (_d : BitVec 5) (s : State) : Out :=
  .next (s.result 3 (((s.consumer x).map fun l => (s.tstatWord l).setWidth 4096).getD 0)).mtDone

/-! ### Planes (R118, R119, R183) -/

/-- The codes of a row encoded in a plane format, in blocks of `block` elements: 64-bit plane words, the blocks' scales, causes (R116-R119). -/
def encodeRow (apf : Bool) (n ty block : Nat) (row : List Nat) : List Nat × List Nat × BitVec 12 :=
  let blocks := (List.range (ceilDiv row.length block)).map fun b => (row.drop (b * block)).take block
  let enc := blocks.map fun l =>
    let se := scaleExp n (blockExp ty l)
    (l.map fun v => if apf then encodeApf n se ty v else encodeBpn n ty v, scaleBits se)
  let codes := enc.flatMap fun e => e.1
  let groups := (List.range (codes.length / 64)).map fun g => ((codes.drop (64 * g)).take 64).map Prod.fst
  let planes := groups.flatMap fun g => (List.range n).map fun p => packNat 1 (g.map (planeBit n p))
  (planes, enc.map Prod.snd, codes.foldl (fun c q => c ||| q.2) 0)

/-- The tile tD and t(D+1) after `tplane` of tS, with causes (R183). -/
def planesOf (ts td tsc : Tile) : Tile × Tile × BitVec 12 :=
  let ty := ts.fmt.toNat
  let n := fmtPlanes td.fmt.toNat
  let apf := fmtApf td.fmt.toNat
  let k := ts.rowBytes * 8 / tyBits ty
  (List.range ts.rows).foldl (fun (d, sc, c) i =>
    let row := splitNat (tyBits ty) k (ts.read (i * ts.rowBytes) ts.rowBytes).toNat
    let (p, se, x) := encodeRow apf n ty 64 row
    let d1 := d.write (i * td.rowBytes) (n * k / 8) (packElems _ 64 p)
    let sc1 := if apf then
        (se.zipIdx).foldl (fun (q : Tile) e => q.write (e.2 * tsc.rowBytes + 2 * i) 2 (BitVec.ofNat _ e.1)) sc
      else sc
    (d1, sc1, c ||| x)) (td, tsc, 0)

/-- TPLANE encodes an element tile into planes and scales, as one access of its three tiles (R183). -/
def execTplane (_t : BitVec 3) (_i : BitVec 2) (d n : BitVec 8) (r : BitVec 2) (s : State) : Out :=
  let at_ (k : Nat) : TLoc := s.resolve s.cur.core s.cur.x k
  let ld := at_ d.toNat
  let lc := at_ (d.toNat + 1)
  let ls := at_ n.toNat
  let waits (l : TLoc) : Bool := (s.tile l).st = .filling || (s.tile l).st = .unparking || s.avail l = .waiting
  .next (if waits ld then (s.wakeBanks ld).waitHead .tile
    else if waits lc then (s.wakeBanks lc).waitHead .tile
    else s.access ls true fun found =>
      let ts := if found then s.tile ls else { s.tile ls with data := 0 }
      let td := s.tile ld
      let tc := s.tile lc
      let ty := ts.fmt.toNat
      let k := ts.rowBytes * 8 / tyBits ty
      let np := fmtPlanes td.fmt.toNat
      let ok := td.st = .present && tc.st = .present && !ts.layout && ty ≤ 10 && td.layout && td.rows = ts.rows && k % 64 = 0
        && np * k / 8 ≤ td.rowBytes && k / 64 ≤ tc.rows && 128 ≤ tc.rowBytes
      if !ok then (s.causeIn cINV).mtDone
      else
        let (d1, c1, x) := planesOf ts td tc
        let s1 := (s.setTile ld { s.tile ld with data := d1.data }).setTile lc { tc with data := c1.data }
        let s2 := (s1.noteWrite ld 0 d1.size (some s.cur.x)).noteWrite lc 0 c1.size (some s.cur.x)
        let s3 := if found then (s2.countRead ls r).noted s2 ls else s2
        (s3.causeIn (x ||| (if found then 0 else cABSENT))).mtDone)

/-! ### Rings, latches, quota (R172-R174, R184, R185) -/

/-- HBIND sets a ring; one past t255 binds nothing and sets INV (R184). -/
def execHbind (_t : BitVec 3) (_i : BitVec 2) (m : BitVec 8) (n c : BitVec 4) (s : State) : Out :=
  let k := c.toNat + 1
  .next (if 256 < m.toNat + k then (s.causeIn cINV).mtDone
    else (s.modMe fun cx => { cx with h := vset (n := 2 ^ 4) cx.h n.toFin (some ⟨m.toNat, k, 0, 0⟩) }).mtDone)

/-- Moves a ring by f, modulo its size; no effect on an unbound handle (R184). -/
def State.moveRing (s : State) (n : BitVec 4) (f : Ring → Ring) : State :=
  s.modMe fun cx => { cx with h := vset (n := 2 ^ 4) cx.h n.toFin ((cx.ring n).map f) }

def execHadvp (_t : BitVec 3) (_i : BitVec 2) (n c : BitVec 4) (s : State) : Out :=
  .next (s.moveRing n fun r => { r with p := (r.p + c.toNat + 1) % r.n }).mtDone

def execHadvc (_t : BitVec 3) (_i : BitVec 2) (n c : BitVec 4) (s : State) : Out :=
  .next (s.moveRing n fun r => { r with c := (r.c + c.toNat + 1) % r.n }).mtDone

/-- QBIND binds a latch to a handle (R184). -/
def execQbind (_t : BitVec 3) (_i : BitVec 2) (h : BitVec 4) (q : BitVec 2) (s : State) : Out :=
  .next (s.modMe fun cx => { cx with q := vset (n := 2 ^ 2) cx.q q.toFin (some h) }).mtDone

def execQbindUnbind (_t : BitVec 3) (_i : BitVec 2) (q : BitVec 2) (s : State) : Out :=
  .next (s.modMe fun cx => { cx with q := vset (n := 2 ^ 2) cx.q q.toFin none }).mtDone

/-- TQUOTA (R185): privileged; it acts where the context holds a unit and the quotas of the core stay within 1,024. -/
def execTquota (_t : BitVec 3) (_i : BitVec 2) (c : BitVec 2) (a : BitVec 5) (s : State) : Out :=
  let v : BitVec 11 := fld (s.opS a) 0 11
  let y : CtxId := c.toFin
  let sum := (allCtx.map fun x => if x = y then v.toNat else (s.ctx s.cur.core x).quota.toNat).sum
  .next (if !s.me.priv then s.fatalMe .permission
    else if (s.ctx s.cur.core y).st ≠ .free ∧ v.toNat ≤ 1024 ∧ sum ≤ 1024 then
      (s.modCtx s.cur.core y fun cx => { cx with quota := v }).mtDone
    else (s.causeIn cINV).mtDone)

end Sys2Proof.Machine
end

