-- ==== Sys2Proof/Machine/Cluster.lean ====
section
/-! DEFINITION. The MC slot: peer tiles, peer atomics and counts, peer copies, named barriers and events (R264-R282). -/

namespace Sys2Proof.Machine

/-! ### Peer words (R268) -/

/-- The reserved bits of a peer word are zero. -/
def peerOk (w : W64) : Bool := fld w 60 4 = 0#4 && fld w 51 1 = 0#1 && fld w 7 9 = 0#9

/-- An MC word has been performed; one at its own core counts as an access of its unit's store (R394). -/
def State.mcDone (s : State) (own : Bool) : State := if own then s.performed.ownAccess else s.performed

/-- The launch-table entry on the peer core that a tile operand names; none for an unbound handle (R268, R411). -/
def State.peerLoc (s : State) (w : W64) (x : BitVec 9) : Option TLoc :=
  (s.me.name false x).map fun n => .launch (peerCore s.cur.core w) s.me.launch n

def State.isOwn (s : State) (w : W64) : Bool := peerCore s.cur.core w = s.cur.core

/-- A peer word's checks: reserved bits do nothing with INV, a core beyond the cluster is PERMISSION, a bad offset MISALIGN (R268, R273). -/
def State.peerChecked (s : State) (w : W64) (align : Nat) (bad k : State) : State :=
  if !(peerOk w) then bad
  else if 96 ≤ (fld w 0 7).toNat then s.fatalMe .permission
  else if (fld w 16 16).toNat % align ≠ 0 then s.fatalMe .misalign
  else k

/-- In a replay the stores of other cores are the world: nothing is done to them (R399). -/
def State.peerAccess (s : State) (w : W64) (x : BitVec 9) (k : Option TLoc → State) : State :=
  match s.peerLoc w x with
  | none => k none
  | some l => if s.replaying && !(s.isOwn w) then k none else s.access l false fun found => k (if found then some l else none)

/-! ### Reads and writes (R273) -/

/-- A peer read of n bytes: its result lands when its data returns (R40, R273). -/
def State.peerRead (s : State) (x : BitVec 9) (rk : BitVec 2) (c : BitVec 5) (n : Nat) : State :=
  let w := s.opS c
  let o := (fld w 16 16).toNat
  let bad :=
    let s1 := (s.causeIn cINV).modMe (·.dropPend s.cur.tok)
    (if rk = 2 then s1.pushCqIn false else s1).performed
  s.peerChecked w (if n = 512 then 64 else 8) bad (s.peerAccess w x fun l =>
    let (v, cs) := s.readData l o n
    (((s.result 0 (v.setWidth 4096)).causeIn cs).readDone l rk).mcDone (s.isOwn w))

/-- CLD (R273). -/
def execCld (_t : BitVec 3) (_i : BitVec 2) (x : BitVec 9) (r : BitVec 2) (_d c : BitVec 5) (s : State) : Out :=
  .next (s.peerRead x r c 512)

/-- CLW (R273). -/
def execClw (_t : BitVec 3) (_i : BitVec 2) (x : BitVec 9) (r : BitVec 2) (_d c : BitVec 5) (s : State) : Out :=
  .next (s.peerRead x r c 8)

/-- A peer write of n bytes (R273). -/
def State.peerWrite (s : State) (x : BitVec 9) (c : BitVec 5) (n : Nat) (v : BitVec (8 * n)) : State :=
  let w := s.opS c
  s.peerChecked w (if n = 512 then 64 else 8) (s.causeIn cINV).performed (s.peerAccess w x fun l =>
    (s.writeData l (fld w 16 16).toNat n v).mcDone (s.isOwn w))

/-- CST (R273). -/
def execCst (_t : BitVec 3) (_i : BitVec 2) (x : BitVec 9) (_a c : BitVec 5) (s : State) : Out := .next (s.peerWrite x c 512 s.cur.ops.v)

/-- CSW (R273). -/
def execCsw (_t : BitVec 3) (_i : BitVec 2) (x : BitVec 9) (b c : BitVec 5) (s : State) : Out := .next (s.peerWrite x c 8 (s.opS b))

/-- CATOM: sD holds the peer word at issue (R274). -/
def execCatom (_t : BitVec 3) (_i : BitVec 2) (x : BitVec 9) (o : BitVec 2) (d a : BitVec 5) (s : State) : Out :=
  let w := s.opS d
  .next (s.peerChecked w 8 ((s.causeIn cINV).result 0 0).performed (s.peerAccess w x fun l =>
    let (old, s1) := s.atomData l o (fld w 16 16).toNat (s.opS a) (s.opS (a + 1))
    (s1.result 0 (old.setWidth 4096)).mcDone (s.isOwn w)))

/-- CCNT changes a peer tile's count (R275). -/
def execCcnt (_t : BitVec 3) (_i : BitVec 2) (x : BitVec 9) (a c : BitVec 5) (s : State) : Out :=
  let w := s.opS c
  .next (s.peerChecked w 1 (s.causeIn cINV).performed
    (if s.replaying && !(s.isOwn w) then s.performed
    else (s.changeCount (s.peerLoc w x) (s.opS a).toInt).mcDone (s.isOwn w)))

/-! ### Copies (R276, R277) -/

/-- A pending-byte barrier held by another launch (R265). -/
def State.foreignPb (s : State) (pb : BitVec 3) : Bool :=
  let b := s.nb s.cur.core pb.toNat
  !s.replaying && pb != 0 && b.owner != 0 && b.owner != s.me.launch

/-- The holding instance that a command records: 0 for a free barrier (R196). -/
def State.pbInst (s : State) (pb : BitVec 3) : Nat :=
  let b := s.nb s.cur.core pb.toNat
  if pb = 0 ∨ b.owner = 0 then 0 else b.inst

/-- A command of the word at hand. -/
def State.newCmd (s : State) (op : BitVec 6) : Cmd :=
  { Cmd.zero with num := s.uidCtr, slot := s.cur.slot, op := op, word := s.cur.raw, org := s.cur.org, launch := s.me.launch, unit := s.me.unit, tok := s.cur.tok }

/-- The bytes of a command are added to its barrier as it enters its queue (R196); a free one gets none, and INV is set in STICKY6. DEDUCED: "so does a
command" of R265 takes over STICKY6 too (log entry 23). -/
def State.enterPb (s : State) (pb : BitVec 3) (n : Nat) : State :=
  if pb = 0 then s
  else if s.pbInst pb = 0 then
    let s1 := ({ s with cur := { s.cur with slot := 6 } } : State).causeIn cINV
    { s1 with cur := s.cur }
  else s.addBytes s.cur.core pb n

/-- CCOPY creates its destination and enters the copy queue (R276, R277). -/
def execCcopy (_t : BitVec 3) (_i : BitVec 2) (x : BitVec 9) (r : BitVec 2) (c : BitVec 5) (s : State) : Out :=
  let w := s.opS c
  let pb : BitVec 3 := fld w 48 3
  let core := s.cur.core
  let peer := peerCore core w
  .next (s.peerChecked w 1 (s.causeIn cINV).performed
    (if s.foreignPb pb then s.fatalMe .permission
    else match s.producer x with
      | none => (s.causeIn cINV).performed
      | some l =>
        let t := s.tile l
        let stile := (fld w 52 8).toNat
        let src := s.tile (.launch peer s.me.launch stile)
        let count := (fld w 32 16).toNat
        if t.st ≠ .absent then s.waitHead .ring
        else if 8 ≤ s.me.ccq.length then s.waitHead .queueFull
        else if src.size ≠ t.size then (s.causeIn cINV).performed
        else if count = 0 then s.performed
        else if !(s.bytesFit core pb t.size) then s.waitHead .queueFull
        else if !(s.allocOk core (some s.cur.x) t.granules) then s.waitAlloc t.granules
        else
          let m : Cmd := { s.newCmd 0x03 with
            srcCore := peer, aux := [stile], consume := r = 0, total := t.size / 64, pb := pb, pbInst := s.pbInst pb, pbLeft := t.size }
          let s1 := ({ s with uidCtr := s.uidCtr + 1 } : State).makeTile l .filling count s.cur.x
          let s2 := ((s1.advanceP x).enterPb pb t.size).modMe fun cx => { cx with ccq := cx.ccq ++ [{ m with dst := some (s1.tile l).uid }] }
          s2.mcDone true))

/-! ### Named barriers (R264-R267, R278-R281) -/

/-- A barrier word on a barrier of a core: PERMISSION where another launch holds it; a free one goes to `free` (R265). -/
def State.barrierWord (s : State) (c n : Nat) (free : State) (k : Barrier → State) : State :=
  let b := s.nb c n
  if b.owner = 0 then free else if b.owner ≠ s.me.launch then s.fatalMe .permission else k b

/-- BINIT (R264, R278). -/
def State.binit (s : State) (n : BitVec 11) (t : BitVec 16) : State :=
  let c := s.cur.core
  if s.replaying then s.performed
  else
    let take : State :=
      ({ s with uidCtr := s.uidCtr + 1 } : State).setNb c n.toNat
        { pend := 0, exp := t, owner := s.me.launch, phase := false, target := t, inst := s.uidCtr + 1, flips := 0 }
    s.barrierWord c n.toNat take.performed fun b =>
      if b.exp = b.target ∧ b.pend = 0 then (s.setNb c n.toNat { b with target := t, exp := t }).performed
      else (s.causeIn cINV).performed

def execBinitImm (_t : BitVec 3) (_i : BitVec 2) (n : BitVec 11) (m : BitVec 9) (s : State) : Out := .next (s.binit n (m.setWidth 16))

def execBinitReg (_t : BitVec 3) (_i : BitVec 2) (n : BitVec 11) (a : BitVec 5) (s : State) : Out :=
  .next (s.binit n ((s.opS a).setWidth 16))

/-- An arrival (R279); on the own core it records ARV and AP (R267). -/
def State.arrive (s : State) (c : Nat) (n : BitVec 11) (own : Bool) : State :=
  s.barrierWord c n.toNat (s.causeIn cINV).performed fun b =>
    if b.exp = 0 then (s.causeIn cINV).performed
    else
      let s1 := if own then s.modMe fun cx => { cx with arv := alSet n.toNat (true, b.phase) cx.arv } else s
      (s1.setNb c n.toNat ({ b with exp := b.exp - 1 }.settle false)).performed

/-- BARV on the own core (R279). -/
def execBarv (_t : BitVec 3) (_i : BitVec 2) (n : BitVec 11) (s : State) : Out :=
  .next (if s.replaying then s.performed else s.arrive s.cur.core n true)

/-- BARV on a core of the cluster: only CORE of the peer word counts (R279). -/
def execBarvRemote (_t : BitVec 3) (_i : BitVec 2) (n : BitVec 11) (c : BitVec 5) (s : State) : Out :=
  let w := s.opS c
  .next (if 96 ≤ (fld w 0 7).toNat then s.fatalMe .permission
    else if s.replaying then s.performed
    else s.arrive (peerCore s.cur.core w) n (s.isOwn w))

/-- AP of a barrier, where ARV is set (R267). -/
def Ctx.ap (cx : Ctx) (n : Nat) : Option Bool := ((cx.arv.find? fun p => p.1 = n).filter fun p => p.2.1).map fun p => p.2.2

/-- ARV of a barrier is cleared; AP stays (R267, R280). -/
def Ctx.clearArv (cx : Ctx) (n : Nat) : Ctx :=
  { cx with arv := cx.arv.filterMap fun p => if p.1 ≠ n then some p else if p.2.2 then some (n, false, true) else none }

/-- A `bwait` completes: an input of its unit (R395 kind 10). -/
def State.wake (s : State) : State := (s.inputMe 10 1 []).1.performed

/-- BWAIT (R280): on a free barrier it completes at once with INV; with ARV = 1 once PHASE differs from AP, else at the next flip after its performance, and
while it waits every flip is one; in a replay it completes at its entry (R396). -/
def execBwait (_t : BitVec 3) (_i : BitVec 2) (n : BitVec 11) (s : State) : Out :=
  .next (if s.replaying then (if s.inputReady 10 then (s.modMe (·.clearArv n.toNat)).wake else s.waitHead .barrier)
    else s.barrierWord s.cur.core n.toNat (s.causeIn cINV).wake fun b =>
      let flipped := (s.cur.note.map fun f => decide (f ≠ b.flips)).getD false
      let past := ((s.me.ap n.toNat).map fun p => decide (b.phase ≠ p)).getD false
      if flipped || past then (s.modMe (·.clearArv n.toNat)).wake
      else ({ s with cur := { s.cur with note := some b.flips } } : State).waitHead .barrier)

/-- BTRY pushes whether the phase has completed (R280). -/
def execBtry (_t : BitVec 3) (_i : BitVec 2) (n : BitVec 11) (s : State) : Out :=
  .next (if s.replaying then (s.pushCqIn false).performed
    else s.barrierWord s.cur.core n.toNat ((s.causeIn cINV).pushCqIn false).performed fun b =>
      match s.me.ap n.toNat with
      | some p => if b.phase ≠ p then ((s.modMe (·.clearArv n.toNat)).pushCqIn true).performed else (s.pushCqIn false).performed
      | none => (s.pushCqIn false).performed)

/-- BEXP changes the arrivals still due (R281). -/
def execBexp (_t : BitVec 3) (_i : BitVec 2) (n : BitVec 11) (a : BitVec 5) (s : State) : Out :=
  .next (if s.replaying then s.performed
    else s.barrierWord s.cur.core n.toNat (s.causeIn cINV).performed fun b =>
      (s.setNb s.cur.core n.toNat ({ b with exp := BitVec.ofNat 16 (addCount b.exp.toNat (s.opS a).toInt).1 }.settle false)).performed)

/-- CSEV sets event latches on a core of the cluster (R282). -/
def execCsev (_t : BitVec 3) (_i : BitVec 2) (c : BitVec 5) (m : BitVec 4) (s : State) : Out :=
  let w := s.opS c
  .next (if 96 ≤ (fld w 0 7).toNat then s.fatalMe .permission
    else if s.replaying then s.performed
    else (s.setEvents (peerCore s.cur.core w) m (some s.me.vf)).performed)

end Sys2Proof.Machine
end

