-- ==== Sys2Proof/Machine/Window.lean ====
section
/-! DEFINITION. What a write to a management window does: debug slots, context debug registers, live state, trace and sampling controls
(R11, R371, R377-R382, R385, R393, R398). -/

namespace Sys2Proof.Machine

/-! ### Resuming a stopped context (R379, R381, R382) -/

/-- RESUME and STEP restart a stopped context, one blocked in `wfe` or `xdisp` blocking there again (R67, R336); with a fatal fault held by FSTOP the rest
of R343 follows. Pending events are tested again. -/
def State.resumeCtx (s : State) (c : Nat) (x : CtxId) (step : Bool) : State :=
  let cx := s.ctx c x
  if !cx.dbg.stopped then s
  else if cx.dbg.fatal then (s.modCtx c x fun k => { k with dbg := { k.dbg with stopped := false } }).endFatal c x
  else
    let s1 := s.modCtx c x fun k =>
      { k with st := .ready, wait := k.wait.kept, readyWait := 0, dbg := { k.dbg with stopped := false }, pendEv := { k.pendEv with skipBp := true, stepStop := step } }
    if cx.wait = .xdisp then s1.boundary c x
    else if cx.pc.toNat % 4 ≠ 0 then s1.fatal c x .misalign 15 cx.next
    else if (cx.segOf cx.pc).isNone then s1.fatal c x .segment 15 cx.next
    else s1.boundary c x

/-- HALT, or with `all` HALTALL, requests a stop at the next boundary; a context that issues no bundle stands at one (R378). -/
def State.haltCtx (s : State) (c : Nat) (x : CtxId) (all : Bool) : State :=
  let cx := s.ctx c x
  if cx.dbg.stopped || !cx.st.live then s
  else (s.modCtx c x fun k =>
    { k with pendEv := if all then { k.pendEv with haltAll := true } else { k.pendEv with halt := true } }).boundary c x

/-! ### Logging and checkpoints (R393, R398) -/

/-- A unit's log starts, where a debug slot of its launch has LOGEN and its area is of a legal size (R377, R393). -/
def State.startLog (s : State) (c : Nat) (x : CtxId) : State :=
  let cx := s.ctx c x
  match s.dbgSlots cx.vf cx.launch with
  | [] => s
  | (_, d) :: _ =>
    let n := d.loglog2.toNat
    if !(s.dbgBit cx.vf cx.launch 4) || n < 16 || 40 < n then s
    else
      let base := d.logbase + cx.unit.setWidth 64 * BitVec.ofNat 64 (2 ^ n)
      let s1 := s.modCtx c x fun k => { k with rep := { k.rep with logging := true, base := base, log2 := n, ord := 0, wr := 0, rd := 0 } }
      ((s1.storeVa cx.vf base.toNat 8 0).storeVa cx.vf (base.toNat + 8) 8 0).storeVa cx.vf (base.toNat + 16) 8 cx.scycle.toNat

/-- The words of a list stored from an address. -/
def State.putWords (s : State) (vf : Nat) : Nat → List W64 → State
  | _, [] => s
  | a, w :: r => State.putWords (s.storeVa vf a 8 w.toNat) vf (a + 8) r

/-- The banks of a unit: granted ones in ascending number. -/
def Core.granted (k : Core) (x : CtxId) : List (BitVec 3) :=
  ((List.range 8).map (BitVec.ofNat 3)).filter fun b => vget (n := 3) k.grant b = some x

/-- A bank of the image: its words, or for a front bank its front state, in bytes whose layout the spec does not give. -/
def Core.bankWords (k : Core) (b : BitVec 3) : List W64 :=
  if vget (n := 3) k.cls b = 1 then (List.range 2048).map fun i => freeWordOf (vget (n := 1) k.front (BitVec.ofNat 1 b.toNat)).data (8 * i)
  else (List.range 2048).map fun i => fld (vget (n := 3) k.banks b) (64 * i) 64

/-- The live tiles that a unit can name, by name (R398). -/
def State.nameable (s : State) (c : Nat) (x : CtxId) : List (Nat × Tile) :=
  ((List.range 256).map fun n => (n, s.tile (s.resolve c x n))).filter fun p => p.2.st != .absent

/-- A unit as a frame holds it: its context, and its banks with their classes and front states. -/
def State.frameFor (s : State) (c : Nat) (x : CtxId) : Frame :=
  let k := s.core c
  { core := c, ctx := s.ctx c x, inStore := false
    banks := (k.granted x).map fun b =>
      (b.toNat, vget (n := 3) k.cls b, vget (n := 3) k.banks b, if 6 ≤ b.toNat then vget (n := 1) k.front (BitVec.ofNat 1 b.toNat) else Front.empty) }

/-- SNAP writes the checkpoint of a stopped context at SNAPADDR: header, frame record, counter block, bank image, tile image; the log restarts
(R398). -/
def State.snapCtx (s : State) (c : Nat) (x : CtxId) : State :=
  let cx := s.ctx c x
  if !cx.dbg.stopped then s
  else
    let k := s.core c
    let frame := (List.range 23684).map fun i => cx.frameWord k (k.grantMask x) (8 * i)
    let cnt := (List.range 108).map fun i => cx.frameWord k (k.grantMask x) (0x2E440 + 8 * i)
    let banks := (k.granted x).flatMap k.bankWords
    let tiles := s.nameable c x
    let image := tiles.flatMap fun p => p.2.word (k.retained p.2) :: (List.range (p.2.size / 8)).map fun i => fld p.2.data (64 * i) 64
    let o1 := 64
    let o2 := o1 + 0x2E440
    let o3 := o2 + 896
    let o4 := o3 + 8 * banks.length
    let head : List W64 := [o1, 189472, o2, 864, o3, 8 * banks.length, o4, 8 * image.length].map (BitVec.ofNat 64)
    let at_ := k.snapaddr[x] &&& 0xFFFFFFFFFFFFF000#64
    let a := at_.toNat
    let s1 := ((((s.putWords cx.vf a head).putWords cx.vf (a + o1) frame).putWords cx.vf (a + o2) cnt).putWords cx.vf (a + o3) banks).putWords
      cx.vf (a + o4) image
    ({ s1 with snaps := s1.snaps ++ [⟨cx.vf, at_, head ++ frame.take 32, x, s.frameFor c x, tiles⟩] } : State).startLog c x

/-- A write to DCTL: more than one of its four bits does nothing (R380). -/
def State.dctl (s : State) (c : Nat) (x : CtxId) (v : W64) : State :=
  match (fld v 0 4).toNat with
  | 1 => s.haltCtx c x false
  | 2 => s.resumeCtx c x false
  | 4 => s.resumeCtx c x true
  | 8 => s.snapCtx c x
  | _ => s

/-! ### Live state (R381) -/

/-- A 64-bit word written at offset o of a stopped context's frame layout, in the sections that take writes; reserved bits stay zero (R12), a STICKY word
keeps to its access codes (R11, R347), and a shape record keeps a legal value (R129). -/
def Ctx.frameWrite (cx : Ctx) (o : Nat) (v : W64) : Ctx :=
  let put32 {n : Nat} (t : Vector W32 n) (i : Nat) : Vector W32 n :=
    vmapI (fun j e => if j = i then v.setWidth 32 else if j = i + 1 then fld v 32 32 else e) t
  if 0x100 ≤ o ∧ o < 0x200 then cx.setS (BitVec.ofNat 5 ((o - 0x100) / 8)) v
  else if 0x200 ≤ o ∧ o < 0x400 then
    let r := BitVec.ofNat 3 ((o - 0x200) / 64)
    cx.setK r (putBits (cx.kreg r) (8 * (o % 64)) 64 v)
  else if 0x400 ≤ o ∧ o < 0x410 then 
    let i := (o - 0x400) / 4
    { cx with sh := vmapI (fun j e => if j = i then liveSh e (v.setWidth 32) else if j = i + 1 then liveSh e (fld v 32 32) else e) cx.sh }
  else if 0x410 ≤ o ∧ o < 0x450 then { cx with rlen := putBits cx.rlen (8 * (o - 0x410)) 64 v }
  else if 0x450 ≤ o ∧ o < 0x470 then { cx with tg := put32 cx.tg ((o - 0x450) / 4) }
  else if 0x480 ≤ o ∧ o < 0x640 then
    let r := BitVec.ofNat 3 ((o - 0x480) / 56)
    let i := (o - 0x480) % 56 / 8
    cx.setAg r (if i = 0 then { cx.agOf r with a := v } else (cx.agOf r).setStride (i - 1) v)
  else if 0x6C0 ≤ o ∧ o < 0x700 then
    { cx with mp := vmapI (fun j e => if j = (o - 0x6C0) / 8 then v &&& mpMask (BitVec.ofNat 3 ((o - 0x6C0) / 8)) else e) cx.mp }
  else if 0x700 ≤ o ∧ o < 0x740 then { cx with ft := (put32 cx.ft ((o - 0x700) / 4)).map (· &&& ftMask) }
  else if 0x740 ≤ o ∧ o < 0x780 then { cx with sticky := vmapI (fun j e => if j = (o - 0x740) / 8 then stickyClear e v else e) cx.sticky }
  else if 0x2400 ≤ o ∧ o < 0x6400 then
    let r := BitVec.ofNat 5 ((o - 0x2400) / 512)
    cx.setV r (putBits (vget (n := 5) cx.v r) (8 * (o % 512)) 64 v)
  else match latchAt o with
    | none => cx
    | some (wide, n, d) =>
      let put (w : VReg) : VReg := putBits w (8 * d) 64 v
      let go := cx.lands.foldl (fun (acc : List Land × Nat) l =>
        if l.dest.data.1 != wide then (acc.1 ++ [l], acc.2)
        else (acc.1 ++ [if acc.2 = n then { l with dest := l.dest.withData (put l.dest.data.2) } else l], acc.2 + 1)) ([], 0)
      let owed := cx.pend.foldl (fun (acc : List Pend × Nat) p => match p.data.filter fun w => w.1 = wide with
        | none => (acc.1 ++ [p], acc.2)
        | some w => (acc.1 ++ [if acc.2 = n then { p with val := some (put w.2) } else p], acc.2 + 1)) ([], go.2)
      { cx with lands := go.1, pend := owed.1 }

/-! ### Debug slots and trace controls (R377, R384, R385) -/

/-- A write to a debug slot of a function; HALTALL asks every unit of its launch to stop (R377). -/
def State.slotWrite (s : State) (vf d r : Nat) (v : W64) : State :=
  let old := alGet DbgSlot.reset d (s.vf vf).dbg
  let put (n : DbgSlot) : State := s.modVf vf fun k => { k with dbg := alSet d n k.dbg }
  if 16 ≤ d then s
  else if r = 0 then
    let w := v &&& 0xFFFFFFFF0000001D#64
    let s1 := put { old with w0 := w }
    let id : W32 := fld w 32 32
    if w.getLsbD 2 && id != 0 then
      (s1.units.filter fun p => ((s1.ctx p.1 p.2).vf = vf || vf = 128) && (s1.ctx p.1 p.2).launch = id).foldl (fun t p => t.haltCtx p.1 p.2 true) s1
    else s1
  else if r = 8 then put { old with logbase := v }
  else if r = 16 then put { old with loglog2 := fld v 0 6 }
  else if 0x100 ≤ r ∧ r < 0x180 then
    put { old with bps := vmapI (fun i b => if i = (r - 0x100) / 16 then (if r % 16 = 0 then { b with w0 := v } else { b with w1 := v }) else b) old.bps }
  else s

/-- A write to the trace and sampling controls; TEN from 0 to 1 zeroes TWR, TRD and TLOST (R385). -/
def TraceRegs.write (t : TraceRegs) (o : Nat) (v : W64) : TraceRegs :=
  match o / 8 with
  | 0 => { t with tbase := v }
  | 1 =>
    let n := { t with ten := v.getLsbD 9, wrap := v.getLsbD 8, tlog2 := fld v 0 6 }
    if v.getLsbD 9 && !t.ten then { n with twr := 0, trd := 0, tlost := 0 } else n
  | 3 => if t.wrap then t else { t with trd := v }
  | 5 => { t with tmask := v }
  | 6 => { t with sper := v }
  | 7 => { t with sbase := v }
  | 8 => { t with slog2 := fld v 0 6 }
  | _ => t

/-- A 64-bit word written at offset o of the window of function vf (128: the physical function): registers under their access codes; offsets
that name none ignore writes (R11, R188, R371). -/
def State.windowWrite (s : State) (vf o : Nat) (v : W64) : State :=
  let reach (cx : Ctx) : Bool := cx.vf = vf || vf = 128
  if 0x800000 ≤ o ∧ o < 0x810000 then s.slotWrite vf ((o - 0x800000) / 4096) (o % 4096) v
  else if 0x900000 ≤ o ∧ o < 0x900000 + 64 * 6144 then
    let i := (o - 0x900000) / 64
    let x : CtxId := Fin.ofNat 4 i
    if !(reach (s.ctx (i / 4) x)) then s
    else if o % 64 = 0 then s.dctl (i / 4) x v
    else if o % 64 = 16 then s.modCore (i / 4) fun k => { k with snapaddr := k.snapaddr.set x v }
    else s
  else if 0xA00000 ≤ o ∧ o < 0xA00050 then s.modVf vf fun k => { k with tr := k.tr.write (o - 0xA00000) v }
  else if 0x1000000 ≤ o ∧ o < 0x1000000 + 0x40000 * 6144 then
    let i := (o - 0x1000000) / 0x40000
    let x : CtxId := Fin.ofNat 4 i
    let cx := s.ctx (i / 4) x
    if cx.dbg.stopped && reach cx then s.setCtx (i / 4) x (cx.frameWrite (o % 0x40000) v) else s
  else s

/-- n bytes written at a physical address: memory, or the window of function vf in region 3, whose words are written whole (R188, R371). -/
def State.put (s : State) (vf pa n v : Nat) : State :=
  if region pa ≠ 3 then s.store pa n v
  else
    let o := pa % 2 ^ 48
    (List.range ((o % 8 + n + 7) / 8)).foldl (fun t i =>
      let w := o / 8 * 8 + 8 * i
      let old := (t.winRead vf w).toNat
      let new := (List.range 8).foldl (fun acc j =>
        acc + (if o ≤ w + j ∧ w + j < o + n then v / 256 ^ (w + j - o) % 256 else old / 256 ^ j % 256) * 256 ^ j) 0
      t.windowWrite vf w (BitVec.ofNat 64 new)) s

end Sys2Proof.Machine
end

