-- ==== Sys2Proof/Machine/Global.lean ====
section
/-! DEFINITION. The MG slot: direct accesses to global memory, atomics, flag words and bindings, invalidation, and the hand-off of commands to
the engine queues (R186-R215, R283, R302, R307, R366, R368, R411). -/

namespace Sys2Proof.Machine

/-! ### What a command reads and writes (R193, R195, R210) -/

/-- Rows per index, index shift, and index size of a gather or scatter (R205 Table 7). -/
def Cmd.rpi (m : Cmd) : Nat := (fld m.ctl 24 6).toNat + 1
def Cmd.sh (m : Cmd) : Nat := (fld m.ctl 18 6).toNat
def Cmd.isz (m : Cmd) : Nat := 2 * 2 ^ (fld m.ctl 16 2).toNat

/-- The number of indices. -/
def Cmd.indices (m : Cmd) : Nat := m.total / m.rpi

/-- The global address of a tile row under an index (R205). -/
def Cmd.rowAddr (m : Cmd) (idx : W64) (row : Nat) : W64 := m.a1 + (idx <<< m.sh) + BitVec.ofNat 64 (row % m.rpi * m.len)

/-- Word i of a descriptor. -/
def descWord (d : BitVec 512) (i : Nat) : W64 := fld d (64 * i) 64

/-- The descriptor of a command beyond the core: as it was read at the start, and before that as memory holds it (R213). -/
def State.descNow (s : State) (vf : Nat) (m : Cmd) : BitVec 512 := if m.len = 0 then BitVec.ofNat 512 (s.loadVa vf m.a1.toNat 64) else m.desc

/-- Bytes per logit or bias value (R307). -/
def skimSize (w0 : W64) : Nat := if w0.getLsbD 4 then 2 else 4

/-- Bytes per element of a collective (R368). -/
def collSize (w0 : W64) : Nat := if fld w0 8 4 = 1#4 then 2 else 4

/-- The ranks of a group (R368). -/
def State.ranks (s : State) (g : Nat) : Nat := ((s.groups.find? fun p => p.1 = g).map fun p => p.2.p).getD 1

/-- Bytes that a collective reads and receives (R369). -/
def State.collBytes (s : State) (d : BitVec 512) : Nat × Nat :=
  let w0 := descWord d 0
  let n := (descWord d 3).toNat * collSize w0
  let p := s.ranks (fld w0 20 12).toNat
  match (fld w0 16 4).toNat with
  | 1 => (p * n, n)
  | 2 => (n, p * n)
  | _ => (n, n)

/-- The gcoll lines of a rank that the network has taken already. -/
def State.collTaken (s : State) (d : BitVec 512) (m : Cmd) : Nat :=
  let w0 := descWord d 0
  match s.group? (fld w0 20 12).toNat with
  | none => 0
  | some g => ((g.rankOf m).bind fun r => (g.inbox.find? fun e => e.inst = fld w0 32 32 && e.rank = r && e.vf.isNone).map fun e => e.lines.length).getD 0

/-- What a descriptor command has still to read or write beside its descriptor: whether written, start, length (R195, R303, R308, R366, R369). A list is
read as a whole; rows and lines are done one by one. -/
def State.descRanges (s : State) (m : Cmd) (d : BitVec 512) : List (Bool × Nat × Nat) :=
  let w (i : Nat) : W64 := descWord d i
  let going := m.len = 2
  let done := 64 * m.next
  match m.op.toNat with
  | 0x11 =>
    let n := (fld (w 0) 16 16).toNat
    [(false, (w 1).toNat, if going then 0 else 4 * n), (true, (w 2).toNat, if fld (w 0) 0 4 = 2#4 then 0 else 8 * n)]
  | 0x12 =>
    let cols := (fld (w 0) 42 14).toNat
    let rows := (fld (w 0) 16 26).toNat
    if fld (w 0) 0 4 = 0#4 then
      ((List.range rows).filter fun i => !(going && m.aux.contains i)).flatMap fun i =>
        [(false, (w 1).toNat + i * (w 2).toNat, cols * skimSize (w 0)), (true, (w 3).toNat + 128 * i, 128)]
    else if fld (w 0) 0 4 = 1#4 then [(false, (w 1).toNat, if going then 0 else 4 * cols)]
    else []
  | 0x13 =>
    let (r, n) := s.collBytes d
    let k := if going then r else 64 * s.collTaken d m
    let z := if going then done else 0
    [(false, (w 1).toNat + k, r - k), (true, (w 2).toNat + z, n - z)]
  | 0x14 =>
    if fld (w 0) 0 4 = 1#4 then [(false, (w 1).toNat, if going then 0 else 64)]
    else [(false, (w 1).toNat + done, if m.ctl = 0xFF then 0 else (w 2).toNat - done)]
  | 0x15 => [(true, (w 1).toNat + done, (w 2).toNat - done)]
  | _ => []

/-- Word i of 32 bits of a number. -/
def word32 (v i : Nat) : Nat := v / 2 ^ (32 * i) % 2 ^ 32

/-- What an incomplete `xdisp` has still to read or write: once its list is closed, the ids that remain and the record; before that, the table, the
record and both halves of the list as memory names them (R310, R311). -/
def State.xdispRanges (s : State) (vf : Nat) (m : Cmd) : List (Bool × Nat × Nat) :=
  match m.aux with
  | [_, size, _, take, rest, _, open_, next_, rec_] =>
    [(false, open_ + 4 * take, 4 * rest), (true, next_, 4 * rest), (true, open_ + 4 * take, 4 * (size - take)), (true, rec_ + 32, 8)]
  | _ =>
    let args := (((s.launch? m.launch).map fun (l : Launch) => l.args).getD 0).toNat
    let at_ := s.loadVa vf (args + 8) 8
    let xdt := s.loadVa vf at_ 128
    let rec_ := xdt / 2 ^ 64 % 2 ^ 64 + 64 * (m.a1.toNat % 2 ^ 32)
    let r := s.loadVa vf rec_ 64
    let n := 4 * Nat.max (word32 r 0) (((List.range 8).map fun i => word32 xdt (8 + i)).foldl Nat.max 0)
    let half (h : Nat) : Bool × Nat × Nat := (true, r / 2 ^ (128 + 64 * h) % 2 ^ 64, n)
    [(false, args + 8, 8), (false, at_, 128), (true, rec_, 64), half 0, half 1]

/-- The bytes that an incomplete command has still to read or write: whether written, start, length (R195). -/
def State.cmdRanges (s : State) (vf : Nat) (m : Cmd) : List (Bool × Nat × Nat) :=
  let done := 64 * m.next
  let a1 := m.a1.toNat
  if m.state = 3 ∨ m.dead then []
  else if m.slot = 4 then [(false, a1, 64 + 8 * 1792)]
  else if m.slot = 0 then s.xdispRanges vf m
  else if m.slot ≠ 7 then []
  else match m.op.toNat with
    | 0x04 => [(false, a1 + done, m.len - done)]
    | 0x05 | 0x06 =>
      let wr := m.op = 0x06#6
      if (m.indices - 1) * m.rpi < m.next ∨ (m.idx.isSome ∧ (m.indices - 1) * m.rpi ≤ m.next) then
        (false, m.a2.toNat, m.indices * m.isz) ::
          ((List.range (m.total - m.next)).map fun i => (wr, (m.rowAddr (m.idx.getD 0) (m.next + i)).toNat, m.len))
      else [(wr, 0, 2 ^ 64)]
    | 0x07 => [(true, a1 + done, m.len - done)]
    | 0x08 => [(false, a1 + done, m.len - done), (true, m.a2.toNat + done, m.len - done)]
    | 0x10 | 0x16 => []
    | _ => (true, a1, 64) :: s.descRanges m (s.descNow vf m)

/-- The incomplete commands of the unit at hand. -/
def State.myCmds (s : State) : List Cmd := s.me.eq.toList.flatten.filter fun m => m.of s.me && !m.dead

/-- What the accepted `mload`s of the unit at hand, which have still to enter their queue, will read (R241, R283). -/
def State.loadsAhead (s : State) : List (Nat × Nat) :=
  (s.here.mq.filter fun m => m.of s.me && m.kind = .mload && m.seq < s.cur.tok).map fun m => (m.addr.toNat, 64 + 8 * 1792)

/-- An incomplete older command has still to read or write a line of the access, by this or another mapping of it, or any line, while it has an index to
read (R195, R283). -/
def State.lineBusy (s : State) (va : W64) (n : Nat) : Bool :=
  let vf := s.me.vf
  let busy (a k : Nat) : Bool := linesMeet va.toNat n a k
    || (s.physOf vf a k).any fun p => (s.physOf vf va.toNat n).any fun z => linesMeet z.1 z.2 p.1 p.2
  (s.myCmds.any fun m => m.tok < s.cur.tok && (s.cmdRanges vf m).any fun r => r.2.2 = 2 ^ 64 || busy r.2.1 r.2.2)
  || s.loadsAhead.any fun r => busy r.1 r.2

/-! ### Direct accesses (R189-R191, R195, R197, R199, R202) -/

/-- The request places of a core in use: one for each direct access in flight, and for each line of a command that waits for a walk. DESIGN CHOICE: a
command's line that need not wait is read or written in one step, and holds its place no longer; so that a command holds at most one (R191; log entry
29). -/
def State.requests (s : State) (c : Nat) : Nat :=
  ((s.core c).ctx.toList.map fun cx => (cx.pend.filter fun p => p.again.isSome).length + ((cx.stores.map fun st => st.num).eraseDups).length).sum
  + ((alGet [] (clusterOf c) s.walks).map fun k => (k.who.filter fun w => w.core = c && w.queue != 7).length).sum

/-- An access cut where it crosses a 32 KiB page. -/
def pieces (va : W64) (n : Nat) : List (W64 × Nat) :=
  let k := 32768 - va.toNat % 32768
  if n ≤ k then [(va, n)] else [(va, k), (va + BitVec.ofNat 64 k, n - k)]

/-- The word at hand is with the page handler. -/
def State.faulted (s : State) : Bool := s.pfaults.any fun f => f.core = s.cur.core && f.x = s.cur.x && f.queue = 7

/-- An older access of the context to the bytes has still to take effect: a load of them whose data has not returned, before a write; or one of interrupted
code that a trap shadow holds (R283, R337). -/
def State.behindOwn (s : State) (wr : Bool) (a n : Nat) : Bool :=
  let cx := s.me
  (wr && cx.pend.any fun p => (p.again.bind StreamWord.direct).any fun d => s.rangesMeet cx.vf (a, n) d.2) || s.behindSaved cx wr a n

/-- A direct access waits for older commands' lines, and for older accesses of its own to the bytes (R195, R283). -/
def State.inOrder (s : State) (va : W64) (n : Nat) (wr : Bool) (k : State → State) : State :=
  let busy := s.lineBusy va n
  let t : State := { s with cur := { s.cur with note := if busy then some 1 else none } }
  if busy || s.behindOwn wr va.toNat n then t.waitHead .stall else k t

/-- A direct access of n bytes, which reads them (rd), writes them (wr) or both: it waits for its turn, for a request place, for a walk or for the page
handler, or takes PERMISSION; else it goes on with the physical pieces, and what it reads of a mended stripe is counted (R186-R191, R195, R197, R297). -/
def State.direct (s : State) (va : W64) (n : Nat) (rd wr : Bool) (k : List (Nat × Nat) → State) : State :=
  let cx := s.me
  let who (a : W64) : PFault := ⟨s.cur.core, s.cur.x, a, wr, 7, s.cur.tok, false⟩
  s.inOrder va n wr fun s =>
    if 768 ≤ s.requests s.cur.core then s.waitHead .stall
    else if s.faulted then s.waitHead .address
    else
      let l := (pieces va n).map fun p => (p, s.xlate s.cur.core cx.vf cx.priv wr p.1)
      match l.find? fun p => match p.2 with
        | .ok _ => false
        | _ => true with
      | some (_, .perm) => s.fatalMe .permission
      | some (p, .miss) => (s.missed cx.vf (who p.1)).waitHead .stall
      | some (p, .fault) => ({ s with pfaults := s.pfaults ++ [who p.1] } : State).waitHead .address
      | some (_, .ok _) => s
      | none =>
        let ps := l.filterMap fun p => match p.2 with
          | .ok pa => some (pa, p.1.2)
          | _ => none
        (k ps).fenAdd (if rd then s.fenCount ps else 0)

/-- Some line of the access is poisoned and no own store covers it whole (R199, R283). -/
def State.readsPoison (s : State) (ps : List (Nat × Nat)) : Bool :=
  (s.poison.any fun l => ps.any (fun p => p.1 / 64 ≤ l && l * 64 < p.1 + p.2)
    && !(s.me.stores.any fun st => st.pa ≤ l * 64 && l * 64 + 64 ≤ st.pa + st.n))
  || ps.any fun p => (region p.1 = 2 && s.boot.linkErr) || (region p.1 = 1 && (stripesOf p.1 p.2).any fun k => !(s.fenReads k))

/-! ### Who sees which writes (R283-R288) -/

/-- The instance of a scope around one party contains another (R287 Table 1): 0 CTX, 1 CORE, 2 CLUSTER, 3 DEVICE, 4 SYSTEM. -/
def inScope (sc : Nat) (a b : Party) : Bool :=
  match sc with
  | 0 => a = b
  | 1 => a.core = b.core
  | 2 => clusterOf a.core = clusterOf b.core
  | 3 => a.core < 1536 && b.core < 1536
  | _ => true

/-- The unit at hand as a party. -/
def State.party (s : State) : Party := ⟨s.cur.core, s.me.launch, s.me.unit⟩

/-- A unit sees a late write: its own, or one that an acquisition made visible to it; a command of the unit, given the flags that its bytes are bound to,
sees one acquired by such a flag (R283, R286). -/
def Late.sees (e : Late) (l u : W32) (flags : Option (List W64)) : Bool :=
  (e.launch = l && e.unit = u) || e.seen.any fun p => p.1 = l && p.2.1 = u && match flags, p.2.2 with
    | some fs, some f => fs.contains f
    | _, _ => true

/-- Bytes of one 64-byte line as a party finds them: memory, and over it the late writes of the line through the last that the party sees (R284). -/
def State.lineFor (s : State) (sees : Late → Bool) (pa n : Nat) : Nat :=
  let l := s.late.filter fun e => linesMeet pa n e.st.pa e.st.n
  let seen := (l.reverse.dropWhile fun e => !(sees e)).reverse
  overlay (seen.map fun e => e.st) pa n (readNat s.mem pa n)

def State.linesFor (s : State) (sees : Late → Bool) : Nat → Nat → Nat → Nat
  | 0, _, _ => 0
  | f + 1, pa, n =>
    let k := 64 - pa % 64
    if n ≤ k then s.lineFor sees pa n else s.lineFor sees pa k + 256 ^ k * State.linesFor s sees f (pa + k) (n - k)

/-- n bytes at pa as a party of function vf finds them (R284-R286). -/
def State.readFor (s : State) (vf : Nat) (sees : Late → Bool) (pa n : Nat) : Nat :=
  if region pa = 3 then s.load vf pa n
  else if s.late.isEmpty then readNat s.mem pa n
  else s.linesFor sees (n / 64 + 2) pa n

/-- Stores of a context that are performed, oldest first. -/
def State.performStores (s : State) (vf : Nat) (l : List Store) : State := l.foldl (fun t st => t.put vf st.pa st.n (st.data.toNat % 256 ^ st.n)) s

/-- The stores of ended units of a launch into their window are performed (R291). -/
def State.performWindow (s : State) (launch : W32) : State :=
  (s.wstores.filter fun p => p.1 = launch).foldl (fun t p => t.performStores p.2.1 [p.2.2]) { s with wstores := s.wstores.filter fun p => p.1 != launch }

/-- The context's own stores up to the last that meets n bytes at pa are performed (R283), each with all its pieces (R202, R284). -/
def State.flushTo (s : State) (pa n : Nat) : State :=
  let l := s.me.stores
  let tail := (l.reverse.takeWhile fun st => !(bytesMeet pa n st.pa st.n)).reverse
  let last := ((l.take (l.length - tail.length)).getLast?).map fun st => st.num
  let keep := tail.filter fun st => some st.num != last
  let go := l.take (l.length - keep.length)
  (s.performStores s.me.vf go).modMe fun cx => { cx with stores := keep }

/-- A direct read of the context, as one access (R202, R283, R284): its own youngest unperformed store of the bytes gives them where it covers them all; else the
stores that meet them are performed first. Also the releases whose sequence the value read continues: those of the flag word, where no write of a program
lies over it (R285, R288). -/
def State.ownRead (s : State) (pa n : Nat) : Nat × List Rel × State :=
  let cx := s.me
  let sees (e : Late) : Bool := e.sees cx.launch cx.unit none
  let world (t : State) : Nat × List Rel × State :=
    let plain := t.late.any fun e => sees e && bytesMeet pa n e.st.pa e.st.n
    (t.readFor cx.vf sees pa n, if plain then [] else alGet [] (pa / 8 * 8) t.rels, t)
  match (cx.stores.filter fun st => bytesMeet pa n st.pa st.n).getLast? with
  | none => world s
  | some st =>
    if region pa ≠ 3 ∧ st.pa ≤ pa ∧ pa + n ≤ st.pa + st.n then (st.data.toNat / 256 ^ (pa - st.pa) % 256 ^ n, [], s)
    else world (s.flushTo pa n)

/-- The context's most recent read of the flag word at va found the releases given (R285). -/
def State.observe (s : State) (va : W64) (l : List Rel) : State :=
  let w := va &&& ~~~7#64
  s.modMe fun cx => { cx with obs := cx.obs.filter (fun p => p.1 != w) ++ if l.isEmpty then [] else [(w, l)] }

/-- A flag word's releases, with the read-modify-write of a party added to their sequences and a new one put behind them (R288). -/
def State.keepRels (s : State) (pa : Nat) (l : List Rel) : State :=
  if l.isEmpty ∨ region pa = 3 then s else { s with rels := alSet pa l s.rels }

/-- AN ACQUISITION (R285-R288): the releases that the last read of the flag word found, and whose scope, own scope and sequence each contain the two parties,
make the writes that they cover visible to the unit. -/
def State.acquire (s : State) (va : W64) (sc : Nat) : State :=
  let me := s.party
  let found := ((s.me.obs.find? fun p => p.1 = va).map fun p => p.2).getD []
  let syncs (r : Rel) : Bool := inScope r.scope r.by_ me && inScope sc me r.by_ && r.chain.all fun q => inScope q.2 q.1 me
  let nums := (found.filter syncs).flatMap fun r => r.covers
  if nums.isEmpty then s
  else { s with late := s.late.map fun e => if nums.contains e.num then { e with seen := e.seen ++ [(me.launch, me.unit, some va)] } else e }

/-- A direct load's value is on its way: a freeze cancels it (R40, R215). -/
def State.loaded (s : State) (v : VReg) : State := s.modMe (·.fillPend s.cur.tok 0 v (some s.cur.word))

/-- The load at hand reads host memory where one of its pieces lies there (R188, R356). -/
def State.hostLoad (s : State) (ps : List (Nat × Nat)) : State :=
  if ps.any fun p => region p.1 = 2 then
    s.modMe fun cx => { cx with pend := cx.pend.map fun p => if p.tok = s.cur.tok then { p with host := true } else p }
  else s

/-- GLS (R202). -/
def execGls (_t : BitVec 3) (_i : BitVec 2) (_d : BitVec 5) (e : BitVec 6) (y : BitVec 3) (s : State) : Out :=
  let va := s.adr e
  let n := 2 ^ (y.toNat % 4)
  .next (if va.toNat % n ≠ 0 then s.fatalMe .misalign
    else if s.replaying then (s.loaded 0).performed
    else s.direct va n true false fun ps =>
      if s.readsPoison ps then s.fatalMe .poison
      else
        let (v, l, t) := s.ownRead (ps.headD (0, 0)).1 n
        let w : W64 := if y.toNat < 4 then BitVec.ofInt 64 (signed (8 * n) v) else BitVec.ofNat 64 v
        (((t.observe va l).loaded (w.setWidth 4096)).hostLoad ps).performed)

/-- A store of n bytes is issued: one entry per piece, under one number; it is performed later (R202, R210). -/
def State.issueStore (s : State) (va : W64) (v : VReg) (ps : List (Nat × Nat)) : State :=
  let (u, s1) := s.newUid
  let l := (ps.foldl (fun (acc : List Store × Nat) p =>
    (acc.1 ++ [⟨u, va + BitVec.ofNat 64 acc.2, p.1, p.2, (v >>> (8 * acc.2))⟩], acc.2 + p.2)) (([] : List Store), 0)).1
  (s1.modMe fun cx => { cx with stores := cx.stores ++ l }).performed

/-- GSS stores the low bytes of sA (R202). -/
def execGss (_t : BitVec 3) (_i : BitVec 2) (a : BitVec 5) (e : BitVec 6) (y : BitVec 3) (s : State) : Out :=
  let va := s.adr e
  let n := 2 ^ (y.toNat % 4)
  .next (if va.toNat % n ≠ 0 then s.fatalMe .misalign
    else if s.replaying then s.performed
    else s.direct va n false true (s.issueStore va ((s.opS a).setWidth 4096)))

/-- GVST stores 512 bytes of the vector source (R202). -/
def execGvst (_t : BitVec 3) (_i : BitVec 2) (_a : BitVec 5) (e : BitVec 6) (s : State) : Out :=
  let va := s.adr e
  .next (if va.toNat % 64 ≠ 0 then s.fatalMe .misalign
    else if s.replaying then s.performed
    else s.direct va 512 false true (s.issueStore va s.cur.ops.v))

/-! ### Atomics and flag words (R208-R211) -/

/-- An atomic access at a scope to the 64-bit word at va: f gives the word it writes back, if it writes, with a release of its own, if it makes one; k goes
on with the word it read and the releases that the word continued (R208, R284, R288). DESIGN CHOICE: it is performed for every party at once (log entry
30). -/
def State.atomicAt (s : State) (va : W64) (sc : Nat) (f : W64 → Option W64) (rel : Option Rel) (k : W64 → List Rel → State → State) : State :=
  s.direct va 8 true true fun ps =>
    if s.readsPoison ps then s.fatalMe .poison
    else
      let pa := (ps.headD (0, 0)).1
      let s1 := (s.flushTo pa 8).settle pa 8
      let old : W64 := BitVec.ofNat 64 (s1.load s.me.vf pa 8)
      let l := alGet [] pa s1.rels
      k old l (match f old with
        | none => s1
        | some w => (s1.put s.me.vf pa 8 w.toNat).keepRels pa ((l.map fun r => { r with chain := r.chain ++ [(s.party, sc)] }) ++ rel.toList))

/-- A global atomic with a result, the read of the word by its unit (R208, R285). -/
def State.gatomic (s : State) (e : BitVec 6) (sc : BitVec 3) (f : W64 → Option W64) : State :=
  let va := s.adr e
  if va.toNat % 8 ≠ 0 then s.fatalMe .misalign
  else if s.replaying then (s.result 0 0).performed
  else s.atomicAt va sc.toNat f none fun old l t => ((t.observe va l).result 0 (old.setWidth 4096)).performed

/-- The word a `gatom` leaves: 0 add, 1 max, 2 swap, 3 or (R208). -/
def gatomWord (o : BitVec 2) (old a : W64) : W64 :=
  match o.toNat with
  | 0 => old + a
  | 1 => if old.slt a then a else old
  | 2 => a
  | _ => old ||| a

/-- GATOM (R208). -/
def execGatom (_t : BitVec 3) (_i : BitVec 2) (_d : BitVec 5) (e : BitVec 6) (a : BitVec 5) (o : BitVec 2) (sc : BitVec 3) (s : State) : Out :=
  .next (s.gatomic e sc fun old => some (gatomWord o old (s.opS a)))

/-- GCAS: sA is the expected value, s(A+1) the new one; a failed one writes nothing (R208, R288). -/
def execGcas (_t : BitVec 3) (_i : BitVec 2) (_d : BitVec 5) (e : BitVec 6) (a : BitVec 5) (sc : BitVec 3) (s : State) : Out :=
  .next (s.gatomic e sc fun old => if old = s.opS a then some (s.opS (a + 1)) else none)

/-- GWAIT completes at the first read that differs (R209); in a replay at its entry (R396). -/
def execGwait (_t : BitVec 3) (_i : BitVec 2) (f v : BitVec 5) (s : State) : Out :=
  let va := s.opS f
  .next (if va.toNat % 8 ≠ 0 then s.fatalMe .misalign
    else if s.replaying then (if s.inputReady 10 then (s.inputMe 10 2 [0]).1.performed else s.waitHead .address)
    else s.direct va 8 true false fun ps =>
      if s.readsPoison ps then s.fatalMe .poison
      else
        let (n, l, t) := s.ownRead (ps.headD (0, 0)).1 8
        let w : W64 := BitVec.ofNat 64 n
        if w = s.opS v then t.waitHead .address else ((t.observe va l).inputMe 10 2 [w]).1.performed)

/-- GACQ: every younger access is performed after it, as the stream's order gives; it acquires the flag word at its scope (R210, R285, R286). -/
def execGacq (_t : BitVec 3) (_i : BitVec 2) (f : BitVec 5) (sc : BitVec 3) (s : State) : Out :=
  let va := s.opS f
  .next (if va.toNat % 8 ≠ 0 then s.fatalMe .misalign
    else if s.replaying then s.performed
    else s.inOrder va 8 false fun s => (s.acquire va sc.toNat).performed)

/-- What a saved MG word of interrupted code will write once it is handed over or performed, of the addresses that it has read (R206, R207, R213). -/
def State.savedWrites (s : State) (w : StreamWord) : List (Nat × Nat) :=
  let cx := s.me
  let size (o : BitVec 9) : Nat := ((cx.name false o).map fun n => (s.tile (s.resolve s.cur.core s.cur.x n)).size).getD 0
  let beyond (op : BitVec 6) (a : BitVec 5) : List (Nat × Nat) :=
    let va := w.ops.sreg a
    let d : BitVec 512 := BitVec.ofNat 512 (s.loadVa cx.vf va.toNat 64)
    ((true, va.toNat, 64) :: s.descRanges { Cmd.zero with op := op, launch := cx.launch, unit := cx.unit } d).filterMap fun r => if r.1 then some r.2 else none
  match decodeRaw w.slot w.word with
  | some (.gstore _ _ x n _ _) => [((vget (n := 3) w.ops.ag n).toNat, size x)]
  | some (.gscatter _ _ _ _ _ _) => [(0, 2 ^ 64)]
  | some (.gcopy _ _ d _ l _) => [((vget (n := 3) w.ops.ag d).toNat, (w.ops.sreg l).toNat)]
  | some (.gsluicePromote _ _ a _) => beyond 0x11 a
  | some (.gsluicePromoteX _ _ a _) => beyond 0x11 a
  | some (.gsluiceRelease _ _ a _) => beyond 0x11 a
  | some (.gskimSelect _ _ a _) => beyond 0x12 a
  | some (.gskimBiasw _ _ a _) => beyond 0x12 a
  | some (.gskimEpoch _ _ a _) => beyond 0x12 a
  | some (.gcollAllreduce _ _ a _) => beyond 0x13 a
  | some (.gcollReducescatter _ _ a _) => beyond 0x13 a
  | some (.gcollAllgather _ _ a _) => beyond 0x13 a
  | some (.gcollBroadcast _ _ a _) => beyond 0x13 a
  | some (.gsendData _ _ a _) => beyond 0x14 a
  | some (.gsendLaunch _ _ a _) => beyond 0x14 a
  | some (.grecv _ _ a _) => beyond 0x15 a
  | _ => (w.direct.filter fun d => d.1).toList.map fun d => d.2

/-- An older write of the context to a region bound to a flag is not yet performed: a store, a write of an incomplete command, or one of the saved words of
interrupted code (R210, R286, R337). -/
def State.owesBound (s : State) (flag : W64) : Bool :=
  let bound := s.me.binds.filter fun b => b.flag = flag
  let hit (a n : Nat) : Bool := bound.any fun b => bytesMeet a n b.base.toNat b.len.toNat
  s.me.stores.any (fun st => hit st.va.toNat st.n)
  || (s.myCmds.any fun m => (s.cmdRanges s.me.vf m).any fun r => r.1 && hit r.2.1 r.2.2)
  || ((s.me.shadow.map fun h => h.mg).getD []).any fun w => (s.savedWrites w).any fun r => hit r.1 r.2

/-- The context's late writes to the regions bound to a flag: what a release covers beside what every party sees already (R286). -/
def State.covered (s : State) (flag : W64) : List Nat :=
  let cx := s.me
  (s.late.filter fun e => e.launch = cx.launch && e.unit = cx.unit
    && cx.binds.any fun b => b.flag = flag && bytesMeet e.st.va.toNat e.st.n b.base.toNat b.len.toNat).map fun e => e.num

/-- GREL waits until the covered writes are performed, then adds 1 to the flag word, a release at its scope (R210, R285, R288). At scope CTX they are: a
context sees its own writes (R283). DESIGN CHOICE: at any wider scope they are performed once each has its place in coherence order, whichever parties see
it yet (log entry 30). -/
def execGrel (_t : BitVec 3) (_i : BitVec 2) (f : BitVec 5) (sc : BitVec 3) (s : State) : Out :=
  let va := s.opS f
  .next (if va.toNat % 8 ≠ 0 then s.fatalMe .misalign
    else if s.replaying then s.performed
    else if sc ≠ 0 ∧ s.owesBound va then s.waitHead .stall
    else s.atomicAt va sc.toNat (fun w => some (w + 1)) (some ⟨s.party, sc.toNat, s.covered va, []⟩) fun _ _ t => t.performed)

/-- GBIND (R211): a 17th binding, or one that overlaps a binding to another object, is UNBOUND. -/
def execGbind (_t : BitVec 3) (_i : BitVec 2) (r l f : BitVec 5) (s : State) : Out :=
  let b : Binding := ⟨s.opS r, s.opS l, s.opS f⟩
  .next (if b.flag.toNat % 8 ≠ 0 ∨ b.base.toNat % 64 ≠ 0 ∨ b.len.toNat % 64 ≠ 0 then s.fatalMe .misalign
    else s.inOrder b.flag 8 false fun s =>
      if b.len = 0 then s.performed
      else if 16 ≤ s.me.binds.length
          || s.me.binds.any (fun o => o.flag != b.flag && bytesMeet o.base.toNat o.len.toNat b.base.toNat b.len.toNat) then s.fatalMe .unbound
      else (s.modMe fun cx => { cx with binds := cx.binds ++ [b] }).performed)

/-- What a unit has acquired by a flag stays visible to its commands once a binding to the flag is gone: they have seen it, and nothing older after it
(R284). -/
def State.keepSeen (s : State) (flag : W64) : State :=
  let cx := s.me
  { s with late := s.late.map fun e => { e with seen := e.seen.map fun p =>
      if p.1 = cx.launch ∧ p.2.1 = cx.unit ∧ p.2.2 = some flag then (p.1, p.2.1, none) else p } }

/-- GUNBIND removes the binding that starts at sR to sF; none is UNBOUND (R211). -/
def execGunbind (_t : BitVec 3) (_i : BitVec 2) (r f : BitVec 5) (s : State) : Out :=
  let is (b : Binding) : Bool := b.base = s.opS r && b.flag = s.opS f
  .next (if (s.opS f).toNat % 8 ≠ 0 then s.fatalMe .misalign
    else s.inOrder (s.opS f) 8 false fun s => match s.me.binds.find? is with
      | none => s.fatalMe .unbound
      | some b => ((s.keepSeen b.flag).modMe fun cx => { cx with binds := cx.binds.erase b }).performed)

/-! ### Invalidation (R200, R214) -/

/-- Every incomplete command of the engine queues of a function, or of all: the unit's context, or its frame. -/
def State.queued (s : State) (vf : Option Nat) : List Nat :=
  let mine (v : Nat) : Bool := (vf.map fun f => decide (f = v)).getD true
  let fn (m : Cmd) : Bool := ((s.launch? m.launch).map fun l => mine l.vf).getD false
  let all := (s.cores.flatMap fun p => p.2.ctx.toList.flatMap fun cx => cx.eq.toList.flatten)
    ++ s.frames.flatMap fun f => f.ctx.eq.toList.flatten
  (all.filter fun m => fn m).map fun m => m.num

/-- AN INVALIDATION ACTS (R200): markers enter the queues, the buffers drop what it covers, and the commands ahead keep the old mapping, also where they wait
for a walk. -/
def State.invalidate (s : State) (vf : Option Nat) (covers : Tlb → Bool) (waiter : Option (Nat × CtxId × Nat)) (pte : List (Nat × Nat)) : State :=
  let old := ((s.cores.flatMap fun p => p.2.tlb) ++ s.ctlb.flatMap fun p => p.2).filter covers
  let ahead := s.queued vf
  { s.dropTlb covers with
    invs := s.invs ++ [⟨ahead, waiter, old.eraseDups, pte⟩]
    walks := s.walks.map fun p => (p.1, p.2.map fun k => { k with who := k.who.filter fun w => w.queue = 7 || !(ahead.contains w.num) }) }

/-- GTLBI (R214): PERMISSION outside privileged state; the stream moves on when the invalidation is complete. -/
def execGtlbi (_t : BitVec 3) (_i : BitVec 2) (a b : BitVec 5) (m : BitVec 2) (s : State) : Out :=
  let cx := s.me
  let w : Option (Nat × CtxId × Nat) := some (s.cur.core, s.cur.x, s.cur.tok)
  let lo := (s.opS a).toNat
  let hi := lo + (s.opS b).toNat * 32768
  let going : State := { s with cur := { s.cur with note := some 1 } }
  .next (if !cx.priv then s.fatalMe .permission
    else if s.replaying then s.performed
    else if s.invs.any fun v => v.waiter = w then going.waitHead .stall
    else if s.cur.note.isSome then s.performed
    else if s.lineBusy 0 0 then s.waitHead .stall
    else
      match m.toNat with
      | 0 => (going.invalidate (some cx.vf) (fun t => t.vf = cx.vf && t.va < hi && lo < t.va + 2 ^ t.bits) w []).waitHead .stall
      | 1 => (going.invalidate (some (lo % 256)) (fun t => t.vf = lo % 256) w []).waitHead .stall
      | _ => (going.invalidate none (fun _ => true) w []).waitHead .stall)

/-! ### Handing commands over (R192, R195, R196, R283) -/

/-- A command enters its queue: its bytes are added to its barrier (R44, R196, R265). -/
def State.handOff (s : State) (q : BitVec 2) (m : Cmd) (bytes : Nat) : State :=
  let free := s.replaying
  let m1 := { m with pbInst := if free then 0 else s.pbInst m.pb, pbLeft := bytes }
  let s1 : State := { s with uidCtr := s.uidCtr + 1 }
  ((if free then s1 else s1.enterPb m.pb bytes).modMe fun cx => cx.pushEq q m1).performed

/-- What holds a command at the stream head: a foreign barrier is PERMISSION; a full queue, a full counter, an own older access to its bytes that has still to
take effect (R192, R196, R265, R283, R337). -/
def State.canHand (s : State) (q : BitVec 2) (pb : BitVec 3) (bytes : Nat) (ranges : List (Bool × Nat × Nat)) (k : State) : State :=
  if s.foreignPb pb then s.fatalMe .permission
  else if 32 ≤ (vget (n := 2) s.me.eq q).length then s.waitHead .queueFull
  else if !s.replaying && !(s.bytesFit s.cur.core pb bytes) then s.waitHead .queueFull
  else if ranges.any (fun r => s.behindOwn r.1 r.2.1 r.2.2) then s.waitHead .stall
  else if s.me.stores.any fun st => ranges.any fun r => bytesMeet st.va.toNat st.n r.2.1 r.2.2
      || (s.physOf s.me.vf r.2.1 r.2.2).any fun p => bytesMeet st.pa st.n p.1 p.2 then s.waitHead .stall
  else k

/-- A command of the word at hand on an address. -/
def State.cmdAt (s : State) (op : BitVec 6) (a : W64) (pb : BitVec 3) : Cmd := { s.newCmd op with a1 := a, pb := pb }

/-- Bits per source row of a converting fetch, and the scale rows it makes: K elements, plane count, scale rows (R204); none where a condition fails. -/
def convertPlan (td ts : Tile) (name : Nat) (ft : W32) : Option (Nat × Nat × Nat) :=
  let n := fmtPlanes td.fmt.toNat
  let k := 8 * td.rowBytes / n
  let g := (fld ft 20 6).toNat
  let rows := ceilDiv k (64 * g)
  if name ≤ 254 && !ts.layout && ts.fmt.toNat ≤ 10 && n * k = 8 * td.rowBytes && k % 64 = 0 && ftValid ft && 1 ≤ g && rows ≤ ts.rows && 128 ≤ ts.rowBytes
  then some (k, n, rows) else none

/-- GFETCH at hand-off (R203, R204). -/
def State.gfetch (s : State) (o : BitVec 9) (n : BitVec 3) (cnt : W64) (pb : BitVec 3) : State :=
  let a := vget (n := 3) s.cur.ops.ag n
  let c := s.cur.core
  let x := s.cur.x
  let (count, sat) := declared cnt
  if a.toNat % 64 ≠ 0 then s.fatalMe .misalign
  else if s.foreignPb pb then s.fatalMe .permission
  else match s.me.name true o with
    | none => (s.causeIn cINV).performed
    | some name =>
      let l : TLoc := .unit c x name
      let l2 : TLoc := .unit c x (name + 1)
      let t := s.tile l
      let t2 := s.tile l2
      if t.st ≠ .absent then s.waitHead .ring
      else if count = 0 then s.performed
      else if t.layout ∧ name ≤ 254 ∧ t2.st ≠ .absent then s.waitHead .ring
      else if !t.layout then
        let m := { s.cmdAt 0x04 a pb with len := t.size, total := t.size / 64 }
        s.canHand 0 pb t.size [(false, a.toNat, t.size)] (
          if !(s.allocOk c (some x) t.granules) then s.waitAlloc t.granules
          else
            let s1 := s.makeTile l .filling count x
            (((s1.advanceP o).causeIn sat).handOff 0 { m with num := s1.uidCtr, dst := some (s1.tile l).uid } t.size))
      else match convertPlan t t2 name s.cur.ops.ft with
        | none => (s.causeIn cINV).performed
        | some (k, _, rows) =>
          let len := ceilDiv (t.rows * k * tyBits t2.fmt.toNat) 8
          let bytes := t.size + if fmtApf t.fmt.toNat then 128 * rows else 0
          let g := t.granules + t2.granules
          s.canHand 0 pb bytes [(false, a.toNat, len)] (
            if !(s.allocOk c (some x) g) then s.waitAlloc g
            else
              let s1 := (s.makeTile l .filling count x).makeTile l2 .filling count x
              let m := { s.cmdAt 0x04 a pb with
                num := s1.uidCtr, len := len, total := ceilDiv len 64, aux := [(t.word false).toNat, (t2.word false).toNat], ctl := fld s.cur.ops.ft 20 6 |>.setWidth 64
                dst := some (s1.tile l).uid, dst2 := some (s1.tile l2).uid }
              ((s1.advanceP o).causeIn sat).handOff 0 m bytes)

/-- GFETCH with a count 0-31 (R203). -/
def execGfetchImm (_t : BitVec 3) (_i : BitVec 2) (x : BitVec 9) (n : BitVec 3) (c : BitVec 5) (p : BitVec 3) (s : State) : Out :=
  .next (s.gfetch x n (c.setWidth 64) p)

/-- GFETCH with a register count (R203). -/
def execGfetchReg (_t : BitVec 3) (_i : BitVec 2) (x : BitVec 9) (n : BitVec 3) (c : BitVec 5) (p : BitVec 3) (s : State) : Out :=
  .next (s.gfetch x n (s.opS c) p)

/-- The control word of a gather or scatter is legal for a number of rows (R205 Table 7). -/
def gatherOk (w : W64) (rows : Nat) (scatter : Bool) : Bool :=
  fld w 33 31 = 0#31 && fld w 16 2 != 3#2 && rows % ((fld w 24 6).toNat + 1) = 0 && (!scatter || fld w 0 16 = 0#16)

/-- An index list address is aligned to its type; a reserved type needs none (R205). -/
def indexAligned (w a : W64) : Bool := fld w 16 2 = 3#2 || a.toNat % (2 * 2 ^ (fld w 16 2).toNat) = 0

/-- GGATHER at hand-off (R205). -/
def execGgather (_t : BitVec 3) (_i : BitVec 2) (o : BitVec 9) (n : BitVec 3) (j : BitVec 5) (s : State) : Out :=
  let a := vget (n := 3) s.cur.ops.ag n
  let ix := s.opS j
  let w := s.opS (j + 1)
  let pb : BitVec 3 := fld w 30 3
  let count := (fld w 0 16).toNat
  let c := s.cur.core
  let x := s.cur.x
  .next (if !(indexAligned w ix) then s.fatalMe .misalign
    else if s.foreignPb pb then s.fatalMe .permission
    else match s.producer o with
      | none => (s.causeIn cINV).performed
      | some l =>
        let t := s.tile l
        if t.st ≠ .absent then s.waitHead .ring
        else if !(gatherOk w t.rows false) then (s.causeIn cINV).performed
        else if count = 0 then s.performed
        else
          let m := { s.cmdAt 0x05 a pb with a2 := ix, ctl := w, len := t.rowBytes, total := t.rows }
          s.canHand 0 pb t.size [(false, 0, 2 ^ 64)] (
            if !(s.allocOk c (some x) t.granules) then s.waitAlloc t.granules
            else
              let s1 := s.makeTile l .filling count x
              (s1.advanceP o).handOff 0 { m with num := s1.uidCtr, dst := some (s1.tile l).uid } t.size))

/-- The entry a source operand of a command names at hand-off: its name (none unbound), its shape, and the bytes it will write. -/
def State.sourceOf (s : State) (o : BitVec 9) : List Nat × Tile :=
  match s.me.name false o with
  | none => ([], Tile.absent)
  | some n => ([n], s.tile (s.resolve s.cur.core s.cur.x n))

/-- GSCATTER at hand-off (R205). -/
def execGscatter (_t : BitVec 3) (_i : BitVec 2) (o : BitVec 9) (n : BitVec 3) (j : BitVec 5) (r : BitVec 2) (s : State) : Out :=
  let a := vget (n := 3) s.cur.ops.ag n
  let ix := s.opS j
  let w := s.opS (j + 1)
  let pb : BitVec 3 := fld w 30 3
  let (name, t) := s.sourceOf o
  let live := t.st != .absent
  let bytes := if live then t.size else 0
  .next (if !(indexAligned w ix) then s.fatalMe .misalign
    else if s.foreignPb pb then s.fatalMe .permission
    else if isHandle o && name != [] && !live then s.waitHead .ring
    else if !(gatherOk w (if name = [] then 0 else t.rows) true) then (s.causeIn cINV).performed
    else s.canHand 1 pb bytes [(true, 0, 2 ^ 64)]
      (s.handOff 1 { s.cmdAt 0x06 a pb with a2 := ix, ctl := w, len := t.rowBytes, total := t.rows, aux := name, consume := r = 0 } bytes))

/-- GSTORE at hand-off (R206). -/
def execGstore (_t : BitVec 3) (_i : BitVec 2) (o : BitVec 9) (n : BitVec 3) (r : BitVec 2) (pb : BitVec 3) (s : State) : Out :=
  let a := vget (n := 3) s.cur.ops.ag n
  let (name, t) := s.sourceOf o
  let live := t.st != .absent
  let bytes := if live then t.size else 0
  .next (if a.toNat % 64 ≠ 0 then s.fatalMe .misalign
    else if s.foreignPb pb then s.fatalMe .permission
    else if isHandle o && name != [] && !live then s.waitHead .ring
    else s.canHand 1 pb bytes [(true, a.toNat, t.size)]
      (s.handOff 1 { s.cmdAt 0x07 a pb with len := t.size, total := t.size / 64, aux := name, consume := r = 0 } bytes))

/-- GCOPY at hand-off (R207). -/
def execGcopy (_t : BitVec 3) (_i : BitVec 2) (d n : BitVec 3) (l : BitVec 5) (pb : BitVec 3) (s : State) : Out :=
  let dst := vget (n := 3) s.cur.ops.ag d
  let src := vget (n := 3) s.cur.ops.ag n
  let len := (s.opS l).toNat
  .next (if dst.toNat % 64 ≠ 0 ∨ src.toNat % 64 ≠ 0 ∨ len % 64 ≠ 0 then s.fatalMe .misalign
    else if 2 ^ 32 < len || bytesMeet dst.toNat len src.toNat len then (s.causeIn cINV).performed
    else if len = 0 then s.performed
    else s.canHand 1 pb len [(false, src.toNat, len), (true, dst.toNat, len)]
      (s.handOff 1 { s.cmdAt 0x08 src pb with a2 := dst, len := len, total := len / 64 } len))

/-- GPREF at hand-off: up to 256 pages of 32 KiB (R207). -/
def execGpref (_t : BitVec 3) (_i : BitVec 2) (e : BitVec 6) (l : BitVec 5) (s : State) : Out :=
  let a := s.adr e
  let len := (s.opS l).toNat
  let n := if len = 0 then 0 else (a.toNat + len - 1) / 32768 - a.toNat / 32768 + 1
  .next (s.canHand 0 0 0 [] (s.handOff 0 { s.cmdAt 0x16 a 0 with len := len, total := Nat.min n 256 } 0))

/-- GQFENCE puts a fence entry into each named queue (R212). -/
def execGqfence (_t : BitVec 3) (_i : BitVec 2) (m : BitVec 4) (s : State) : Out :=
  let qs := ((List.range 4).filter fun i => m.getLsbD i).map (BitVec.ofNat 2)
  let older := (qs.flatMap fun q => vget (n := 2) s.me.eq q).map fun c => c.num
  .next (if qs.any fun q => 32 ≤ (vget (n := 2) s.me.eq q).length then s.waitHead .queueFull
    else (qs.foldl (fun (t : State) q =>
      let (u, t1) := t.newUid
      t1.modMe fun cx => cx.pushEq q { s.newCmd 0x10 with num := u, aux := older }) s).performed)

/-! ### Commands beyond the core (R213) -/

/-- The bytes a command will write into memory or a buffer, of its descriptor as memory holds it at hand-off (R196, R303, R308, R366, R369). -/
def State.descTotal (s : State) (vf : Nat) (op : BitVec 6) (d : BitVec 512) : Nat :=
  let w0 := descWord d 0
  match op.toNat with
  | 0x11 =>
    if fld w0 0 4 = 2#4 then 0
    else
      let ids := ((List.range (Nat.min (fld w0 16 16).toNat 256)).map fun i => s.loadVa vf ((descWord d 1).toNat + 4 * i) 4).eraseDups
      (ids.map fun id => ((s.objs.find? fun o => o.vf = vf && o.id.toNat = id && o.st = .fen && o.expert = (fld w0 0 4 = 1#4)).map fun o => o.len).getD 0).sum
  | 0x12 => if fld w0 0 4 = 0#4 then 128 * (fld w0 16 26).toNat else 0
  | 0x13 => (s.collBytes d).2
  | 0x14 => if fld w0 0 4 = 0#4 then (descWord d 2).toNat else 0
  | 0x15 => (descWord d 2).toNat
  | _ => 0

/-- A descriptor command at hand-off; what it does, its descriptor says when it starts (R213). -/
def State.beyond (s : State) (op : BitVec 6) (q : BitVec 2) (a : BitVec 5) (pb : BitVec 3) : State :=
  let va := s.opS a
  let vf := s.me.vf
  let d : BitVec 512 := BitVec.ofNat 512 (s.loadVa vf va.toNat 64)
  let bytes := if pb = 0 then 0 else s.descTotal vf op d
  if s.replaying then s.performed
  else s.canHand q pb bytes ((true, va.toNat, 64) :: s.descRanges (s.cmdAt op va pb) d) (s.handOff q (s.cmdAt op va pb) bytes)

/-- GSLUICE with a PROMOTE descriptor (R302, R303). -/
def execGsluicePromote (_t : BitVec 3) (_i : BitVec 2) (a : BitVec 5) (p : BitVec 3) (s : State) : Out := .next (s.beyond 0x11 2 a p)

/-- GSLUICE with a PROMOTE_X descriptor (R302, R306). -/
def execGsluicePromoteX (_t : BitVec 3) (_i : BitVec 2) (a : BitVec 5) (p : BitVec 3) (s : State) : Out := .next (s.beyond 0x11 2 a p)

/-- GSLUICE with a RELEASE descriptor (R302, R304). -/
def execGsluiceRelease (_t : BitVec 3) (_i : BitVec 2) (a : BitVec 5) (p : BitVec 3) (s : State) : Out := .next (s.beyond 0x11 2 a p)

/-- GSKIM with a SELECT descriptor (R307, R308). -/
def execGskimSelect (_t : BitVec 3) (_i : BitVec 2) (a : BitVec 5) (p : BitVec 3) (s : State) : Out := .next (s.beyond 0x12 2 a p)

/-- GSKIM with a BIASW descriptor (R307, R309). -/
def execGskimBiasw (_t : BitVec 3) (_i : BitVec 2) (a : BitVec 5) (p : BitVec 3) (s : State) : Out := .next (s.beyond 0x12 2 a p)

/-- GSKIM with an EPOCH descriptor (R307, R309). -/
def execGskimEpoch (_t : BitVec 3) (_i : BitVec 2) (a : BitVec 5) (p : BitVec 3) (s : State) : Out := .next (s.beyond 0x12 2 a p)

/-- GCOLL with an ALLREDUCE descriptor (R368, R369). -/
def execGcollAllreduce (_t : BitVec 3) (_i : BitVec 2) (a : BitVec 5) (p : BitVec 3) (s : State) : Out := .next (s.beyond 0x13 3 a p)

/-- GCOLL with a REDUCESCATTER descriptor (R368, R369). -/
def execGcollReducescatter (_t : BitVec 3) (_i : BitVec 2) (a : BitVec 5) (p : BitVec 3) (s : State) : Out := .next (s.beyond 0x13 3 a p)

/-- GCOLL with an ALLGATHER descriptor (R368, R369). -/
def execGcollAllgather (_t : BitVec 3) (_i : BitVec 2) (a : BitVec 5) (p : BitVec 3) (s : State) : Out := .next (s.beyond 0x13 3 a p)

/-- GCOLL with a BROADCAST descriptor (R368, R369). -/
def execGcollBroadcast (_t : BitVec 3) (_i : BitVec 2) (a : BitVec 5) (p : BitVec 3) (s : State) : Out := .next (s.beyond 0x13 3 a p)

/-- GSEND with a DATA descriptor (R366, R367). -/
def execGsendData (_t : BitVec 3) (_i : BitVec 2) (a : BitVec 5) (p : BitVec 3) (s : State) : Out := .next (s.beyond 0x14 3 a p)

/-- GSEND with a LAUNCH descriptor (R366, R367). -/
def execGsendLaunch (_t : BitVec 3) (_i : BitVec 2) (a : BitVec 5) (p : BitVec 3) (s : State) : Out := .next (s.beyond 0x14 3 a p)

/-- GRECV (R366, R367). -/
def execGrecv (_t : BitVec 3) (_i : BitVec 2) (a : BitVec 5) (p : BitVec 3) (s : State) : Out := .next (s.beyond 0x15 3 a p)

end Sys2Proof.Machine
end

