-- ==== Sys2Proof/Machine/Issue.lean ====
section
/-! DEFINITION. Issuing a bundle: what a word uses, what holds a bundle, the fetch, the issue itself and its end (R27-R46, R72, R73, R76, R81,
R82, R89, R101, R173, R378, R383, R384, R388, R389, R395, R399). -/

namespace Sys2Proof.Machine

/-! ### What a word uses (R32, R35, R40, R42, R80) -/

/-- The registers, latches, generators and banks that a word names: scalar registers read or written by the compute group, vector sources,
vector destinations, the interlocked destination, whether it pushes a condition, the generators it steps, its bank fields. -/
structure Use where
  sr : List (BitVec 5) := []
  vr : List (BitVec 5) := []
  vw : List (BitVec 5) := []
  pend : PReg := PReg.none
  push : Bool := false
  steps : List (BitVec 3) := []
  banks : List (BitVec 3) := []
  latch : Option (BitVec 2) := none
  deriving DecidableEq, Repr

/-- An interlocked scalar destination: a write of s0 is discarded (R68). -/
def PReg.ofS (d : BitVec 5) : PReg := if d = 0 then .none else .s d

/-- A P field that names a generator (R175). -/
def stepsP (p : BitVec 5) : List (BitVec 3) := if 16 ≤ p.toNat then [fld p 0 3] else []

/-- The scalar and the generator of an adr field (R201). -/
def Use.adr (u : Use) (e : BitVec 6) : Use :=
  if e.getLsbD 5 then { u with steps := fld e 0 3 :: u.steps } else { u with sr := fld e 0 5 :: u.sr }

/-- What a word uses. Words with no register, latch, generator or bank field use nothing. -/
def useOf : Instr → Use
  | .loopReg _ _ _ c _ => { sr := [c] }
  | .tgsetReg _ _ _ a => { sr := [a] }
  | .call _ _ _ => { sr := [31] }
  | .ret _ _ => { sr := [31] }
  | .launch _ _ d a => { sr := (List.range 8).map fun n => a + BitVec.ofNat 5 n, pend := PReg.ofS d, push := true }
  | .xdisp _ _ d a => { sr := [a], pend := PReg.ofS d }
  | .csrr _ _ d _ => { sr := [d] }
  | .csrw _ _ a _ => { sr := [a] }
  | .cancel _ _ _ a => { sr := [a] }
  | .add _ _ d a b => { sr := [d, a, b] }
  | .sub _ _ d a b => { sr := [d, a, b] }
  | .mul _ _ d a b => { sr := [d, a, b] }
  | .mulh _ _ d a b => { sr := [d, a, b] }
  | .mulhu _ _ d a b => { sr := [d, a, b] }
  | .div _ _ d a b => { sr := [d, a, b] }
  | .divu _ _ d a b => { sr := [d, a, b] }
  | .rem _ _ d a b => { sr := [d, a, b] }
  | .remu _ _ d a b => { sr := [d, a, b] }
  | .and _ _ d a b => { sr := [d, a, b] }
  | .or _ _ d a b => { sr := [d, a, b] }
  | .xor _ _ d a b => { sr := [d, a, b] }
  | .shl _ _ d a b => { sr := [d, a, b] }
  | .shr _ _ d a b => { sr := [d, a, b] }
  | .sar _ _ d a b => { sr := [d, a, b] }
  | .rot _ _ d a b => { sr := [d, a, b] }
  | .min _ _ d a b => { sr := [d, a, b] }
  | .max _ _ d a b => { sr := [d, a, b] }
  | .minu _ _ d a b => { sr := [d, a, b] }
  | .maxu _ _ d a b => { sr := [d, a, b] }
  | .clz _ _ d a => { sr := [d, a] }
  | .ctz _ _ d a => { sr := [d, a] }
  | .popc _ _ d a => { sr := [d, a] }
  | .sext _ _ d a _ => { sr := [d, a] }
  | .zext _ _ d a _ => { sr := [d, a] }
  | .addi _ _ d a _ => { sr := [d, a] }
  | .andi _ _ d a _ => { sr := [d, a] }
  | .ori _ _ d a _ => { sr := [d, a] }
  | .xori _ _ d a _ => { sr := [d, a] }
  | .shli _ _ d a _ => { sr := [d, a] }
  | .shri _ _ d a _ => { sr := [d, a] }
  | .sari _ _ d a _ => { sr := [d, a] }
  | .li _ _ d _ => { sr := [d] }
  | .lih _ _ d _ => { sr := [d] }
  | .cmp _ _ a b _ => { sr := [a, b], push := true }
  | .cmpi _ _ _ a _ => { sr := [a], push := true }
  | .sel _ _ d a b c => { sr := [d, a, b, c] }
  | .agset _ _ _ a _ => { sr := [a] }
  | .agstep _ _ _ a => { sr := [a] }
  | .agrd _ _ d _ _ => { sr := [d] }
  | .cqpush _ _ a => { sr := [a], push := true }
  | .vaddVa _ _ d a b _ _ _ => { vr := [a, b], vw := [d] }
  | .vsubVa _ _ d a b _ _ _ => { vr := [a, b], vw := [d] }
  | .vmulVa _ _ d a b _ _ _ => { vr := [a, b], vw := [d] }
  | .vfmaVa _ _ d a b _ _ _ => { vr := [a, b], vw := [d] }
  | .vfms _ _ d a b _ _ _ => { vr := [a, b], vw := [d] }
  | .vminVa _ _ d a b _ _ _ => { vr := [a, b], vw := [d] }
  | .vmaxVa _ _ d a b _ _ _ => { vr := [a, b], vw := [d] }
  | .vabs _ _ d a _ _ _ => { vr := [a], vw := [d] }
  | .vneg _ _ d a _ _ _ => { vr := [a], vw := [d] }
  | .vand _ _ d a b _ _ _ => { vr := [a, b], vw := [d] }
  | .vor _ _ d a b _ _ _ => { vr := [a, b], vw := [d] }
  | .vxor _ _ d a b _ _ _ => { vr := [a, b], vw := [d] }
  | .vnot _ _ d a _ _ _ => { vr := [a], vw := [d] }
  | .vshl _ _ d a b _ _ _ => { vr := [a, b], vw := [d] }
  | .vshr _ _ d a b _ _ _ => { vr := [a, b], vw := [d] }
  | .vsar _ _ d a b _ _ _ => { vr := [a, b], vw := [d] }
  | .vcmp _ _ _ a b _ _ _ => { vr := [a, b] }
  | .vsel _ _ d a b _ _ _ => { vr := [a, b], vw := [d] }
  | .vcvt _ _ d a _ _ _ => { vr := [a], vw := [d] }
  | .vmov _ _ d a _ _ _ => { vr := [a], vw := [d] }
  | .vbcast _ _ d a _ _ _ => { sr := [a], vw := [d] }
  | .vli _ _ d _ => { vw := [d] }
  | .vshape _ _ _ a => { sr := [a] }
  | .vrlen _ _ a _ => { vr := [a] }
  | .vbmm _ _ d a b _ _ _ => { vr := [a, b], vw := [d] }
  | .vsat _ _ d a b _ _ _ => { vr := [a, b], vw := [d] }
  | .vclamp _ _ d a b _ _ _ => { vr := [a, b], vw := [d] }
  | .vany _ _ _ _ _ => { push := true }
  | .vall _ _ _ _ _ => { push := true }
  | .vacrVaImm _ _ d b _ => { vw := [d], banks := [b] }
  | .vacrVaReg _ _ d b x => { sr := [x], vw := [d], banks := [b] }
  | .vacwVaImm _ _ a b _ => { vr := [a], banks := [b] }
  | .vacwVaReg _ _ a b x => { sr := [x], vr := [a], banks := [b] }
  | .vext _ _ d a b _ => { vr := [a, b], vw := [d] }
  | .vaddVb _ _ d a b _ _ _ => { vr := [a, b], vw := [d] }
  | .vsubVb _ _ d a b _ _ _ => { vr := [a, b], vw := [d] }
  | .vmulVb _ _ d a b _ _ _ => { vr := [a, b], vw := [d] }
  | .vfmaVb _ _ d a b _ _ _ => { vr := [a, b], vw := [d] }
  | .vminVb _ _ d a b _ _ _ => { vr := [a, b], vw := [d] }
  | .vmaxVb _ _ d a b _ _ _ => { vr := [a, b], vw := [d] }
  | .vexp2 _ _ d a _ _ _ => { vr := [a], vw := [d] }
  | .vlog2 _ _ d a _ _ _ => { vr := [a], vw := [d] }
  | .vrcp _ _ d a _ _ _ => { vr := [a], vw := [d] }
  | .vrsqrt _ _ d a _ _ _ => { vr := [a], vw := [d] }
  | .vsqrt _ _ d a _ _ _ => { vr := [a], vw := [d] }
  | .vdiv _ _ d a b _ _ _ => { vr := [a, b], vw := [d] }
  | .vtanh _ _ d a _ _ _ => { vr := [a], vw := [d] }
  | .vsigm _ _ d a _ _ _ => { vr := [a], vw := [d] }
  | .vrsum _ _ d a _ _ _ => { vr := [a], vw := [d] }
  | .vrmax _ _ d a _ _ _ => { vr := [a], vw := [d] }
  | .vrmin _ _ d a _ _ _ => { vr := [a], vw := [d] }
  | .vargmax _ _ d a _ _ _ => { vr := [a], vw := [d] }
  | .vscan _ _ d a _ _ _ => { vr := [a], vw := [d] }
  | .vperm _ _ d a b _ _ _ => { vr := [a, b], vw := [d] }
  | .vtrans _ _ d a _ => { vr := [a], vw := [d] }
  | .vcompact _ _ d a _ _ => { vr := [a], vw := [d] }
  | .vexpand _ _ d a _ _ => { vr := [a], vw := [d] }
  | .vrot _ _ d a b _ _ => { sr := [b], vr := [a], vw := [d] }
  | .vacrVbImm _ _ d b _ => { vw := [d], banks := [b] }
  | .vacrVbReg _ _ d b x => { sr := [x], vw := [d], banks := [b] }
  | .vacwVbImm _ _ a b _ => { vr := [a], banks := [b] }
  | .vacwVbReg _ _ a b x => { sr := [x], vr := [a], banks := [b] }
  | .vround _ _ d a _ _ _ => { vr := [a], vw := [d] }
  | .mcall _ _ _ d _ _ _ => { banks := [d] }
  | .mpset _ _ _ a => { sr := [a] }
  | .mpget _ _ d _ => { sr := [d] }
  | .mload _ _ a => { sr := [a] }
  | .aclass _ _ n _ => { banks := [n] }
  | .aclr _ _ n => { banks := [n] }
  | .acmv _ _ d n _ => { banks := [d, n] }
  | .mwaitBank _ _ n => { banks := [n] }
  | .ftset _ _ _ a => { sr := [a] }
  | .finit _ _ n a => { sr := [a], banks := [n] }
  | .fins _ _ n a b => { sr := [b], vr := [a], banks := [n] }
  | .fmrg _ _ d n => { banks := [d, n] }
  | .frd _ _ d n a => { sr := [a], vw := [d], banks := [n] }
  | .fcnt _ _ d n _ => { sr := [d], banks := [n] }
  | .fclr _ _ n => { banks := [n] }
  | .tallocImm _ _ _ a _ => { sr := [a] }
  | .tallocReg _ _ _ a b => { sr := [a, b] }
  | .tld _ _ _ r d p => { pend := .v d, push := r = 2, steps := stepsP p }
  | .tst _ _ _ a p => { vr := [a], steps := stepsP p }
  | .tcntReg _ _ _ a => { sr := [a] }
  | .tparkReg _ _ a => { sr := [a] }
  | .tunparkReg _ _ a => { sr := [a] }
  | .tstat _ _ _ d => { pend := PReg.ofS d }
  | .qbind _ _ _ q => { latch := some q }
  | .qbindUnbind _ _ q => { latch := some q }
  | .sqld _ _ _ r _ p => { push := r = 2, steps := stepsP p }
  | .tlw _ _ _ r d a => { sr := [a], pend := PReg.ofS d, push := r = 2 }
  | .tsw _ _ _ a b => { sr := [a, b] }
  | .tatom _ _ _ o d a => { sr := [d, a] ++ if o = 3 then [a + 1] else [], pend := PReg.ofS d }
  | .tquota _ _ _ a => { sr := [a] }
  | .cld _ _ _ r d c => { sr := [c], pend := .v d, push := r = 2 }
  | .cst _ _ _ a c => { sr := [c], vr := [a] }
  | .ccopy _ _ _ _ c => { sr := [c] }
  | .ccnt _ _ _ a c => { sr := [a, c] }
  | .clw _ _ _ r d c => { sr := [c], pend := PReg.ofS d, push := r = 2 }
  | .csw _ _ _ b c => { sr := [b, c] }
  | .catom _ _ _ o d a => { sr := [d, a] ++ if o = 3 then [a + 1] else [], pend := PReg.ofS d }
  | .binitReg _ _ _ a => { sr := [a] }
  | .barvRemote _ _ _ c => { sr := [c] }
  | .bexp _ _ _ a => { sr := [a] }
  | .btry _ _ _ => { push := true }
  | .csev _ _ c _ => { sr := [c] }
  | .gls _ _ d e _ => Use.adr { pend := PReg.ofS d } e
  | .gss _ _ a e _ => Use.adr { sr := [a] } e
  | .gvst _ _ a e => Use.adr { vr := [a] } e
  | .gfetchImm _ _ _ n _ _ => { steps := [n] }
  | .gfetchReg _ _ _ n c _ => { sr := [c], steps := [n] }
  | .ggather _ _ _ n j => { sr := [j, j + 1], steps := [n] }
  | .gscatter _ _ _ n j _ => { sr := [j, j + 1], steps := [n] }
  | .gstore _ _ _ n _ _ => { steps := [n] }
  | .gcopy _ _ d n l _ => { sr := [l], steps := [d, n] }
  | .gatom _ _ d e a _ _ => Use.adr { sr := [a], pend := PReg.ofS d } e
  | .gcas _ _ d e a _ => Use.adr { sr := [a, a + 1], pend := PReg.ofS d } e
  | .gwait _ _ f v => { sr := [f, v] }
  | .gacq _ _ f _ => { sr := [f] }
  | .grel _ _ f _ => { sr := [f] }
  | .gbind _ _ r l f => { sr := [r, l, f] }
  | .gunbind _ _ r f => { sr := [r, f] }
  | .gsluicePromote _ _ a _ => { sr := [a] }
  | .gsluicePromoteX _ _ a _ => { sr := [a] }
  | .gsluiceRelease _ _ a _ => { sr := [a] }
  | .gskimSelect _ _ a _ => { sr := [a] }
  | .gskimBiasw _ _ a _ => { sr := [a] }
  | .gskimEpoch _ _ a _ => { sr := [a] }
  | .gcollAllreduce _ _ a _ => { sr := [a] }
  | .gcollReducescatter _ _ a _ => { sr := [a] }
  | .gcollAllgather _ _ a _ => { sr := [a] }
  | .gcollBroadcast _ _ a _ => { sr := [a] }
  | .gsendData _ _ a _ => { sr := [a] }
  | .gsendLaunch _ _ a _ => { sr := [a] }
  | .grecv _ _ a _ => { sr := [a] }
  | .gpref _ _ e l => Use.adr { sr := [l] } e
  | .gtlbi _ _ a b _ => { sr := [a, b] }
  | _ => {}

/-- A word of the bundle with its instruction: slot, bits, instruction. -/
abbrev Slotted := Nat × W32 × Instr

/-- Whether a word is `nop` (R47). -/
def isNop (w : W32) : Bool := fld w 26 6 = 0#6

def tagOf (w : W32) : BitVec 3 := fld w 23 3

def itOf (w : W32) : BitVec 2 := fld w 21 2

/-- A word executes: TAG accepts the leaf, and IT the iteration of level LVL (R33). -/
def executes (cx : Ctx) (h : Header) (leaf : Nat) (w : W32) : Bool :=
  tagAccepts (tagOf w) leaf && ((cx.loops.toList[h.lvl.toNat]?).map fun l => itAccepts (itOf w) l).getD false

/-! ### Legality against the context's state (R35, R78, R87) -/

/-- The end of a `loop` word, in words from its bundle. -/
def loopEnd : Instr → Option Nat
  | .loopReg _ _ _ _ e => some e.toNat
  | .loopImm _ _ _ _ e => some e.toNat
  | _ => none

/-- The latches that words name as destinations (R32). -/
def latchDests (cx : Ctx) (u : Use) : List Nat :=
  let v (d : BitVec 5) : List Nat := if (cx.latch d).isSome then [d.toNat - 28] else []
  u.vw.flatMap v ++ (match u.pend with
    | .v d => v d
    | .s _ | .none => []) ++ (u.latch.map fun q => q.toNat).toList

/-- A bundle of the outermost active body that is its 257th or later (R78). -/
def bodyTooLong (cx : Ctx) : Bool :=
  match outerLevel cx.loops with
  | none => false
  | some n =>
    let l := cx.loops[n]
    256 ≤ bundlesBefore 300 (cx.wordsAt l.start) ((cx.pc - l.start).toNat / 4)

/-- The slot that R346 names where the decoded bundle is illegal in the context's loop state: that of the word at fault, 15 for a pair of words or a
body's 257th bundle (R35, R78, R87). -/
def illegalAt (cx : Ctx) (h : Header) (ws : List Slotted) : Option Nat :=
  let active := ((cx.loops.toList[h.lvl.toNat]?).map fun l => l.active).getD false
  let banks := ws.flatMap fun w => (useOf w.2.2).banks.eraseDups
  let bad (w : Slotted) : Bool := (itOf w.2.1 != 0 && !active) || ((loopEnd w.2.2).map fun e => decide (e ≤ ws.length + 1)).getD false
  match ws.find? bad with
  | some w => some w.1
  | none => if banks.eraseDups.length ≠ banks.length || bodyTooLong cx then some 15 else none

/-- Two present words name one queue latch as destination, in the latch state at issue (R32, R35). -/
def latchesClash (cx : Ctx) (ws : List Slotted) : Bool :=
  let dests := ws.flatMap fun w => (latchDests cx (useOf w.2.2)).eraseDups
  dests.eraseDups.length != dests.length

/-- The level that a `loop` word opens. -/
def loopLevel : Instr → Option Nat
  | .loopReg _ _ n _ _ => some n.toNat
  | .loopImm _ _ n _ _ => some n.toNat
  | _ => none

/-- An executing `loop` opens a level at or above an active one (R78). -/
def reopens (cx : Ctx) (act : List Slotted) : Bool :=
  act.any fun w => ((loopLevel w.2.2).map fun n => levels.any fun m => m.val ≤ n && cx.loops[m].active).getD false

/-! ### What holds a bundle (R37-R45, R72, R73) -/

/-- The outcome of looking at the next bundle: it issues on a leaf, is held (`alloc`: by the allocation of an unpark that a latch read waits to start, of
so many granules), takes a fatal fault, stops with a WHY as its replay diverges, or the handler returns. -/
inductive Verdict where
  | go (leaf : Nat)
  | stall
  | block (w : Wait)
  | alloc (n : Nat)
  | fatal (f : Fatal) (slot : Nat)
  | stop (why : Nat)
  | leave
  deriving DecidableEq, Repr

/-- A wait that blocks a context (R38, R73). -/
def Wait.blocks : Wait → Bool
  | .none | .stall => false
  | .tile | .ring | .bank | .queueFull | .barrier | .wfe | .address | .segment | .unpark | .idle | .xdisp => true

/-- A hold under a stream's wait: a block, or a stall (R38, R40). -/
def Wait.hold (w : Wait) : Verdict := if w.blocks then .block w else .stall

/-- The streams with what their heads wait on. -/
def Ctx.heads (cx : Ctx) : List (List StreamWord × Wait) := [(cx.mt, cx.sw[0]), (cx.mc, cx.sw[1]), (cx.mg, cx.sw[2])]

/-- Bundle n+17 waits for the words of bundle n (R38). DESIGN CHOICE: where several streams hold it, the first of MT, MC, MG decides whether the context
blocks or stalls (log entry 13). -/
def Ctx.lagHold (cx : Ctx) : Option Verdict :=
  (cx.heads.find? fun p => p.1.any fun w => 16 < cx.bundles - w.bundle).map fun p => p.2.hold

/-- The streams must have issued every word (R44, R45). -/
def Ctx.emptyHold (cx : Ctx) : Option Verdict :=
  let busy := cx.heads.filter fun p => p.1 != []
  if busy = [] then none else some ((busy.find? fun p => p.2.blocks).map (fun p => p.2.hold) |>.getD .stall)

/-- Every pipeline must be empty (R45). -/
def Ctx.drainHold (cx : Ctx) : Option Verdict :=
  match cx.emptyHold with
  | some v => some v
  | none => if cx.lands = [] && !(cx.pend.any fun p => 5 ≤ p.slot) then none else some .stall

/-- What the word of an interlocked write waits on: at its stream head, that head's wait (R40). -/
def Ctx.waitOfTok (cx : Ctx) (tok : Nat) : Wait :=
  ((cx.heads.find? fun p => p.1.head?.any fun w => w.tok = tok).map Prod.snd).getD .none

/-- The registers under the interlock that a word reads or writes (R40). -/
def Use.regs (cx : Ctx) (u : Use) : List PReg :=
  (u.sr.map PReg.ofS) ++ (u.vr.filter fun r => (cx.latch r).isNone).map PReg.v ++ u.vw.map PReg.v ++ [u.pend]

/-- An interlocked write is pending on a register of the bundle (R40). -/
def Ctx.regHold (cx : Ctx) (ws : List Slotted) : Option Verdict :=
  let regs := (ws.flatMap fun w => (useOf w.2.2).regs cx).filter fun r => r != .none
  (cx.pend.find? fun p => regs.contains p.reg).map fun p => (cx.waitOfTok p.tok).hold

/-- The tree: enough entries, the n oldest filled (R42); the leaf (R76). -/
def Ctx.tree (cx : Ctx) (n : Nat) : Except Verdict Nat :=
  let top := cx.cq.take n
  match top.find? fun e => e.val.isNone with
  | some e => .error (cx.waitOfTok e.tok).hold
  | none => if top.length < n then .error .stall else .ok (leafOf 0 (top.map fun e => e.val.getD false))

/-- The operations of a context in the matrix and front engines that read or write a bank (R242, R244). -/
def Core.usesOf (k : Core) (x : CtxId) (n : BitVec 3) : Bool :=
  (k.ops.any fun m => m.of k.ctx[x] && (m.writes ++ m.reads).contains n)
  || k.frontOps.any fun f => f.x = x && (f.bank = n || (f.kind = .fmrg && f.src = n))

/-- An accepted operation will write a bank that `vacr` or `vacw` names, or reads one that `vacw` names (R153, R224). -/
def Core.bankHeld (k : Core) (n : BitVec 3) (write : Bool) : Bool :=
  k.willWrite n
  || k.frontOps.any (fun f => f.bank = n)
  || (write && k.ops.any fun m => m.reads.contains n)

/-- No place of the matrix engine's queue is free, those owed to resumed units included (R222, R236). -/
def Core.queueTaken (k : Core) : Bool := 4 ≤ k.places || k.ctx.toList.any fun cx => cx.st != .free && cx.saved != [] && !cx.leaving

/-- No place of a front bank's queue is free (R256); a bank that is no front takes none. DESIGN CHOICE: an operation keeps its place until it completes, as
R222 says of the matrix queue (log entry 93). -/
def Core.frontTaken (k : Core) (n : BitVec 3) : Bool :=
  match frontOf n with
  | some i => vget (n := 3) k.cls n = 1 && 4 ≤ k.fq[i].length + (if k.frun[i].isSome then 1 else 0)
  | none => false

/-- The waits of a word on the core's engines (R94, R146, R153, R222, R224, R242, R244, R245, R256, R257); the banks are the context's own. -/
def Core.engineHold (k : Core) (x : CtxId) (i : Instr) : Option Wait :=
  let cx := k.ctx[x]
  let own (b : BitVec 3) : Bool := vget (n := 3) k.grant b = some x
  let bank (b : BitVec 3) (wr : Bool) : Option Wait := if own b && k.bankHeld b wr then some .bank else none
  let front (b : BitVec 3) : Option Wait := if own b && k.frontTaken b then some .queueFull else none
  let quiet (b : BitVec 3) : Option Wait := if own b && k.usesOf x b then some .bank else none
  let place (b : Bool) : Option Wait := if b && k.queueTaken then some .queueFull else none
  match i with
  | .vacrVaImm _ _ _ b _ => bank b false
  | .vacrVaReg _ _ _ b _ => bank b false
  | .vacrVbImm _ _ _ b _ => bank b false
  | .vacrVbReg _ _ _ b _ => bank b false
  | .vacwVaImm _ _ _ b _ => bank b true
  | .vacwVaReg _ _ _ b _ => bank b true
  | .vacwVbImm _ _ _ b _ => bank b true
  | .vacwVbReg _ _ _ b _ => bank b true
  | .mcall _ _ _ d _ _ _ => place (own d)
  | .mload _ _ _ => place true
  | .aclr _ _ n => place (own n)
  | .acmv _ _ d n _ => place (own d && own n)
  | .aclass _ _ n _ => quiet n
  | .mwaitAll _ _ => if k.outstanding x || cx.saved != [] || cx.savedF != [] then some .bank else none
  | .mwaitBank _ _ n => quiet n
  | .sqclr _ _ m =>
    if m = 0 then none
    else if (m.getLsbD 0 && cx.sqldOut 0) || (m.getLsbD 1 && cx.sqldOut 1) || (k.ops.any fun o => o.kind = .call && o.of cx) then some .bank
    else none
  | .finit _ _ n _ => front n
  | .fins _ _ n _ _ => front n
  | .fclr _ _ n => front n
  | .fmrg _ _ d n => if own n then front d else none
  | .frd _ _ _ n _ => if own n && k.frontUses n then some .bank else none
  | .fcnt _ _ _ n _ => if own n && k.frontUses n then some .bank else none
  | .xdisp _ _ _ _ => if 32 ≤ (vget (n := 2) cx.eq 0).length then some .queueFull else none
  | _ => none

/-- A latch head as a reading bundle meets it: it may go on, or is held, with the unpark or the wakening that the read starts (R161, R168, R170,
R173, R174); a POP, and an unpark, waits where the log of another unit has no room for the change (R395). -/
def State.latchMeet (s : State) (c : Nat) (x : CtxId) (h : BitVec 4) (slot : Nat) : Option Verdict × State :=
  match s.headOf c x h with
  | none => (none, s)
  | some l =>
    let full := !(s.namersFit l 1)
    match s.avail l with
    | .ready => (if slot = 15 && full then some (.block .queueFull) else none, s)
    | .absent => (some (.block .ring), s)
    | .waiting => (some (.block .tile), s.wakeBanks l)
    | .poison => (some (.fatal .poison slot), s)
    | .unpark =>
      if 64 ≤ s.parks c || full then (some (.block .queueFull), s)
      else match s.startUnpark l with
        | some t => (some (.block .unpark), t.logTstate s l (some (.ctx x)))
        | none => (some (.alloc (s.tile l).granules), s)

/-- The heads that the bundle reads: latch sources of executing words, and POP bits (R43, R174). -/
def Ctx.reads (cx : Ctx) (h : Header) (act : List Slotted) : List (BitVec 4 × Nat) :=
  (act.flatMap fun w => (useOf w.2.2).vr.filterMap fun r => (cx.latch r).map fun n => (n, w.1))
  ++ ((List.range 4).filter fun n => h.pop.getLsbD n).filterMap fun n => (vget (n := 2) cx.q (BitVec.ofNat 2 n)).map fun q => (q, 15)

/-- Every head in turn. -/
def State.latchesMeet (s : State) (c : Nat) (x : CtxId) : List (BitVec 4 × Nat) → Option Verdict × State
  | [] => (none, s)
  | (h, slot) :: r =>
    match s.latchMeet c x h slot with
    | (none, t) => State.latchesMeet t c x r
    | (some v, t) => (some v, t)

/-- The slot of the bundle's `csrr` of a logged register. -/
def csrSlot (act : List Slotted) : Option Nat := (act.find? fun w => match w.2.2 with
  | .csrr _ _ _ n => csrLogged n.toNat
  | _ => false).map fun w => w.1

/-- A log that is full holds issue. In a replay the bundle waits for the cycles of its GAP entry; a logged `csrr` waits for its own entry while another
word may take the next one, and stops the unit before the bundle where none is left or the next is another's (R378, R395, R396, R399, R400). -/
def State.replayHold (s : State) (c : Nat) (x : CtxId) (act : List Slotted) : Option Verdict :=
  let cx := s.ctx c x
  if cx.rep.logging && !(s.logFits c x 8) then some (.block .queueFull)
  else if !cx.rep.replaying then none
  else
    let d := s.drained c x
    let out := cx.othersOut cx.tokCtr
    let early : Bool := match d.ownGap c x with
      | some e => decide (cx.rep.since < (e.data.headD 0).toNat)
      | none => out && d.gapAhead c x
    if early then some .stall
    else (csrSlot act).bind fun n => match d.afterGap c x with
      | none => some (if out then .stall else .stop 7)
      | some e =>
        if e.kind = 4 && e.src = n && e.sc = cx.scycle.toNat && e.ba = cx.pc.toNat % 2 ^ 20 then none
        else some (if out then .stall else .stop 6)

/-- The slot of the word that makes a bundle illegal; 15 where it is the header (R346). -/
def rejectSlot : Reject → Nat
  | .unassigned n => n
  | .reservedTag n => n
  | .reservedBits n => n
  | .reservedField n => n
  | .headerReserved | .headerField | .shortBundle | .routineWord => 15

/-- The bundle at the context's address, or why there is none (R35, R36, R82). DESIGN CHOICE: a bundle that runs past its segment's end and has an illegal
header, or an illegal word before that end, is ILLEGAL_BUNDLE (log entry 12). -/
def Ctx.fetch (cx : Ctx) : Except Verdict (Header × List Slotted) :=
  match cx.segOf cx.pc with
  | none => .error (.fatal .segment 15)
  | some n =>
    match cx.halfOf n with
    | none => .error (.fatal .segment 15)
    | some f =>
      if !f.complete then .error (.block .segment)
      else match decodeBundle (cx.wordsAt cx.pc) with
        | .error .shortBundle => .error (.fatal .segment 15)
        | .error e => .error (.fatal .illegalBundle (rejectSlot e))
        | .ok b => .ok b

/-- A fault with the page handler holds the context: one of a direct access (R197), and one that was delivered as its interrupted code resumed, until
that is handled (R342). -/
def State.faultHolds (s : State) (c : Nat) (x : CtxId) (f : PFault) : Bool :=
  let cx := s.ctx c x
  f.core = c && f.x = x && (f.queue = 7 || (f.hold && !cx.tif && cx.eq.toList.flatten.any fun m => m.num = f.num && m.of cx))

/-- What holds the context before its bundle is looked at (R45, R84, R89, R94, R197, R236, R338, R342). -/
def State.beforeHold (s : State) (c : Nat) (x : CtxId) : Option Verdict :=
  let cx := s.ctx c x
  if cx.saved != [] || cx.savedF != [] then some (.block .queueFull)
  else if s.pfaults.any (s.faultHolds c x) then some (.block .address)
  else if cx.wait = .wfe ∨ cx.wait = .xdisp then some (.block cx.wait)
  else if cx.pendEv.eret then some ((cx.drainHold).getD .leave)
  else if cx.idle ≠ 0 then some (.block .idle)
  else if cx.drn then cx.drainHold
  else none

/-- THE VERDICT on a context's next bundle, with the bundle where it issues. -/
def State.verdict (s : State) (c : Nat) (x : CtxId) : Verdict × Header × List Slotted × State :=
  let none_ (v : Verdict) (t : State) : Verdict × Header × List Slotted × State := (v, ⟨0, false, false, 0, false, false, 0, 0⟩, [], t)
  match s.beforeHold c x with
  | some v => none_ v s
  | none =>
    let cx := s.ctx c x
    match cx.fetch with
    | .error v => none_ v s
    | .ok (h, ws) =>
      match illegalAt cx h ws, cx.lagHold with
      | some n, _ => none_ (.fatal .illegalBundle n) s
      | none, some v => none_ v s
      | none, none =>
          match (if h.syn then cx.emptyHold else none) with
          | some v => none_ v s
          | none =>
            match cx.regHold ws with
            | some v => none_ v s
            | none =>
              match cx.tree h.nt.toNat with
              | .error v => none_ v s
              | .ok leaf =>
                let act := ws.filter fun w => executes cx h leaf w.2.1
                if 0 < cx.vbmm && ws.any (fun w => w.1 = 2) then none_ .stall s
                else if latchesClash cx ws then none_ (.fatal .illegalBundle 15) s
                else if reopens cx act then none_ (.fatal .illegalBundle 0) s
                else match s.latchesMeet c x (cx.reads h act) with
                  | (some v, t) => none_ v t
                  | (none, t) =>
                    match act.findSome? fun w => (t.core c).engineHold x w.2.2 with
                    | some w => none_ (.block w) t
                    | none =>
                      match t.replayHold c x act with
                      | some v => none_ v t
                      | none => (.go leaf, h, ws, t)

/-! ### The issue (R37, R39, R41-R43, R80, R81, R101, R383, R386, R389) -/

/-- A word that R39 counts until its data returns. -/
def isRead : Instr → Bool
  | .gls _ _ _ _ _ => true
  | .cld _ _ _ _ _ _ => true
  | .clw _ _ _ _ _ _ => true
  | _ => false

/-- The counters of the active levels after a bundle with the given executing words (R389). -/
def countIssue (cx : Ctx) (act : List Slotted) : Vector Counters 6 :=
  vmapI (fun n k =>
    if !(((cx.loops.toList[n]?).map fun l => l.active).getD false) then k
    else
      let fills (i : Nat) : Bool := act.any fun w => w.1 = i && !(isNop w.2.1)
      { k with
        issued := k.issued + 1
        fill := vmapI (fun i v => if fills i then v + 1 else v) k.fill
        noop := vmapI (fun i v => if fills i then v else v + 1) k.noop }) cx.cnt

/-- A cycle charged to the unit in which it issues nothing (R321, R389). -/
def State.stallCycle (s : State) (c : Nat) (x : CtxId) : State :=
  (s.modCtx c x fun cx =>
    if cx.tif then cx
    else { cx with cnt := vmapI (fun n k =>
      if ((cx.loops.toList[n]?).map fun l => l.active).getD false then { k with stall := k.stall + 1 } else k) cx.cnt }).charge (s.ctx c x).launch 1

/-- The operand values that the words of a bundle carry (R37): the scalar file, a vector source, generator addresses, the table entry. -/
def Ctx.carried (cx : Ctx) (v : VReg) : Ops := ⟨cx.s, v, Vector.ofFn fun i => (cx.ag[i]).a, cx.ftEntry⟩

/-- The generator steps of a word, as results of latency 1 (R80, R101). -/
def Ctx.genSteps (cx : Ctx) (slot : Nat) (o : Org) (u : Use) : List Land :=
  match stepLevel cx.loops with
  | none => []
  | some n => u.steps.eraseDups.map fun g => ⟨1, .agA g ((cx.agOf g).a + (cx.agOf g).st[n]), slot, 0, o⟩

/-- One executing word enters the machine: its number, its condition entry, the interlocked write it owes, and for a memory word its place in its
stream with the values it carries, ABSENT set where its vector source is a latch that reads no tile. -/
def State.enterWord (s : State) (c : Nat) (x : CtxId) (o : Org) (w : Slotted) : State :=
  let cx := s.ctx c x
  let u := (useOf w.2.2)
  let tok := cx.tokCtr
  let (v, cause) := (u.vr.head?.map fun r => s.vsrcOf c x r).getD (0, 0)
  let ops := cx.carried v
  let c1 : Ctx :=
    { cx with
      tokCtr := tok + 1
      cq := if u.push then cx.cq ++ [⟨tok, none⟩] else cx.cq
      pend := if 5 ≤ w.1 ∧ (u.pend != .none ∨ isRead w.2.2) ∨ (u.pend != .none ∧ w.1 = 0) then
          cx.pend ++ [⟨tok, u.pend, w.1, none, 0, none, isRead w.2.2, o, false⟩] else cx.pend }
  if w.1 < 5 then
    let s1 := s.setCtx c x c1
    { s1 with words := s1.words ++ [⟨w.1, w.2.1, tok, tok⟩] }
  else
    let word : StreamWord := ⟨tok, w.1, w.2.1, o, cx.bundles, ops, tok, none⟩
    let m := streamOf w.1
    let s1 := s.setCtx c x (if isNop w.2.1 then c1 else c1.setStream m (c1.stream m ++ [word]))
    if cause = 0 then s1
    else ({ s1 with cur := { s1.cur with core := c, x := x, slot := w.1, org := o } } : State).causeIn cause

/-- The slot of the word whose reservation would be the 17th (R42). -/
def overflowSlot (held : Nat) (act : List Slotted) : Option Nat :=
  ((act.filter fun w => (useOf w.2.2).push).drop (16 - held)).head?.map fun w => w.1

/-- Reads of tiles that hold no place in a cycle's order: the banks that hold the tiles have served them (R170). -/
def State.bankNoted (s before : State) (l : List TLoc) : State :=
  l.foldl (fun t p =>
    let gb := (before.tile p).gb
    t.modCore p.core fun k => { k with bankAt := vmapI (fun b n => if (gb[b]?).getD 0 ≠ 0 then k.cyc else n) k.bankAt }) s

/-- A bundle issues (R37): the tree's entries are popped, the words enter, the header acts, and the compute words stand ready to execute. DESIGN CHOICE:
the copy of SEG = 1 starts before that of a `segld` in the same bundle (log entry 17). -/
def State.issueBundle (s : State) (c : Nat) (x : CtxId) (h : Header) (ws : List Slotted) (leaf : Nat) : State :=
  let cx := s.ctx c x
  let o := cx.next
  let act := ws.filter fun w => executes cx h leaf w.2.1
  let gap := 1 < cx.rep.since && cx.bundles != 0
  let d := s.drained c x
  let s0 := match d.ownGap c x with
    | some e => d.tookEntry c x e
    | none => d
  let s1 := if gap && cx.rep.logging then s0.logEntry c x 8 15 0 o [BitVec.ofNat 64 cx.rep.since] else s0
  let index := ((cx.loops.toList[h.lvl.toNat]?).map fun l => if l.active then l.index.toNat else 0).getD 0
  let s2 := if h.trc then s1.traceCtx c x 0x01 0 0 o (index * 2 ^ 32 + h.lvl.toNat * 2 ^ 13 + leaf * 2 ^ 10 + h.pres.toNat) else s1
  let heads := ((cx.reads h act).filterMap fun r => s.headOf c x r.1).filter fun l => (s.tile l).st != .absent
  let s3 := (s2.bankNoted s heads).modCtx c x fun k =>
    let k1 : Ctx :=
      { k with
        cq := k.cq.drop h.nt.toNat
        lands := k.lands ++ act.flatMap fun w => cx.genSteps w.1 o (useOf w.2.2)
        cnt := if k.tif then k.cnt else countIssue k act
        scycle := if k.tif then k.scycle else k.scycle + 1
        pc := k.pc + BitVec.ofNat 32 (4 * (1 + ws.length))
        nextPc := none, wait := .none, drn := h.drn, latched := false
        rep := { k.rep with since := 0, issued := if k.rep.replaying then k.rep.issued ++ [(o, act.map fun w => w.1)] else k.rep.issued }
        pendEv := { k.pendEv with skipBp := false } }
    match (if h.seg then cx.segOf cx.pc else none) with
    | some n => if n + 1 < cx.segs.length then k1.startCopy cx.pc (n + 1) else k1
    | none => k1
  match overflowSlot (cx.cq.length - h.nt.toNat) act with
  | some slot => s3.fatal c x .cqOverflow slot o
  | none =>
    let s4 := act.foldl (fun t w => t.enterWord c x o w) { s3 with words := [] }
    { s4.modCtx c x fun k => { k with bundles := k.bundles + 1 } with
      popMask := h.pop, issuing := true
      cur := ⟨c, x, 0, o, leaf, 0, cx.bundles, cx.carried 0, 0, none, 0⟩ }

/-- The POP bits act, in ascending latch: one consuming read of each bound latch's head (R43). DESIGN CHOICE: where two latches are bound to one handle and
the first pop takes the head's last read, the second meets the next entry, or nothing if that is ABSENT (log entry 14). -/
def State.popLatches (s : State) (c : Nat) (x : CtxId) (mask : BitVec 4) : State :=
  ((List.range 4).filter fun n => mask.getLsbD n).foldl (fun t n =>
    match (vget (n := 2) (s.ctx c x).q (BitVec.ofNat 2 n)).bind fun h => t.headOf c x h with
    | none => t
    | some l => if (t.tile l).st = .absent then t else ((t.consume l).bankNoted t [l]).logTstate t l (some (.ctx x))) s

/-- Control goes on: to the branch target, or by the ends of iterations to the next address (R77). An `xdisp` sends it later. -/
def Ctx.advance (cx : Ctx) : Ctx :=
  match cx.nextPc with
  | some p => { cx with pc := p, nextPc := none }
  | none =>
    if cx.wait = .xdisp then cx
    else
      let (l, p) := endIteration cx.loops cx.pc levels
      { cx with loops := l, pc := p }

/-- The context gives the core up where its bundle leaves it waiting (R73, R84, R89, R94). -/
def State.afterIssue (s : State) (c : Nat) (x : CtxId) : State :=
  let cx := s.ctx c x
  if cx.st = .issuing && cx.wait != .none then s.blockCtx c x
  else if cx.st = .issuing && cx.idle != 0 then (s.modCtx c x fun k => { k with wait := .idle }).blockCtx c x
  else s

/-- THE END OF AN ISSUE CYCLE: pops, control, results due, the cycle's charge, then the boundary (R41, R43, R321, R339); the WATCHDOG count is 0 (R345). -/
def State.endIssue (s : State) : State :=
  let c := s.cur.core
  let x := s.cur.x
  let id := (s.ctx c x).launch
  let s1 : State := { s with words := [], issuing := false }
  let s2 := (((s1.popLatches c x s.popMask).modCtx c x Ctx.advance).tick c).modCtx c x fun k => { k with wd := 0 }
  ((s2.charge id 1).boundary c x).afterIssue c x

/-! ### BUNDLE_ISSUE (R37, R72) -/

/-- A `wfe` that its event reaches completes, once its log has room for it (R84, R397); in a replay it and an `xdisp` complete at their entries (R396, R399),
and where the log diverges the unit stops as it waits (R400). -/
def State.rouse (s : State) (c : Nat) (x : CtxId) : State :=
  let s := s.drained c x
  let cx := s.ctx c x
  let go (kind tok : Nat) : Bool := s.replayReady c x kind 0 tok cx.waitOrg
  if cx.wait = .wfe then
    if (if cx.rep.replaying then go 10 cx.tokCtr else cx.event && s.logFits c x 0) then
      match s.diverges c x 10 0 cx.waitOrg with
      | some why => s.debugStop c x why 0
      | none => ((s.modCtx c x fun k => { k with event := false, wait := .none }).input c x 10 0 0 cx.waitOrg []).1
    else s
  else if cx.wait = .xdisp && cx.rep.replaying then
    match cx.ans.find? fun a => a.disp with
    | none => s
    | some a =>
      if !(go 5 a.tok) then s
      else match s.diverges c x 5 0 a.org with
      | some why => s.debugStop c x why 0
      | none =>
        let (s1, l) := s.input c x 5 0 0 a.org []
        (s1.modCtx c x fun k => { k with ans := k.ans.filter fun b => b.tok != a.tok }).xdispDone c x a.tok a.org (l.headD 0)
            (((l.drop 1).head?).map fun t => t.setWidth 32)
  else s

/-- The granules of the unpark that a latch read of the context's next bundle waits to start (R165, R166). -/
def State.latchUnpark (s : State) (c : Nat) (x : CtxId) : Option Nat :=
  match (s.verdict c x).1 with
  | .alloc n => some n
  | _ => none

/-- The context waits on w, for an allocation or not; a wait that has become one for an allocation counts from zero (R166). Its cycles restart unless a
fault of its shadow, its window or its saved engine operations hold its bundle (R336, R342). -/
def State.noteWait (s : State) (c : Nat) (x : CtxId) (w : Wait) (alloc : Bool) : State :=
  s.modCtx c x fun k =>
    { k.restart w with
      wait := w, latchAlloc := alloc, allocWait := vmapI (fun i n => if i = 3 ∧ alloc ∧ !k.latchAlloc then 0 else n) k.allocWait }

/-- A BLOCKED context whose condition has cleared is READY (R73). -/
def State.reconsider (s : State) (c : Nat) (x : CtxId) : State :=
  let s1 := s.rouse c x
  if (s1.ctx c x).st != .blocked then s1
  else match s1.verdict c x with
    | (.block w, _, _, t) => t.noteWait c x w false
    | (.alloc _, _, _, t) => t.noteWait c x .tile true
    | (_, _, _, t) => t.modCtx c x fun k => { k with st := .ready, wait := .none, latchAlloc := false, readyWait := 0 }

/-- The READY context that a core with no issuing context takes (R72, R327). -/
def State.nextCtx (s : State) (c : Nat) : Option CtxId :=
  ((s.core c).nxt.filter fun x => (s.ctx c x).st = .ready).or (s.chosen c none)

/-- The core takes its next context after one bubble, or a cycle passes with none (R72). -/
def State.switchIn (s : State) (c : Nat) : State :=
  match s.nextCtx c with
  | none => s.tick c
  | some x => (((s.tick c).makeIssuing c x).stallCycle c x).modCore c fun k => { k with nxt := none }

/-- The context that issued last issues again where it is the next one: the core changes no context, so no bubble passes (R72, R89). -/
def State.takeAgain (s : State) (c : Nat) : State :=
  match (s.core c).cur, s.nextCtx c with
  | none, some x =>
    if (s.core c).last = some ((s.ctx c x).launch, (s.ctx c x).unit) then (s.makeIssuing c x).modCore c fun k => { k with nxt := none } else s
  | _, _ => s

/-- The bundle that a context blocks on: it gives the core up (R72, R73). -/
def State.blockOn (s : State) (c : Nat) (x : CtxId) (w : Wait) (alloc : Bool) : State :=
  (((s.modCtx c x fun k => { k with latchAlloc := false }).noteWait c x w alloc).blockCtx c x).switchIn c

/-- The issuing context's cycle. -/
def State.issueCycle (s : State) (c : Nat) (x : CtxId) : State :=
  match s.verdict c x with
  | (.go leaf, h, ws, t) => t.issueBundle c x h ws leaf
  | (.stall, _, _, t) => ((t.modCtx c x fun k => { k with latched := false }).tick c).stallCycle c x
  | (.block w, _, _, t) => t.blockOn c x w false
  | (.alloc _, _, _, t) => t.blockOn c x .tile true
  | (.stop why, _, _, t) => (t.debugStop c x why 0).tick c
  | (.fatal f slot, _, _, t) => t.fatal c x f slot (t.ctx c x).next
  | (.leave, _, _, t) =>
    let t1 := ((t.tick c).stallCycle c x).modCtx c x fun k => { k with pendEv := { k.pendEv with eret := false } }
    ((t1.leaveTrap c x).boundary c x).afterIssue c x

/-- A core of a die in thermal throttle issues in alternate cycles only (R407). -/
def State.throttled (s : State) (c : Nat) : Bool := s.dieHot c && (s.core c).cyc % 2 = 1

/-- BUNDLE_ISSUE (R37): core c. BLOCKED contexts are looked at again, then the issuing context issues, stalls or blocks, or the core takes
another context. -/
def execBundleIssue (s : State) : Out :=
  let c := s.ev.c
  let s1 := (allCtx.foldl (fun t x => if (t.ctx c x).st = .blocked then t.reconsider c x else t) s).takeAgain c
  .next (match (s1.core c).cur with
    | none => s1.switchIn c
    | some x =>
      let s2 := s1.boundary c x
      if (s2.core c).cur ≠ some x then s2.tick c
      else if s2.throttled c then (s2.tick c).stallCycle c x
      else s2.issueCycle c x)

end Sys2Proof.Machine
end

