-- ==== Sys2Proof/Machine/Engine.lean ====
section
/-! DEFINITION. The engine queues at work: translation for commands, the copy engine's lines, parks and unparks, walks and faults, invalidations
(R168, R169, R189-R200, R203-R207, R210, R276, R277, R310-R313, R342, R409). -/

namespace Sys2Proof.Machine

/-! ### Commands by queue and number -/

/-- Queue 0-3: eq0-eq3; 4: the copy queue. -/
def Ctx.cmds (cx : Ctx) (q : Nat) : List Cmd := if q = 4 then cx.ccq else (cx.eq.toList[q]?).getD []

def Ctx.setCmds (cx : Ctx) (q : Nat) (l : List Cmd) : Ctx :=
  if q = 4 then { cx with ccq := l } else { cx with eq := vmapI (fun i old => if i = q then l else old) cx.eq }

def State.modCmd (s : State) (c : Nat) (x : CtxId) (q num : Nat) (f : Cmd → Cmd) : State :=
  s.modCtx c x fun cx => cx.setCmds q ((cx.cmds q).map fun m => if m.num = num then f m else m)

def Ctx.cmd (cx : Ctx) (q num : Nat) : Option Cmd := (cx.cmds q).find? fun m => m.num = num

/-- The incomplete commands of a unit that entered a queue before one: in the contexts of its core, and in its frame (R193, R194, R340). DEDUCED (log entry 96): the
fetch of a started `mload` waits for none in a frame, since it completes in the background (R241). -/
def State.before (s : State) (c q : Nat) (m : Cmd) : List Cmd :=
  ((s.core c).ctx.toList ++ (s.frames.filter fun f => f.core = c && m.slot != 4).map fun f => f.ctx).flatMap fun cx =>
    (cx.cmds q).filter fun k => k.launch = m.launch && k.unit = m.unit && k.num < m.num

/-- Whose address space and permissions a command has (R70, R186). -/
def State.cmdVf (s : State) (m : Cmd) : Nat × Bool := ((s.launch? m.launch).map fun l => (l.vf, l.priv)).getD (0, false)

/-- A live tile of a unit or of its launch on a core, by its number. -/
def State.placeOf (s : State) (c : Nat) (l u : W32) (uid : Nat) : Option TLoc :=
  let is (p : Nat × Tile) : Bool := p.2.uid = uid && p.2.st != .absent
  let own : Option TLoc := match s.unitCtx c l u with
    | some x => ((s.ctx c x).tiles.find? is).map fun p => .unit c x p.1
    | none => ((s.frameOf l u).bind fun f => f.ctx.tiles.find? is).map fun p => .frame c l u p.1
  own.or (((alGet [] l.toNat (s.core c).ltiles).find? is).map fun p => .launch c l p.1)

/-! ### Translation for commands (R189, R190, R198, R200) -/

/-- The bytes from va cut at 32 KiB pages. -/
def pagesOf : Nat → W64 → Nat → List (W64 × Nat)
  | 0, va, n => [(va, n)]
  | f + 1, va, n =>
    let k := 32768 - va.toNat % 32768
    if n ≤ k then [(va, n)] else (va, k) :: pagesOf f (va + BitVec.ofNat 64 k) (n - k)

/-- What a leaf gives an access to an address in it (R186-R189). -/
def State.useLeaf (s : State) (t : Leaf) (va : Nat) (asPriv wr : Bool) : Xl :=
  if t.priv && !asPriv then .perm
  else if !(s.present t.pa (2 ^ t.bits)) then .perm
  else if wr && !t.w then .fault
  else .ok (t.pa + va % 2 ^ t.bits)

/-- The tables as they stood before the invalidations that a command is ahead of. -/
def State.oldMem (s : State) (num : Nat) : List Host.Cell :=
  ((s.invs.filter fun i => i.ahead.contains num).reverse.flatMap fun i => i.pte).foldl (fun m p => writeNat m p.1 p.2 8) s.memNow

/-- The translation of a command's access: under the old mapping ahead of an invalidation's marker, else through the buffers (R190, R200). -/
def State.cmdXlate (s : State) (c : Nat) (m : Cmd) (wr : Bool) (va : W64) : Xl :=
  let (vf, priv) := s.cmdVf m
  match s.invs.filter fun i => i.ahead.contains m.num with
  | [] => s.xlate c vf priv wr va
  | l =>
    if va.toNat / 2 ^ 51 ≠ 0 then .perm
    else match (l.flatMap fun i => i.old).find? fun t => t.hit vf va.toNat with
      | some t => s.useLeaf ⟨t.pa, t.bits, t.w, t.priv⟩ va.toNat priv wr
      | none =>
        match if s.inWindow va.toNat then s.windowLeaf vf va.toNat else walkLevel (s.oldMem m.num) va.toNat 3 (s.vf vf).cfg.root.toNat with
        | some t => s.useLeaf t va.toNat priv wr
        | none => .fault

/-- Whether a command belongs to code that a freeze has interrupted: its faults wait in the fault list (R342). -/
def State.inShadow (s : State) (c : Nat) (m : Cmd) : Bool :=
  match s.unitCtx c m.launch m.unit with
  | some y => (s.ctx c y).fz || ((s.ctx c y).tif && !m.org.tif)
  | none => (s.frameOf m.launch m.unit).isSome

/-- A translation fault holds the queue at its command (R198), and goes to the page handler, or to the fault list of a shadow (R342). -/
def State.holdCmd (s : State) (c : Nat) (x : CtxId) (q : Nat) (m : Cmd) (va : W64) (wr : Bool) : State :=
  let s1 := s.modCmd c x q m.num fun k => { k with state := 2 }
  if s.inShadow c m then s1.modUnit c m.launch m.unit fun cx => { cx with faultList := cx.faultList ++ [⟨q, m.num, va, wr, m.org.tif⟩] }
  else { s1 with pfaults := s1.pfaults ++ [⟨c, x, va, wr, q, m.num, false⟩] }

/-- A fault record from a frame, and the unit's end without resuming (R409). -/
def State.endPreempted (s : State) (f : Frame) (cause : Fatal) (slot : Nat) (o : Org) (vf : Nat) : State :=
  let cx := f.ctx.setTrap slot 0 cause.code o
  let s1 := s.logRecord f.core 0 vf (cx.faultRec f.core 0) ⟨cx.trapba, cx.trapsc, cx.tif⟩
  (s1.modLaunch cx.launch fun l => { l with cause := if l.cause = 0 then 5 else l.cause }).endFramed f

/-- The fatal fault of a command: of its unit's context, or of the pre-empted unit (R343, R344, R409). -/
def State.cmdFatal (s : State) (c : Nat) (m : Cmd) (f : Fatal) : State :=
  match s.unitCtx c m.launch m.unit with
  | some y => s.fatal c y f 10 m.org
  | none =>
    match s.frameOf m.launch m.unit with
    | some fr => s.endPreempted fr f 10 m.org (s.cmdVf m).1
    | none => (s.modLaunch m.launch fun l => { l with cause := if l.cause = 0 then 5 else l.cause }).deadCmds m.launch m.unit

/-- The causes of a command, in the record of its slot: an input of its unit (R347, R395 kind 3; SRC 10, or the slot of an `mload` or `ccopy`). -/
def State.cmdCause (s : State) (c : Nat) (m : Cmd) (k : BitVec 12) : State :=
  s.engineCause c m.launch m.unit m.slot (if m.slot = 7 then 10 else m.slot) k m.org

/-- The weight objects whose window copies a command's read has touched are noted (R299). -/
def State.noteObjs (s : State) (c : Nat) (x : CtxId) (q : Nat) (m : Cmd) (ps : List (Nat × Nat)) : State :=
  let hit (o : WObj) : Bool := o.slots != [] && ps.any fun p => s.objAddr o < p.1 + p.2 && p.1 < s.objAddr o + o.len
  match (s.objs.filter fun o => o.vf = (s.cmdVf m).1 && hit o && !(m.seen.contains o.id)).map fun o => o.id with
  | [] => s
  | l => s.modCmd c x q m.num fun k => { k with seen := (k.seen ++ l).eraseDups }

/-- An earlier command of the queue has still to write some bytes (R193). -/
def State.earlierWrites (s : State) (c q : Nat) (m : Cmd) (va n : Nat) : Bool :=
  let vf := (s.cmdVf m).1
  (s.before c q m).any fun k => (s.cmdRanges vf k).any fun r => r.1 && s.rangesMeet vf r.2 (va, n)

/-- No request place of the core is free for a line of a command (R191); one whose walk is in flight holds its place. -/
def State.noPlace (s : State) (c : Nat) (m : Cmd) : Bool :=
  768 ≤ s.requests c && !((alGet [] (clusterOf c) s.walks).any fun k => k.who.any fun w => w.core = c && w.queue != 7 && w.num = m.num)

/-- An access of a command to n bytes at va: it goes on with the physical pieces; or waits for an earlier command's write of the bytes, or a request place; or
a walk is joined, the queue is held, or PERMISSION is taken; the first part of the answer says whether a line has moved (R189-R193, R198). What it reads
of a mended stripe is counted (R297). -/
def State.cmdAccess (s : State) (c : Nat) (x : CtxId) (q : Nat) (m : Cmd) (wr : Bool) (va : W64) (n : Nat)
    (k : List (Nat × Nat) → Bool × State) : Bool × State :=
  if s.earlierWrites c q m va.toNat n || s.noPlace c m then (false, s)
  else
    let l := (pagesOf 4 va n).map fun p => (p, s.cmdXlate c m wr p.1)
    match l.find? fun p => match p.2 with
      | .ok _ => false
      | _ => true with
    | some (_, .perm) => (true, s.cmdFatal c m .permission)
    | some (p, .miss) => (false, s.missed (s.cmdVf m).1 ⟨c, x, p.1, wr, q, m.num, false⟩)
    | some (p, .fault) => (false, s.holdCmd c x q m p.1 wr)
    | some (_, .ok _) => (false, s)
    | none =>
      let ps := l.filterMap fun p => match p.2 with
        | .ok pa => some (pa, p.1.2)
        | _ => none
      let (moved, t) := k ps
      (moved, if wr then t else (t.noteObjs c x q m ps).fenAdd (s.fenCount ps))

/-- The late writes that a command's read of n bytes at va sees: those of its unit, and those its unit has acquired by a flag that it has bound the bytes to
(R286). -/
def State.cmdSees (s : State) (c : Nat) (m : Cmd) (va : W64) (n : Nat) : Late → Bool :=
  let flags := ((s.unitState c m.launch m.unit).map fun cx =>
    (cx.binds.filter fun b => bytesMeet va.toNat n b.base.toNat b.len.toNat).map fun b => b.flag).getD []
  fun e => e.sees m.launch m.unit (some flags)

/-- The bytes of physical pieces as a party finds them, as a number; and whether a line of them is poisoned. -/
def State.loadPieces (s : State) (vf : Nat) (sees : Late → Bool) : List (Nat × Nat) → Nat
  | [] => 0
  | (pa, n) :: r => s.readFor vf sees pa n + 256 ^ n * s.loadPieces vf sees r

/-- What a command finds in the pieces of n bytes at va. -/
def State.cmdLoad (s : State) (c : Nat) (m : Cmd) (va : W64) (n : Nat) (ps : List (Nat × Nat)) : Nat := s.loadPieces (s.cmdVf m).1 (s.cmdSees c m va n) ps

def State.badPieces (s : State) (ps : List (Nat × Nat)) : Bool := ps.any fun p => s.poisoned p.1 p.2

/-- Bytes written to physical pieces. -/
def State.storePieces (s : State) (vf : Nat) : List (Nat × Nat) → Nat → State
  | [], _ => s
  | (pa, n) :: r, v => State.storePieces (s.put vf pa n (v % 256 ^ n)) vf r (v / 256 ^ n)

/-- What a command takes from n bytes that it reads outside its tile data: poisoned bytes do not fault the context, and their values are free
(R199). -/
def State.taken (s : State) (c : Nat) (m : Cmd) (va : W64) (n : Nat) (ps : List (Nat × Nat)) : Nat :=
  if s.badPieces ps then packNat 8 ((List.range n).map fun i => (Config.poisonByte m.num (va.toNat + i)).toNat)
  else s.cmdLoad c m va n ps

/-- A command reads n bytes of global memory outside its tile data. -/
def State.cmdRead (s : State) (c : Nat) (x : CtxId) (q : Nat) (m : Cmd) (va : W64) (n : Nat) (k : Nat → Bool × State) : Bool × State :=
  s.cmdAccess c x q m false va n fun ps => k (s.taken c m va n ps)

/-- A command writes n bytes of global memory. -/
def State.cmdWrite (s : State) (c : Nat) (x : CtxId) (q : Nat) (m : Cmd) (va : W64) (n v : Nat) (k : State → Bool × State) : Bool × State :=
  s.cmdAccess c x q m true va n fun ps => k (s.storePieces (s.cmdVf m).1 ps v)

/-! ### The order of a cycle's accesses, of every party (R160, R163) -/

/-- The place of a stream's tile accesses in the order of a cycle: an MT word's its context, a peer request's its core behind the matrix engine (R160);
MG words only hand commands over. -/
def accessPlace (c : Nat) (x : CtxId) (m : Fin 3) : Option Nat := if m = 0 then some x.val else if m = 1 then some (5 + c) else none

/-- The place of the copy engines, behind every core's peer requests (R160). -/
def copyPlace : Nat := 2000

/-- A 16th outstanding read waits (R39). -/
def Ctx.readsFull (cx : Ctx) (m : Fin 3) (i : Instr) : Bool :=
  isRead i && 15 ≤ (cx.pend.filter fun p => p.rd && decide (streamOf p.slot = m) && p.val.isSome).length

/-- The matrix engine is due to load from an entry: its running call stands at that load, its step over. -/
def State.loadDue (s : State) (p : TLoc) : Bool :=
  let k := s.core p.core
  k.call.any fun a => a.ready ≤ k.cyc && a.group < a.par.kg
    && match (((k.routine a.op.launch a.op.idx).getD [])[a.pos]?).bind decodeRoutine with
      | some .rwLda => s.sideLoc p.core a false = some p
      | some .rwLdb => s.sideLoc p.core a true = some p
      | _ => false

/-- A peer request of an earlier place has waited for an entry that is now ready, and can be performed. -/
def State.peerDue (s : State) (p : TLoc) (place : Nat) : Bool :=
  s.cores.any fun q => 5 + q.1 < place && clusterOf q.1 = clusterOf p.core && allCtx.any fun y =>
    let cx := s.ctx q.1 y
    cx.flows && cx.sw[1] = .tile && cx.mc.head?.any fun z => !(q.2.headHeld q.1 y z)
      && (let r := s.reaches q.1 y z; r.contains p && r.all fun k => s.avail k != .waiting && s.avail k != .unpark)

/-- Accesses of a peer request or a copy engine are out of turn: one of a later place has been performed in this cycle; or one of an earlier place that has
waited is due, of an MT word, the matrix engine or another peer (R160, R163). -/
def State.outOfOrder (s : State) (l : List TLoc) (place : Nat) : Bool :=
  s.outOfTurn l place || (4 < place && l.any fun p => s.avail p = .ready && (s.loadDue p || s.peerDue p place))

/-- A performed access of a unit's command to its core's store (R394, ORD). -/
def State.accessBy (s : State) (c : Nat) (l u : W32) : State :=
  match s.unitCtx c l u with
  | some y => s.accessAt c y
  | none => s.modFrame l u fun cx => { cx with rep := { cx.rep with ord := cx.rep.ord + 1 } }

/-! ### Elements (R193-R198 Table 4) -/

/-- The next element has been delivered. -/
def Cmd.delivered (m : Cmd) : Cmd := { m with next := m.next + 1, state := if m.total ≤ m.next + 1 then 3 else 1 }

/-- A command as it stands after a move: bytes off its barrier, of those it has added to it; bytes written (R196). -/
def State.moved (s : State) (c : Nat) (x : CtxId) (q : Nat) (m : Cmd) (lands wrote : Nat) : State :=
  let n := Nat.min lands m.pbLeft
  let s1 := s.modCmd c x q m.num fun k => { m with pbLeft := m.pbLeft - n, bytes := m.bytes + wrote, seen := k.seen }
  s1.landBytes c m.pb m.pbInst n

/-- The element's end: progress, bytes off its barrier, bytes written, one charged cycle (R193, R321). -/
def State.elementDone (s : State) (c : Nat) (x : CtxId) (q : Nat) (m : Cmd) (lands wrote : Nat) : State :=
  (s.moved c x q m.delivered lands wrote).charge m.launch 1

/-- A tile that a command creates lies in a bank that is in retention or on its way: the line waits for the bank, which wakes (R170). -/
def State.dozing (s : State) (c : Nat) (m : Cmd) (uid : Option Nat) : Option TLoc :=
  (uid.bind fun u => s.placeOf c m.launch m.unit u).filter fun l => s.inReten l (· != .active)

/-- Bytes that a command lands in the tile it creates: discarded where the tile has vanished (R163). The copy engine is the last of a cycle's parties
(R160). -/
def State.landTile (s : State) (c : Nat) (m : Cmd) (uid : Option Nat) (off n v : Nat) : State :=
  match uid.bind fun u => s.placeOf c m.launch m.unit u with
  | none => s
  | some l =>
    ((s.setTile l ((s.tile l).write off n (BitVec.ofNat (8 * n) v))).logFill l off
      ((List.range (n / 8)).map fun i => BitVec.ofNat 64 (v / 256 ^ (8 * i))) (some (m.launch, m.unit, m.org)) none).serve s [l] copyPlace

/-- A tile whose source is poisoned is POISONED (R163, R199). -/
def State.spoilTile (s : State) (c : Nat) (m : Cmd) (uid : Option Nat) : State :=
  match uid.bind fun u => s.placeOf c m.launch m.unit u with
  | none => s
  | some l => if (s.tile l).st = .poisoned then s else (s.setTile l { s.tile l with st := .poisoned }).logTstate s l none

/-- A create whose source reads poisoned: its tiles are POISONED, and the command has nothing more to move (R163 Table 4, R199). -/
def State.poisonFill (s : State) (c : Nat) (x : CtxId) (q : Nat) (m : Cmd) : State :=
  (((s.spoilTile c m m.dst).spoilTile c m m.dst2).modCmd c x q m.num fun k => { k with state := 3 }).charge m.launch 1

/-- A filled tile whose last byte has landed is PRESENT (R163); the other units that can name it log it (R395). -/
def State.filledTile (s : State) (c : Nat) (m : Cmd) (uid : Option Nat) : State :=
  match uid.bind fun u => s.placeOf c m.launch m.unit u with
  | none => s
  | some l =>
    if (s.tile l).st = .filling then (s.setTile l { s.tile l with st := .present }).logTstate s l (s.loggerOf c m.launch m.unit) else s

/-- The logs of the units that can name a tile that a command fills have room for its lines and for its change of state (R395). -/
def State.fillFits (s : State) (c : Nat) (m : Cmd) (n : Nat) : Bool :=
  [m.dst, m.dst2].all fun u => match u.bind fun k => s.placeOf c m.launch m.unit k with
    | none => true
    | some l => s.namersFit l (n / 8 + 4)

/-- The source tile of a command, by the number of the tile that it started on. -/
def State.sourceLoc (s : State) (c : Nat) (m : Cmd) : Option TLoc :=
  m.src.bind fun u => s.placeOf (if m.slot = 6 then m.srcCore else c) m.launch m.unit u

/-- A command's read of its source tile is counted after its last byte is taken (R159, R205, R206, R276), in whatever live state the tile then is; other
units that can name the tile log it (R395). -/
def State.countSource (s : State) (c : Nat) (m : Cmd) : State :=
  if !m.consume then s
  else match s.sourceLoc c m with
    | none => s
    | some l =>
      if (s.tile l).st = .absent then s
      else ((s.serve s [l] copyPlace).consume l).logTstate s l (if l.core = c then s.loggerOf c m.launch m.unit else none)

/-- The last line of a command counts a read of its source, which is not in its turn (R160). -/
def State.countHeld (s : State) (c : Nat) (m : Cmd) : Bool :=
  m.consume && m.total ≤ m.next + 1 && (s.sourceLoc c m).any fun l => s.outOfOrder [l] copyPlace

/-- Both tiles of a converting fetch from the source's bytes as one number (R118, R119, R121, R204). -/
def convertTiles (td ts : Tile) (g all : Nat) : Tile × Tile × BitVec 12 :=
  let ty := ts.fmt.toNat
  let n := fmtPlanes td.fmt.toNat
  let apf := fmtApf td.fmt.toNat
  let k := 8 * td.rowBytes / n
  let bits := tyBits ty
  (List.range td.rows).foldl (fun (d, sc, c) i =>
    let row := splitNat bits k (all / 2 ^ (i * k * bits))
    let (p, se, x) := encodeRow apf n ty (64 * g) row
    let d1 := d.write (i * td.rowBytes) td.rowBytes (packElems _ 64 p)
    let sc1 := if apf then (se.zipIdx).foldl (fun (q : Tile) e => q.write (e.2 * ts.rowBytes + 2 * i) 2 (BitVec.ofNat _ e.1)) sc else sc
    (d1, sc1, c ||| x)) (td, ts, 0)

/-- The words of a tile, for a log entry. -/
def Tile.words (t : Tile) : List W64 := (List.range (t.size / 8)).map fun i => t.read (8 * i) 8

/-- A zero tile of a shape. -/
def shapeTile (d : Nat) : Tile := Tile.absent.shape (BitVec.ofNat 64 d)

/-- One tile of a converting fetch lands whole; nothing where it has vanished (R163). -/
def State.landWhole (s : State) (c : Nat) (m : Cmd) (uid : Option Nat) (t : Tile) : State :=
  match uid.bind fun u => s.placeOf c m.launch m.unit u with
  | none => s
  | some l => ((s.setTile l { s.tile l with data := t.data }).logFill l 0 t.words (some (m.launch, m.unit, m.org)) none).serve s [l] copyPlace

/-- The last line of a converting fetch: the source is encoded into the shapes that both tiles had at hand-off (aux), and what has not vanished lands
whole (R118, R119, R163, R204). DEDUCED: with both gone nothing is encoded, and CONV is not set (log entry 35). -/
def State.convertDone (s : State) (c : Nat) (x : CtxId) (q : Nat) (m : Cmd) : State :=
  let live (uid : Option Nat) : Bool := (uid.bind fun u => s.placeOf c m.launch m.unit u).isSome
  let (d, sc, z) := convertTiles (shapeTile (m.aux.getD 0 0)) (shapeTile (m.aux.getD 1 0)) m.ctl.toNat
    ((packNat 512 (m.lines.map BitVec.toNat)) % 256 ^ m.len)
  let s1 := if live m.dst || live m.dst2 then ((s.landWhole c m m.dst d).landWhole c m m.dst2 sc).cmdCause c m z else s
  ((s1.filledTile c m m.dst).filledTile c m m.dst2).elementDone c x q m m.pbLeft m.pbLeft

/-- A line of a `gfetch` (R203, R204): it lands, or is kept until the whole source has come. -/
def State.fetchLine (s : State) (c : Nat) (x : CtxId) (q : Nat) (m : Cmd) : Bool × State :=
  let n := Nat.min 64 (m.len - 64 * m.next)
  if !(s.fillFits c m (if m.dst2.isSome then 65536 else 64)) then (false, s)
  else match (s.dozing c m m.dst).or (s.dozing c m m.dst2) with
  | some l => (false, s.wakeBanks l)
  | none => s.cmdAccess c x q m false (m.a1 + BitVec.ofNat 64 (64 * m.next)) n fun ps =>
    let bad := s.badPieces ps
    let v := s.cmdLoad c m (m.a1 + BitVec.ofNat 64 (64 * m.next)) n ps
    let last := m.total ≤ m.next + 1
    if bad then (true, s.poisonFill c x q m)
    else if m.dst2.isSome then
      let m1 := { m with lines := m.lines ++ [BitVec.ofNat 512 v] }
      (true, if last then s.convertDone c x q m1 else s.elementDone c x q m1 0 0)
    else
      let s1 := s.landTile c m m.dst (64 * m.next) n v
      (true, (if last then s1.filledTile c m m.dst else s1).elementDone c x q m n n)

/-- A line of the row at NEXT has moved: the row's last ends the element. Bytes that a row transferred again has landed before are not landed twice
(R193, R196, R198). -/
def State.rowLine (s : State) (c : Nat) (x : CtxId) (q : Nat) (m : Cmd) : State :=
  let lands := if m.top ≤ m.line then 64 else 0
  if m.len / 64 ≤ m.line + 1 then
    let s1 := if m.total ≤ m.next + 1 then (s.countSource c m).filledTile c m m.dst else s
    s1.elementDone c x q { m with line := 0, top := 0, idx := if (m.next + 1) % m.rpi = 0 then none else m.idx } lands lands
  else (s.moved c x q { m with line := m.line + 1, top := Nat.max m.top (m.line + 1) } lands lands).charge m.launch 1

/-- A line of a `ggather` or `gscatter`, or the read of the index before its rows (R193, R205). -/
def State.rowStep (s : State) (c : Nat) (x : CtxId) (q : Nat) (m : Cmd) (scatter repl : Bool) : Bool × State :=
  if repl then (true, s.rowLine c x q m)
  else match if m.reread then none else m.idx with
    | none =>
      let a := m.a2 + BitVec.ofNat 64 (m.next / m.rpi * m.isz)
      s.cmdAccess c x q m false a m.isz fun ps =>
        if s.badPieces ps && !scatter then (true, s.poisonFill c x q m)
        else (true, (s.modCmd c x q m.num fun k =>
          { k with idx := some (BitVec.ofNat 64 (s.taken c m a m.isz ps)), reread := false }).charge m.launch 1)
    | some v =>
      let row := m.rowAddr v m.next
      let o := 64 * m.line
      let at_ := m.next * m.len + o
      if row.toNat % 64 ≠ 0 then (true, s.cmdFatal c m .misalign)
      else if scatter then
        s.cmdWrite c x q m (row + BitVec.ofNat 64 o) 64 (fld m.buf (8 * at_) 512 : BitVec _).toNat fun t => (true, t.rowLine c x q m)
      else if !(s.fillFits c m 64) then (false, s)
      else match s.dozing c m m.dst with
      | some l => (false, s.wakeBanks l)
      | none => s.cmdAccess c x q m false (row + BitVec.ofNat 64 o) 64 fun ps =>
        if s.badPieces ps then (true, s.poisonFill c x q m)
        else (true, (s.landTile c m m.dst at_ 64 (s.cmdLoad c m (row + BitVec.ofNat 64 o) 64 ps)).rowLine c x q m)

/-- A line of a `gstore` (R206). -/
def State.storeLine (s : State) (c : Nat) (x : CtxId) (q : Nat) (m : Cmd) (repl : Bool) : Bool × State :=
  let last := m.total ≤ m.next + 1
  let out (t : State) : State := (if last then t.countSource c m else t).elementDone c x q m 64 64
  if repl then (true, out s)
  else s.cmdWrite c x q m (m.a1 + BitVec.ofNat 64 (64 * m.next)) 64 (fld m.buf (512 * m.next) 512 : BitVec _).toNat fun t => (true, out t)

/-- A line of a `gcopy`: poisoned source lines leave poisoned destination lines (R199, R207). -/
def State.copyLine (s : State) (c : Nat) (x : CtxId) (q : Nat) (m : Cmd) : Bool × State :=
  let o := BitVec.ofNat 64 (64 * m.next)
  s.cmdAccess c x q m false (m.a1 + o) 64 fun ps =>
    s.cmdAccess c x q m true (m.a2 + o) 64 fun pd =>
      let s1 := s.storePieces (s.cmdVf m).1 pd (s.cmdLoad c m (m.a1 + o) 64 ps)
      let s2 := if s.badPieces ps then pd.foldl (fun t p => t.setPoison p.1 p.2) s1 else s1
      (true, s2.elementDone c x q m 64 64)

/-- A mapping that only one of the two buffers holds comes into the other. -/
def State.bringIn (s : State) (c vf va : Nat) : State :=
  let core := (s.core c).tlb.find? fun t => t.hit vf va
  let cl := (alGet [] (clusterOf c) s.ctlb).find? fun t => t.hit vf va
  match core, cl with
  | none, some t => s.modCore c fun k => { k with tlb := (t :: k.tlb).take 256 }
  | some t, none => { s with ctlb := alSet (clusterOf c) ((t :: alGet [] (clusterOf c) s.ctlb).take 8192) s.ctlb }
  | _, _ => s

/-- A page of a `gpref`: its mapping comes into both buffers; one that may not be accessed is skipped; no line moves, and no cycle is charged (R207,
R321). -/
def State.prefPage (s : State) (c : Nat) (x : CtxId) (q : Nat) (m : Cmd) : Bool × State :=
  let va : W64 := BitVec.ofNat 64 ((m.a1.toNat / 32768 + m.next) * 32768)
  match s.cmdXlate c m false va with
  | .miss => (false, s.missed (s.cmdVf m).1 ⟨c, x, va, false, q, m.num, false⟩)
  | _ => (true, (s.bringIn c (s.cmdVf m).1 va.toNat).moved c x q m.delivered 0 0)

/-- A line of the record that an `mload` fetches; the header's LEN fixes how many (R241). -/
def State.mloadLine (s : State) (c : Nat) (x : CtxId) (q : Nat) (m : Cmd) : Bool × State :=
  s.cmdAccess c x q m false (m.a1 + BitVec.ofNat 64 (64 * m.next)) 64 fun ps =>
    let v := s.cmdLoad c m (m.a1 + BitVec.ofNat 64 (64 * m.next)) 64 ps
    let len := v / 256 % 2048
    let total := if m.next = 0 then (if len = 0 ∨ 1792 < len then 1 else ceilDiv (8 + 8 * len) 64) else m.total
    let m1 := { m with
      total := total, buf := putBits m.buf (512 * m.next) 512 (BitVec.ofNat 512 v), causes := if s.badPieces ps then cINV else m.causes }
    (true, s.elementDone c x q m1 0 0)

/-! ### xdisp (R94, R310-R313) -/

/-- The bucket that takes some tokens: the smallest size that holds them. -/
def bucketOf (sizes : List Nat) (take : Nat) : Nat := (sizes.findIdx? fun b => take ≤ b).getD (sizes.length - 1)

/-- The end of an `xdisp` with its answer and target, kept until it completes: aux holds whether it jumps, sD and the target. -/
def Cmd.xdispOut (m : Cmd) (jump : Bool) (v target : Nat) (rest : List Nat) : Cmd := { m with aux := [bit jump, v, target] ++ rest }

/-- The first element: the table and the record are read, and the list is closed, once (R310, R311). -/
def State.xdispClose (s : State) (c : Nat) (x : CtxId) (q : Nat) (m : Cmd) : Bool × State :=
  let args := ((s.launch? m.launch).map fun l => l.args).getD 0
  let misuse (t : State) : State := (t.cmdCause c m cINV).elementDone c x q ({ m with total := 1 }.xdispOut false 0 0 []) 0 0
  s.cmdRead c x q m (args + 8) 8 fun at_ =>
    if at_ % 64 ≠ 0 then (true, misuse s)
    else s.cmdRead c x q m (BitVec.ofNat 64 at_) 128 fun xdt =>
      let nb := word32 xdt 0 % 16
      let list := xdt / 2 ^ 64 % 2 ^ 64
      let e := m.a1.toNat % 2 ^ 32
      let sizes := (List.range nb).map fun i => word32 xdt (8 + i)
      let rising := ((0 :: sizes).zip sizes).all fun p => p.1 < p.2
      if nb = 0 ∨ 8 < nb ∨ !rising ∨ word32 xdt 1 ≤ e ∨ list % 64 ≠ 0 then (true, misuse s)
      else
        let rec_ : W64 := BitVec.ofNat 64 (list + 64 * e)
        s.cmdRead c x q m rec_ 64 fun r =>
          let n := word32 r 0
          let p := word32 r 1 % 2
          let cap := word32 r 2
          let tok (h : Nat) : Nat := r / 2 ^ (128 + 64 * h) % 2 ^ 64
          let take := Nat.min n (sizes.getLastD 0)
          let rest := n - take
          let b := bucketOf sizes take
          let size := if take = 0 then 0 else sizes.getD b 0
          let target := if take = 0 then word32 xdt 4 else word32 xdt (16 + b)
          if tok 0 % 4 ≠ 0 ∨ tok 1 % 4 ≠ 0 then (true, misuse s)
          else s.cmdWrite c x q m rec_ 8 ((1 - p) * 2 ^ 32 + rest) fun t =>
            let m1 := { m with total := 2 + ceilDiv rest 16 + ceilDiv (size - take) 16 }.xdispOut true size target [take, rest, p, tok p, tok (1 - p), rec_.toNat]
            (true, (if cap < n ∨ cap < size then t.cmdCause c m cINV else t).elementDone c x q m1 0 8)

/-- An element after the close: a line of ids carried to the other half, a line of empty ids of the bucket, or last the record's word 4 (R198, R311). -/
def State.xdispStep (s : State) (c : Nat) (x : CtxId) (q : Nat) (m : Cmd) : Bool × State :=
  match m.aux with
  | [_, size, _, take, rest, p, open_, next_, rec_] =>
    let i := m.next - 1
    let carry := ceilDiv rest 16
    let at_ (a : Nat) : W64 := BitVec.ofNat 64 a
    if i < carry then
      let n := 4 * Nat.min 16 (rest - 16 * i)
      s.cmdRead c x q m (at_ (open_ + 4 * (take + 16 * i))) n fun v =>
        s.cmdWrite c x q m (at_ (next_ + 64 * i)) n v fun t => (true, t.elementDone c x q m 0 n)
    else if i < carry + ceilDiv (size - take) 16 then
      let j := 16 * (i - carry)
      let n := 4 * Nat.min 16 (size - take - j)
      s.cmdWrite c x q m (at_ (open_ + 4 * (take + j))) n (256 ^ n - 1) fun t => (true, t.elementDone c x q m 0 n)
    else s.cmdWrite c x q m (at_ (rec_ + 32)) 8 (p * 2 ^ 32 + take) fun t => (true, t.elementDone c x q m 0 8)
  | _ => (false, s)

/-! ### The copy engine (R193) -/

/-- Whether an earlier command of the unit holds the queue on a translation fault (R198). -/
def State.heldAhead (s : State) (c q : Nat) (m : Cmd) : Bool := (s.before c q m).any fun k => k.state = 2

/-- Whether the unit of a command replays. -/
def State.cmdReplays (s : State) (c : Nat) (m : Cmd) : Bool :=
  ((s.unitState c m.launch m.unit).map fun cx => cx.rep.replaying).getD false

/-- A line of a command whose unit has ended: the engine spends its cycle, bytes count as landed, and the results are discarded (R163, R321, R343). -/
def State.deadLine (s : State) (c : Nat) (x : CtxId) (q : Nat) (m : Cmd) : State :=
  let rows := m.slot = 7 ∧ (m.op = 0x05#6 ∨ m.op = 0x06#6)
  let last := m.total ≤ m.next + 1 ∧ (!(decide rows) || decide (m.len / 64 ≤ m.line + 1))
  let lands := if last then m.pbLeft else if m.dst2.isSome then 0 else 64
  let s1 := if last then s.countSource c m else s
  let m1 := if rows ∧ m.line + 1 < m.len / 64 then { m with line := m.line + 1 } else { m.delivered with line := 0 }
  (s1.moved c x q m1 lands 0).charge m.launch (if m.slot = 7 ∧ m.op = 0x16#6 then 0 else 1)

/-- One element of a started command, if it can move: the answer says whether it did. In a replay nothing leaves the core, and fills come from the log
(R399). -/
def State.moveLine (s : State) (c : Nat) (x : CtxId) (q : Nat) (m : Cmd) : Bool × State :=
  let repl := s.cmdReplays c m
  if m.state ≠ 1 then (false, s)
  else if s.countHeld c m then (false, s)
  else if m.dead then (true, s.deadLine c x q m)
  else if s.heldAhead c q m then (false, s)
  else if m.slot = 0 then (if m.next = 0 then s.xdispClose c x q m else s.xdispStep c x q m)
  else if m.slot = 4 then s.mloadLine c x q m
  else match m.op.toNat with
    | 0x04 => if repl then (false, s) else s.fetchLine c x q m
    | 0x05 => if repl then (false, s) else s.rowStep c x q m false false
    | 0x06 => s.rowStep c x q m true repl
    | 0x07 => s.storeLine c x q m repl
    | 0x08 => if repl then (true, s.elementDone c x q m 64 64) else s.copyLine c x q m
    | 0x16 => s.prefPage c x q m
    | _ => (false, s)

/-- The first command of a list, in order, that can move a line; a line that a log has no room for does not move (R395). -/
def State.moveFirst (s : State) (c : Nat) (x : CtxId) (q : Nat) : List Cmd → Bool × State
  | [] => (false, s)
  | m :: r =>
    match s.moveLine c x q m with
    | (true, t) => if s.logsOver t then State.moveFirst s c x q r else (true, t)
    | (false, t) => State.moveFirst t c x q r

/-- A context's turn: alternately eq0 and eq1, the other where the first has nothing to move (R193). -/
def State.moveCtx (s : State) (c : Nat) (x : CtxId) : Bool × State :=
  let turn := (s.core c).rotQ / 2 ^ x.val % 2
  let flip (t : State) (served : Nat) : State := t.modCore c fun k =>
    { k with rotQ := k.rotQ - (k.rotQ / 2 ^ x.val % 2) * 2 ^ x.val + (1 - served) * 2 ^ x.val, rotX := (x.val + 1) % 4 }
  match s.moveFirst c x turn ((s.ctx c x).cmds turn) with
  | (true, t) => (true, flip t turn)
  | (false, t) =>
    match t.moveFirst c x (1 - turn) ((t.ctx c x).cmds (1 - turn)) with
    | (true, u) => (true, flip u (1 - turn))
    | (false, u) => (false, u)

/-- The contexts in rotation. -/
def State.moveAny (s : State) (c : Nat) : List CtxId → State
  | [] => s
  | x :: r =>
    match s.moveCtx c x with
    | (true, t) => t
    | (false, t) => State.moveAny t c r

/-! ### Peer copies (R276, R277) -/

/-- A line of a `ccopy` lands: data as taken when the copy started. -/
def State.ccopyLine (s : State) (c : Nat) (x : CtxId) (m : Cmd) : State :=
  if m.state ≠ 1 ∨ s.countHeld c m then s
  else if m.dead then s.deadLine c x 4 m
  else if s.cmdReplays c m ∨ !(s.fillFits c m 64) then s
  else match s.dozing c m m.dst with
  | some l => s.wakeBanks l
  | none =>
    let last := m.total ≤ m.next + 1
    let s1 := s.landTile c m m.dst (64 * m.next) 64 (fld m.buf (512 * m.next) 512 : BitVec _).toNat
    ((if last then (s1.countSource c m).filledTile c m m.dst else s1).elementDone c x 4 m 64 64)

/-- COPY_ENGINE_LINE (R193): core c; with flag, the copy queue of context x, else the copy engine's choice. -/
def execCopyEngineLine (s : State) : Out :=
  let c := s.ev.c
  let x := s.ev.x
  .next (if s.ev.flag then
      (match ((s.ctx c x).cmds 4).find? fun m => m.state = 1 with
      | some m => s.ccopyLine c x m
      | none => s)
    else
      let r := (s.core c).rotX
      s.moveAny c ((List.range 4).map fun i => Fin.ofNat 4 (r + i)))

/-- PREEMPTED_COMMAND_FAULT (R409): core c, context x, queue q, command n of a pre-empted unit, whose next element meets a fatal fault. -/
def execPreemptedCommandFault (s : State) : Out :=
  let c := s.ev.c
  .next (match (s.ctx c s.ev.x).cmd s.ev.q s.ev.n with
    | none => s
    | some m =>
      if (s.unitCtx c m.launch m.unit).isSome || (s.frameOf m.launch m.unit).isNone then s
      else
        let t := (s.moveLine c s.ev.x s.ev.q m).2
        if (t.frameOf m.launch m.unit).isNone then t else s)

/-! ### Walks and the page handler (R189, R190, R197, R198, R342) -/

/-- A request whose walk met no mapping: a fault with the handler, or in the fault list of a shadow; a `gpref` skips the page. -/
def State.walkFault (s : State) (w : PFault) : State :=
  if w.queue = 7 then
    let cx := s.ctx w.core w.x
    let mine := cx.mg.any fun z => z.tok = w.num
    let tif := ((cx.mg ++ cx.savedWords).find? fun z => z.tok = w.num).elim cx.tif fun z => z.org.tif
    if cx.fz || !mine then s.modCtx w.core w.x fun k => { k with faultList := k.faultList ++ [⟨7, w.num, w.va, w.wr, tif⟩] }
    else { s with pfaults := if s.pfaults.contains w then s.pfaults else s.pfaults ++ [w] }
  else match (s.ctx w.core w.x).cmd w.queue w.num with
    | none => s
    | some m =>
      if m.op = 0x16#6 && m.slot = 7 then s.moved w.core w.x w.queue m.delivered 0 0
      else if m.dead then s.modCmd w.core w.x w.queue w.num fun k => { k with state := 3 }
      else s.holdCmd w.core w.x w.queue m w.va w.wr

/-- TRANSLATION_WALK_DONE (R190): cluster c, function vf, page of v. At most 64 walks of a cluster run; one serves every request that joined it. -/
def execTranslationWalkDone (s : State) : Out :=
  let cl := s.ev.c
  let page := s.ev.v.toNat / 32768 * 32768
  let l := alGet [] cl s.walks
  .next (match (l.take 64).find? fun k => k.vf = s.ev.vf && k.va = page with
    | none => s
    | some k =>
      let s1 : State := { s with walks := alSet cl (l.erase k) s.walks }
      match s.walk k.vf k.va with
      | some leaf => k.who.foldl (fun t w => t.install w.core k.vf k.va leaf) s1
      | none => k.who.foldl (fun t w => t.walkFault w) s1)

/-- The tile at a place of the own core. -/
def State.tileAt (s : State) (cx : Ctx) (p : Place) : Tile :=
  alGet Tile.absent p.2.1 (if p.2.2 then alGet [] cx.launch.toNat (s.core p.1).ltiles else cx.tiles)

/-- The handler of a unit waits on something that a held command of the interrupted code owes: a tile that it or a command behind it creates, bytes of a
barrier, or a place or progress in its queue: for a word of its streams, a latch read of its bundle, an `xdisp`, or an operation of the matrix engine
(R342). -/
def State.owed (s : State) (c : Nat) (x : CtxId) (q num : Nat) : Bool :=
  let cx := s.ctx c x
  let line := (cx.cmds q).dropWhile fun m => m.num != num
  let uids := line.flatMap fun m => m.dst.toList ++ m.dst2.toList
  let owesTile (l : List Place) : Bool := l.any fun p =>
    p.1 = c && (s.tileAt cx p).st != .absent && uids.contains (s.tileAt cx p).uid
  let head (w : StreamWord) (r : Wait) : Bool :=
    match r with
    | .tile | .ring | .unpark => owesTile (cx.touches c {} w)
    | .barrier => (match decodeRaw w.slot w.word with
      | some (.bwait _ _ n) => line.any fun m => m.pb != 0 && m.pbLeft != 0 && m.pb.toNat = n.toNat
      | _ => false)
    | .queueFull => 32 ≤ (cx.cmds q).length || (pbOf w != 0 && line.any fun m => m.pb = pbOf w)
    | .stall => (w.slot = 7 && w.note = some 1) || line.any fun m => meet (cx.unread c m) (cx.touches c {} w)
    | .none | .bank | .wfe | .address | .segment | .idle | .xdisp => false
  let latches : List TLoc := match cx.fetch with
    | .error _ => []
    | .ok (h, ws) => match cx.tree h.nt.toNat with
      | .error _ => []
      | .ok leaf => (cx.reads h (ws.filter fun w => executes cx h leaf w.2.1)).filterMap fun r => s.headOf c x r.1
  let full := q = 0 && 32 ≤ (cx.cmds 0).length
  (cx.heads.any fun p => p.1.head?.any fun w => head w p.2)
  || ((cx.wait = .tile || cx.wait = .ring || cx.wait = .unpark) && latches.any fun l => uids.contains (s.tile l).uid && (s.tile l).st != .absent)
  || (cx.wait = .xdisp && q = 0 && line.any fun m => m.slot = 0 && m.org.tif)
  || (cx.wait = .queueFull && full)
  || ((cx.wait = .bank || cx.wait = .queueFull)
    && (s.core c).ops.any fun m => m.of cx
      && (owesTile (cx.places c [] ((m.ta.toList ++ m.tb.toList).map BitVec.toNat)) || (m.kind = .mload && (full || line.any fun k => k.slot = 4))))

/-- A fault list entry of interrupted code that the handler of its unit waits behind is delivered at once (R342). -/
def State.early (s : State) (c : Nat) (x : CtxId) (q num : Nat) : State :=
  let cx := s.ctx c x
  match cx.faultList.find? fun f => f.queue = q && f.num = num with
  | some f =>
    if cx.tif && !cx.fz && q < 4 && s.owed c x q num then
      { s.modCtx c x fun k => { k with faultList := k.faultList.filter fun g => g != f } with pfaults := s.pfaults ++ [⟨c, x, f.va, f.wr, q, num, false⟩] }
    else s
  | none => s

/-- The bundle of the word or command at fault. -/
def State.faultOrg (s : State) (f : PFault) : Org :=
  let cx := s.ctx f.core f.x
  if f.queue = 7 then (((cx.mg ++ cx.savedWords).find? fun w => w.tok = f.num).map fun w => w.org).getD cx.next
  else ((cx.cmd f.queue f.num).map fun m => m.org).getD cx.next

/-- A fault on a window page (R300): a write is unresolvable (some none); a read waits (none) while a promotion of the function is PROMOTING into
that slot, or the object that the page was lost from is PROMOTING elsewhere (R306); it resolves once the page is mapped (some true), and is unresolvable
otherwise. -/
def State.windowFault (s : State) (vf : Nat) (va : W64) (wr : Bool) : Option Bool :=
  if wr then some false
  else if (s.windowLeaf vf va.toNat).isSome then some true
  else if s.objs.any fun o => o.vf = vf && o.st = .promoting
      && ((o.slots.any fun n => s.slotAddr n ≤ va.toNat && va.toNat < s.slotAddr (n + 1)) || (o.was != [] && s.coversFrom o (o.was.headD 0) va.toNat))
  then none else some false

/-- PAGE_FAULT_RESOLVED (R189, R197, R198): core c, context x, queue q (7: the MG stream), number n. The handler installs the page-table entry pte,
and the access is performed again; that of a command ahead of a marker goes by the tables as they stood, and where the marker's invalidation has replaced the
entry, only that old mapping gets the new one (R200); with none, the fault is unresolvable. In the window the tier manager keeps the pages (R300). -/
def execPageFaultResolved (s : State) : Out :=
  let c := s.ev.c
  let x := s.ev.x
  let s0 := s.early c x s.ev.q s.ev.n
  .next (if !(s.fwRuns 1) then s else match s0.pfaults.find? fun f => f.core = c && f.x = x && f.queue = s.ev.q && f.num = s.ev.n with
    | none => s
    | some f =>
      let s1 : State := { s0 with pfaults := s0.pfaults.erase f }
      let vf := if f.queue = 7 then (s.ctx c x).vf else (((s.ctx c x).cmd f.queue f.num).map fun m => (s.cmdVf m).1).getD 0
      let s2 := s1.modCmd c x f.queue f.num fun k =>
        if f.queue = 7 then k else { k with state := if k.len = 0 ∧ 2 ≤ f.queue ∧ f.queue < 4 then 0 else 1, reread := true, line := 0 }
      let lost (t : State) : State :=
        if f.queue = 7 then (t.fatal c x .permission 7 (s.faultOrg f))
        else match (s2.ctx c x).cmd f.queue f.num with
          | some m => s2.cmdFatal c m .permission
          | none => s2
      if s.inWindow f.va.toNat then
        (match s.windowFault vf f.va f.wr with
        | none => s
        | some true => (s2.dropTlb fun t => t.hit vf f.va.toNat).forgetOld fun t => t.hit vf f.va.toNat
        | some false => lost s1)
      else match s.ev.pte with
      | some e =>
        let ahead (i : Inval) : Bool := f.queue != 7 && i.ahead.contains f.num
        let tables := if s.invs.any ahead then s.oldMem f.num else s.memNow
        let a := ptePlace tables f.va.toNat 3 (s.vf vf).cfg.root.toNat
        let put (p : Nat × Nat) : Nat × Nat := if p.1 = a then (a, e.toNat) else p
        let old := s.invs.any fun i => ahead i && i.pte.any fun p => p.1 = a
        let s3 : State := if old then { s2 with invs := s2.invs.map fun i => if ahead i then { i with pte := i.pte.map put } else i }
          else s2.store a 8 e.toNat
        (s3.dropTlb fun t => t.hit vf f.va.toNat).forgetOld fun t => t.hit vf f.va.toNat
      | none => lost s1)

/-! ### Invalidations (R200) -/

/-- INVALIDATION (R200): function vf, or with flag every function; v bytes from, w pages; list: the page-table words that firmware replaces (address,
new word, in turn). -/
def execInvalidation (s : State) : Out :=
  let lo := s.ev.v.toNat
  let hi := lo + s.ev.w.toNat * 32768
  let covers (t : Tlb) : Bool := s.ev.flag || (t.vf = s.ev.vf && t.va < hi && lo < t.va + 2 ^ t.bits)
  let pairs := (List.range (s.ev.list.length / 2)).map fun i => (s.ev.list.getD (2 * i) 0, s.ev.list.getD (2 * i + 1) 0)
  let old := pairs.map fun p => (p.1, readNat s.memNow p.1 8)
  let s1 := s.invalidate (if s.ev.flag then none else some s.ev.vf) covers none old
  .next (pairs.foldl (fun t p => t.store p.1 8 p.2) s1)

/-- Every incomplete command, wherever it stands. -/
def State.allCmds (s : State) : List Nat :=
  ((s.cores.flatMap fun p => p.2.ctx.toList.flatMap fun cx => cx.eq.toList.flatten) ++ s.frames.flatMap fun f => f.ctx.eq.toList.flatten).map fun m => m.num

/-- INVALIDATION_COMPLETE (R200, R404): the oldest invalidation with no command left ahead of its markers is complete, and the HBM pages that firmware has
freed by it, given by number, are zeroed. -/
def execInvalidationComplete (s : State) : Out :=
  let live := s.allCmds
  .next (match s.invs.find? fun i => !(i.ahead.any fun n => live.contains n) with
    | none => s
    | some i => s.ev.list.foldl (fun t p => t.scrubRange (p * 32768) 32768) { s with invs := s.invs.erase i })

/-! ### Stores, waited words, peer requests (R209, R210, R269) -/

/-- A store may have its place in coherence order before every party sees it: it goes to memory, and finds no poison and no broken link there. -/
def State.mayLag (s : State) (st : Store) : Bool := region st.pa ≠ 3 && !(s.poisoned st.pa st.n)

/-- STORE_PERFORMED (R210, R284): core c, context x, store n, once no older store of the context to the same bytes is unperformed: with m = 1 it has its place
in coherence order and its unit sees it, and other parties do once a release and an acquisition make them, or once the late write n is named with m = 2;
else every party sees it. With flag, the stores that ended units of launch l have left to their window (R291). -/
def execStorePerformed (s : State) : Out :=
  let c := s.ev.c
  let x := s.ev.x
  let cx := s.ctx c x
  let mine := cx.stores.filter fun st => st.num = s.ev.n
  let older := cx.stores.takeWhile fun st => st.num != s.ev.n
  .next (if s.ev.flag then s.performWindow s.ev.l
    else if s.ev.m = 2 then s.settleBy fun e => e.num = s.ev.n
    else if mine = [] || older.any fun o => mine.any fun st => bytesMeet o.pa o.n st.pa st.n then s
    else
      let t := if s.ev.m = 1 && mine.all s.mayLag then { s with late := s.late ++ mine.map fun st => ⟨st.num, cx.launch, cx.unit, st, []⟩ }
        else s.performStores cx.vf mine
      t.modCtx c x fun k => { k with stores := k.stores.filter fun st => st.num != s.ev.n })

/-- The state at which the head of a stream is performed: it has left its stream, and carries its values (R37). -/
def State.atHead (s : State) (c : Nat) (x : CtxId) (m : Fin 3) (w : StreamWord) (rest : List StreamWord) : State :=
  { s.modCtx c x (·.setStream m rest) with
    cur := ⟨c, x, w.slot, w.org, s.cur.leaf, w.tok, w.bundle, w.ops, w.cqTok, w.note, w.word⟩ }

/-- GWAIT_REREAD (R209): core c, context x; the `gwait` at the MG stream's head reads its word again. -/
def execGwaitReread (s : State) : Out :=
  let c := s.ev.c
  let x := s.ev.x
  let cx := s.ctx c x
  match cx.mg with
  | w :: r =>
    match decodeRaw w.slot w.word with
    | some (.gwait t i f v) => if cx.flows && !((s.core c).headHeld c x w) then execGwait t i f v (s.atHead c x 2 w r) else .next s
    | _ => .next s
  | [] => .next s

/-- What an MC word does at another core's store. -/
def peerMeaning : Instr → Option (State → Out)
  | .cld t i x r d c => some (execCld t i x r d c)
  | .cst t i x a c => some (execCst t i x a c)
  | .ccnt t i x a c => some (execCcnt t i x a c)
  | .clw t i x r d c => some (execClw t i x r d c)
  | .csw t i x b c => some (execCsw t i x b c)
  | .catom t i x o d a => some (execCatom t i x o d a)
  | .barvRemote t i n c => some (execBarvRemote t i n c)
  | .csev t i c m => some (execCsev t i c m)
  | _ => none

/-- A memory word that has been performed has its tile accesses served at their place in the cycle's order; one that still waits has not (R160, R170). -/
def State.servedWord (t before : State) (c : Nat) (x : CtxId) (m : Fin 3) (w : StreamWord) (l : List TLoc) : State :=
  match accessPlace c x m with
  | none => t
  | some place => if ((t.ctx c x).stream m).any fun z => z.tok = w.tok then t else t.serve before l place

/-- A word whose inputs a log has no room for waits as on a full queue (R395, R397). A replayed word whose entry is another's, or missing, waits for the words that
could still take the entry; else the unit stops before the word, which stays at the head of its stream (R378, R400). -/
def State.outcome (before after : State) (c : Nat) (x : CtxId) (m : Fin 3) (w : StreamWord) : State :=
  let back (r : Wait) : State := before.modCtx c x fun cx => { cx with sw := vset cx.sw m r }
  let d := (after.ctx c x).dbg
  if before.logsOver after then back .queueFull
  else if d.stopped && !(before.ctx c x).dbg.stopped && (d.why = 6 || d.why = 7) then
    (if (before.ctx c x).othersOut w.tok then back .stall else (before.drained c x).debugStop c x d.why.toNat 0)
  else after

/-- PEER_REQUEST (R269): the word at the head of the MC stream of core c, context x arrives at its peer core and is performed there, its tile accesses in their
turn (R39, R160). -/
def execPeerRequest (s : State) : Out :=
  let c := s.ev.c
  let x := s.ev.x
  let cx := s.ctx c x
  match cx.mc with
  | w :: r =>
    let at_ := s.reaches c x w
    match decodeRaw w.slot w.word with
    | some i =>
      if cx.flows && !((s.core c).headHeld c x w) && !(cx.readsFull 1 i) && !(s.outOfOrder at_ (5 + c)) then
        (match peerMeaning i with
        | none => .next s
        | some f => match f (s.atHead c x 1 w r) with
          | .next t => .next (s.outcome (t.servedWord s c x 1 w at_) c x 1 w)
          | o => o)
      else .next s
    | none => .next s
  | [] => .next s

/-! ### Parks and unparks (R168, R169) -/

/-- A live tile of a core by its number, in any table. -/
def State.locOf (s : State) (c uid : Nat) : Option TLoc :=
  let is (p : Nat × Tile) : Bool := p.2.uid = uid && p.2.st != .absent
  let unit := allCtx.findSome? fun x => ((s.ctx c x).tiles.find? is).map fun p => TLoc.unit c x p.1
  let launch := (s.core c).ltiles.findSome? fun q => (q.2.find? is).map fun p => TLoc.launch c (BitVec.ofNat 32 q.1) p.1
  let frame := s.frames.findSome? fun f => if f.core = c then (f.ctx.tiles.find? is).map fun p => TLoc.frame c f.ctx.launch f.ctx.unit p.1 else none
  unit.or (launch.or frame)

/-- PARK_COMPLETE (R168): tile n of core c, once its banks are awake (R170); its granules are freed, its cycles charged. -/
def execParkComplete (s : State) : Out :=
  .next (match s.locOf s.ev.c s.ev.n with
    | none => s
    | some l =>
      let t := s.tile l
      if t.st ≠ .parking then s
      else if s.inReten l (· != .active) then s.wakeBanks l
      else (((((s.serve s [l] copyPlace).setTile l { t with st := .parked, gb := [] }).freed l.core).charge (s.ownerLaunch l) (ceilDiv t.parkBytes 64)).logTstate s l none))

/-- UNPARK_COMPLETE (R169): tile n of core c, once its banks are awake (R170); with flag the park region's data is uncorrectable. -/
def execUnparkComplete (s : State) : Out :=
  .next (match s.locOf s.ev.c s.ev.n with
    | none => s
    | some l =>
      let t := s.tile l
      if t.st ≠ .unparking then s
      else if s.inReten l (· != .active) then s.wakeBanks l
      else ((((s.unparkSpace l t).setTile l { t with st := if s.ev.flag then .poisoned else .present }).charge (s.ownerLaunch l)
        (ceilDiv t.parkBytes 64)).logTstate s l none).serve s [l] copyPlace)

end Sys2Proof.Machine
end

