-- ==== Sys2Proof/Machine/Tiers.lean ====
section
/-! DEFINITION. The memory tiers: the Sluice, weight objects' copies and leaves, the fen tier, the Skim (R294-R309, R404). -/

namespace Sys2Proof.Machine

/-! ### Commands by number alone -/

/-- A command changed wherever its queue stands. -/
def State.modQueued (s : State) (num : Nat) (f : Cmd → Cmd) : State :=
  let g (m : Cmd) : Cmd := if m.num = num then f m else m
  { s with cores := s.cores.map fun p => (p.1, { p.2 with ctx := vmapI (fun _ cx => { cx with eq := vmapI (fun _ q => q.map g) cx.eq }) p.2.ctx }) }

/-- A command and its core. -/
def State.queuedAt (s : State) (num : Nat) : Option (Nat × Cmd) :=
  s.cores.findSome? fun p => (p.2.ctx.toList.flatMap fun cx => cx.eq.toList.flatten).find? (fun m => m.num = num) |>.map fun m => (p.1, m)

/-- The end of a descriptor command that does nothing: its status code (R302, R307, R366, R368). -/
def Cmd.endWith (m : Cmd) (code : Nat) : Cmd := { m with len := 2, state := 1, total := 1, next := 1, ctl := BitVec.ofNat 64 code }

/-- A started descriptor command with its number of elements. -/
def Cmd.started (m : Cmd) (total : Nat) : Cmd := { m with len := 2, state := 1, total := total, next := 0 }

/-! ### The Sluice (R301-R306) -/

def resOk : Nat := 0
def resNospace : Nat := 1
def resRefused : Nat := 2
def resPoisoned : Nat := 3
def resPinfull : Nat := 4
def resNoobj : Nat := 5

/-- A result that has not come yet. -/
def resWaiting : Nat := 2 ^ 64

/-- A result entry: the address of the first window byte with OK and POISONED, 0 otherwise (R303). -/
def State.resEntry (s : State) (o : WObj) (code : Nat) : Nat :=
  if code = resOk ∨ code = resPoisoned then s.objAddr o / 32768 * 32768 + code else code

/-- The event PROMOTE of R301 Table 2 at one listed object, for the command num of a launch: the state after, and its result. -/
def State.promoteOne (s : State) (num i vf : Nat) (l : W32) (expert : Bool) (uses : Nat) (id : W32) : State × Nat :=
  match s.obj? vf id with
  | none => (s, resNoobj)
  | some o =>
    if o.expert != expert then (s, resNoobj)
    else if o.st = .reclaiming && o.odem then (s, resRefused)
    else if 64 ≤ o.pins.length && !(o.pins.any fun p => p.1 = l) then (s, resPinfull)
    else
      let o1 := o.pin l uses
      match o.st with
      | .fen =>
        let k : WObj := { o1 with
          st := .promoting, payer := l, waiters := [(num, i)], since := s.uidCtr, asked := s.now, spent := [], fromBack := false, slots := [] }
        let s1 : State := { s.modObj vf id fun _ => k with uidCtr := s.uidCtr + 1 }
        (s1.seekSlots k, resWaiting)
      | .promoting => (s.modObj vf id fun _ => { o1 with waiters := o.waiters ++ [(num, i)] }, resWaiting)
      | .resident => (s.modObj vf id fun _ => o1, s.resEntry o resOk)
      | .reclaiming => (s.modObj vf id fun _ => { o1 with st := .resident }, s.resEntry o resOk)
      | .poisoned => (s.modObj vf id fun _ => o1, s.resEntry o resPoisoned)

/-- Whether a Sluice descriptor is well formed (R302). -/
def sluiceOk (d : BitVec 512) : Bool :=
  let w0 := descWord d 0
  let op := (fld w0 0 4).toNat
  let n := (fld w0 16 16).toNat
  op ≤ 2 && 1 ≤ n && n ≤ 256 && fld w0 48 16 = 0#16 && fld w0 4 12 = 0#12 && (descWord d 1).toNat % 4 = 0
    && (op = 2 || (descWord d 2).toNat % 8 = 0) && (d >>> 256) = 0

/-- What a command turns out to copy beyond the bytes it has counted at its barrier counts there too (R303). -/
def State.oweBytes (s : State) (c : Nat) (x : CtxId) (m : Cmd) (n : Nat) : State :=
  let b := s.nb c m.pb.toNat
  if n ≤ m.pbLeft ∨ m.pb = 0 ∨ m.pbInst = 0 ∨ b.owner = 0 ∨ b.inst ≠ m.pbInst then s
  else (s.addBytes c m.pb (n - m.pbLeft)).modCmd c x 2 m.num fun k => { k with pbLeft := n }

/-- A Sluice command starts: the listed ids are read, and the event of each is applied in list order (R303, R304). -/
def State.sluiceStart (s : State) (c : Nat) (x : CtxId) (m : Cmd) : State :=
  let d := m.desc
  let op := (fld (descWord d 0) 0 4).toNat
  let n := (fld (descWord d 0) 16 16).toNat
  let uses := (fld (descWord d 0) 32 16).toNat
  let (vf, _) := s.cmdVf m
  if !(sluiceOk d) then s.modCmd c x 2 m.num fun k => k.endWith 2
  else (s.cmdRead c x 2 m (descWord d 1) (4 * n) fun v =>
    let ids := (List.range n).map fun i => BitVec.ofNat 32 (word32 v i)
    if op = 2 then
      (true, (ids.foldl (fun t id => t.modObj vf id fun o => o.unpin m.launch) s).modCmd c x 2 m.num fun k => k.endWith 0)
    else
      let (t, res) := (ids.zipIdx).foldl (fun (acc : State × List Nat) p =>
        let (t, r) := acc.1.promoteOne m.num p.2 vf m.launch (op = 1) uses p.1
        (t, acc.2 ++ [r])) (s, [])
      let copied := ((t.objs.filter fun o => o.st = .promoting && o.waiters.head?.any fun w => w.1 = m.num).map fun o => o.len).sum
      (true, (t.oweBytes c x m copied).modCmd c x 2 m.num fun k => { k.started n with aux := res, next := (res.filter fun r => r != resWaiting).length })).2

/-- A command's list place has its result (R303). -/
def State.giveResult (s : State) (w : Nat × Nat) (entry : Nat) : State :=
  s.modQueued w.1 fun m => if m.aux.getD w.2 0 = resWaiting then { m with aux := m.aux.set w.2 entry, next := m.next + 1 } else m

/-- Cycles of a copy of n bytes between tiers: one a line. -/
def copyCycles (n : Nat) : Nat := ceilDiv n 64

/-- A promotion's copy is in the window: the bytes, with poison where the source or a failed stripe has it; pages mapped; results; and the bytes off
the barrier of the command that started it (R301, R303, R305). -/
def State.copyDone (s : State) (o : WObj) (st : ObjState) (bad : List Nat) : State :=
  let src := if o.fromBack then 2 * 2 ^ 48 + o.back.getD 0 else 2 ^ 48 + o.base
  let dst := s.objAddr o
  let s1 := (s.store dst o.len (readNat s.memNow src o.len)).fenTouch [(src, o.len)]
  let s2 := ((List.range (ceilDiv o.len 64)).filter fun i => s.poisoned (src + 64 * i) 64 || bad.contains ((o.base + 64 * i) / 11776)).foldl
    (fun t i => t.setPoison (dst + 64 * i) 64) s1
  let code := if st = .poisoned then resPoisoned else resOk
  let k : WObj := { o with st := st, waiters := [], spent := [] }
  let s3 := s2.modObj o.vf o.id fun _ => if st = .resident ∧ o.pins = [] then { k with st := .reclaiming } else k
  let s4 := (o.waiters.foldl (fun t w => t.giveResult w (s.resEntry o code)) s3).charge o.payer (copyCycles o.len)
  let s5 := match o.waiters.head?.bind fun w => s4.queuedAt w.1 with
    | some (c, m) =>
      let n := Nat.min o.len m.pbLeft
      (s4.modQueued m.num fun k => { k with pbLeft := k.pbLeft - n, bytes := k.bytes + o.len }).landBytes c m.pb m.pbInst n
    | none => s4
  s5.serveSlots

/-- Every stripe of an object reads back (R297). -/
def State.objReads (s : State) (o : WObj) : Bool := (stripesOf (2 ^ 48 + o.base) o.len).all s.fenReads

/-- PROMOTE_COPY_COMPLETE (R301): object l of function vf, which holds its slots, and whose stripes have read back. -/
def execPromoteCopyComplete (s : State) : Out :=
  .next (match s.obj? s.ev.vf s.ev.l with
    | some o => if o.st = .promoting ∧ o.slots ≠ [] ∧ (o.fromBack ∨ s.objReads o) then s.copyDone o .resident [] else s
    | none => s)

/-- Stripes are uncorrectable until they are written: three of their chunks have failed (R297, R298). -/
def State.loseStripes (s : State) (l : List Nat) : State :=
  { s with fenBad := s.fenBad ++ (l.flatMap fun k => [(k, 0), (k, 1), (k, 2)]).filter fun p => !(s.fenBad.contains p) }

/-- STRIPE_UNCORRECTABLE (R301): object l of function vf; list, the stripes that stay uncorrectable. With a backing copy the promotion restarts
from it into fresh slots; without one the object is POISONED. -/
def execStripeUncorrectable (s : State) : Out :=
  .next (match s.obj? s.ev.vf s.ev.l with
    | some o =>
      if o.st ≠ .promoting ∨ o.slots = [] ∨ o.fromBack then s
      else if o.back.isNone then ((s.copyDone o .poisoned s.ev.list).loseStripes s.ev.list).countError o.vf
      else
        let s0 := (s.loseStripes s.ev.list).charge o.payer (copyCycles o.len)
        (match s0.takeSlots o with
        | some (r, lent) => (s0.modObj o.vf o.id fun k => { k with slots := r, lent := lent, fromBack := true }).serveSlots
        | none => (s0.modObj o.vf o.id fun k => 
          { k with slots := [], lent := false, fromBack := true, spent := k.slots, asked := s.now }).serveSlots)
    | none => s)

/-- PROMOTE_NOSPACE (R301, R305): object l of function vf has found no slots in 100 µs of waiting; slots that have become idle meanwhile still serve it. -/
def execPromoteNospace (s : State) : Out :=
  .next (match s.obj? s.ev.vf s.ev.l with
    | some o =>
      if o.st ≠ .promoting ∨ o.slots ≠ [] ∨ s.now.toNat < o.asked.toNat + 100000 then s
      else if (s.takeSlots o).isSome then s.seekSlots o
      else o.waiters.foldl (fun t w => t.giveResult w resNospace) (s.modObj o.vf o.id fun k => { k with st := .fen, pins := [], waiters := [], spent := [], fromBack := false })
    | none => s)

/-- LEAVE_COMPLETE (R301, R306, R404): object l of function vf; its slots are scrubbed and freed, to the owner's waiting promotion when ODEM = 1. -/
def execLeaveComplete (s : State) : Out :=
  .next (match s.obj? s.ev.vf s.ev.l with
    | some o =>
      if o.st ≠ .reclaiming then s
      else
        let lo := s.objAddr o
        let hi := lo + o.slots.length * 2 ^ s.slotBits
        let owners := (s.wslots.filter fun p => o.slots.contains p.1).map fun p => p.2.owner
        let s1 := s.modObj o.vf o.id fun k => 
          { k with st := .fen, was := if o.odem then o.slots else [], slots := [], lent := false, odem := false, fromBack := false }
        let s2 := s1.scrubRange lo (hi - lo)
        let first := (s2.objs.filter fun k => o.odem && k.expert && k.st = .promoting && k.slots = [] && owners.contains k.vf).mergeSort
          fun a b => a.since ≤ b.since
        ((first.take 1).foldl (fun t k => t.seekSlots k) s2).serveSlots
    | none => s)

/-- WEIGHT_OBJECT_REGISTER (R299): function vf, object l, fen range at v of w bytes, class expert with flag, backing copy pte. A base that is not a
multiple of 32 KiB, a length of 0, or an object that is not FEN registers nothing (log entry 95). -/
def execWeightObjectRegister (s : State) : Out :=
  let e := s.ev
  .next (if e.v.toNat % 32768 ≠ 0 ∨ e.w = 0 ∨ ((s.obj? e.vf e.l).map fun o => o.st != .fen).getD false then s
    else
      let o : WObj := ⟨e.vf, e.l, e.v.toNat, e.w.toNat, e.flag, e.pte.map BitVec.toNat, .fen, [], [], [], false, false, [], 0, 0, 0#64, [], false⟩
      s.setObjs ((s.objs.filter fun k => !(k.vf = e.vf && k.id = e.l)) ++ [o]))

/-! ### The fen tier (R297, R404) -/

/-- FEN_CHANNEL_DOWN (R297): channel n of 48 is marked down; its chunks are rebuilt from the others at every read. With flag, one chunk of it fails, that
of stripe m: the channel reports it uncorrectable, or with q = 1 it is in error without a report. -/
def execFenChannelDown (s : State) : Out :=
  let chunk := (s.ev.m, (s.ev.n + 48 - 2 * s.ev.m % 48) % 48)
  .next (if 48 ≤ s.ev.n ∨ (!s.ev.flag ∧ s.fenDown.contains s.ev.n) then s
    else if s.ev.flag then
      (if s.ev.q = 1 then { s with fenErr := if s.fenErr.contains chunk then s.fenErr else s.fenErr ++ [chunk] }
      else { s with fenBad := if s.fenBad.contains chunk then s.fenBad else s.fenBad ++ [chunk] })
    else { s with fenDown := s.fenDown ++ [s.ev.n], boot := { s.boot with fch := BitVec.ofNat 7 (Nat.min 2 (s.fenDown.length + 1)) } })

/-- FEN_RANGE_ASSIGN (R404): w bytes from fen offset v to function vf; zeroed first unless flag marks the range persistent for that function: it is then mapped
in no other, whose translation buffers drop what they held of it. -/
def execFenRangeAssign (s : State) : Out :=
  let e := s.ev
  let lo := e.v.toNat
  let n := e.w.toNat
  let kept := s.fenRanges.filter fun r => !(bytesMeet r.2.1 r.2.2.1 lo n)
  let s1 : State := { s with fenRanges := kept ++ [(e.vf, lo, n, e.flag)] }
  .next (if !(s.fwRuns 3) then s
    else if e.flag then s1.dropTlb fun t => t.vf != e.vf && bytesMeet (2 ^ 48 + lo) n t.pa (2 ^ t.bits)
    else s1.scrubRange (2 ^ 48 + lo) n)

/-! ### The Skim (R307-R309) -/

def State.biasOf (s : State) (die set : Nat) : Bias := alGet Bias.zero (64 * die + set) s.bias

def State.setBias (s : State) (die set : Nat) (b : Bias) : State := { s with bias := alSet (64 * die + set) b s.bias }

/-- Whether a Skim descriptor is well formed for a function (R307). -/
def State.skimOk (s : State) (vf : Nat) (d : BitVec 512) : Bool :=
  let w0 := descWord d 0
  let op := (fld w0 0 4).toNat
  let cols := (fld w0 42 14).toNat
  let rows := (fld w0 16 26).toNat
  let k := (fld w0 8 5).toNat
  let sz := skimSize w0
  op ≤ 2 && (s.vf vf).cfg.bsets.contains (fld w0 56 6).toNat && fld w0 62 2 = 0#2 && fld w0 13 3 = 0#3 && fld w0 5 3 = 0#3 && (d >>> 320) = 0
    && (op != 0 || (1 ≤ cols && cols ≤ 8192 && 1 ≤ rows && 1 ≤ k && k ≤ 16 && (descWord d 1).toNat % sz = 0 && (descWord d 2).toNat % sz = 0
      && (descWord d 3).toNat % 128 = 0))
    && (op != 1 || (1 ≤ cols && rows + cols ≤ 8192 && (descWord d 1).toNat % 4 = 0))

/-- A Skim command starts: the rows of a SELECT and the eight parts of an EPOCH follow as the dies dequeue them; a BIASW writes the shadow copies of
all eight dies (R308, R309). -/
def State.skimStart (s : State) (c : Nat) (x : CtxId) (m : Cmd) : State :=
  let w0 := descWord m.desc 0
  let set := (fld w0 56 6).toNat
  let cols := (fld w0 42 14).toNat
  let c0 := (fld w0 16 26).toNat
  if !(s.skimOk (s.cmdVf m).1 m.desc) then s.modCmd c x 2 m.num fun k => k.endWith 2
  else match (fld w0 0 4).toNat with
    | 0 => s.modCmd c x 2 m.num fun k => k.started c0
    | 1 => (s.cmdRead c x 2 m (descWord m.desc 1) (4 * cols) fun v =>
        let put (l : List (Nat × W32)) : List (Nat × W32) := (List.range cols).foldl (fun a i => alSet (c0 + i) (BitVec.ofNat 32 (word32 v i)) a) l
        let t := (List.range 8).foldl (fun (t : State) die => t.setBias die set { t.biasOf die set with shadow := put (t.biasOf die set).shadow }) s
        (true, t.modCmd c x 2 m.num fun k => k.endWith 0)).2
    | _ => s.modCmd c x 2 m.num fun k => k.started 8

/-- A row's key order: greater key first, equal keys by lower column, NaN below -inf (R308). -/
def keyBefore (a b : Nat × Nat × Nat) : Bool :=
  let x := fp32.decode a.2.1
  let y := fp32.decode b.2.1
  if x.isNan && y.isNan then a.1 ≤ b.1
  else if x.isNan then false
  else if y.isNan then true
  else if fvLt y x then true
  else if fvLt x y then false
  else a.1 ≤ b.1

/-- The result row of a selection: column numbers, unbiased logits as FP32, the version (R308). -/
def selectRow (b : Bias) (k : Nat) (logits : List Nat) : Nat :=
  let keyed := (logits.zipIdx).map fun p => (p.2, (fAdd fp32 0 p.1 (alGet (0 : W32) p.2 b.active).toNat).1, p.1)
  let best := (keyed.mergeSort keyBefore).take k
  let idx := (List.range 16).map fun i => ((best[i]?).map fun p => p.1).getD 0xFFFF
  let val := (List.range 16).map fun i => ((best[i]?).map fun p => p.2.2).getD 0
  packNat 16 idx + packNat 32 val * 2 ^ 256 + b.version.toNat * 2 ^ 768

/-- The result row of a row that is not selected (R308). -/
def badRow : Nat := 2 ^ 256 - 1

/-- A row's logits as FP32. -/
def logitsOf (w0 : W64) (cols v : Nat) : List Nat :=
  if skimSize w0 = 2 then (splitNat 16 cols v).map fun n => n * 65536 else splitNat 32 cols v

/-- The stack that holds all the pieces of a row. -/
def stackOf (ps : List (Nat × Nat)) : Option Nat :=
  match ps with
  | [] => none
  | p :: _ =>
    let st := p.1 / 2 ^ 36
    if st < 8 && ps.all fun q => q.1 / 2 ^ 36 = st && (q.1 + q.2 - 1) / 2 ^ 36 = st then some st else none

/-- A die has held a row for n ns: 1.5 cycles each, the half cycle carried over (R308, R321). -/
def State.chargeSkim (s : State) (id : W32) (n : Nat) : State :=
  match s.launch? id with
  | none => s
  | some l => (s.modLaunch id fun k => { k with skimNs := l.skimNs + n }).charge id ((l.skimNs + n) * 3 / 2 - l.skimNs * 3 / 2)

/-- SKIM_ROW (R308): core c, context x, command n, row m. -/
def execSkimRow (s : State) : Out :=
  let c := s.ev.c
  let x := s.ev.x
  let row := s.ev.m
  .next (match (s.ctx c x).cmd 2 s.ev.n with
    | none => s
    | some m =>
      let w0 := descWord m.desc 0
      let cols := (fld w0 42 14).toNat
      let len := cols * skimSize w0
      if m.op ≠ 0x12#6 ∨ m.len ≠ 2 ∨ m.state ≠ 1 ∨ fld w0 0 4 ≠ 0#4 ∨ m.total ≤ row ∨ m.aux.contains row ∨ m.total ≤ m.next then s
      else if m.dead then s.modCmd c x 2 m.num fun k => { k with next := k.total }
      else
        let va := descWord m.desc 1 + descWord m.desc 2 * BitVec.ofNat 64 row
        (s.cmdAccess c x 2 m false va len fun ps =>
          let die := stackOf ps
          let bad := die.isNone || s.badPieces ps
          let b := s.biasOf (die.getD 0) (fld w0 56 6).toNat
          let out := if bad then badRow else selectRow b (fld w0 8 5).toNat (logitsOf w0 cols (s.cmdLoad c m va len ps))
          s.cmdWrite c x 2 m (descWord m.desc 3 + BitVec.ofNat 64 (128 * row)) 128 out fun t =>
            let n := Nat.min 128 m.pbLeft
            let t1 := t.modCmd c x 2 m.num fun k =>
              { k with aux := k.aux ++ [row], next := k.next + 1, a2 := k.a2 + BitVec.ofNat 64 (bit bad), pbLeft := k.pbLeft - n, bytes := k.bytes + 128 }
            (true, (t1.landBytes c m.pb m.pbInst n).chargeSkim m.launch (if die.isNone then 0 else ceilDiv cols 512 + 24))).2)

/-- An older BIASW of the queue on a set has still to write the dies, or may be one: its descriptor is not read yet (R309). -/
def Ctx.biasAhead (cx : Ctx) (m : Cmd) (set : Nat) : Bool :=
  (((cx.eq.toList[2]?).getD []).takeWhile fun k => k.num != m.num).any fun k =>
    k.launch = m.launch && k.unit = m.unit && k.op = 0x12#6 && !k.dead && k.state != 3 && k.len != 2
    && (k.len = 0 || (fld (descWord k.desc 0) 0 4 = 1#4 && (fld (descWord k.desc 0) 56 6).toNat = set))

/-- SKIM_EPOCH_DEQUEUE (R309): core c, context x, command n, die q. -/
def execSkimEpochDequeue (s : State) : Out :=
  let c := s.ev.c
  let x := s.ev.x
  .next (match (s.ctx c x).cmd 2 s.ev.n with
    | none => s
    | some m =>
      let w0 := descWord m.desc 0
      let set := (fld w0 56 6).toNat
      if m.op ≠ 0x12#6 ∨ m.len ≠ 2 ∨ m.state ≠ 1 ∨ fld w0 0 4 ≠ 2#4 ∨ 8 ≤ s.ev.q ∨ m.aux.contains s.ev.q ∨ m.total ≤ m.next
        ∨ (s.ctx c x).biasAhead m set then s
      else
        let b := s.biasOf s.ev.q set
        (s.setBias s.ev.q set { b with active := b.shadow, version := b.version + 1 }).modCmd c x 2 m.num fun k =>
          { k with aux := k.aux ++ [s.ev.q], next := k.next + 1, a2 := (b.version + 1).setWidth 64 })

/-- The status word of a Sluice or Skim command at its end: its number in the descriptor and its value; what the spec states no value for is free
(R302, R303, R307). -/
def State.tierStatus (s : State) (m : Cmd) : (Nat × W64) × State :=
  let (fr, s1) := s.free
  let op := fld (descWord m.desc 0) 0 4
  let code := m.ctl.toNat
  if m.op = 0x11#6 then
    if code = 2 then ((3, fld fr 32 16 ++ (0#16 : BitVec 16) ++ (2#16 : BitVec 16) |>.setWidth 64), s1)
    else if op = 2#4 then ((3, fld fr 32 16 ++ fld fr 16 16 ++ (0#16 : BitVec 16) |>.setWidth 64), s1)
    else
      let first := m.aux.findIdx? fun r => r % 16 != resOk
      let done := (m.aux.filter fun r => r % 16 = resOk).length
      match first with
      | none => ((3, fld fr 32 16 ++ BitVec.ofNat 16 done ++ (0#16 : BitVec 16) |>.setWidth 64), s1)
      | some i => ((3, BitVec.ofNat 64 (i * 2 ^ 32 + done * 2 ^ 16 + 1)), s)
  else if code = 2 then ((4, fld fr 8 56 ++ (2#8 : BitVec 8)), s1)
  else if op = 0#4 then ((4, (fld fr 32 32 : W32) ++ BitVec.ofNat 24 m.a2.toNat ++ BitVec.ofNat 8 (if m.a2 = 0 then 0 else 1)), s1)
  else if op = 2#4 then ((4, (m.a2.setWidth 32 : W32) ++ fld fr 8 24 ++ (0#8 : BitVec 8)), s1)
  else ((4, fld fr 8 56 ++ (0#8 : BitVec 8)), s1)

/-- The result entries of a PROMOTE or PROMOTE_X: address and value (R303). -/
def Cmd.entries (m : Cmd) : List (W64 × Nat × Nat) :=
  if m.op ≠ 0x11#6 ∨ m.ctl = 2 ∨ fld (descWord m.desc 0) 0 4 = 2#4 then []
  else (m.aux.zipIdx).map fun p => (descWord m.desc 2 + BitVec.ofNat 64 (8 * p.2), 8, p.1)

end Sys2Proof.Machine
end

