-- ==== Sys2Proof/Machine/Fabric.lean ====
section
/-! DEFINITION. The Causeway: sends, receives and collectives, the tenant table, and the flits that arrive (R314, R364-R370). -/

namespace Sys2Proof.Machine

/-! ### Routes and the tenant table (R364, R365) -/

def State.routed (s : State) (dev : BitVec 12) : Bool := s.routes.any fun r => r.1 = dev.toNat

/-- The local function that a tenant-table entry names (R365 Table 4). -/
def dstVf (t : W64) : Nat := (fld t 36 8 : BitVec 8).toNat

/-- The valid tenant-table entry for a source device and function (R365 Table 4). DESIGN CHOICE: of several, the one whose DSTVF is the function that the
flit names, else the lowest (log entry 38). -/
def State.tenant (s : State) (dev : BitVec 12) (svf : BitVec 8) (vf : Nat) : Option W64 :=
  let l := s.tenants.filter fun p => p.2.getLsbD 0 && fld p.2 52 12 = dev && fld p.2 44 8 = svf
  match l.find? fun p => dstVf p.2 = vf with
  | some p => some p.2
  | none => (l.foldl (fun (best : Option (Nat × W64)) p => match best with
      | some b => if p.1 < b.1 then some p else some b
      | none => some p) none).map fun p => p.2

/-- The function that receives a flit (R365). -/
def State.receiver (s : State) (dev : BitVec 12) (svf : BitVec 8) (vf : Nat) : Nat := ((s.tenant dev svf vf).map dstVf).getD vf

/-- The entry permits the kind of flit whose permission is bit b. -/
def State.permits (s : State) (dev : BitVec 12) (svf : BitVec 8) (vf b : Nat) : Bool := ((s.tenant dev svf vf).map fun e => e.getLsbD b).getD false

/-- A flit: 8 bytes of header, 240 of payload, 8 of check (R364). -/
def flitBytes : Nat × Nat × Nat := (8, 240, 8)

/-- The flits that n bytes of payload fill. -/
def flitsOf (n : Nat) : Nat := ceilDiv n flitBytes.2.1

def State.emit (s : State) (f : Flit) : State := { s with flits := s.flits ++ [f] }

/-- n flits leave for a device, through the port of its route. DESIGN CHOICE: each spends a credit of the port if there is one; none waits, since the spec
gives CREDIT flits no effect (R364; log entry 39). -/
def State.emitTo (s : State) (dev : BitVec 12) (n : Nat) (f : Flit) : State :=
  let port := ((s.routes.find? fun r => r.1 = dev.toNat).map fun r => r.2).getD 16
  { s with flits := s.flits ++ [f], credits := vmapI (fun i k => if i = port then k - n else k) s.credits }

/-! ### Status (R366 Table 5, R368) -/

/-- The end of a command of eq3: its code, and BYTES, SDEV, SVF and ADM as they stand in the status word. -/
def Cmd.finish (m : Cmd) (code bytes sdev svf adm : Nat) : Cmd :=
  { m with len := 2, state := 1, next := m.total, ctl := BitVec.ofNat 64 code
           a2 := BitVec.ofNat 64 (bytes % 2 ^ 32 * 2 ^ 32 + sdev * 2 ^ 20 + svf * 2 ^ 12 + adm * 2 ^ 8) }

/-- The status word of a send, receive or collective; the fields that the spec gives another command, or no value here, are free. -/
def State.fabricStatus (s : State) (m : Cmd) : (Nat × W64) × State :=
  let (fr, s1) := s.free
  let code : BitVec 8 := BitVec.ofNat 8 m.ctl.toNat
  let bytes : W32 := fld m.a2 32 32
  let adm : BitVec 4 := if m.op = 0x14#6 ∧ fld (descWord m.desc 0) 0 4 = 1#4 ∧ m.ctl = 0 then fld m.a2 8 4 else fld fr 8 4
  let src : BitVec 20 := if m.op = 0x15#6 ∧ m.ctl.toNat ≤ 1 then fld m.a2 12 20 else fld fr 12 20
  ((7, bytes ++ src ++ adm ++ code), s1)

/-- The flits that line i of a command of eq3 completes or begins: one cycle is charged for each (R321, R364). -/
def lineFlits (i : Nat) : Nat := flitsOf (64 * (i + 1)) - flitsOf (64 * i)

/-- A 64-byte line of a command of eq3 has been moved: its bytes land on its barrier, the cycles of its flits are charged (R196, R321). -/
def State.lineMoved (s : State) (c : Nat) (x : CtxId) (m : Cmd) (lands : Bool) (f : Cmd → Cmd) : State :=
  let n := if lands then Nat.min 64 m.pbLeft else 0
  let s1 := s.modCmd c x 3 m.num fun k => f { k with next := k.next + 1, pbLeft := k.pbLeft - n, bytes := k.bytes + (if lands then 64 else 0) }
  (s1.landBytes c m.pb m.pbInst n).charge m.launch (lineFlits m.next)

/-! ### gsend (R366, R367) -/

/-- A send or receive descriptor is well formed (R366). -/
def sendOk (recv : Bool) (d : BitVec 512) : Bool :=
  let w0 := descWord d 0
  let op := (fld w0 0 4).toNat
  let len := (descWord d 2).toNat
  let launch := !recv && op = 1
  op ≤ (if recv then 0 else 1) && (if recv then fld w0 5 7 = 0#7 else fld w0 4 8 = 0#8) && (descWord d 1).toNat % 64 = 0
    && (launch || (len % 64 = 0 && 64 ≤ len && len ≤ 2 ^ 32)) && fld d 192 256 = 0#256

/-- The lines of a DATA send read one by one; then they leave, and the send, its code kept in `aux`, waits until they are delivered (R290, R367). -/
def State.sendLines (s : State) (c : Nat) (x : CtxId) (num code : Nat) : Nat → State
  | 0 => s
  | f + 1 =>
    match (s.ctx c x).cmd 3 num with
    | none => s
    | some m =>
      let w0 := descWord m.desc 0
      if m.total ≤ m.next then
        (s.emitTo (fld w0 20 12) (flitsOf (64 * m.total)) (.send (fld w0 20 12) (fld w0 12 8) (fld w0 32 32) (descWord m.desc 2).toNat
          (m.aux.map (BitVec.ofNat 512)))).modCmd c x 3 num fun k => { k with ctl := 0xFF, aux := [code] }
      else
        match s.cmdRead c x 3 m (descWord m.desc 1 + BitVec.ofNat 64 (64 * m.next)) 64 fun v =>
          (true, s.lineMoved c x m true fun k => { k with aux := k.aux ++ [v] }) with
        | (true, t) => State.sendLines t c x num code f
        | (false, t) => t

/-- A send starts. A DATA send starts only when the destination has matched it (met, with the receive's capacity), or has refused it (R365, R367); a
LAUNCH sends its packet and waits for the answer. -/
def State.sendStart (s : State) (c : Nat) (x : CtxId) (m : Cmd) (met : Bool) (cap : Nat) (denied : Bool) : State :=
  let d := m.desc
  let w0 := descWord d 0
  let dev : BitVec 12 := fld w0 20 12
  let end_ (code : Nat) : State := s.modCmd c x 3 m.num fun k => { k with total := 1 }.finish code 0 0 0 0
  if !(sendOk false d) then end_ 2
  else if !(s.routed dev) then end_ 5
  else if fld w0 0 4 = 1#4 then
    (s.cmdRead c x 3 m (descWord d 1) 64 fun v =>
      (true, ((s.emitTo dev 1 (.launch dev (fld w0 12 8) (BitVec.ofNat 512 v))).modCmd c x 3 m.num fun k => k.started 1).charge m.launch 1)).2
  else if denied then end_ 3
  else if !met then s.modCmd c x 3 m.num fun k => { k with state := 0, len := 0 }
  else
    let len := (descWord d 2).toNat
    let n := Nat.min len cap / 64
    let s1 := s.modCmd c x 3 m.num fun k => { k with total := n }
    s1.sendLines c x m.num (if len = cap then 0 else 1) (n + 1)

/-- ANSWER_FLIT (R290, R365, R367): core c, context x, command n. A LAUNCH send gets the peer's admission code m and launch id l; a DATA send whose lines
have left is delivered; a collective that waits for its peers is refused by m = 3. -/
def execAnswerFlit (s : State) : Out :=
  let c := s.ev.c
  let x := s.ev.x
  .next (match (s.ctx c x).cmd 3 s.ev.n with
    | some m =>
      if m.ctl = 0xFF ∧ m.op = 0x14#6 then s.modCmd c x 3 m.num fun k => k.finish (k.aux.headD 0) (64 * k.total) 0 0 0
      else if m.ctl = 0xFF ∧ m.op = 0x13#6 ∧ s.ev.m = 3 then s.modCmd c x 3 m.num fun k => k.finish 3 (64 * k.next) 0 0 0
      else if m.op = 0x14#6 ∧ fld (descWord m.desc 0) 0 4 = 1#4 ∧ m.len = 2 ∧ m.next < m.total then
        s.modCmd c x 3 m.num fun k => k.finish 0 (if s.ev.m % 16 = 0 then s.ev.l.toNat else 0) 0 0 (s.ev.m % 16)
      else s
    | none => s)

/-! ### grecv (R366, R367) -/

/-- The receives of a function that still wait for a sender: not those of units that have ended (R367). -/
def State.posted (s : State) (vf : Nat) : List (Nat × CtxId × Nat) :=
  (s.vf vf).posted.filter fun p => ((s.ctx p.1 p.2.1).cmd 3 p.2.2).any fun m => !m.dead

/-- A receive starts: it takes its place in its function's receive list, which holds 1,024 (R367). -/
def State.recvStart (s : State) (c : Nat) (x : CtxId) (m : Cmd) : State :=
  let (vf, _) := s.cmdVf m
  if !(sendOk true m.desc) then s.modCmd c x 3 m.num fun k => { k with total := 1 }.finish 2 0 0 0 0
  else if 1024 ≤ (s.posted vf).length then s.modCmd c x 3 m.num fun k => { k with state := 0, len := 0 }
  else (s.modVf vf fun v => { v with posted := s.posted vf ++ [(c, x, m.num)] }).modCmd c x 3 m.num fun k => k.started 1

/-- The receive admits a sender's block (R367). -/
def Cmd.admits (m : Cmd) (dev : BitVec 12) (svf : BitVec 8) (tag : W32) : Bool :=
  let w0 := descWord m.desc 0
  !m.dead && fld w0 32 32 = tag && (w0.getLsbD 4 || (fld w0 20 12 = dev && fld w0 12 8 = svf))

/-- What marks a receive that has been matched with a sender's block of len bytes. -/
def matchedWith (dev : BitVec 12) (svf : BitVec 8) (tag : W32) (len : Nat) : List Nat := [dev.toNat, svf.toNat, tag.toNat, len]

/-- The lines of a matched block written from the first not delivered; at the end the receive has its status: TRUNC where its length is not the send's. -/
def State.recvLines (s : State) (c : Nat) (x : CtxId) (num len : Nat) (data : List (BitVec 512)) : Nat → State
  | 0 => s
  | f + 1 =>
    match (s.ctx c x).cmd 3 num with
    | none => s
    | some m =>
      if m.total ≤ m.next then
        s.modCmd c x 3 num fun k => k.finish (if (descWord m.desc 2).toNat = len then 0 else 1) (64 * k.total) (m.aux.getD 0 0) (m.aux.getD 1 0) 0
      else
        match s.cmdWrite c x 3 m (descWord m.desc 1 + BitVec.ofNat 64 (64 * m.next)) 64 (data.getD m.next 0).toNat fun t =>
          (true, t.lineMoved c x m true id) with
        | (true, t) => State.recvLines t c x num len data f
        | (false, t) => t

/-- A receive whose status word is written lets its sender write the send's (R367). -/
def State.recvAnswer (s : State) (m : Cmd) : State :=
  match m.aux with
  | [dev, svf, tag, _] =>
    if m.op = 0x15#6 ∧ m.ctl.toNat ≤ 1 then
      s.emitTo (BitVec.ofNat 12 dev) 1 (.sendAnswer (BitVec.ofNat 12 dev) (BitVec.ofNat 8 svf) (BitVec.ofNat 32 tag) (descWord m.desc 2).toNat m.ctl.toNat)
    else s
  | _ => s

/-- SEND_FLIT (R365, R367): the lines data of a block of v bytes with tag l from function svf of device dev, which names local function vf, arrive. It is
refused, matches the oldest posted receive that admits it, or goes on into the receive it has matched; without a match it waits at its sender. -/
def execSendFlit (s : State) : Out :=
  let e := s.ev
  let n := e.data.length
  let len := Nat.max e.v.toNat (64 * n)
  let vf := s.receiver e.dev e.svf e.vf
  .next (if n = 0 then s
    else if !(s.permits e.dev e.svf e.vf 2) then s.emitTo e.dev 1 (.sendAnswer e.dev e.svf e.l 0 3)
    else
      let at_ (p : Nat × CtxId × Nat) : Option Cmd := (s.ctx p.1 p.2.1).cmd 3 p.2.2
      let going := s.cores.findSome? fun p => allCtx.findSome? fun x =>
        (((s.ctx p.1 x).cmds 3).find? fun m =>
          m.op = 0x15#6 && m.len = 2 && m.next < m.total && m.aux = matchedWith e.dev e.svf e.l len && (s.cmdVf m).1 = vf).map fun m => (p.1, x, m.num)
      match going with
      | some (c, x, num) => if ((at_ (c, x, num)).map fun m => decide (m.state = 1)).getD false then s.recvLines c x num len e.data (n + 1) else s
      | none =>
        match (s.posted vf).find? fun p => ((at_ p).map fun m => m.admits e.dev e.svf e.l).getD false with
        | none => s
        | some (c, x, num) =>
          let cap := ((at_ (c, x, num)).map fun m => (descWord m.desc 2).toNat).getD 0
          let s1 := (s.modVf vf fun v => { v with posted := v.posted.filter fun p => p != (c, x, num) }).modCmd c x 3 num fun k =>
            { k with aux := matchedWith e.dev e.svf e.l len, total := Nat.min (64 * n) cap / 64, next := 0 }
          s1.recvLines c x num len e.data (n + 1))

/-! ### gcoll (R368-R370) -/

def State.modGroup (s : State) (g : Nat) (f : Group → Group) : State :=
  { s with groups := s.groups.map fun p => if p.1 = g then (g, f p.2) else p }

/-- A collective descriptor is well formed for a number of ranks (R368). -/
def collOk (d : BitVec 512) (p : Nat) : Bool :=
  let w0 := descWord d 0
  let op := (fld w0 16 4).toNat
  op ≤ 3 && (fld w0 12 4).toNat ≤ 2 && (fld w0 8 4).toNat ≤ 2 && (descWord d 1).toNat % 64 = 0 && (descWord d 2).toNat % 64 = 0
    && (descWord d 3).toNat * collSize w0 % 64 = 0 && (op != 3 || (fld w0 0 8).toNat < p) && fld d 256 192 = 0#192

/-- Lines that a rank reads, and lines that it receives (R369). -/
def collLines (d : BitVec 512) (p rank : Nat) : Nat × Nat :=
  let w0 := descWord d 0
  let n := (descWord d 3).toNat * collSize w0 / 64
  match (fld w0 16 4).toNat with
  | 0 => (n, n)
  | 1 => (p * n, n)
  | 2 => (n, p * n)
  | _ => (if (fld w0 0 8).toNat = rank then n else 0, n)

/-- The lines of a rank in an instance as the ranks of a function have them, and whether they are all there. -/
def Group.linesOf (g : Group) (vf : Nat) (inst : W32) (rank : Nat) : List (BitVec 512) × Bool :=
  ((g.dataOf vf inst rank).map fun e => (e.lines, e.all)).getD ([], false)

def Group.setLines (g : Group) (e : RankData) : Group :=
  { g with inbox := (g.inbox.filter fun k => !(k.inst = e.inst && k.rank = e.rank && k.vf = e.vf)) ++ [e] }

/-- One step of a reduction: SUM in FP32, of BF16 widened, or wrapping; MAX and MIN (R369). -/
def collStep (red ty a b : Nat) : Nat × BitVec 12 :=
  let p : Shape := ⟨if ty = 2 then 2 else 10, 0, 1, 0, 0, 0⟩
  if red = 0 then elemOp .add p a b 0 else elemOp (if red = 1 then .vmax else .vmin) p a b 0

/-- The elements of a line reduced in ascending rank order (R369). -/
def collReduce (red ty : Nat) (xs : List (BitVec 512)) : BitVec 512 × BitVec 12 :=
  let w := if ty = 1 then 16 else 32
  let wide (v : Nat) : Nat := if ty = 1 then v * 65536 else v
  let one (i : Nat) : Nat × BitVec 12 :=
    let vs := xs.map fun x => wide (fld x (w * i) w : BitVec w).toNat
    let (acc, z) := vs.tail.foldl (fun (a : Nat × BitVec 12) v => let (r, c) := collStep red ty a.1 v; (r, a.2 ||| c)) (vs.headD 0, 0)
    if ty = 1 then (let (r, c) := convert 10 9 0 acc; (r, z ||| c)) else (acc, z)
  let out := (List.range (512 / w)).map one
  (packElems 512 w (out.map Prod.fst), out.foldl (fun c r => c ||| r.2) 0)

/-- Line i of what a rank receives, with its causes (R369). -/
def collLine (d : BitVec 512) (g : Group) (vf : Nat) (inst : W32) (rank i : Nat) : BitVec 512 × BitVec 12 :=
  let w0 := descWord d 0
  let red := (fld w0 12 4).toNat
  let ty := (fld w0 8 4).toNat
  let n := (descWord d 3).toNat * collSize w0 / 64
  let of (r j : Nat) : BitVec 512 := (g.linesOf vf inst r).1.getD j 0
  match (fld w0 16 4).toNat with
  | 0 => collReduce red ty ((List.range g.p).map fun r => of r i)
  | 1 => collReduce red ty ((List.range g.p).map fun r => of r (rank * n + i))
  | 2 => (of (i / n) (i % n), 0)
  | _ => (of (fld w0 0 8).toNat i, 0)

/-- Every rank whose data an instance needs has sent it, to the ranks of a function. -/
def collReady (d : BitVec 512) (g : Group) (vf : Nat) (inst : W32) : Bool :=
  let w0 := descWord d 0
  if fld w0 16 4 = 3#4 then (g.linesOf vf inst (fld w0 0 8).toNat).2
  else (List.range g.p).all fun r => (g.linesOf vf inst r).2

/-- GROUP and INST of a started collective. -/
def Cmd.coll (m : Cmd) : Nat × W32 := let w0 := descWord m.desc 0; ((fld w0 20 12).toNat, fld w0 32 32)

/-- The lines of a collective written from the first not delivered, each once with its final value; at the end its status is DONE. -/
def State.collWrite (s : State) (c : Nat) (x : CtxId) (num : Nat) : Nat → State
  | 0 => s
  | f + 1 =>
    match (s.ctx c x).cmd 3 num with
    | none => s
    | some m =>
      let (gn, inst) := m.coll
      match s.group? gn with
      | none => s
      | some g =>
        if m.len ≠ 2 ∨ m.state ≠ 1 ∨ m.ctl ≠ 0xFF ∨ !(collReady m.desc g (s.cmdVf m).1 inst) then s
        else if m.total ≤ m.next then s.modCmd c x 3 num fun k => k.finish 0 (64 * k.total) 0 0 0
        else
          let (v, z) := collLine m.desc g (s.cmdVf m).1 inst ((g.rankOf m).getD 0) m.next
          match s.cmdWrite c x 3 m (descWord m.desc 2 + BitVec.ofNat 64 (64 * m.next)) 64 v.toNat fun t =>
            (true, (t.cmdCause c m z).lineMoved c x m true id) with
          | (true, t) => State.collWrite t c x num f
          | (false, t) => t

/-- Every local command of an instance goes on. -/
def State.collGo (s : State) (gn : Nat) (inst : W32) : State :=
  let l := s.cores.flatMap fun p => allCtx.flatMap fun x => (((s.ctx p.1 x).cmds 3).filter fun m => m.op = 0x13#6 && m.len = 2 && m.coll = (gn, inst)).map
    fun m => (p.1, x, m)
  l.foldl (fun t k => t.collWrite k.1 k.2.1 k.2.2.num (k.2.2.total + 1)) s

/-- An instance that a rank of this device will not take part in, for a fatal fault has ended its unit: ABORT flits answer what comes of it (R370). -/
def State.collDead (s : State) (gn : Nat) (inst : W32) : State :=
  match s.group? gn with
  | none => s
  | some g =>
    match g.ended.find? fun r => !(g.sent inst r) with
    | none => s
    | some r =>
      let l := ((g.members.find? fun k => k.1 = r).map fun k => k.2.1).getD 0
      s.sendAbort 0 0 (((s.launch? l).map fun k => k.vf).getD 0) l Org.zero (BitVec.ofNat 12 gn) inst

/-- The source lines of a collective read one by one; then its data leaves, and it waits for the other ranks. -/
def State.collRead (s : State) (c : Nat) (x : CtxId) (num rank : Nat) : Nat → State
  | 0 => s
  | f + 1 =>
    match (s.ctx c x).cmd 3 num with
    | none => s
    | some m =>
      let (gn, inst) := m.coll
      match s.group? gn with
      | none => s
      | some g =>
        let have_ := ((g.inbox.find? fun e => e.inst = inst && e.rank = rank && e.vf.isNone).map fun e => e.lines).getD []
        let (r, w) := collLines m.desc g.p rank
        if r ≤ have_.length then
          ((((s.modGroup gn fun k => k.setLines ⟨inst, rank, none, have_, true⟩).emit (.coll (BitVec.ofNat 12 gn) inst rank have_)).modCmd c x 3 num fun k =>
            { k.started w with ctl := 0xFF }).collGo gn inst).collDead gn inst
        else
          match s.cmdRead c x 3 m (descWord m.desc 1 + BitVec.ofNat 64 (64 * have_.length)) 64 fun v =>
            (true, (s.modGroup gn fun k => k.setLines ⟨inst, rank, none, have_ ++ [BitVec.ofNat 512 v], false⟩).charge m.launch (lineFlits have_.length)) with
          | (true, t) => State.collRead t c x num rank f
          | (false, t) => t

/-- A collective starts: its checks, once, and then its source; refused: another rank's device refuses or cannot be reached (R364, R365, R368,
R370). -/
def State.collStart (s : State) (c : Nat) (x : CtxId) (m : Cmd) (refused : Nat) : State :=
  let (gn, inst) := m.coll
  let end_ (code : Nat) : State := s.modCmd c x 3 m.num fun k => { k with total := 1 }.finish code 0 0 0 0
  match s.group? gn with
  | none => if collOk m.desc 4096 then end_ 3 else end_ 2
  | some g =>
    match g.rankOf m with
    | none => if collOk m.desc g.p then end_ 3 else end_ 2
    | some rank =>
      let n := (collLines m.desc g.p rank).1
      if m.aux = [1] then s.collRead c x m.num rank (n + 1)
      else if !(collOk m.desc g.p) then end_ 2
      else if (g.lastInst.find? fun p => p.1 = rank).any fun p => inst.toNat ≤ p.2.toNat then end_ 2
      else
        let s1 := s.modGroup gn fun k => { k with lastInst := (k.lastInst.filter fun p => p.1 != rank) ++ [(rank, inst)] }
        let out (code : Nat) : State := s1.modCmd c x 3 m.num fun k => { k with total := 1 }.finish code 0 0 0 0
        if g.aborted.contains inst then out 4
        else if refused = 3 ∨ refused = 5 then out refused
        else (s1.modCmd c x 3 m.num fun k => { k with aux := [1] }).collRead c x m.num rank (n + 1)

/-- COLL_FLIT (R365, R369, R370): rank m of instance l of group n has sent its lines data, from function svf of device dev to local function vf: the ranks of
the function that the tenant table names have it. A refusal goes back. -/
def execCollFlit (s : State) : Out :=
  let e := s.ev
  .next (if (s.group? e.n).isNone || !(s.permits e.dev e.svf e.vf 1) then s.emitTo e.dev 1 (.denied e.dev e.svf (BitVec.ofNat 12 e.n) e.l)
    else (((s.modGroup e.n fun g => g.setLines ⟨e.l, e.m, some (s.receiver e.dev e.svf e.vf), e.data, true⟩).collGo e.n e.l).collDead e.n e.l))

/-- A collective whose descriptor is not read yet and that is one of an instance of a group: its rank, where it would take part (R368). -/
def State.collUnread (s : State) (g : Group) (gn : Nat) (inst : W32) (m : Cmd) : Option Nat :=
  let (vf, _) := s.cmdVf m
  let d := BitVec.ofNat 512 (s.loadVa vf m.a1.toNat 64)
  if m.op = 0x13#6 ∧ m.len = 0 ∧ !m.dead ∧ m.state ≠ 3 ∧ m.a1.toNat % 64 = 0 ∧ ({ m with desc := d } : Cmd).coll = (gn, inst) ∧ collOk d g.p then
    (g.rankOf m).filter fun r => !((g.lastInst.find? fun p => p.1 = r).any fun p => inst.toNat ≤ p.2.toNat)
  else none

/-- ABORT_FLIT (R370): instance l of group n: every unfinished local `gcoll` of it, begun or not, in a queue or in the frame of a pre-empted unit, completes with
ABORTED, and later ones will. -/
def execAbortFlit (s : State) : Out :=
  let gn := s.ev.n
  let inst := s.ev.l
  .next (match s.group? gn with
    | none => s
    | some g =>
      let begun (m : Cmd) : Bool := m.op = 0x13#6 && 1 ≤ m.len && m.coll = (gn, inst) && (m.len = 1 || m.next < m.total || m.ctl = 0xFF)
      let f (m : Cmd) : Cmd :=
        if begun m then (if m.len = 2 then m else { m with total := 1, next := 0 }).finish 4 (if m.len = 2 then 64 * m.next else 0) 0 0 0
        else if (s.collUnread g gn inst m).isSome then ({ m with total := 1, next := 0 } : Cmd).finish 4 0 0 0 0
        else m
      let in_ (cx : Ctx) : Ctx := { cx with eq := vmapI (fun i q => if i = 3 then q.map f else q) cx.eq }
      let queued := ((s.cores.flatMap fun p => p.2.ctx.toList) ++ s.frames.map fun k => k.ctx).flatMap fun cx => cx.cmds 3
      let ranks := queued.filterMap (s.collUnread g gn inst)
      let s1 := s.modGroup gn fun g => { g with
        aborted := if g.aborted.contains inst then g.aborted else g.aborted ++ [inst]
        lastInst := (g.lastInst.filter fun p => !(ranks.contains p.1)) ++ ranks.eraseDups.map fun r => (r, inst) }
      { s1 with
        cores := s1.cores.map fun p => (p.1, { p.2 with ctx := p.2.ctx.map in_ })
        frames := s1.frames.map fun k => { k with ctx := in_ k.ctx } })

/-! ### Flits of the network interface (R314, R364, R365) -/

/-- LAUNCH_FLIT (R365): packet data from function svf of device dev to local function vf; an arrival from slot 0, which the second
check of its admission refuses where the tenant table does (R317). -/
def execLaunchFlit (s : State) : Out :=
  let e := s.ev
  let p : BitVec 512 := e.data.headD 0
  let bg := (descWord p 0).getLsbD 8
  let budget := (fld (descWord p 2) 0 32).toNat
  let ok := match s.tenant e.dev e.svf e.vf with
    | none => false
    | some t => t.getLsbD 3 && (fld (descWord p 5) 0 16 &&& ~~~(fld t 20 16 : BitVec 16)) = 0
        && (bg || fld t 4 16 = 0#16 || budget ≤ 64 * (fld t 4 16).toNat)
  .next { s with adm := s.adm ++ [⟨s.receiver e.dev e.svf e.vf, 0, p, none, none, some (e.dev, e.svf), false, fld (descWord p 5) 16 32, 0, 0, s.clk, !ok⟩] }

/-- TIME_FLIT (R314, R364): another chip's time v, as it stands on arrival: firmware core 2 slews device time towards it (R361). With flag, this device
sends its time to device dev. -/
def execTimeFlit (s : State) : Out :=
  .next (if s.ev.flag then s.emitTo s.ev.dev 1 (.time s.ev.dev s.now)
    else if s.fwRuns 2 then s.slewTo (s.ev.v - s.now).toInt
    else s)

/-- CREDIT_FLIT (R364): n credits for port q; with flag, n credits are sent through it. -/
def execCreditFlit (s : State) : Out :=
  .next (if s.ev.flag then s.emit (.credit s.ev.q s.ev.n) else { s with credits := vmapI (fun i k => if i = s.ev.q then k + s.ev.n else k) s.credits })

/-- LINK_LEVEL_RETRY (R364): a flit failed its check and is sent again; it is delivered once. -/
def execLinkLevelRetry (s : State) : Out := .next { s with retries := s.retries + 1 }

end Sys2Proof.Machine
end

