-- ==== Sys2Proof/Machine/Start.lean ====
section
/-! DEFINITION. The start and the completion of queued commands (R74, R159, R160, R192-R194, R196, R206, R212, R213, R241, R276, R277, R299, R386). -/

namespace Sys2Proof.Machine

/-! ### Starting (R193, R206, R212, R213) -/

/-- A fence entry (R212). -/
def Cmd.fence (m : Cmd) : Bool := m.op = 0x10#6 && m.slot = 7

/-- Whether the queue lets a command start: everything of its unit before it has started, also what stays here of a unit that is in its frame; no fence
before it is incomplete, and none holds the queue (R193, R198, R212). -/
def State.mayStart (s : State) (c q : Nat) (m : Cmd) : Bool := (s.before c q m).all fun k => !k.fence && (k.state = 1 || k.state = 3)

/-- A command that starts with nothing to move ends at once. -/
def State.startPlain (s : State) (c : Nat) (x : CtxId) (q : Nat) (m : Cmd) : State :=
  s.modCmd c x q m.num fun k => { k with state := if k.total = 0 then 3 else 1 }

/-- A command that reads a tile meets its source, in its turn of the cycle: without one ABSENT is set and the command ends; a POISONED one is fatal; a
source that is not PRESENT holds the queue; else its bytes are taken, and it starts (R160, R161, R170, R206, R276). A read of the unit's own core is one of its
accesses (R394), and a PARKED source's change is an input of the other units that can name it (R395). -/
def State.startFrom (s : State) (c : Nat) (x : CtxId) (q : Nat) (m : Cmd) (src : Option TLoc) (gone : State) (f : Tile → Cmd → Cmd) : State :=
  let own := m.slot ≠ 6#4 ∨ m.srcCore = c
  let count (t : State) : State := if own then t.accessBy c m.launch m.unit else t
  let end_ : State := count ((gone.cmdCause c m cABSENT).modCmd c x q m.num fun k => { k with state := 3 })
  match src with
  | none => end_
  | some l =>
    match s.avail l with
    | .absent => if s.outOfOrder [l] copyPlace then s else end_.serve s [l] copyPlace
    | .waiting => s.wakeBanks l
    | .unpark => match s.startUnpark l with
      | some t => t.logTstate s l (if own then s.loggerOf c m.launch m.unit else none)
      | none => s
    | .poison => s.cmdFatal c m .poison
    | .ready =>
      if s.outOfOrder [l] copyPlace then s
      else
        let t := s.tile l
        (count (s.modCmd c x q m.num fun k =>
          let k1 := f t { k with buf := (t.read 0 65536).setWidth 524288, src := some t.uid }
          { k1 with state := if k1.total = 0 then 3 else 1 })).serve s [l] copyPlace

/-- A `gstore` or `gscatter` starts: its source's shape fixes what it moves (R205, R206). -/
def State.storeStart (s : State) (c : Nat) (x : CtxId) (m : Cmd) : State :=
  let src := m.aux.head?.map fun n => if (s.unitCtx c m.launch m.unit).isSome then s.resolve c x n else .launch c m.launch n
  let rows := ((src.map fun l => (s.tile l).rows)).getD 0
  if m.op = 0x06#6 ∧ (src.map fun l => s.avail l == .ready).getD false ∧ rows % m.rpi ≠ 0 then
    (s.cmdCause c m cINV).modCmd c x 1 m.num fun k => { k with state := 3 }
  else s.startFrom c x 1 m src s fun t k =>
    if m.op = 0x07#6 then { k with len := t.size, total := t.size / 64 } else { k with len := t.rowBytes, total := t.rows }

/-- A `ccopy` starts: an ABSENT source leaves the destination zero-filled and PRESENT (R276). -/
def State.ccopyStart (s : State) (c : Nat) (x : CtxId) (m : Cmd) : State :=
  if s.cmdReplays c m then s.startPlain c x 4 m
  else
    let gone := s.filledTile c m m.dst
    let src := TLoc.launch m.srcCore m.launch (m.aux.headD 0)
    if (s.tile src).st = .poisoned then
      let s1 := match m.dst.bind fun u => s.placeOf c m.launch m.unit u with
        | some l => s.vanish l
        | none => s
      s1.cmdFatal c m .poison
    else s.startFrom c x 4 m (some src) gone fun _ k => k

/-- The commands of eq2 and eq3: the descriptor is read, and then the command is given to its unit (R213). Data of the event: whether a peer has
matched a send (flag) and its capacity (n), and what a peer or a route refuses (m). -/
def State.beyondStart (s : State) (c : Nat) (x : CtxId) (q : Nat) (m : Cmd) : State :=
  let s0 : State :=
    if m.len ≠ 0 then s
    else if m.a1.toNat % 64 ≠ 0 then s.cmdFatal c m .misalign
    else (s.cmdRead c x q m m.a1 64 fun v => (true, s.modCmd c x q m.num fun k => { k with desc := BitVec.ofNat 512 v, len := 1, state := 1 })).2
  match (s0.ctx c x).cmd q m.num with
  | none => s0
  | some k =>
    if k.state ≠ 1 ∨ k.dead then s0
    else if k.len = 1 then
      match k.op.toNat with
      | 0x11 => s0.sluiceStart c x k
      | 0x12 => s0.skimStart c x k
      | 0x13 => s0.collStart c x k s.ev.m
      | 0x14 => s0.sendStart c x k s.ev.flag s.ev.n (s.ev.m = 3)
      | _ => s0.recvStart c x k
    else if k.op = 0x13#6 then s0.collWrite c x k.num (k.total + 1)
    else s0

/-- COMMAND_START (R193): core c, context x, queue q (4: the copy queue), command l: it starts, or goes on where its start was held. -/
def execCommandStart (s : State) : Out :=
  let c := s.ev.c
  let x := s.ev.x
  let q := s.ev.q
  let cx := s.ctx c x
  .next (match cx.cmd q s.ev.l.toNat with
    | none => s
    | some m =>
      let again := 2 ≤ q && q < 4 && m.state = 1 && !m.fence
      if !(m.state = 0 || again) || !(s.mayStart c q m) then s
      else if m.dead then s.modCmd c x q m.num fun k => { k with state := 3 }
      else if m.fence then s.modCmd c x q m.num fun k => { k with state := 1 }
      else if q = 4 then s.ccopyStart c x m
      else if 2 ≤ q then s.beyondStart c x q m
      else if m.slot = 0 then
        (if cx.mg.any (fun w => w.tok < m.tok) || cx.stores != [] || (s.cmdRanges cx.vf m).any (fun r => s.behindSaved cx r.1 r.2.1 r.2.2) then s
        else s.modCmd c x q m.num fun k => { k with state := 1, total := 2 })
      else if m.slot = 7 ∧ (m.op = 0x06#6 ∨ m.op = 0x07#6) then s.storeStart c x m
      else if m.slot = 4 then s.modCmd c x q m.num fun k => { k with state := 1, total := 1 }
      else s.startPlain c x q m)

/-! ### Completing (R194, R212, R213) -/

/-- A list of writes of a command, performed together once every one of them translates. -/
def State.cmdWrites (s : State) (c : Nat) (x : CtxId) (q : Nat) (m : Cmd) (k : State → Bool × State) : List (W64 × Nat × Nat) → List (List (Nat × Nat) × Nat) →
    Bool × State
  | [], done => k (done.foldl (fun t p => t.storePieces (s.cmdVf m).1 p.1 p.2) s)
  | (va, n, v) :: r, done => s.cmdAccess c x q m true va n fun ps => State.cmdWrites s c x q m k r (done ++ [(ps, v)])

/-- Whether a command has delivered its last element. -/
def Cmd.finished (m : Cmd) (q : Nat) : Bool := m.state = 3 || (m.dead && (m.state != 1 || (2 ≤ q && q < 4))) || (2 ≤ q && q < 4 && m.state = 1 && m.len = 2 && m.total ≤ m.next && m.ctl != 0xFF)

/-- The engine's number in a trace record (R386 Table 7). -/
def cmdEngine (q : Nat) (m : Cmd) : Nat := if q = 2 then (if m.op = 0x11#6 then 4 else 5) else if q = 3 then 6 else 3

/-- What a completed command leaves: its record (R386), its uses of weight objects (R299), the rest of its bytes (R196), its place, and, as the last
command of a unit that has retired, a done unit (R74, R194). -/
def State.completed (s : State) (c : Nat) (x : CtxId) (q num : Nat) : State :=
  match (s.ctx c x).cmd q num with
  | none => s
  | some m =>
  let s1 := s.modCtx c x fun cx =>
    let mine := cx.prog.filter fun p => p.1 = q
    let cx1 := cx.setCmds q ((cx.cmds q).filter fun k => k.num != m.num)
    { cx1 with prog := (cx.prog.filter fun p => p.1 != q) ++ (mine.drop (mine.length - 31)) ++ [(q, m.num, Cmd.progress { m with state := 3 })] }
  let vf := (s.cmdVf m).1
  let s3 := m.seen.foldl (fun t id => t.modObj vf id fun o => o.used m.launch) (s1.landBytes c m.pb m.pbInst m.pbLeft)
  if m.dead then s3
  else
    let s4 := if m.slot = 6 ∨ (m.slot = 7 ∧ !m.fence) then
        s3.traceFor c x m.launch 0x0D (cmdEngine q m) q m.org (m.op.toNat * 2 ^ 58 + m.bytes % 2 ^ 48)
      else s3
    let mine (k : Cmd) : Bool := k.launch = m.launch && k.unit = m.unit
    let more := (s4.ctx c x).eq.toList.flatten.any mine || (s4.ctx c x).ccq.any mine
    if (s4.unitCtx c m.launch m.unit).isSome || (s4.frameOf m.launch m.unit).isSome || more then s4
    else (s4.unitDone c x m.launch m.unit m.org).leaveCore c m.launch

/-- The end of an `xdisp`: its answer is an input of the unit, and the context goes on (R94, R310, R395). -/
def State.xdispComplete (s : State) (c : Nat) (m : Cmd) : State :=
  let v : W64 := BitVec.ofNat 64 (m.aux.getD 1 0)
  let target : Option W32 := if m.aux.getD 0 0 = 1 then some (BitVec.ofNat 32 (m.aux.getD 2 0)) else none
  let data : List W64 := v :: (target.map fun t => t.setWidth 64).toList
  match s.unitCtx c m.launch m.unit with
  | some y =>
    let s1 := if (s.ctx c y).rep.logging then s.logEntry c y 5 0 0 m.org data else s
    s1.xdispDone c y m.tok m.org v target
  | none =>
    match s.frameOf m.launch m.unit with
    | none => s
    | some f =>
      let p := Logger.frame m.launch m.unit
      let s1 := if f.ctx.rep.logging then s.logFor c p 5 0 0 m.org data else s
      match f.ctx.badTarget target with
      | some cause => s1.endPreempted ((s1.frameOf m.launch m.unit).getD f) cause 0 m.org f.ctx.vf
      | none => s1.modFrame m.launch m.unit fun cx => cx.xdispEnd m.tok v target

/-- COMMAND_COMPLETE (R194): core c, context x, queue q, command l, which every earlier command of its unit's queue has preceded; a command beyond the
core writes its result entries and its status word (R213). -/
def execCommandComplete (s : State) : Out :=
  let c := s.ev.c
  let x := s.ev.x
  let q := s.ev.q
  let cx := s.ctx c x
  .next (match cx.cmd q s.ev.l.toNat with
    | none => s
    | some m =>
      if s.before c q m != [] || (m.slot = 4 && !m.dead) then s
      else if m.fence then
        let live := s.allCmds
        (if m.state = 0 ∨ m.aux.any fun n => live.contains n then s else s.completed c x q m.num)
      else if !(m.finished q) then s
      else if m.dead ∨ q < 2 ∨ q = 4 then
        (if m.slot = 0 ∧ q = 0 ∧ !m.dead then
          (if (s.loggerOf c m.launch m.unit).any fun p => !(s.roomFor c p 2) then s else (s.xdispComplete c m).completed c x q m.num)
        else s.completed c x q m.num)
      else
        let ((i, w), s1) := if q = 2 then s.tierStatus m else s.fabricStatus m
        (s1.cmdWrites c x q m (fun t => (true, (t.recvAnswer m).completed c x q m.num)) (m.entries ++ [(m.a1 + BitVec.ofNat 64 (8 * i), 8, w.toNat)]) []).2)

/-- The command by which the engine fetches the record of its running `mload` (R241). -/
def Core.fetchOf (k : Core) (m : MOp) : Option (CtxId × Cmd) :=
  allCtx.findSome? fun x => ((vget (n := 2) (k.ctx[x]).eq 0#2).find? fun q => q.slot = 4 && q.launch = m.launch && q.unit = m.unit).map fun q => (x, q)

/-- MLOAD_INSTALL (R194, R241): core c; the fetch of the running `mload` is complete, and every earlier command of its queue: its record is checked and
installed, or INV is set. The fetch of a unit that has ended installs nothing (R343). -/
def execMloadInstall (s : State) : Out :=
  let c := s.ev.c
  let k := s.core c
  .next (match k.mrun with
    | none => s
    | some m =>
      if m.kind ≠ .mload then s
      else match k.fetchOf m with
        | none => (s.setCore c { k with mrun := none }).readmit c
        | some (x, q) =>
          if !(q.finished 0) || (s.before c 0 q) != [] then s
          else
            let s1 := s.setCore c { k with mrun := none }
            if q.dead then (s1.completed c x 0 q.num).readmit c
            else
              let head : W64 := fld q.buf 0 64
              let len := (fld head 8 11).toNat
              let words := (List.range len).map fun i => fld q.buf (64 * (i + 1)) 64
              let ok := fld head 19 45 = 0#45 && 1 ≤ len && len ≤ 1792 && q.causes = 0
              match (if ok then (s1.core c).installRt m.launch (fld head 0 8) words else none) with
              | some k2 => ((s1.setCore c k2).completed c x 0 q.num).readmit c
              | none => ((s1.opCause c m cINV).completed c x 0 q.num).readmit c)

end Sys2Proof.Machine
end

