-- ==== Sys2Proof/Machine/Events.lean ====
section
/-! DEFINITION. Events of a core: results and answers that land, waits that end, switches, the ends of units, traps and errors of the store
(R40, R41, R72, R75, R81, R82, R89, R92, R93, R161, R166, R170, R171, R322, R327, R343, R345, R395). -/

namespace Sys2Proof.Machine

/-- COMPUTE_RESULT_LAND (R41): core c, in a cycle in which it issues nothing; the other cycles land theirs at the end of BUNDLE_ISSUE. With flag the trace
engine has no cycle of HBM for records, which wait in their sources' queues (R388, 72). -/
def execComputeResultLand (s : State) : Out :=
  .next (let t := s.traceGate s.ev.flag
    if (t.core s.ev.c).cur.isNone then t.tick s.ev.c else t)

/-- Whether a result may land now: the context's cycles run, and no compute result in flight names the register (R40, R335). -/
def Ctx.landable (cx : Ctx) (r : PReg) : Bool := cx.flows && !(cx.landsOn r)

/-- GLOBAL_LOAD_RETURN (R40, R395 kind 1): core c, context x, word n: its data lands in its register. -/
def execGlobalLoadReturn (s : State) : Out :=
  let c := s.ev.c
  let x := s.ev.x
  let cx := s.ctx c x
  .next (match cx.pend.find? fun p => p.tok = s.ev.n && p.val.isSome && p.left = 0 with
    | none => s
    | some p =>
      if !(cx.landable p.reg) then s
      else
        let v := p.val.getD 0
        let drop (t : State) (w : VReg) : State := t.modCtx c x fun k => { (k.writeReg p.reg w) with pend := k.pend.filter fun q => q.tok != p.tok }
        if p.slot < 6 ∨ p.reg = .none ∨ !(cx.rep.logging || cx.rep.replaying) then drop s v
        else if cx.rep.replaying && !(s.replayReady c x 1 p.slot p.tok p.org) then s
        else
          let (aux, data) : Nat × List W64 := match p.reg with
            | .v r => (32 + r.toNat, vwords v)
            | .s r => (r.toNat, [v.setWidth 64])
            | .none => (0, [])
          if !(s.logFits c x data.length) then s
          else
            let (s1, l) := s.input c x 1 p.slot aux p.org data
            if (s1.ctx c x).dbg.stopped then s1 else drop s1 (ofWords l))

/-- IDLE_EXPIRE (R89): core c, context x, whose `idle` has run out. -/
def execIdleExpire (s : State) : Out :=
  let cx := s.ctx s.ev.c s.ev.x
  .next (if cx.st = .blocked ∧ cx.wait = .idle ∧ cx.idle = 0 then s.reconsider s.ev.c s.ev.x else s)

/-- FORCED_SWITCH (R327): core c: a READY context whose deadline is at or before the issuing one's has waited 3,072 cycles. The issuing context freezes
and is READY; the other issues after a bubble. What R339 puts before it goes first. -/
def execForcedSwitch (s : State) : Out :=
  let c := s.ev.c
  .next (match (s.core c).cur, s.chosen c none with
    | some x, some y =>
      let cx := s.ctx c x
      let p := cx.pendEv
      if p.kill || p.halt || p.preempt || p.bkpt.isSome || p.stepStop || (s.breakAt c x).isSome || (s.ctx c y).readyWait < 3072
        || s.deadlineOf cx.launch < s.deadlineOf (s.ctx c y).launch then s
      else (s.modCtx c x fun k => { k.freeze with st := .ready, readyWait := 0 }).modCore c fun k => { k with cur := none, nxt := some y }
    | _, _ => s)

/-- SEGMENT_COPY_COMPLETE (R81, R82): core c, context x: the half that receives segment n holds it, as much
as its 16 KiB take (R2, R64). -/
def execSegmentCopyComplete (s : State) : Out :=
  let c := s.ev.c
  let x := s.ev.x
  let cx := s.ctx c x
  let image := ((s.launch? cx.launch).map fun l => l.image.toNat).getD 0
  let codeAt := s.loadVa cx.vf (image + 8) 8
  let (o, n) := (cx.segs[s.ev.n]?).getD (0, 0)
  let code : List W32 := (List.range (Nat.min n.toNat 0x4000 / 4)).map fun i => BitVec.ofNat 32 (s.loadVa cx.vf (image + codeAt + o.toNat + 4 * i) 4)
  let f (h : Half) : Half := if h.seg = s.ev.n ∧ !h.complete then { h with complete := true, code := code } else h
  .next ((s.modCtx c x fun k => { k with half0 := k.half0.map f, half1 := k.half1.map f }))

/-- LAUNCH_ANSWER (R92): core c, context x, word n: the admission answer lands in sD and its condition entry; kept while the context or its code is
frozen. -/
def execLaunchAnswer (s : State) : Out :=
  let c := s.ev.c
  let x := s.ev.x
  let cx := s.ctx c x
  let hidden (a : Answer) : Bool := match cx.shadow with
    | some h => h.pend.any (fun p => p.tok = a.tok) || h.cq.any fun e => e.tok = a.cqTok
    | none => false
  .next (match cx.ans.find? fun a => a.tok = s.ev.n && !a.disp with
    | none => s
    | some a =>
      if !(cx.landable (if a.reg = 0 then .none else .s a.reg)) || hidden a then s
      else if cx.rep.replaying then
        (if !(s.replayReady c x 5 0 a.tok a.org) then s
        else
          let (s1, l) := s.input c x 5 0 0 a.org []
          if (s1.ctx c x).dbg.stopped then s1
          else s1.modCtx c x fun k => k.answer a (fld (l.headD 0) 0 4) (fld (l.headD 0) 32 32))
      else match a.res with
        | none => s
        | some (code, id) =>
          if !(s.logFits c x 1) then s
          else
            let v : W64 := (if code = 0 then id else 0) ++ (0#28 : BitVec 28) ++ code
            (s.input c x 5 0 0 a.org [v]).1.modCtx c x fun k => k.answer a code id)

/-- RETIRE_COMPLETE (R93): core c, context x has drained. Its tiles vanish, keeping their shapes (R158, R218), its banks and quota are released, and it is FREE,
its registers as they stand (R68); the unit is done once every command it issued is complete (R74, R194). -/
def execRetireComplete (s : State) : Out :=
  let c := s.ev.c
  let x := s.ev.x
  let cx := s.ctx c x
  let busy := cx.mt != [] || cx.mc != [] || cx.mg != [] || cx.lands != [] || (cx.pend.any fun p => 5 ≤ p.slot) || (s.core c).outstanding x
    || cx.saved != [] || cx.savedF != [] || cx.faultList != []
  let mine (m : Cmd) : Bool := m.launch = cx.launch && m.unit = cx.unit
  .next (if cx.st ≠ .retiring ∨ busy then s
    else
      let s1 := ((s.flushStores c x).performWindow cx.launch).endUnitTiles c x
      let s3 := s1.modCore c fun k => (k.releaseBanks x true).modCtx x fun k => { k.freed with tiles := k.tiles }
      let s4 := if cx.eq.toList.flatten.any mine || cx.ccq.any mine then s3
        else s3.unitDone c x cx.launch cx.unit cx.next
      s4.leaveCore c cx.launch)

/-- KILLED (R75): core c, context x of a cancelled unit, at its next boundary. -/
def execKilled (s : State) : Out :=
  .next (if (s.ctx s.ev.c s.ev.x).pendEv.kill then s.boundary s.ev.c s.ev.x else s)

/-- WATCHDOG (R345): core c, context x has been ISSUING for 1,048,576 cycles without an issue. -/
def execWatchdog (s : State) : Out :=
  let cx := s.ctx s.ev.c s.ev.x
  .next (if cx.st = .issuing ∧ 1048576 ≤ cx.wd then s.fatal s.ev.c s.ev.x .watchdog 15 cx.next else s)

/-- The allocation of a context that has waited 4,096 cycles: slot, granules and bundle; place 3 is the unpark that the next bundle's latch reads
started (R166, R169, R346). -/
def State.fullWait (s : State) (c : Nat) (x : CtxId) (i : Nat) : Option (Nat × Nat × Org) :=
  let cx := s.ctx c x
  if (cx.allocWait.toList[i]?).getD 0 < 4096 then none
  else if h : i < 3 then
    match cx.stream ⟨i, h⟩ with
    | w :: _ => if cx.sw[i] = .tile then w.note.map fun g => (5 + i, g, w.org) else none
    | [] => none
  else if cx.st ≠ .blocked ∨ cx.wait ≠ .tile then none
  else (s.latchUnpark c x).map fun g => (5, g, cx.next)

/-- STORE_FULL (R166): core c, context x, place q (streams MT, MC, MG, or 3). -/
def execStoreFull (s : State) : Out :=
  let c := s.ev.c
  let x := s.ev.x
  let cx := s.ctx c x
  .next (if cx.tif || !cx.flows then s
    else match s.fullWait c x s.ev.q with
      | none => s
      | some w => (s.modCtx c x fun k => { k with pendEv := { k.pendEv with full := some w } }).boundary c x)

/-- OVERRUN (R322, R337): core c, context x of a TRAP-policy launch that has overrun, at its next boundary. -/
def execOverrun (s : State) : Out :=
  .next (if (s.ctx s.ev.c s.ev.x).pendEv.overrun then s.boundary s.ev.c s.ev.x else s)

/-! ### Errors and retention of the store (R170, R171) -/

/-- The function whose unit or launch owns a tile. -/
def State.tileVf (s : State) : TLoc → Nat
  | .unit c x _ => (s.ctx c x).vf
  | .launch _ l _ | .frame _ l _ _ => ((s.launch? l).map fun k => k.vf).getD 0

/-- A live tile in the store has an uncorrectable error. -/
def State.tileError (s : State) (l : TLoc) : State :=
  let t := s.tile l
  if !t.st.holds ∨ t.st = .poisoned then s
  else
    let s1 := if t.st = .parking ∨ t.st = .unparking then s.unparkSpace l t else s
    ((s1.setTile l { t with st := .poisoned }).logTstate s l none).countError (s.tileVf l)

/-- STORE_ERROR_UNCORRECTABLE (R171): core c, tile n; an error in a free granule goes with the scrub before its next use, and is counted. -/
def execStoreErrorUncorrectable (s : State) : Out :=
  .next (match s.locOf s.ev.c s.ev.n with
    | some l => s.tileError l
    | none => s.modCore s.ev.c fun k => { k with corrected := k.corrected + 1 })

/-- SOFT_ERROR_CORRECTED (R171): core c. -/
def execSoftErrorCorrected (s : State) : Out := .next (s.modCore s.ev.c fun k => { k with corrected := k.corrected + 1 })

/-- A bank's retention state changes from one state to another, once `n` cycles have passed since a point (R170). -/
def Core.retenStep (k : Core) (q n since : Nat) (a b : Reten) : Core :=
  if k.cyc < since + n then k
  else
    { k with
      reten := vmapI (fun i r => if i = q ∧ r = a then b else r) k.reten
      retenAt := vmapI (fun i t => if i = q ∧ k.reten.toList[q]? = some a then k.cyc else t) k.retenAt }

/-- RETENTION_ENTER (R170): core c, bank q, which has served no access for 16,384 cycles. -/
def execRetentionEnter (s : State) : Out :=
  .next (s.modCore s.ev.c fun k => k.retenStep s.ev.q 16384 (k.bankAt.toList[s.ev.q]?.getD 0) .active .entering)

/-- RETENTION_ENTRY_DONE (R170): core c, bank q, 2,048 cycles after the entry began. -/
def execRetentionEntryDone (s : State) : Out := 
  .next (s.modCore s.ev.c fun k => k.retenStep s.ev.q 2048 (k.retenAt.toList[s.ev.q]?.getD 0) .entering .retained)

/-- RETENTION_EXIT_DONE (R161, R170): core c, bank q, 2,048 cycles after the exit began; with flag, tile n of the bank has proved uncorrectable. -/
def execRetentionExitDone (s : State) : Out :=
  let s1 := s.modCore s.ev.c fun k => k.retenStep s.ev.q 2048 (k.retenAt.toList[s.ev.q]?.getD 0) .leaving .active
  .next (match s.ev.flag, s.locOf s.ev.c s.ev.n with
    | true, some l => s1.tileError l
    | _, _ => s1)

end Sys2Proof.Machine
end

