-- ==== Sys2Proof/Machine/Admission.lean ====
section
/-! DEFINITION. Admission, launches and dispatch: the packet's test, signals, completion, overrun and lateness, placement, pre-emption and resume
(R64, R68, R69, R74, R92, R231, R236, R264, R291, R315-R330, R332, R340, R341, R377, R408). -/

namespace Sys2Proof.Machine

/-! ### The image (R64, R408) -/

/-- The 64-bit word at offset o of an image. -/
def State.imgWord (s : State) (vf image o : Nat) : W64 := BitVec.ofNat 64 (s.loadVa vf (image + o) 8)

/-- What a unit descriptor gives (R408 Table 7). -/
structure UnitDesc where
  quota : W32
  mask : BitVec 8
  entry : W32
  rings : List W64
  latches : List W64
  shapes : List W64
  fts : List W64
  tiles : List W64
  rest : List W64
  deriving DecidableEq, Repr

/-- The descriptor of an image; `rest` gathers its reserved bytes. -/
def State.unitDesc (s : State) (vf image : Nat) : UnitDesc :=
  let at_ := (s.imgWord vf image 0x18).toNat
  let w (o : Nat) : W64 := s.imgWord vf image (at_ + o)
  let tab (o n : Nat) : List W64 := (List.range n).map fun i => w (o + 8 * i)
  { quota := fld (w 0) 0 32, mask := fld (w 0) 32 8, entry := fld (w 8) 0 32
    rings := tab 0x10 16, latches := tab 0x90 4, shapes := tab 0xB0 4, fts := tab 0xD0 16, tiles := tab 0x200 256
    rest := [w 0 &&& 0xFFFFFF0000000000#64, w 8 &&& 0xFFFFFFFF00000000#64] ++ tab 0x150 22 }

/-- A ring's entry: its range, where it is bound (R408, R411). -/
def ringOf (w : W64) : Option Ring := if w.getLsbD 63 then some ⟨(fld w 0 8).toNat, (fld w 8 4).toNat + 1, 0, 0⟩ else none

/-- The segment table: bundle address and length of each segment (R63, R64). -/
def State.segTable (s : State) (vf image : Nat) : List (W32 × W32) :=
  let n := (fld (s.imgWord vf image 0) 48 16).toNat
  let code : W32 := (s.imgWord vf image 8).setWidth 32
  let at_ := (s.imgWord vf image 0x10).toNat
  (List.range n).map fun i => let w := s.imgWord vf image (at_ + 8 * i); (fld w 0 32 - code, fld w 32 32)

/-- The records of a routine block from an address: header word and routine words (R408 Table 8). -/
def State.routineRecords (s : State) (vf : Nat) : Nat → Nat → List (W64 × List W64)
  | _, 0 => []
  | a, n + 1 =>
    let h := BitVec.ofNat 64 (s.loadVa vf a 8)
    let len := (fld h 8 11).toNat
    (h, (List.range len).map fun i => BitVec.ofNat 64 (s.loadVa vf (a + 8 * (i + 1)) 8))
      :: State.routineRecords s vf (a + ceilDiv (8 * (len + 1)) 64 * 64) n

/-- The records of an image; none without a routine block. -/
def State.imageRoutines (s : State) (vf image : Nat) : List (W64 × List W64) :=
  let o := (s.imgWord vf image 0x20).toNat
  if o = 0 then [] else
    let n := (s.imgWord vf image o).toNat
    s.routineRecords vf (image + o + 0x40) (if 192 < n then 0 else n)

/-- The conditions of R408 on a descriptor, with the length of segment 0. -/
def UnitDesc.ok (d : UnitDesc) (first : Nat × Nat) : Bool :=
  let bound (h : Nat) : Bool := (d.rings.getD h 0).getLsbD 63
  d.quota.toNat ≤ 1024 && d.rest.all (fun w => w = 0)
  && d.entry.toNat % 4 = 0 && first.1 ≤ d.entry.toNat && d.entry.toNat < first.1 + first.2
  && d.rings.all (fun w => fld w 12 51 = 0#51 && (!(w.getLsbD 63) || (fld w 0 8).toNat + (fld w 8 4).toNat + 1 ≤ 256))
  && d.latches.all (fun w => fld w 4 59 = 0#59 && (!(w.getLsbD 63) || bound (fld w 0 4).toNat))
  && d.shapes.all (fun w => fld w 32 32 = 0#32 && shapeOk (fld w 0 32))
  && d.fts.all (fun w => w &&& ~~~0x1FFFF7DF#64 = 0)
  && d.tiles.all (fun w => w &&& ~~~0x3FFFFF00000#64 = 0#64 && descOk w)

/-- A record that `mload` would install (R233, R241). -/
def recordOk (r : W64 × List W64) : Bool :=
  fld r.1 19 45 = 0#45 && 64 ≤ (fld r.1 0 8).toNat && r.2 != [] && r.2.length ≤ 1792 && routineOk r.2

/-- The conditions of R408 on the routine block at an image offset. -/
def State.blockOk (s : State) (vf image o : Nat) : Bool :=
  o = 0 ||
    let n := (s.imgWord vf image o).toNat
    let rs := s.imageRoutines vf image
    let idx := rs.map fun r => (fld r.1 0 8).toNat
    o % 64 = 0 && 1 ≤ n && n ≤ 192 && ((List.range 7).all fun i => s.imgWord vf image (o + 8 + 8 * i) = 0)
    && rs.all recordOk && idx.eraseDups.length = idx.length && (rs.map fun r => r.2.length).sum ≤ 1792

/-- An image that admission accepts: its header (R64), descriptor and routine block (R408). DESIGN CHOICE: a segment table with segments over 16 KiB, gaps or
overlaps, which R63 makes an error of `aptas` alone, is admitted; a window half then holds the first 16 KiB of a longer segment (log entry 15). -/
def State.imageOk (s : State) (vf image : Nat) : Bool :=
  let w (o : Nat) : W64 := s.imgWord vf image o
  let n := (fld (w 0) 48 16).toNat
  fld (w 0) 0 32 = 0x4E545041#32 && fld (w 0) 32 16 = 1#16 && 1 ≤ n && n ≤ 64
  && (w 8).toNat % 64 = 0 && (w 0x10).toNat % 64 = 0 && (w 0x18).toNat % 64 = 0 && (fld (w 0x28) 0 32).toNat % 4096 = 0
  && w 0x30 = 0 && w 0x38 = 0
  && (let seg := (s.segTable vf image).headD (0, 0); (s.unitDesc vf image).ok (seg.1.toNat, seg.2.toNat))
  && s.blockOk vf image (w 0x20).toNat

/-! ### The packet (R315) -/

def Packet (p : BitVec 512) (i : Nat) : W64 := elemAt p 64 i

/-- The launch that a packet asks for, before it has an id; its deadline in device time (R314, R315). -/
def packetLaunch (p : BitVec 512) (vf slot : Nat) (off : W64) : Launch :=
  let w0 := Packet p 0
  let w6 := Packet p 6
  { id := 0, vf := vf, corr := fld w0 32 32, coloc := (fld w0 12 3).toNat, pol := fld w0 10 2, priv := w0.getLsbD 9, bg := w0.getLsbD 8
    deadline := Packet p 1 - off, budget := fld (Packet p 2) 0 32, units := fld (Packet p 2) 32 32, image := Packet p 3, args := Packet p 4
    cmask := fld (Packet p 5) 0 16, graph := fld (Packet p 5) 16 32
    waits := [fld w6 0 16, fld w6 16 16, fld w6 32 16, fld w6 48 16].filter fun i => i != 0
    done := fld (Packet p 7) 0 16, source := none, slot := slot, stage := .admitted, spent := 0, residue := 0, late := false, ovr := false
    crossed := false, demoted := false, placed := 0, doneUnits := 0, cause := 0, parkUsed := 0, parkCap := 0, seq := 0, gone := []
    inst := 0, counted := false, doneAt := none, skimNs := 0 }

/-! ### The pending-launch stores (R317, R325) -/

/-- A launch holds a pending-launch entry in each cluster of its mask while it has a unit left to place (R325). -/
def Launch.pending (l : Launch) : Bool := l.stage = .admitted && 0 < l.left

def Launch.clusters (l : Launch) : List Nat := (List.range 16).filter fun i => l.cmask.getLsbD i

/-- Entries a function holds. -/
def State.entriesOf (s : State) (vf : Nat) : Nat :=
  ((s.launches.filter fun l => l.vf = vf && l.pending).map fun l => l.clusters.length).sum

/-- Entries in a cluster's store, of 4,096. -/
def State.entriesIn (s : State) (i : Nat) : Nat := (s.launches.filter fun l => l.pending && l.cmask.getLsbD i).length

/-! ### The demand test (R318) -/

/-- A live launch: admitted, with a finite deadline, and neither complete nor cancelled (R318, R320). -/
def Launch.live (l : Launch) : Bool := l.stage = .admitted && !l.bg && !l.demoted

/-- Its remaining budget in cycles. -/
def Launch.remaining (l : Launch) : Nat := 1000 * l.budget.toNat - l.spent.toNat

/-- Whether one deadline of the test set passes: demand up to D against n cores' capacity less the floor F. -/
def demandPasses (ls : List Launch) (extra n floor now d : Nat) : Bool :=
  decide (2000 * ((extra + ((ls.filter fun l => l.deadline.toNat ≤ d).map Launch.remaining).sum : Nat) : Int)
    ≤ 9 * (n : Int) * (1000 - (floor : Int)) * ((d : Int) - (now : Int)))

/-- THE DEMAND TEST of R318 for a function with n cores: a new deadline and budget, or none of its own (R330). -/
def State.demandTest (s : State) (vf n : Nat) (new : Option (Nat × Nat)) : Bool :=
  let ls := s.launches.filter fun l => l.vf = vf && l.live
  let (dn, bn) := new.getD (0, 0)
  let set := (new.toList.map fun p => p.1) ++ (ls.map fun l => l.deadline.toNat).filter fun d => dn ≤ d
  set.all fun d => demandPasses ls (1000 * bn) n (s.vf vf).cfg.floor s.now.toNat d

/-! ### The test (R317) -/

/-- Check 1: what the packet's words show (R315). -/
def packetFormatOk (p : BitVec 512) (l : Launch) : Bool :=
  fld (Packet p 0) 0 8 = 1#8 && fld (Packet p 0) 15 17 = 0#17 && fld (Packet p 5) 48 16 = 0#16 && fld (Packet p 7) 16 48 = 0#48
  && !(l.pol = 3 && !l.bg) && 1 ≤ l.coloc && l.coloc ≤ 4 && l.units != 0 && l.cmask != 0
  && l.image.toNat % 4096 = 0 && l.args.toNat % 64 = 0 && !(!l.bg && Packet p 1 = BitVec.allOnes 64)

/-- An address lies in a function's address space. -/
def State.inFunction (s : State) (vf : Nat) (a : W64) : Bool := (s.xlateDirect vf a.toNat 64).isSome

/-- The graph, phase and job that a packet would join, where they stand already and are not complete; none for those it opens (R74, R315). -/
structure Joins where
  graph : Option Inst
  phase : Option Inst
  job : Option Inst
  deriving DecidableEq, Repr

def State.joins (s : State) (a : Arrival) : Joins :=
  let open_ (level : Nat) (id : W32) : Option Inst := if id = 0 then none else (s.inst? a.vf level id).filter fun i => !(s.instDone i)
  match open_ 2 a.graph with
  | some g => let p := s.instAt g.up; ⟨some g, p, p.bind fun i => s.instAt i.up⟩
  | none => ⟨none, open_ 3 a.phase, open_ 4 a.job⟩

/-- Check 3: an instance that the launch would join is cancelled. -/
def State.joinsCancelled (s : State) (a : Arrival) : Bool :=
  let j := s.joins a
  (j.graph.toList ++ j.phase.toList ++ j.job.toList).any fun i => i.cancelled

/-- THE TEST: the code of the first check that fails, in the order of R317 Table 2; 0 ADMITTED. -/
def State.admissionCode (s : State) (a : Arrival) (l : Launch) : Nat :=
  let v := s.vf a.vf
  let there := s.inFunction a.vf l.image
  let d := s.unitDesc a.vf l.image.toNat
  if !(packetFormatOk a.packet l) || (there && !(s.imageOk a.vf l.image.toNat)) then 6
  else if a.refused || (l.priv && !a.priv) || l.clusters.any (fun i => !(v.cfg.cores.any fun c => clusterOf c = i)) || !there || !(s.inFunction a.vf l.args)
    || (l.done :: l.waits).any (fun i => i != 0 && decide (v.cfg.sigCount ≤ i.toNat)) then 8
  else if s.joinsCancelled a then 9
  else if !l.bg && Packet a.packet 1 ≤ s.vfNow a.vf then 2
  else if !l.bg && (l.budget = 0 || v.cfg.budgetLimit < l.budget) then 3
  else if v.cfg.plsShare < s.entriesOf a.vf + l.clusters.length || 1024 < l.coloc * d.quota.toNat || (2 ≤ l.coloc && d.mask != 0) then 5
  else if l.waits.any (fun i => v.broken.contains i || i = l.done) || (l.done != 0 && v.setters.any fun p => p.1 = l.done) then 7
  else if l.clusters.any fun i => 4096 ≤ s.entriesIn i then 4
  else if !l.bg && !(s.demandTest a.vf v.cfg.cores.length (some (l.deadline.toNat, l.budget.toNat))) then 1
  else 0

/-! ### Signals (R316) -/

/-- The address of a signal's word. -/
def State.sigAddr (s : State) (vf : Nat) (i : BitVec 16) : Nat := (s.vf vf).cfg.sigBase.toNat + 8 * i.toNat

/-- A wait is satisfied while its signal's word is not zero. -/
def State.sigSet (s : State) (vf : Nat) (i : BitVec 16) : Bool := s.loadVa vf (s.sigAddr vf i) 8 ≠ 0

/-- A launch whose waits are all satisfied at once waits no more, and the queue slot moves past its entry; while one is not, it waits on all of them
(R316, R324, R325). -/
def State.examine (s : State) (l : Launch) : State :=
  if l.waits.all fun i => s.sigSet l.vf i then (s.modLaunch l.id fun k => { k with waits := [] }).passIfHead l else s

/-- SIGNAL_RECHECK (R316): function vf, signal n, whose line has been written: the launches that wait on a signal of the line are examined again. -/
def execSignalRecheck (s : State) : Out :=
  let vf := s.ev.vf
  let line (i : Nat) : Nat := ((s.vf vf).cfg.sigBase.toNat + 8 * i) / 64
  .next ((s.launches.filter fun l => l.vf = vf && l.stage = .admitted && l.waits.any fun i => line i.toNat = line s.ev.n).foldl (fun t l => t.examine l) s)

/-! ### The answer (R92, R317, R332, R360, R365) -/

/-- The completion record of a queue entry is written, and its slot moves past a rejected entry (R324, R360). -/
def State.rejectEntry (s : State) (vf q : Nat) (n : W32) (corr : W32) (code : Nat) : State :=
  (s.postRecord vf q n (completionRecord corr 0 0 false false 0 code 0 (s.vfNow vf))).passHead vf q

/-- The answer goes to who awaits it: a queue entry that is rejected gets its record now, one admitted when the launch ends; a `launch` word its
answer; a sender its flit. -/
def State.answerPacket (s : State) (a : Arrival) (corr : W32) (code : Nat) (id : W32) : State :=
  let put (l u : W32) (tok : Nat) (cx : Ctx) : Ctx :=
    if cx.launch = l ∧ cx.unit = u then
      { cx with ans := cx.ans.map fun r => if r.tok = tok ∧ !r.disp then { r with res := some (BitVec.ofNat 4 code, id) } else r }
    else cx
  let s1 : State := match a.fromQueue with
    | some (q, n) => (if code = 0 then s else s.rejectEntry a.vf q n corr code).finishEntry a.vf q
    | none => s
  let s2 : State := match a.fromCtx with
    | some (l, u, tok) =>
      { s1 with
        cores := s1.cores.map fun p => (p.1, { p.2 with ctx := vmapI (fun _ cx => if cx.st = .free then cx else put l u tok cx) p.2.ctx })
        frames := s1.frames.map fun f => { f with ctx := put l u tok f.ctx } }
    | none => s1
  match a.fromDev with
  | some (dev, vf) => { s2 with flits := s2.flits ++ [Flit.answer dev vf id (BitVec.ofNat 4 code)] }
  | none => s2

/-- The ADMIT record, with the bundle of a `launch` word (R386, R387). -/
def State.traceAdmit (s : State) (a : Arrival) (corr : W32) (code : Nat) (id : W32) : State :=
  let payload := id.toNat * 2 ^ 32 + code
  let far : TraceRec := ⟨0x02, 7, 0x7FF, 0, 0, 0, false, 0, corr.toNat, payload⟩
  match a.fromCtx with
  | none => s.trace a.vf far
  | some (l, u, tok) =>
    match (s.units.find? fun p => (s.ctx p.1 p.2).launch = l && (s.ctx p.1 p.2).unit = u) with
    | none => s.trace a.vf far
    | some (c, x) =>
      let o := ((((s.ctx c x).ans.find? fun r => r.tok = tok).map fun r => r.org)).getD Org.zero
      s.trace a.vf ⟨0x02, 7, c, x.val, 0, o.ba.toNat, o.tif, o.sc.toNat, corr.toNat, payload⟩

/-- An instance opened below a parent: with the id that names it, or a fresh one (R74, R358). A phase and a job that the device made for one packet take no
further children, nor do those that their queue has closed since the packet was fetched. -/
def State.openInst (s : State) (vf level : Nat) (id : W32) (up : Nat) : Inst × State :=
  let (n, s1) := if id = 0 then s.newId else (id, s)
  let (u, s2) := s1.newUid
  let i : Inst := ⟨level, n, up, vf, (decide (2 < level) && id = 0) || s2.closed.contains (level, vf, n), false, 0, u + 1, false⟩
  (i, { s2 with insts := s2.insts ++ [i] })

/-- The graph a launch joins, opened with its phase and job where they are new (R74, R315, R358). DESIGN CHOICE: a non-zero GRAPH that names no open graph of
the function opens one of that id (log entry 10). -/
def State.openGraph (s : State) (a : Arrival) (j : Joins) : Inst × State :=
  let get (t : State) (i : Option Inst) (level : Nat) (id : W32) (up : Nat) : Inst × State := match i with
    | some k => (k, t)
    | none => t.openInst a.vf level id up
  match j.graph with
  | some g => (g, s)
  | none =>
    let (job, s1) := get s j.job 4 a.job 0
    let (phase, s2) := get s1 j.phase 3 a.phase job.serial
    s2.openInst a.vf 2 a.graph phase.serial

/-- An admitted launch: its id and graph, its entry, the declared setter of its signal, its park region (R74, R168, R316, R325). -/
def State.takeIn (s : State) (a : Arrival) (l : Launch) (j : Joins) : W32 × State :=
  let (graph, s1) := s.openGraph a j
  let (id, s2) := s1.newId
  let cap := (s.vf a.vf).cfg.parkKiB * 1024 * l.units.toNat
  let k : Launch :=
    { l with id := id, graph := graph.id, inst := graph.serial, counted := true, source := a.fromQueue, parkCap := cap, seq := id.toNat }
  let s3 := ({ s2 with launches := s2.launches ++ [k] } : State).countUp 3 graph.serial
  let s4 := if l.done = 0 then s3
    else s3.modVf a.vf fun v => { v with setters := v.setters ++ [(l.done, id)], broken := v.broken.filter fun i => i != l.done }
  let s5 := match a.fromQueue with
    | some (q, _) => s4.modQueue a.vf q fun k => { k with headId := id }
    | none => s4
  (id, s5.examine k)

/-- The packet that a function's controller tests next: the first that came, of those of its cycle the one from the lowest slot (R319). -/
def State.nextArrival (s : State) (vf : Nat) : Option Arrival :=
  let l := s.adm.filter fun a => a.vf = vf
  l.head?.bind fun a => (l.filter fun b => b.cycle = a.cycle).foldl (fun (best : Option Arrival) b => match best with
    | none => some b
    | some k => if b.slot < k.slot then some b else best) none

/-- The phases and jobs closed before they were opened that a packet still to be tested names (R358). -/
def State.stillClosed (s : State) : List (Nat × Nat × W32) :=
  s.closed.filter fun p => s.adm.any fun a => a.vf = p.2.1 && (if p.1 = 3 then a.phase else a.job) = p.2.2

/-- ADMISSION_TEST (R317-R319): the controller of function vf tests the packet whose turn it is, in a later cycle than it came in: all of that cycle are there.
A device that has stopped admitting work tests none (R405). -/
def execAdmissionTest (s : State) : Out :=
  .next (match s.nextArrival s.ev.vf with
    | none => s
    | some a =>
      if !s.boot.ready || s.clk ≤ a.cycle then s
      else
        let l := packetLaunch a.packet a.vf a.slot (s.vf a.vf).cfg.timeOff
        let code := s.admissionCode a l
        let s1 : State := { s with adm := s.adm.erase a }
        let (id, s2) := if code = 0 then s1.takeIn a l (s.joins a) else (0, s1)
        (({ s2 with closed := s2.stillClosed } : State).traceAdmit a l.corr code id).answerPacket a l.corr code id)

/-! ### Overrun and lateness (R322, R323) -/

/-- Every running unit of a launch, resident or framed, changed. -/
def State.modUnits (s : State) (id : W32) (f : Ctx → Ctx) : State :=
  { s with
    cores := s.cores.map fun p => (p.1, { p.2 with ctx := vmapI (fun _ cx => if cx.launch = id ∧ cx.st ≠ .free then f cx else cx) p.2.ctx })
    frames := s.frames.map fun g => if g.ctx.launch = id then { g with ctx := f g.ctx } else g }

/-- The TIMEEV record of a launch (R386). -/
def State.traceTime (s : State) (l : Launch) (sub : Nat) : State :=
  s.trace l.vf ⟨0x0E, 7, 0x7FF, 0, sub, 0, false, 0, l.corr.toNat, l.spent.toNat⟩

/-- OVERRUN_CROSSING (R322): launch l: SPENT has exceeded its budget. Its policy is applied once; once its last unit is done only OVR is set. -/
def execOverrunCrossing (s : State) : Out :=
  .next (match s.launch? s.ev.l with
    | none => s
    | some l =>
      if l.crossed || l.bg || l.spent.toNat ≤ 1000 * l.budget.toNat || l.stage = .cancelled || (l.stage = .complete && l.source.isNone) then s
      else
        let s1 := (s.modLaunch l.id fun k => { k with crossed := true, ovr := true }).traceTime l 0
        if l.allDone || l.stage = .complete then s1
        else match l.pol.toNat with
          | 0 => s1.modLaunch l.id fun k => { k with demoted := true }
          | 1 => s1.modUnits l.id fun cx => { cx with pendEv := { cx.pendEv with overrun := true } }
          | _ => s1.cancelLaunches [l.id] 2)

/-- The cause LATE in a unit's first sticky record (R323). -/
def Ctx.setLate (cx : Ctx) : Ctx := cx.sticky1 0 cLATE cx.next

/-- A launch whose deadline has passed before it is complete is late: once, in the function's counter and in its running units; one whose last unit was done
by then is not (R323). -/
def State.noteLate (s : State) (l : Launch) : State :=
  if l.late || !l.live || s.now ≤ l.deadline || (l.allDone && (l.doneAt.map fun t => decide (t ≤ l.deadline)).getD false) then s
  else
    let s1 := (s.modLaunch l.id fun k => { k with late := true }).modVf l.vf fun v => { v with lateCtr := v.lateCtr + 1 }
    (s1.modUnits l.id Ctx.setLate).traceTime l 1

/-- LATE (R323): launch l: device time has passed its deadline before it is complete. -/
def execLate (s : State) : Out :=
  .next (match s.launch? s.ev.l with
    | none => s
    | some l => s.noteLate l)

/-- The launch overran: its crossing was seen, or SPENT exceeds its budget (R322). -/
def Launch.overran (l : Launch) : Bool := l.ovr || (!l.bg && decide (1000 * l.budget.toNat < l.spent.toNat))

/-! ### The end of a launch (R74, R75, R157, R291, R332) -/

/-- The record of a launch from a queue: code 9 where it was cancelled in the pending-launch store (R75, R332). -/
def State.recordOf (s : State) (l : Launch) : State :=
  match l.source with
  | none => s
  | some (q, n) =>
    let code := if l.stage = .cancelled ∧ 0 < l.left then 9 else 0
    (s.postRecord l.vf q n (completionRecord l.corr l.id l.residue l.overran l.late l.cause.toNat code l.spent (s.vfNow l.vf))).modLaunch l.id
      fun k => { k with source := none }

/-- LAUNCH_COMPLETE (R291, R360): launch l, whose units are all done, completes: its tiles vanish, its pins drop, its signal is released, and its record
is written; of a cancelled launch whose units have left, the record. Before that its writes are performed for every party. -/
def execLaunchComplete (s : State) : Out :=
  let s := if (s.launch? s.ev.l).any fun l => l.allDone then (s.performWindow s.ev.l).settleBy fun e => e.launch = s.ev.l else s
  .next (match s.launch? s.ev.l with
    | none => s
    | some l =>
      match l.stage with
      | .complete => s
      | .cancelled => if l.placed ≤ l.doneUnits then ((s.endLaunchTiles l.id).recordOf ((s.launch? l.id).getD l)).leaveGraph l.id else s
      | .admitted =>
        if !l.allDone then s
        else
          let s1 := (((s.noteLate l).modLaunch l.id fun k => { k with stage := .complete }).endLaunchTiles l.id).unpinAll l.id
          let s2 := s1.modVf l.vf fun v => { v with setters := v.setters.filter fun p => p.2 != l.id }
          let a := s.sigAddr l.vf l.done
          let s3 := if l.done = 0 then s2 else s2.storeVa l.vf a 8 ((s2.loadVa l.vf a 8 + 1) % 2 ^ 64)
          (s3.recordOf ((s3.launch? l.id).getD l)).leaveGraph l.id)

/-! ### Where units fit (R69, R328) -/

/-- A core has room for n units of quota q and bank mask m, if the contexts of a set left: FREE contexts, banks and guaranteed quotas (R69). -/
def State.roomOn (s : State) (c n q : Nat) (m : BitVec 8) (gone : List CtxId) : Bool :=
  let k := s.core c
  let out (x : CtxId) : Bool := k.ctx[x].st = .free || gone.contains x
  n ≤ (allCtx.filter out).length
  && ((List.range 8).all fun b => !(m.getLsbD b) || (match (k.grant.toList[b]?).join with
    | some x => gone.contains x
    | none => n ≤ 1))
  && ((allCtx.filter fun x => !(out x)).map fun x => k.ctx[x].quota.toNat).sum + n * q ≤ 1024

/-- The core with a launch's routines installed, as `mload` would, where its store has the places and words (R231, R408). -/
def Core.installAll (k : Core) (launch : W32) : List (W64 × List W64) → Option Core
  | [] => some k
  | r :: rest => (k.installRt launch (fld r.1 0 8) r.2).bind fun k1 => Core.installAll k1 launch rest

/-- A group or frame that waits for a core: launch, first unit, number of units, the frame, and what it needs (R325, R326). -/
structure Cand where
  launch : Launch
  unit : Nat
  size : Nat
  frame : Option Frame
  quota : Nat
  mask : BitVec 8
  deriving DecidableEq, Repr

/-- The group of unit numbers that is handed out next, and those of them that were not cancelled (R69, R325). -/
def Launch.group (l : Launch) : List Nat := (List.range (Nat.min l.coloc (l.units.toNat - l.placed))).map fun i => l.placed + i

def Launch.groupLive (l : Launch) : List Nat := l.group.filter fun u => !(l.gone.contains u)

/-- The mask of the banks in a frame. -/
def Frame.mask (f : Frame) : BitVec 8 := BitVec.ofNat 8 ((f.banks.map fun b => 2 ^ b.1).sum)

/-- What waits in a cluster: the next group of each ready launch, and the frames that may resume there (R325, R328). -/
def State.candidates (s : State) (cl : Nat) : List Cand :=
  let groups := (s.launches.filter fun l => l.pending && l.waits = [] && l.cmask.getLsbD cl).map fun l =>
    let d := s.unitDesc l.vf l.image.toNat
    ({ launch := l, unit := l.placed, size := l.groupLive.length, frame := none, quota := d.quota.toNat, mask := d.mask } : Cand)
  let frames := s.frames.filterMap fun f =>
    (s.launch? f.ctx.launch).bind fun l =>
      if (if s.frameBound f then clusterOf f.core = cl else (s.vf l.vf).cfg.cores.any fun c => clusterOf c = cl) then
        some ({ launch := l, unit := f.ctx.unit.toNat, size := 1, frame := some f, quota := f.ctx.quota.toNat, mask := f.mask } : Cand)
      else none
  groups ++ frames

/-- The cores of a cluster that a candidate may go to, rising: its partition's, or the one its frame is bound to (R328-R330, R340). -/
def State.coresFor (s : State) (cl : Nat) (a : Cand) : List Nat :=
  match a.frame with
  | some f => if s.frameBound f then [f.core] else ((s.vf a.launch.vf).cfg.cores.filter fun c => clusterOf c = cl).mergeSort
  | none => ((s.vf a.launch.vf).cfg.cores.filter fun c => clusterOf c = cl).mergeSort

/-- A core takes a candidate, if some of its units left. -/
def State.takes (s : State) (a : Cand) (c : Nat) (gone : List CtxId) : Bool :=
  s.roomOn c a.size a.quota a.mask gone
  && (s.launchOn c a.launch.id || ((s.core c).installAll a.launch.id (s.imageRoutines a.launch.vf a.launch.image.toNat)).isSome)

/-! ### Victims of a pre-emption (R328) -/

/-- The sets of contexts of a core. -/
def ctxSets : List (List CtxId) := (List.range 16).map fun m => allCtx.filter fun x => m.testBit x.val

/-- A set of victims by deadline and context number, the latest first. -/
def State.victimKey (s : State) (c : Nat) (vs : List CtxId) : List Nat :=
  ((vs.map fun x => s.deadlineOf (s.ctx c x).launch * 4 + x.val).mergeSort fun a b => b ≤ a)

/-- The victims that make room on a core for a candidate: the fewest, of the latest deadlines, all strictly later than the candidate's and none
RETIRING; the first to go first (R328). -/
def State.victimsOn (s : State) (a : Cand) (c : Nat) : Option (List Nat) :=
  let may (x : CtxId) : Bool :=
    let cx := s.ctx c x
    cx.st != .free && cx.st != .retiring && decide (a.launch.dl < s.deadlineOf cx.launch)
  if allCtx.any fun x => (s.ctx c x).pendEv.preempt then none
  else
    let sets := (ctxSets.filter fun vs => vs != [] && vs.all may && s.takes a c vs).map fun vs => s.victimKey c vs
    sets.foldl (fun best v => match best with
      | none => some v
      | some b => if v.length < b.length ∨ (v.length = b.length ∧ b < v) then some v else some b) none

/-- The room that pre-emption makes on a core for a group is kept from the pre-empted units of a later deadline until the group is placed, or no room
can be made there any more: else a victim would take back what its own pre-emption freed (R328). DEDUCED (log entry 32): R326 lets a group behind
take any core that has room, and any other group does. -/
def State.keptFor (s : State) (cl : Nat) (a : Cand) (c : Nat) : Bool :=
  a.frame.isSome && s.preempts.any fun p => p.2.2 = c && decide (s.deadlineOf p.1 < a.launch.dl)
    && ((allCtx.any fun x => (s.ctx c x).pendEv.preempt)
      || (s.candidates cl).any fun b => b.launch.id = p.1 && b.unit = p.2.1.toNat && (s.takes b c [] || (s.victimsOn b c).isSome))

/-- The lowest-numbered core that takes a candidate (R326). -/
def State.coreFor (s : State) (cl : Nat) (a : Cand) : Option Nat := (s.coresFor cl a).find? fun c => s.takes a c [] && !(s.keptFor cl a c)

/-- The order of groups: earlier deadline; then slots in the cluster's rotation; then launch and unit order (R326). -/
def State.candLess (s : State) (cl : Nat) (a b : Cand) : Bool :=
  let last := alGet 1023 cl s.rot
  let key (k : Cand) : List Nat := [k.launch.dl, (k.launch.slot + 1024 - (last + 1) % 1024) % 1024, k.launch.seq, k.unit]
  decide (key a < key b)

/-- The first of a list of candidates. -/
def State.firstCand (s : State) (cl : Nat) (l : List Cand) : Option Cand :=
  l.foldl (fun best a => match best with
    | none => some a
    | some b => if s.candLess cl a b then some a else some b) none

/-- What the dispatcher of a cluster places next, and on which core: the first group or frame that a core can take (R326). -/
def State.nextPlaced (s : State) (cl : Nat) : Option (Cand × Nat) :=
  (s.firstCand cl ((s.candidates cl).filter fun a => (s.coreFor cl a).isSome)).bind fun a => (s.coreFor cl a).map fun c => (a, c)

/-- A tie between slots that a candidate won moves the cluster's rotation (R326). -/
def State.noteTie (s : State) (cl : Nat) (a : Cand) : State :=
  if (s.candidates cl).any fun b => b.launch.dl = a.launch.dl && b.launch.slot != a.launch.slot then { s with rot := alSet cl a.launch.slot s.rot }
  else s

/-! ### Placing (R68) -/

/-- The start state of a unit (R68, R337, R408). -/
def State.startCtx (s : State) (l : Launch) (u : Nat) (old : Ctx) : Ctx :=
  let image := l.image.toNat
  let d := s.unitDesc l.vf image
  let segs := s.segTable l.vf image
  let codeAt := (s.imgWord l.vf image 8).toNat
  let (o, n) := segs.headD (0, 0)
  let code : List W32 := (List.range (Nat.min n.toNat 0x4000 / 4)).map fun i => BitVec.ofNat 32 (s.loadVa l.vf (image + codeAt + o.toNat + 4 * i) 4)
  { Ctx.reset with
    st := .ready, launch := l.id, unit := BitVec.ofNat 32 u, vf := l.vf, priv := l.priv, pc := d.entry, segs := segs
    half0 := some ⟨0, true, code⟩
    s := (Ctx.reset.s.set 1 l.args).set 2 (BitVec.ofNat 64 u)
    sh := vecOf 4 0 (d.shapes.map fun w => w.setWidth 32)
    ft := vecOf 16 0 (d.fts.map fun w => w.setWidth 32)
    h := vecOf 16 none (d.rings.map ringOf)
    q := vecOf 4 none (d.latches.map fun w => if w.getLsbD 63 then some (fld w 0 4) else none)
    tiles := (d.tiles.mapIdx fun i w => (i, Tile.absent.shape w)).filter fun p => p.2 != Tile.absent
    quota := BitVec.ofNat 11 d.quota.toNat, eq := old.eq, ccq := old.ccq, prog := old.prog, tokCtr := old.tokCtr }

/-- The settings a unit takes before its first bundle: LATE, OVERRUN (R322, R323), HALTALL (R377). -/
def State.settings (s : State) (c : Nat) (x : CtxId) (l : Launch) (placed : Bool) : State :=
  let s1 := if l.late && placed then s.modCtx c x Ctx.setLate else s
  let s2 := if placed && l.crossed && l.pol = 1 then s1.modCtx c x fun cx => { cx with pendEv := { cx.pendEv with overrun := true } } else s1
  if s2.dbgBit l.vf l.id 2 then s2.haltCtx c x true else s2

/-- Banks of a mask granted to a context (R220). -/
def Core.grantBanks (k : Core) (x : CtxId) (m : BitVec 8) : Core :=
  { k with grant := vmapI (fun b g => if m.getLsbD b then some x else g) k.grant }

/-- One unit placed on a FREE context. -/
def State.placeUnit (s : State) (c : Nat) (l : Launch) (m : BitVec 8) (u : Nat) : State :=
  match allCtx.find? fun x => (s.ctx c x).st = .free with
  | none => s
  | some x =>
    let s1 := s.modCore c fun k => (k.grantBanks x m).setCtx x (s.startCtx l u k.ctx[x])
    let s2 := s1.traceCtx c x 0x03 7 0 (s1.ctx c x).next (u * 2 ^ 32 + l.id.toNat)
    (s2.startLog c x).settings c x l true

/-- UNIT_PLACE (R68, R325, R326): cluster n: its dispatcher places the first ready group that a core takes. -/
def execUnitPlace (s : State) : Out :=
  let cl := s.ev.n
  .next (match s.nextPlaced cl with
    | none => s
    | some (a, c) =>
      if a.frame.isSome then s
      else
        let l := a.launch
        let rs := s.imageRoutines l.vf l.image.toNat
        let s1 := (s.noteTie cl a).modCore c fun k => if s.launchOn c l.id then k else (k.installAll l.id rs).getD k
        let s2 := l.groupLive.foldl (fun t u => t.placeUnit c l a.mask u) s1
        let s3 := s2.noteDone l.id fun k =>
          { k with
            placed := k.placed + l.group.length, doneUnits := k.doneUnits + (l.group.length - l.groupLive.length)
            gone := k.gone.filter fun u => !(l.group.contains u) }
        { s3 with preempts := s3.preempts.filter fun p => !(p.1 = l.id && p.2.1.toNat = a.unit) })

/-! ### Pre-emption (R328, R340) -/

/-- The core for a candidate that no core takes: the one chosen before, or the one whose latest victim is latest, then the higher number. -/
def State.preemptFor (s : State) (cl : Nat) (a : Cand) : Option (Nat × CtxId) :=
  let all : List (Nat × Nat) := (s.coresFor cl a).filterMap fun c => ((s.victimsOn a c).bind List.head?).map fun v => (c, v)
  let best : Option (Nat × Nat) := all.foldl (fun best q => match best with
    | none => some q
    | some b => if b.2 / 4 ≤ q.2 / 4 then some q else some b) none
  let pick : Option (Nat × Nat) := match s.preempts.find? fun p => p.1 = a.launch.id && p.2.1.toNat = a.unit with
    | some p =>
      if allCtx.any fun x => (s.ctx p.2.2 x).pendEv.preempt then none
      else if (s.victimsOn a p.2.2).isSome then all.find? fun q => q.1 = p.2.2
      else best
    | none => best
  pick.map fun q => (q.1, Fin.ofNat 4 q.2)

/-- PREEMPT (R328): cluster n: the dispatcher asks for the next victim of the first ready group or frame that no core takes and for which room can be
made; the context freezes at its boundary (R339, R340). -/
def execPreempt (s : State) : Out :=
  let cl := s.ev.n
  let waiting := (s.candidates cl).filter fun a => (s.coreFor cl a).isNone && (s.preemptFor cl a).isSome
  .next (match (s.firstCand cl waiting).bind fun a => (s.preemptFor cl a).map fun p => (a, p) with
    | none => s
    | some (a, c, x) =>
      let u : W32 := BitVec.ofNat 32 a.unit
      let s1 : State := { s with preempts := (s.preempts.filter fun p => !(p.1 = a.launch.id && p.2.1 = u)) ++ [(a.launch.id, u, c)] }
      (s1.modCtx c x fun cx => { cx with pendEv := { cx.pendEv with preempt := true } }).boundary c x)

/-- The space a frame takes (R340, R341). DESIGN CHOICE: a record always takes its whole 189,472 bytes and its counter block, and 16,384 for each bank
(log entry 34). -/
def Frame.size (f : Frame) : Nat := 189472 + 864 + 16384 * f.banks.length

/-- A frame goes into free space of its core's 256 KiB frame store, else to its launch's frame region in HBM (R340). -/
def State.fitsStore (s : State) (f : Frame) : Bool :=
  ((s.frames.filter fun g => g.core = f.core && g.inStore).map Frame.size).sum + f.size ≤ 262144

/-- FRAME_WRITTEN (R340, R341): core c, context x, which a pre-emption has frozen: once its engine operations have wound down, its frame is written, its
banks are scrubbed, and it is FREE, its registers as they stand. A started `mload` completes in the background (R235, R241). -/
def execFrameWritten (s : State) : Out :=
  let c := s.ev.c
  let x := s.ev.x
  let cx := s.ctx c x
  .next (if !(cx.pendEv.preempt && cx.st = .ready && cx.fz) || !(s.woundDown c x) then s
    else
      let s1 := ((s.flushStores c x).performWindow cx.launch).withdraw c x
      let (w, s2) := s1.free
      let s3 := s2.traceCtx c x 0x05 7 0 cx.next (cx.unit.toNat * 2 ^ 32 + w.toNat % 2 ^ 32)
      let f := s3.frameFor c x
      let y := f.ctx
      let mine (m : Cmd) : Bool := m.of y && m.state = 0 && m.slot != 4 && !m.dead
      let y1 : Ctx := { y with
        eq := vmapI (fun _ l => l.filter mine) y.eq, ccq := y.ccq.filter mine, pendEv := { y.pendEv with preempt := false } }
      let rest : Ctx := { y.freed with
        eq := vmapI (fun _ l => l.filter fun m => !(mine m)) y.eq, ccq := y.ccq.filter fun m => !(mine m) }
      let s4 := s3.modCore c fun k => (k.releaseBanks x false).setCtx x rest
      let s5 : State := { s4 with frames := s4.frames ++ [{ f with ctx := y1, inStore := s4.fitsStore f }] }
      (s5.forgetDirect c x).leaveCore c cx.launch)

/-! ### Resume (R236, R336, R340) -/

/-- The commands of a unit in the queues of a core, by queue, oldest first, gathered from its contexts. -/
def Core.commandsOf (k : Core) (cx : Ctx) (q : Nat) : List Cmd :=
  k.ctx.toList.flatMap fun y => ((if q < 4 then (y.eq.toList[q]?).getD [] else y.ccq)).filter fun m => m.of cx && !m.dead

/-- The queues of a core without the commands of a unit. -/
def Core.dropCommands (k : Core) (cx : Ctx) : Core :=
  let keep (m : Cmd) : Bool := !(m.of cx) || m.dead
  { k with ctx := vmapI (fun _ y => { y with eq := vmapI (fun _ l => l.filter keep) y.eq, ccq := y.ccq.filter keep }) k.ctx }

/-- The granted banks of a frame put back (R340). -/
def Core.putBanks (k : Core) (x : CtxId) (f : Frame) : Core :=
  let at_ (b : Nat) := f.banks.find? fun p => p.1 = b
  { k with
    grant := vmapI (fun b g => if (at_ b).isSome then some x else g) k.grant
    cls := vmapI (fun b v => ((at_ b).map fun p => p.2.1).getD v) k.cls
    banks := vmapI (fun b v => ((at_ b).map fun p => p.2.2.1).getD v) k.banks
    front := vmapI (fun b v => ((at_ (b + 6)).map fun p => p.2.2.2).getD v) k.front }

/-- UNIT_RESUME (R336, R340): cluster n: its dispatcher resumes the pre-empted unit that comes first, on the core that takes it. Its commands follow it to
its context; saved operations are accepted again; what it left latched lands once its cycles restart; one stopped in `wfe` or `xdisp` still waits there (R67).
A core that it has left for another may have lost the last unit of its launch (R264). -/
def execUnitResume (s : State) : Out :=
  let cl := s.ev.n
  .next (match s.nextPlaced cl with
    | none => s
    | some (a, c) =>
      match a.frame, allCtx.find? fun x => (s.ctx c x).st = .free with
      | some f, some x =>
        let l := a.launch
        let k := s.core c
        let old := (k.dropCommands f.ctx).ctx[x]
        let queue (q : Nat) (rest mine : List Cmd) : List Cmd := rest ++ k.commandsOf f.ctx q ++ mine
        let nums := ((List.range 5).flatMap fun q => k.commandsOf f.ctx q).map fun m => m.num
        let move (w : PFault) : PFault := if w.core = c ∧ w.queue < 7 ∧ nums.contains w.num then { w with x := x } else w
        let cx : Ctx := { f.ctx with
          st := .ready, wait := f.ctx.wait.kept, readyWait := 0
          eq := vmapI (fun q l => queue q l ((f.ctx.eq.toList[q]?).getD [])) old.eq, ccq := queue 4 old.ccq f.ctx.ccq
          saved := f.ctx.saved.map fun m => { m with x := x }
          savedCall := f.ctx.savedCall.map fun b => { b with op := { b.op with x := x } }
          savedF := f.ctx.savedF.map fun m => { m with x := x } }
        let rs := s.imageRoutines l.vf l.image.toNat
        let s1 := (s.noteTie cl a).modCore c fun k =>
          let k1 := if s.launchOn c l.id then k else (k.installAll l.id rs).getD k
          ((k1.dropCommands f.ctx).putBanks x f).setCtx x cx
        let s2 : State := { s1 with
          frames := s1.frames.filter fun g => g != f
          pfaults := s1.pfaults.map move
          vfs := s1.vfs.map fun v => (v.1, { v.2 with posted := v.2.posted.map fun p => if p.1 = c ∧ nums.contains p.2.2 then (c, x, p.2.2) else p })
          walks := s1.walks.map fun p => (p.1, p.2.map fun w => { w with who := w.who.map move })
          preempts := s1.preempts.filter fun p => !(p.1 = l.id && p.2.1 = f.ctx.unit) }
        let s3 := s2.traceCtx c x 0x03 7 1 cx.next (f.ctx.unit.toNat * 2 ^ 32 + l.id.toNat)
        (((s3.readmitFront c x).readmit c).settings c x l false).leaveCore f.core l.id
      | _, _ => s)

end Sys2Proof.Machine
end

