-- ==== Sys2Proof/Machine/Queues.lean ====
section
/-! DEFINITION. The host interface and the firmware: queues and their registers, hardware slots, deadlock, partitions, plug-ins, firmware cores,
host accesses, link encryption, and functions (R11, R294, R306, R314, R324, R287, R292, R330, R331, R355-R363, R404, R405). -/

namespace Sys2Proof.Machine

def State.queue (s : State) (vf q : Nat) : Queue := alGet Queue.reset q (s.vf vf).queues

/-- A FWEV record in a function's ring (R386 Table 8). -/
def State.traceFw (s : State) (vf sub slot n : Nat) : State := s.trace vf ⟨0x10, 8, 0x7FF, 0, sub, 0, false, 0, 0, slot % 1024 * 2 ^ 32 + n % 2 ^ 32⟩

/-! ### Hardware slots (R324, R363) -/

/-- A queue is being served by a slot. -/
def State.mapped (s : State) (vf q : Nat) : Bool := s.slots.any fun p => p.2.vf = vf && p.2.q = q

/-- A 64-byte line at a function's address is poisoned (R199). -/
def State.vaPoisoned (s : State) (vf va : Nat) : Bool := (s.xlateDirect vf va 64).any fun pa => s.poisoned pa 64

/-- QUEUE_ENTRY_FETCH (R315, R324, R358, R359): slot n fetches its queue's head entry and submits it; an entry that opens a graph gives JOB and PHASE
fresh ids where they are 0. DESIGN CHOICE: an entry that is poisoned is not fetched (R199 and R356 state no more; log entry 37). -/
def execQueueEntryFetch (s : State) : Out :=
  .next (match s.slots.find? fun p => p.1 = s.ev.n with
    | none => s
    | some (n, h) =>
      let k := s.queue h.vf h.q
      let at_ := k.qbase.toNat + 64 * (k.head.toNat % 2 ^ k.log2n.toNat)
      if h.stopping || !k.en || k.closing || k.qerr || k.fetched || k.head = k.tail || s.vaPoisoned h.vf at_ then s
      else
        let p : BitVec 512 := BitVec.ofNat 512 (s.loadVa h.vf at_ 64)
        let s := s.touchVa h.vf at_ 64
        let graph : W32 := fld (Packet p 5) 16 32
        let (job, s1) := if graph = 0 ∧ k.job = 0 then s.newId else (k.job, s)
        let (phase, s2) := if graph = 0 ∧ k.phase = 0 then s1.newId else (k.phase, s1)
        let s3 := s2.modQueue h.vf h.q fun k => { k with fetched := true, job := job, phase := phase }
        { s3 with adm := s3.adm ++ [⟨h.vf, n, p, some (h.q, k.head), none, none, h.vf = 128, graph, phase, job, s.clk, false⟩] })

/-- The firmware scheduler runs (R363). -/
def State.scheduling (s : State) : Bool := s.fwRuns 0

/-- MAP (R324): slot n is bound to queue q of function vf. -/
def execMap (s : State) : Out :=
  let e := s.ev
  .next (if !s.scheduling || 1024 ≤ e.n || (s.slots.any fun p => p.1 = e.n) || s.mapped e.vf e.q || !(s.queue e.vf e.q).en then s
    else ({ s with slots := alSet e.n ⟨e.vf, e.q, false, none⟩ s.slots } : State).traceFw e.vf 0 e.n e.q)

/-- A slot is given up, or given to another queue: at once, or when the entry it processes has its code. -/
def State.stopSlot (s : State) (n : Nat) (next : Option (Nat × Nat)) : State :=
  { s with slots := s.slots.filterMap fun p =>
    if p.1 ≠ n then some p
    else if (s.queue p.2.vf p.2.q).testing then some (p.1, { p.2 with stopping := true, next := next })
    else next.map fun q => (p.1, ⟨q.1, q.2, false, none⟩) }

/-- UNMAP (R324): slot n. -/
def execUnmap (s : State) : Out :=
  let n := s.ev.n
  .next (match s.slots.find? fun p => p.1 = n with
    | none => s
    | some (_, h) => if !s.scheduling then s else (s.stopSlot n none).traceFw h.vf 1 n h.q)

/-- SWITCH (R324): slot n goes to queue q of function vf. -/
def execSwitch (s : State) : Out :=
  let e := s.ev
  .next (if !s.scheduling || !(s.slots.any fun p => p.1 = e.n) || s.mapped e.vf e.q || !(s.queue e.vf e.q).en then s
    else (s.stopSlot e.n (some (e.vf, e.q))).traceFw e.vf 2 e.n e.q)

/-! ### Deadlock (R331) -/

/-- A launch that waits on a signal. -/
def Launch.waiting (l : Launch) : Bool := l.stage = .admitted && l.waits != []

/-- The edges of the waits-for graph from a launch: the declared setters of the signals that it waits on, those not satisfied. -/
def State.waitsFor (s : State) (l : Launch) : List W32 :=
  ((s.vf l.vf).setters.filter fun p => l.waits.contains p.1 && !(s.sigSet l.vf p.1)).map fun p => p.2

/-- The launches that waiting launches lead to, in at most n edges more. -/
def State.reach (s : State) : Nat → List W32 → List W32
  | 0, r => r
  | n + 1, r =>
    State.reach s n (r ++ ((s.launches.filter fun l => l.waiting && r.contains l.id).flatMap s.waitsFor).filter fun i => !(r.contains i))

/-- A waiting launch lies in a cycle. -/
def State.inCycle (s : State) (l : Launch) : Bool := l.waiting && (s.reach s.launches.length (s.waitsFor l)).contains l.id

/-- A software queue that no slot serves has a head entry whose waits are satisfied. -/
def State.runnable (s : State) (vf q : Nat) : Bool :=
  let k := s.queue vf q
  let p : BitVec 512 := BitVec.ofNat 512 (s.loadVa vf (k.qbase.toNat + 64 * (k.head.toNat % 2 ^ k.log2n.toNat)) 64)
  k.en && !k.qerr && !k.fetched && k.head != k.tail && !(s.mapped vf q) && (packetLaunch p vf 0 0).waits.all fun i => s.sigSet vf i

/-- The head of a slot's queue is an admitted launch that waits. -/
def State.headWaits (s : State) (h : HwSlot) : Bool :=
  let k := s.queue h.vf h.q
  k.headId != 0 && ((s.launch? k.headId).map Launch.waiting).getD false

/-- The software queues that no slot serves and whose heads are runnable: by function, in the order of its run list (R331, R362). DESIGN CHOICE: R331 gives no
order among them (log entry 31). -/
def State.runnables (s : State) : List (Nat × Nat) :=
  s.vfs.flatMap fun v =>
    let l := (v.2.queues.map fun q => q.1).filter fun q => s.runnable v.1 q
    ((v.2.pluginOrder.filter fun q => l.contains q) ++ l.filter fun q => !(v.2.pluginOrder.contains q)).map fun q => (v.1, q)

/-- The deadline of the launch at the head of a slot's queue. -/
def State.headDeadline (s : State) (h : HwSlot) : Nat := s.deadlineOf (s.queue h.vf h.q).headId

/-- Waiting slots, the latest head deadline first, go to runnable queues, one each (R331). -/
def State.replaceWaiting (s : State) : State :=
  let slots := s.slots.mergeSort fun a b => s.headDeadline b.2 ≤ s.headDeadline a.2
  (slots.zip s.runnables).foldl (fun t p =>
    (({ t with slots := alSet p.1.1 ⟨p.2.1, p.2.2, false, none⟩ t.slots } : State).traceFw p.1.2.vf 1 p.1.1 p.1.2.q).traceFw p.2.1 0 p.1.1 p.2.2) s

/-- ALL_WAITING (R331): the head of every mapped slot waits. Waiting slots are given to runnable queues; where no queue is runnable and the waits-for graph
has a cycle, the job of the launch in a cycle with the latest deadline is cancelled, ties to the higher id. -/
def execAllWaiting (s : State) : Out :=
  .next (if s.slots = [] || !(s.slots.all fun p => s.headWaits p.2) || !s.scheduling then s
    else
      let s1 := s.slots.foldl (fun t p => t.traceFw p.2.vf 4 p.1 p.2.q) s
      if s1.runnables != [] then s1.replaceWaiting
      else
        let worst := (s1.launches.filter s1.inCycle).foldl (fun (best : Option Launch) l => match best with
          | none => some l
          | some b => if b.dl < l.dl ∨ (b.dl = l.dl ∧ b.id < l.id) then some l else some b) none
        match worst with
        | none => s1
        | some l => match s1.aboveAt l 4 with
          | some j => s1.cancelInst j 3
          | none => s1)

/-! ### Partitions, plug-ins, firmware cores (R330, R362, R363, R405) -/

/-- PARTITION_MOVE (R330): core c goes to the partition of function vf, if every live launch of the losing one still passes. -/
def execPartitionMove (s : State) : Out :=
  let c := s.ev.c
  let to_ := s.ev.vf
  let from_ := s.vfs.find? fun p => p.2.cfg.cores.contains c
  .next (if !s.scheduling || !(s.vf to_).live || s.moving.any fun m => m.1 = c then s
    else match from_ with
      | none => (s.modVf to_ fun v => { v with cfg := { v.cfg with cores := v.cfg.cores ++ [c] } }).traceFw to_ 3 0 c
      | some (f, v) =>
        if f = to_ || !(s.demandTest f (v.cfg.cores.length - 1) none) then s
        else
          let s1 := s.modVf f fun v => { v with cfg := { v.cfg with cores := v.cfg.cores.filter fun k => k != c } }
          ((({ s1 with moving := s1.moving ++ [(c, f, to_)] } : State).settleMoves).traceFw f 3 0 c).traceFw to_ 3 0 c)

/-- The default policy: the run list in queue number order, and no partition change (R362). -/
def Vf.defaultPolicy (v : Vf) : Vf := { v with pluginOrder := List.range 64, pluginTarget := v.cfg.cores.length }

/-- PLUGIN_CALL (R362): the plug-in of function vf answers a run list, each queue as 64 times its function and its number, and a partition target n, of
which firmware allows at most m; with flag it has made a PMP fault, which disables it. -/
def execPluginCall (s : State) : Out :=
  let e := s.ev
  .next (if !s.scheduling then s
    else s.modVf e.vf fun v =>
      let d := v.defaultPolicy
      if !v.plugin then d
      else if e.flag then { d with plugin := false, pluginStops := 0 }
      else { d with
        pluginStops := 0
        pluginOrder := if e.list.all fun q => q / 64 = e.vf then e.list.map fun q => q % 64 else d.pluginOrder
        pluginTarget := if e.n ≤ e.m then e.n else d.pluginTarget })

/-- PLUGIN_TIMEOUT (R362): the plug-in of function vf has run over 20 µs; the third stop in a row disables it. -/
def execPluginTimeout (s : State) : Out :=
  let vf := s.ev.vf
  .next (if !((s.vf vf).plugin) then s
    else (s.modVf vf fun v =>
      { v.defaultPolicy with pluginStops := v.pluginStops + 1, plugin := decide (v.pluginStops + 1 < 3) }).traceFw vf 5 0 0)

/-- PLUGIN_LOAD (R362, R403): function vf loads a plug-in of the digest given. -/
def execPluginLoad (s : State) : Out :=
  .next (s.modVf s.ev.vf fun v => { v with plugin := true, pluginStops := 0, pluginDigest := s.ev.wide })

/-- A firmware core goes down to be reset. -/
def State.resetFw (s : State) (q : Nat) : State :=
  { s with boot := { s.boot with fwUp := vmapI (fun i u => if i = q then false else u) s.boot.fwUp, fwResets := s.boot.fwResets + 1 } }

/-- FIRMWARE_CORE_RESET (R363): firmware core q, reset by core 2, or core 2 by core 3, once its heartbeat has stopped for 1 ms; with flag its reset is
over and it runs again, and what waited for the scheduler goes on. -/
def execFirmwareCoreReset (s : State) : Out :=
  let q := s.ev.q
  let judge := if q = 2 then 3 else 2
  .next (if s.ev.flag then ({ s with boot := { s.boot with fwUp := vmapI (fun i u => u || i = q) s.boot.fwUp } } : State).finishStops.settleMoves
    else if s.fwRuns judge then s.resetFw q else s)

/-- FIRMWARE_UNCORRECTABLE_ERROR (R405): firmware core q is reset. -/
def execFirmwareUncorrectableError (s : State) : Out := .next (s.resetFw s.ev.q)

/-! ### Queue registers (R358, R359) -/

/-- TAIL (R359): queue q of function vf, value l. -/
def execTail (s : State) : Out :=
  let t := s.ev.l
  .next (s.modQueue s.ev.vf s.ev.q fun k =>
    if (t - k.head).toNat ≤ 2 ^ k.log2n.toNat ∧ (k.tail - k.head).toNat ≤ (t - k.head).toNat then { k with tail := t } else { k with qerr := true })

/-- EN_SET (R358): queue q of function vf: HEAD, the tail and DONE become 0, unless the queue's sizes and bases are bad. -/
def execEnSet (s : State) : Out :=
  .next (s.modQueue s.ev.vf s.ev.q fun k =>
    if k.en || k.log2n.toNat < 1 || 16 < k.log2n.toNat || k.qbase.toNat % 64 ≠ 0 || k.cqbase.toNat % 32 ≠ 0 then k
    else { k with en := true, head := 0, tail := 0, done := 0, headId := 0, fetched := false, closing := false })

/-- EN_CLEAR (R358): queue q of function vf, at once or when its slot has finished with the entry at hand. -/
def execEnClear (s : State) : Out :=
  .next (s.modQueue s.ev.vf s.ev.q fun k => if k.en && k.testing then { k with closing := true } else { k with en := false })

/-- An id names a live phase or job of a function: one that is not complete, or one that another of its queues names (R74, R358). -/
def State.instLive (s : State) (vf level : Nat) (id : W32) (q : Nat) : Bool :=
  ((s.inst? vf level id).any fun i => !(s.instDone i))
  || (s.vf vf).queues.any fun k => k.1 != q && (if level = 3 then k.2.phase else k.2.job) = id

/-- The phase or job that an id names takes no further children (R358); one whose first packet is still to be tested opens closed. -/
def State.closeInst (s : State) (vf level : Nat) (id : W32) : State :=
  match s.inst? vf level id with
  | some i => s.modInst i.serial fun k => { k with closed := true }
  | none =>
    if s.adm.any fun a => a.vf = vf && a.graph = 0 && (if level = 3 then a.phase else a.job) = id then { s with closed := s.closed ++ [(level, vf, id)] }
    else s

/-- An id goes to a new phase or job: the complete instances that had it have it no more (R358). -/
def State.renewId (s : State) (vf level : Nat) (id : W32) : State :=
  { s with insts := s.insts.map fun i => if i.vf = vf ∧ i.level = level ∧ i.id = id then { i with past := true } else i }

/-- PHASE (R358): queue q of function vf, value l: a new id closes the current phase; the id of another live phase is ignored. -/
def execPhase (s : State) : Out :=
  let e := s.ev
  let k := s.queue e.vf e.q
  .next (if e.l = k.phase || (e.l != 0 && s.instLive e.vf 3 e.l e.q) then s
    else
      let s1 := if e.l = 0 then s else (s.closeInst e.vf 3 k.phase).renewId e.vf 3 e.l
      s1.modQueue e.vf e.q fun k => { k with phase := e.l })

/-- JOB (R358): queue q of function vf, value l: the current job and phase close, and PHASE becomes 0; the id of another live job is ignored. -/
def execJob (s : State) : Out :=
  let e := s.ev
  let k := s.queue e.vf e.q
  .next (if e.l = k.job || (e.l != 0 && s.instLive e.vf 4 e.l e.q) then s
    else (((s.closeInst e.vf 4 k.job).closeInst e.vf 3 k.phase).renewId e.vf 4 e.l).modQueue e.vf e.q fun k => { k with job := e.l, phase := 0 })

/-- The window's slots: m general ones, then the expert slots of each function (R294, R306). -/
def State.layWindow (s : State) (m : Nat) : State :=
  let owners := s.vfs.flatMap fun v => if v.2.live then List.replicate v.2.cfg.expertQuota v.1 else []
  let slots := List.replicate m (⟨false, 0, none⟩ : WSlot) ++ owners.map fun o => ⟨true, o, none⟩
  { s with wslots := slots.mapIdx fun i w => (i, w) }

/-- The window's general slots in number. -/
def State.generalSlots (s : State) : Nat := (s.wslots.filter fun p => !p.2.expert).length

/-- REGISTER_WRITE (R11): value v to a register, under its access code; bases and sizes of an enabled queue stay (R358), and registers of the physical
function's alone need a privileged write (R70, R355, R365). What firmware sets while the device runs is written here too: device number, routes and
groups (R364, R368), the window's slots and quotas while no object is in it (R294), a floor (R320), a correction of device time (R314); the firmware core
in whose role it lies must run (R361). -/
def execRegisterWrite (s : State) : Out :=
  let v := s.ev.v
  .next (match s.ev.reg with
    | .qbase vf q => s.modQueue vf q fun k => if k.en then k else { k with qbase := v }
    | .qctl vf q => s.modQueue vf q fun k =>
      { k with
        qerr := k.qerr && !(v.getLsbD 17), irq := v.getLsbD 16, vec := fld v 8 8, log2n := if k.en then k.log2n else fld v 0 5 }
    | .cqbase vf q => s.modQueue vf q fun k => if k.en then k else { k with cqbase := v }
    | .cqsig vf q => s.modQueue vf q fun k => { k with cqsig := v }
    | .snapaddr c x => s.modCore c fun k => { k with snapaddr := k.snapaddr.set x v }
    | .tbase vf => s.windowWrite vf 0xA00000 v
    | .tctl vf => s.windowWrite vf 0xA00008 v
    | .trd vf => s.windowWrite vf 0xA00018 v
    | .tmask vf => s.windowWrite vf 0xA00028 v
    | .sper vf => s.windowWrite vf 0xA00030 v
    | .sbase vf => s.windowWrite vf 0xA00038 v
    | .slog2 vf => s.windowWrite vf 0xA00040 v
    | .tenant n priv =>
      if priv then (if n < 4096 ∧ s.fwRuns 2 then { s with tenants := alSet n v s.tenants } else s)
      else if (s.ctx s.ev.c s.ev.x).st.live then s.fatal s.ev.c s.ev.x .permission 7 (s.ctx s.ev.c s.ev.x).next
      else s
    | .parkAllow vf => s.modVf vf fun k => { k with cfg := { k.cfg with parkKiB := v.toNat } }
    | .hdmWindow => if s.ev.vf = 128 ∧ v.toNat % 2 ^ 28 = 0 ∧ v.toNat ≤ 2 ^ 36 then { s with hdmSize := v } else s
    | .windowSlots bits general =>
      if s.objs.all (fun o => o.slots = []) ∧ 15 ≤ bits ∧ bits ≤ 27 then ({ s with winBase := v.toNat, slotBits := bits } : State).layWindow general else s
    | .expertQuota vf n =>
      if s.objs.all fun o => o.slots = [] then
        (s.modVf vf fun k => { k with cfg := { k.cfg with expertQuota := n } }).layWindow s.generalSlots
      else s
    | .floor vf => if v.toNat ≤ 500 then s.modVf vf fun k => { k with cfg := { k.cfg with floor := v.toNat } } else s
    | .slew => if s.fwRuns 2 then s.slewTo v.toInt else s
    | .deviceNumber n => { s with devno := n }
    | .route d p =>
      if !(s.fwRuns 2) || p.any fun k => 16 ≤ k then s
      else { s with routes := (match p with | some p => [(d.toNat, p)] | none => []) ++ s.routes.filter fun r => r.1 ≠ d.toNat }
    | .group g p ms => if g < 4096 ∧ 2 ≤ p ∧ p ≤ 4096 ∧ s.fwRuns 2 then { s with groups := alSet g ⟨p, ms, [], [], [], []⟩ s.groups } else s
    | .readOnly => s)

/-! ### Host accesses and link encryption (R355, R356) -/

/-- HOST_SNOOP (R356): the host has written n bytes at host address v. Nothing comes in over a link in error; DEDUCED (log entry 37). -/
def execHostSnoop (s : State) : Out :=
  let pa := 2 * 2 ^ 48 + s.ev.v.toNat
  .next (if s.ev.n ≤ 64 ∧ s.present pa s.ev.n ∧ s.boot.linkErr = false then s.store pa s.ev.n (s.ev.data.headD 0).toNat else s)

/-- The host as a party, of the SYSTEM instance only (R287, R292). -/
def hostParty : Party := ⟨1536, 0, 0⟩

/-- A host read of n bytes at pa acquires at SYSTEM scope what the flag words there release to it: the writes so covered are performed (R285, R288, R292). -/
def State.hostAcquire (s : State) (pa n : Nat) : State :=
  let syncs (r : Rel) : Bool := inScope r.scope r.by_ hostParty && r.chain.all fun q => inScope q.2 q.1 hostParty
  let nums := (s.rels.filter fun p => bytesMeet p.1 8 pa n).flatMap fun p => (p.2.filter syncs).flatMap fun r => r.covers
  s.settleBy fun e => nums.contains e.num

/-- HOST_MEM_ACCESS (R292, R356): the host reads, into `hostData`, or with flag writes n bytes at offset v of the HDM window. -/
def execHostMemAccess (s : State) : Out :=
  .next (if s.ev.n ≤ 64 ∧ s.ev.v.toNat + s.ev.n ≤ s.hdmSize.toNat ∧ s.boot.linkErr = false then
      (if s.ev.flag then s.store s.ev.v.toNat s.ev.n (s.ev.data.headD 0).toNat
      else
        let t := s.hostAcquire s.ev.v.toNat s.ev.n
        { t with hostData := BitVec.ofNat 512 (readNat t.mem s.ev.v.toNat s.ev.n) })
    else s)

/-- The loads of host memory that are in flight: core, context, owed write. -/
def State.hostLoads (s : State) : List (Nat × CtxId × Pend) :=
  s.cores.flatMap fun p => allCtx.flatMap fun x => ((s.ctx p.1 x).pend.filter fun w => w.host && w.val.isSome).map fun w => (p.1, x, w)

/-- IDE_INTEGRITY_FAIL (R199, R356): the link is in error. The loads of host memory in flight complete as poisoned data, which is fatal (R161); what
commands still read there is poisoned (`State.poisoned`). -/
def execIdeIntegrityFail (s : State) : Out :=
  .next (if !(s.boot.ideIo || s.boot.ideMem) then s
    else s.hostLoads.foldl (fun t p => if (t.ctx p.1 p.2.1).st.live then t.fatal p.1 p.2.1 .poison p.2.2.slot p.2.2.org else t)
      { s with boot := { s.boot with linkErr := true } })

/-- IDE_KEY_SET (R355, R361): the security core gives stream q (0 CXL.io, 1 CXL.cachemem) a key and enables it, with flag in skid mode, else in containment
mode. -/
def execIdeKeySet (s : State) : Out :=
  let q := s.ev.q
  .next (if !(s.fwRuns 3) then s
    else { s with boot := { s.boot with
      ideKeys := vmapI (fun i k => if i = q then s.ev.wide else k) s.boot.ideKeys
      ideSkid := vmapI (fun i k => if i = q then s.ev.flag else k) s.boot.ideSkid
      ideIo := s.boot.ideIo || q = 0, ideMem := s.boot.ideMem || q = 1 } })

/-! ### Functions (R294, R306, R314, R357, R401, R404) -/

/-- FUNCTION_CREATE (R314, R357, R401): firmware core 1 (R361) makes function vf of the configuration given. While no object is in the window its slots are
laid out anew, with flag at base v, of 2^n bytes, m of them general (R294). -/
def execFunctionCreate (s : State) : Out :=
  let e := s.ev
  .next (if !s.boot.ready || !(s.fwRuns 1) || (s.vf e.vf).live || 128 < e.vf then s
    else
      let s1 := s.setVf e.vf { Vf.reset with live := true, cfg := legalCfg e.cfg }
      if s.objs.any fun o => o.slots != [] then s1
      else if e.flag && decide (15 ≤ e.n) && decide (e.n ≤ 27) then ({ s1 with winBase := e.v.toNat, slotBits := e.n } : State).layWindow e.m
      else s1.layWindow s.generalSlots)

/-- The owner of a persistent fen range whose function has been destroyed: none, until it is assigned again (R404). -/
def noFunction : Nat := 256

/-- FUNCTION_DESTROY (R75, R361, R404): function vf. Its launches are cancelled first; once no unit of it is left, its HBM pages, given by number, its slots of the
window, its bias sets and its fen ranges that are not marked persistent are zeroed, and nothing of it remains. -/
def execFunctionDestroy (s : State) : Out :=
  let vf := s.ev.vf
  let open_ := (s.launches.filter fun l => l.vf = vf && l.stage = .admitted).map fun l => l.id
  .next (if !((s.vf vf).live) || !(s.fwRuns 1) || !(s.fwRuns 3) then s
    else if open_ != [] || (s.units.any fun p => (s.ctx p.1 p.2).vf = vf) then s.cancelLaunches open_ 1
    else
      let s1 := s.ev.list.foldl (fun t p => t.scrubRange (p * 32768) 32768) s
      let s2 := (s1.fenRanges.filter fun r => r.1 = vf && !r.2.2.2).foldl (fun t r => t.scrubRange (2 ^ 48 + r.2.1) r.2.2.1) s1
      let s2 := ((s2.objs.filter fun o => o.vf = vf).flatMap fun o => o.slots).foldl (fun t n => t.scrubRange (s.slotAddr n) (2 ^ s.slotBits)) s2
      let sets := (s.vf vf).cfg.bsets
      let s3 : State := { s2 with
        fenRanges := (s2.fenRanges.filter fun r => r.1 != vf || r.2.2.2).map fun r => if r.1 = vf then (noFunction, r.2) else r
        snaps := s2.snaps.filter fun p => p.vf != vf
        bias := s2.bias.filter fun p => !(sets.contains (p.1 % 64))
        closed := s2.closed.filter fun p => p.2.1 != vf
        slots := s2.slots.filter fun p => p.2.vf != vf
        adm := s2.adm.filter fun a => a.vf != vf
        insts := s2.insts.filter fun i => i.vf != vf
        moving := s2.moving.filter fun m => m.2.2 != vf
        vfs := alSet vf Vf.reset s2.vfs }
      (s3.setObjs (s3.objs.filter fun o => o.vf != vf)).dropTlb fun t => t.vf = vf)

end Sys2Proof.Machine
end

