-- ==== Sys2Proof/Machine/Debug.lean ====
section
/-! DEFINITION. The debugger's rows: debug slots, stops and resumes, live state, trace and sampling, replay requests (R83, R377-R382, R385, R386,
R391, R392, R398, R399). -/

namespace Sys2Proof.Machine

/-- DEBUG_SLOT_WRITE (R377): value v at offset n of debug slot q of function vf. -/
def execDebugSlotWrite (s : State) : Out := .next (s.slotWrite s.ev.vf s.ev.q s.ev.n s.ev.v)

/-- HALT (R378): core c, context x. -/
def execHalt (s : State) : Out := .next (s.haltCtx s.ev.c s.ev.x false)

/-- RESUME (R382): core c, context x. -/
def execResume (s : State) : Out := .next (s.resumeCtx s.ev.c s.ev.x false)

/-- DCTL_STEP (R382): core c, context x. -/
def execDctlStep (s : State) : Out := .next (s.resumeCtx s.ev.c s.ev.x true)

/-- SNAP (R398): core c, context x. -/
def execSnap (s : State) : Out := .next (s.snapCtx s.ev.c s.ev.x)

/-- LIVE_STATE_WRITE (R381): core c, context x: value v at offset n of its frame layout, or with flag to its resume address. -/
def execLiveStateWrite (s : State) : Out :=
  let e := s.ev
  .next (if !(s.ctx e.c e.x).dbg.stopped then s
    else s.modCtx e.c e.x fun cx => if e.flag then { cx with pc := e.v.setWidth 32 } else cx.frameWrite e.n e.v)

/-- TEN_SET (R385): function vf, value v with TEN = 1: TWR, TRD and TLOST become 0. -/
def execTenSet (s : State) : Out := .next (s.modVf s.ev.vf fun k => { k with tr := k.tr.write 8 (s.ev.v ||| 0x200) })

/-! ### Sampling (R392) -/

/-- The code of a context state (R67, R392). -/
def CtxState.code : CtxState → Nat
  | .free => 0
  | .ready => 1
  | .issuing => 2
  | .blocked => 3
  | .frozen => 4
  | .retiring => 5

/-- The code of a wait (R392). -/
def Wait.code : Wait → Nat
  | .none => 0
  | .stall => 1
  | .tile => 2
  | .ring => 3
  | .bank => 4
  | .queueFull => 5
  | .barrier => 6
  | .wfe => 7
  | .address => 8
  | .segment => 9
  | .unpark => 10
  | .idle => 11
  | .xdisp => 12

/-- The PAYLOAD of a SAMPLE record, with the code of the wait. -/
def Ctx.samplePayload (cx : Ctx) (wait : Nat) : Nat :=
  let (lv, i) := match innerLevel cx.loops with
    | some n => (n.val, cx.loops[n].index.toNat)
    | none => (7, 0)
  i * 2 ^ 32 + lv * 2 ^ 8 + wait * 2 ^ 3 + cx.st.code

/-- The wait of a context: a stall of the one that issues; what it is blocked on (R38, R392). -/
def State.waitCode (s : State) (c : Nat) (x : CtxId) : Nat :=
  let cx := s.ctx c x
  if cx.st = .issuing ∧ (s.verdict c x).1 = .stall then Wait.stall.code else cx.wait.code

/-- The SAMPLE record of a context. -/
def State.sampleRec (s : State) (c : Nat) (x : CtxId) : TraceRec :=
  let cx := s.ctx c x
  ⟨0x0F, 9, c, x.val, 0, cx.pc.toNat, cx.tif, cx.scycle.toNat, s.corrOf cx.launch, cx.samplePayload (s.waitCode c x)⟩

/-- A snapshot of one context: its record and counter block, 896 bytes, at SBASE + SWR modulo the ring's size. -/
def State.sampleCtx (s : State) (vf c : Nat) (x : CtxId) : State :=
  let t := (s.vf vf).tr
  let cx := s.ctx c x
  let r := s.sampleRec c x
  let size := 2 ^ t.slog2.toNat
  let words : List Nat := (List.range 108).map fun i => (cx.frameWord (s.core c) 0 (0x2E440 + 8 * i)).toNat
  let put (a : State) (o n v : Nat) : State := a.storeVa vf (t.sbase.toNat + (t.swr.toNat + o) % size) n v
  let s1 := put s 0 32 (r.bytes vf (s.vfNow vf).toNat false)
  let s2 := (words.mapIdx fun i w => (i, w)).foldl (fun a p => put a (32 + 8 * p.1) 8 p.2) s1
  (s2.modVf vf fun v => { v with tr := { v.tr with swr := v.tr.swr + 896 } }).trace vf r

/-- SAMPLE (R392): function vf. -/
def execSample (s : State) : Out :=
  let vf := s.ev.vf
  let t := (s.vf vf).tr
  .next (if t.sper = 0 || t.slog2.toNat < 12 || 40 < t.slog2.toNat then s
    else (s.units.filter fun p => (s.ctx p.1 p.2).vf = vf).foldl (fun a p => a.sampleCtx vf p.1 p.2) s)

/-! ### Replay (R399) -/

/-- The counters of a level from their words (R391). -/
def Counters.ofWords (w : Nat → W64) : Counters :=
  { issued := (w 0).setWidth 48, stall := (w 1).setWidth 48
    fill := vecOf 8 0 ((List.range 8).map fun i => (w (2 + i)).setWidth 48), noop := vecOf 8 0 ((List.range 8).map fun i => (w (10 + i)).setWidth 48) }

/-- A context with what the words of a frame record say of it, in the sections whose layout R341 and R391 give. -/
def Ctx.restored (cx : Ctx) (w : Nat → W64) : Ctx :=
  let words (o n : Nat) : List Nat := (List.range n).map fun i => o + 8 * i
  let c1 := (words 0x100 200 ++ words 0x2400 3952).foldl (fun k o => k.frameWrite o (w o)) cx
  let arv (n : Nat) : Bool × Bool := ((w (0x940 + n / 64 * 8)).getLsbD (n % 64), (w (0xA40 + n / 64 * 8)).getLsbD (n % 64))
  let sq (o : Nat) (l : List (BitVec 1024)) : List (BitVec 1024) := l.mapIdx fun i _ => packElems 1024 64 ((words (o + 128 * i) 16).map fun a => (w a).toNat)
  { c1 with
    sticky := vmapI (fun i _ => w (0x740 + 8 * i)) c1.sticky
    h := vmapI (fun i _ =>
      let r := w (0x780 + 8 * i)
      if r = 0 then none else some ⟨(fld r 0 16).toNat, (fld r 16 16).toNat, (fld r 32 16).toNat, (fld r 48 16).toNat⟩) c1.h
    arv := ((List.range 2048).filter fun n => arv n != (false, false)).map fun n => (n, arv n)
    sqA := sq 0x1400 c1.sqA, sqB := sq 0x1C00 c1.sqB
    cnt := vmapI (fun i _ => Counters.ofWords fun j => w (0x2E440 + 144 * i + 8 * j)) c1.cnt }

/-- A checkpoint as memory holds it from an address (R398, R399): what its sections say where the spec gives their layout, the rest as SNAP took it
(log entry 70). -/
def Snap.restored (p : Snap) (s : State) (at_ : W64) : Snap :=
  let word (o : Nat) : W64 := BitVec.ofNat 64 (s.loadVa p.vf (at_.toNat + o) 8)
  let sect (i : Nat) : Nat := (word (16 * i)).toNat
  let all (o n : Nat) : Nat := packNat 64 ((List.range n).map fun i => (word (o + 8 * i)).toNat)
  let record (o : Nat) : W64 := if o < 0x2E440 then word (sect 0 + o) else word (sect 1 + (o - 0x2E440))
  let banks := p.frame.banks.mapIdx fun i b => if b.2.1 = 1 then b else (b.1, b.2.1, BitVec.ofNat _ (all (sect 2 + 16384 * i) 2048), b.2.2.2)
  let tiles := (p.tiles.foldl (fun (acc : List (Nat × Tile) × Nat) q =>
    let n := q.2.size / 8
    (acc.1 ++ [(q.1, { q.2 with count := (word acc.2).toNat % 2 ^ 16, data := BitVec.ofNat _ (all (acc.2 + 8) n) })], acc.2 + 8 + 8 * n))
    ([], sect 3)).1
  { p with frame := { p.frame with ctx := p.frame.ctx.restored record, banks := banks }, tiles := tiles }

/-- The checkpoint of a function that memory holds at an address: one that a SNAP wrote there, or that has been copied there (R399). -/
def State.snapAt (s : State) (vf : Nat) (at_ : W64) : Option Snap :=
  let here := s.snaps.reverse.filter fun p => p.vf = vf && (List.range 40).all fun i => BitVec.ofNat 64 (s.loadVa vf (at_.toNat + 8 * i) 8) = p.head.getD i 0
  ((here.find? fun p => p.addr = at_).or here.head?).map fun p => p.restored s at_

/-- The `mload` whose fetch a checkpoint has in its queue, to be accepted again (R236, R241). -/
def Cmd.mload (m : Cmd) (x : CtxId) : MOp :=
  { kind := .mload, seq := m.tok, x := x, launch := m.launch, unit := m.unit, org := m.org, mp := Vector.replicate 8 0, d := 0, src := 0, mode := 0, idx := 0
    na := false, nega := false, negb := false, ft := 0, ta := none, tb := none, addr := m.a1, after := 0 }

/-- The unit of a checkpoint as it resumes in replay mode as a unit of another launch, its tiles in its own table: an `xdisp` that waits takes its answer from
the log, and the fetch of an `mload` starts anew. -/
def Snap.ctxFor (p : Snap) (s : State) (c : Nat) (x : CtxId) (l : Launch) (old : Ctx) : Ctx :=
  let k := p.frame.ctx
  let u : W32 := BitVec.ofNat 32 l.placed
  let eq0 := ((k.eq.toList[0]?).getD []).filter fun m => m.of k && !m.dead
  let own (m : Cmd) : Bool := m.of k && !m.dead && m.slot != 0 && m.slot != 4
  let as_ (m : Cmd) : Cmd := { m with launch := l.id, unit := u }
  let aop (m : MOp) : MOp := { m with launch := l.id, unit := u, x := x }
  let tile (t : Tile) : Tile := { t with charge := some (l.id, u), scope := false, gb := if t.st.holds then s.place c t.granules else [] }
  { k with
    st := .ready, wait := k.wait.kept, fz := true, launch := l.id, unit := u, priv := l.priv, pendEv := Pending.none
    eq := vmapI (fun q r => r ++ (((k.eq.toList[q]?).getD []).filter own).map as_) old.eq
    ccq := old.ccq ++ (k.ccq.filter own).map as_
    ans := k.ans ++ (eq0.filter fun m => m.slot = 0).map fun m => ⟨m.ctl.setWidth 5, m.tok, m.tok, none, m.org, true⟩
    saved := ((eq0.filter fun m => m.slot = 4).map fun m => (as_ m).mload x) ++ k.saved.map aop, savedCall := k.savedCall.map fun b => { b with op := aop b.op }
    savedF := k.savedF.map fun m => { m with launch := l.id, unit := u, x := x }
    tiles := p.tiles.map fun q => (q.1, tile q.2)
    dbg := { k.dbg with stopped := false, fatal := false }
    rep := ⟨0, false, true, s.ev.w, s.ev.n, 0, 0, 0, some (k.launch, k.unit, ctxid k.priv p.frame.core p.x), []⟩ }

/-- REPLAY_REQUEST (R399): a unit of background launch l of function vf takes up the checkpoint that memory holds at v on core c in replay mode, with the log
ring of 2^n bytes at w. -/
def execReplayRequest (s : State) : Out :=
  let e := s.ev
  let c := e.c
  let snap := s.snapAt e.vf e.v
  let free := allCtx.find? fun x => (s.ctx c x).st = .free
  .next (match snap, s.launch? e.l, free with
    | some p, some l, some x =>
      let f := p.frame
      if !l.bg || l.vf ≠ e.vf || !l.pending || !(s.roomOn c 1 f.ctx.quota.toNat f.mask []) then s
      else
        let s1 := s.modCore c fun k =>
          let k1 := if s.launchOn c l.id then k else (k.installAll l.id (s.imageRoutines l.vf l.image.toNat)).getD k
          (k1.putBanks x f).setCtx x (p.ctxFor s c x l k1.ctx[x])
        let s2 := (s1.modLaunch l.id fun k => { k with placed := k.placed + 1 }).traceCtx c x 0x03 7 1 f.ctx.next
          (l.placed * 2 ^ 32 + l.id.toNat)
        ((s2.readmitFront c x).readmit c).settings c x l false
    | _, _, _ => s)

/-- DEBUGGER_EVENT_SET (R83): core c, context x. -/
def execDebuggerEventSet (s : State) : Out := .next (s.modCtx s.ev.c s.ev.x fun cx => { cx with event := true })

end Sys2Proof.Machine
end

