-- ==== Sys2Proof/Machine/Boot.lean ====
section
/-! DEFINITION. Boot, attestation, fuse errors and temperature (R401-R405, R407). -/

namespace Sys2Proof.Machine

/-! ### Boot (R401, R402) -/

/-- The device as power comes on: reset, with what outlives it: the fen tier's contents and ranges, the host's
memory, and the fused rollback counter (R401, R404). -/
def State.coldBoot (s : State) : State :=
  { State.reset with
    mem := s.mem.filter fun p => region p.1 = 1 || region p.1 = 2
    poison := s.poison.filter fun l => region (64 * l) = 1 || region (64 * l) = 2
    fenRanges := s.fenRanges, fenBad := s.fenBad, fenErr := s.fenErr, uidCtr := s.uidCtr, freeCtr := s.freeCtr, sched := s.sched, ev := s.ev
    boot := { Boot.reset with rollback := s.boot.rollback } }

/-- The boot stops after a step with a failure code. -/
def State.bootStop (s : State) (step code : Nat) : State := { s with boot := { s.boot with stp := BitVec.ofNat 4 step, fail := BitVec.ofNat 4 code } }

/-- POWER_ON (R401): the boot steps in order, on what the boot finds; the physical function's tables are of the configuration given. -/
def execPowerOn (s : State) : Out :=
  let b := s.ev.boot
  let s0 := s.coldBoot
  .next (if !b.fuseOk then s0.bootStop 0 1
    else if !b.keyOk then s0.bootStop 1 2
    else if !b.sigOk then s0.bootStop 1 3
    else if b.version.toNat < s0.boot.rollback.toNat then s0.bootStop 1 4
    else
      let s1 : State := { s0 with boot := { s0.boot with digests := b.digests, version := b.version } }
      if !b.beatOk then s1.bootStop 2 5
      else
        let s2 : State := { s1 with
          fenDown := b.fenDown
          boot := { s1.boot with fwUp := Vector.replicate 4 true, fch := BitVec.ofNat 7 (Nat.min 2 b.fenDown.length) } }
        if 2 < b.fenDown.length || !b.hbmOk then s2.bootStop 3 6
        else
          let s3 := s2.bootStop 6 0
          { s3 with
            timeBase := b.hostTime, hostSize := b.hostSize, devno := b.devno, routes := b.routes.filter fun r => r.2 < 16, boot := { s3.boot with ready := true }
            vfs := [(128, { Vf.reset with live := true, cfg := legalCfg s.ev.cfg })] })

/-- COMMIT (R402): the rollback counter rises to the version of the running image. -/
def execCommit (s : State) : Out :=
  .next (if s.boot.ready ∧ s.boot.rollback.toNat < s.boot.version.toNat then
    { s with boot := { s.boot with rollback := s.boot.version.setWidth 64 } } else s)

/-! ### Attestation (R403) -/

/-- ATTESTATION_REQUEST (R403): function vf asks with a nonce, and waits its turn. -/
def execAttestationRequest (s : State) : Out :=
  .next { s with boot := { s.boot with attestQ := s.boot.attestQ ++ [(BitVec.ofNat 8 s.ev.vf, s.ev.wide)] } }

/-- Bytes 0-223 of a report (R403 Table 3). -/
def State.reportBody (s : State) (vf : BitVec 8) (nonce : BitVec 256) : BitVec 1792 :=
  let ide := BitVec.ofNat 64 (bit s.boot.ideMem * 2 + bit s.boot.ideIo)
  ide ++ s.now ++ s.boot.rollback ++ (s.vf vf.toNat).pluginDigest ++ s.boot.digests ++ nonce ++ vf.setWidth 32 ++ 1#32

/-- ATTESTATION_REPORT (R403): the security core answers the request served with its signed report (R361). -/
def execAttestationReport (s : State) : Out :=
  .next (if !(s.fwRuns 3) then s else match s.boot.attestQ with
    | [] => s
    | (vf, nonce) :: r =>
      let body := s.reportBody vf nonce
      { s with boot := { s.boot with attestQ := r, reports := s.boot.reports ++ [(vf, body, Config.signature body)] } })

/-! ### Errors and heat (R405, R407) -/

/-- Every admitted launch is cancelled with CAUSE 1. -/
def State.cancelEvery (s : State) : State := s.cancelLaunches ((s.launches.filter fun l => l.stage = .admitted).map fun l => l.id) 1

/-- FUSE_ERROR (R405): FAIL becomes 1 and READY 0, admitted launches are cancelled, and admission stops. -/
def execFuseError (s : State) : Out := .next ({ s with boot := { s.boot with fail := 1, ready := false } } : State).cancelEvery

/-- The device trips: every launch is cancelled and recorded, every context stops, and the dies lose power (R407). -/
def State.trip (s : State) : State :=
  let s1 := s.cancelEvery
  let s2 := s1.launches.foldl (fun t l => if l.stage = .cancelled then t.recordOf l else t) s1
  { s2 with cores := [], frames := [], boot := { s2.boot with powered := false, ready := false } }

/-- THERMAL_SAMPLE (R407): die q is at n °C. -/
def execThermalSample (s : State) : Out :=
  let q := s.ev.q
  let t := s.ev.n
  let was := (s.boot.hot.toList[q]?).getD false
  let now := 105 ≤ t || (was && 100 ≤ t)
  let hot := vmapI (fun i h => if i = q then now else h) s.boot.hot
  let s1 : State := { s with boot := { s.boot with
    temp := vmapI (fun i k => if i = q then t else k) s.boot.temp, hot := hot, thr := hot.toList.any id } }
  let s2 := if was = now then s1
    else (s1.vfs.filter fun v => v.2.live).foldl (fun a v =>
      a.trace v.1 ⟨0x10, 8, 0x7FF, 0, if now then 6 else 7, 0, false, 0, 0, t % 256 * 2 ^ 40 + q⟩) s1
  .next (if 115 ≤ t then s2.trip else s2)

end Sys2Proof.Machine
end

