-- ==== Sys2Proof/Machine/Dispatch.lean ====
section
/-! DEFINITION. Which meaning each row of the table has (95_what_each_step_holds): one arm per constructor. -/

namespace Sys2Proof.Machine

def exec (i : Instr) (s : State) : Host.Outcome State Fault Refusal :=
  match i with
  | .nop t yi => Sys2Proof.Machine.execNop t yi s
  | .br t yi o => Sys2Proof.Machine.execBr t yi o s
  | .brt t yi n => Sys2Proof.Machine.execBrt t yi n s
  | .mbr t yi b => Sys2Proof.Machine.execMbr t yi b s
  | .call t yi o => Sys2Proof.Machine.execCall t yi o s
  | .ret t yi => Sys2Proof.Machine.execRet t yi s
  | .loopReg t yi n c e => Sys2Proof.Machine.execLoopReg t yi n c e s
  | .loopImm t yi n c e => Sys2Proof.Machine.execLoopImm t yi n c e s
  | .lbrk t yi n => Sys2Proof.Machine.execLbrk t yi n s
  | .tgsetLabel t yi n o => Sys2Proof.Machine.execTgsetLabel t yi n o s
  | .tgsetReg t yi n a => Sys2Proof.Machine.execTgsetReg t yi n a s
  | .idle t yi m => Sys2Proof.Machine.execIdle t yi m s
  | .cqclr t yi => Sys2Proof.Machine.execCqclr t yi s
  | .wfe t yi => Sys2Proof.Machine.execWfe t yi s
  | .sev t yi m => Sys2Proof.Machine.execSev t yi m s
  | .yield t yi => Sys2Proof.Machine.execYield t yi s
  | .launch t yi d a => Sys2Proof.Machine.execLaunch t yi d a s
  | .retire t yi => Sys2Proof.Machine.execRetire t yi s
  | .xdisp t yi d a => Sys2Proof.Machine.execXdisp t yi d a s
  | .trap t yi m => Sys2Proof.Machine.execTrap t yi m s
  | .eret t yi => Sys2Proof.Machine.execEret t yi s
  | .csrr t yi d c => Sys2Proof.Machine.execCsrr t yi d c s
  | .csrw t yi a c => Sys2Proof.Machine.execCsrw t yi a c s
  | .bkpt t yi m => Sys2Proof.Machine.execBkpt t yi m s
  | .segld t yi n => Sys2Proof.Machine.execSegld t yi n s
  | .cancel t yi l a => Sys2Proof.Machine.execCancel t yi l a s
  | .add t yi d a b => Sys2Proof.Machine.execAdd t yi d a b s
  | .sub t yi d a b => Sys2Proof.Machine.execSub t yi d a b s
  | .mul t yi d a b => Sys2Proof.Machine.execMul t yi d a b s
  | .mulh t yi d a b => Sys2Proof.Machine.execMulh t yi d a b s
  | .mulhu t yi d a b => Sys2Proof.Machine.execMulhu t yi d a b s
  | .div t yi d a b => Sys2Proof.Machine.execDiv t yi d a b s
  | .divu t yi d a b => Sys2Proof.Machine.execDivu t yi d a b s
  | .rem t yi d a b => Sys2Proof.Machine.execRem t yi d a b s
  | .remu t yi d a b => Sys2Proof.Machine.execRemu t yi d a b s
  | .and t yi d a b => Sys2Proof.Machine.execAnd t yi d a b s
  | .or t yi d a b => Sys2Proof.Machine.execOr t yi d a b s
  | .xor t yi d a b => Sys2Proof.Machine.execXor t yi d a b s
  | .shl t yi d a b => Sys2Proof.Machine.execShl t yi d a b s
  | .shr t yi d a b => Sys2Proof.Machine.execShr t yi d a b s
  | .sar t yi d a b => Sys2Proof.Machine.execSar t yi d a b s
  | .rot t yi d a b => Sys2Proof.Machine.execRot t yi d a b s
  | .min t yi d a b => Sys2Proof.Machine.execMin t yi d a b s
  | .max t yi d a b => Sys2Proof.Machine.execMax t yi d a b s
  | .minu t yi d a b => Sys2Proof.Machine.execMinu t yi d a b s
  | .maxu t yi d a b => Sys2Proof.Machine.execMaxu t yi d a b s
  | .clz t yi d a => Sys2Proof.Machine.execClz t yi d a s
  | .ctz t yi d a => Sys2Proof.Machine.execCtz t yi d a s
  | .popc t yi d a => Sys2Proof.Machine.execPopc t yi d a s
  | .sext t yi d a w => Sys2Proof.Machine.execSext t yi d a w s
  | .zext t yi d a w => Sys2Proof.Machine.execZext t yi d a w s
  | .addi t yi d a m => Sys2Proof.Machine.execAddi t yi d a m s
  | .andi t yi d a m => Sys2Proof.Machine.execAndi t yi d a m s
  | .ori t yi d a m => Sys2Proof.Machine.execOri t yi d a m s
  | .xori t yi d a m => Sys2Proof.Machine.execXori t yi d a m s
  | .shli t yi d a z => Sys2Proof.Machine.execShli t yi d a z s
  | .shri t yi d a z => Sys2Proof.Machine.execShri t yi d a z s
  | .sari t yi d a z => Sys2Proof.Machine.execSari t yi d a z s
  | .li t yi d m => Sys2Proof.Machine.execLi t yi d m s
  | .lih t yi d m => Sys2Proof.Machine.execLih t yi d m s
  | .cmp t yi a b c => Sys2Proof.Machine.execCmp t yi a b c s
  | .cmpi t yi c a m => Sys2Proof.Machine.execCmpi t yi c a m s
  | .sel t yi d a b c => Sys2Proof.Machine.execSel t yi d a b c s
  | .agset t yi n a f => Sys2Proof.Machine.execAgset t yi n a f s
  | .agstep t yi n a => Sys2Proof.Machine.execAgstep t yi n a s
  | .agrd t yi d n f => Sys2Proof.Machine.execAgrd t yi d n f s
  | .cqpush t yi a => Sys2Proof.Machine.execCqpush t yi a s
  | .vaddVa t yi d a b h k l => Sys2Proof.Machine.execVaddVa t yi d a b h k l s
  | .vsubVa t yi d a b h k l => Sys2Proof.Machine.execVsubVa t yi d a b h k l s
  | .vmulVa t yi d a b h k l => Sys2Proof.Machine.execVmulVa t yi d a b h k l s
  | .vfmaVa t yi d a b h k l => Sys2Proof.Machine.execVfmaVa t yi d a b h k l s
  | .vfms t yi d a b h k l => Sys2Proof.Machine.execVfms t yi d a b h k l s
  | .vminVa t yi d a b h k l => Sys2Proof.Machine.execVminVa t yi d a b h k l s
  | .vmaxVa t yi d a b h k l => Sys2Proof.Machine.execVmaxVa t yi d a b h k l s
  | .vabs t yi d a h k l => Sys2Proof.Machine.execVabs t yi d a h k l s
  | .vneg t yi d a h k l => Sys2Proof.Machine.execVneg t yi d a h k l s
  | .vand t yi d a b h k l => Sys2Proof.Machine.execVand t yi d a b h k l s
  | .vor t yi d a b h k l => Sys2Proof.Machine.execVor t yi d a b h k l s
  | .vxor t yi d a b h k l => Sys2Proof.Machine.execVxor t yi d a b h k l s
  | .vnot t yi d a h k l => Sys2Proof.Machine.execVnot t yi d a h k l s
  | .vshl t yi d a b h k l => Sys2Proof.Machine.execVshl t yi d a b h k l s
  | .vshr t yi d a b h k l => Sys2Proof.Machine.execVshr t yi d a b h k l s
  | .vsar t yi d a b h k l => Sys2Proof.Machine.execVsar t yi d a b h k l s
  | .vcmp t yi c a b h e l => Sys2Proof.Machine.execVcmp t yi c a b h e l s
  | .vsel t yi d a b h k l => Sys2Proof.Machine.execVsel t yi d a b h k l s
  | .vcvt t yi d a y h r => Sys2Proof.Machine.execVcvt t yi d a y h r s
  | .vmov t yi d a h k l => Sys2Proof.Machine.execVmov t yi d a h k l s
  | .vbcast t yi d a h k l => Sys2Proof.Machine.execVbcast t yi d a h k l s
  | .vli t yi d m => Sys2Proof.Machine.execVli t yi d m s
  | .vshape t yi n a => Sys2Proof.Machine.execVshape t yi n a s
  | .vrlen t yi a h => Sys2Proof.Machine.execVrlen t yi a h s
  | .vbmm t yi d a b h k l => Sys2Proof.Machine.execVbmm t yi d a b h k l s
  | .vsat t yi d a b h o l => Sys2Proof.Machine.execVsat t yi d a b h o l s
  | .vclamp t yi d a b h k l => Sys2Proof.Machine.execVclamp t yi d a b h k l s
  | .vany t yi h k l => Sys2Proof.Machine.execVany t yi h k l s
  | .vall t yi h k l => Sys2Proof.Machine.execVall t yi h k l s
  | .kop t yi c e f o => Sys2Proof.Machine.execKop t yi c e f o s
  | .vacrVaImm t yi d b x => Sys2Proof.Machine.execVacrVaImm t yi d b x s
  | .vacrVaReg t yi d b z => Sys2Proof.Machine.execVacrVaReg t yi d b z s
  | .vacwVaImm t yi a b x => Sys2Proof.Machine.execVacwVaImm t yi a b x s
  | .vacwVaReg t yi a b z => Sys2Proof.Machine.execVacwVaReg t yi a b z s
  | .vext t yi d a b m => Sys2Proof.Machine.execVext t yi d a b m s
  | .vaddVb t yi d a b h k l => Sys2Proof.Machine.execVaddVb t yi d a b h k l s
  | .vsubVb t yi d a b h k l => Sys2Proof.Machine.execVsubVb t yi d a b h k l s
  | .vmulVb t yi d a b h k l => Sys2Proof.Machine.execVmulVb t yi d a b h k l s
  | .vfmaVb t yi d a b h k l => Sys2Proof.Machine.execVfmaVb t yi d a b h k l s
  | .vminVb t yi d a b h k l => Sys2Proof.Machine.execVminVb t yi d a b h k l s
  | .vmaxVb t yi d a b h k l => Sys2Proof.Machine.execVmaxVb t yi d a b h k l s
  | .vexp2 t yi d a h k l => Sys2Proof.Machine.execVexp2 t yi d a h k l s
  | .vlog2 t yi d a h k l => Sys2Proof.Machine.execVlog2 t yi d a h k l s
  | .vrcp t yi d a h k l => Sys2Proof.Machine.execVrcp t yi d a h k l s
  | .vrsqrt t yi d a h k l => Sys2Proof.Machine.execVrsqrt t yi d a h k l s
  | .vsqrt t yi d a h k l => Sys2Proof.Machine.execVsqrt t yi d a h k l s
  | .vdiv t yi d a b h k l => Sys2Proof.Machine.execVdiv t yi d a b h k l s
  | .vtanh t yi d a h k l => Sys2Proof.Machine.execVtanh t yi d a h k l s
  | .vsigm t yi d a h k l => Sys2Proof.Machine.execVsigm t yi d a h k l s
  | .vrsum t yi d a h k l => Sys2Proof.Machine.execVrsum t yi d a h k l s
  | .vrmax t yi d a h k l => Sys2Proof.Machine.execVrmax t yi d a h k l s
  | .vrmin t yi d a h k l => Sys2Proof.Machine.execVrmin t yi d a h k l s
  | .vargmax t yi d a h k l => Sys2Proof.Machine.execVargmax t yi d a h k l s
  | .vscan t yi d a h k l => Sys2Proof.Machine.execVscan t yi d a h k l s
  | .vperm t yi d a b h k l => Sys2Proof.Machine.execVperm t yi d a b h k l s
  | .vtrans t yi d a h => Sys2Proof.Machine.execVtrans t yi d a h s
  | .vcompact t yi d a h k => Sys2Proof.Machine.execVcompact t yi d a h k s
  | .vexpand t yi d a h k => Sys2Proof.Machine.execVexpand t yi d a h k s
  | .vrot t yi d a b h k => Sys2Proof.Machine.execVrot t yi d a b h k s
  | .vacrVbImm t yi d b x => Sys2Proof.Machine.execVacrVbImm t yi d b x s
  | .vacrVbReg t yi d b z => Sys2Proof.Machine.execVacrVbReg t yi d b z s
  | .vacwVbImm t yi a b x => Sys2Proof.Machine.execVacwVbImm t yi a b x s
  | .vacwVbReg t yi a b z => Sys2Proof.Machine.execVacwVbReg t yi a b z s
  | .vround t yi d a h k l => Sys2Proof.Machine.execVround t yi d a h k l s
  | .mcall t yi m d a e f => Sys2Proof.Machine.execMcall t yi m d a e f s
  | .mpset t yi n a => Sys2Proof.Machine.execMpset t yi n a s
  | .mpget t yi d n => Sys2Proof.Machine.execMpget t yi d n s
  | .mload t yi a => Sys2Proof.Machine.execMload t yi a s
  | .aclass t yi n c => Sys2Proof.Machine.execAclass t yi n c s
  | .aclr t yi n => Sys2Proof.Machine.execAclr t yi n s
  | .acmv t yi d z m => Sys2Proof.Machine.execAcmv t yi d z m s
  | .mwaitAll t yi => Sys2Proof.Machine.execMwaitAll t yi s
  | .mwaitBank t yi n => Sys2Proof.Machine.execMwaitBank t yi n s
  | .sqclr t yi m => Sys2Proof.Machine.execSqclr t yi m s
  | .ftset t yi n a => Sys2Proof.Machine.execFtset t yi n a s
  | .ftsel t yi l => Sys2Proof.Machine.execFtsel t yi l s
  | .finit t yi n a => Sys2Proof.Machine.execFinit t yi n a s
  | .fins t yi n a b => Sys2Proof.Machine.execFins t yi n a b s
  | .fmrg t yi d z => Sys2Proof.Machine.execFmrg t yi d z s
  | .frd t yi d n a => Sys2Proof.Machine.execFrd t yi d n a s
  | .fcnt t yi d n z => Sys2Proof.Machine.execFcnt t yi d n z s
  | .fclr t yi n => Sys2Proof.Machine.execFclr t yi n s
  | .tallocImm t yi x a c => Sys2Proof.Machine.execTallocImm t yi x a c s
  | .tallocReg t yi x a b => Sys2Proof.Machine.execTallocReg t yi x a b s
  | .tld t yi x r d p => Sys2Proof.Machine.execTld t yi x r d p s
  | .tst t yi x a p => Sys2Proof.Machine.execTst t yi x a p s
  | .tcntImm t yi x m => Sys2Proof.Machine.execTcntImm t yi x m s
  | .tcntReg t yi x a => Sys2Proof.Machine.execTcntReg t yi x a s
  | .tdrop t yi x => Sys2Proof.Machine.execTdrop t yi x s
  | .tparkTile t yi x => Sys2Proof.Machine.execTparkTile t yi x s
  | .tparkReg t yi a => Sys2Proof.Machine.execTparkReg t yi a s
  | .tunparkTile t yi x => Sys2Proof.Machine.execTunparkTile t yi x s
  | .tunparkReg t yi a => Sys2Proof.Machine.execTunparkReg t yi a s
  | .tstat t yi x d => Sys2Proof.Machine.execTstat t yi x d s
  | .tplane t yi d z r => Sys2Proof.Machine.execTplane t yi d z r s
  | .hbind t yi m n c => Sys2Proof.Machine.execHbind t yi m n c s
  | .hadvp t yi n c => Sys2Proof.Machine.execHadvp t yi n c s
  | .hadvc t yi n c => Sys2Proof.Machine.execHadvc t yi n c s
  | .qbind t yi h q => Sys2Proof.Machine.execQbind t yi h q s
  | .qbindUnbind t yi q => Sys2Proof.Machine.execQbindUnbind t yi q s
  | .sqld t yi x r z p => Sys2Proof.Machine.execSqld t yi x r z p s
  | .tshare t yi x => Sys2Proof.Machine.execTshare t yi x s
  | .tlw t yi x r d a => Sys2Proof.Machine.execTlw t yi x r d a s
  | .tsw t yi x a b => Sys2Proof.Machine.execTsw t yi x a b s
  | .tatom t yi x o d a => Sys2Proof.Machine.execTatom t yi x o d a s
  | .tquota t yi c a => Sys2Proof.Machine.execTquota t yi c a s
  | .cld t yi x r d c => Sys2Proof.Machine.execCld t yi x r d c s
  | .cst t yi x a c => Sys2Proof.Machine.execCst t yi x a c s
  | .ccopy t yi x r c => Sys2Proof.Machine.execCcopy t yi x r c s
  | .ccnt t yi x a c => Sys2Proof.Machine.execCcnt t yi x a c s
  | .clw t yi x r d c => Sys2Proof.Machine.execClw t yi x r d c s
  | .csw t yi x b c => Sys2Proof.Machine.execCsw t yi x b c s
  | .catom t yi x o d a => Sys2Proof.Machine.execCatom t yi x o d a s
  | .binitImm t yi n m => Sys2Proof.Machine.execBinitImm t yi n m s
  | .binitReg t yi n a => Sys2Proof.Machine.execBinitReg t yi n a s
  | .barv t yi n => Sys2Proof.Machine.execBarv t yi n s
  | .barvRemote t yi n c => Sys2Proof.Machine.execBarvRemote t yi n c s
  | .bwait t yi n => Sys2Proof.Machine.execBwait t yi n s
  | .bexp t yi n a => Sys2Proof.Machine.execBexp t yi n a s
  | .btry t yi n => Sys2Proof.Machine.execBtry t yi n s
  | .csev t yi c m => Sys2Proof.Machine.execCsev t yi c m s
  | .gls t yi d e y => Sys2Proof.Machine.execGls t yi d e y s
  | .gss t yi a e y => Sys2Proof.Machine.execGss t yi a e y s
  | .gvst t yi a e => Sys2Proof.Machine.execGvst t yi a e s
  | .gfetchImm t yi x n c p => Sys2Proof.Machine.execGfetchImm t yi x n c p s
  | .gfetchReg t yi x n c p => Sys2Proof.Machine.execGfetchReg t yi x n c p s
  | .ggather t yi x n j => Sys2Proof.Machine.execGgather t yi x n j s
  | .gscatter t yi x n j r => Sys2Proof.Machine.execGscatter t yi x n j r s
  | .gstore t yi x n r p => Sys2Proof.Machine.execGstore t yi x n r p s
  | .gcopy t yi d z l p => Sys2Proof.Machine.execGcopy t yi d z l p s
  | .gatom t yi d e a o z => Sys2Proof.Machine.execGatom t yi d e a o z s
  | .gcas t yi d e a z => Sys2Proof.Machine.execGcas t yi d e a z s
  | .gwait t yi f v => Sys2Proof.Machine.execGwait t yi f v s
  | .gacq t yi f z => Sys2Proof.Machine.execGacq t yi f z s
  | .grel t yi f z => Sys2Proof.Machine.execGrel t yi f z s
  | .gbind t yi r l f => Sys2Proof.Machine.execGbind t yi r l f s
  | .gunbind t yi r f => Sys2Proof.Machine.execGunbind t yi r f s
  | .gqfence t yi m => Sys2Proof.Machine.execGqfence t yi m s
  | .gsluicePromote t yi a p => Sys2Proof.Machine.execGsluicePromote t yi a p s
  | .gsluicePromoteX t yi a p => Sys2Proof.Machine.execGsluicePromoteX t yi a p s
  | .gsluiceRelease t yi a p => Sys2Proof.Machine.execGsluiceRelease t yi a p s
  | .gskimSelect t yi a p => Sys2Proof.Machine.execGskimSelect t yi a p s
  | .gskimBiasw t yi a p => Sys2Proof.Machine.execGskimBiasw t yi a p s
  | .gskimEpoch t yi a p => Sys2Proof.Machine.execGskimEpoch t yi a p s
  | .gcollAllreduce t yi a p => Sys2Proof.Machine.execGcollAllreduce t yi a p s
  | .gcollReducescatter t yi a p => Sys2Proof.Machine.execGcollReducescatter t yi a p s
  | .gcollAllgather t yi a p => Sys2Proof.Machine.execGcollAllgather t yi a p s
  | .gcollBroadcast t yi a p => Sys2Proof.Machine.execGcollBroadcast t yi a p s
  | .gsendData t yi a p => Sys2Proof.Machine.execGsendData t yi a p s
  | .gsendLaunch t yi a p => Sys2Proof.Machine.execGsendLaunch t yi a p s
  | .grecv t yi a p => Sys2Proof.Machine.execGrecv t yi a p s
  | .gpref t yi e l => Sys2Proof.Machine.execGpref t yi e l s
  | .gtlbi t yi a b m => Sys2Proof.Machine.execGtlbi t yi a b m s
  | .rwLda => Sys2Proof.Machine.execRwLda s
  | .rwLdb => Sys2Proof.Machine.execRwLdb s
  | .rwStep => Sys2Proof.Machine.execRwStep s
  | .rwSkip tgt => Sys2Proof.Machine.execRwSkip tgt s
  | .rwSpop => Sys2Proof.Machine.execRwSpop s
  | .rwProm tr => Sys2Proof.Machine.execRwProm tr s
  | .rwKadv => Sys2Proof.Machine.execRwKadv s
  | .rwJmore tgt => Sys2Proof.Machine.execRwJmore tgt s
  | .rwBwr e => Sys2Proof.Machine.execRwBwr e s
  | .rwEnd => Sys2Proof.Machine.execRwEnd s
  | .bundleIssue => Sys2Proof.Machine.execBundleIssue s
  | .computeResultLand => Sys2Proof.Machine.execComputeResultLand s
  | .globalLoadReturn => Sys2Proof.Machine.execGlobalLoadReturn s
  | .idleExpire => Sys2Proof.Machine.execIdleExpire s
  | .forcedSwitch => Sys2Proof.Machine.execForcedSwitch s
  | .segmentCopyComplete => Sys2Proof.Machine.execSegmentCopyComplete s
  | .launchAnswer => Sys2Proof.Machine.execLaunchAnswer s
  | .retireComplete => Sys2Proof.Machine.execRetireComplete s
  | .killed => Sys2Proof.Machine.execKilled s
  | .watchdog => Sys2Proof.Machine.execWatchdog s
  | .storeFull => Sys2Proof.Machine.execStoreFull s
  | .overrunCrossing => Sys2Proof.Machine.execOverrunCrossing s
  | .overrun => Sys2Proof.Machine.execOverrun s
  | .late => Sys2Proof.Machine.execLate s
  | .unitPlace => Sys2Proof.Machine.execUnitPlace s
  | .preempt => Sys2Proof.Machine.execPreempt s
  | .frameWritten => Sys2Proof.Machine.execFrameWritten s
  | .unitResume => Sys2Proof.Machine.execUnitResume s
  | .preemptedCommandFault => Sys2Proof.Machine.execPreemptedCommandFault s
  | .translationWalkDone => Sys2Proof.Machine.execTranslationWalkDone s
  | .pageFaultResolved => Sys2Proof.Machine.execPageFaultResolved s
  | .commandStart => Sys2Proof.Machine.execCommandStart s
  | .copyEngineLine => Sys2Proof.Machine.execCopyEngineLine s
  | .commandComplete => Sys2Proof.Machine.execCommandComplete s
  | .invalidation => Sys2Proof.Machine.execInvalidation s
  | .invalidationComplete => Sys2Proof.Machine.execInvalidationComplete s
  | .gwaitReread => Sys2Proof.Machine.execGwaitReread s
  | .parkComplete => Sys2Proof.Machine.execParkComplete s
  | .unparkComplete => Sys2Proof.Machine.execUnparkComplete s
  | .storeErrorUncorrectable => Sys2Proof.Machine.execStoreErrorUncorrectable s
  | .softErrorCorrected => Sys2Proof.Machine.execSoftErrorCorrected s
  | .retentionEnter => Sys2Proof.Machine.execRetentionEnter s
  | .retentionEntryDone => Sys2Proof.Machine.execRetentionEntryDone s
  | .retentionExitDone => Sys2Proof.Machine.execRetentionExitDone s
  | .matrixOpStart => Sys2Proof.Machine.execMatrixOpStart s
  | .matrixCallComplete => Sys2Proof.Machine.execMatrixCallComplete s
  | .matrixOpComplete => Sys2Proof.Machine.execMatrixOpComplete s
  | .mloadInstall => Sys2Proof.Machine.execMloadInstall s
  | .frontOpStart => Sys2Proof.Machine.execFrontOpStart s
  | .frontInsert => Sys2Proof.Machine.execFrontInsert s
  | .admissionTest => Sys2Proof.Machine.execAdmissionTest s
  | .signalRecheck => Sys2Proof.Machine.execSignalRecheck s
  | .launchComplete => Sys2Proof.Machine.execLaunchComplete s
  | .queueEntryFetch => Sys2Proof.Machine.execQueueEntryFetch s
  | .map => Sys2Proof.Machine.execMap s
  | .unmap => Sys2Proof.Machine.execUnmap s
  | .switch => Sys2Proof.Machine.execSwitch s
  | .allWaiting => Sys2Proof.Machine.execAllWaiting s
  | .partitionMove => Sys2Proof.Machine.execPartitionMove s
  | .pluginCall => Sys2Proof.Machine.execPluginCall s
  | .pluginTimeout => Sys2Proof.Machine.execPluginTimeout s
  | .firmwareCoreReset => Sys2Proof.Machine.execFirmwareCoreReset s
  | .tail => Sys2Proof.Machine.execTail s
  | .enSet => Sys2Proof.Machine.execEnSet s
  | .enClear => Sys2Proof.Machine.execEnClear s
  | .phase => Sys2Proof.Machine.execPhase s
  | .job => Sys2Proof.Machine.execJob s
  | .registerWrite => Sys2Proof.Machine.execRegisterWrite s
  | .hostSnoop => Sys2Proof.Machine.execHostSnoop s
  | .hostMemAccess => Sys2Proof.Machine.execHostMemAccess s
  | .ideIntegrityFail => Sys2Proof.Machine.execIdeIntegrityFail s
  | .launchFlit => Sys2Proof.Machine.execLaunchFlit s
  | .sendFlit => Sys2Proof.Machine.execSendFlit s
  | .collFlit => Sys2Proof.Machine.execCollFlit s
  | .abortFlit => Sys2Proof.Machine.execAbortFlit s
  | .timeFlit => Sys2Proof.Machine.execTimeFlit s
  | .creditFlit => Sys2Proof.Machine.execCreditFlit s
  | .answerFlit => Sys2Proof.Machine.execAnswerFlit s
  | .linkLevelRetry => Sys2Proof.Machine.execLinkLevelRetry s
  | .promoteCopyComplete => Sys2Proof.Machine.execPromoteCopyComplete s
  | .stripeUncorrectable => Sys2Proof.Machine.execStripeUncorrectable s
  | .promoteNospace => Sys2Proof.Machine.execPromoteNospace s
  | .leaveComplete => Sys2Proof.Machine.execLeaveComplete s
  | .fenChannelDown => Sys2Proof.Machine.execFenChannelDown s
  | .skimRow => Sys2Proof.Machine.execSkimRow s
  | .skimEpochDequeue => Sys2Proof.Machine.execSkimEpochDequeue s
  | .debugSlotWrite => Sys2Proof.Machine.execDebugSlotWrite s
  | .halt => Sys2Proof.Machine.execHalt s
  | .resume => Sys2Proof.Machine.execResume s
  | .dctlStep => Sys2Proof.Machine.execDctlStep s
  | .snap => Sys2Proof.Machine.execSnap s
  | .liveStateWrite => Sys2Proof.Machine.execLiveStateWrite s
  | .tenSet => Sys2Proof.Machine.execTenSet s
  | .sample => Sys2Proof.Machine.execSample s
  | .replayRequest => Sys2Proof.Machine.execReplayRequest s
  | .powerOn => Sys2Proof.Machine.execPowerOn s
  | .commit => Sys2Proof.Machine.execCommit s
  | .attestationRequest => Sys2Proof.Machine.execAttestationRequest s
  | .fuseError => Sys2Proof.Machine.execFuseError s
  | .thermalSample => Sys2Proof.Machine.execThermalSample s
  | .storePerformed => Sys2Proof.Machine.execStorePerformed s
  | .peerRequest => Sys2Proof.Machine.execPeerRequest s
  | .functionCreate => Sys2Proof.Machine.execFunctionCreate s
  | .functionDestroy => Sys2Proof.Machine.execFunctionDestroy s
  | .weightObjectRegister => Sys2Proof.Machine.execWeightObjectRegister s
  | .fenRangeAssign => Sys2Proof.Machine.execFenRangeAssign s
  | .attestationReport => Sys2Proof.Machine.execAttestationReport s
  | .firmwareUncorrectableError => Sys2Proof.Machine.execFirmwareUncorrectableError s
  | .pluginLoad => Sys2Proof.Machine.execPluginLoad s
  | .debuggerEventSet => Sys2Proof.Machine.execDebuggerEventSet s
  | .ideKeySet => Sys2Proof.Machine.execIdeKeySet s

end Sys2Proof.Machine
end

