-- ==== Sys2Proof/Machine/Run.lean ====
section
/-! DEFINITION. How the agents run the instructions of a program: the compute words of an issuing bundle, the head of a memory stream, and the
matrix engine's next routine word (R37-R39, R44, R45, R231, R395, R401). -/

namespace Sys2Proof.Machine

/-! ### The compute words of a bundle (R37) -/

/-- The state at which a compute word of the issuing bundle executes. -/
def State.atWord (s : State) (w : IssueWord) : State :=
  { s with cur := { s.cur with slot := w.slot, tok := w.tok, cqTok := w.cqTok, raw := w.word } }

/-- The words execute in slot order, then the cycle ends. A context that ended in its own bundle issues no more of it. -/
def State.runWords : List IssueWord → State → Out
  | [], s => .next (if s.issuing then s.endIssue else s.tick s.cur.core)
  | w :: r, s =>
    if !s.issuing then .next (s.tick s.cur.core)
    else match decodeRaw w.slot w.word with
      | none => .refused .undecodable
      | some i =>
        match exec i (s.atWord w) with
        | .next t => State.runWords r t
        | o => o

/-! ### A memory stream (R38, R39, R45) -/

/-- The head of a stream is held, or is performed, its tile accesses in their turn (R38, R44, R45, R160, R163, R170). -/
def State.runStream (s : State) (c : Nat) (x : CtxId) (m : Fin 3) : Out :=
  let cx := s.ctx c x
  if !cx.flows then .next s
  else match cx.stream m with
    | [] => .next s
    | w :: r =>
      match decodeRaw w.slot w.word with
      | none => .refused .undecodable
      | some i =>
        let at_ := if isCreate w then [] else s.reaches c x w
        let place := accessPlace c x m
        if (s.core c).headHeld c x w || cx.readsFull m i || place.any (s.outOfOrder at_) then
          .next (s.modCtx c x fun k => { k with sw := vset k.sw m .stall })
        else match exec i (s.atHead c x m w r) with
          | .next t => .next (s.outcome (t.servedWord s c x m w at_) c x m w)
          | o => o

/-! ### The matrix engine (R231) -/

/-- The engine executes the word at its call's position once the word before it is done (R223, R232); beyond the last word the call ends in a routine error
(R233). At the boundary where a pre-emption stops it the call leaves instead (R235). A word whose inputs a log has no room for waits (R395). -/
def State.runEngine (s : State) (c : Nat) : Out :=
  let s1 : State := { s with cur := { s.cur with core := c } }
  match s1.here.call with
  | none => .next s
  | some a =>
    match s1.callLeaves c a, s1.engineWord with
    | some x, _ => .next (s1.withdraw c x)
    | none, none => .next (if s1.here.cyc < a.ready then s else s1.routineError a)
    | none, some w =>
      match decodeRoutine w with
      | none => .refused .undecodable
      | some i =>
        if s1.here.cyc < a.ready then .next s
        else match exec i s1 with
          | .next t => .next (if s.logsOver t then s else t)
          | o => o

/-! ### Rows -/

/-- A row that happens at the device, rather than a word of a program. -/
def isEvent (i : Instr) : Bool := (slotOf i).isNone && (encodeRoutine i).isNone

/-- A row happens with the world's data: a bundle that issues runs its words in the same cycle. What writes more into a log than it has room for does not happen
yet (R395, R397). -/
def State.runRow (s : State) (i : Instr) (a : Args) : Out :=
  if !(isEvent i) then .refused .undecodable
  else match exec i { s with ev := a } with
    | .next t => if t.issuing then State.runWords t.words t else .next (if s.logsOver t then s else t)
    | o => o

/-- The boot stopped at a step that failed: the device offers its configuration space and the boot status register alone, until it is powered on anew
(R401). -/
def Boot.failed (b : Boot) : Bool := b.fail != 0 && b.stp != 6

/-- The one row that starts a device (R401). -/
def isPowerOn : Move → Bool
  | .row .powerOn _ => true
  | _ => false

/-- One move of the device; after a boot that failed none happens but POWER_ON (R401). -/
def State.run (s : State) (m : Move) : Out :=
  if s.boot.failed && !(isPowerOn m) then .next s
  else match m with
    | .row i a => s.runRow i a
    | .stream c x m => s.runStream c x m
    | .engine c => s.runEngine c

end Sys2Proof.Machine
end

