-- ==== Sys2Proof/Machine/Place.lean ====
section
/-! DEFINITION. Placing one instruction where the next step runs it: what stands in for the placement of a unit and the loading of its image. -/

namespace Sys2Proof.Machine

/-- The header under which a word of a slot executes: NT and leaf for its TAG, and loop level 0 (R28, R33). -/
def headerFor (slot : Nat) (w : W32) : W32 :=
  let t := (tagOf w).toNat
  encodeHeader ⟨0, false, false, BitVec.ofNat 3 (if t ≤ 3 then t + 1 else if t = 5 then 1 else 0), false, false, 0, BitVec.ofNat 8 (2 ^ slot)⟩

/-- The condition entries that lead to a leaf the word's TAG accepts. -/
def entriesFor (w : W32) : List CqEntry :=
  let t := (tagOf w).toNat
  if t ≤ 3 then ((List.range t).map fun n => (⟨n, some false⟩ : CqEntry)) ++ [⟨t, some true⟩]
  else if t = 5 then [⟨0, some true⟩] else []

/-- A loop level in an iteration that the word's IT accepts: the only one, or the second of three. -/
def loopFor (w : W32) : Loop :=
  match (itOf w).toNat with
  | 0 => Loop.off
  | 3 => ⟨true, 3, 1, 0, 0x1000⟩
  | _ => ⟨true, 1, 0, 0, 0x1000⟩

/-- A context that holds a unit whose code is the word's bundle at address 0. -/
def unitFor (slot : Nat) (w : W32) : Ctx :=
  { Ctx.reset with
    st := .issuing, segs := [(0, 0x4000)], half0 := some ⟨0, true, [headerFor slot w, w]⟩, cq := entriesFor w, tokCtr := 8
    loops := Ctx.reset.loops.set 0 (loopFor w) }

/-- A call of the launch's routine 64, which is the word. -/
def callFor (w : W64) : Core :=
  let op : MOp :=
    { kind := .call, seq := 0, x := 0, launch := 0, unit := 0, org := Org.zero, mp := Vector.replicate 8 0, d := 0, src := 0, mode := 0, idx := 64
      na := false, nega := false, negb := false, ft := 0, ta := none, tb := none, addr := 0, after := 0 }
  { Core.reset with
    rts := [⟨0, 64, [w]⟩]
    call := some
      { op := op, par := op.par none none, pos := 0, group := 0, first := true, inner := [0], aSl := none, bSl := none, stepped := false
        popped := false, promoted := false, ckA := false, ckB := false, atA := none, atB := none, scA := 0, scB := 0, tr := none, kadv := false, bwrDone := false, causes := 0, steps := 0, epi := none, ready := 0
        doneAt := 0 } }

/-- An instruction placed at core 0, context 0 of a powered device, and the move that runs it. -/
def State.placeWord (s : State) (nbits w : Nat) : State :=
  let on : State := { s with boot := { s.boot with powered := true }, issuing := false }
  if nbits = 64 then { on.setCore 0 (callFor (BitVec.ofNat 64 w)) with sched := [.engine 0] }
  else
    let x : W32 := BitVec.ofNat 32 w
    match firstSlot x 8 0 with
    | none => { on with sched := [.row .bundleIssue { Args.zero with c := 0 }] }.setCore 0 { (on.core 0).setCtx 0 (unitFor 0 x) with cur := some 0 }
    | some (slot, _) =>
      let cx := unitFor slot x
      if slot < 5 then
        { on with sched := [.row .bundleIssue { Args.zero with c := 0 }] }.setCore 0 { (on.core 0).setCtx 0 cx with cur := some 0 }
      else
        let m := streamOf slot
        let word : StreamWord := ⟨0, slot, x, Org.zero, 0, cx.carried 0, 0, none⟩
        { on with sched := [.stream 0 0 m] }.setCore 0
          { (on.core 0).setCtx 0 (cx.setStream m [word]) with cur := some 0 }

end Sys2Proof.Machine
end

