-- ==== Sys2Proof/Machine/Step.lean ====
section
/-! DEFINITION. One step of the device: the next scheduled move; and where a program's instruction stands for the step that runs it. -/

namespace Sys2Proof.Machine

/-- One step: the move at the head of the schedule. A device at rest stays as it is; one without power moves only by POWER_ON (R407). -/
def step (s : State) : Host.Outcome State Fault Refusal :=
  match s.sched with
  | [] => .next s
  | m :: r =>
    if !s.boot.powered && !(isPowerOn m) then .fault .powerRemoved
    else State.run { s with sched := r } m

/-- The state with an instruction placed where the next step runs it: a slot word of the compute group as a bundle at the address of a unit that
holds the core, with the entries its header pops; a memory word at the head of its stream; a routine word as the routine of a running call. -/
def State.withFetchWord (s : State) (nbits w : Nat) : State := s.placeWord nbits w

end Sys2Proof.Machine
end

