-- ==== Sys2Proof/Safety.lean ====
section
/-! DEFINITION. What claims are stated in: the invariant of memory, what a run without a stop is, how two states may differ, and what a vector
result is, element by element. -/

namespace Sys2Proof.Safety

open Sys2Proof.Machine

/-- The state's memory is in its canonical form. -/
def memOk (s : State) : Prop := Memory.wf s.mem = true

/-- A step answers a next state: neither a fault nor a refusal. -/
def goesOn (s : State) : Prop := ∃ t, step s = .next t

/-- Two states that agree on everything but one core. -/
def onlyCore (c : Nat) (s t : State) : Prop := t = s.setCore c (t.core c)

/-- Two states that agree on everything but one context of one core. -/
def onlyCtx (c : Nat) (x : CtxId) (s t : State) : Prop := t = s.setCtx c x (t.ctx c x)

/-- Two states that agree on everything but the context that performs the word at hand. -/
def onlyMe (s t : State) : Prop := onlyCtx s.cur.core s.cur.x s t

/-- Every byte of memory reads as before, but for n bytes from a. -/
def memBut (a n : Nat) (s t : State) : Prop := ∀ b, b < a ∨ a + n ≤ b → readByte t.mem b = readByte s.mem b

/-- Every byte of memory reads as before. -/
def memSame (s t : State) : Prop := ∀ b, readByte t.mem b = readByte s.mem b

/-- An address that a branch of the word at hand may take: aligned, and in a segment (R79, R86). -/
def goodTarget (s : State) (a : W32) : Prop := a.toNat % 4 = 0 ∧ (s.me.segOf a).isSome = true

/-- A branch of the word at hand is taken to an address: the next bundle is there, and the loop bodies that do not hold it are left (R79). -/
def branched (s : State) (a : W32) : State := s.modMe fun cx => { cx with nextPc := some a, loops := leaveBodies cx.loops a }

/-- Element e of a vector register under a shape (R128). -/
def elemOf (p : Shape) (v : VReg) (e : Nat) : Nat := v.toNat / 2 ^ (p.bits * e) % 2 ^ p.bits

/-- n 2^j is at most m 2^e. -/
def atMost (n : Nat) (j : Int) (m : Nat) (e : Int) : Prop := n * 2 ^ (j - min j e).toNat ≤ m * 2 ^ (e - min j e).toNat

/-- The ordinary order of two values that are no NaN: exact, zeros equal, the infinities outermost (R114, R252, R308). -/
def valLess (a b : FVal) : Bool :=
  let worth (z : Bool) (m : Nat) (d : Int) : Int := (if z then -1 else 1) * (m * 2 ^ d.toNat : Nat)
  match a, b with
  | .inf p, .inf q => p && !q
  | .inf p, .fin _ _ _ => p
  | .fin _ _ _, .inf q => !q
  | .fin p m i, .fin q n j => decide (worth p m (i - min i j) < worth q n (j - min i j))
  | .nan _, _ => false
  | _, .nan _ => false

/-- A value is a NaN. -/
def notNumber (v : FVal) : Bool := match v with
  | .nan _ => true
  | .inf _ => false
  | .fin _ _ _ => false

/-- A magnitude above 0, of which `below n j` says that n 2^j is at most it and `above n j` that it is at most n 2^j, is rounded once to a format, with sign s, in
mode 0 nearest, ties to even, 1 toward zero, 2 down or 3 up (R111, R112). Where the rounded magnitude exceeds the largest finite value the result follows Table 3
with OVF, or for a conversion is that value with CONV (R114). UNF is set exactly where it is tiny, rounding with no lower limit on exponents, and inexact. -/
def roundsTo (f : FFmt) (ov : Over) (mode : Nat) (s : Bool) (below above : Nat → Int → Prop) (out : Nat × BitVec 12) : Prop :=
  let away : Prop := (mode = 2 ∧ s = true) ∨ (mode = 3 ∧ s = false)
  let most : Nat := 2 ^ (f.mb + 1) - 1
  let passes (j : Int) : Prop :=
    (mode = 0 ∧ below (2 * most + 1) (j - 1)) ∨ (away ∧ ¬above most j) ∨ (mode ≠ 0 ∧ ¬away ∧ below (most + 1) j)
  let high : Prop := passes (f.bias - f.mb)
  let tiny : Prop := ¬passes (-f.bias - f.mb)
  (high → ov = .arith → out.2 = cOVF ∧
    f.decode out.1 = if mode = 0 ∨ away then .inf s else .fin s most (f.bias - f.mb)) ∧
  (high → ov = .conv → out.2 = cCONV ∧ f.decode out.1 = .fin s most (f.bias - f.mb)) ∧
  (¬high → ∃ n j, f.decode out.1 = .fin s n j ∧ (out.2 = 0 ∨ out.2 = cUNF) ∧ (out.2 = cUNF ↔ tiny ∧ ¬(below n j ∧ above n j)) ∧
    ∀ y t m i, f.decode y = .fin t m i →
      let z := min i j - 1
      let mid : Nat := m * 2 ^ (i - 1 - z).toNat + n * 2 ^ (j - 1 - z).toNat
      (mode = 0 → ¬atMost m i n j → above mid z ∧ (below mid z → out.1 % 2 = 0)) ∧
      (mode = 0 → ¬atMost n j m i → below mid z ∧ (above mid z → out.1 % 2 = 0)) ∧
      (away → above n j ∧ (above m i → atMost n j m i)) ∧
      (mode ≠ 0 → ¬away → below n j ∧ (below m i → atMost m i n j)))

/-- r is (-1)^q n 2^j rounded to an integer in a mode (R111, R114, R142). -/
def roundsInt (mode : Nat) (q : Bool) (n : Nat) (j r : Int) : Prop :=
  let one : Int := 2 ^ (-(min j 0)).toNat
  let v : Int := (if q then -1 else 1) * (n * 2 ^ (j - min j 0).toNat : Nat)
  match mode with
  | 0 => 2 * (v - r * one).natAbs ≤ one.natAbs ∧ (2 * (v - r * one).natAbs = one.natAbs → r % 2 = 0)
  | 1 => (r * one).natAbs ≤ v.natAbs ∧ v.natAbs < (r * one).natAbs + one.natAbs ∧ 0 ≤ r * v
  | 2 => r * one ≤ v ∧ v < r * one + one
  | _ => r * one - one < v ∧ v ≤ r * one

/-- What the elements of a row are worth: sign, magnitude and exponent; none for a NaN or an infinity. -/
def elemWorth (ty v : Nat) : Option (Bool × Nat × Int) :=
  if tyFloat ty then match (tyFmt ty).decode v with
    | .fin z m e => some (z, m, e)
    | _ => none
  else some (decide (tyInt ty v < 0), (tyInt ty v).natAbs, 0)

/-- E is the largest floor(log2 |x|) over the non-zero elements of a block, or -133 where there is none (R119). -/
def blockTop (ty : Nat) (l : List Nat) (E : Int) : Prop :=
  let reaches (v : Nat) (k : Int) : Prop := ∃ z m e, elemWorth ty v = some (z, m, e) ∧ m ≠ 0 ∧ atMost 1 k m e
  ((∀ v ∈ l, ∀ k, ¬reaches v k) → E = -133) ∧ ((∃ v ∈ l, ∃ k, reaches v k) → (∃ v ∈ l, reaches v E) ∧ ∀ v ∈ l, ¬reaches v (E + 1))

/-- c is the code of an element in a format of n planes, held directly (R118) or against the scale exponent of its block (R119), and whether that sets CONV. -/
def codeOf (ty n : Nat) (se : Option Int) (v : Nat) (c : Int) (conv : Prop) : Prop :=
  let lo : Int := -(2 ^ (n - 1) : Nat)
  let hi : Int := (2 ^ (n - 1) : Nat) - 1
  match elemWorth ty v with
  | some (z, m, e) => ∃ r, roundsInt 0 z m (e - se.getD 0) r ∧ c = max lo (min hi r) ∧ (conv ↔ r < lo ∨ hi < r)
  | none => conv ∧ c = if se.isSome then 0 else match (tyFmt ty).decode v with
    | .inf z => if z then lo else hi
    | _ => 0

/-- A 16-bit scale is 2^se, as BF16 spells it (R119, R120). -/
def scaleIs (v : Nat) (se : Int) : Prop := ∃ m j, bf16.decode v = .fin false m j ∧ atMost m j 1 se ∧ atMost 1 se m j

/-- P is what `tplane` makes of an element tile A, a plane tile D and a scale tile C (R116, R118, R119, R121, R183): each element's code, its bits from the sign
down in the planes of its group; for APF the scale of each row and group; no other byte changes; CONV where an element sets it. -/
def planesMade (A D C : Tile) (P : Tile × Tile × BitVec 12) : Prop :=
  let ty := A.fmt.toNat
  let n := fmtPlanes D.fmt.toNat
  let apf := fmtApf D.fmt.toNat
  let w := tyBits ty / 8
  let k := A.rowBytes / w
  let elem (i j : Nat) : Nat := (A.read (i * A.rowBytes + j * w) w).toNat
  let block (i g : Nat) : List Nat := (List.range 64).map fun j => elem i (64 * g + j)
  ∃ (code : Nat → Nat → Int) (se : Nat → Nat → Int) (conv : Nat → Nat → Prop),
    (∀ i j, i < A.rows → j < k → codeOf ty n (if apf then some (se i (j / 64)) else none) (elem i j) (code i j) (conv i j)) ∧
    (apf = true → ∀ i g, i < A.rows → g < k / 64 → scaleIs (P.2.1.read (g * C.rowBytes + 2 * i) 2).toNat (se i g) ∧
      ∃ E, blockTop ty (block i g) E ∧ se i g = max (E - n + 2) (-133)) ∧
    (∀ i j p, i < A.rows → j < k → p < n →
      (P.1.read (i * D.rowBytes + 8 * n * (j / 64) + 8 * p) 8).getLsbD (j % 64) = (BitVec.ofInt n (code i j)).getLsbD (n - 1 - p)) ∧
    (∀ o, o < D.size → n * k / 8 ≤ o % D.rowBytes → P.1.read o 1 = D.read o 1) ∧
    (∀ o, o < C.size → (apf = false ∨ k / 64 ≤ o / C.rowBytes ∨ 2 * A.rows ≤ o % C.rowBytes) → P.2.1.read o 1 = C.read o 1) ∧
    (P.2.2 = 0 ∨ P.2.2 = cCONV) ∧ (P.2.2 = cCONV ↔ ∃ i j, i < A.rows ∧ j < k ∧ conv i j)

/-- Whether element e takes part in an operation of the word at hand: its mask bit, and the row limit (R131). -/
def takesPart (s : State) (p : Shape) (k : BitVec 3) (l : BitVec 1) (e : Nat) : Bool :=
  (s.me.kreg k).getLsbD e && inRow p (l = 1) s.me.rlen e

/-- A vector whose elements that take part are `val`, the others those of vD as it stood (R131). -/
def masked (s : State) (p : Shape) (d : BitVec 5) (k : BitVec 3) (l : BitVec 1) (val : Nat → Nat) (r : VReg) : Prop :=
  ∀ e, e < p.count → elemOf p r e = if takesPart s p k l e then val e % 2 ^ p.bits else elemOf p (s.vold d) e

/-- Causes that are c together with those that f sets at an element e below n that satisfies q (R347). -/
def gathers (n : Nat) (q : Nat → Bool) (f : Nat → BitVec 12) (c z : BitVec 12) : Prop :=
  ∀ j, z.getLsbD j = (c.getLsbD j || (List.range n).any fun e => q e && (f e).getLsbD j)

/-- The word at hand puts an element-wise result in flight: latency, destination, elements with their causes, and the causes of its sources
(R41, R131, R347). -/
def vecLands (s t : State) (lat : Nat) (p : Shape) (d : BitVec 5) (k : BitVec 3) (l : BitVec 1) (c : BitVec 12) (f : Nat → Nat × BitVec 12) : Prop :=
  ∃ r z, t = s.land lat (.v d r) z ∧ masked s p d k l (fun e => (f e).1) r ∧ gathers p.count (takesPart s p k l) (fun e => (f e).2) c z

/-- No unit keeps a replay log, and the word at hand is not of a replayed unit: no input is recorded or taken (R395, R399). -/
def unlogged (s : State) : Prop :=
  (∀ c x, (s.ctx c x).rep.logging = false) ∧ (∀ f ∈ s.frames, f.ctx.rep.logging = false) ∧ s.me.rep.replaying = false

/-- Two contexts with the same registers: scalars, vectors, masks, shapes, row lengths, targets, generators, loops, parameters, format table, trap
registers, mode and addresses. -/
def regsSame (a b : Ctx) : Prop :=
  b.s = a.s ∧ b.v = a.v ∧ b.k = a.k ∧ b.sh = a.sh ∧ b.rlen = a.rlen ∧ b.tg = a.tg ∧ b.ag = a.ag ∧ b.loops = a.loops ∧ b.mp = a.mp ∧ b.ft = a.ft ∧
  b.ftlevel = a.ftlevel ∧ b.trapvec = a.trapvec ∧ b.trapcause = a.trapcause ∧ b.trapba = a.trapba ∧ b.trapsc = a.trapsc ∧ b.tif = a.tif ∧
  b.priv = a.priv ∧ b.pc = a.pc ∧ b.nextPc = a.nextPc ∧ b.scycle = a.scycle ∧ b.lands = a.lands ∧ b.q = a.q ∧ b.segs = a.segs

/-- The interlocked register of the word at hand gets a value, which lands after some cycles (R40, R175). -/
def gets (s u : State) (left : Nat) (v : VReg) : Prop :=
  u.me.pend = s.me.pend.map fun p => if p.tok = s.cur.tok then { p with val := some v, left := left, again := none } else p

/-- The word at hand sets exactly these causes in the record of its slot (R347). -/
def causesSet (s u : State) (c : BitVec 12) : Prop := u.me.sticky = (s.me.sticky1 s.cur.slot c s.cur.org).sticky

/-- Every tile entry but one is as before. -/
def tilesBut (l : TLoc) (s t : State) : Prop := ∀ m, m ≠ l → t.tile m = s.tile m

/-- Two names of different tile entries: of a frame's entries the core is no part. -/
def apart : TLoc → TLoc → Prop
  | .frame _ a u n, .frame _ b v k => (a, u, n) ≠ (b, v, k)
  | l, m => l ≠ m

/-- Every tile entry but that of one name is as before, those of frames among them. -/
def tilesApart (l : TLoc) (s t : State) : Prop := ∀ m, apart l m → t.tile m = s.tile m

/-- A read of kind r has counted on an entry: `.p` leaves it, the others take one from its count, and the last one ends the tile (R159). -/
def counted (s u : State) (l : TLoc) (r : BitVec 2) : Prop :=
  if r = 1 then u.tile l = s.tile l
  else if (s.tile l).count ≤ 1 then (u.tile l).st = .absent ∧ (u.tile l).size = (s.tile l).size
  else u.tile l = { s.tile l with count := (s.tile l).count - 1 }

/-- A `.q` read has filled its condition entry; another kind leaves the queue (R161). -/
def pushed (s u : State) (r : BitVec 2) (b : Bool) : Prop := u.me.cq = if r = 2 then (s.me.fillCq s.cur.cqTok b).cq else s.me.cq

end Sys2Proof.Safety
end

