-- ==== Sys2Proof/Certificates/Slice0/Obligations.lean ====
section
/-! DEFINITION. What is claimed of the model: statements for the provers. -/

open Sys2Proof Sys2Proof.Machine Sys2Proof.Safety

/-- Words written out from the encodings decode to the instructions they stand for. (R48, R85, R102, R133, R175, R201, R232, R238, R272) -/
def Obligations.DecodeReadsSpecWords : Prop :=
  decodeRaw 0 0x041FFFF0#32 = some (.br 0#3 0#2 0x1FFFF0#21) ∧
  decodeRaw 1 0x6A073801#32 = some (.addi 4#3 0#2 7#5 7#5 1#11) ∧
  decodeRaw 2 0x07884500#32 = some (.vaddVa 7#3 0#2 8#5 8#5 20#5 0#2 0#3 0#1) ∧
  decodeRaw 2 0x6788A621#32 = some (.vbmm 7#3 0#2 8#5 20#5 24#5 2#2 0#3 1#1) ∧
  decodeRaw 4 0x0B987800#32 = some (.mpset 7#3 0#2 6#3 15#5) ∧
  decodeRaw 5 0x0B809180#32 = some (.tld 7#3 0#2 9#9 0#2 12#5 0#5) ∧
  decodeRaw 6 0x07808094#32 = some (.cld 7#3 0#2 8#9 0#2 4#5 20#5) ∧
  decodeRaw 7 0x07852180#32 = some (.gls 7#3 0#2 5#5 8#6 3#3) ∧
  decodeRoutine 0x2000000000000000#64 = some (.rwJmore 0#11)

/-- Decoding the encoding of a well-formed slot word or a routine word gives it back; the rows that share one descriptor word give the first of them. That the rows of one descriptor command, which the spec gives one encoding, decode as the first of them is log entry 82 (DESIGN CHOICE). (R29, R31, R48, R85, R102, R133, R175, R201, R232, R238, R259, R272) -/
def Obligations.DecodeOfEncodeIsTheInstruction : Prop :=
  (∀ i n, slotOf i = some n → i.wf = true → ∃ w, encode i = some w ∧ decodeSlot n w = .ok (wordRow i)) ∧
  ∀ i w, encodeRoutine i = some w → decodeRoutine w = some i

/-- A slot word that decodes is the encoding of what it decodes to: no bit is ignored and no two words share a meaning. (R30, R35, R48, R232) -/
def Obligations.EncodeOfDecodeIsTheWord : Prop :=
  (∀ n w i, n < 8 → decodeSlot n w = .ok i → i.wf = true ∧ encode i = some w) ∧
  ∀ w i, decodeRoutine w = some i → encodeRoutine i = some w

/-- Unassigned opcodes, TAG 6, reserved bits and reserved field values are refused, each by its name. (R29, R30, R35, R48, R49) -/
def Obligations.SlotDecoderRefusesByName : Prop :=
  ∀ n w, n < 8 →
    (assigned n (fld w 26 6) = false → decodeSlot n w = .error (.unassigned n)) ∧
    (assigned n (fld w 26 6) = true → fld w 23 3 = 6#3 → decodeSlot n w = .error (.reservedTag n)) ∧
    (assigned n (fld w 26 6) = true → fld w 23 3 ≠ 6#3 → decodeRaw n w = none → decodeSlot n w = .error (.reservedBits n)) ∧
    (∀ i, assigned n (fld w 26 6) = true → fld w 23 3 ≠ 6#3 → decodeRaw n w = some i →
      decodeSlot n w = if i.wf then .ok i else .error (.reservedField n))

/-- A step runs the instruction that the next word decodes to, with the settling its stream adds. Which accessors take which place of a cycle's order is log entry 75 (DESIGN CHOICE); that the world schedules the moves is log entry 4 (DESIGN CHOICE). (R37, R38, R231) -/
def Obligations.StepRunsTheDecodedInstruction : Prop :=
  (∀ (s : State) (i : Instr) (a : Args) (r : List Move), s.sched = .row i a :: r → s.boot.powered = true → s.boot.failed = false → isEvent i = true →
    let s0 : State := { s with sched := r }
    step s = match exec i { s with sched := r, ev := a } with
      | .next t => if t.issuing then State.runWords t.words t else .next (if s0.logsOver t then s0 else t)
      | o => o) ∧
  (∀ (s : State) (w : IssueWord) (r : List IssueWord) (i : Instr), s.issuing = true → decodeRaw w.slot w.word = some i →
    State.runWords (w :: r) s = match exec i (s.atWord w) with
      | .next t => State.runWords r t
      | o => o) ∧
  (∀ (s : State) (c : Nat) (x : CtxId) (m : Fin 3) (r : List Move) (w : StreamWord) (q : List StreamWord) (i : Instr),
    s.sched = .stream c x m :: r → s.boot.powered = true → s.boot.failed = false → (s.ctx c x).flows = true → (s.ctx c x).stream m = w :: q →
    decodeRaw w.slot w.word = some i → (s.core c).headHeld c x w = false → (s.ctx c x).readsFull m i = false →
    let s0 : State := { s with sched := r }
    let at_ := if isCreate w then [] else s0.reaches c x w
    (∀ n, accessPlace c x m = some n → s0.outOfOrder at_ n = false) →
    step s = match exec i (s0.atHead c x m w q) with
      | .next t => .next (s0.outcome (t.servedWord s0 c x m w at_) c x m w)
      | o => o) ∧
  (∀ (before after : State) (c : Nat) (x : CtxId) (m : Fin 3) (w : StreamWord),
    before.logsOver after = false → (after.ctx c x).dbg.stopped = (before.ctx c x).dbg.stopped →
    before.outcome after c x m w = after) ∧
  (∀ (s : State) (c : Nat) (r : List Move) (a : Call) (w : W64) (i : Instr),
    let s0 : State := { s with sched := r }
    let s1 : State := { s0 with cur := { s.cur with core := c } }
    s.sched = .engine c :: r → s.boot.powered = true → s.boot.failed = false → s1.here.call = some a → s1.callLeaves c a = none →
    s1.engineWord = some w → a.ready ≤ s1.here.cyc → decodeRoutine w = some i →
    step s = match exec i s1 with
      | .next t => .next (if s0.logsOver t then s0 else t)
      | o => o)

/-- A compute word that puts a result in flight changes only its context's list of results. (R41) -/
def Obligations.ResultsInFlightTouchOnlyTheirContext : Prop :=
  ∀ (s : State) (n : Nat) (d : Dest) (z : BitVec 12),
    onlyMe s (s.land n d z) ∧ (s.land n d z).mem = s.mem ∧
    (s.land n d z).me = { s.me with lands := s.me.lands ++ [⟨n, d, s.cur.slot, z, s.cur.org⟩] }

/-- A result that lands writes exactly its register or bank entry; s0 and k0 discard it; its causes go to its slot's sticky record. (R41, R42, R68, R99, R100, R131, R152, R347) -/
def Obligations.ResultsLandAtTheirRegisters : Prop :=
  (∀ (k : Core) (x : CtxId) (n m : Nat) (z : BitVec 12) (o : Org),
    let put (d : Dest) : Core := k.apply x ⟨n, d, m, z, o⟩
    let noted (f : Ctx → Ctx) : Core := k.modCtx x fun cx => (f cx).sticky1 m z o
    (∀ r v, put (.s r v) = noted (·.setS r v) ∧
      ∀ q, (put (.s r v)).ctx[x].sreg q = if q = r then (if r = 0 then 0 else v) else k.ctx[x].sreg q) ∧
    (∀ r v, put (.v r v) = noted (·.setV r v) ∧
      ∀ q, vget (n := 5) (put (.v r v)).ctx[x].v q = if q = r then v else vget (n := 5) k.ctx[x].v q) ∧
    (∀ r v, put (.k r v) = noted (·.setK r v) ∧
      ∀ q, (put (.k r v)).ctx[x].kreg q = if q = r then (if r = 0 then BitVec.allOnes 512 else v) else k.ctx[x].kreg q) ∧
    (∀ r v, put (.sh r v) = noted fun cx => { cx with sh := vset (n := 2 ^ 2) cx.sh r.toFin v }) ∧
    (∀ v, put (.rlen v) = noted fun cx => { cx with rlen := v }) ∧
    (∀ r v, put (.tg r v) = noted fun cx => { cx with tg := vset (n := 2 ^ 3) cx.tg r.toFin v }) ∧
    (∀ r v, put (.mp r v) = noted fun cx => { cx with mp := vset (n := 2 ^ 3) cx.mp r.toFin v }) ∧
    (∀ r v, put (.ft r v) = noted fun cx => { cx with ft := vset (n := 2 ^ 4) cx.ft r.toFin v }) ∧
    (∀ v, put (.ftlevel v) = noted fun cx => { cx with ftlevel := v }) ∧
    (∀ r v, put (.agA r v) = noted fun cx => 
      let g := vget (n := 3) cx.ag r
      { cx with ag := vset (n := 2 ^ 3) cx.ag r.toFin { g with a := v } }) ∧
    (∀ r l v, put (.agS r l v) = noted fun cx => 
      let g := vget (n := 3) cx.ag r
      { cx with ag := vset (n := 2 ^ 3) cx.ag r.toFin { g with st := vmapI (fun j u => if j = l then v else u) g.st } }) ∧
    (∀ t b, put (.cq t b) = noted fun cx => { cx with cq := cx.cq.map fun e => if e.tok = t then { e with val := some b } else e }) ∧
    (∀ r v, put (.clear r v) = noted fun cx =>
      let u := vget (n := 3) cx.sticky r
      { cx with sticky := vset (n := 2 ^ 3) cx.sticky r.toFin (if fld u 0 12 &&& ~~~(fld v 0 12) = 0#12 then 0 else u &&& ~~~((v.setWidth 12).setWidth 64)) }) ∧
    (∀ b i v, put (.bank b i v) = { noted id with banks := (put (.bank b i v)).banks } ∧
      ∀ (c : BitVec 3) (j : BitVec 5), (vget (n := 3) (put (.bank b i v)).banks c).extractLsb' (4096 * j.toNat) 4096 =
        if c = b ∧ j = i then v else (vget (n := 3) k.banks c).extractLsb' (4096 * j.toNat) 4096) ∧
    put .none = noted id) ∧
  ∀ (cx : Ctx) (m : Nat) (hm : m < 8) (z : BitVec 12) (o : Org),
    let old := cx.sticky[m]
    let new := (cx.sticky1 m z o).sticky[m]
    cx.sticky1 m z o = { cx with sticky := cx.sticky.set m new } ∧
    (z = 0 → new = old) ∧
    (z ≠ 0 →
      fld new 0 12 = fld old 0 12 ||| z ∧
      (fld new 12 6 : BitVec 6).toNat = Nat.min ((fld old 12 6 : BitVec 6).toNat + 1) 63 ∧
      fld new 18 28 = (if fld old 0 12 = 0#12 then o.sc.extractLsb' 0 28 else fld old 18 28) ∧
      fld new 46 18 = if fld old 0 12 = 0#12 then o.ba.extractLsb' 2 18 else fld old 46 18)

/-- Every binary scalar operation writes sD as Table 4 gives, after its latency, with the division corners. (R103) -/
def Obligations.ScalarArithmetic : Prop :=
  ∀ (t : BitVec 3) (i : BitVec 2) (d a b : BitVec 5) (s : State),
    let x := s.sreg a
    let y := s.sreg b
    let n := y.toNat % 64
    exec (.add t i d a b) s = .next (s.land 1 (.s d (x + y)) 0) ∧
    exec (.sub t i d a b) s = .next (s.land 1 (.s d (x - y)) 0) ∧
    exec (.and t i d a b) s = .next (s.land 1 (.s d (x &&& y)) 0) ∧
    exec (.or t i d a b) s = .next (s.land 1 (.s d (x ||| y)) 0) ∧
    exec (.xor t i d a b) s = .next (s.land 1 (.s d (x ^^^ y)) 0) ∧
    exec (.shl t i d a b) s = .next (s.land 1 (.s d (x <<< n)) 0) ∧
    exec (.shr t i d a b) s = .next (s.land 1 (.s d (x >>> n)) 0) ∧
    exec (.sar t i d a b) s = .next (s.land 1 (.s d (x.sshiftRight n)) 0) ∧
    exec (.rot t i d a b) s = .next (s.land 1 (.s d (x.rotateRight n)) 0) ∧
    exec (.min t i d a b) s = .next (s.land 1 (.s d (if x.toInt < y.toInt then x else y)) 0) ∧
    exec (.max t i d a b) s = .next (s.land 1 (.s d (if x.toInt < y.toInt then y else x)) 0) ∧
    exec (.minu t i d a b) s = .next (s.land 1 (.s d (if x.toNat < y.toNat then x else y)) 0) ∧
    exec (.maxu t i d a b) s = .next (s.land 1 (.s d (if x.toNat < y.toNat then y else x)) 0) ∧
    exec (.mul t i d a b) s = .next (s.land 3 (.s d (BitVec.ofNat 64 (x.toNat * y.toNat))) 0) ∧
    exec (.mulh t i d a b) s = .next (s.land 3 (.s d (BitVec.ofInt 64 (x.toInt * y.toInt / 2 ^ 64))) 0) ∧
    exec (.mulhu t i d a b) s = .next (s.land 3 (.s d (BitVec.ofNat 64 (x.toNat * y.toNat / 2 ^ 64))) 0) ∧
    (y = 0 →
      exec (.div t i d a b) s = .next (s.land 20 (.s d (BitVec.allOnes 64)) cDZ) ∧
      exec (.divu t i d a b) s = .next (s.land 20 (.s d (BitVec.allOnes 64)) cDZ) ∧
      exec (.rem t i d a b) s = .next (s.land 20 (.s d x) cDZ) ∧
      exec (.remu t i d a b) s = .next (s.land 20 (.s d x) cDZ)) ∧
    (y ≠ 0 →
      exec (.divu t i d a b) s = .next (s.land 20 (.s d (BitVec.ofNat 64 (x.toNat / y.toNat))) 0) ∧
      exec (.remu t i d a b) s = .next (s.land 20 (.s d (BitVec.ofNat 64 (x.toNat % y.toNat))) 0)) ∧
    (x.toInt = -2 ^ 63 → y.toInt = -1 →
      exec (.div t i d a b) s = .next (s.land 20 (.s d (BitVec.ofInt 64 (-2 ^ 63))) cINV) ∧
      exec (.rem t i d a b) s = .next (s.land 20 (.s d 0) cINV)) ∧
    (y ≠ 0 → ¬(x.toInt = -2 ^ 63 ∧ y.toInt = -1) →
      exec (.div t i d a b) s = .next (s.land 20 (.s d (BitVec.ofInt 64 (x.toInt.tdiv y.toInt))) 0) ∧
      exec (.rem t i d a b) s = .next (s.land 20 (.s d (BitVec.ofInt 64 (x.toInt - x.toInt.tdiv y.toInt * y.toInt))) 0))

/-- clz, ctz, popc, sext and zext write the counts and extensions of R104. (R104) -/
def Obligations.ScalarUnaryOperations : Prop :=
  ∀ (t : BitVec 3) (i : BitVec 2) (d a : BitVec 5) (s : State),
    let x := s.sreg a
    (∃ n : Nat, exec (.clz t i d a) s = .next (s.land 1 (.s d (BitVec.ofNat 64 n)) 0) ∧
      (x = 0 → n = 64) ∧ (x ≠ 0 → n < 64 ∧ 2 ^ (63 - n) ≤ x.toNat ∧ x.toNat < 2 ^ (64 - n))) ∧
    (∃ n : Nat, exec (.ctz t i d a) s = .next (s.land 1 (.s d (BitVec.ofNat 64 n)) 0) ∧
      (x = 0 → n = 64) ∧ (x ≠ 0 → n < 64 ∧ x.getLsbD n = true ∧ ∀ j, j < n → x.getLsbD j = false)) ∧
    exec (.popc t i d a) s = .next (s.land 1 (.s d (BitVec.ofNat 64 ((List.range 64).countP fun j => x.getLsbD j))) 0) ∧
    (∀ w : BitVec 2, w.toNat ≤ 2 → ∃ p q : W64,
      exec (.sext t i d a w) s = .next (s.land 1 (.s d p) 0) ∧ exec (.zext t i d a w) s = .next (s.land 1 (.s d q) 0) ∧
      ∀ j, j < 64 → p.getLsbD j = x.getLsbD (Nat.min j (8 * 2 ^ w.toNat - 1)) ∧
        q.getLsbD j = (decide (j < 8 * 2 ^ w.toNat) && x.getLsbD j))

/-- The immediate operations sign-extend imm11 or shift by n; li and lih build constants. (R105) -/
def Obligations.ScalarImmediates : Prop :=
  ∀ (t : BitVec 3) (i : BitVec 2) (d a : BitVec 5) (m : BitVec 11) (h : BitVec 6) (k : BitVec 16) (s : State),
    let x := s.sreg a
    exec (.addi t i d a m) s = .next (s.land 1 (.s d (x + BitVec.ofInt 64 m.toInt)) 0) ∧
    exec (.andi t i d a m) s = .next (s.land 1 (.s d (x &&& BitVec.ofInt 64 m.toInt)) 0) ∧
    exec (.ori t i d a m) s = .next (s.land 1 (.s d (x ||| BitVec.ofInt 64 m.toInt)) 0) ∧
    exec (.xori t i d a m) s = .next (s.land 1 (.s d (x ^^^ BitVec.ofInt 64 m.toInt)) 0) ∧
    exec (.shli t i d a h) s = .next (s.land 1 (.s d (x <<< h.toNat)) 0) ∧
    exec (.shri t i d a h) s = .next (s.land 1 (.s d (x >>> h.toNat)) 0) ∧
    exec (.sari t i d a h) s = .next (s.land 1 (.s d (x.sshiftRight h.toNat)) 0) ∧
    exec (.li t i d k) s = .next (s.land 1 (.s d (BitVec.ofInt 64 k.toInt)) 0) ∧
    exec (.lih t i d k) s = .next (s.land 1 (.s d (s.sreg d <<< 16 ||| k.setWidth 64)) 0)

/-- cmp, cmpi and cqpush fill their condition entry; sel chooses by sC; agset, agstep and agrd write and read generator fields. (R100, R106, R107, R108) -/
def Obligations.ScalarComparesSelectAndGenerators : Prop :=
  ∀ (t : BitVec 3) (i : BitVec 2) (d a b c : BitVec 5) (m : BitVec 11) (e : BitVec 3) (s : State),
    let g := s.me.agOf e
    let holds (n : Nat) (x y : W64) : Prop := match n with
      | 0 => x = y
      | 1 => x ≠ y
      | 2 => x.toInt < y.toInt
      | 3 => x.toInt ≤ y.toInt
      | 4 => y.toInt < x.toInt
      | 5 => y.toInt ≤ x.toInt
      | 6 => x.toNat < y.toNat
      | 7 => x.toNat ≤ y.toNat
      | 8 => y.toNat < x.toNat
      | _ => y.toNat ≤ x.toNat
    (∀ n : BitVec 4, n.toNat ≤ 9 → ∃ r : Bool,
      exec (.cmp t i a b n) s = .next (s.land 1 (.cq s.cur.cqTok r) 0) ∧ (r = true ↔ holds n.toNat (s.sreg a) (s.sreg b))) ∧
    (∀ n : BitVec 5, n.toNat ≤ 9 → ∃ r : Bool,
      exec (.cmpi t i n a m) s = .next (s.land 1 (.cq s.cur.cqTok r) 0) ∧ (r = true ↔ holds n.toNat (s.sreg a) (BitVec.ofInt 64 m.toInt))) ∧
    exec (.cqpush t i a) s = .next (s.land 1 (.cq s.cur.cqTok (decide (s.sreg a ≠ 0))) 0) ∧
    exec (.sel t i d a b c) s = .next (s.land 1 (.s d (if s.sreg c ≠ 0 then s.sreg a else s.sreg b)) 0) ∧
    exec (.agset t i e a 6#3) s = .next (s.land 1 (.agA e (s.sreg a)) 0) ∧
    (∀ f : BitVec 3, f.toNat ≤ 5 → exec (.agset t i e a f) s = .next (s.land 1 (.agS e f.toNat (s.sreg a)) 0)) ∧
    exec (.agstep t i e a) s = .next (s.land 1 (.agA e (g.a + s.sreg a)) 0) ∧
    exec (.agrd t i d e 6#3) s = .next (s.land 1 (.s d g.a) 0) ∧
    (∀ f : BitVec 3, ∀ h : f.toNat < 6, exec (.agrd t i d e f) s = .next (s.land 1 (.s d g.st[f.toNat]) 0))

/-- On integer shapes the element-wise arithmetic of both vector slots writes the wrapped or ordered elements of Table 3. (R46, R113, R131, R134, R135) -/
def Obligations.VectorIntegerArithmetic : Prop :=
  ∀ (t : BitVec 3) (i : BitVec 2) (d a b : BitVec 5) (h : BitVec 2) (k : BitVec 3) (l : BitVec 1) (s : State),
    let p := s.shape h
    let X := elemOf p (s.vsrc a).1
    let Y := elemOf p (s.vsrc b).1
    let Z := elemOf p (s.vold d)
    let ca := (s.vsrc a).2
    let cb := (s.vsrc b).2
    let num := tyInt p.ty
    let lands (o : Host.Outcome State Fault Refusal) (lat : Nat) (c : BitVec 12) (f : Nat → Nat × BitVec 12) : Prop :=
      ∃ u, o = .next u ∧ vecLands s u lat p d k l c f
    tyFloat p.ty = false →
    (lands (exec (.vaddVa t i d a b h k l) s) 2 (ca ||| cb) fun e => (ofIntBits p.bits ((X e : Int) + Y e), 0)) ∧
    (lands (exec (.vaddVb t i d a b h k l) s) 2 (ca ||| cb) fun e => (ofIntBits p.bits ((X e : Int) + Y e), 0)) ∧
    (lands (exec (.vsubVa t i d a b h k l) s) 2 (ca ||| cb) fun e => (ofIntBits p.bits ((X e : Int) - Y e), 0)) ∧
    (lands (exec (.vsubVb t i d a b h k l) s) 2 (ca ||| cb) fun e => (ofIntBits p.bits ((X e : Int) - Y e), 0)) ∧
    (lands (exec (.vmulVa t i d a b h k l) s) 2 (ca ||| cb) fun e => (ofIntBits p.bits ((X e : Int) * Y e), 0)) ∧
    (lands (exec (.vmulVb t i d a b h k l) s) 2 (ca ||| cb) fun e => (ofIntBits p.bits ((X e : Int) * Y e), 0)) ∧
    (lands (exec (.vfmaVa t i d a b h k l) s) 4 (ca ||| cb) fun e => (ofIntBits p.bits ((Z e : Int) + X e * Y e), 0)) ∧
    (lands (exec (.vfmaVb t i d a b h k l) s) 4 (ca ||| cb) fun e => (ofIntBits p.bits ((Z e : Int) + X e * Y e), 0)) ∧
    (lands (exec (.vfms t i d a b h k l) s) 4 (ca ||| cb) fun e => (ofIntBits p.bits ((Z e : Int) - X e * Y e), 0)) ∧
    (lands (exec (.vminVa t i d a b h k l) s) 2 (ca ||| cb) fun e => (if num (X e) < num (Y e) then X e else Y e, 0)) ∧
    (lands (exec (.vmaxVa t i d a b h k l) s) 2 (ca ||| cb) fun e => (if num (X e) < num (Y e) then Y e else X e, 0)) ∧
    (lands (exec (.vminVb t i d a b h k l) s) 2 (ca ||| cb) fun e => (if num (X e) < num (Y e) then X e else Y e, 0)) ∧
    (lands (exec (.vmaxVb t i d a b h k l) s) 2 (ca ||| cb) fun e => (if num (X e) < num (Y e) then Y e else X e, 0)) ∧
    (lands (exec (.vabs t i d a h k l) s) 2 ca fun e => (ofIntBits p.bits (num (X e)).natAbs, 0)) ∧
    (lands (exec (.vneg t i d a h k l) s) 2 ca fun e => (ofIntBits p.bits (-(X e : Int)), 0)) ∧
    (lands (exec (.vclamp t i d a b h k l) s) 2 (ca ||| cb) fun e => (let m := if num (Z e) < num (X e) then X e else Z e; if num m < num (Y e) then m else Y e, 0))

/-- vand, vor, vxor, vnot, vshl, vshr, vsar, vmov, vbcast and vsel work on the bits of elements of every type. (R46, R131, R134, R137) -/
def Obligations.VectorBitwiseShiftsAndMoves : Prop :=
  ∀ (t : BitVec 3) (i : BitVec 2) (d a b : BitVec 5) (h : BitVec 2) (k : BitVec 3) (l : BitVec 1) (s : State),
    let p := s.shape h
    let X := elemOf p (s.vsrc a).1
    let Y := elemOf p (s.vsrc b).1
    let ca := (s.vsrc a).2
    let cb := (s.vsrc b).2
    let lands (o : Host.Outcome State Fault Refusal) (lat : Nat) (c : BitVec 12) (f : Nat → Nat × BitVec 12) : Prop :=
      ∃ u, o = .next u ∧ vecLands s u lat p d k l c f
    (lands (exec (.vand t i d a b h k l) s) 2 (ca ||| cb) fun e => (X e &&& Y e, 0)) ∧
    (lands (exec (.vor t i d a b h k l) s) 2 (ca ||| cb) fun e => (X e ||| Y e, 0)) ∧
    (lands (exec (.vxor t i d a b h k l) s) 2 (ca ||| cb) fun e => (X e ^^^ Y e, 0)) ∧
    (lands (exec (.vnot t i d a h k l) s) 2 ca fun e => (2 ^ p.bits - 1 - X e, 0)) ∧
    (lands (exec (.vshl t i d a b h k l) s) 2 (ca ||| cb) fun e => (if p.bits ≤ Y e then 0 else X e * 2 ^ Y e, 0)) ∧
    (lands (exec (.vshr t i d a b h k l) s) 2 (ca ||| cb) fun e => (if p.bits ≤ Y e then 0 else X e / 2 ^ Y e, 0)) ∧
    (lands (exec (.vsar t i d a b h k l) s) 2 (ca ||| cb) fun e => (ofIntBits p.bits (signed p.bits (X e) / 2 ^ Nat.min (Y e) p.bits), 0)) ∧
    (lands (exec (.vmov t i d a h k l) s) 2 ca fun e => (X e, 0)) ∧
    (lands (exec (.vbcast t i d a h k l) s) 2 0 fun _ => ((s.sreg a).toNat, 0)) ∧
    (∃ u, exec (.vsel t i d a b h k l) s = .next u ∧ vecLands s u 2 p d 0 l (ca ||| cb) fun e => (if (s.me.kreg k).getLsbD e then X e else Y e, 0))

/-- On floating shapes the element-wise operations of both vector slots write the rounded result of each element and gather its causes. (R46, R112, R131, R134, R135, R142, R147) -/
def Obligations.VectorFloatingOperations : Prop :=
  ∀ (t : BitVec 3) (i : BitVec 2) (d a b : BitVec 5) (h : BitVec 2) (k : BitVec 3) (l : BitVec 1) (s : State),
    let p := s.shape h
    let X := elemOf p (s.vsrc a).1
    let Y := elemOf p (s.vsrc b).1
    let Z := elemOf p (s.vold d)
    let ca := (s.vsrc a).2
    let cb := (s.vsrc b).2
    let f := tyFmt p.ty
    let nan (x : Nat) : Bool := (f.decode x).isNan
    let sig (x : Nat) : Bool := f.decode x == .nan true
    let lands (o : Host.Outcome State Fault Refusal) (lat : Nat) (c : BitVec 12) (f : Nat → Nat × BitVec 12) : Prop :=
      ∃ u, o = .next u ∧ vecLands s u lat p d k l c f
    tyFloat p.ty = true →
    (lands (exec (.vaddVa t i d a b h k l) s) 3 (ca ||| cb) fun e => fAdd f p.mode (X e) (Y e)) ∧
    (lands (exec (.vsubVa t i d a b h k l) s) 3 (ca ||| cb) fun e => fSub f p.mode (X e) (Y e)) ∧
    (lands (exec (.vmulVa t i d a b h k l) s) 3 (ca ||| cb) fun e => fMul f p.mode (X e) (Y e)) ∧
    (lands (exec (.vfmaVa t i d a b h k l) s) 4 (ca ||| cb) fun e => fFma f p.mode (X e) (Y e) (Z e)) ∧
    (lands (exec (.vminVa t i d a b h k l) s) 3 (ca ||| cb) fun e => fMinMax f true (X e) (Y e)) ∧
    (lands (exec (.vmaxVa t i d a b h k l) s) 3 (ca ||| cb) fun e => fMinMax f false (X e) (Y e)) ∧
    (lands (exec (.vaddVb t i d a b h k l) s) 3 (ca ||| cb) fun e => fAdd f p.mode (X e) (Y e)) ∧
    (lands (exec (.vsubVb t i d a b h k l) s) 3 (ca ||| cb) fun e => fSub f p.mode (X e) (Y e)) ∧
    (lands (exec (.vmulVb t i d a b h k l) s) 3 (ca ||| cb) fun e => fMul f p.mode (X e) (Y e)) ∧
    (lands (exec (.vfmaVb t i d a b h k l) s) 4 (ca ||| cb) fun e => fFma f p.mode (X e) (Y e) (Z e)) ∧
    (lands (exec (.vminVb t i d a b h k l) s) 3 (ca ||| cb) fun e => fMinMax f true (X e) (Y e)) ∧
    (lands (exec (.vmaxVb t i d a b h k l) s) 3 (ca ||| cb) fun e => fMinMax f false (X e) (Y e)) ∧
    (lands (exec (.vfms t i d a b h k l) s) 4 (ca ||| cb) fun e => fMulAddV f p.mode (f.decode (X e)).neg (f.decode (Y e)) (some (f.decode (Z e)))) ∧
    (lands (exec (.vabs t i d a h k l) s) 3 ca fun e => if nan (X e) then (f.qnan, if sig (X e) then cINV else 0) else (X e % 2 ^ (p.bits - 1), 0)) ∧
    (lands (exec (.vneg t i d a h k l) s) 3 ca fun e => if nan (X e) then (f.qnan, if sig (X e) then cINV else 0) else ((X e + 2 ^ (p.bits - 1)) % 2 ^ p.bits, 0)) ∧
    (lands (exec (.vclamp t i d a b h k l) s) 3 (ca ||| cb) fun e => let m := fMinMax f false (Z e) (X e); let r := fMinMax f true m.1 (Y e); (r.1, m.2 ||| r.2)) ∧
    (lands (exec (.vdiv t i d a b h k l) s) 12 (ca ||| cb) fun e => fDiv f p.mode (X e) (Y e)) ∧
    (lands (exec (.vround t i d a h k l) s) 3 ca fun e => roundElem p (X e)) ∧
    (lands (exec (.vexp2 t i d a h k l) s) 8 ca fun e => specialV f 0 p.mode (f.decode (X e))) ∧
    (lands (exec (.vlog2 t i d a h k l) s) 8 ca fun e => specialV f 1 p.mode (f.decode (X e))) ∧
    (lands (exec (.vrcp t i d a h k l) s) 8 ca fun e => specialV f 2 p.mode (f.decode (X e))) ∧
    (lands (exec (.vrsqrt t i d a h k l) s) 8 ca fun e => specialV f 3 p.mode (f.decode (X e))) ∧
    (lands (exec (.vsqrt t i d a h k l) s) 8 ca fun e => specialV f 4 p.mode (f.decode (X e))) ∧
    (lands (exec (.vtanh t i d a h k l) s) 10 ca fun e => specialV f 5 p.mode (f.decode (X e))) ∧
    (lands (exec (.vsigm t i d a h k l) s) 10 ca fun e => specialV f 6 p.mode (f.decode (X e)))

/-- vsat saturates integers to the range of their type and is the plain operation on floats; a special function of an integer type gives 0 with INV. (R136, R142, R147) -/
def Obligations.VectorSaturationAndIntegerCorners : Prop :=
  ∀ (t : BitVec 3) (i : BitVec 2) (d a b : BitVec 5) (h : BitVec 2) (k : BitVec 3) (l : BitVec 1) (s : State),
    let p := s.shape h
    let X := elemOf p (s.vsrc a).1
    let Y := elemOf p (s.vsrc b).1
    let ca := (s.vsrc a).2
    let cb := (s.vsrc b).2
    let num := tyInt p.ty
    let lands (o : Host.Outcome State Fault Refusal) (lat : Nat) (c : BitVec 12) (f : Nat → Nat × BitVec 12) : Prop :=
      ∃ u, o = .next u ∧ vecLands s u lat p d k l c f
    (tyFloat p.ty = false →
    (lands (exec (.vexp2 t i d a h k l) s) 8 ca fun _ => (0, cINV)) ∧
    (lands (exec (.vlog2 t i d a h k l) s) 8 ca fun _ => (0, cINV)) ∧
    (lands (exec (.vrcp t i d a h k l) s) 8 ca fun _ => (0, cINV)) ∧
    (lands (exec (.vrsqrt t i d a h k l) s) 8 ca fun _ => (0, cINV)) ∧
    (lands (exec (.vsqrt t i d a h k l) s) 8 ca fun _ => (0, cINV)) ∧
    (lands (exec (.vtanh t i d a h k l) s) 10 ca fun _ => (0, cINV)) ∧
    (lands (exec (.vsigm t i d a h k l) s) 10 ca fun _ => (0, cINV)) ∧
    (lands (exec (.vdiv t i d a b h k l) s) 12 (ca ||| cb) fun _ => (0, cINV)) ∧
    (lands (exec (.vround t i d a h k l) s) 3 ca fun e => (X e, 0)) ∧
    (∃ u, exec (.vsat t i d a b h 0#2 l) s = .next u ∧ vecLands s u 2 p d 0 l (ca ||| cb) fun e =>
      (ofIntBits p.bits (max (tyRange p.ty).1 (min (tyRange p.ty).2 (num (X e) + num (Y e)))), 0)) ∧
    (∃ u, exec (.vsat t i d a b h 1#2 l) s = .next u ∧ vecLands s u 2 p d 0 l (ca ||| cb) fun e =>
      (ofIntBits p.bits (max (tyRange p.ty).1 (min (tyRange p.ty).2 (num (X e) - num (Y e)))), 0)) ∧
    (∃ u, exec (.vsat t i d a b h 2#2 l) s = .next u ∧ vecLands s u 2 p d 0 l (ca ||| cb) fun e =>
      (ofIntBits p.bits (max (tyRange p.ty).1 (min (tyRange p.ty).2 (num (X e) * num (Y e)))), 0))) ∧
    (tyFloat p.ty = true →
    (∃ u, exec (.vsat t i d a b h 0#2 l) s = .next u ∧ vecLands s u 2 p d 0 l (ca ||| cb) fun e => fAdd (tyFmt p.ty) p.mode (X e) (Y e)) ∧
    (∃ u, exec (.vsat t i d a b h 1#2 l) s = .next u ∧ vecLands s u 2 p d 0 l (ca ||| cb) fun e => fSub (tyFmt p.ty) p.mode (X e) (Y e)) ∧
    (∃ u, exec (.vsat t i d a b h 2#2 l) s = .next u ∧ vecLands s u 2 p d 0 l (ca ||| cb) fun e => fMul (tyFmt p.ty) p.mode (X e) (Y e)))

/-- vrsum, vrmax, vrmin and vargmax reduce each row's inputs into column 0; vscan writes the running sums. That a NaN that is a row's only input gives the canonical NaN is the model's reading of R112 (log entry 41, DEDUCED); that vargmax on floats compares as R114 does, zeros equal, is log entry 73 (DEDUCED). (R46, R112, R131, R135, R148, R149) -/
def Obligations.ReductionsAndScan : Prop :=
  ∀ (t : BitVec 3) (i : BitVec 2) (d a : BitVec 5) (h : BitVec 2) (k : BitVec 3) (l : BitVec 1) (s : State),
    let p := s.shape h
    let X := elemOf p (s.vsrc a).1
    let nan (x : Nat) : Bool := tyFloat p.ty && ((tyFmt p.ty).decode x).isNan
    let canon (x : Nat) : Nat := if nan x then (tyFmt p.ty).qnan else x
    let inputs (r n : Nat) : List Nat := (List.range n).filter fun c => takesPart s p k l (r * p.cols + c)
    let vals (r n : Nat) : List Nat := (inputs r n).map fun c => X (r * p.cols + c)
    let fold (op : EOp) (none : Nat) (q : List Nat) : Nat := match q with
      | [] => none
      | x :: y => canon (y.foldl (fun u v => (elemOp op p u v 0).1) x)
    let least : Nat := if tyFloat p.ty then (tyFmt p.ty).infBits true else ofIntBits p.bits (tyRange p.ty).1
    let most : Nat := if tyFloat p.ty then (tyFmt p.ty).infBits false else ofIntBits p.bits (tyRange p.ty).2
    let less (x y : Nat) : Prop :=
      if tyFloat p.ty = true then nan y = false ∧ (nan x = true ∨ fvLt ((tyFmt p.ty).decode x) ((tyFmt p.ty).decode y) = true)
      else tyInt p.ty x < tyInt p.ty y
    let rowsOut (o : Host.Outcome State Fault Refusal) (res : Nat → Nat) : Prop :=
      ∃ v z, o = .next (s.land 6 (.v d v) z) ∧ ∀ r c, r < p.rows → c < p.cols →
        elemOf p v (r * p.cols + c) = if c = 0 then res r % 2 ^ p.bits else 0
    rowsOut (exec (.vrsum t i d a h k l) s) (fun r => fold .add 0 (vals r p.cols)) ∧
    rowsOut (exec (.vrmax t i d a h k l) s) (fun r => fold .vmax least (vals r p.cols)) ∧
    rowsOut (exec (.vrmin t i d a h k l) s) (fun r => fold .vmin most (vals r p.cols)) ∧
    (∃ g : Nat → Nat, rowsOut (exec (.vargmax t i d a h k l) s) (fun r => (convert 7 p.ty p.mode (g r)).1) ∧
      ∀ r, (inputs r p.cols = [] → g r = 0) ∧ (inputs r p.cols ≠ [] → g r ∈ inputs r p.cols ∧
        ∀ c ∈ inputs r p.cols, ¬ less (X (r * p.cols + g r)) (X (r * p.cols + c)) ∧
          (c < g r → less (X (r * p.cols + c)) (X (r * p.cols + g r))))) ∧
    (∃ v z, exec (.vscan t i d a h k l) s = .next (s.land 8 (.v d v) z) ∧ ∀ r c, r < p.rows → c < p.cols →
      elemOf p v (r * p.cols + c) =
        if inRow p (l = 1) s.me.rlen (r * p.cols + c) then fold .add 0 (vals r (c + 1)) % 2 ^ p.bits else elemOf p (s.vold d) (r * p.cols + c))

/-- vperm, vtrans, vrot, vcompact, vexpand and vext move elements, rows and bytes to the places of R137, R150 and R151. (R46, R137, R150, R151) -/
def Obligations.PermutesAndCompaction : Prop :=
  ∀ (t : BitVec 3) (i : BitVec 2) (d a b : BitVec 5) (h : BitVec 2) (k : BitVec 3) (l : BitVec 1) (m : BitVec 6) (s : State),
    let p := s.shape h
    let X := elemOf p (s.vsrc a).1
    let Y := elemOf p (s.vsrc b).1
    let ca := (s.vsrc a).2
    let cb := (s.vsrc b).2
    let sel (r : Nat) : Bool := (s.me.kreg k).getLsbD (r * p.cols)
    let picked (n : Nat) : List Nat := (List.range n).filter sel
    let whole (o : Host.Outcome State Fault Refusal) (lat : Nat) (f : Nat → Nat → Nat) : Prop :=
      ∃ v, o = .next (s.land lat (.v d v) ca) ∧ ∀ r c, r < p.rows → c < p.cols → elemOf p v (r * p.cols + c) = f r c
    (∃ u, exec (.vperm t i d a b h k l) s = .next u ∧ vecLands s u 4 p d k l (ca ||| cb) fun e => (X (Y e % p.count), 0)) ∧
    (∃ u, exec (.vrot t i d a b h k) s = .next u ∧ vecLands s u 4 p d k 0 ca fun e =>
      (X (e / p.cols * p.cols + (e % p.cols + p.cols - (s.sreg b).toNat % p.cols) % p.cols), 0)) ∧
    (∃ v, exec (.vtrans t i d a h) s = .next (s.land 4 (.v d v) ca) ∧
      ∀ r c, r < p.rows → c < p.cols → elemOf p v (c * p.rows + r) = X (r * p.cols + c)) ∧
    whole (exec (.vcompact t i d a h k) s) 6 (fun r c => match (picked p.rows)[r]? with
      | some q => X (q * p.cols + c)
      | none => 0) ∧
    whole (exec (.vexpand t i d a h k) s) 6 (fun r c => if sel r then X ((picked r).length * p.cols + c) else 0) ∧
    (∃ v : VReg, exec (.vext t i d a b m) s = .next (s.land 2 (.v d v) (ca ||| cb)) ∧
      ∀ j, j < 4096 → v.getLsbD j = if 64 * m.toNat + j < 4096 then (s.vsrc a).1.getLsbD (64 * m.toNat + j)
        else (s.vsrc b).1.getLsbD (64 * m.toNat + j - 4096))

/-- vcmp writes every bit of a mask, kop combines masks, vany and vall push whether some or every bit that takes part is 1. (R46, R138, R139, R140) -/
def Obligations.MasksAndConditions : Prop :=
  ∀ (t : BitVec 3) (i : BitVec 2) (c : BitVec 3) (a b : BitVec 5) (h : BitVec 2) (g : BitVec 3) (k e f : BitVec 3) (l : BitVec 1) (s : State),
    let p := s.shape h
    let X := elemOf p (s.vsrc a).1
    let Y := elemOf p (s.vsrc b).1
    let F := tyFmt p.ty
    let num := tyInt p.ty
    let cmp (lt eq : Bool) : Bool := match g.toNat with
      | 0 => eq
      | 1 => !eq
      | 2 => lt
      | 3 => lt || eq
      | 4 => !(lt || eq)
      | _ => !lt
    let holds (x y : Nat) : Bool :=
      if tyFloat p.ty then
        if (F.decode x).isNan || (F.decode y).isNan then decide (g = 1)
        else cmp (fvLt (F.decode x) (F.decode y)) (!(fvLt (F.decode x) (F.decode y)) && !(fvLt (F.decode y) (F.decode x)))
      else cmp (decide (num x < num y)) (decide (num x = num y))
    let bits := (List.range p.count).filter fun n => inRow p (l = 1) s.me.rlen n
    let sC := s.me.kreg e
    let sF := s.me.kreg f
    (∃ (m : Mask) (z : BitVec 12), exec (.vcmp t i c a b h g l) s = .next (s.land 2 (.k c m) z) ∧
      ∀ n, n < 512 → m.getLsbD n = (decide (n < p.count) && inRow p (l = 1) s.me.rlen n && holds (X n) (Y n))) ∧
    exec (.kop t i c e f 0#4) s = .next (s.land 2 (.k c (sC &&& sF)) 0) ∧
    exec (.kop t i c e f 1#4) s = .next (s.land 2 (.k c (sC ||| sF)) 0) ∧
    exec (.kop t i c e f 2#4) s = .next (s.land 2 (.k c (sC ^^^ sF)) 0) ∧
    exec (.kop t i c e f 3#4) s = .next (s.land 2 (.k c (sC &&& ~~~sF)) 0) ∧
    exec (.kop t i c e f 4#4) s = .next (s.land 2 (.k c (~~~sC)) 0) ∧
    exec (.kop t i c e f 5#4) s = .next (s.land 2 (.k c sC) 0) ∧
    exec (.vany t i h k l) s = .next (s.land 3 (.cq s.cur.cqTok (bits.any fun n => (s.me.kreg k).getLsbD n)) 0) ∧
    exec (.vall t i h k l) s = .next (s.land 3 (.cq s.cur.cqTok (bits.all fun n => (s.me.kreg k).getLsbD n)) 0)

/-- vcvt converts the elements both sizes allow; vli, vshape and vrlen write constants, shape records and row lengths. (R46, R109, R114, R129, R130, R137, R141, R143, R144) -/
def Obligations.ConversionsConstantsShapesAndRowLengths : Prop :=
  ∀ (t : BitVec 3) (i : BitVec 2) (d a : BitVec 5) (h n : BitVec 2) (y : BitVec 4) (r : BitVec 2) (m : BitVec 16) (s : State),
    let p := s.shape h
    let X := elemOf p (s.vsrc a).1
    let W := tyBits y.toNat
    let N := 4096 / max p.bits W
    let q := s.shape 0
    let v : W32 := (s.sreg a).setWidth 32
    (∃ (u : VReg) (z : BitVec 12), exec (.vcvt t i d a y h r) s = .next (s.land 3 (.v d u) z) ∧ u.toNat < 2 ^ (W * N) ∧
      (∀ e, e < N → u.toNat / 2 ^ (W * e) % 2 ^ W = (convert p.ty y.toNat r.toNat (X e)).1 % 2 ^ W) ∧
      (tyFloat p.ty = false → tyFloat y.toNat = false → ∀ e, e < N →
        u.toNat / 2 ^ (W * e) % 2 ^ W = ofIntBits W (max (tyRange y.toNat).1 (min (tyRange y.toNat).2 (tyInt p.ty (X e)))))) ∧
    (∃ u : VReg, exec (.vli t i d m) s = .next (s.land 2 (.v d u) 0) ∧ ∀ e, e < q.count → elemOf q u e =
      if q.ty = 10 then m.toNat * 2 ^ 16 else if q.bits ≤ 16 then m.toNat % 2 ^ q.bits
      else if q.ty ≤ 3 then ofIntBits q.bits m.toInt else m.toNat) ∧
    (shapeOk v = true → exec (.vshape t i n a) s = .next (s.land 1 (.sh n v) 0)) ∧
    (shapeOk v = false → exec (.vshape t i n a) s = .next (s.land 1 .none cINV)) ∧
    (∃ u : BitVec 512, exec (.vrlen t i a h) s = .next (s.land 1 (.rlen u) (s.vsrc a).2) ∧
      (∀ j, p.rows ≤ j → rlenAt u j = 0) ∧
      (tyFloat p.ty = false → ∀ j, j < p.rows → (rlenAt u j : Int) = max 0 (min 255 (tyInt p.ty (X (j * p.cols))))) ∧
      (tyFloat p.ty = true → ∀ j, j < p.rows → match (tyFmt p.ty).decode (X (j * p.cols)) with
        | .nan _ => rlenAt u j = 0
        | .inf z => rlenAt u j = if z then 0 else 255
        | .fin z g w => ∃ o : Int, roundsInt 1 z g w o ∧ (rlenAt u j : Int) = max 0 (min 255 o))) ∧
    (∀ A B mode e : Nat, A ≤ 10 → B ≤ 10 → mode < 4 →
      let G := tyFmt B
      let lo := (tyRange B).1
      let hi := (tyRange B).2
      let fits (o : Int) : Nat × BitVec 12 := (ofIntBits (tyBits B) (max lo (min hi o)), if lo ≤ o ∧ o ≤ hi then 0 else cCONV)
      let rounds (z : Bool) (g : Nat) (w : Int) : Prop :=
        (g = 0 → convert A B mode e = (G.sgn z, 0)) ∧
        (0 < g → roundsTo G .conv mode z (fun n j => atMost n j g w) (fun n j => atMost g w n j) (convert A B mode e))
      (tyFloat A = false → tyFloat B = false → convert A B mode e = fits (tyInt A e)) ∧
      (tyFloat A = false → tyFloat B = true → rounds (decide (tyInt A e < 0)) (tyInt A e).natAbs 0) ∧
      (tyFloat A = true → match (tyFmt A).decode e with
        | .nan z => convert A B mode e = if tyFloat B then (G.qnan, if z then cINV else 0) else (0, cCONV)
        | .inf z => convert A B mode e = if tyFloat B then (G.infBits z, 0) else (ofIntBits (tyBits B) (if z then lo else hi), cCONV)
        | .fin z g w => if tyFloat B then rounds z g w else ∃ o, roundsInt mode z g w o ∧ convert A B mode e = fits o))

/-- vbmm accumulates A times B into C in every row, and reserves VA for kmax cycles. (R46, R127, R145, R146) -/
def Obligations.BatchedSmallMatrices : Prop :=
  ∀ (t : BitVec 3) (i : BitVec 2) (d a b : BitVec 5) (h : BitVec 2) (k : BitVec 3) (l : BitVec 1) (s : State),
    let p := s.shape h
    let X := elemOf p (s.vsrc a).1
    let Y := elemOf p (s.vsrc b).1
    let Z := elemOf p (s.vold d)
    let ca := (s.vsrc a).2
    let cb := (s.vsrc b).2
    let s1 := s.modMe fun cx => { cx with vbmm := p.kmax }
    let len (r : Nat) : Nat := if l = 1 then min (rlenAt s.me.rlen r) p.kmax else p.kmax
    let A (r m j : Nat) : Nat := X (r * p.cols + (m * p.kmax + j))
    let B (r j n : Nat) : Nat := Y (r * p.cols + (j * p.n + n))
    let chain (r m n acc : Nat) : Nat := (List.range (len r)).foldl (fun u j => (elemOp .fma p (A r m j) (B r j n) u).1) acc
    (p.m * p.kmax ≤ p.cols → p.kmax * p.n ≤ p.cols → p.m * p.n ≤ p.cols →
      ∃ v z, exec (.vbmm t i d a b h k l) s = .next (s1.land (4 * p.kmax + 2) (.v d v) z) ∧
        ∀ r m n, r < p.rows → m < p.m → n < p.n →
          (((s.me.kreg k).getLsbD (r * p.cols + (m * p.n + n)) = true →
            elemOf p v (r * p.cols + (m * p.n + n)) = chain r m n (Z (r * p.cols + (m * p.n + n))) % 2 ^ p.bits ∧
            (tyFloat p.ty = false → elemOf p v (r * p.cols + (m * p.n + n)) =
              ofIntBits p.bits (((List.range (len r)).map fun j => ((A r m j * B r j n : Nat) : Int)).sum + Z (r * p.cols + (m * p.n + n))))) ∧
          ((s.me.kreg k).getLsbD (r * p.cols + (m * p.n + n)) = false →
            elemOf p v (r * p.cols + (m * p.n + n)) = Z (r * p.cols + (m * p.n + n)))) ∧
          ∀ c, p.m * p.n ≤ c → c < p.cols → elemOf p v (r * p.cols + c) = Z (r * p.cols + c)) ∧
    (¬(p.m * p.kmax ≤ p.cols ∧ p.kmax * p.n ≤ p.cols ∧ p.m * p.n ≤ p.cols) →
      exec (.vbmm t i d a b h k l) s = .next (s1.land (4 * p.kmax + 2) .none (cINV ||| ca ||| cb)))

/-- vacr and vacw copy two rows of a granted bank; a FRONT bank gives zeros or no write with INV; an ungranted bank is the fatal PERMISSION. (R46, R152, R153) -/
def Obligations.BankRowsInVectorSlots : Prop :=
  ∀ (t : BitVec 3) (i : BitVec 2) (d a x : BitVec 5) (n : BitVec 3) (s : State),
    let y : BitVec 5 := (s.sreg x).setWidth 5
    let row (j : BitVec 5) : VReg := (vget (n := 3) s.here.banks n).extractLsb' (4096 * j.toNat) 4096
    let va := (s.vsrc a).1
    let ca := (s.vsrc a).2
    let reads (j : BitVec 5) (o : Out) : Prop :=
      (s.granted n = true → s.bankClass n ≠ 1 → o = .next (s.land 3 (.v d (row j)) 0)) ∧
      (s.granted n = true → s.bankClass n = 1 → o = .next (s.land 3 (.v d 0) cINV)) ∧
      (s.granted n = false → o = .next (s.fatalMe .permission))
    let writes (j : BitVec 5) (o : Out) : Prop :=
      (s.granted n = true → s.bankClass n ≠ 1 → o = .next (s.land 3 (.bank n j va) ca)) ∧
      (s.granted n = true → s.bankClass n = 1 → o = .next (s.land 3 .none (cINV ||| ca))) ∧
      (s.granted n = false → o = .next (s.fatalMe .permission))
    reads x (exec (.vacrVaImm t i d n x) s) ∧ reads y (exec (.vacrVaReg t i d n x) s) ∧
    reads x (exec (.vacrVbImm t i d n x) s) ∧ reads y (exec (.vacrVbReg t i d n x) s) ∧
    writes x (exec (.vacwVaImm t i a n x) s) ∧ writes y (exec (.vacwVaReg t i a n x) s) ∧
    writes x (exec (.vacwVbImm t i a n x) s) ∧ writes y (exec (.vacwVbReg t i a n x) s)

/-- Every floating result is the exact value rounded once to the format in its mode, with the overflow of Table 3 or of R114 and UNF where tiny and inexact. (R110, R111, R112, R114) -/
def Obligations.RoundingIsCorrect : Prop :=
  ∀ f : FFmt, f = fp16 ∨ f = bf16 ∨ f = fp32 → ∀ (ov : Over) (mode : Nat) (s : Bool) (m : Nat) (e : Int), mode < 4 →
    (m = 0 → f.ofExact ov mode s m e = (f.sgn s, 0) ∧ ∃ j, f.decode (f.sgn s) = .fin s 0 j) ∧
    (0 < m → roundsTo f ov mode s (fun n j => atMost n j m e) (fun n j => atMost m e n j) (f.ofExact ov mode s m e))

/-- Sums, products, fused products, quotients, extremes, roundings to integers and the functions of R147 give the exact value rounded once, or their special results. That 0 x infinity plus a quiet NaN sets no INV is log entry 73 (DEDUCED); that inf / inf and 0 / 0 give the canonical NaN with INV, as in IEEE 754, is log entry 90 (PRESUMED). (R110, R111, R112, R135, R142, R147) -/
def Obligations.FloatingSpecialCases : Prop :=
  ∀ f : FFmt, f = fp16 ∨ f = bf16 ∨ f = fp32 → ∀ mode a b c : Nat, mode < 4 →
    let nan (x : Nat) : Bool := (f.decode x).isNan
    let sig (x : Nat) : Bool := f.decode x == .nan true
    let val (q : Bool) (n : Nat) (j z : Int) : Int := (if q then -1 else 1) * (n * 2 ^ (j - z).toNat : Nat)
    let le (x y : FVal) : Prop := match x, y with
      | .inf q, .inf r => q = true ∨ r = false
      | .inf q, _ => q = true
      | _, .inf r => r = false
      | .fin q n j, .fin r m i => val q n j (min i j) ≤ val r m i (min i j)
      | _, _ => False
    let one : Nat := f.bias * 2 ^ f.mb
    let fn (n : Nat) : Nat × BitVec 12 := specialV f n mode (f.decode a)
    ((nan a || nan b) = true →
      (∀ o ∈ [fAdd f mode a b, fSub f mode a b, fMul f mode a b, fDiv f mode a b], o = (f.qnan, if sig a || sig b then cINV else 0)) ∧
      ∀ lo, fMinMax f lo a b = (if nan a && nan b then f.qnan else if nan a then b else a, if sig a || sig b then cINV else 0)) ∧
    ((nan a || nan b || nan c) = true → fFma f mode a b c = (f.qnan, if sig a || sig b || sig c then cINV else 0)) ∧
    (nan a = false → nan b = false → a < 2 ^ (1 + f.eb + f.mb) → b < 2 ^ (1 + f.eb + f.mb) → ∀ lo : Bool, ∃ r, (r = a ∨ r = b) ∧ fMinMax f lo a b = (r, 0) ∧
      (∀ x ∈ [a, b], if lo then le (f.decode r) (f.decode x) else le (f.decode x) (f.decode r)) ∧
      (a % 2 ^ (f.eb + f.mb) = 0 → b % 2 ^ (f.eb + f.mb) = 0 → a ≠ b → r = f.sgn lo)) ∧
    (∀ q1 n1 j1 q2 n2 j2, f.decode a = .fin q1 n1 j1 → f.decode b = .fin q2 n2 j2 →
      (∃ q n j, fAdd f mode a b = f.ofExact .arith mode q n j ∧
        (∀ z, z ≤ j1 → z ≤ j2 → z ≤ j ∧ val q n j z = val q1 n1 j1 z + val q2 n2 j2 z) ∧
        (n = 0 → q = if q1 = q2 then q1 else decide (mode = 2))) ∧
      (∃ q n j, fSub f mode a b = f.ofExact .arith mode q n j ∧
        (∀ z, z ≤ j1 → z ≤ j2 → z ≤ j ∧ val q n j z = val q1 n1 j1 z - val q2 n2 j2 z) ∧
        (n = 0 → q = if q1 = q2 then decide (mode = 2) else q1)) ∧
      fMul f mode a b = f.ofExact .arith mode (q1 != q2) (n1 * n2) (j1 + j2) ∧
      (∀ q3 n3 j3, f.decode c = .fin q3 n3 j3 →
        (∃ q n j, fFma f mode a b c = f.ofExact .arith mode q n j ∧
          (∀ z, z ≤ j1 + j2 → z ≤ j3 → z ≤ j ∧ val q n j z = val q3 n3 j3 z + val (q1 != q2) (n1 * n2) (j1 + j2) z) ∧
          (n = 0 → q = if (q1 != q2) = q3 then q3 else decide (mode = 2))) ∧
        (∃ q n j, fMulAddV f mode (f.decode a).neg (f.decode b) (some (f.decode c)) = f.ofExact .arith mode q n j ∧
          (∀ z, z ≤ j1 + j2 → z ≤ j3 → z ≤ j ∧ val q n j z = val q3 n3 j3 z - val (q1 != q2) (n1 * n2) (j1 + j2) z) ∧
          (n = 0 → q = if (q1 != q2) = q3 then decide (mode = 2) else q3))) ∧
      (∀ q3, f.decode c = .inf q3 → fFma f mode a b c = (f.infBits q3, 0)) ∧
      (n1 = 0 → n2 = 0 → fDiv f mode a b = (f.qnan, cINV)) ∧
      (n1 ≠ 0 → n2 = 0 → fDiv f mode a b = (f.infBits (q1 != q2), cDZ)) ∧
      (n1 = 0 → n2 ≠ 0 → fDiv f mode a b = (f.sgn (q1 != q2), 0)) ∧
      (n1 ≠ 0 → n2 ≠ 0 → roundsTo f .arith mode (q1 != q2) (fun n j => atMost (n * n2) (j + j2) n1 j1) (fun n j => atMost n1 j1 (n * n2) (j + j2))
        (fDiv f mode a b))) ∧
    (∀ q r, f.decode a = .inf q → f.decode b = .inf r →
      fAdd f mode a b = (if q = r then (f.infBits q, 0) else (f.qnan, cINV)) ∧
      fSub f mode a b = (if q = r then (f.qnan, cINV) else (f.infBits q, 0)) ∧
      fMul f mode a b = (f.infBits (q != r), 0) ∧ fDiv f mode a b = (f.qnan, cINV) ∧
      (nan c = false → fFma f mode a b c = if f.decode c = .inf (!(q != r)) then (f.qnan, cINV) else (f.infBits (q != r), 0))) ∧
    (∀ q r n j, f.decode a = .inf q → f.decode b = .fin r n j →
      fAdd f mode a b = (f.infBits q, 0) ∧ fSub f mode a b = (f.infBits q, 0) ∧ fDiv f mode a b = (f.infBits (q != r), 0) ∧
      (fMul f mode a b = if n = 0 then (f.qnan, cINV) else (f.infBits (q != r), 0)) ∧
      fAdd f mode b a = (f.infBits q, 0) ∧ fSub f mode b a = (f.infBits (!q), 0) ∧ fDiv f mode b a = (f.sgn (q != r), 0) ∧
      fMul f mode b a = fMul f mode a b ∧
      (nan c = false → fFma f mode a b c =
        if n = 0 then (f.qnan, cINV) else if f.decode c = .inf (!(q != r)) then (f.qnan, cINV) else (f.infBits (q != r), 0)) ∧
      fFma f mode b a c = fFma f mode a b c) ∧
    (∀ p : Shape, tyFloat p.ty = true → tyFmt p.ty = f → p.mode < 4 → match f.decode a with
      | .nan q => roundElem p a = (f.qnan, if q then cINV else 0)
      | .inf _ => roundElem p a = (a, 0)
      | .fin q n j => if n = 0 then roundElem p a = (a, 0) else ∃ (r : Int) (m : Nat) (i : Nat × Int), roundsInt p.mode q n j r ∧ roundElem p a = (f.sgn q + m, 0) ∧
        f.decode (f.sgn q + m) = .fin q i.1 i.2 ∧ (∀ z, z ≤ i.2 → z ≤ 0 → val q i.1 i.2 z = r * 2 ^ (-z).toNat)) ∧
    (nan a = true → ∀ n, n < 7 → fn n = (f.qnan, if sig a then cINV else 0)) ∧
    (∀ q, f.decode a = .inf q → fn 0 = (if q then 0 else f.infBits false, 0) ∧ fn 1 = (if q then (f.qnan, cINV) else (f.infBits false, 0)) ∧
      fn 2 = (f.sgn q, 0) ∧ fn 3 = (if q then (f.qnan, cINV) else (0, 0)) ∧ fn 4 = (if q then (f.qnan, cINV) else (f.infBits false, 0)) ∧
      fn 5 = (f.sgn q + one, 0) ∧ fn 6 = (if q then 0 else one, 0)) ∧
    (∀ q n j, f.decode a = .fin q n j →
      (n = 0 → fn 0 = (one, 0) ∧ fn 1 = (f.infBits true, cDZ) ∧ fn 2 = (f.infBits q, cDZ) ∧ fn 3 = (f.infBits q, cDZ) ∧ fn 4 = (f.sgn q, 0) ∧
        fn 5 = (f.sgn q, 0) ∧ fn 6 = (one - 2 ^ f.mb, 0)) ∧
      (n ≠ 0 → q = true → ∀ m ∈ [1, 3, 4], fn m = (f.qnan, cINV)) ∧
      (n ≠ 0 → roundsTo f .arith mode q (fun m i => atMost (m * n) (i + j) 1 0) (fun m i => atMost 1 0 (m * n) (i + j)) (fn 2)) ∧
      (n ≠ 0 → q = false →
        roundsTo f .arith mode false (fun m i => atMost (m * m * n) (2 * i + j) 1 0) (fun m i => atMost 1 0 (m * m * n) (2 * i + j)) (fn 3) ∧
        roundsTo f .arith mode false (fun m i => atMost (m * m) (2 * i) n j) (fun m i => atMost n j (m * m) (2 * i)) (fn 4)) ∧
      (∀ k : Int, val q n j (min j 0) = k * 2 ^ (-(min j 0)).toNat → n ≠ 0 →
        roundsTo f .arith mode false (fun m i => atMost m i 1 k) (fun m i => atMost 1 k m i) (fn 0)) ∧
      (∀ k : Nat, n = 2 ^ k → q = false → fn 1 = f.ofExact .arith mode (decide (j + k < 0)) (j + k).natAbs 0))

/-- br, brt, mbr, call and ret go to their target; nop does nothing; a bad target is the fatal MISALIGN or SEGMENT. That a target both misaligned and in no segment is MISALIGN is log entry 20 (DESIGN CHOICE). (R47, R79, R86) -/
def Obligations.BranchesGoToTheirTargets : Prop :=
  ∀ (t : BitVec 3) (i : BitVec 2) (o : BitVec 21) (n b : BitVec 3) (s : State),
    let go (r : Out) (u : State) (a : W32) : Prop :=
      (goodTarget u a → r = .next (branched u a)) ∧
      (a.toNat % 4 ≠ 0 → r = .next (u.fatalMe .misalign)) ∧
      (a.toNat % 4 = 0 → u.me.segOf a = none → r = .next (u.fatalMe .segment))
    let off : W32 := s.cur.org.ba + BitVec.ofInt 32 (4 * o.toInt)
    (s.cur.slot < 5 → exec (.nop t i) s = .next s) ∧
    go (exec (.br t i o) s) s off ∧
    go (exec (.brt t i n) s) s (vget (n := 3) s.me.tg n) ∧
    (s.cur.leaf ≤ 3 → go (exec (.mbr t i b) s) s (vget (n := 3) s.me.tg (b + BitVec.ofNat 3 s.cur.leaf))) ∧
    (3 < s.cur.leaf → exec (.mbr t i b) s = .next s) ∧
    go (exec (.call t i o) s) (s.land 1 (.s 31 (s.me.pc.setWidth 64)) 0) off ∧
    ((s.sreg 31).toNat < 2 ^ 32 → go (exec (.ret t i) s) s ((s.sreg 31).setWidth 32)) ∧
    (2 ^ 32 ≤ (s.sreg 31).toNat → (s.sreg 31).toNat % 4 ≠ 0 → exec (.ret t i) s = .next (s.fatalMe .misalign)) ∧
    (2 ^ 32 ≤ (s.sreg 31).toNat → (s.sreg 31).toNat % 4 = 0 → exec (.ret t i) s = .next (s.fatalMe .segment))

/-- loop activates its level over its body, count 0 and lbrk go to the end address; an active level is ILLEGAL_BUNDLE, a split body SEGMENT. (R77, R78, R79, R87) -/
def Obligations.LoopsActivateAndBreak : Prop :=
  ∀ (t : BitVec 3) (i : BitVec 2) (n : BitVec 3) (c : BitVec 5) (e : BitVec 12) (s : State) (hn : n.toNat < 6),
    let stop : W32 := s.cur.org.ba + 4 * e.setWidth 32
    let idle : Prop := ∀ m : Fin 6, m.val ≤ n.toNat → s.me.loops[m].active = false
    let one : Prop := ∃ g, s.me.segOf s.me.pc = some g ∧ s.me.segOf (stop - 4) = some g
    let toEnd (u : State) (a : W32) : State := u.modMe fun cx =>
      let q := endIteration cx.loops a [0, 1, 2, 3, 4, 5]
      { cx with loops := q.1, nextPc := some q.2 }
    let runs (o : Out) (k : W32) : Prop :=
      (idle → one → k ≠ 0 → o = .next (s.modMe fun cx => { cx with loops := cx.loops.set n.toNat ⟨true, k, 0, s.me.pc, stop⟩ })) ∧
      (idle → one → k = 0 → o = .next (toEnd s stop)) ∧
      (¬idle → o = .next (s.fatalMe .illegalBundle)) ∧
      (idle → ¬one → o = .next (s.fatalMe .segment))
    runs (exec (.loopReg t i n c e) s) ((s.sreg c).setWidth 32) ∧
    runs (exec (.loopImm t i n c e) s) (c.setWidth 32) ∧
    (s.me.loops[n.toNat].active = true → exec (.lbrk t i n) s =
      .next (toEnd (s.modMe fun cx => { cx with loops := vmapI (fun m k => if m ≤ n.toNat then Loop.off else k) cx.loops }) s.me.loops[n.toNat].stop)) ∧
    (s.me.loops[n.toNat].active = false → exec (.lbrk t i n) s = .next s)

/-- At the end of a body the innermost active level steps or ends, and only a level that ends lets the next one be tested. That an outer level is tested only once the inner one has ended, also where its end comes first, is log entry 16 (DEDUCED). (R77) -/
def Obligations.IterationsEndInnermostFirst : Prop :=
  ∀ (l : Vector Loop 6) (a : W32),
    ((∀ m : Fin 6, l[m].active = false) → endIteration l a [0, 1, 2, 3, 4, 5] = (l, a)) ∧
    (∀ n : Fin 6, l[n].active = true → (∀ m : Fin 6, m < n → l[m].active = false) →
      (a.toNat < l[n].stop.toNat → endIteration l a [0, 1, 2, 3, 4, 5] = (l, a)) ∧
      (l[n].stop.toNat ≤ a.toNat → l[n].index.toNat + 1 ≠ l[n].count.toNat →
        endIteration l a [0, 1, 2, 3, 4, 5] = (l.set n { l[n] with index := l[n].index + 1 }, l[n].start)) ∧
      (l[n].stop.toNat ≤ a.toNat → l[n].index.toNat + 1 = l[n].count.toNat →
        endIteration l a [0, 1, 2, 3, 4, 5] = endIteration (l.set n ⟨false, 0, 0, 0, 0⟩) a [0, 1, 2, 3, 4, 5]))

/-- tgset writes its target, idle waits, cqclr drops older entries, wfe takes or awaits the latch, sev sets latches, yield gives the core. (R84, R88, R89, R90, R91) -/
def Obligations.TargetsWaitsAndEvents : Prop :=
  ∀ (t : BitVec 3) (i : BitVec 2) (n : BitVec 3) (o : BitVec 17) (a : BitVec 5) (m : BitVec 16) (k : BitVec 4) (s : State),
    s.me.rep.logging = false → s.me.rep.replaying = false →
    exec (.tgsetLabel t i n o) s = .next (s.land 1 (.tg n (s.cur.org.ba + BitVec.ofInt 32 (4 * o.toInt))) 0) ∧
    exec (.tgsetReg t i n a) s = .next (s.land 1 (.tg n ((s.sreg a).setWidth 32)) 0) ∧
    exec (.idle t i m) s = .next (s.modMe fun cx => { cx with idle := m.toNat }) ∧
    exec (.cqclr t i) s = .next (s.modMe fun cx => { cx with cq := cx.cq.filter fun e => s.cur.tok ≤ e.tok }) ∧
    (s.me.event = true → exec (.wfe t i) s = .next (s.modMe fun cx => { cx with event := false })) ∧
    (s.me.event = false → exec (.wfe t i) s = .next (s.modMe fun cx => { cx with wait := .wfe, waitOrg := s.cur.org })) ∧
    (∃ u, exec (.sev t i k) s = .next u ∧ onlyCore s.cur.core s u ∧
      ∀ y : CtxId, u.ctx s.cur.core y = if k.getLsbD y.val = true ∧ (s.ctx s.cur.core y).st ≠ .free
        then { s.ctx s.cur.core y with event := true } else s.ctx s.cur.core y) ∧
    (∀ y, s.chosen s.cur.core (some s.cur.x) = some y → exec (.yield t i) s =
      .next ((s.modMe fun cx => { cx with st := .ready, readyWait := 0 }).modHere fun h => { h with cur := none, nxt := some y })) ∧
    (s.chosen s.cur.core (some s.cur.x) = none → exec (.yield t i) s = .next s)

/-- csrr reads the system registers of Table 8 with latency 2; csrw writes TRAPVEC, clears STICKY bits, and ignores the rest. That LIDX of an inactive level reads 0 is log entry 18 (DESIGN CHOICE). (R70, R96, R167, R347) -/
def Obligations.SystemRegistersReadAndWrite : Prop :=
  ∀ (t : BitVec 3) (i : BitVec 2) (d a : BitVec 5) (s : State),
    s.me.rep.logging = false → s.me.rep.replaying = false → s.me.rep.asId = none →
    let reads (c : BitVec 11) (v : W64) : Prop := exec (.csrr t i d c) s = .next (s.land 2 (.s d v) 0)
    let v := s.sreg a
    (∀ c, reads c (s.csr c.toNat)) ∧
    reads 0x001 (s.me.unit.setWidth 64) ∧ reads 0x002 (s.me.launch.setWidth 64) ∧ reads 0x00C (s.vfNow s.me.vf) ∧
    reads 0x00E (s.me.quota.setWidth 64) ∧ reads 0x011 (s.me.ftlevel.setWidth 64) ∧
    reads 0x018 (s.me.trapcause.setWidth 64) ∧ reads 0x019 (s.me.trapba.setWidth 64) ∧ reads 0x01A (s.me.trapsc.setWidth 64) ∧
    reads 0x01B (s.me.trapvec.setWidth 64) ∧ reads 0x01C (s.cur.org.sc.setWidth 64) ∧
    (∀ n : Fin 8, reads (BitVec.ofNat 11 (0x020 + n)) s.me.sticky[n]) ∧
    (∀ n : Fin 6, reads (BitVec.ofNat 11 (0x030 + n)) (if s.me.loops[n].active then s.me.loops[n].index.setWidth 64 else 0) ∧
      reads (BitVec.ofNat 11 (0x036 + n)) (if s.me.loops[n].active then s.me.loops[n].count.setWidth 64 else 0) ∧
      reads (BitVec.ofNat 11 (0x040 + n)) (s.me.cnt[n].issued.setWidth 64) ∧
      reads (BitVec.ofNat 11 (0x048 + n)) (s.me.cnt[n].stall.setWidth 64)) ∧
    (∀ (m : Fin 6) (n : Fin 8), reads (BitVec.ofNat 11 (0x080 + 8 * m + n)) (s.me.cnt[m].fill[n].setWidth 64) ∧
      reads (BitVec.ofNat 11 (0x0C0 + 8 * m + n)) (s.me.cnt[m].noop[n].setWidth 64)) ∧
    reads 0x000 (BitVec.ofNat 64 ((if s.me.priv then 2 ^ 13 else 0) + s.cur.core % 2048 * 4 + s.cur.x.val)) ∧
    (∀ l, s.launch? s.me.launch = some l →
      reads 0x003 (l.graph.setWidth 64) ∧ (∀ j, s.aboveAt l 3 = some j → reads 0x004 (j.id.setWidth 64)) ∧
      (∀ j, s.aboveAt l 4 = some j → reads 0x005 (j.id.setWidth 64)) ∧
      reads 0x008 (if l.bg = true ∨ l.demoted = true then BitVec.allOnes 64 else l.deadline + (s.vf l.vf).cfg.timeOff) ∧
      reads 0x009 (l.budget.setWidth 64) ∧ reads 0x00A l.spent ∧ reads 0x00B (l.corr.setWidth 64) ∧ reads 0x00D (l.residue.setWidth 64)) ∧
    (∃ n : Nat, reads 0x010 (BitVec.ofNat 64 n) ∧
      let loc (m : Nat) : TLoc := s.resolve s.cur.core s.cur.x m
      let there (m : Nat) : Prop := m < 256 ∧ (s.tile (loc m)).st = .present
      let dl (m : Nat) : Nat := s.deadlineOf (s.ownerLaunch (loc m))
      let size (m : Nat) : Nat := (s.tile (loc m)).granules
      ((∀ m, ¬there m) → n = 0x1FF) ∧
      ((∃ m, there m) → there n ∧ ∀ m, there m → dl m ≤ dl n ∧ (dl m = dl n → size m ≤ size n ∧ (size m = size n → m ≤ n)))) ∧
    (∀ c : BitVec 11, (c.toNat ∈ [6, 7, 0xF] ∨ (0x12 ≤ c.toNat ∧ c.toNat ≤ 0x17) ∨ (0x1D ≤ c.toNat ∧ c.toNat ≤ 0x1F) ∨ (0x28 ≤ c.toNat ∧ c.toNat ≤ 0x2F) ∨
      (0x3C ≤ c.toNat ∧ c.toNat ≤ 0x3F) ∨ c.toNat ∈ [0x46, 0x47] ∨ (0x4E ≤ c.toNat ∧ c.toNat ≤ 0x7F) ∨ (0xB0 ≤ c.toNat ∧ c.toNat ≤ 0xBF) ∨
      0xF0 ≤ c.toNat) → reads c 0) ∧
    exec (.csrw t i a 0x01B#11) s = .next (s.modMe fun cx => { cx with trapvec := v.setWidth 32 }) ∧
    (∀ n : Fin 8, exec (.csrw t i a (BitVec.ofNat 11 (0x020 + n))) s = .next (s.land 1 (.clear (BitVec.ofNat 3 n) v) 0)) ∧
    (∀ (k : Core) (x : CtxId) (n : Fin 8) (w : W64) (m : Nat) (o : Org),
      let u := k.apply x ⟨1, .clear (BitVec.ofNat 3 n) w, m, 0, o⟩
      let old := k.ctx[x].sticky[n]
      let new := u.ctx[x].sticky[n]
      u = k.modCtx x (fun cx => { cx with sticky := cx.sticky.set n new }) ∧
      (∀ j, j < 12 → new.getLsbD j = (old.getLsbD j && !w.getLsbD j)) ∧
      ((∀ j, j < 12 → new.getLsbD j = false) → new = 0) ∧
      ((∃ j, j < 12 ∧ new.getLsbD j = true) → ∀ j, 12 ≤ j → new.getLsbD j = old.getLsbD j)) ∧
    (∀ c : BitVec 11, c ≠ 0x01B#11 → ¬(0x020 ≤ c.toNat ∧ c.toNat ≤ 0x027) → exec (.csrw t i a c) s = .next s)

/-- launch hands its packet to admission, retire makes the context RETIRING, xdisp blocks on a command that closes the expert's list. (R79, R92, R93, R94, R310) -/
def Obligations.LaunchRetireAndDispatchWords : Prop :=
  ∀ (t : BitVec 3) (i : BitVec 2) (d a : BitVec 5) (s : State),
    let w (n : Nat) : W64 := s.sreg (a + BitVec.ofNat 5 n)
    let packet : BitVec 512 := w 7 ++ w 6 ++ w 5 ++ w 4 ++ w 3 ++ w 2 ++ w 1 ++ w 0
    (s.me.rep.replaying = false → ∃ u r, exec (.launch t i d a) s = .next u ∧ u.adm = s.adm ++ [r] ∧
      r.packet = packet ∧ r.vf = s.me.vf ∧ r.fromCtx = some (s.me.launch, s.me.unit, s.cur.tok) ∧
      u = { s.modMe (fun cx => { cx with ans := cx.ans ++ [⟨d, s.cur.tok, s.cur.cqTok, none, s.cur.org, false⟩] }) with adm := s.adm ++ [r] }) ∧
    (∃ u, exec (.retire t i) s = .next u ∧ u.me.st = .retiring ∧ u.me.wait = .none ∧ u.me.pendEv = Pending.none ∧ u.me.shadow = none ∧
      (s.here.cur = some s.cur.x → u.here.cur = none) ∧ u.mem = s.mem ∧ u.me.lands = s.me.lands ∧ u.me.tiles = s.me.tiles ∧
      (s.me.shadow = none → u.me.mt = s.me.mt ∧ u.me.mc = s.me.mc ∧ u.me.mg = s.me.mg) ∧
      (∀ h, s.me.shadow = some h → u.me.mt = h.mt ++ s.me.mt ∧ u.me.mc = h.mc ++ s.me.mc ∧ u.me.mg = h.mg ++ s.me.mg)) ∧
    (s.me.rep.replaying = false → ∃ u m, exec (.xdisp t i d a) s = .next u ∧ u.me.wait = .xdisp ∧ u.me.waitOrg = s.cur.org ∧
      u.me.eq[0] = s.me.eq[0] ++ [m] ∧ m.a1 = s.sreg a ∧ m.state = 0 ∧ m.tok = s.cur.tok ∧ m.launch = s.me.launch ∧ m.unit = s.me.unit ∧
      onlyCtx s.cur.core s.cur.x { s with uidCtr := s.uidCtr + 1 } u) ∧
    (∀ (c : Nat) (x : CtxId) (k : Nat) (o : Org) (v : W64) (g : W32), (s.ctx c x).shadow = none → g.toNat % 4 = 0 → ((s.ctx c x).segOf g).isSome = true →
      ∃ u, s.xdispDone c x k o v (some g) = u ∧ onlyCtx c x s u ∧ (u.ctx c x).pc = g ∧ (u.ctx c x).wait = .none ∧
        (u.ctx c x).loops = leaveBodies (s.ctx c x).loops g ∧
        ∀ p ∈ (s.ctx c x).pend, p.tok = k → { p with val := some (v.setWidth 4096), left := 1, again := none } ∈ (u.ctx c x).pend)

/-- trap and bkpt pend for the boundary, eret starts the return, segld the copy of a segment, cancel the cancellation of an instance of the job. That levels 1 to 4 ignore sA[63:32] is log entry 19 (DESIGN CHOICE), and that sA[31:0] = 0 of level 0 is unit index 0 is log entry 87 (DESIGN CHOICE). (R81, R95, R97, R98) -/
def Obligations.TrapStopOverlayAndCancelWords : Prop :=
  ∀ (t : BitVec 3) (i : BitVec 2) (m : BitVec 16) (n : BitVec 6) (a : BitVec 5) (s : State),
    let own (level : Nat) : Option Inst := (s.launch? s.me.launch).bind fun k => s.aboveAt k level
    let v : W64 := s.sreg a
    let id : W32 := v.setWidth 32
    let la : W32 := v.extractLsb' 32 32
    let mine (k : Launch) : Prop := k.vf = s.me.vf ∧ ∃ j, own 4 = some j ∧ (s.aboveAt k 4).map (fun p => p.serial) = some j.serial
    (s.me.tif = false → exec (.trap t i m) s = .next (s.modMe fun cx => { cx with pendEv := { cx.pendEv with trap := some (m, s.cur.org) } })) ∧
    (s.me.tif = true → exec (.trap t i m) s = .next (s.fatalMe .permission)) ∧
    (s.me.tif = true → exec (.eret t i) s = .next (s.modMe fun cx => { cx with drn := true, pendEv := { cx.pendEv with eret := true } })) ∧
    (s.me.tif = false → exec (.eret t i) s = .next (s.fatalMe .permission)) ∧
    (s.dbgBit s.me.vf s.me.launch 0 = true → exec (.bkpt t i m) s = .next (s.modMe fun cx => { cx with pendEv := { cx.pendEv with bkpt := some m } })) ∧
    (s.dbgBit s.me.vf s.me.launch 0 = false → exec (.bkpt t i m) s = .next s) ∧
    (n.toNat < s.me.segs.length → exec (.segld t i n) s = .next (s.modMe fun cx => cx.startCopy s.cur.org.ba n.toNat) ∧
      (((s.me.startCopy s.cur.org.ba n.toNat).half0.map fun h => h.seg) = some n.toNat ∨
        ((s.me.startCopy s.cur.org.ba n.toNat).half1.map fun h => h.seg) = some n.toNat)) ∧
    (s.me.segs.length ≤ n.toNat → exec (.segld t i n) s = .next (s.fatalMe .segment)) ∧
    (∀ k, s.launch? (if la = 0 then s.me.launch else la) = some k → mine k → id.toNat < k.units.toNat →
      exec (.cancel t i 0 a) s = .next (s.cancelUnit (if la = 0 then s.me.launch else la) id)) ∧
    (∀ k, s.launch? (if id = 0 then s.me.launch else id) = some k → mine k →
      exec (.cancel t i 1 a) s = .next (s.cancelLaunches [if id = 0 then s.me.launch else id] 1)) ∧
    (∀ e : BitVec 3, 2 ≤ e.toNat → e.toNat ≤ 4 →
      let hit (k : Inst) : Prop := k.vf = s.me.vf ∧ k.level = e.toNat ∧ k.id = id ∧ ∃ j, own 4 = some j ∧
        (e = 2 → ∃ p, s.instAt k.up = some p ∧ p.up = j.serial) ∧ (e = 3 → k.up = j.serial) ∧ (e = 4 → k.serial = j.serial)
      (id = 0 → ∀ k, own e.toNat = some k → exec (.cancel t i e a) s = .next (s.cancelInst k 1)) ∧
      (id ≠ 0 → (∀ k ∈ s.insts, ¬hit k) → exec (.cancel t i e a) s = .next (s.fatalMe .permission)) ∧
      (id ≠ 0 → ∀ l k r, s.insts = l ++ k :: r → hit k → (∀ q ∈ r, ¬hit q) → exec (.cancel t i e a) s = .next (s.cancelInst k 1))) ∧
    (s.launch? (if id = 0 then s.me.launch else id) = none → exec (.cancel t i 1 a) s = .next (s.fatalMe .permission))

/-- Taking a trap saves its cause, address and the interrupted state, sets TIF, and goes to TRAPVEC; a bad TRAPVEC is fatal; without a handler none is entered. That a TRAPVEC both misaligned and in no segment is MISALIGN is log entry 20 (DESIGN CHOICE). (R337, R346) -/
def Obligations.TakingATrap : Prop :=
  ∀ (s : State) (c : Nat) (x : CtxId) (slot arg code : Nat) (o : Org),
    let cx := s.ctx c x
    let v := cx.trapvec
    (v.toNat % 4 = 0 → (cx.segOf v).isSome = true → slot < 16 → arg < 2 ^ 16 → code < 2 ^ 8 →
      let u := (s.enterTrap c x slot arg code o).ctx c x
      u.trapcause = BitVec.ofNat 32 (slot * 2 ^ 24 + arg * 2 ^ 8 + code) ∧ u.trapba = o.ba ∧ u.trapsc = o.sc ∧ u.tif = true ∧ u.pc = v ∧
      u.cq = [] ∧ (∀ n : Fin 6, u.loops[n].active = false) ∧ (∀ n : Fin 4, u.q[n] = none) ∧ u.lands = [] ∧ u.mt = [] ∧ u.mc = [] ∧ u.mg = [] ∧
      u.s = cx.s ∧ u.v = cx.v ∧ u.k = cx.k ∧ u.sh = cx.sh ∧ u.mp = cx.mp ∧ u.ft = cx.ft ∧ u.sticky = cx.sticky ∧ u.tg = cx.tg ∧ u.ag = cx.ag ∧
      u.scycle = cx.scycle ∧ u.tiles = cx.tiles ∧
      ∃ h, u.shadow = some h ∧ h.resumeAt = cx.pc ∧ h.lands = cx.lands ∧ h.cq = cx.cq ∧ h.loops = cx.loops ∧ h.q = cx.q ∧
        h.s16 = cx.s.toList.drop 16 ∧ h.tg = cx.tg ∧ h.ag = cx.ag) ∧
    (v ≠ 0xFFFFFFFF#32 → v.toNat % 4 ≠ 0 → s.enterTrap c x slot arg code o = s.fatal c x .misalign 15 ⟨v, cx.scycle, true⟩) ∧
    (v.toNat % 4 = 0 → cx.segOf v = none → s.enterTrap c x slot arg code o = s.fatal c x .segment 15 ⟨v, cx.scycle, true⟩) ∧
    (v = 0xFFFFFFFF#32 → cx.st.live = true → cx.pendEv.kill = false → s.stopAt c x = none → cx.pendEv.preempt = false → cx.tif = false →
      cx.rep.replaying = false →
      (∀ e, cx.pendEv.full = some e → s.boundary c x = s.modCtx c x fun k =>
        { k with pendEv := { k.pendEv with full := none }, allocWait := Vector.replicate 4 0 }) ∧
      (∀ n p, cx.pendEv.full = none → cx.pendEv.trap = some (n, p) → s.boundary c x =
        (s.modCtx c x fun k => { k with pendEv := { k.pendEv with trap := none } }).fatal c x .permission 0 p) ∧
      (cx.pendEv.full = none → cx.pendEv.trap = none → cx.pendEv.overrun = true → cx.pendEv.overrunTaken = false → s.boundary c x =
        s.modCtx c x fun k => { k with pendEv := { k.pendEv with overrun := false, overrunTaken := true } }))

/-- The return from a trap restores s16-s31, targets, generators, loops, condition queue and bindings, clears TIF and resumes at the saved address. (R338) -/
def Obligations.ReturningFromATrap : Prop :=
  ∀ (s : State) (c : Nat) (x : CtxId) (h : Shadow),
    (s.ctx c x).shadow = some h → h.s16.length = 16 → (∀ p ∈ h.pend, p.val = none) → (∀ p ∈ (s.ctx c x).pend, p.slot = 0 → p.val = none) →
    let u := (s.leaveTrap c x).ctx c x
    u.tif = false ∧ u.shadow = none ∧ u.pc = h.resumeAt ∧ u.loops = h.loops ∧ u.cq = h.cq ∧ u.q = h.q ∧ u.tg = h.tg ∧ u.ag = h.ag ∧
    u.lands = h.lands ∧ u.fz = false ∧ u.faultList = [] ∧ u.v = (s.ctx c x).v ∧ u.k = (s.ctx c x).k ∧ u.sticky = (s.ctx c x).sticky ∧
    (∀ n : Fin 32, u.s[n] = if n.val < 16 then (s.ctx c x).s[n] else h.s16.getD (n.val - 16) 0)

/-- A fatal fault frees the context, or under a debugger freezes it with TRAPCAUSE, TRAPBA and TRAPSC of its bundle. (R343, R346, R379) -/
def Obligations.FatalFaultEndsTheUnit : Prop :=
  ∀ (s : State) (c : Nat) (x : CtxId) (f : Fatal) (slot : Nat) (o : Org), slot < 16 →
    let u := s.fatal c x f slot o
    (s.dbgBit (s.ctx c x).vf (s.ctx c x).launch 3 = false → (u.ctx c x).st = .free) ∧
    (s.dbgBit (s.ctx c x).vf (s.ctx c x).launch 3 = true →
      (u.ctx c x).st = .frozen ∧ (u.ctx c x).dbg.stopped = true ∧ (u.ctx c x).dbg.fatal = true ∧
      (u.ctx c x).trapcause = BitVec.ofNat 32 (slot * 2 ^ 24 + f.code) ∧ (u.ctx c x).trapba = o.ba ∧ (u.ctx c x).trapsc = o.sc ∧
      (u.ctx c x).mt = [] ∧ (u.ctx c x).mc = [] ∧ (u.ctx c x).mg = [] ∧ (u.ctx c x).lands = [] ∧
      let saved := (s.ctx c x).shadow
      let words := (s.ctx c x).mt ++ (s.ctx c x).mc ++ (s.ctx c x).mg ++ (saved.map fun h => h.mt ++ h.mc ++ h.mg).getD []
      (u.ctx c x).pend = ((saved.map fun h => h.pend).getD [] ++ (s.ctx c x).pend).filter fun p => p.again.isNone && !(words.any fun w => w.tok = p.tok))

/-- tld, tlw and sqld read their bytes of a PRESENT tile, deliver them, and count the read; an ABSENT tile gives zeros with ABSENT. (R122, R159, R161, R175, R177) -/
def Obligations.TileReadsDeliverAndCount : Prop :=
  ∀ (t : BitVec 3) (i : BitVec 2) (x : BitVec 9) (r : BitVec 2) (d p a : BitVec 5) (q : BitVec 1) (s : State), unlogged s →
    let o := s.pOffset p 512
    let w := (s.opS a).toNat % 65536
    let z := s.pOffset p 128
    let past (l : TLoc) (n : Nat) : BitVec 12 := if (s.tile l).size ≤ n then cINV else 0
    let side (u : State) (v : BitVec 1) : List (BitVec 1024) := if v = 0 then u.me.sqA else u.me.sqB
    let done (u : State) (l : TLoc) (n : Nat) : Prop :=
      causesSet s u (past l n) ∧ counted s u l r ∧ pushed s u r true ∧ tilesBut l s u ∧ regsSame s.me u.me ∧ u.mem = s.mem
    let none_ (u : State) : Prop :=
      causesSet s u cABSENT ∧ (∀ l, u.tile l = s.tile l) ∧ pushed s u r false ∧ regsSame s.me u.me ∧ u.mem = s.mem
    (∀ l, s.consumer x = some l → s.avail l = .ready →
      (o % 64 = 0 → ∃ u, exec (.tld t i x r d p) s = .next u ∧ gets s u 4 ((s.tile l).read o 512) ∧ side u 0 = side s 0 ∧ side u 1 = side s 1 ∧ done u l o) ∧
      (w % 8 = 0 → ∃ u, exec (.tlw t i x r d a) s = .next u ∧ gets s u 3 (((s.tile l).read w 8).setWidth 4096) ∧ done u l w) ∧
      (z % 128 = 0 → (side s q).length < 16 → ∃ u, exec (.sqld t i x r q p) s = .next u ∧ u.me.pend = s.me.pend ∧
        side u q = side s q ++ [(s.tile l).read z 128] ∧ side u (1 - q) = side s (1 - q) ∧ done u l z)) ∧
    (∀ l, s.consumer x = some l → (s.tile l).st = .absent → x.getLsbD 8 = false →
      (o % 64 = 0 → ∃ u, exec (.tld t i x r d p) s = .next u ∧ gets s u 4 0 ∧ none_ u) ∧
      (w % 8 = 0 → ∃ u, exec (.tlw t i x r d a) s = .next u ∧ gets s u 3 0 ∧ none_ u) ∧
      (z % 128 = 0 → (side s q).length < 16 → ∃ u, exec (.sqld t i x r q p) s = .next u ∧ side u q = side s q ++ [0] ∧ none_ u)) ∧
    (o % 64 ≠ 0 → exec (.tld t i x r d p) s = .next (s.fatalMe .misalign)) ∧
    (w % 8 ≠ 0 → exec (.tlw t i x r d a) s = .next (s.fatalMe .misalign)) ∧
    (z % 128 ≠ 0 → exec (.sqld t i x r q p) s = .next (s.fatalMe .misalign))

/-- tst, tsw and tatom write exactly their bytes of a ready tile and nothing else; an ABSENT tile takes nothing and sets ABSENT. (R161, R163, R178) -/
def Obligations.TileWritesStoreTheirBytes : Prop :=
  ∀ (t : BitVec 3) (i : BitVec 2) (x : BitVec 9) (p a b d : BitVec 5) (op : BitVec 2) (s : State), unlogged s →
    let o := s.pOffset p 512
    let w := (s.opS a).toNat % 65536
    let z := (s.opS d).toNat % 65536
    let past (l : TLoc) (n : Nat) : BitVec 12 := if (s.tile l).size ≤ n then cINV else 0
    let rest (u : State) : Prop := regsSame s.me u.me ∧ u.mem = s.mem ∧ u.me.cq = s.me.cq
    let wrote (u : State) (l : TLoc) (n k : Nat) (v : BitVec (8 * k)) : Prop :=
      causesSet s u (past l n) ∧ tilesBut l s u ∧ rest u ∧ u.tile l = { (s.tile l).write n k v with st := .present }
    let none_ (u : State) : Prop := causesSet s u cABSENT ∧ (∀ l, u.tile l = s.tile l) ∧ rest u
    (∀ l, s.consumer x = some l → s.avail l = .ready →
      let old : W64 := (s.tile l).read z 8
      let y := s.opS a
      (o % 64 = 0 → ∃ u, exec (.tst t i x a p) s = .next u ∧ u.me.pend = s.me.pend ∧ wrote u l o 512 s.cur.ops.v) ∧
      (w % 8 = 0 → ∃ u, exec (.tsw t i x a b) s = .next u ∧ u.me.pend = s.me.pend ∧ wrote u l w 8 (s.opS b)) ∧
      (z % 8 = 0 → ∃ u, exec (.tatom t i x op d a) s = .next u ∧ gets s u 3 (old.setWidth 4096) ∧ wrote u l z 8 (match op.toNat with
        | 0 => old + y
        | 1 => if old.toInt < y.toInt then y else old
        | 2 => y
        | _ => if old = y then s.opS (a + 1) else old))) ∧
    (∀ l, s.consumer x = some l → (s.tile l).st = .absent →
      (o % 64 = 0 → ∃ u, exec (.tst t i x a p) s = .next u ∧ none_ u) ∧
      (w % 8 = 0 → ∃ u, exec (.tsw t i x a b) s = .next u ∧ none_ u) ∧
      (z % 8 = 0 → ∃ u, exec (.tatom t i x op d a) s = .next u ∧ gets s u 3 0 ∧ none_ u)) ∧
    (∀ (e : Tile) (n k j : Nat) (v : BitVec (8 * k)), e.size ≤ 65536 → j < e.size → (e.write n k v).count = e.count ∧ (e.write n k v).size = e.size ∧
      (e.write n k v).read j 1 = if n ≤ j ∧ j < n + k then v.extractLsb' (8 * (j - n)) (8 * 1) else e.read j 1) ∧
    (o % 64 ≠ 0 → exec (.tst t i x a p) s = .next (s.fatalMe .misalign)) ∧
    (w % 8 ≠ 0 → exec (.tsw t i x a b) s = .next (s.fatalMe .misalign)) ∧
    (z % 8 ≠ 0 → exec (.tatom t i x op d a) s = .next (s.fatalMe .misalign))

/-- talloc makes a zeroed PRESENT tile with its count, tcnt changes a count, tdrop ends a tile, tshare moves it to the launch table, tstat reports it. (R158, R162, R163, R179, R180, R181, R182) -/
def Obligations.TilesAreMadeCountedAndEnded : Prop :=
  ∀ (t : BitVec 3) (i : BitVec 2) (x : BitVec 9) (a b d : BitVec 5) (c : BitVec 6) (m : BitVec 11) (s : State), unlogged s →
    let rest (u : State) : Prop := regsSame s.me u.me ∧ u.mem = s.mem ∧ u.me.cq = s.me.cq
    let desc : Option W64 := if a = 0 then none else some (s.opS a)
    let shaped (e : Tile) : Tile := match desc with
      | some w => e.shape w
      | none => e
    let makes (o : Out) (n : W64) : Prop := ∀ l, s.producer x = some l → (s.tile l).st = .absent → (∀ w, desc = some w → descOk w = true) →
      (n = 0 → ∃ u, o = .next u ∧ u.tile l = shaped (s.tile l) ∧ tilesBut l s u ∧ rest u ∧ causesSet s u 0) ∧
      (n ≠ 0 → s.allocOk s.cur.core (some s.cur.x) (shaped (s.tile l)).granules = true → ∃ u, o = .next u ∧ tilesBut l s u ∧ rest u ∧
        causesSet s u (if 65535 < n.toNat then cCOUNTSAT else 0) ∧ (u.tile l).st = .present ∧ (u.tile l).count = min n.toNat 65535 ∧
        (u.tile l).data = 0 ∧ (u.tile l).size = (shaped (s.tile l)).size ∧ (u.tile l).fmt = (shaped (s.tile l)).fmt ∧
        (u.tile l).layout = (shaped (s.tile l)).layout)
    let counts (o : Out) (v : Int) : Prop := ∀ l, s.consumer x = some l → (s.tile l).st ≠ .absent → ∃ u, o = .next u ∧ tilesBut l s u ∧ rest u ∧
      causesSet s u (if 65535 < ((s.tile l).count : Int) + v then cCOUNTSAT else 0) ∧
      (((s.tile l).count : Int) + v ≤ 0 → (u.tile l).st = .absent) ∧
      (0 < ((s.tile l).count : Int) + v → u.tile l = { s.tile l with count := (min 65535 (((s.tile l).count : Int) + v)).toNat })
    makes (exec (.tallocImm t i x a c) s) (c.setWidth 64) ∧ makes (exec (.tallocReg t i x a b) s) (s.opS b) ∧
    counts (exec (.tcntImm t i x m) s) m.toInt ∧ counts (exec (.tcntReg t i x a) s) (s.opS a).toInt ∧
    (∀ l, s.consumer x = some l → (s.tile l).st ≠ .absent →
      (∃ u, exec (.tdrop t i x) s = .next u ∧ (u.tile l).st = .absent ∧ (u.tile l).count = 0 ∧ (u.tile l).size = (s.tile l).size ∧ tilesBut l s u ∧ rest u ∧
        causesSet s u 0) ∧
      ∃ u, exec (.tstat t i x d) s = .next u ∧ gets s u 3 ((s.tstatWord l).setWidth 4096) ∧ (∀ q, u.tile q = s.tile q) ∧ rest u) ∧
    (∀ n, s.me.name false x = some n → (s.tile (.unit s.cur.core s.cur.x n)).st ≠ .absent → (s.tile (.launch s.cur.core s.me.launch n)).st = .absent →
      ∃ u, exec (.tshare t i x) s = .next u ∧ (u.tile (.unit s.cur.core s.cur.x n)).st = .absent ∧
        u.tile (.launch s.cur.core s.me.launch n) = { s.tile (.unit s.cur.core s.cur.x n) with scope := true } ∧ rest u ∧ causesSet s u 0)

/-- tpark, tunpark, tplane, hbind, hadvp, hadvc, qbind and tquota act on the park, planes, rings, latches and quotas they name. (R116, R118, R119, R120, R121, R168, R169, R172, R182, R183, R184, R185) -/
def Obligations.ParksPlanesRingsLatchesAndQuotas : Prop :=
  ∀ (t : BitVec 3) (i : BitVec 2) (x : BitVec 9) (m e f : BitVec 8) (n c h : BitVec 4) (q r y : BitVec 2) (a : BitVec 5) (s : State), unlogged s →
    let rest (u : State) : Prop := u.me.s = s.me.s ∧ u.me.v = s.me.v ∧ u.me.k = s.me.k ∧ u.me.pc = s.me.pc ∧ u.me.tif = s.me.tif ∧ u.mem = s.mem
    let parks (o : Out) (l : TLoc) : Prop := ∀ k, (s.tile l).st = .present → s.avail l = .ready → s.launch? (s.ownerLaunch l) = some k →
      s.parks l.core < 64 → k.parkUsed + (s.tile l).parkBytes ≤ k.parkCap →
      ∃ u, o = .next u ∧ u.tile l = { s.tile l with st := .parking } ∧ tilesBut l s u ∧ rest u
    let unparks (o : Out) (l : TLoc) : Prop := (s.tile l).st = .parked → s.parks l.core < 64 →
      s.allocOk l.core (s.unparkAccount l) (s.tile l).granules = true → ∃ u, o = .next u ∧ (u.tile l).st = .unparking ∧ (u.tile l).data = (s.tile l).data ∧
        (u.tile l).count = (s.tile l).count ∧ tilesBut l s u ∧ rest u
    let at_ (k : Nat) : TLoc := s.resolve s.cur.core s.cur.x k
    let ls := at_ f.toNat
    let ld := at_ e.toNat
    let lc := at_ (e.toNat + 1)
    let els := (s.tile ls).rowBytes * 8 / tyBits (s.tile ls).fmt.toNat
    let ring : Option Ring := vget (n := 4) s.me.h n
    (∀ l, s.consumer x = some l → parks (exec (.tparkTile t i x) s) l ∧ unparks (exec (.tunparkTile t i x) s) l) ∧
    (∀ l, regTile (s.opS a) ≠ 0x1FF → s.consumer (regTile (s.opS a)) = some l →
      parks (exec (.tparkReg t i a) s) l ∧ unparks (exec (.tunparkReg t i a) s) l) ∧
    (s.avail ls = .ready → s.avail ld = .ready → s.avail lc = .ready → (s.tile ld).st = .present → (s.tile lc).st = .present →
      (s.tile ls).layout = false → (s.tile ls).fmt.toNat ≤ 10 → (s.tile ld).layout = true → (s.tile ld).rows = (s.tile ls).rows → els % 64 = 0 →
      fmtPlanes (s.tile ld).fmt.toNat * els / 8 ≤ (s.tile ld).rowBytes → els / 64 ≤ (s.tile lc).rows → 128 ≤ (s.tile lc).rowBytes →
      fmtLegal (s.tile ld).fmt.toNat = true → (s.tile ls).size ≤ 65536 → (s.tile ld).size ≤ 65536 → (s.tile lc).size ≤ 65536 →
      ls ≠ ld → ls ≠ lc → ld ≠ lc →
      ∃ u w, exec (.tplane t i e f r) s = .next u ∧ counted s u ls r ∧ rest u ∧ causesSet s u w ∧
        u.tile ld = { s.tile ld with data := (u.tile ld).data } ∧ u.tile lc = { s.tile lc with data := (u.tile lc).data } ∧
        planesMade (s.tile ls) (s.tile ld) (s.tile lc) (u.tile ld, u.tile lc, w)) ∧
    (m.toNat + c.toNat ≤ 255 → ∃ u, exec (.hbind t i m n c) s = .next u ∧ rest u ∧
      u.me.h = vset (n := 2 ^ 4) s.me.h n.toFin (some ⟨m.toNat, c.toNat + 1, 0, 0⟩)) ∧
    (255 < m.toNat + c.toNat → ∃ u, exec (.hbind t i m n c) s = .next u ∧ rest u ∧ u.me.h = s.me.h ∧ causesSet s u cINV) ∧
    (∃ u, exec (.hadvp t i n c) s = .next u ∧ rest u ∧ u.me.h = vset (n := 2 ^ 4) s.me.h n.toFin (ring.map fun g => { g with p := (g.p + c.toNat + 1) % g.n })) ∧
    (∃ u, exec (.hadvc t i n c) s = .next u ∧ rest u ∧ u.me.h = vset (n := 2 ^ 4) s.me.h n.toFin (ring.map fun g => { g with c := (g.c + c.toNat + 1) % g.n })) ∧
    (∃ u, exec (.qbind t i h q) s = .next u ∧ rest u ∧ u.me.q = vset (n := 2 ^ 2) s.me.q q.toFin (some h)) ∧
    (∃ u, exec (.qbindUnbind t i q) s = .next u ∧ rest u ∧ u.me.q = vset (n := 2 ^ 2) s.me.q q.toFin none) ∧
    (s.me.priv = true → (s.ctx s.cur.core y.toFin).st ≠ .free → ((s.opS a).toNat % 2048) +
        ((allCtx.filter fun z => z ≠ y.toFin).map fun z => (s.ctx s.cur.core z).quota.toNat).sum ≤ 1024 →
      ∃ u, exec (.tquota t i y a) s = .next u ∧ rest u ∧ (u.ctx s.cur.core y.toFin).quota.toNat = (s.opS a).toNat % 2048) ∧
    (s.me.priv = false → exec (.tquota t i y a) s = .next (s.fatalMe .permission))

/-- cld and clw read a tile of the launch on the named core and count the read there; cst, csw and catom write it; ccnt changes its count. That reserved bits of the peer word are judged before a CORE of 96 or more is log entry 46 (DEDUCED), and a misaligned offset before the tile's wait log entry 50 (DEDUCED). (R161, R178, R268, R273, R274, R275) -/
def Obligations.PeerReadsDeliverAndCount : Prop :=
  ∀ (t : BitVec 3) (i : BitVec 2) (x : BitVec 9) (r op : BitVec 2) (d a b c : BitVec 5) (s : State), unlogged s →
    let w := s.opS c
    let y := s.opS d
    let o := w.toNat / 2 ^ 16 % 2 ^ 16
    let z := y.toNat / 2 ^ 16 % 2 ^ 16
    let past (l : TLoc) (n : Nat) : BitVec 12 := if (s.tile l).size ≤ n then cINV else 0
    let rest (u : State) : Prop := regsSame s.me u.me ∧ u.mem = s.mem
    let wrote (u : State) (l : TLoc) (n k : Nat) (v : BitVec (8 * k)) : Prop :=
      causesSet s u (past l n) ∧ tilesBut l s u ∧ rest u ∧ u.tile l = { (s.tile l).write n k v with st := .present }
    let good (p : W64) : Prop := p.extractLsb' 60 4 = 0#4 ∧ p.getLsbD 51 = false ∧ p.extractLsb' 7 9 = 0#9
    let near (p : W64) : Prop := p.toNat % 128 < 96
    let loc (p : W64) (n : Nat) : TLoc := .launch (s.cur.core / 96 * 96 + p.toNat % 128) s.me.launch n
    let bad (q : Out) : Prop := ∃ u, q = .next u ∧ causesSet s u cINV ∧ rest u ∧ ∀ l, u.tile l = s.tile l
    (∀ n, s.me.name false x = some n → good w → near w →
      let l := loc w n
      (s.avail l = .ready → o % 64 = 0 →
        (∃ u, exec (.cld t i x r d c) s = .next u ∧ gets s u 0 ((s.tile l).read o 512) ∧ causesSet s u (past l o) ∧ counted s u l r ∧ pushed s u r true ∧
          tilesBut l s u ∧ rest u) ∧
        ∃ u, exec (.cst t i x a c) s = .next u ∧ wrote u l o 512 s.cur.ops.v) ∧
      (s.avail l = .ready → o % 8 = 0 →
        (∃ u, exec (.clw t i x r d c) s = .next u ∧ gets s u 0 (((s.tile l).read o 8).setWidth 4096) ∧ causesSet s u (past l o) ∧ counted s u l r ∧
          pushed s u r true ∧ tilesBut l s u ∧ rest u) ∧
        ∃ u, exec (.csw t i x b c) s = .next u ∧ wrote u l o 8 (s.opS b)) ∧
      ((s.tile l).st ≠ .absent → ∃ u, exec (.ccnt t i x a c) s = .next u ∧ tilesBut l s u ∧ rest u ∧
        (((s.tile l).count : Int) + (s.opS a).toInt ≤ 0 → (u.tile l).st = .absent) ∧
        (0 < ((s.tile l).count : Int) + (s.opS a).toInt →
          u.tile l = { s.tile l with count := (min 65535 (((s.tile l).count : Int) + (s.opS a).toInt)).toNat }))) ∧
    (∀ n, s.me.name false x = some n → good y → near y → s.avail (loc y n) = .ready → z % 8 = 0 →
      ∃ u, exec (.catom t i x op d a) s = .next u ∧ gets s u 0 (((s.tile (loc y n)).read z 8).setWidth 4096) ∧
        wrote u (loc y n) z 8 (atomicWord op ((s.tile (loc y n)).read z 8) (s.opS a) (s.opS (a + 1)))) ∧
    (¬good w → bad (exec (.cld t i x r d c) s) ∧ bad (exec (.clw t i x r d c) s) ∧ bad (exec (.cst t i x a c) s) ∧ bad (exec (.csw t i x b c) s) ∧
      bad (exec (.ccnt t i x a c) s)) ∧
    (good w → ¬near w → exec (.cld t i x r d c) s = .next (s.fatalMe .permission) ∧ exec (.cst t i x a c) s = .next (s.fatalMe .permission) ∧
      exec (.ccnt t i x a c) s = .next (s.fatalMe .permission)) ∧
    (good w → near w → o % 64 ≠ 0 → exec (.cld t i x r d c) s = .next (s.fatalMe .misalign) ∧ exec (.cst t i x a c) s = .next (s.fatalMe .misalign))

/-- ccopy makes its destination FILLING with the count of its word, and appends one command with the source core and tile to the copy queue. (R196, R265, R268, R276, R277) -/
def Obligations.PeerCopiesEnterTheCopyQueue : Prop :=
  ∀ (t : BitVec 3) (i : BitVec 2) (x : BitVec 9) (r : BitVec 2) (c : BitVec 5) (s : State) (l : TLoc), unlogged s →
    let w := s.opS c
    let peer := s.cur.core / 96 * 96 + w.toNat % 128
    let src := w.toNat / 2 ^ 52 % 2 ^ 8
    let count := w.toNat / 2 ^ 32 % 2 ^ 16
    let pb := w.toNat / 2 ^ 48 % 8
    let bar := s.nb s.cur.core pb
    let size := (s.tile l).size
    w.extractLsb' 60 4 = 0#4 → w.getLsbD 51 = false → w.extractLsb' 7 9 = 0#9 → w.toNat % 128 < 96 →
    s.producer x = some l → (s.tile l).st = .absent → s.me.ccq.length < 8 → (s.tile (.launch peer s.me.launch src)).size = size → count ≠ 0 →
    (pb = 0 ∨ (bar.owner = s.me.launch ∧ bar.pend.toNat + size < 2 ^ 36) ∨ bar.owner = 0) →
    s.allocOk s.cur.core (some s.cur.x) (s.tile l).granules = true →
    ∃ u m, exec (.ccopy t i x r c) s = .next u ∧ (u.tile l).st = .filling ∧ (u.tile l).count = count ∧ (u.tile l).data = 0 ∧ (u.tile l).size = size ∧
      tilesBut l s u ∧ regsSame s.me u.me ∧ u.mem = s.mem ∧ u.me.ccq = s.me.ccq ++ [m] ∧ m.srcCore = peer ∧ m.aux = [src] ∧
      (m.consume = true ↔ r = 0) ∧ m.total = size / 64 ∧ m.state = 0 ∧ m.next = 0 ∧ m.dst = some (u.tile l).uid ∧
      (pb ≠ 0 → bar.owner = 0 → u.me.sticky = (s.me.sticky1 6 cINV s.cur.org).sticky) ∧
      (u.nb s.cur.core pb).pend = if s.pbInst (BitVec.ofNat 3 pb) = 0 then bar.pend else bar.pend + BitVec.ofNat 36 size

/-- Named barriers: binit takes or re-targets, barv arrives, bexp changes EXP, and an arrival that leaves EXP and PEND at 0 flips the phase; bwait and btry test it. That a remote barv and csev act whatever the reserved bits of their word are is log entry 46 (DEDUCED). (R264, R265, R266, R267, R278, R279, R280, R281, R282) -/
def Obligations.BarriersArriveAndComplete : Prop :=
  ∀ (t : BitVec 3) (i : BitVec 2) (n : BitVec 11) (m : BitVec 9) (a : BitVec 5) (k : BitVec 4) (s : State), unlogged s →
    let c := s.cur.core
    let w := s.opS a
    let peer := c / 96 * 96 + w.toNat % 128
    let own : W32 := s.me.launch
    let b := s.nb c n.toNat
    let settled (e : Barrier) : Barrier := if e.exp = 0 ∧ e.pend = 0 ∧ e.target ≠ 0 then { e with phase := !e.phase, exp := e.target, flips := e.flips + 1 } else e
    let others (d : Nat) (u : State) : Prop := (∀ j e, (e, j) ≠ (d, n.toNat) → u.nb e j = s.nb e j) ∧ regsSame s.me u.me ∧ u.mem = s.mem ∧ ∀ l, u.tile l = s.tile l
    let takes (o : Out) (v : BitVec 16) : Prop :=
      (b.owner = 0 → own ≠ 0 → ∃ u, o = .next u ∧ others c u ∧ (u.nb c n.toNat).owner = own ∧ (u.nb c n.toNat).exp = v ∧ (u.nb c n.toNat).target = v ∧
        (u.nb c n.toNat).pend = 0 ∧ (u.nb c n.toNat).phase = false) ∧
      (b.owner = own → own ≠ 0 → b.exp = b.target → b.pend = 0 → ∃ u, o = .next u ∧ others c u ∧ u.nb c n.toNat = { b with target := v, exp := v })
    takes (exec (.binitImm t i n m) s) (m.setWidth 16) ∧ takes (exec (.binitReg t i n a) s) (w.setWidth 16) ∧
    (b.owner = own → own ≠ 0 → b.exp ≠ 0 → ∃ u, exec (.barv t i n) s = .next u ∧ others c u ∧
      u.nb c n.toNat = settled { b with exp := b.exp - 1 } ∧ u.me.ap n.toNat = some b.phase) ∧
    (w.toNat % 128 < 96 → peer ≠ c → (s.nb peer n.toNat).owner = own → own ≠ 0 → (s.nb peer n.toNat).exp ≠ 0 →
      ∃ u, exec (.barvRemote t i n a) s = .next u ∧ others peer u ∧
        u.nb peer n.toNat = settled { s.nb peer n.toNat with exp := (s.nb peer n.toNat).exp - 1 } ∧ u.me.arv = s.me.arv) ∧
    (b.owner = own → own ≠ 0 → ∃ u, exec (.bexp t i n a) s = .next u ∧ others c u ∧
      u.nb c n.toNat = settled { b with exp := BitVec.ofNat 16 (max 0 (min 65535 ((b.exp.toNat : Int) + w.toInt))).toNat }) ∧
    (b.owner = own → own ≠ 0 → ∀ p, s.me.ap n.toNat = some p →
      (b.phase ≠ p → (∃ u, exec (.bwait t i n) s = .next u ∧ u.me.ap n.toNat = none ∧ u.me.sw[streamOf s.cur.slot] = .none ∧ others c u ∧ u.nb c n.toNat = b) ∧
        ∃ u, exec (.btry t i n) s = .next u ∧ u.me.cq = (s.me.fillCq s.cur.cqTok true).cq ∧ u.me.ap n.toNat = none ∧ others c u) ∧
      (b.phase = p → ((s.cur.note = none ∨ s.cur.note = some b.flips) → ∃ u, exec (.bwait t i n) s = .next u ∧ u.me.sw[streamOf s.cur.slot] = .barrier ∧
          u.me.stream (streamOf s.cur.slot) = { s.cur.word with note := some b.flips } :: s.me.stream (streamOf s.cur.slot)) ∧
        ∃ u, exec (.btry t i n) s = .next u ∧ u.me.cq = (s.me.fillCq s.cur.cqTok false).cq ∧ others c u)) ∧
    (w.toNat % 128 < 96 → ∃ u, exec (.csev t i a k) s = .next u ∧ regsSame s.me u.me ∧ u.mem = s.mem ∧
      ∀ y : CtxId, (u.ctx peer y).event = ((s.ctx peer y).event || (k.getLsbD y.val && decide ((s.ctx peer y).st ≠ .free) && decide ((s.ctx peer y).vf = s.me.vf)))) ∧
    (b.owner ≠ 0 → b.owner ≠ own → exec (.barv t i n) s = .next (s.fatalMe .permission) ∧ exec (.bwait t i n) s = .next (s.fatalMe .permission) ∧
      exec (.btry t i n) s = .next (s.fatalMe .permission) ∧ exec (.bexp t i n a) s = .next (s.fatalMe .permission) ∧
      exec (.binitImm t i n m) s = .next (s.fatalMe .permission))

/-- mcall, mload, aclr and acmv enter the engine queue with copies of their operands; mpset, mpget, aclass, sqclr, ftset, ftsel and mwait act at once. (R220, R221, R222, R239, R240, R241, R242, R243, R244, R245, R246) -/
def Obligations.MatrixWordsActOnTheEngineAndItsRegisters : Prop :=
  ∀ (t : BitVec 3) (i : BitVec 2) (r : BitVec 8) (n d g l : BitVec 3) (a : BitVec 5) (x y z : BitVec 1) (c m : BitVec 2) (f : BitVec 4) (s : State),
    let queued (o : Out) (k : MKind) (p : MOp → Prop) : Prop := ∃ q, o = .next (s.modHere fun h => { h with mq := h.mq ++ [q] }) ∧ q.kind = k ∧
      q.launch = s.me.launch ∧ q.unit = s.me.unit ∧ q.x = s.cur.x ∧ q.org = s.cur.org ∧ q.mp = s.me.mp ∧ q.after = s.here.cyc + 4 ∧ p q
    let v := s.sreg a
    let w : W32 := v.setWidth 32 &&& 0x1FFFF7DF#32
    (s.granted d = true → queued (exec (.mcall t i r d x y z) s) .call fun q =>
      q.d = d ∧ q.idx = r ∧ (q.na = true ↔ x = 1) ∧ (q.nega = true ↔ y = 1) ∧ (q.negb = true ↔ z = 1) ∧ q.ft = s.cur.ops.ft) ∧
    (s.granted d = false → exec (.mcall t i r d x y z) s = .next (s.fatalMe .permission)) ∧
    (v.toNat % 64 = 0 → queued (exec (.mload t i a) s) .mload fun q => q.addr = v) ∧
    (v.toNat % 64 ≠ 0 → exec (.mload t i a) s = .next (s.fatalMe .misalign)) ∧
    (s.granted n = true → queued (exec (.aclr t i n) s) .aclr fun q => q.d = n) ∧
    (s.granted n = false → exec (.aclr t i n) s = .next (s.fatalMe .permission)) ∧
    (s.granted d = true → s.granted g = true → queued (exec (.acmv t i d g m) s) .acmv fun q => q.d = d ∧ q.src = g ∧ q.mode = m) ∧
    (s.granted d = false ∨ s.granted g = false → exec (.acmv t i d g m) s = .next (s.fatalMe .permission)) ∧
    (∃ u : W64, exec (.mpset t i n a) s = .next (s.land 1 (.mp n u) 0) ∧ (n.toNat = 7 → u = v) ∧ (n.toNat ≤ 1 → u = v &&& 0xFFFFFFFFFF#64) ∧
      (n.toNat = 2 → u = v &&& 0x00000FFF00000FFF#64)) ∧
    exec (.mpget t i a n) s = .next (s.land 2 (.s a (vget (n := 3) s.me.mp n)) 0) ∧
    (s.granted n = true → s.bankClass n ≠ c → (c = 1 → 6 ≤ n.toNat) → ∃ u, exec (.aclass t i n c) s = .next u ∧ onlyCore s.cur.core s u ∧
      u.here.ctx = s.here.ctx ∧ ∀ b : BitVec 3, u.bankClass b = (if b = n then c else s.bankClass b) ∧
        vget (n := 3) u.here.banks b = if b = n then 0 else vget (n := 3) s.here.banks b) ∧
    (s.granted n = true → s.bankClass n = c → exec (.aclass t i n c) s = .next s) ∧
    (s.granted n = true → s.bankClass n ≠ 1 → n.toNat < 6 → exec (.aclass t i n 1) s = .next (s.land 1 .none cINV)) ∧
    exec (.sqclr t i m) s = .next (s.modMe fun cx =>
      { cx with sqA := if m.getLsbD 0 then [] else cx.sqA, sqB := if m.getLsbD 1 then [] else cx.sqB }) ∧
    (ftValid w = true → exec (.ftset t i f a) s = .next (s.land 1 (.ft f w) 0)) ∧
    (ftValid w = false → exec (.ftset t i f a) s = .next (s.land 1 .none cINV)) ∧
    exec (.ftsel t i l) s = .next (s.land 1 (.ftlevel l) 0) ∧
    exec (.mwaitAll t i) s = .next s ∧
    (s.granted n = true → exec (.mwaitBank t i n) s = .next s) ∧
    (s.granted n = false → exec (.mwaitBank t i n) s = .next (s.fatalMe .permission))

/-- finit, fins, fmrg and fclr enter the queue of their front bank; frd reads sixteen tuples and fcnt the status and counters. (R256, R259, R260, R261, R262, R263) -/
def Obligations.FrontWordsEnterTheirQueueOrRead : Prop :=
  ∀ (t : BitVec 3) (i : BitVec 2) (n g : BitVec 3) (k : BitVec 3) (d a b : BitVec 5) (j : Fin 2) (s : State),
    let front := s.here.front[j]
    let good : Prop := n.toNat = 6 + j.val ∧ s.granted n = true ∧ s.bankClass n = 1
    let queued (o : Out) (q : FKind) (p : FOp → Prop) : Prop := ∃ u f, o = .next u ∧ u.here.fq[j] = s.here.fq[j] ++ [f] ∧
      (∀ e : Fin 2, e ≠ j → u.here.fq[e] = s.here.fq[e]) ∧ u.here.banks = s.here.banks ∧ u.here.front = s.here.front ∧ u.mem = s.mem ∧
      f.kind = q ∧ f.bank = n ∧ f.x = s.cur.x ∧ f.launch = s.me.launch ∧ f.unit = s.me.unit ∧ p f
    (good → queued (exec (.finit t i n a) s) .finit fun f => f.cfg = s.sreg a) ∧
    (good → queued (exec (.fins t i n a b) s) .fins fun f => f.v = (s.vsrc a).1 ∧ f.n = s.sreg b) ∧
    (good → s.granted g = true → s.bankClass g = 1 → queued (exec (.fmrg t i n g) s) .fmrg fun f => f.src = g) ∧
    (good → queued (exec (.fclr t i n) s) .fclr fun _ => True) ∧
    (good → ∃ v, exec (.frd t i d n a) s = .next (s.land 4 (.v d v) 0) ∧ ∀ r, r < 16 →
      v.toNat / 2 ^ (256 * r) % 2 ^ 256 = match front.tuples[(s.sreg a).toNat % 256 + r]? with
        | some q => q.tag.toNat * 2 ^ 128 + q.obj.toNat % 2 ^ (32 * (front.dm1.toNat + 1))
        | none => 0) ∧
    (good → k.toNat ≤ 4 → exec (.fcnt t i d n k) s = .next (s.land 2 (.s d (match k.toNat with
      | 0 => front.status
      | 1 => front.disc.setWidth 64
      | 2 => front.remv.setWidth 64
      | 3 => front.nand.setWidth 64
      | _ => front.ovfd.setWidth 64)) 0)) ∧
    (s.granted n = true → (n.toNat < 6 ∨ s.bankClass n ≠ 1) → exec (.frd t i d n a) s = .next (s.land 4 (.v d 0) cINV) ∧
      exec (.fcnt t i d n k) s = .next (s.land 2 (.s d 0) cINV) ∧ exec (.finit t i n a) s = .next (s.land 1 .none cINV) ∧
      exec (.fclr t i n) s = .next (s.land 1 .none cINV)) ∧
    (s.granted n = false → exec (.finit t i n a) s = .next (s.fatalMe .permission) ∧ exec (.fins t i n a b) s = .next (s.fatalMe .permission) ∧
      exec (.fmrg t i n g) s = .next (s.fatalMe .permission) ∧ exec (.fclr t i n) s = .next (s.fatalMe .permission) ∧
      exec (.frd t i d n a) s = .next (s.fatalMe .permission) ∧ exec (.fcnt t i d n k) s = .next (s.fatalMe .permission))

/-- The routine words load slices, add dot products, pop scales, promote, advance, branch, apply the epilogue and end the call as R232 to R234 say. (R116, R123, R126, R226, R227, R232, R233, R234) -/
def Obligations.RoutineWordsRunTheCall : Prop :=
  ∀ (s : State) (a : Call), s.here.call = some a →
    let bank := vget (n := 3) s.here.banks a.op.d
    let locA := s.opLoc s.cur.core a.op a.op.ta a.par.la
    let locB := s.opLoc s.cur.core a.op a.op.tb a.par.lb
    let runs (o : Out) (b : Call) : Prop := ∃ u, o = .next u ∧ u.here.call = some b ∧ u.here.tails = s.here.tails ∧ u.here.banks = s.here.banks ∧ u.mem = s.mem
    let like (x y : Call) : Prop := { x with ckA := y.ckA, ckB := y.ckB } = y
    let rows : Nat := if a.epi = none then 0 else if a.tr = some true then a.par.n else a.par.m
    let ends (o : Out) (b : Call) : Prop := ∃ u x, o = .next u ∧ like { x with doneAt := b.doneAt } b ∧ x.doneAt = a.ready + 3 + rows ∧ u.here.call = none ∧ u.here.tails = s.here.tails ++ [x] ∧ u.here.banks = s.here.banks
    let errs (o : Out) : Prop := ends o { a with causes := a.causes ||| cINV }
    let loads (o : Out) (b : Call) : Prop := ∃ u x, o = .next u ∧ like x b ∧ u.here.call = some x ∧ u.here.tails = s.here.tails ∧
      u.here.banks = s.here.banks ∧ (unlogged s → u.mem = s.mem)
    let atProm : Prop := a.group < a.par.kg ∧ ((a.group + 1) % a.par.g = 0 ∨ a.group + 1 = a.par.kg)
    let allProm : Prop := a.par.kg ≤ a.group ∨ (a.group + 1 = a.par.kg ∧ a.promoted = true)
    let slice (l : TLoc) (p : W64) (n q count stride : Nat) : List Int :=
      (List.range count).flatMap fun r => (List.range 64).map fun e =>
        codeAt s.freeCtr (s.tile l) n q (p.toNat / 2 ^ 9 % 2 ^ 6 + r) (p.toNat / 2 ^ 16 % 2 ^ 18 + stride * (64 * a.group + e))
    (a.group < a.par.kg → ∀ l, locA = some l → s.avail l = .ready → s.outOfTurn [l] 4 = false →
      loads (exec .rwLda s) { a with pos := a.pos + 1, atA := some (s.tile l).uid, aSl := some (slice l (a.op.p 0) (fmtPlanes a.par.fa.toNat) a.par.qa a.par.m a.par.sa) }) ∧
    (a.group < a.par.kg → ∀ l, locB = some l → s.avail l = .ready → s.outOfTurn [l] 4 = false →
      loads (exec .rwLdb s) { a with pos := a.pos + 1, atB := some (s.tile l).uid, bSl := some (slice l (a.op.p 1) (fmtPlanes a.par.fb.toNat) a.par.qb a.par.n a.par.sb) }) ∧
    (a.group < a.par.kg → locA = none →
      loads (exec .rwLda s) { a with pos := a.pos + 1, atA := none, aSl := some (List.replicate (a.par.m * 64) 0), causes := a.causes ||| cABSENT }) ∧
    (∀ la lb, a.aSl = some la → a.bSl = some lb → ∃ b, runs (exec .rwStep s) b ∧ b.pos = a.pos + 1 ∧ b.stepped = true ∧ b.group = a.group ∧
      b.ready = s.here.cyc + a.par.qa * a.par.qb * (if s.dieHot s.cur.core then 2 else 1) ∧
      b.inner.length = a.par.m * a.par.n ∧ ∀ i j, i < a.par.m → j < a.par.n →
        let dp : Int := ((List.range 64).map fun e => la.getD (64 * i + e) 0 * lb.getD (64 * j + e) 0).sum
        b.inner.getD (i * a.par.n + j) 0 =
          max (-2 ^ 31) (min (2 ^ 31 - 1) (a.inner.getD (i * a.par.n + j) 0 + (if a.op.nega = a.op.negb then dp else -dp)))) ∧
    ((a.aSl = none ∨ a.bSl = none) → errs (exec .rwStep s)) ∧
    (∀ g, (atProm → runs (exec (.rwSkip g) s) { a with pos := a.pos + 1 }) ∧ (¬atProm → runs (exec (.rwSkip g) s) { a with pos := g.toNat })) ∧
    (let cx := s.ctx s.cur.core a.op.x
     let ua := a.par.smode.getLsbD 0
     let ub := a.par.smode.getLsbD 1
     (a.stepped = true → atProm → a.popped = false → (ua = true → cx.sqA ≠ []) → (ub = true → cx.sqB ≠ []) →
      let bad (e : BitVec 1024) : Bool := decide (∃ n, n < 64 ∧ e.toNat / 2 ^ (16 * n + 7) % 2 ^ 8 = 255)
      ∃ u, exec .rwSpop s = .next u ∧ u.here.call = some { a with
          pos := a.pos + 1, popped := true, scA := cx.sqA.headD 0, scB := cx.sqB.headD 0, causes := a.causes ||| (if (ua && bad (cx.sqA.headD 0)) || (ub && bad (cx.sqB.headD 0)) then cSCALEBAD else 0) } ∧
        (u.ctx s.cur.core a.op.x).sqA = (if ua then cx.sqA.drop 1 else cx.sqA) ∧ (u.ctx s.cur.core a.op.x).sqB = (if ub then cx.sqB.drop 1 else cx.sqB)) ∧
     (a.stepped = false ∨ ¬atProm ∨ a.popped = true → errs (exec .rwSpop s))) ∧
    (∀ tr, a.stepped = true → atProm → a.promoted = false → (a.par.smode = 0 ∨ a.popped = true) → a.tr ≠ some (!tr) → (∀ e ∈ s.here.tails, e.op.d ≠ a.op.d) →
      s.here.bankLanding a.op.d = false →
      let r := overRegion a.par tr bank (promoteElem a)
      ∃ u, exec (.rwProm tr) s = .next u ∧ u.here.banks = vset (n := 2 ^ 3) s.here.banks a.op.d.toFin r.1 ∧ u.here.call = some { a with
        pos := a.pos + 1, promoted := true, first := false, tr := some tr, causes := a.causes ||| r.2, inner := List.replicate (a.par.m * a.par.n) 0 }) ∧
    ((a.stepped = true → (¬atProm ∨ a.promoted = true) → runs (exec .rwKadv s)
      { a with pos := a.pos + 1, group := a.group + 1, aSl := none, bSl := none, stepped := false, popped := false, promoted := false, kadv := true }) ∧ (a.stepped = false → errs (exec .rwKadv s))) ∧
    (∀ g, (a.par.kg ≤ a.group → runs (exec (.rwJmore g) s) { a with pos := a.pos + 1 }) ∧
      (a.group < a.par.kg → a.kadv = true → runs (exec (.rwJmore g) s) { a with pos := g.toNat, kadv := false }) ∧
      (a.group < a.par.kg → a.kadv = false → errs (exec (.rwJmore g) s))) ∧
    (∀ e, a.bwrDone = false → allProm → s.here.bankLanding a.op.d = false →
      runs (exec (.rwBwr e) s) { a with pos := a.pos + 1, bwrDone := true, epi := some e }) ∧
    (∀ b q, s.ev.c = s.cur.core → s.here.tails = b :: q → b.doneAt ≤ s.here.cyc →
      let left := vget (n := 3) s.here.banks b.op.d
      let r := match b.epi with
        | none => left
        | some e => (overRegion b.par (b.tr.getD false) left fun _ _ x => epilogueElem e.toNat b.par.fp32 ((b.op.p 7).setWidth 32) x).1
      ∃ u, exec .matrixCallComplete s = .next u ∧ u.here.tails = q ∧ u.here.banks = vset (n := 2 ^ 3) s.here.banks b.op.d.toFin r) ∧
    (allProm → ends (exec .rwEnd s) a) ∧
    (¬allProm → errs (exec .rwEnd s))

/-- A promotion changes only the words of the result region, each to its own promoted value: integers add and saturate, NA replaces, FP32 adds the scaled value. (R120, R121, R126, R219, R229, R234) -/
def Obligations.PromotionArithmetic : Prop :=
  ∀ (par : CallPar) (tr : Bool) (bank : Bank) (f : Nat → Nat → Nat → Nat × BitVec 12),
    par.drow + (if tr then par.n else par.m) ≤ 64 → par.dcol + (if tr then par.m else par.n) ≤ 64 →
    let word (b : Bank) (n : Nat) : Nat := b.toNat / 2 ^ (32 * n) % 2 ^ 32
    let at_ (i j : Nat) : Nat := if tr then (par.drow + j) * 64 + par.dcol + i else (par.drow + i) * 64 + par.dcol + j
    let out := (overRegion par tr bank f).1
    (∀ i j, i < par.m → j < par.n → word out (at_ i j) = (f i j (word bank (at_ i j))).1 % 2 ^ 32) ∧
    (∀ n, n < 4096 → (∀ i j, i < par.m → j < par.n → n ≠ at_ i j) → word out n = word bank n) ∧
    (∀ (a : Call) (i j old : Nat), old < 2 ^ 32 →
      let x := a.inner.getD (i * a.par.n + j) 0
      let opening : Bool := a.first && a.op.na
      let sat (v : Int) : Nat × BitVec 12 := (ofIntBits 32 (max (-2 ^ 31) (min (2 ^ 31 - 1) v)), if v < -2 ^ 31 ∨ 2 ^ 31 - 1 < v then cIOVF else 0)
      let scale (used : Bool) (e : BitVec 1024) (n : Nat) (z : Bool) (m : Nat) (k : Int) : Prop :=
        let v := e.toNat / 2 ^ (16 * n) % 2 ^ 16
        if used then (if v / 2 ^ 7 % 2 ^ 8 = 255 then z = false ∧ m = 0 ∧ k = 0 else bf16.decode v = .fin z m k) else z = false ∧ m = 1 ∧ k = 0
      let row (p : W64) : Nat := p.toNat / 2 ^ 9 % 2 ^ 6
      (a.par.fp32 = false → opening = true → promoteElem a i j old = (ofIntBits 32 x, 0)) ∧
      (a.par.fp32 = false → opening = false → promoteElem a i j old = sat (signed 32 old + x)) ∧
      (a.par.fp32 = true → ∀ za ma ea zb mb eb, scale (a.par.smode.getLsbD 0) a.scA (row (a.op.p 0) + i) za ma ea →
        scale (a.par.smode.getLsbD 1) a.scB (row (a.op.p 1) + j) zb mb eb →
        let r := fp32.ofExact .arith 0 (decide (x < 0) != (za != zb)) (x.natAbs * ma * mb)
          (ea + eb + ((fmtPlanes a.par.fa.toNat - a.par.qa + (fmtPlanes a.par.fb.toNat - a.par.qb) : Nat) : Int))
        let q := fAdd fp32 0 old r.1
        promoteElem a i j old = if opening then r else (q.1, q.2 ||| r.2 ||| (if q.1 % 2 ^ 31 = 0x7F800000 then cOVF else 0))) ∧
      ∀ v : W32,
        let s32 := signed 32 old
        let k := signed 32 v.toNat
        let top : Int := min (2 ^ 31 - 1) k.natAbs
        epilogueElem 0 false v old = (if s32 < 0 then 0 else old, 0) ∧ epilogueElem 1 false v old = sat (s32 * k) ∧
        epilogueElem 2 false v old = sat (s32 + k) ∧ epilogueElem 3 false v old = (ofIntBits 32 (max (-top) (min top s32)), 0))

/-- gls delivers the sign- or zero-extended bytes at the translated address; gss and gvst issue a store of their bytes; PERMISSION, faults and misses do neither. (R186, R189, R190, R191, R195, R197, R199, R202, R283, R284) -/
def Obligations.DirectLoadsAndStores : Prop :=
  ∀ (t : BitVec 3) (i : BitVec 2) (d a : BitVec 5) (e : BitVec 6) (y : BitVec 3) (s : State), s.me.rep.replaying = false →
    let va := s.adr e
    let n := 2 ^ (y.toNat % 4)
    let free (wr : Bool) (va : W64) (n : Nat) : Prop := s.lineBusy va n = false ∧ s.behindOwn wr va.toNat n = false ∧ s.requests s.cur.core < 768 ∧
      s.faulted = false ∧ va.toNat % 32768 + n ≤ 32768
    let maps (wr : Bool) (va : W64) : Xl := s.xlate s.cur.core s.me.vf s.me.priv wr va
    let ready : State := { s with cur := { s.cur with note := none } }
    let sees (e : Late) : Bool := e.sees s.me.launch s.me.unit none
    let waits (o : Out) (w : Wait) (p : State → Prop) : Prop := ∃ u, o = .next u ∧ u.me.sw[streamOf s.cur.slot] = w ∧
      u.mem = s.mem ∧ u.me.stores = s.me.stores ∧ u.me.pend = s.me.pend ∧ p u
    let issued (o : Out) (pa k : Nat) (v : VReg) : Prop := ∃ u st, o = .next u ∧ u.me.stores = s.me.stores ++ [st] ∧ st.va = va ∧ st.pa = pa ∧ st.n = k ∧
      st.data = v ∧ u.mem = s.mem ∧ regsSame s.me u.me ∧ u.me.pend = s.me.pend
    let fault (wr : Bool) (o : Out) : Prop := waits o .address fun u => u.pfaults = s.pfaults ++ [⟨s.cur.core, s.cur.x, va, wr, 7, s.cur.tok, false⟩]
    let miss (wr : Bool) (o : Out) : Prop := waits o .stall fun u =>
      ∃ w ∈ alGet [] (clusterOf s.cur.core) u.walks, w.vf = s.me.vf ∧ w.va = va.toNat / 32768 * 32768 ∧ ⟨s.cur.core, s.cur.x, va, wr, 7, s.cur.tok, false⟩ ∈ w.who
    (∀ pa k b, region pa ≠ 3 → pa % 64 + k ≤ 64 → b < k →
      s.readFor s.me.vf sees pa k / 256 ^ b % 256 =
        let line := s.late.filter fun e => linesMeet pa k e.st.pa e.st.n
        match (line.reverse.dropWhile fun e => !(sees e)).find? fun e => decide (e.st.pa ≤ pa + b ∧ pa + b < e.st.pa + e.st.n) with
        | some e => e.st.data.toNat / 256 ^ (pa + b - e.st.pa) % 256
        | none => readNat s.mem (pa + b) 1) ∧
    (va.toNat % n = 0 → free false va n →
      (∀ pa, maps false va = .ok pa → s.readsPoison [(pa, n)] = false →
        let ext (raw : Nat) : VReg := (if y.toNat < 4 then BitVec.ofInt 64 (signed (8 * n) raw) else BitVec.ofNat 64 raw : W64).setWidth 4096
        let own := s.me.stores.filter fun st => bytesMeet pa n st.pa st.n
        let loads (before : State) (raw : Nat) : Prop := ∃ u, exec (.gls t i d e y) s = .next u ∧ u.mem = before.mem ∧ regsSame s.me u.me ∧
          u.me.stores = before.me.stores ∧ u.me.pend = s.me.pend.map fun p => if p.tok = s.cur.tok then
            { p with val := some (ext raw), left := 0, again := some { s.cur.word with note := none }, host := p.host || decide (region pa = 2) } else p
        (own = [] → loads s (s.readFor s.me.vf sees pa n)) ∧
        (∀ l st, own = l ++ [st] → region pa ≠ 3 → st.pa ≤ pa → pa + n ≤ st.pa + st.n → loads s (st.data.toNat / 256 ^ (pa - st.pa) % 256 ^ n)) ∧
        (∀ l st, own = l ++ [st] → (region pa = 3 ∨ ¬(st.pa ≤ pa ∧ pa + n ≤ st.pa + st.n)) →
          loads (s.flushTo pa n) ((s.flushTo pa n).readFor s.me.vf sees pa n))) ∧
      (∀ pa, maps false va = .ok pa → s.readsPoison [(pa, n)] = true → exec (.gls t i d e y) s =
        .next ((ready.fatalMe .poison).fenAdd (s.fenCount [(pa, n)]))) ∧
      (maps false va = .perm → exec (.gls t i d e y) s = .next (ready.fatalMe .permission)) ∧
      (maps false va = .fault → fault false (exec (.gls t i d e y) s)) ∧
      (maps false va = .miss → miss false (exec (.gls t i d e y) s))) ∧
    (va.toNat % n = 0 → free true va n →
      (∀ pa, maps true va = .ok pa → issued (exec (.gss t i a e y) s) pa n ((s.opS a).setWidth 4096)) ∧
      (maps true va = .perm → exec (.gss t i a e y) s = .next (ready.fatalMe .permission)) ∧
      (maps true va = .fault → fault true (exec (.gss t i a e y) s)) ∧ (maps true va = .miss → miss true (exec (.gss t i a e y) s))) ∧
    (va.toNat % 64 = 0 → free true va 512 → ∀ pa, maps true va = .ok pa → issued (exec (.gvst t i a e) s) pa 512 s.cur.ops.v) ∧
    (va.toNat % n ≠ 0 → exec (.gls t i d e y) s = .next (s.fatalMe .misalign) ∧ exec (.gss t i a e y) s = .next (s.fatalMe .misalign)) ∧
    (va.toNat % 64 ≠ 0 → exec (.gvst t i a e) s = .next (s.fatalMe .misalign))

/-- gatom and gcas deliver the old word and leave the new one, grel adds 1 and releases, gwait completes when the word differs, gacq acquires; no other byte changes. That an atomic is performed for every party at once, that grel at scope CTX adds at once and that a wider one waits for places in coherence order alone is log entry 30 (DESIGN CHOICE). (R208, R209, R210, R283, R285, R286, R287, R288) -/
def Obligations.AtomicsReadModifyWriteOneWord : Prop :=
  ∀ (t : BitVec 3) (i : BitVec 2) (d a f v : BitVec 5) (e : BitVec 6) (op : BitVec 2) (sc : BitVec 3) (s : State),
    s.me.rep.replaying = false → s.me.rep.logging = false → memOk s → (∀ st ∈ s.me.stores, region st.pa ≠ 3) →
    let va := s.adr e
    let fa := s.opS f
    let x := s.opS a
    let free (wr : Bool) (va : W64) (n : Nat) : Prop := s.lineBusy va n = false ∧ s.behindOwn wr va.toNat n = false ∧ s.requests s.cur.core < 768 ∧
      s.faulted = false ∧ va.toNat % 32768 + n ≤ 32768
    let maps (wr : Bool) (va : W64) : Xl := s.xlate s.cur.core s.me.vf s.me.priv wr va
    let ready : State := { s with cur := { s.cur with note := none } }
    let sees (e : Late) : Bool := e.sees s.me.launch s.me.unit none
    let before (pa : Nat) : State := (s.flushTo pa 8).settle pa 8
    let word (pa : Nat) : W64 := BitVec.ofNat 64 (readNat (before pa).mem pa 8)
    let leaves (u : State) (pa : Nat) (w : W64) : Prop := ∀ b, readByte u.mem b =
      if pa ≤ b ∧ b < pa + 8 then w.extractLsb' (8 * (b - pa)) 8 else readByte (before pa).mem b
    let open_ (pa : Nat) : Prop := s.readsPoison [(pa, 8)] = false ∧ region pa ≠ 3
    let rels (u : State) (pa : Nat) : List Rel := alGet [] pa u.rels
    let joined (pa : Nat) : List Rel := (rels (before pa) pa).map fun r => { r with chain := r.chain ++ [(s.party, sc.toNat)] }
    let read (u : State) (a : W64) : List Rel := ((u.me.obs.find? fun p => p.1 = a).map fun p => p.2).getD []
    let stays (u : State) (w : Wait) : Prop := u.me.sw[streamOf s.cur.slot] = w ∧ u.mem = s.mem
    (va.toNat % 8 = 0 → free true va 8 → ∀ pa, maps true va = .ok pa → open_ pa →
      let old := word pa
      (∃ u, exec (.gatom t i d e a op sc) s = .next u ∧ gets s u 0 (old.setWidth 4096) ∧ regsSame s.me u.me ∧ rels u pa = joined pa ∧
        read u va = rels (before pa) pa ∧ leaves u pa (match op.toNat with
          | 0 => old + x
          | 1 => if old.toInt < x.toInt then x else old
          | 2 => x
          | _ => old ||| x)) ∧
      ∃ u, exec (.gcas t i d e a sc) s = .next u ∧ gets s u 0 (old.setWidth 4096) ∧ regsSame s.me u.me ∧ read u va = rels (before pa) pa ∧
        rels u pa = (if old = x then joined pa else rels (before pa) pa) ∧ leaves u pa (if old = x then s.opS (a + 1) else old)) ∧
    (fa.toNat % 8 = 0 → (sc = 0 ∨ s.owesBound fa = false) → free true fa 8 → ∀ pa, maps true fa = .ok pa → open_ pa →
      ∃ u, exec (.grel t i f sc) s = .next u ∧ regsSame s.me u.me ∧ u.me.pend = s.me.pend ∧ leaves u pa (word pa + 1) ∧
        rels u pa = joined pa ++ [⟨s.party, sc.toNat, s.covered fa, []⟩]) ∧
    (fa.toNat % 8 = 0 → free false fa 8 → ∀ pa, maps false fa = .ok pa → open_ pa → (∀ st ∈ s.me.stores, bytesMeet pa 8 st.pa st.n = false) →
      let found : W64 := BitVec.ofNat 64 (s.readFor s.me.vf sees pa 8)
      (found ≠ s.opS v → ∃ u, exec (.gwait t i f v) s = .next u ∧ stays u .none ∧ regsSame s.me u.me ∧
        u.me.stream (streamOf s.cur.slot) = s.me.stream (streamOf s.cur.slot)) ∧
      (found = s.opS v → ∃ u, exec (.gwait t i f v) s = .next u ∧ stays u .address ∧
        u.me.stream (streamOf s.cur.slot) = { s.cur.word with note := none } :: s.me.stream (streamOf s.cur.slot))) ∧
    (fa.toNat % 8 = 0 → s.lineBusy fa 8 = false → s.behindOwn false fa.toNat 8 = false →
      let around (z : Nat) (p q : Party) : Bool := match z with
        | 0 => decide (p = q)
        | 1 => p.core = q.core
        | 2 => p.core / 96 = q.core / 96
        | 3 => decide (p.core < 1536 ∧ q.core < 1536)
        | _ => true
      let made : List Nat := ((read s fa).filter fun r => around r.scope r.by_ s.party && around sc.toNat s.party r.by_ &&
        r.chain.all fun q => around q.2 q.1 s.party).flatMap fun r => r.covers
      ∃ u, exec (.gacq t i f sc) s = .next u ∧ stays u .none ∧ regsSame s.me u.me ∧
        u.me.stream (streamOf s.cur.slot) = s.me.stream (streamOf s.cur.slot) ∧
        u.late = s.late.map fun e => if made.contains e.num then { e with seen := e.seen ++ [(s.me.launch, s.me.unit, some fa)] } else e) ∧
    (fa.toNat % 8 = 0 → sc ≠ 0 → s.owesBound fa = true → exec (.grel t i f sc) s = .next (s.waitHead .stall)) ∧
    (va.toNat % 8 ≠ 0 → exec (.gatom t i d e a op sc) s = .next (s.fatalMe .misalign) ∧ exec (.gcas t i d e a sc) s = .next (s.fatalMe .misalign)) ∧
    (fa.toNat % 8 ≠ 0 → exec (.grel t i f sc) s = .next (s.fatalMe .misalign) ∧ exec (.gacq t i f sc) s = .next (s.fatalMe .misalign) ∧
      exec (.gwait t i f v) s = .next (s.fatalMe .misalign))

/-- gbind adds and gunbind removes a binding, gqfence puts a fence in each named queue, gtlbi drops the translations it covers and waits. (R195, R200, R211, R212, R214) -/
def Obligations.BindingsFencesAndInvalidations : Prop :=
  ∀ (t : BitVec 3) (i : BitVec 2) (r l f a b : BitVec 5) (m : BitVec 2) (k : BitVec 4) (s : State), s.me.rep.replaying = false →
    let g : Binding := ⟨s.opS r, s.opS l, s.opS f⟩
    let aligned : Prop := g.flag.toNat % 8 = 0 ∧ g.base.toNat % 64 = 0 ∧ g.len.toNat % 64 = 0
    let meets (o : Binding) : Prop := o.flag ≠ g.flag ∧ o.len ≠ 0 ∧ o.base.toNat < g.base.toNat + g.len.toNat ∧ g.base.toNat < o.base.toNat + o.len.toNat
    let fits : Prop := s.me.binds.length < 16 ∧ ∀ o ∈ s.me.binds, ¬meets o
    let named : List (BitVec 2) := ((List.range 4).filter fun n => k.getLsbD n).map (BitVec.ofNat 2)
    let queue (u : State) (q : BitVec 2) : List Cmd := vget (n := 2) u.me.eq q
    let turn : Prop := s.lineBusy g.flag 8 = false ∧ s.behindOwn false g.flag.toNat 8 = false
    let ready : State := { s with cur := { s.cur with note := none } }
    let lo := (s.opS a).toNat
    let covers (e : Tlb) : Bool := match m.toNat with
      | 0 => e.vf = s.me.vf && e.va < lo + (s.opS b).toNat * 32768 && lo < e.va + 2 ^ e.bits
      | 1 => e.vf = lo % 256
      | _ => true
    (aligned → turn → g.len ≠ 0 → fits → ∃ u, exec (.gbind t i r l f) s = .next u ∧ u.me.binds = s.me.binds ++ [g] ∧ regsSame s.me u.me ∧ u.mem = s.mem) ∧
    (aligned → turn → g.len ≠ 0 → ¬fits → exec (.gbind t i r l f) s = .next (ready.fatalMe .unbound)) ∧
    (¬aligned → exec (.gbind t i r l f) s = .next (s.fatalMe .misalign)) ∧
    (g.flag.toNat % 8 = 0 → turn → (∃ o ∈ s.me.binds, o.base = g.base ∧ o.flag = g.flag) → ∃ u o, exec (.gunbind t i r f) s = .next u ∧ o ∈ s.me.binds ∧
      o.base = g.base ∧ o.flag = g.flag ∧ u.me.binds = s.me.binds.erase o ∧ regsSame s.me u.me ∧ u.mem = s.mem) ∧
    (g.flag.toNat % 8 = 0 → turn → (∀ o ∈ s.me.binds, ¬(o.base = g.base ∧ o.flag = g.flag)) → exec (.gunbind t i r f) s = .next (ready.fatalMe .unbound)) ∧
    (g.flag.toNat % 8 = 0 → ¬turn → ∃ u, exec (.gunbind t i r f) s = .next u ∧ u.me.binds = s.me.binds ∧ u.me.sw[streamOf s.cur.slot] = .stall ∧ u.mem = s.mem) ∧
    ((∀ q ∈ named, (queue s q).length < 32) → ∃ u, exec (.gqfence t i k) s = .next u ∧ regsSame s.me u.me ∧ u.mem = s.mem ∧
      ∀ q : BitVec 2, if k.getLsbD q.toNat then ∃ c, queue u q = queue s q ++ [c] ∧ c.op = 0x10#6 ∧ c.state = 0 ∧
        c.aux = (named.flatMap fun p => queue s p).map (·.num) else queue u q = queue s q) ∧
    (s.me.priv = true → (∀ v ∈ s.invs, v.waiter ≠ some (s.cur.core, s.cur.x, s.cur.tok)) → s.cur.note = none → s.lineBusy 0 0 = false →
      ∃ u v, exec (.gtlbi t i a b m) s = .next u ∧ u.invs = s.invs ++ [v] ∧ v.waiter = some (s.cur.core, s.cur.x, s.cur.tok) ∧
        u.me.sw[streamOf s.cur.slot] = .stall ∧ u.mem = s.mem ∧
        (∀ c, (u.core c).tlb = (s.core c).tlb.filter fun e => !(covers e)) ∧ ∀ c, alGet [] c u.ctlb = (alGet [] c s.ctlb).filter fun e => !(covers e)) ∧
    (s.me.priv = true → (∀ v ∈ s.invs, v.waiter ≠ some (s.cur.core, s.cur.x, s.cur.tok)) → s.cur.note ≠ none → exec (.gtlbi t i a b m) s = .next s.performed) ∧
    (s.me.priv = false → exec (.gtlbi t i a b m) s = .next (s.fatalMe .permission))

/-- gsluice, gskim, gcoll, gsend and grecv hand one command with the descriptor's address to eq2 or eq3. (R192, R196, R213, R283, R302, R307, R366, R368) -/
def Obligations.DescriptorCommandsEnterTheirQueues : Prop :=
  ∀ (t : BitVec 3) (i : BitVec 2) (a : BitVec 5) (p : BitVec 3) (s : State), unlogged s →
    let d : BitVec 512 := BitVec.ofNat 512 (s.loadVa s.me.vf (s.opS a).toNat 64)
    let queue (u : State) (q : BitVec 2) : List Cmd := vget (n := 2) u.me.eq q
    let hands (j : Instr) (op : BitVec 6) (q : BitVec 2) : Prop :=
      (s.foreignPb p = false → (queue s q).length < 32 → (p = 0 ∨ s.bytesFit s.cur.core p (s.descTotal s.me.vf op d) = true) →
        (∀ st ∈ s.me.stores, ∀ r ∈ (true, (s.opS a).toNat, 64) :: s.descRanges (s.cmdAt op (s.opS a) p) d, bytesMeet st.va.toNat st.n r.2.1 r.2.2 = false ∧
          ∀ z ∈ s.physOf s.me.vf r.2.1 r.2.2, bytesMeet st.pa st.n z.1 z.2 = false) →
        (∀ r ∈ (true, (s.opS a).toNat, 64) :: s.descRanges (s.cmdAt op (s.opS a) p) d, s.behindOwn r.1 r.2.1 r.2.2 = false) →
        ∃ u m, exec j s = .next u ∧ queue u q = queue s q ++ [m] ∧ (∀ k, k ≠ q → queue u k = queue s k) ∧ m.op = op ∧ m.a1 = s.opS a ∧ m.pb = p ∧
          m.state = 0 ∧ m.launch = s.me.launch ∧ m.unit = s.me.unit ∧ m.org = s.cur.org ∧ regsSame s.me u.me ∧ u.mem = s.mem ∧ ∀ l, u.tile l = s.tile l) ∧
      (s.foreignPb p = true → exec j s = .next (s.fatalMe .permission)) ∧
      (s.foreignPb p = false → 32 ≤ (queue s q).length → exec j s = .next (s.waitHead .queueFull))
    hands (.gsluicePromote t i a p) 0x11 2 ∧
    hands (.gsluicePromoteX t i a p) 0x11 2 ∧
    hands (.gsluiceRelease t i a p) 0x11 2 ∧
    hands (.gskimSelect t i a p) 0x12 2 ∧
    hands (.gskimBiasw t i a p) 0x12 2 ∧
    hands (.gskimEpoch t i a p) 0x12 2 ∧
    hands (.gcollAllreduce t i a p) 0x13 3 ∧
    hands (.gcollReducescatter t i a p) 0x13 3 ∧
    hands (.gcollAllgather t i a p) 0x13 3 ∧
    hands (.gcollBroadcast t i a p) 0x13 3 ∧
    hands (.gsendData t i a p) 0x14 3 ∧
    hands (.gsendLaunch t i a p) 0x14 3 ∧
    hands (.grecv t i a p) 0x15 3

/-- gfetch and ggather make their destination FILLING and enter eq0; gscatter, gstore and gcopy enter eq1; gpref enters eq0. That a misaligned address is judged before a full queue or a wait, and that a gfetch of count 0 does nothing once its entry is ABSENT, is log entry 50 (DEDUCED). (R192, R195, R196, R203, R204, R205, R206, R207, R283) -/
def Obligations.TileCommandsEnterTheirQueues : Prop :=
  ∀ (t : BitVec 3) (i : BitVec 2) (x : BitVec 9) (n g p : BitVec 3) (c j l : BitVec 5) (e : BitVec 6) (r : BitVec 2) (k m : Nat) (s : State),
    unlogged s → s.me.name false x = some k → s.me.name true x = some m →
    let a := vget (n := 3) s.cur.ops.ag n
    let b := vget (n := 3) s.cur.ops.ag g
    let w := s.opS (j + 1)
    let len := (s.opS l).toNat
    let dst : TLoc := .unit s.cur.core s.cur.x m
    let scl : TLoc := .unit s.cur.core s.cur.x (m + 1)
    let src := s.resolve s.cur.core s.cur.x k
    let queue (u : State) (q : BitVec 2) : List Cmd := vget (n := 2) u.me.eq q
    let room (q : BitVec 2) (pb : BitVec 3) (bytes : Nat) : Prop := s.foreignPb pb = false ∧ (queue s q).length < 32 ∧ s.bytesFit s.cur.core pb bytes = true
    let clear (wr : Bool) (lo sz : Nat) : Prop := s.behindOwn wr lo sz = false ∧ ∀ st ∈ s.me.stores, bytesMeet st.va.toNat st.n lo sz = false ∧ ∀ z ∈ s.physOf s.me.vf lo sz, bytesMeet st.pa st.n z.1 z.2 = false
    let rest (u : State) : Prop := regsSame s.me u.me ∧ u.mem = s.mem
    let idle (u : State) : Prop := rest u ∧ (∀ q, u.tile q = s.tile q) ∧ ∀ q, queue u q = queue s q
    let refused (o : Out) : Prop := ∃ u, o = .next u ∧ causesSet s u cINV ∧ idle u
    let control (rows : Nat) (scatter : Bool) : Prop :=
      w.toNat / 2 ^ 33 = 0 ∧ w.toNat / 2 ^ 16 % 4 ≠ 3 ∧ rows % (w.toNat / 2 ^ 24 % 64 + 1) = 0 ∧ (scatter = true → w.toNat % 2 ^ 16 = 0)
    let listAt (v : W64) : Prop := w.toNat / 2 ^ 16 % 4 = 3 ∨ v.toNat % (2 * 2 ^ (w.toNat / 2 ^ 16 % 4)) = 0
    let enters (u : State) (q : BitVec 2) (op : BitVec 6) (v : Cmd → Prop) : Prop := ∃ m, queue u q = queue s q ++ [m] ∧ (∀ o, o ≠ q → queue u o = queue s o) ∧
      m.op = op ∧ m.state = 0 ∧ m.next = 0 ∧ m.launch = s.me.launch ∧ m.unit = s.me.unit ∧ v m
    let filling (u : State) (q : TLoc) (count : Nat) : Prop := (u.tile q).st = .filling ∧ (u.tile q).count = count ∧ (u.tile q).data = 0 ∧ (u.tile q).size = (s.tile q).size
    let fetches (o : Out) (cnt : W64) : Prop :=
      (a.toNat % 64 = 0 → (s.tile dst).st = .absent → (s.tile dst).layout = false → cnt ≠ 0 → room 0 p (s.tile dst).size → clear false a.toNat (s.tile dst).size →
        s.allocOk s.cur.core (some s.cur.x) (s.tile dst).granules = true → ∃ u, o = .next u ∧ rest u ∧ tilesBut dst s u ∧ filling u dst (min cnt.toNat 65535) ∧
        enters u 0 0x04 fun m => m.a1 = a ∧ m.len = (s.tile dst).size ∧ m.total = (s.tile dst).size / 64 ∧ m.dst = some (u.tile dst).uid ∧ m.dst2 = none ∧ m.pb = p) ∧
      (∀ ke np rows, a.toNat % 64 = 0 → (s.tile dst).st = .absent → (s.tile scl).st = .absent → (s.tile dst).layout = true → cnt ≠ 0 →
        convertPlan (s.tile dst) (s.tile scl) m s.cur.ops.ft = some (ke, np, rows) →
        let bytes := (s.tile dst).size + if fmtApf (s.tile dst).fmt.toNat then 128 * rows else 0
        let from_ := ((s.tile dst).rows * ke * tyBits (s.tile scl).fmt.toNat + 7) / 8
        room 0 p bytes → clear false a.toNat from_ → s.allocOk s.cur.core (some s.cur.x) ((s.tile dst).granules + (s.tile scl).granules) = true →
        ∃ u, o = .next u ∧ rest u ∧ filling u dst (min cnt.toNat 65535) ∧ filling u scl (min cnt.toNat 65535) ∧
          enters u 0 0x04 fun m => m.a1 = a ∧ m.len = from_ ∧ m.dst = some (u.tile dst).uid ∧ m.dst2 = some (u.tile scl).uid) ∧
      (a.toNat % 64 = 0 → s.foreignPb p = false → (s.tile dst).st = .absent → (s.tile scl).st = .absent → (s.tile dst).layout = true → cnt ≠ 0 →
        convertPlan (s.tile dst) (s.tile scl) m s.cur.ops.ft = none → refused o) ∧
      (a.toNat % 64 = 0 → s.foreignPb p = false → (s.tile dst).st = .absent → cnt = 0 → o = .next s.performed) ∧
      (a.toNat % 64 ≠ 0 → o = .next (s.fatalMe .misalign))
    fetches (exec (.gfetchImm t i x n c p) s) (c.setWidth 64) ∧ fetches (exec (.gfetchReg t i x n c p) s) (s.opS c) ∧
    (let pb : BitVec 3 := w.extractLsb' 30 3
     listAt (s.opS j) → (s.tile dst).st = .absent → control (s.tile dst).rows false → w.toNat % 2 ^ 16 ≠ 0 →
      room 0 pb (s.tile dst).size → clear false 0 (2 ^ 64) → s.allocOk s.cur.core (some s.cur.x) (s.tile dst).granules = true →
      ∃ u, exec (.ggather t i x n j) s = .next u ∧ rest u ∧ tilesBut dst s u ∧ filling u dst (w.toNat % 2 ^ 16) ∧
        enters u 0 0x05 fun m => m.a1 = a ∧ m.a2 = s.opS j ∧ m.ctl = w ∧ m.len = (s.tile dst).rowBytes ∧ m.total = (s.tile dst).rows ∧
          m.dst = some (u.tile dst).uid) ∧
    (let pb : BitVec 3 := w.extractLsb' 30 3
     listAt (s.opS j) → (s.tile src).st ≠ .absent → control (s.tile src).rows true → room 1 pb (s.tile src).size → clear true 0 (2 ^ 64) →
      ∃ u, exec (.gscatter t i x n j r) s = .next u ∧ rest u ∧ (∀ q, u.tile q = s.tile q) ∧
        enters u 1 0x06 fun m => m.a1 = a ∧ m.a2 = s.opS j ∧ m.ctl = w ∧ m.aux = [k] ∧ (m.consume = true ↔ r = 0)) ∧
    (listAt (s.opS j) → s.foreignPb (w.extractLsb' 30 3) = false →
      ((s.tile dst).st = .absent → ¬control (s.tile dst).rows false → refused (exec (.ggather t i x n j) s)) ∧
      ((s.tile dst).st = .absent → control (s.tile dst).rows false → w.toNat % 2 ^ 16 = 0 → ∃ u, exec (.ggather t i x n j) s = .next u ∧ idle u) ∧
      ((s.tile src).st ≠ .absent → ¬control (s.tile src).rows true → refused (exec (.gscatter t i x n j r) s))) ∧
    (¬listAt (s.opS j) → exec (.ggather t i x n j) s = .next (s.fatalMe .misalign) ∧ exec (.gscatter t i x n j r) s = .next (s.fatalMe .misalign)) ∧
    (a.toNat % 64 = 0 → b.toNat % 64 = 0 → len % 64 = 0 → (2 ^ 32 < len ∨ ¬(a.toNat + len ≤ b.toNat ∨ b.toNat + len ≤ a.toNat)) → 0 < len →
      refused (exec (.gcopy t i n g l p) s)) ∧
    (a.toNat % 64 = 0 → (s.tile src).st ≠ .absent → room 1 p (s.tile src).size → clear true a.toNat (s.tile src).size →
      ∃ u, exec (.gstore t i x n r p) s = .next u ∧ rest u ∧ (∀ q, u.tile q = s.tile q) ∧
        enters u 1 0x07 fun m => m.a1 = a ∧ m.len = (s.tile src).size ∧ m.total = (s.tile src).size / 64 ∧ m.aux = [k] ∧ (m.consume = true ↔ r = 0)) ∧
    (a.toNat % 64 = 0 → b.toNat % 64 = 0 → len % 64 = 0 → 0 < len → len ≤ 2 ^ 32 → (a.toNat + len ≤ b.toNat ∨ b.toNat + len ≤ a.toNat) → room 1 p len →
      clear true a.toNat len → clear false b.toNat len → ∃ u, exec (.gcopy t i n g l p) s = .next u ∧ rest u ∧ (∀ q, u.tile q = s.tile q) ∧
        enters u 1 0x08 fun m => m.a2 = a ∧ m.a1 = b ∧ m.len = len ∧ m.total = len / 64) ∧
    ((queue s 0).length < 32 → ∃ u, exec (.gpref t i e l) s = .next u ∧ rest u ∧ (∀ q, u.tile q = s.tile q) ∧
      enters u 0 0x16 fun m => m.a1 = s.adr e ∧ m.len = len ∧ m.total ≤ 256 ∧
        (0 < len → m.total = min 256 (((s.adr e).toNat + len - 1) / 32768 - (s.adr e).toNat / 32768 + 1)))

/-- The issuing context issues, stalls, blocks or faults; results, loads, answers and segment copies land; stores are performed; waits end. The order in which peers reach a tile in one cycle is log entry 75. (R37, R40, R41, R72, R73, R81, R89, R92, R209, R210, R269, R327) -/
def Obligations.BundlesIssueAndResultsLand : Prop :=
  ∀ s : State,
    let c := s.ev.c
    let x := s.ev.x
    let cx := s.ctx c x
    (∀ y, (∀ z, (s.ctx c z).st ≠ .blocked) → (s.core c).cur = some y → (s.ctx c y).st = .issuing → (s.ctx c y).pendEv = Pending.none →
      (s.ctx c y).rep.replaying = false → s.throttled c = false → s.breakAt c y = none → ∀ h ws t,
      (∀ leaf, s.verdict c y = (.go leaf, h, ws, t) → (t.ctx c y).rep.logging = false → (t.ctx c y).rep.replaying = false →
        overflowSlot ((t.ctx c y).cq.length - h.nt.toNat) (ws.filter fun w => executes (t.ctx c y) h leaf w.2.1) = none →
        ∃ u, exec .bundleIssue s = .next u ∧ u.issuing = true ∧ u.popMask = h.pop ∧ u.cur.core = c ∧ u.cur.x = y ∧ u.cur.leaf = leaf ∧
          (u.ctx c y).pc = (t.ctx c y).pc + BitVec.ofNat 32 (4 * (1 + ws.length)) ∧ (u.ctx c y).drn = h.drn ∧
          (u.ctx c y).bundles = (t.ctx c y).bundles + 1 ∧ (u.ctx c y).s = (t.ctx c y).s ∧ (u.ctx c y).v = (t.ctx c y).v ∧
          (u.ctx c y).scycle = if (t.ctx c y).tif then (t.ctx c y).scycle else (t.ctx c y).scycle + 1) ∧
      (s.verdict c y = (.stall, h, ws, t) → exec .bundleIssue s =
        .next (((t.modCtx c y fun k => { k with latched := false }).tick c).stallCycle c y)) ∧
      (∀ w, s.verdict c y = (.block w, h, ws, t) → ∃ u, exec .bundleIssue s = .next u ∧ (u.ctx c y).st = .blocked ∧ (u.ctx c y).wait = w) ∧
      (∀ f slot, s.verdict c y = (.fatal f slot, h, ws, t) → exec .bundleIssue s = .next (t.fatal c y f slot (t.ctx c y).next))) ∧
    (∀ g, g = s.traceGate s.ev.flag →
      ((g.core c).cur = none → exec .computeResultLand s = .next (g.tick c)) ∧ ((g.core c).cur ≠ none → exec .computeResultLand s = .next g)) ∧
    (∀ p v, cx.pend.find? (fun q => decide (q.tok = s.ev.n) && q.val.isSome && decide (q.left = 0)) = some p → p.val = some v → cx.landable p.reg = true →
      cx.rep.logging = false → cx.rep.replaying = false → ∃ u, exec .globalLoadReturn s = .next u ∧ onlyCtx c x s u ∧
        u.ctx c x = { (cx.writeReg p.reg v) with pend := cx.pend.filter fun q => q.tok != s.ev.n }) ∧
    (cx.st = .blocked → cx.wait = .idle → cx.idle = 0 → cx.rep.replaying = false → (∀ w, (s.verdict c x).1 ≠ .block w) → (∀ n, (s.verdict c x).1 ≠ .alloc n) →
      ∃ u, exec .idleExpire s = .next u ∧ (u.ctx c x).st = .ready ∧ (u.ctx c x).wait = .none ∧ (u.ctx c x).readyWait = 0) ∧
    (∀ y z, (s.core c).cur = some y → s.chosen c none = some z → (s.ctx c y).pendEv = Pending.none → s.breakAt c y = none → 3072 ≤ (s.ctx c z).readyWait →
      s.deadlineOf (s.ctx c z).launch ≤ s.deadlineOf (s.ctx c y).launch →
      ∃ u, exec .forcedSwitch s = .next u ∧ (u.core c).cur = none ∧ (u.core c).nxt = some z ∧ onlyCore c s u ∧ (∀ w, w ≠ y → u.ctx c w = s.ctx c w) ∧
        u.ctx c y = { (s.ctx c y).freeze with st := .ready, readyWait := 0 }) ∧
    (∀ h l o n, cx.half1 = some h → h.seg = s.ev.n → h.complete = false → s.launch? cx.launch = some l → cx.segs[s.ev.n]? = some (o, n) → n.toNat ≤ 0x4000 →
      ∃ u k, exec .segmentCopyComplete s = .next u ∧ onlyCtx c x s u ∧ (u.ctx c x).half1 = some k ∧ k.seg = h.seg ∧ k.complete = true ∧
        k.code.length = n.toNat / 4 ∧ ∀ i, i < n.toNat / 4 →
          k.code[i]? = some (BitVec.ofNat 32 (s.loadVa cx.vf (l.image.toNat + s.loadVa cx.vf (l.image.toNat + 8) 8 + o.toNat + 4 * i) 4))) ∧
    (∀ a code id, cx.ans.find? (fun b => decide (b.tok = s.ev.n) && !b.disp) = some a → a.res = some (code, id) → cx.shadow = none →
      cx.landable (if a.reg = 0 then .none else .s a.reg) = true → cx.rep.logging = false → cx.rep.replaying = false →
      ∃ u, exec .launchAnswer s = .next u ∧ onlyCtx c x s u ∧ (u.ctx c x).cq = (cx.fillCq a.cqTok (code = 0)).cq ∧
        (u.ctx c x).sreg a.reg = (if a.reg = 0 then 0 else (if code = 0 then id else 0) ++ (0#28 : BitVec 28) ++ code) ∧
        ∀ r, r ≠ a.reg → (u.ctx c x).sreg r = cx.sreg r) ∧
    (∀ st, s.ev.flag = false → cx.stores.filter (fun q => decide (q.num = s.ev.n)) = [st] → region st.pa ≠ 3 → (region st.pa = 2 → s.boot.linkErr = false) →
      (∀ o ∈ cx.stores.takeWhile (fun q => q.num != s.ev.n), bytesMeet o.pa o.n st.pa st.n = false) →
      (s.ev.m ≠ 2 → (s.ev.m = 1 → s.poisoned st.pa st.n = true) → ∃ u, exec .storePerformed s = .next u ∧
        u.mem = writeNat (s.settle st.pa st.n).mem st.pa (st.data.toNat % 256 ^ st.n) st.n ∧
        u.ctx c x = { cx with stores := cx.stores.filter fun q => q.num != s.ev.n }) ∧
      (s.ev.m = 1 → s.poisoned st.pa st.n = false → ∃ u, exec .storePerformed s = .next u ∧ u.mem = s.mem ∧
        u.late = s.late ++ [⟨st.num, cx.launch, cx.unit, st, []⟩] ∧ u.ctx c x = { cx with stores := cx.stores.filter fun q => q.num != s.ev.n })) ∧
    (∀ e r, s.ev.flag = false → s.ev.m = 2 → s.late = e :: r → e.num = s.ev.n → (∀ o ∈ r, o.num ≠ s.ev.n) → region e.st.pa ≠ 3 →
      (region e.st.pa = 2 → s.boot.linkErr = false) → ∃ u, exec .storePerformed s = .next u ∧ u.late = r ∧ u.cores = s.cores ∧
        u.mem = writeNat s.mem e.st.pa (e.st.data.toNat % 256 ^ e.st.n) e.st.n) ∧
    (∀ w r t i f v, cx.mg = w :: r → decodeRaw w.slot w.word = some (.gwait t i f v) → cx.flows = true → (s.core c).headHeld c x w = false →
      ∃ u, exec .gwaitReread s = .next u ∧ exec (.gwait t i f v) (s.atHead c x 2 w r) = .next u) ∧
    (∀ w r i, cx.mc = w :: r → decodeRaw w.slot w.word = some i → (peerMeaning i).isSome = true → cx.flows = true → (s.core c).headHeld c x w = false →
      cx.readsFull 1 i = false → s.outOfOrder (s.reaches c x w) (5 + c) = false → ∃ t, exec i (s.atHead c x 1 w r) = .next t ∧
        (let u := t.servedWord s c x 1 w (s.reaches c x w)
         s.logsOver u = false → ((u.ctx c x).dbg.stopped = true → (s.ctx c x).dbg.stopped = true) → exec .peerRequest s = .next u) ∧
        ∃ u, exec .peerRequest s = .next u)

/-- Units retire, are killed, trap at a boundary, overrun, are late, are placed, pre-empted, framed and resumed. That the lowest-numbered FREE context takes a placed or resumed unit, and which victims a pre-emption takes, is log entry 33 (DEDUCED). (R75, R93, R166, R322, R323, R325, R328, R336, R337, R340, R345, R409) -/
def Obligations.UnitsEndTrapOverrunAndMove : Prop :=
  ∀ s : State,
    let c := s.ev.c
    let x := s.ev.x
    let cx := s.ctx c x
    (cx.st = .retiring → cx.mt = [] → cx.mc = [] → cx.mg = [] → cx.lands = [] → cx.pend = [] → (s.core c).outstanding x = false → cx.saved = [] →
      cx.savedF = [] → cx.faultList = [] → ∃ u, exec .retireComplete s = .next u ∧ (u.ctx c x).st = .free ∧ (∀ n, (u.tile (.unit c x n)).st = .absent) ∧
        (u.ctx c x).eq = cx.eq ∧ (u.ctx c x).ccq = cx.ccq ∧ (cx.stores = [] → s.wstores = [] → (u.ctx c x).s = cx.s) ∧
        ∀ b : Fin 8, (u.core c).grant[b] ≠ some x) ∧
    (cx.st.live = true → cx.pendEv.kill = true → exec .killed s = .next (s.fatal c x .killed 15 cx.next)) ∧
    (cx.st = .issuing → 1048576 ≤ cx.wd → exec .watchdog s = .next (s.fatal c x .watchdog 15 cx.next)) ∧
    (cx.st.live = true → cx.tif = false → cx.rep.logging = false → cx.rep.replaying = false → cx.trapvec.toNat % 4 = 0 → (cx.segOf cx.trapvec).isSome = true →
      (∀ slot n o, cx.flows = true → cx.pendEv = Pending.none → s.breakAt c x = none → s.fullWait c x s.ev.q = some (slot, n, o) →
        ∃ u, exec .storeFull s = .next u ∧ (u.ctx c x).pc = cx.trapvec ∧ (u.ctx c x).tif = true ∧ (u.ctx c x).trapcause = trapCause slot n 3 ∧
          (u.ctx c x).trapba = o.ba ∧ (u.ctx c x).trapsc = o.sc ∧ (u.ctx c x).shadow.map (fun h => h.resumeAt) = some cx.pc) ∧
      (cx.pendEv = { Pending.none with overrun := true } → s.breakAt c x = none →
        ∃ u, exec .overrun s = .next u ∧ (u.ctx c x).pc = cx.trapvec ∧ (u.ctx c x).tif = true ∧ (u.ctx c x).trapcause = trapCause 15 0 2 ∧
          (u.ctx c x).trapba = cx.pc ∧ (u.ctx c x).trapsc = cx.scycle ∧ (u.ctx c x).pendEv = { Pending.none with overrunTaken := true } ∧
          (u.ctx c x).shadow.map (fun h => h.resumeAt) = some cx.pc)) ∧
    (∀ l, s.launch? s.ev.l = some l → l.stage = .admitted →
      (l.crossed = false → l.bg = false → 1000 * l.budget.toNat < l.spent.toNat → l.allDone = false →
        (l.pol = 0 → ∃ u, exec .overrunCrossing s = .next u ∧ u.launch? s.ev.l = some { l with crossed := true, ovr := true, demoted := true } ∧
          u.cores = s.cores) ∧
        (l.pol = 1 → ∃ u, exec .overrunCrossing s = .next u ∧ u.launch? s.ev.l = some { l with crossed := true, ovr := true } ∧
          ∀ d y, (s.ctx d y).st ≠ .free → (s.ctx d y).launch = l.id →
            u.ctx d y = { s.ctx d y with pendEv := { (s.ctx d y).pendEv with overrun := true } }) ∧
        (2 ≤ l.pol.toNat → exec .overrunCrossing s =
          .next (((s.modLaunch l.id fun k => { k with crossed := true, ovr := true }).traceTime l 0).cancelLaunches [l.id] 2))) ∧
      (l.late = false → l.bg = false → l.demoted = false → l.allDone = false → l.deadline.toNat < s.now.toNat → ∃ u, exec .late s = .next u ∧
        u.launch? s.ev.l = some { l with late := true } ∧ (u.vf l.vf).lateCtr = (s.vf l.vf).lateCtr + 1)) ∧
    (∀ a d, s.nextPlaced s.ev.n = some (a, d) → a.frame = none → s.launch? a.launch.id = some a.launch →
      ∃ u, exec .unitPlace s = .next u ∧ (u.launch? a.launch.id).map (fun l => l.placed) = some (a.launch.placed + a.launch.group.length) ∧
        ∀ n y, a.launch.groupLive = [n] → s.dbgSlots a.launch.vf a.launch.id = [] → allCtx.find? (fun z => decide ((s.ctx d z).st = .free)) = some y →
          (u.ctx d y).launch = a.launch.id ∧ (u.ctx d y).unit = BitVec.ofNat 32 n ∧ (u.ctx d y).st = .ready ∧ (u.ctx d y).sreg 1 = a.launch.args ∧
          (u.ctx d y).sreg 2 = BitVec.ofNat 64 n ∧ (u.ctx d y).pc = (s.unitDesc a.launch.vf a.launch.image.toNat).entry) ∧
    (∀ a d y, (s.firstCand s.ev.n ((s.candidates s.ev.n).filter fun a => (s.coreFor s.ev.n a).isNone && (s.preemptFor s.ev.n a).isSome)).bind
        (fun a => (s.preemptFor s.ev.n a).map fun p => (a, p)) = some (a, d, y) → (s.ctx d y).st.live = true → (s.ctx d y).pendEv = Pending.none → s.breakAt d y = none →
      ∃ u, exec .preempt s = .next u ∧ (u.ctx d y).st = .ready ∧ (u.ctx d y).fz = true ∧ (u.ctx d y).pendEv.preempt = true ∧
        (u.ctx d y).trapcause = trapCause 15 0 1 ∧ (u.core d).cur ≠ some y) ∧
    (cx.pendEv.preempt = true → cx.st = .ready → cx.fz = true → s.woundDown c x = true →
      ∃ u f, exec .frameWritten s = .next u ∧ (u.ctx c x).st = .free ∧
        f ∈ u.frames ∧ f.core = c ∧ f.ctx.launch = cx.launch ∧ f.ctx.unit = cx.unit ∧ f.ctx.s = cx.s ∧ f.ctx.v = cx.v ∧ f.ctx.k = cx.k ∧ f.ctx.pc = cx.pc ∧
        ∀ m, (s.core c).mrun = some m → m.kind = .mload → (u.core c).mrun = some m) ∧
    (∀ a d f y, s.nextPlaced s.ev.n = some (a, d) → a.frame = some f → allCtx.find? (fun z => decide ((s.ctx d z).st = .free)) = some y →
      s.dbgBit a.launch.vf a.launch.id 2 = false → ∃ u, exec .unitResume s = .next u ∧ f ∉ u.frames ∧ (u.ctx d y).st = .ready ∧
        (u.ctx d y).launch = f.ctx.launch ∧ (u.ctx d y).unit = f.ctx.unit ∧ (u.ctx d y).s = f.ctx.s ∧ (u.ctx d y).v = f.ctx.v ∧
        (u.ctx d y).k = f.ctx.k ∧ (u.ctx d y).pc = f.ctx.pc ∧ (u.ctx d y).wait = f.ctx.wait.kept) ∧
    (∀ m f v, cx.cmd s.ev.q s.ev.n = some m → s.unitCtx c m.launch m.unit = none → s.frameOf m.launch m.unit = some f → m.state = 1 → m.dead = false →
      m.slot = 7 → m.op = 0x06#6 → m.reread = false → m.idx = some v → (m.rowAddr v m.next).toNat % 64 ≠ 0 → f.ctx.rep.replaying = false →
      s.heldAhead c s.ev.q m = false → s.countHeld c m = false →
      exec .preemptedCommandFault s = .next (s.endPreempted f .misalign 10 m.org (s.cmdVf m).1))

/-- Walks install or fault, page faults resolve, commands start, move their lines and complete, invalidations act and complete. (R189, R190, R193, R194, R196, R197, R198, R200, R206, R212, R276, R404) -/
def Obligations.TranslationsCommandsAndCopies : Prop :=
  ∀ s : State,
    let c := s.ev.c
    let x := s.ev.x
    let q := s.ev.q
    let cx := s.ctx c x
    (∀ k, ((alGet [] c s.walks).take 64).find? (fun k => decide (k.vf = s.ev.vf) && decide (k.va = s.ev.v.toNat / 32768 * 32768)) = some k →
      (∀ leaf, s.walk k.vf k.va = some leaf → ∃ u, exec .translationWalkDone s = .next u ∧ u.mem = s.mem ∧
        alGet [] c u.walks = (alGet [] c s.walks).erase k ∧ ∀ w ∈ k.who,
          (⟨k.vf, k.va / 2 ^ leaf.bits * 2 ^ leaf.bits, leaf.bits, leaf.pa, leaf.w, leaf.priv⟩ : Tlb) ∈ (u.core w.core).tlb) ∧
      (s.walk k.vf k.va = none → exec .translationWalkDone s =
        .next (k.who.foldl (fun t w => t.walkFault w) { s with walks := alSet c ((alGet [] c s.walks).erase k) s.walks }))) ∧
    (∀ f, s.pfaults.find? (fun f => decide (f.core = c) && decide (f.x = x) && decide (f.queue = q) && decide (f.num = s.ev.n)) = some f → cx.faultList = [] →
      s.fwRuns 1 = true → s.inWindow f.va.toNat = false →
      (∀ e m, s.ev.pte = some e → q < 2 → cx.cmd q s.ev.n = some m → (∀ i ∈ s.invs, s.ev.n ∉ i.ahead) →
        let a := ptePlace s.memNow f.va.toNat 3 (s.vf (s.cmdVf m).1).cfg.root.toNat
        region a ≠ 3 → (region a = 2 → s.boot.linkErr = false) → ∃ u, exec .pageFaultResolved s = .next u ∧
        u.mem = writeNat (s.settle a 8).mem a e.toNat 8 ∧ u.pfaults = s.pfaults.erase f ∧
        (u.ctx c x).cmd q s.ev.n = some { m with state := 1, reread := true, line := 0 }) ∧
      (∀ e, s.ev.pte = some e → q = 7 →
        let a := ptePlace s.memNow f.va.toNat 3 (s.vf cx.vf).cfg.root.toNat
        region a ≠ 3 → (region a = 2 → s.boot.linkErr = false) → ∃ u, exec .pageFaultResolved s = .next u ∧ u.pfaults = s.pfaults.erase f ∧
        u.mem = writeNat (s.settle a 8).mem a e.toNat 8) ∧
      (s.ev.pte = none → q = 7 → exec .pageFaultResolved s =
        .next (({ s with pfaults := s.pfaults.erase f } : State).fatal c x .permission 7 (s.faultOrg f)))) ∧
    (∀ m, cx.cmd q s.ev.l.toNat = some m → m.state = 0 → m.dead = false → s.mayStart c q m = true →
      (m.fence = true → ∃ u, exec .commandStart s = .next u ∧ onlyCtx c x s u ∧ (u.ctx c x).cmd q m.num = some { m with state := 1 }) ∧
      (m.slot = 7 → m.op = 0x04#6 → q < 2 → ∃ u, exec .commandStart s = .next u ∧ onlyCtx c x s u ∧
        (u.ctx c x).cmd q m.num = some { m with state := if m.total = 0 then 3 else 1 }) ∧
      (∀ n r y, m.slot = 7 → m.op = 0x07#6 → q = 1 → m.aux = n :: r → s.unitCtx c m.launch m.unit = some y → s.avail (s.resolve c x n) = .ready →
        s.outOfOrder [s.resolve c x n] copyPlace = false →
        let t := s.tile (s.resolve c x n)
        ∃ u, exec .commandStart s = .next u ∧ onlyCtx c x s u ∧ (u.ctx c x).cmd 1 m.num = some { m with
          len := t.size, total := t.size / 64, buf := (t.read 0 65536).setWidth 524288, src := some t.uid, state := if t.size / 64 = 0 then 3 else 1 })) ∧
    (∀ m r y, s.ev.flag = false → y = Fin.ofNat 4 (s.core c).rotX → (s.core c).rotQ / 2 ^ y.val % 2 = 1 → (s.ctx c y).cmds 1 = m :: r → m.state = 1 →
      m.dead = false → m.slot = 7 → m.op = 0x07#6 → s.cmdReplays c m = false → m.next + 1 < m.total → m.a1.toNat % 64 = 0 →
      s.before c 1 m = [] → s.requests c < 768 → ∀ pa, s.cmdXlate c m true (m.a1 + BitVec.ofNat 64 (64 * m.next)) = .ok pa → region pa ≠ 3 →
      (region pa = 2 → s.boot.linkErr = false) → ∃ u, exec .copyEngineLine s = .next u ∧
        u.mem = writeNat (s.settle pa 64).mem pa (fld m.buf (512 * m.next) 512 : BitVec 512).toNat 64 ∧
        (u.ctx c y).cmd 1 m.num = some { m with next := m.next + 1, pbLeft := m.pbLeft - 64, bytes := m.bytes + 64 }) ∧
    (∀ m d l, unlogged s → s.ev.flag = true → (cx.cmds 4).find? (fun k => decide (k.state = 1)) = some m → m.dead = false → s.cmdReplays c m = false →
      cx.cmd 4 m.num = some m → m.next + 1 < m.total → m.dst = some d → s.placeOf c m.launch m.unit d = some l →
      s.inReten l (· != .active) = false → ∃ u, exec .copyEngineLine s = .next u ∧
        u.tile l = (s.tile l).write (64 * m.next) 64 (fld m.buf (512 * m.next) 512) ∧ tilesApart l s u ∧ u.mem = s.mem ∧
        (u.ctx c x).cmd 4 m.num = some { m with next := m.next + 1, state := 1, pbLeft := m.pbLeft - 64, bytes := m.bytes + 64 }) ∧
    (∀ m, cx.cmd q s.ev.l.toNat = some m → s.before c q m = [] → m.slot = 7 → m.state = 3 → m.fence = false → m.dead = false → q < 2 →
      ∃ u, exec .commandComplete s = .next u ∧ (u.ctx c x).cmds q = (cx.cmds q).filter fun k => k.num != m.num) ∧
    (∀ k : Nat,
      let pairs := (List.range (s.ev.list.length / 2)).map fun i => (s.ev.list.getD (2 * i) 0, s.ev.list.getD (2 * i + 1) 0)
      ∃ u, exec .invalidation s = .next u ∧ u.mem = (pairs.foldl (fun t p => t.store p.1 8 p.2) s).mem ∧ u.invs.length = s.invs.length + 1 ∧
        (s.late = [] → (∀ p ∈ pairs, region p.1 = 0) → u.mem = pairs.foldl (fun m p => writeNat m p.1 p.2 8) s.mem) ∧
        ∀ t ∈ (u.core k).tlb, t ∈ (s.core k).tlb ∧ s.ev.flag = false ∧
          (t.vf ≠ s.ev.vf ∨ s.ev.v.toNat + s.ev.w.toNat * 32768 ≤ t.va ∨ t.va + 2 ^ t.bits ≤ s.ev.v.toNat)) ∧
    (∀ i r, s.invs = i :: r → (∀ n ∈ i.ahead, n ∉ s.allCmds) → exec .invalidationComplete s =
      .next (s.ev.list.foldl (fun t p => t.scrubRange (p * 32768) 32768) { s with invs := r }))

/-- Parks, unparks, store errors and retention change their tile or bank; engine operations start, complete and install; fronts take their arrivals. That the causes of the arrivals are set as the operation completes is log entry 92, the trap place of a waiting tile read entry 75. (R168, R169, R170, R171, R223, R231, R241, R243, R252, R253, R254, R256) -/
def Obligations.StoreEventsAndEngineOperations : Prop :=
  ∀ s : State, unlogged s →
    let c := s.ev.c
    let k := s.core c
    let moves (i : Instr) (a b : Reten) (wait : Nat) (since : Vector Nat 4) : Prop := (since.toList[s.ev.q]?).getD 0 + wait ≤ k.cyc → ∃ u, exec i s = .next u ∧ onlyCore c s u ∧ (u.core c).ctx = k.ctx ∧
      ∀ n : Fin 4, (u.core c).reten[n] = if n.val = s.ev.q ∧ k.reten[n] = a then b else k.reten[n]
    (∀ l, s.locOf c s.ev.n = some l →
      ((s.tile l).st = .parking → s.inReten l (· != .active) = false → ∃ u, exec .parkComplete s = .next u ∧ u.tile l = { s.tile l with st := .parked, gb := [] } ∧ tilesApart l s u ∧ u.mem = s.mem) ∧
      ((s.tile l).st = .unparking → s.inReten l (· != .active) = false → ∃ u, exec .unparkComplete s = .next u ∧ tilesApart l s u ∧ u.mem = s.mem ∧
        u.tile l = { s.tile l with st := if s.ev.flag then .poisoned else .present }) ∧
      ((s.tile l).st.holds = true → (s.tile l).st ≠ .poisoned → ∃ u, exec .storeErrorUncorrectable s = .next u ∧
        u.tile l = { s.tile l with st := .poisoned } ∧ tilesApart l s u ∧ u.mem = s.mem)) ∧
    (∃ u, exec .softErrorCorrected s = .next u ∧ onlyCore c s u ∧ (u.core c).corrected = k.corrected + 1 ∧ (u.core c).ctx = k.ctx) ∧
    (moves .retentionEnter .active .entering 16384 k.bankAt ∧ moves .retentionEntryDone .entering .retained 2048 k.retenAt ∧
      (s.ev.flag = false → moves .retentionExitDone .leaving .active 2048 k.retenAt)) ∧
    (∀ m r, k.mq = m :: r → k.call = none → k.mrun = none → m.after ≤ k.cyc → (∀ y : CtxId, k.ctx[y].saved = []) →
      (m.kind = .aclr ∨ m.kind = .acmv → ∃ u, exec .matrixOpStart s = .next u ∧ (u.core c).mq = r ∧ (u.core c).mrun = some { m with after := k.cyc + 64 }) ∧
      (m.kind = .call →
        let par := m.par (s.opTable c m.x m.ta) (s.opTable c m.x m.tb)
        k.olderNaming c m.x m.seq ((m.ta.toList ++ m.tb.toList).map BitVec.toNat) = false → s.stoppedCall c m = none →
        s.callOk c m par (k.routine m.launch m.idx) = true → s.meetTile (s.opLoc c m m.ta par.la) = .go → s.meetTile (s.opLoc c m m.tb par.lb) = .go →
        ∃ u a, exec .matrixOpStart s = .next u ∧ (u.core c).mq = r ∧ (u.core c).call = some a ∧ a.op = m ∧ a.par = par ∧ a.pos = 0 ∧ a.group = 0 ∧
          a.first = true ∧ a.inner = List.replicate (par.m * par.n) 0 ∧ a.ready = k.cyc ∧ (u.core c).banks = k.banks)) ∧
    (∀ a r, k.tails = a :: r → k.cyc < a.doneAt → exec .matrixCallComplete s = .next s) ∧
    (∀ a r y, k.tails = a :: r → a.doneAt ≤ k.cyc → a.epi = none → a.causes ≠ 0 → s.unitCtx c a.op.launch a.op.unit = some y →
      (s.ctx c y).rep.replaying = false → ∃ u, exec .matrixCallComplete s = .next u ∧
      (u.core c).tails = r ∧ (u.ctx c y).sticky = ((s.ctx c y).sticky1 4 a.causes a.op.org).sticky ∧ (u.core c).banks = k.banks) ∧
    (∀ m, k.mrun = some m → m.after ≤ k.cyc → k.tails = [] → vget (n := 3) k.cls m.d ≠ 1 → vget (n := 3) k.cls m.src ≠ 1 → k.bankLanding m.d = false →
      k.bankLanding m.src = false →
      let after (f : Nat → Nat) : Prop := ∃ u, exec .matrixOpComplete s = .next u ∧ (u.core c).mrun = none ∧
        ∀ w, w < 4096 → (fld (vget (n := 3) (u.core c).banks m.d) (32 * w) 32 : W32).toNat = f w
      let word (w : Nat) : Nat := (fld (vget (n := 3) k.banks m.src) (32 * w) 32 : W32).toNat
      (m.kind = .aclr → after fun _ => 0) ∧ (m.kind = .acmv → m.mode = 0 → after word) ∧
      (m.kind = .acmv → m.mode = 1 → after fun w => word (w % 64 * 64 + w / 64))) ∧
    (∀ m e y, k.mrun = some m → m.kind = .mload → k.fetchOf m = some (y, e) → e.state = 3 → e.dead = false → e.causes = 0 → s.before c 0 e = [] →
      (s.unitCtx c m.launch m.unit).isSome = true →
      let head : W64 := fld e.buf 0 64
      let words := (List.range (fld head 8 11 : BitVec 11).toNat).map fun i => (fld e.buf (64 * (i + 1)) 64 : W64)
      fld head 19 45 = 0#45 → words ≠ [] → words.length ≤ 1792 → routineOk words = true → 64 ≤ (fld head 0 8 : BitVec 8).toNat →
      words.length ≤ k.rtFree → k.rts.length < 192 →
      ∃ u, exec .mloadInstall s = .next u ∧ (u.core c).mrun = none ∧ (u.ctx c y).cmd 0 e.num = none ∧ (⟨m.launch, fld head 0 8, words⟩ : Routine) ∈ (u.core c).rts) ∧
    (∀ (i : Fin 2) op r, i = Fin.ofNat 2 s.ev.n → k.fq[i] = op :: r → k.frun[i] = none → k.frontReady op = true → op.after ≤ k.cyc → k.bankLanding op.bank = false →
      k.bankLanding op.src = false →
      let runs (l : List Tuple) (z : BitVec 12) (n : Nat) (u : State) : Prop := (u.core c).fq[i] = r ∧ (u.core c).frun[i] = some ⟨op, l, z, false, k.cyc + n⟩
      (op.kind = .finit → finitOk op.cfg = true → ∃ u, exec .frontOpStart s = .next u ∧ runs [] 0 1 u ∧ (u.core c).front[i] = { Front.empty with
        dm1 := fld op.cfg 0 2, dir := fld op.cfg 2 4, pol := fld op.cfg 6 2, kappa := fld op.cfg 8 2, sph := fld op.cfg 10 4 }) ∧
      (op.kind = .fclr → ∃ u, exec .frontOpStart s = .next u ∧ runs [] 0 1 u ∧ (u.core c).front[i] = { Front.empty with
        dm1 := k.front[i].dm1, dir := k.front[i].dir, pol := k.front[i].pol, kappa := k.front[i].kappa, sph := k.front[i].sph }) ∧
      (op.kind = .fins → 1 ≤ op.n.toNat → op.n.toNat ≤ 16 → ∃ u, exec .frontOpStart s = .next u ∧ (u.core c).front = k.front ∧
        runs ((List.range op.n.toNat).map fun j => rowTuple k.front[i].d op.v j) 0 1 u) ∧
      (op.kind = .finit → finitOk op.cfg = false → ∃ u, exec .frontOpStart s = .next u ∧ (u.core c).front = k.front ∧ runs [] cINV 1 u) ∧
      (∀ j, op.kind = .fmrg → frontOf op.src = some j → j ≠ i → k.front[j].tuples ≠ [] → k.front[j].dm1 = k.front[i].dm1 →
        (∀ n, n ≤ k.front[i].dm1.toNat → k.front[j].dir.getLsbD n = k.front[i].dir.getLsbD n) →
        ∃ u, exec .frontOpStart s = .next u ∧ (u.core c).front = k.front ∧ runs k.front[j].tuples 0 1 u)) ∧
    (∀ (i : Fin 2) run, i = Fin.ofNat 2 s.ev.n → k.frun[i] = some run → run.ready ≤ k.cyc →
      (∀ t r f z, run.dead = false → run.todo = t :: r → k.front[i].insert t = (f, none, z) → ∃ u, exec .frontInsert s = .next u ∧ (u.core c).front[i] = f ∧
        (u.core c).frun[i] = if r = [] then none else some { run with todo := r, causes := run.causes ||| z, ready := k.cyc + 1 }) ∧
      (∀ y, run.todo = [] → run.causes ≠ 0 → s.unitCtx c run.op.launch run.op.unit = some y → (s.ctx c y).rep.replaying = false →
        ∃ u, exec .frontInsert s = .next u ∧ (u.core c).frun[i] = none ∧ (u.core c).front = k.front ∧
          (u.ctx c y).sticky = ((s.ctx c y).sticky1 4 run.causes run.op.org).sticky)) ∧
    (∀ (f : Front) (t : Tuple),
      let d := f.dm1.toNat + 1
      let x (h : Tuple) (n : Nat) : FVal := fp32.decode (fld h.obj (32 * n) 32 : W32).toNat
      let y (h : Tuple) (n : Nat) : FVal := if f.dir.getLsbD n then (match x h n with
        | .fin q m e => .fin (!q) m e
        | .inf q => .inf (!q)
        | .nan q => .nan q) else x h n
      let noWorse (a b : Tuple) : Bool := (List.range d).all fun n => !(valLess (y b n) (y a n))
      let keep := f.tuples.filter fun h => !(noWorse t h)
      let plus (c : W32) (n : Nat) : W32 := BitVec.ofNat 32 (min (2 ^ 32 - 1) (c.toNat + n))
      let clean : Prop := ∀ h ∈ f.tuples, ∀ n, n < d → notNumber (x h n) = false
      ((∃ n, n < d ∧ notNumber (x t n) = true) → f.insert t = ({ f with nand := plus f.nand 1 }, none, cNANDROP)) ∧
      ((∀ n, n < d → notNumber (x t n) = false) → clean → (∀ h ∈ (f.insert t).1.tuples, ∀ n, n < d → notNumber (x h n) = false) ∧
        ((∃ h ∈ f.tuples, noWorse h t = true) → f.insert t = ({ f with disc := plus f.disc 1 }, none, 0)) ∧
        ((∀ h ∈ f.tuples, noWorse h t = false) →
          let g : Front := { f with remv := plus f.remv (f.tuples.length - keep.length) }
          (keep.length < 256 → f.insert t = ({ g with tuples := keep ++ [t] }, none, 0)) ∧
          (256 ≤ keep.length → ∃ i w, keep[i]? = some w ∧ (∀ h ∈ keep, valLess (y w f.kappa.toNat) (y h f.kappa.toNat) = false) ∧
            (∀ j h, j < i → keep[j]? = some h → valLess (y h f.kappa.toNat) (y w f.kappa.toNat) = true) ∧
            let drop : Bool := f.pol = 0 || valLess (y w f.kappa.toNat) (y t f.kappa.toNat)
            f.insert t = ({ g with tuples := if drop then keep else keep.eraseIdx i ++ [t], ovfd := plus f.ovfd 1 },
              (if f.pol = 2 then some (if drop then t else w) else none), if f.pol = 2 then 0 else cFRONTOVF)))))

/-- Packets are fetched, tested and answered, signals examined, launches completed; slots and queue registers change as the host and firmware ask. The model's choices: the order among runnable queues (log entry 31), that a poisoned entry is not fetched (37), that an id another queue names is live (9), that an entry is being processed until its admission code (59), and the form in which firmware sets tenants, routes, groups, the device number and a floor while the core of that role runs (42, 43). (R74, R75, R315, R316, R317, R319, R324, R331, R358, R359, R360, R365) -/
def Obligations.AdmissionQueuesAndSlots : Prop :=
  ∀ s : State,
    let e := s.ev
    let k := s.queue e.vf e.q
    let onQueue (i : Instr) (r : Queue) : Prop := ∃ u, exec i s = .next u ∧ u.queue e.vf e.q = r ∧ ∀ p, p ≠ e.q → u.queue e.vf p = s.queue e.vf p
    (∀ a, s.nextArrival e.vf = some a → s.boot.ready = true → a.cycle < s.clk →
      let l := packetLaunch a.packet a.vf a.slot (s.vf a.vf).cfg.timeOff
      let code := s.admissionCode a l
      ∃ u, exec .admissionTest s = .next u ∧ u.adm = s.adm.erase a ∧
        (code = 0 → u.launches.length = s.launches.length + 1 ∧ ∃ n ∈ u.launches, n.stage = .admitted ∧
          n = { l with
            id := n.id, graph := n.graph, inst := n.inst, counted := true, source := a.fromQueue, parkCap := n.parkCap, seq := n.seq, waits := n.waits }) ∧
        (code ≠ 0 → u.launches = s.launches ∧ (∀ d v, a.fromDev = some (d, v) → u.flits = s.flits ++ [.answer d v 0 (BitVec.ofNat 4 code)]) ∧
          (∀ q n, a.fromQueue = some (q, n) → q < 64 →
            (u.queue a.vf q).head = (s.queue a.vf q).head + 1 ∧ (u.queue a.vf q).done = (s.queue a.vf q).done + 1) ∧
          ∀ d z t c x r, a.fromCtx = some (d, z, t) → (s.ctx c x).st ≠ .free → (s.ctx c x).launch = d → (s.ctx c x).unit = z →
            r ∈ (s.ctx c x).ans → r.tok = t → r.disp = false → { r with res := some (BitVec.ofNat 4 code, 0) } ∈ (u.ctx c x).ans)) ∧
    (∀ l, s.launch? l.id = some l → s.launches.filter (fun l => decide (l.vf = e.vf) && decide (l.stage = .admitted) && l.waits.any fun i =>
        decide (((s.vf e.vf).cfg.sigBase.toNat + 8 * i.toNat) / 64 = ((s.vf e.vf).cfg.sigBase.toNat + 8 * e.n) / 64)) = [l] →
      ((∀ i ∈ l.waits, s.sigSet l.vf i = true) → ∃ u, exec .signalRecheck s = .next u ∧ u.launch? l.id = some { l with waits := [] } ∧
        ∀ q n, l.source = some (q, n) → q < 64 → (s.queue l.vf q).headId = l.id →
          (u.queue l.vf q).head = (s.queue l.vf q).head + 1 ∧ (u.queue l.vf q).fetched = false) ∧
      ((∃ i ∈ l.waits, s.sigSet l.vf i = false) → exec .signalRecheck s = .next s)) ∧
    (∀ l, s.launch? e.l = some l →
      (l.stage = .admitted → l.allDone = true → ∃ u n, exec .launchComplete s = .next u ∧ u.launch? e.l = some n ∧ n.stage = .complete ∧
        n.source = none ∧ n.counted = false ∧
        ∀ pa, l.source = none → l.late = true → l.done ≠ 0 → s.objs = [] → (∀ p ∈ s.wstores, p.1 ≠ e.l) →
          s.xlateDirect l.vf (s.sigAddr l.vf l.done) 8 = some pa → (s.walk l.vf (s.sigAddr l.vf l.done)).any (fun t => t.w) = true →
          region pa ≠ 3 → (region pa = 2 → s.boot.linkErr = false) → s.late = [] →
          u.mem = writeNat s.mem pa ((readNat s.mem pa 8 + 1) % 2 ^ 64) 8) ∧
      (l.stage = .cancelled → l.placed ≤ l.doneUnits → ∃ u n, exec .launchComplete s = .next u ∧ u.launch? e.l = some n ∧
        n.stage = .cancelled ∧ n.source = none ∧ n.counted = false)) ∧
    (∀ n h, s.slots.find? (fun p => decide (p.1 = e.n)) = some (n, h) → (∀ p ∈ s.slots, p.1 = e.n → p.2 = h) →
      let r := s.queue h.vf h.q
      let at_ := r.qbase.toNat + 64 * (r.head.toNat % 2 ^ r.log2n.toNat)
      (h.q < 64 → h.stopping = false → r.en = true → r.closing = false → r.qerr = false → r.fetched = false → r.head ≠ r.tail →
        s.vaPoisoned h.vf at_ = false → ∃ u a, exec .queueEntryFetch s = .next u ∧ (u.queue h.vf h.q).fetched = true ∧
          (u.queue h.vf h.q).head = r.head ∧ u.adm = s.adm ++ [a] ∧ a.vf = h.vf ∧ a.fromQueue = some (h.q, r.head) ∧ a.slot = n ∧
          a.packet = BitVec.ofNat 512 (s.loadVa h.vf at_ 64) ∧ a.job = (u.queue h.vf h.q).job ∧ a.phase = (u.queue h.vf h.q).phase ∧
          (r.job ≠ 0 → a.job = r.job) ∧ (r.phase ≠ 0 → a.phase = r.phase)) ∧
      (s.scheduling = true → ∃ u, exec .unmap s = .next u ∧ u.slots =
        if r.testing = true then s.slots.map fun p => if p.1 = e.n then (p.1, { p.2 with stopping := true, next := none }) else p
        else s.slots.filter fun p => decide (p.1 ≠ e.n)) ∧
      (s.scheduling = true → s.mapped e.vf e.q = false → k.en = true → ∃ u, exec .switch s = .next u ∧
        u.slots = s.slots.map fun p => if p.1 ≠ e.n then p
          else if r.testing = true then (p.1, { p.2 with stopping := true, next := some (e.vf, e.q) }) else (p.1, ⟨e.vf, e.q, false, none⟩))) ∧
    (s.scheduling = true → e.n < 1024 → (∀ p ∈ s.slots, p.1 ≠ e.n) → s.mapped e.vf e.q = false → k.en = true →
      ∃ u, exec .map s = .next u ∧ u.slots = alSet e.n ⟨e.vf, e.q, false, none⟩ s.slots) ∧
    (s.slots ≠ [] → (∀ p ∈ s.slots, s.headWaits p.2 = true) → s.scheduling = true →
      let t := s.slots.foldl (fun t p => t.traceFw p.2.vf 4 p.1 p.2.q) s
      (t.runnables ≠ [] → exec .allWaiting s = .next t.replaceWaiting) ∧
      (∀ n h v q, s.slots = [(n, h)] → t.runnables = [(v, q)] → ∃ u, exec .allWaiting s = .next u ∧ u.slots = [(n, ⟨v, q, false, none⟩)]) ∧
      (t.runnables = [] → t.launches.filter t.inCycle = [] → exec .allWaiting s = .next t) ∧
      (t.runnables = [] → ∀ l j, t.launches.filter t.inCycle = [l] → t.aboveAt l 4 = some j → exec .allWaiting s = .next (t.cancelInst j 3))) ∧
    (e.q < 64 →
      onQueue .tail (if (e.l - k.head).toNat ≤ 2 ^ k.log2n.toNat ∧ (k.tail - k.head).toNat ≤ (e.l - k.head).toNat then { k with tail := e.l }
        else { k with qerr := true }) ∧
      (k.en = false → 1 ≤ k.log2n.toNat → k.log2n.toNat ≤ 16 → k.qbase.toNat % 64 = 0 → k.cqbase.toNat % 32 = 0 →
        onQueue .enSet { k with en := true, head := 0, tail := 0, done := 0, headId := 0, fetched := false, closing := false }) ∧
      (k.log2n.toNat < 1 ∨ 16 < k.log2n.toNat ∨ k.qbase.toNat % 64 ≠ 0 ∨ k.cqbase.toNat % 32 ≠ 0 → onQueue .enSet k) ∧
      (onQueue .enClear (if k.en = true ∧ k.testing = true then { k with closing := true } else { k with en := false })) ∧
      (e.l ≠ k.phase → e.l ≠ 0 → s.instLive e.vf 3 e.l e.q = false → onQueue .phase { k with phase := e.l } ∧ ∃ u, exec .phase s = .next u ∧
        ∀ i, s.inst? e.vf 3 k.phase = some i → { i with closed := true } ∈ u.insts) ∧
      (e.l ≠ k.phase → e.l = 0 → onQueue .phase { k with phase := 0 }) ∧
      (∀ i, s.inst? e.vf 3 e.l = some i → e.l ≠ 0 → s.instDone i = false → exec .phase s = .next s) ∧
      (e.l ≠ k.job → e.l ≠ 0 → s.instLive e.vf 4 e.l e.q = false → onQueue .job { k with job := e.l, phase := 0 } ∧ ∃ u, exec .job s = .next u ∧
        ∀ i, s.inst? e.vf 4 k.job = some i ∨ s.inst? e.vf 3 k.phase = some i → { i with closed := true } ∈ u.insts) ∧
      (∀ i, s.inst? e.vf 4 e.l = some i → e.l ≠ 0 → s.instDone i = false → exec .job s = .next s) ∧
      (e.reg = .qbase e.vf e.q → onQueue .registerWrite (if k.en then k else { k with qbase := e.v })) ∧
      (e.reg = .cqbase e.vf e.q → onQueue .registerWrite (if k.en then k else { k with cqbase := e.v })) ∧
      (e.reg = .cqsig e.vf e.q → onQueue .registerWrite { k with cqsig := e.v }) ∧
      (e.reg = .qctl e.vf e.q → onQueue .registerWrite { k with
        qerr := k.qerr && !(e.v.getLsbD 17), irq := e.v.getLsbD 16, vec := fld e.v 8 8, log2n := if k.en then k.log2n else fld e.v 0 5 })) ∧
    (∀ c x, e.reg = .snapaddr c x → exec .registerWrite s =
      .next (s.modCore c fun k => { k with snapaddr := k.snapaddr.set x e.v })) ∧
    (∀ n, e.reg = .tenant n true → n < 4096 → s.fwRuns 2 = true → exec .registerWrite s = .next { s with tenants := alSet n e.v s.tenants }) ∧
    (∀ n, e.reg = .tenant n false → (s.ctx e.c e.x).st.live = true →
      exec .registerWrite s = .next (s.fatal e.c e.x .permission 7 (s.ctx e.c e.x).next)) ∧
    (∀ n, e.reg = .deviceNumber n → exec .registerWrite s = .next { s with devno := n }) ∧
    (∀ g p ms, e.reg = .group g p ms → g < 4096 → 2 ≤ p → p ≤ 4096 → s.fwRuns 2 = true →
      exec .registerWrite s = .next { s with groups := alSet g ⟨p, ms, [], [], [], []⟩ s.groups }) ∧
    (∀ d p, e.reg = .route d (some p) → p < 16 → s.fwRuns 2 = true → ∃ u, exec .registerWrite s = .next u ∧
      (d.toNat, p) ∈ u.routes ∧ ∀ r ∈ u.routes, r.1 = d.toNat → r.2 = p) ∧
    (∀ vf, e.reg = .floor vf → e.v.toNat ≤ 500 → ∃ u, exec .registerWrite s = .next u ∧ (u.vf vf).cfg.floor = e.v.toNat) ∧
    (e.reg = .readOnly → exec .registerWrite s = .next s)

/-- Host writes land, link errors poison loads, flits are admitted, refused, matched or counted; partitions, plug-ins and firmware cores change. The model's choices: which of several tenant entries holds (log entry 38), that a flit spends a credit without waiting (39), that nothing passes a link in error (37), that the firmware core of the role runs (43), the plug-in's queue numbers 64 f + q (65), the two moves of a firmware reset (66), the moves of a partition move (77), the slew that replaces (79), the HDM window at HBM byte 0 (80), and scopes (30). (R292, R330, R355, R356, R362, R363, R364, R365, R367, R369, R370, R405) -/
def Obligations.HostFabricAndFirmwareActions : Prop :=
  ∀ s : State,
    let e := s.ev
    let v := s.vf e.vf
    let d := v.defaultPolicy
    (e.n ≤ 64 → s.present (2 * 2 ^ 48 + e.v.toNat) e.n = true → s.boot.linkErr = false →
      exec .hostSnoop s = .next (s.store (2 * 2 ^ 48 + e.v.toNat) e.n (e.data.headD 0).toNat)) ∧
    (e.n ≤ 64 → e.v.toNat + e.n ≤ s.hdmSize.toNat → s.boot.linkErr = false →
      (e.flag = true → exec .hostMemAccess s = .next (s.store e.v.toNat e.n (e.data.headD 0).toNat)) ∧
      (e.flag = false → ∃ u, exec .hostMemAccess s = .next u ∧ (∃ k, u = { s.settleFirst k with hostData := BitVec.ofNat 512 (readNat u.mem e.v.toNat e.n) }) ∧
        ((∀ p ∈ s.rels, bytesMeet p.1 8 e.v.toNat e.n = false) → u.mem = s.mem) ∧
        ∀ p ∈ s.rels, ∀ r ∈ p.2, ∀ l ∈ u.late, bytesMeet p.1 8 e.v.toNat e.n = true → r.scope = 4 → r.chain = [] → l.num ∉ r.covers)) ∧
    (s.boot.ideIo = true ∨ s.boot.ideMem = true →
      (s.hostLoads = [] → exec .ideIntegrityFail s = .next { s with boot := { s.boot with linkErr := true } }) ∧
      ∀ c x p, s.hostLoads = [(c, x, p)] → (s.ctx c x).st.live = true →
        exec .ideIntegrityFail s = .next (({ s with boot := { s.boot with linkErr := true } } : State).fatal c x .poison p.slot p.org)) ∧
    (∀ q : Fin 2, e.q = q.val → s.fwRuns 3 = true → ∃ u, exec .ideKeySet s = .next u ∧ u.boot.ideKeys = s.boot.ideKeys.set q e.wide ∧
      u.boot.ideSkid = s.boot.ideSkid.set q e.flag ∧ u.boot.ideIo = (s.boot.ideIo || decide (q = 0)) ∧
      u.boot.ideMem = (s.boot.ideMem || decide (q = 1)) ∧ u = { s with boot := u.boot }) ∧
    (∃ u a, exec .launchFlit s = .next u ∧ u = { s with adm := s.adm ++ [a] } ∧ a.packet = e.data.headD 0 ∧ a.slot = 0 ∧ a.fromDev = some (e.dev, e.svf) ∧
      a.priv = false ∧ a.fromQueue = none ∧ a.fromCtx = none ∧
      (s.tenant e.dev e.svf e.vf = none → a.refused = true ∧ a.vf = e.vf) ∧
      ∀ t, s.tenant e.dev e.svf e.vf = some t →
        let out := (fld (descWord a.packet 5) 0 16 &&& ~~~(fld t 20 16 : BitVec 16)) ≠ 0
        a.vf = dstVf t ∧ (t.getLsbD 3 = false → a.refused = true) ∧ (out → a.refused = true) ∧
        ((descWord a.packet 0).getLsbD 8 = false → fld t 4 16 ≠ (0#16 : BitVec 16) → 64 * (fld t 4 16 : BitVec 16).toNat < (fld (descWord a.packet 2) 0 32 : W32).toNat →
          a.refused = true) ∧
        (t.getLsbD 3 = true → ¬ out → fld t 4 16 = 0#16 → a.refused = false)) ∧
    (e.data ≠ [] → s.permits e.dev e.svf e.vf 2 = false → exec .sendFlit s = .next (s.emitTo e.dev 1 (.sendAnswer e.dev e.svf e.l 0 3))) ∧
    (∀ b c (x : CtxId) m pa,
      let w := s.receiver e.dev e.svf e.vf
      let len := max e.v.toNat 64
      e.data = [b] → s.permits e.dev e.svf e.vf 2 = true →
      (∀ p ∈ s.cores, ∀ y : CtxId, ∀ k ∈ (s.ctx p.1 y).cmds 3, k.op = 0x15#6 → k.aux ≠ matchedWith e.dev e.svf e.l len) →
      s.posted w = [(c, x, m.num)] → (s.ctx c x).cmd 3 m.num = some m → m.admits e.dev e.svf e.l = true → m.len = 2 → m.state = 1 → m.dead = false →
      (descWord m.desc 2).toNat = 64 → (descWord m.desc 1).toNat % 64 = 0 → s.before c 3 m = [] → s.requests c < 768 →
      s.cmdXlate c m true (descWord m.desc 1) = .ok pa → region pa ≠ 3 → (region pa = 2 → s.boot.linkErr = false) →
      ∃ u, exec .sendFlit s = .next u ∧ u.mem = writeNat (s.settle pa 64).mem pa b.toNat 64 ∧ u.flits = s.flits ∧ u.posted w = [] ∧
        ∃ k, (u.ctx c x).cmd 3 m.num = some k ∧ k.ctl = (if len = 64 then 0 else 1) ∧ k.total ≤ k.next ∧ k.aux = matchedWith e.dev e.svf e.l len) ∧
    (∀ g, s.group? e.n = some g → (∀ k ∈ g.inbox, k.inst = e.l → k.rank = e.m → k.vf ≠ none) → s.permits e.dev e.svf e.vf 1 = true →
      ∃ u h, exec .collFlit s = .next u ∧ u.group? e.n = some h ∧ h.linesOf (s.receiver e.dev e.svf e.vf) e.l e.m = (e.data, true)) ∧
    ((s.group? e.n).isSome = false ∨ s.permits e.dev e.svf e.vf 1 = false →
      exec .collFlit s = .next (s.emitTo e.dev 1 (.denied e.dev e.svf (BitVec.ofNat 12 e.n) e.l))) ∧
    (∀ g, s.group? e.n = some g → ∃ u h, exec .abortFlit s = .next u ∧ u.group? e.n = some h ∧ h = { g with aborted := h.aborted, lastInst := h.lastInst } ∧ e.l ∈ h.aborted ∧
      ∀ c (x : CtxId) m, m ∈ (s.ctx c x).cmds 3 → m.op = 0x13#6 → 1 ≤ m.len → m.coll = (e.n, e.l) → m.next < m.total →
        ∃ k ∈ (u.ctx c x).cmds 3, k.num = m.num ∧ k.ctl = 4 ∧ k.total ≤ k.next) ∧
    (e.flag = false → s.fwRuns 2 = true → ∃ u, exec .timeFlit s = .next u ∧ u.now = s.now ∧
      u = { s with timeBase := u.timeBase, slewBy := (e.v - s.now).toInt, slewAt := s.clk }) ∧
    (e.flag = true → exec .timeFlit s = .next (s.emitTo e.dev 1 (.time e.dev s.now))) ∧
    (e.flag = true → exec .creditFlit s = .next (s.emit (.credit e.q e.n))) ∧
    (∀ q : Fin 16, e.flag = false → e.q = q.val → exec .creditFlit s = .next { s with credits := s.credits.set q (s.credits[q] + e.n) }) ∧
    (∀ m, (s.ctx e.c e.x).cmd 3 e.n = some m → m.op = 0x14#6 → fld (descWord m.desc 0) 0 4 = 1#4 → m.len = 2 → m.next < m.total → m.ctl ≠ 0xFF →
      ∃ u k, exec .answerFlit s = .next u ∧ onlyCtx e.c e.x s u ∧ (u.ctx e.c e.x).cmd 3 e.n = some k ∧ k.ctl = 0 ∧ k.next = k.total ∧
        fld k.a2 8 4 = BitVec.ofNat 4 e.m ∧ (fld k.a2 32 32 : W32) = if e.m % 16 = 0 then e.l else 0) ∧
    (∀ m, (s.ctx e.c e.x).cmd 3 e.n = some m → m.op = 0x14#6 → m.ctl = 0xFF → ∃ u k, exec .answerFlit s = .next u ∧ onlyCtx e.c e.x s u ∧
      (u.ctx e.c e.x).cmd 3 e.n = some k ∧ k.ctl = BitVec.ofNat 64 (m.aux.headD 0) ∧ k.next = k.total ∧
        (fld k.a2 32 32 : W32) = BitVec.ofNat 32 (64 * m.total)) ∧
    (exec .linkLevelRetry s = .next { s with retries := s.retries + 1 }) ∧
    (∀ f w, s.scheduling = true → v.live = true → (∀ m ∈ s.moving, m.1 ≠ e.c) → s.vfs.find? (fun p => p.2.cfg.cores.contains e.c) = some (f, w) → f ≠ e.vf →
      s.vf f = w → s.demandTest f (w.cfg.cores.length - 1) none = true → ∃ u, exec .partitionMove s = .next u ∧
        (s.functionOn e.c f = true → s.moving = [] → u.moving = [(e.c, f, e.vf)] ∧ (u.vf f).cfg.cores = w.cfg.cores.filter fun k => k != e.c) ∧
        (s.functionOn e.c f = false → s.moving = [] → u.moving = [] ∧ (u.vf e.vf).cfg.cores = v.cfg.cores ++ [e.c])) ∧
    (s.scheduling = true →
      (v.plugin = false → exec .pluginCall s = .next (s.setVf e.vf d)) ∧
      (v.plugin = true → e.flag = true → exec .pluginCall s = .next (s.setVf e.vf { d with plugin := false, pluginStops := 0 })) ∧
      (v.plugin = true → e.flag = false → exec .pluginCall s = .next (s.setVf e.vf { d with
        pluginStops := 0, pluginTarget := if e.n ≤ e.m then e.n else d.pluginTarget
        pluginOrder := if (e.list.all fun q => decide (q / 64 = e.vf)) = true then e.list.map fun q => q % 64 else d.pluginOrder }))) ∧
    (v.plugin = true → ∃ u, exec .pluginTimeout s = .next u ∧ (u.vf e.vf).pluginStops = v.pluginStops + 1 ∧ (u.vf e.vf).plugin = decide (v.pluginStops + 1 < 3) ∧
      (u.vf e.vf).pluginOrder = List.range 64 ∧ (u.vf e.vf).pluginTarget = v.cfg.cores.length) ∧
    (exec .pluginLoad s = .next (s.setVf e.vf { v with plugin := true, pluginStops := 0, pluginDigest := e.wide })) ∧
    (∀ q : Fin 4, e.q = q.val →
      (e.flag = true → ∃ u, exec .firmwareCoreReset s = .next u ∧ u = { s with boot := u.boot, slots := u.slots, moving := u.moving, vfs := u.vfs } ∧
        (s.moving = [] → u.vfs = s.vfs) ∧
        u.boot = { s.boot with fwUp := s.boot.fwUp.set q true } ∧ ((s.boot.fwUp.set q true)[(0 : Fin 4)] = false → u.slots = s.slots)) ∧
      (e.flag = false → s.boot.fwUp[if q = 2 then (3 : Fin 4) else 2] = true → exec .firmwareCoreReset s = .next
        { s with boot := { s.boot with fwUp := s.boot.fwUp.set q false, fwResets := s.boot.fwResets + 1 } }) ∧
      exec .firmwareUncorrectableError s = .next
        { s with boot := { s.boot with fwUp := s.boot.fwUp.set q false, fwResets := s.boot.fwResets + 1 } })

/-- Promotions complete, fail or run out of slots, objects leave, fen channels and ranges change, and Skim rows and epochs are served. The model's choices: that firmware core 3 must run (log entry 43), the order in which waiting objects take slots (64), and that a registration on a bad base, of no length or of an object that is not FEN is ignored (95). (R294, R297, R299, R301, R303, R305, R306, R307, R308, R309, R404) -/
def Obligations.TierEventsMoveObjectsAndRows : Prop :=
  ∀ s : State,
    let e := s.ev
    (∀ o, s.objs.Pairwise (fun a b => (a.vf, a.id) ≠ (b.vf, b.id)) → s.obj? e.vf e.l = some o →
      (o.st = .promoting → o.slots ≠ [] → (∀ p ∈ s.objs, p.st = .promoting → p.slots ≠ []) → region (s.objAddr o) ≠ 3 →
        (region (s.objAddr o) = 2 → s.boot.linkErr = false) →
        (o.fromBack = true ∨ s.objReads o = true → ∃ u, exec .promoteCopyComplete s = .next u ∧ u.obj? e.vf e.l = some { o with waiters := [], spent := [], st := if o.pins = [] then .reclaiming else .resident } ∧
          u.mem = writeNat (s.settle (s.objAddr o) o.len).mem (s.objAddr o) (readNat s.memNow (if o.fromBack then 2 * 2 ^ 48 + o.back.getD 0 else 2 ^ 48 + o.base) o.len) o.len) ∧
        (o.fromBack = false → o.back = none → ∃ u, exec .stripeUncorrectable s = .next u ∧
          u.obj? e.vf e.l = some { o with waiters := [], spent := [], st := .poisoned })) ∧
      (o.st = .promoting → o.slots ≠ [] → o.fromBack = false → o.back.isSome = true → ∃ u k, exec .stripeUncorrectable s = .next u ∧
        u.obj? e.vf e.l = some k ∧ k.st = .promoting ∧ k.fromBack = true ∧ k.pins = o.pins ∧ k.waiters = o.waiters) ∧
      (o.st = .promoting → o.slots = [] → s.takeSlots o = none → o.asked.toNat + 100000 ≤ s.now.toNat → ∃ u, exec .promoteNospace s = .next u ∧
        u.obj? e.vf e.l = some { o with st := .fen, pins := [], waiters := [], spent := [], fromBack := false }) ∧
      (o.st = .promoting → s.now.toNat < o.asked.toNat + 100000 → exec .promoteNospace s = .next s) ∧
      (o.st = .reclaiming → ∃ u k, exec .leaveComplete s = .next u ∧ u.obj? e.vf e.l = some k ∧ k.st = .fen ∧ k.slots = [] ∧
        ∀ a, readByte u.mem a = if s.objAddr o ≤ a ∧ a < s.objAddr o + o.slots.length * 2 ^ s.slotBits then 0
          else readByte (s.settle (s.objAddr o) (o.slots.length * 2 ^ s.slotBits)).mem a)) ∧
    (e.v.toNat % 32768 = 0 → e.w ≠ 0 → (∀ o, s.obj? e.vf e.l = some o → o.st = .fen) → ∃ u, exec .weightObjectRegister s = .next u ∧
      u.obj? e.vf e.l = some ⟨e.vf, e.l, e.v.toNat, e.w.toNat, e.flag, e.pte.map BitVec.toNat, .fen, [], [], [], false, false, [], 0, 0, 0, [], false⟩ ∧
      (∀ f i, (f, i) ≠ (e.vf, e.l) → u.obj? f i = s.obj? f i) ∧ u.mem = s.mem) ∧
    (e.v.toNat % 32768 ≠ 0 ∨ e.w = 0 ∨ (∃ o, s.obj? e.vf e.l = some o ∧ o.st ≠ .fen) → exec .weightObjectRegister s = .next s) ∧
    (e.n < 48 → e.flag = false → e.n ∉ s.fenDown → exec .fenChannelDown s = .next
      { s with fenDown := s.fenDown ++ [e.n], boot := { s.boot with fch := if s.fenDown.length = 0 then 1 else 2 } }) ∧
    (e.n < 48 → e.flag = true → ∃ u, exec .fenChannelDown s = .next u ∧ u.mem = s.mem ∧
      (e.m, (e.n + 48 - 2 * e.m % 48) % 48) ∈ if e.q = 1 then u.fenErr else u.fenBad) ∧
    (s.fwRuns 3 = true → ∃ u, exec .fenRangeAssign s = .next u ∧ (e.vf, e.v.toNat, e.w.toNat, e.flag) ∈ u.fenRanges ∧
      (∀ r ∈ u.fenRanges, r ≠ (e.vf, e.v.toNat, e.w.toNat, e.flag) → r ∈ s.fenRanges ∧ bytesMeet r.2.1 r.2.2.1 e.v.toNat e.w.toNat = false) ∧
      ∀ a, readByte u.mem a = if e.flag = false ∧ 2 ^ 48 + e.v.toNat ≤ a ∧ a < 2 ^ 48 + e.v.toNat + e.w.toNat then 0
        else readByte (if e.flag then s else s.settle (2 ^ 48 + e.v.toNat) e.w.toNat).mem a) ∧
    (∀ m, (s.ctx e.c e.x).cmd 2 e.n = some m → m.op = 0x12#6 → m.len = 2 → m.state = 1 → m.next < m.total →
      let w := descWord m.desc 0
      let cols := (fld w 42 14 : BitVec 14).toNat
      let len := cols * skimSize w
      let set := (fld w 56 6 : BitVec 6).toNat
      let src := descWord m.desc 1 + descWord m.desc 2 * BitVec.ofNat 64 e.m
      let dst := descWord m.desc 3 + BitVec.ofNat 64 (128 * e.m)
      (∀ pa pd, fld w 0 4 = 0#4 → m.dead = false → e.m < m.total → e.m ∉ m.aux → s.objs = [] → s.before e.c 2 m = [] → s.requests e.c < 768 →
        src.toNat % 32768 + len ≤ 32768 → dst.toNat % 32768 + 128 ≤ 32768 →
        s.cmdXlate e.c m false src = .ok pa → s.cmdXlate e.c m true dst = .ok pd → region pa ≠ 3 → region pd ≠ 3 → (region pd = 2 → s.boot.linkErr = false) →
        ∃ u k, exec .skimRow s = .next u ∧ (u.ctx e.c e.x).cmd 2 e.n = some k ∧ k.next = m.next + 1 ∧ k.aux = m.aux ++ [e.m] ∧
          (∀ die, stackOf [(pa, len)] = some die → s.badPieces [(pa, len)] = false → k.a2 = m.a2 ∧ u.mem = writeNat (s.settle pd 128).mem pd
            (selectRow (s.biasOf die set) (fld w 8 5 : BitVec 5).toNat (logitsOf w cols (s.cmdLoad e.c m src len [(pa, len)])) % 256 ^ 128) 128) ∧
          (stackOf [(pa, len)] = none ∨ s.badPieces [(pa, len)] = true → k.a2 = m.a2 + 1 ∧ u.mem = writeNat (s.settle pd 128).mem pd badRow 128)) ∧
      (fld w 0 4 = 2#4 → e.q < 8 → e.q ∉ m.aux → set < 64 → (s.ctx e.c e.x).biasAhead m set = false → ∃ u k, exec .skimEpochDequeue s = .next u ∧ (u.ctx e.c e.x).cmd 2 e.n = some k ∧
        k.next = m.next + 1 ∧ k.aux = m.aux ++ [e.q] ∧ u.mem = s.mem ∧
        u.biasOf e.q set = ⟨(s.biasOf e.q set).shadow, (s.biasOf e.q set).shadow, (s.biasOf e.q set).version + 1⟩ ∧
        ∀ die t, t < 64 → (die, t) ≠ (e.q, set) → u.biasOf die t = s.biasOf die t)) ∧
    (∀ (b : Bias) (k : Nat) (x : List Nat), k ≤ 16 → x.length ≤ 8192 → (∀ v ∈ x, v < 2 ^ 32) →
      let key (c : Nat) : FVal := fp32.decode (fAdd fp32 0 (x.getD c 0) (alGet (0 : W32) c b.active).toNat).1
      let first (c d : Nat) : Prop := valLess (key d) (key c) = true ∨ (notNumber (key c) = false ∧ notNumber (key d) = true) ∨
        (valLess (key c) (key d) = false ∧ valLess (key d) (key c) = false ∧ notNumber (key c) = notNumber (key d) ∧ c < d)
      let out := selectRow b k x
      ∃ best : List Nat, best.length = min k x.length ∧ (∀ c ∈ best, c < x.length) ∧ best.Pairwise first ∧
        (∀ c, c < x.length → c ∉ best → ∀ d ∈ best, first d c) ∧
        (∀ i, i < 16 → out / 2 ^ (16 * i) % 2 ^ 16 = best.getD i 0xFFFF ∧
          out / 2 ^ (256 + 32 * i) % 2 ^ 32 = if i < best.length then x.getD (best.getD i 0) 0 else 0) ∧
        out / 2 ^ 768 = b.version.toNat)

/-- Debug slots and live state are written, contexts stop, resume, step and are snapped, traces and samples start, a checkpoint is replayed. The model's choices: that the resume address is written as such (log entry 68), that a checkpoint is kept beside its bytes (70), that a replay runs as a unit of a background launch (71), on the lowest-numbered FREE context (33). (R83, R377, R378, R379, R381, R382, R384, R385, R392, R398, R399) -/
def Obligations.DebuggerRowsActOnTheirContext : Prop :=
  ∀ s : State,
    let e := s.ev
    let c := e.c
    let x := e.x
    let cx := s.ctx c x
    let v := s.vf e.vf
    let old := alGet DbgSlot.reset e.q v.dbg
    (e.q < 16 →
      (e.n = 8 → exec .debugSlotWrite s = .next (s.setVf e.vf { v with dbg := alSet e.q { old with logbase := e.v } v.dbg })) ∧
      (e.n = 16 → exec .debugSlotWrite s = .next (s.setVf e.vf { v with dbg := alSet e.q { old with loglog2 := fld e.v 0 6 } v.dbg })) ∧
      (e.n = 0 → e.v.getLsbD 2 = false → exec .debugSlotWrite s =
        .next (s.setVf e.vf { v with dbg := alSet e.q { old with w0 := e.v &&& 0xFFFFFFFF0000001D#64 } v.dbg })) ∧
      (∀ i : Fin 8, e.n = 0x100 + 16 * i.val → exec .debugSlotWrite s =
        .next (s.setVf e.vf { v with dbg := alSet e.q { old with bps := old.bps.set i { old.bps[i] with w0 := e.v } } v.dbg }))) ∧
    (cx.dbg.stopped = false → cx.st.live = true → cx.pendEv = Pending.none → s.breakAt c x = none → ∃ u, exec .halt s = .next u ∧ (u.ctx c x).st = .frozen ∧
      (u.ctx c x).dbg.stopped = true ∧ (u.ctx c x).dbg.why = 0 ∧ (u.ctx c x).fz = true ∧
      (u.ctx c x).trapba = cx.pc ∧ (u.ctx c x).trapsc = cx.scycle ∧ (u.ctx c x).s = cx.s ∧ (u.ctx c x).v = cx.v ∧ (u.core c).cur ≠ some x) ∧
    (cx.dbg.stopped = true → cx.dbg.fatal = false → cx.pendEv = Pending.none → cx.rep.replaying = false → cx.pc.toNat % 4 = 0 → (cx.segOf cx.pc).isSome = true →
      let on (step : Bool) : Ctx :=
        { cx with st := .ready, wait := cx.wait.kept, readyWait := 0, dbg := { cx.dbg with stopped := false }, pendEv := { Pending.none with skipBp := true, stepStop := step } }
      exec .resume s = .next (s.setCtx c x (on false)) ∧ exec .dctlStep s = .next (s.setCtx c x (on true))) ∧
    (cx.dbg.stopped = true → ∃ u p, exec .snap s = .next u ∧ u.snaps = s.snaps ++ [p] ∧ p.vf = cx.vf ∧
      p.addr = (s.core c).snapaddr[x] &&& 0xFFFFFFFFFFFFF000#64 ∧ p.frame = s.frameFor c x ∧ p.tiles = s.nameable c x) ∧
    (cx.dbg.stopped = true →
      (e.flag = true → exec .liveStateWrite s = .next (s.setCtx c x { cx with pc := e.v.setWidth 32 })) ∧
      (∀ r : BitVec 5, e.flag = false → e.n = 0x100 + 8 * r.toNat → exec .liveStateWrite s = .next (s.setCtx c x (cx.setS r e.v))) ∧
      ∀ i : Fin 8, e.flag = false → e.n = 0x740 + 8 * i.val → exec .liveStateWrite s = .next (s.setCtx c x { cx with
        sticky := cx.sticky.set i (if fld cx.sticky[i] 0 12 &&& ~~~(fld e.v 0 12) = 0#12 then 0 else cx.sticky[i] &&& ~~~((fld e.v 0 12 : BitVec 12).setWidth 64)) })) ∧
    (cx.dbg.stopped = false → exec .liveStateWrite s = .next s) ∧
    (∃ u, exec .tenSet s = .next u ∧ u = s.setVf e.vf { v with tr := (u.vf e.vf).tr } ∧ (u.vf e.vf).tr.ten = true ∧ (u.vf e.vf).tr.wrap = e.v.getLsbD 8 ∧
      (u.vf e.vf).tr.tlog2 = fld e.v 0 6 ∧ (v.tr.ten = false → (u.vf e.vf).tr.twr = 0 ∧ (u.vf e.vf).tr.trd = 0 ∧ (u.vf e.vf).tr.tlost = 0)) ∧
    (v.tr.sper = 0 → exec .sample s = .next s) ∧
    (∀ p, v.tr.sper ≠ 0 → 12 ≤ v.tr.slog2.toNat → v.tr.slog2.toNat ≤ 40 → (s.units.filter fun p => decide ((s.ctx p.1 p.2).vf = e.vf)) = [p] →
      ∃ u, exec .sample s = .next u ∧ (u.vf e.vf).tr.swr = v.tr.swr + 896 ∧ u.cores = s.cores) ∧
    (∀ p l y, s.snapAt e.vf e.v = some p → s.launch? e.l = some l →
      allCtx.find? (fun z => decide ((s.ctx c z).st = .free)) = some y → l.bg = true → l.vf = e.vf → l.pending = true →
      s.roomOn c 1 p.frame.ctx.quota.toNat p.frame.mask [] = true → s.dbgBit l.vf l.id 2 = false →
      ∃ u, exec .replayRequest s = .next u ∧ (u.ctx c y).st = .ready ∧ (u.ctx c y).launch = l.id ∧ (u.ctx c y).rep.replaying = true ∧
        (u.ctx c y).rep.base = e.w ∧ (u.ctx c y).rep.log2 = e.n ∧ (u.ctx c y).s = p.frame.ctx.s ∧ (u.ctx c y).v = p.frame.ctx.v ∧ (u.ctx c y).k = p.frame.ctx.k ∧
        (u.ctx c y).pc = p.frame.ctx.pc ∧ (u.launch? e.l).map (fun k => k.placed) = some (l.placed + 1)) ∧
    (exec .debuggerEventSet s = .next (s.setCtx c x { cx with event := true }))

/-- Power comes on through the boot steps, images are committed and attested, errors and heat act, functions are created and destroyed. The model's choices: that the firmware core of the role runs (log entry 43), that a function is destroyed once its cancelled units have left (44), what a trip leaves (45), what a boot keeps (67), and which configurations are legal (40). (R294, R314, R357, R401, R402, R403, R404, R405, R407) -/
def Obligations.BootSecurityAndFunctions : Prop :=
  ∀ s : State,
    let e := s.ev
    let b := e.boot
    let fails (st fail : Nat) : Prop := ∃ u, exec .powerOn s = .next u ∧ u.boot.ready = false ∧ u.boot.stp = BitVec.ofNat 4 st ∧
      u.boot.fail = BitVec.ofNat 4 fail ∧ u.cores = [] ∧ u.launches = []
    let good (n : Nat) : Prop := (1 ≤ n → b.fuseOk = true) ∧ (2 ≤ n → b.keyOk = true) ∧ (3 ≤ n → b.sigOk = true) ∧
      (4 ≤ n → s.boot.rollback.toNat ≤ b.version.toNat) ∧ (5 ≤ n → b.beatOk = true) ∧ (6 ≤ n → b.fenDown.length ≤ 2 ∧ b.hbmOk = true)
    (b.fuseOk = false → fails 0 1) ∧ (good 1 → b.keyOk = false → fails 1 2) ∧ (good 2 → b.sigOk = false → fails 1 3) ∧
    (good 3 → b.version.toNat < s.boot.rollback.toNat → fails 1 4) ∧ (good 4 → b.beatOk = false → fails 2 5) ∧
    (good 5 → 2 < b.fenDown.length ∨ b.hbmOk = false → fails 3 6) ∧
    (good 6 → ∃ u, exec .powerOn s = .next u ∧ u.boot.ready = true ∧ u.boot.stp = 6 ∧ u.boot.fail = 0 ∧ u.boot.rollback = s.boot.rollback ∧
      u.boot.version = b.version ∧ u.fenDown = b.fenDown ∧ u.timeBase = b.hostTime ∧ u.devno = b.devno ∧ u.routes = b.routes.filter (fun r => decide (r.2 < 16)) ∧ u.cores = [] ∧ u.launches = [] ∧
      ∀ a, readByte u.mem a = if region a = 1 ∨ region a = 2 then readByte s.mem a else 0) ∧
    (s.boot.ready = true → s.boot.rollback.toNat < s.boot.version.toNat → exec .commit s =
      .next { s with boot := { s.boot with rollback := s.boot.version.setWidth 64 } }) ∧
    (s.boot.version.toNat ≤ s.boot.rollback.toNat → exec .commit s = .next s) ∧
    (exec .attestationRequest s = .next { s with boot := { s.boot with attestQ := s.boot.attestQ ++ [(BitVec.ofNat 8 e.vf, e.wide)] } }) ∧
    (∀ f n r, s.fwRuns 3 = true → s.boot.attestQ = (f, n) :: r → ∃ u body, exec .attestationReport s = .next u ∧ u.boot.attestQ = r ∧
      u.boot.reports = s.boot.reports ++ [(f, body, Config.signature body)] ∧ fld body 0 32 = (1 : W32) ∧ fld body 64 256 = n ∧
      fld body 320 1024 = s.boot.digests ∧ fld body 1344 256 = (s.vf f.toNat).pluginDigest ∧ fld body 1600 64 = s.boot.rollback) ∧
    (let ids := (s.launches.filter fun l => decide (l.stage = .admitted)).map fun l => l.id
     exec .fuseError s = .next (({ s with boot := { s.boot with fail := 1, ready := false } } : State).cancelLaunches ids 1)) ∧
    (∀ q : Fin 2, e.q = q.val →
      (e.n < 115 → ∃ u, exec .thermalSample s = .next u ∧ u.boot.temp = s.boot.temp.set q e.n ∧
        u.boot.hot = s.boot.hot.set q (decide (105 ≤ e.n) || (s.boot.hot[q] && decide (100 ≤ e.n))) ∧ (u.boot.thr = true ↔ ∃ i : Fin 2, u.boot.hot[i] = true) ∧
        u.boot.ready = s.boot.ready ∧ u.cores = s.cores ∧ u.launches = s.launches) ∧
      (115 ≤ e.n → ∃ u, exec .thermalSample s = .next u ∧ u.boot.powered = false ∧ u.boot.ready = false ∧ u.cores = [] ∧ u.frames = [])) ∧
    (s.boot.ready = true → s.fwRuns 1 = true → (s.vf e.vf).live = false → e.vf ≤ 128 → ∃ u, exec .functionCreate s = .next u ∧
      u.vf e.vf = { Vf.reset with live := true, cfg := legalCfg e.cfg } ∧ (e.cfg.floor ≤ 500 → (u.vf e.vf).cfg = e.cfg) ∧ (∀ f, f ≠ e.vf → u.vf f = s.vf f) ∧ u.mem = s.mem ∧
      ((∃ o ∈ s.objs, o.slots ≠ []) → u.wslots = s.wslots)) ∧
    ((s.vf e.vf).live = true → s.fwRuns 1 = true → s.fwRuns 3 = true →
      let mine := s.launches.filter fun l => decide (l.vf = e.vf) && decide (l.stage = .admitted)
      let here := s.units.any fun p => decide ((s.ctx p.1 p.2).vf = e.vf)
      (mine ≠ [] ∨ here = true → exec .functionDestroy s = .next (s.cancelLaunches (mine.map fun l => l.id) 1)) ∧
      (mine = [] → here = false → ∃ u, exec .functionDestroy s = .next u ∧ (u.vf e.vf).live = false ∧ (∀ f, f ≠ e.vf → u.vf f = s.vf f) ∧
        (∀ a, a / 32768 ∈ e.list → readByte u.mem a = 0) ∧
        (∀ r ∈ s.fenRanges, r.1 = e.vf → r.2.2.2 = false → ∀ a, 2 ^ 48 + r.2.1 ≤ a → a < 2 ^ 48 + r.2.1 + r.2.2.1 → readByte u.mem a = 0) ∧
        (∀ o ∈ u.objs, o.vf ≠ e.vf) ∧ (∀ p ∈ u.snaps, p.vf ≠ e.vf) ∧ (e.vf ≤ 128 → ∀ r ∈ u.fenRanges, r.1 ≠ e.vf) ∧ (∀ p ∈ u.slots, p.2.vf ≠ e.vf) ∧ ∀ k, ∀ t ∈ (u.core k).tlb, t.vf ≠ e.vf))

/-- Every step keeps memory in its canonical form: addresses strictly rising, and no cell that holds what an unlisted address reads as. The canonical form is the model's way to write a memory as data (log entry 1). (R186, R187, R188, R210, R404) -/
def Obligations.MemoryStaysCanonical : Prop :=
  ∀ s t : State, memOk s → step s = .next t → memOk t

/-- Reset leaves canonical memory that reads 0 everywhere, FREE contexts, ABSENT tiles, no launch, no function, free barriers and a device that is not ready. The model's choices: bytes of memory that nothing has written read 0 (log entry 1), the values of a FREE context's registers (2), and that a step with nothing scheduled leaves the state (4). (R67, R68, R155, R158, R264, R401) -/
def Obligations.ResetLeavesAnEmptyDevice : Prop :=
    let s := State.reset
    memOk s ∧ (∀ a, readByte s.mem a = 0) ∧
    (∀ c (x : CtxId), (s.ctx c x).st = .free ∧ (s.ctx c x).tiles = [] ∧ (s.ctx c x).cq = [] ∧ (s.ctx c x).mt = [] ∧ (s.ctx c x).mc = [] ∧
      (s.ctx c x).mg = [] ∧ (s.ctx c x).lands = [] ∧ (s.ctx c x).pend = [] ∧ (∀ q, (s.ctx c x).cmds q = []) ∧ (s.ctx c x).tif = false ∧
      (s.ctx c x).rep.logging = false ∧ (s.ctx c x).rep.replaying = false ∧ (s.core c).cur = none) ∧
    (∀ l, (s.tile l).st = .absent) ∧ (∀ c n, s.nb c n = Barrier.free) ∧ s.launches = [] ∧ s.late = [] ∧ s.rels = [] ∧ s.vfs = [] ∧ s.slots = [] ∧ s.frames = [] ∧
    s.boot.ready = false ∧ s.boot.fail = 0 ∧ s.boot.stp = 0 ∧ step s = .next s
end

