-- ==== Sys2Proof/Laws/State.lean ====
section
/-! SUPPORT. One lemma per field per update of the state: what each named update leaves as it was, and what it writes. -/

namespace Sys2Proof.Machine

/-! ### Tables -/

@[simp] theorem alGet_alSet_self {α : Type} (d a : α) (k : Nat) (l : List (Nat × α)) : alGet d k (alSet k a l) = a := by
  induction l with
  | nil => simp [alSet, alGet]
  | cons p r ih =>
    obtain ⟨j, b⟩ := p
    simp only [alSet]
    split
    · simp [alGet]
    · split
      · simp [alGet]
      · simp [alGet, *]

theorem alGet_alSet_other {α : Type} (d a : α) {k j : Nat} (h : j ≠ k) (l : List (Nat × α)) : alGet d j (alSet k a l) = alGet d j l := by
  induction l with
  | nil => simp [alSet, alGet, Ne.symm h]
  | cons p r ih =>
    obtain ⟨i, b⟩ := p
    simp only [alSet]
    split
    · next e => subst e; simp [alGet, Ne.symm h]
    · split
      · simp [alGet, Ne.symm h]
      · simp [alGet, ih]

/-! ### `State.setCore` -/

@[simp] theorem State.setCore_mem (s : State) (c : Nat) (k : Core) : (s.setCore c k).mem = s.mem := rfl
@[simp] theorem State.setCore_late (s : State) (c : Nat) (k : Core) : (s.setCore c k).late = s.late := rfl
@[simp] theorem State.setCore_rels (s : State) (c : Nat) (k : Core) : (s.setCore c k).rels = s.rels := rfl
@[simp] theorem State.setCore_poison (s : State) (c : Nat) (k : Core) : (s.setCore c k).poison = s.poison := rfl
@[simp] theorem State.setCore_vfs (s : State) (c : Nat) (k : Core) : (s.setCore c k).vfs = s.vfs := rfl
@[simp] theorem State.setCore_launches (s : State) (c : Nat) (k : Core) : (s.setCore c k).launches = s.launches := rfl
@[simp] theorem State.setCore_insts (s : State) (c : Nat) (k : Core) : (s.setCore c k).insts = s.insts := rfl
@[simp] theorem State.setCore_closed (s : State) (c : Nat) (k : Core) : (s.setCore c k).closed = s.closed := rfl
@[simp] theorem State.setCore_slots (s : State) (c : Nat) (k : Core) : (s.setCore c k).slots = s.slots := rfl
@[simp] theorem State.setCore_adm (s : State) (c : Nat) (k : Core) : (s.setCore c k).adm = s.adm := rfl
@[simp] theorem State.setCore_rot (s : State) (c : Nat) (k : Core) : (s.setCore c k).rot = s.rot := rfl
@[simp] theorem State.setCore_frames (s : State) (c : Nat) (k : Core) : (s.setCore c k).frames = s.frames := rfl
@[simp] theorem State.setCore_wstores (s : State) (c : Nat) (k : Core) : (s.setCore c k).wstores = s.wstores := rfl
@[simp] theorem State.setCore_preempts (s : State) (c : Nat) (k : Core) : (s.setCore c k).preempts = s.preempts := rfl
@[simp] theorem State.setCore_moving (s : State) (c : Nat) (k : Core) : (s.setCore c k).moving = s.moving := rfl
@[simp] theorem State.setCore_snaps (s : State) (c : Nat) (k : Core) : (s.setCore c k).snaps = s.snaps := rfl
@[simp] theorem State.setCore_traceq (s : State) (c : Nat) (k : Core) : (s.setCore c k).traceq = s.traceq := rfl
@[simp] theorem State.setCore_traceHeld (s : State) (c : Nat) (k : Core) : (s.setCore c k).traceHeld = s.traceHeld := rfl
@[simp] theorem State.setCore_traceLost (s : State) (c : Nat) (k : Core) : (s.setCore c k).traceLost = s.traceLost := rfl
@[simp] theorem State.setCore_pfaults (s : State) (c : Nat) (k : Core) : (s.setCore c k).pfaults = s.pfaults := rfl
@[simp] theorem State.setCore_walks (s : State) (c : Nat) (k : Core) : (s.setCore c k).walks = s.walks := rfl
@[simp] theorem State.setCore_ctlb (s : State) (c : Nat) (k : Core) : (s.setCore c k).ctlb = s.ctlb := rfl
@[simp] theorem State.setCore_invs (s : State) (c : Nat) (k : Core) : (s.setCore c k).invs = s.invs := rfl
@[simp] theorem State.setCore_objs (s : State) (c : Nat) (k : Core) : (s.setCore c k).objs = s.objs := rfl
@[simp] theorem State.setCore_wslots (s : State) (c : Nat) (k : Core) : (s.setCore c k).wslots = s.wslots := rfl
@[simp] theorem State.setCore_slotBits (s : State) (c : Nat) (k : Core) : (s.setCore c k).slotBits = s.slotBits := rfl
@[simp] theorem State.setCore_winBase (s : State) (c : Nat) (k : Core) : (s.setCore c k).winBase = s.winBase := rfl
@[simp] theorem State.setCore_bias (s : State) (c : Nat) (k : Core) : (s.setCore c k).bias = s.bias := rfl
@[simp] theorem State.setCore_devno (s : State) (c : Nat) (k : Core) : (s.setCore c k).devno = s.devno := rfl
@[simp] theorem State.setCore_routes (s : State) (c : Nat) (k : Core) : (s.setCore c k).routes = s.routes := rfl
@[simp] theorem State.setCore_tenants (s : State) (c : Nat) (k : Core) : (s.setCore c k).tenants = s.tenants := rfl
@[simp] theorem State.setCore_flits (s : State) (c : Nat) (k : Core) : (s.setCore c k).flits = s.flits := rfl
@[simp] theorem State.setCore_credits (s : State) (c : Nat) (k : Core) : (s.setCore c k).credits = s.credits := rfl
@[simp] theorem State.setCore_retries (s : State) (c : Nat) (k : Core) : (s.setCore c k).retries = s.retries := rfl
@[simp] theorem State.setCore_groups (s : State) (c : Nat) (k : Core) : (s.setCore c k).groups = s.groups := rfl
@[simp] theorem State.setCore_msix (s : State) (c : Nat) (k : Core) : (s.setCore c k).msix = s.msix := rfl
@[simp] theorem State.setCore_hostSize (s : State) (c : Nat) (k : Core) : (s.setCore c k).hostSize = s.hostSize := rfl
@[simp] theorem State.setCore_hdmSize (s : State) (c : Nat) (k : Core) : (s.setCore c k).hdmSize = s.hdmSize := rfl
@[simp] theorem State.setCore_fenDown (s : State) (c : Nat) (k : Core) : (s.setCore c k).fenDown = s.fenDown := rfl
@[simp] theorem State.setCore_fenCorrected (s : State) (c : Nat) (k : Core) : (s.setCore c k).fenCorrected = s.fenCorrected := rfl
@[simp] theorem State.setCore_fenBad (s : State) (c : Nat) (k : Core) : (s.setCore c k).fenBad = s.fenBad := rfl
@[simp] theorem State.setCore_fenErr (s : State) (c : Nat) (k : Core) : (s.setCore c k).fenErr = s.fenErr := rfl
@[simp] theorem State.setCore_hostData (s : State) (c : Nat) (k : Core) : (s.setCore c k).hostData = s.hostData := rfl
@[simp] theorem State.setCore_fenRanges (s : State) (c : Nat) (k : Core) : (s.setCore c k).fenRanges = s.fenRanges := rfl
@[simp] theorem State.setCore_boot (s : State) (c : Nat) (k : Core) : (s.setCore c k).boot = s.boot := rfl
@[simp] theorem State.setCore_timeBase (s : State) (c : Nat) (k : Core) : (s.setCore c k).timeBase = s.timeBase := rfl
@[simp] theorem State.setCore_slewBy (s : State) (c : Nat) (k : Core) : (s.setCore c k).slewBy = s.slewBy := rfl
@[simp] theorem State.setCore_slewAt (s : State) (c : Nat) (k : Core) : (s.setCore c k).slewAt = s.slewAt := rfl
@[simp] theorem State.setCore_clk (s : State) (c : Nat) (k : Core) : (s.setCore c k).clk = s.clk := rfl
@[simp] theorem State.setCore_idCtr (s : State) (c : Nat) (k : Core) : (s.setCore c k).idCtr = s.idCtr := rfl
@[simp] theorem State.setCore_uidCtr (s : State) (c : Nat) (k : Core) : (s.setCore c k).uidCtr = s.uidCtr := rfl
@[simp] theorem State.setCore_freeCtr (s : State) (c : Nat) (k : Core) : (s.setCore c k).freeCtr = s.freeCtr := rfl
@[simp] theorem State.setCore_sched (s : State) (c : Nat) (k : Core) : (s.setCore c k).sched = s.sched := rfl
@[simp] theorem State.setCore_cur (s : State) (c : Nat) (k : Core) : (s.setCore c k).cur = s.cur := rfl
@[simp] theorem State.setCore_ev (s : State) (c : Nat) (k : Core) : (s.setCore c k).ev = s.ev := rfl
@[simp] theorem State.setCore_words (s : State) (c : Nat) (k : Core) : (s.setCore c k).words = s.words := rfl
@[simp] theorem State.setCore_popMask (s : State) (c : Nat) (k : Core) : (s.setCore c k).popMask = s.popMask := rfl
@[simp] theorem State.setCore_issuing (s : State) (c : Nat) (k : Core) : (s.setCore c k).issuing = s.issuing := rfl

/-! ### `State.modCore` -/

@[simp] theorem State.modCore_mem (s : State) (c : Nat) (f : Core → Core) : (s.modCore c f).mem = s.mem := rfl
@[simp] theorem State.modCore_late (s : State) (c : Nat) (f : Core → Core) : (s.modCore c f).late = s.late := rfl
@[simp] theorem State.modCore_rels (s : State) (c : Nat) (f : Core → Core) : (s.modCore c f).rels = s.rels := rfl
@[simp] theorem State.modCore_poison (s : State) (c : Nat) (f : Core → Core) : (s.modCore c f).poison = s.poison := rfl
@[simp] theorem State.modCore_vfs (s : State) (c : Nat) (f : Core → Core) : (s.modCore c f).vfs = s.vfs := rfl
@[simp] theorem State.modCore_launches (s : State) (c : Nat) (f : Core → Core) : (s.modCore c f).launches = s.launches := rfl
@[simp] theorem State.modCore_insts (s : State) (c : Nat) (f : Core → Core) : (s.modCore c f).insts = s.insts := rfl
@[simp] theorem State.modCore_closed (s : State) (c : Nat) (f : Core → Core) : (s.modCore c f).closed = s.closed := rfl
@[simp] theorem State.modCore_slots (s : State) (c : Nat) (f : Core → Core) : (s.modCore c f).slots = s.slots := rfl
@[simp] theorem State.modCore_adm (s : State) (c : Nat) (f : Core → Core) : (s.modCore c f).adm = s.adm := rfl
@[simp] theorem State.modCore_rot (s : State) (c : Nat) (f : Core → Core) : (s.modCore c f).rot = s.rot := rfl
@[simp] theorem State.modCore_frames (s : State) (c : Nat) (f : Core → Core) : (s.modCore c f).frames = s.frames := rfl
@[simp] theorem State.modCore_wstores (s : State) (c : Nat) (f : Core → Core) : (s.modCore c f).wstores = s.wstores := rfl
@[simp] theorem State.modCore_preempts (s : State) (c : Nat) (f : Core → Core) : (s.modCore c f).preempts = s.preempts := rfl
@[simp] theorem State.modCore_moving (s : State) (c : Nat) (f : Core → Core) : (s.modCore c f).moving = s.moving := rfl
@[simp] theorem State.modCore_snaps (s : State) (c : Nat) (f : Core → Core) : (s.modCore c f).snaps = s.snaps := rfl
@[simp] theorem State.modCore_traceq (s : State) (c : Nat) (f : Core → Core) : (s.modCore c f).traceq = s.traceq := rfl
@[simp] theorem State.modCore_traceHeld (s : State) (c : Nat) (f : Core → Core) : (s.modCore c f).traceHeld = s.traceHeld := rfl
@[simp] theorem State.modCore_traceLost (s : State) (c : Nat) (f : Core → Core) : (s.modCore c f).traceLost = s.traceLost := rfl
@[simp] theorem State.modCore_pfaults (s : State) (c : Nat) (f : Core → Core) : (s.modCore c f).pfaults = s.pfaults := rfl
@[simp] theorem State.modCore_walks (s : State) (c : Nat) (f : Core → Core) : (s.modCore c f).walks = s.walks := rfl
@[simp] theorem State.modCore_ctlb (s : State) (c : Nat) (f : Core → Core) : (s.modCore c f).ctlb = s.ctlb := rfl
@[simp] theorem State.modCore_invs (s : State) (c : Nat) (f : Core → Core) : (s.modCore c f).invs = s.invs := rfl
@[simp] theorem State.modCore_objs (s : State) (c : Nat) (f : Core → Core) : (s.modCore c f).objs = s.objs := rfl
@[simp] theorem State.modCore_wslots (s : State) (c : Nat) (f : Core → Core) : (s.modCore c f).wslots = s.wslots := rfl
@[simp] theorem State.modCore_slotBits (s : State) (c : Nat) (f : Core → Core) : (s.modCore c f).slotBits = s.slotBits := rfl
@[simp] theorem State.modCore_winBase (s : State) (c : Nat) (f : Core → Core) : (s.modCore c f).winBase = s.winBase := rfl
@[simp] theorem State.modCore_bias (s : State) (c : Nat) (f : Core → Core) : (s.modCore c f).bias = s.bias := rfl
@[simp] theorem State.modCore_devno (s : State) (c : Nat) (f : Core → Core) : (s.modCore c f).devno = s.devno := rfl
@[simp] theorem State.modCore_routes (s : State) (c : Nat) (f : Core → Core) : (s.modCore c f).routes = s.routes := rfl
@[simp] theorem State.modCore_tenants (s : State) (c : Nat) (f : Core → Core) : (s.modCore c f).tenants = s.tenants := rfl
@[simp] theorem State.modCore_flits (s : State) (c : Nat) (f : Core → Core) : (s.modCore c f).flits = s.flits := rfl
@[simp] theorem State.modCore_credits (s : State) (c : Nat) (f : Core → Core) : (s.modCore c f).credits = s.credits := rfl
@[simp] theorem State.modCore_retries (s : State) (c : Nat) (f : Core → Core) : (s.modCore c f).retries = s.retries := rfl
@[simp] theorem State.modCore_groups (s : State) (c : Nat) (f : Core → Core) : (s.modCore c f).groups = s.groups := rfl
@[simp] theorem State.modCore_msix (s : State) (c : Nat) (f : Core → Core) : (s.modCore c f).msix = s.msix := rfl
@[simp] theorem State.modCore_hostSize (s : State) (c : Nat) (f : Core → Core) : (s.modCore c f).hostSize = s.hostSize := rfl
@[simp] theorem State.modCore_hdmSize (s : State) (c : Nat) (f : Core → Core) : (s.modCore c f).hdmSize = s.hdmSize := rfl
@[simp] theorem State.modCore_fenDown (s : State) (c : Nat) (f : Core → Core) : (s.modCore c f).fenDown = s.fenDown := rfl
@[simp] theorem State.modCore_fenCorrected (s : State) (c : Nat) (f : Core → Core) : (s.modCore c f).fenCorrected = s.fenCorrected := rfl
@[simp] theorem State.modCore_fenBad (s : State) (c : Nat) (f : Core → Core) : (s.modCore c f).fenBad = s.fenBad := rfl
@[simp] theorem State.modCore_fenErr (s : State) (c : Nat) (f : Core → Core) : (s.modCore c f).fenErr = s.fenErr := rfl
@[simp] theorem State.modCore_hostData (s : State) (c : Nat) (f : Core → Core) : (s.modCore c f).hostData = s.hostData := rfl
@[simp] theorem State.modCore_fenRanges (s : State) (c : Nat) (f : Core → Core) : (s.modCore c f).fenRanges = s.fenRanges := rfl
@[simp] theorem State.modCore_boot (s : State) (c : Nat) (f : Core → Core) : (s.modCore c f).boot = s.boot := rfl
@[simp] theorem State.modCore_timeBase (s : State) (c : Nat) (f : Core → Core) : (s.modCore c f).timeBase = s.timeBase := rfl
@[simp] theorem State.modCore_slewBy (s : State) (c : Nat) (f : Core → Core) : (s.modCore c f).slewBy = s.slewBy := rfl
@[simp] theorem State.modCore_slewAt (s : State) (c : Nat) (f : Core → Core) : (s.modCore c f).slewAt = s.slewAt := rfl
@[simp] theorem State.modCore_clk (s : State) (c : Nat) (f : Core → Core) : (s.modCore c f).clk = s.clk := rfl
@[simp] theorem State.modCore_idCtr (s : State) (c : Nat) (f : Core → Core) : (s.modCore c f).idCtr = s.idCtr := rfl
@[simp] theorem State.modCore_uidCtr (s : State) (c : Nat) (f : Core → Core) : (s.modCore c f).uidCtr = s.uidCtr := rfl
@[simp] theorem State.modCore_freeCtr (s : State) (c : Nat) (f : Core → Core) : (s.modCore c f).freeCtr = s.freeCtr := rfl
@[simp] theorem State.modCore_sched (s : State) (c : Nat) (f : Core → Core) : (s.modCore c f).sched = s.sched := rfl
@[simp] theorem State.modCore_cur (s : State) (c : Nat) (f : Core → Core) : (s.modCore c f).cur = s.cur := rfl
@[simp] theorem State.modCore_ev (s : State) (c : Nat) (f : Core → Core) : (s.modCore c f).ev = s.ev := rfl
@[simp] theorem State.modCore_words (s : State) (c : Nat) (f : Core → Core) : (s.modCore c f).words = s.words := rfl
@[simp] theorem State.modCore_popMask (s : State) (c : Nat) (f : Core → Core) : (s.modCore c f).popMask = s.popMask := rfl
@[simp] theorem State.modCore_issuing (s : State) (c : Nat) (f : Core → Core) : (s.modCore c f).issuing = s.issuing := rfl

/-! ### `State.setCtx` -/

@[simp] theorem State.setCtx_mem (s : State) (c : Nat) (x : CtxId) (k : Ctx) : (s.setCtx c x k).mem = s.mem := rfl
@[simp] theorem State.setCtx_late (s : State) (c : Nat) (x : CtxId) (k : Ctx) : (s.setCtx c x k).late = s.late := rfl
@[simp] theorem State.setCtx_rels (s : State) (c : Nat) (x : CtxId) (k : Ctx) : (s.setCtx c x k).rels = s.rels := rfl
@[simp] theorem State.setCtx_poison (s : State) (c : Nat) (x : CtxId) (k : Ctx) : (s.setCtx c x k).poison = s.poison := rfl
@[simp] theorem State.setCtx_vfs (s : State) (c : Nat) (x : CtxId) (k : Ctx) : (s.setCtx c x k).vfs = s.vfs := rfl
@[simp] theorem State.setCtx_launches (s : State) (c : Nat) (x : CtxId) (k : Ctx) : (s.setCtx c x k).launches = s.launches := rfl
@[simp] theorem State.setCtx_insts (s : State) (c : Nat) (x : CtxId) (k : Ctx) : (s.setCtx c x k).insts = s.insts := rfl
@[simp] theorem State.setCtx_closed (s : State) (c : Nat) (x : CtxId) (k : Ctx) : (s.setCtx c x k).closed = s.closed := rfl
@[simp] theorem State.setCtx_slots (s : State) (c : Nat) (x : CtxId) (k : Ctx) : (s.setCtx c x k).slots = s.slots := rfl
@[simp] theorem State.setCtx_adm (s : State) (c : Nat) (x : CtxId) (k : Ctx) : (s.setCtx c x k).adm = s.adm := rfl
@[simp] theorem State.setCtx_rot (s : State) (c : Nat) (x : CtxId) (k : Ctx) : (s.setCtx c x k).rot = s.rot := rfl
@[simp] theorem State.setCtx_frames (s : State) (c : Nat) (x : CtxId) (k : Ctx) : (s.setCtx c x k).frames = s.frames := rfl
@[simp] theorem State.setCtx_wstores (s : State) (c : Nat) (x : CtxId) (k : Ctx) : (s.setCtx c x k).wstores = s.wstores := rfl
@[simp] theorem State.setCtx_preempts (s : State) (c : Nat) (x : CtxId) (k : Ctx) : (s.setCtx c x k).preempts = s.preempts := rfl
@[simp] theorem State.setCtx_moving (s : State) (c : Nat) (x : CtxId) (k : Ctx) : (s.setCtx c x k).moving = s.moving := rfl
@[simp] theorem State.setCtx_snaps (s : State) (c : Nat) (x : CtxId) (k : Ctx) : (s.setCtx c x k).snaps = s.snaps := rfl
@[simp] theorem State.setCtx_traceq (s : State) (c : Nat) (x : CtxId) (k : Ctx) : (s.setCtx c x k).traceq = s.traceq := rfl
@[simp] theorem State.setCtx_traceHeld (s : State) (c : Nat) (x : CtxId) (k : Ctx) : (s.setCtx c x k).traceHeld = s.traceHeld := rfl
@[simp] theorem State.setCtx_traceLost (s : State) (c : Nat) (x : CtxId) (k : Ctx) : (s.setCtx c x k).traceLost = s.traceLost := rfl
@[simp] theorem State.setCtx_pfaults (s : State) (c : Nat) (x : CtxId) (k : Ctx) : (s.setCtx c x k).pfaults = s.pfaults := rfl
@[simp] theorem State.setCtx_walks (s : State) (c : Nat) (x : CtxId) (k : Ctx) : (s.setCtx c x k).walks = s.walks := rfl
@[simp] theorem State.setCtx_ctlb (s : State) (c : Nat) (x : CtxId) (k : Ctx) : (s.setCtx c x k).ctlb = s.ctlb := rfl
@[simp] theorem State.setCtx_invs (s : State) (c : Nat) (x : CtxId) (k : Ctx) : (s.setCtx c x k).invs = s.invs := rfl
@[simp] theorem State.setCtx_objs (s : State) (c : Nat) (x : CtxId) (k : Ctx) : (s.setCtx c x k).objs = s.objs := rfl
@[simp] theorem State.setCtx_wslots (s : State) (c : Nat) (x : CtxId) (k : Ctx) : (s.setCtx c x k).wslots = s.wslots := rfl
@[simp] theorem State.setCtx_slotBits (s : State) (c : Nat) (x : CtxId) (k : Ctx) : (s.setCtx c x k).slotBits = s.slotBits := rfl
@[simp] theorem State.setCtx_winBase (s : State) (c : Nat) (x : CtxId) (k : Ctx) : (s.setCtx c x k).winBase = s.winBase := rfl
@[simp] theorem State.setCtx_bias (s : State) (c : Nat) (x : CtxId) (k : Ctx) : (s.setCtx c x k).bias = s.bias := rfl
@[simp] theorem State.setCtx_devno (s : State) (c : Nat) (x : CtxId) (k : Ctx) : (s.setCtx c x k).devno = s.devno := rfl
@[simp] theorem State.setCtx_routes (s : State) (c : Nat) (x : CtxId) (k : Ctx) : (s.setCtx c x k).routes = s.routes := rfl
@[simp] theorem State.setCtx_tenants (s : State) (c : Nat) (x : CtxId) (k : Ctx) : (s.setCtx c x k).tenants = s.tenants := rfl
@[simp] theorem State.setCtx_flits (s : State) (c : Nat) (x : CtxId) (k : Ctx) : (s.setCtx c x k).flits = s.flits := rfl
@[simp] theorem State.setCtx_credits (s : State) (c : Nat) (x : CtxId) (k : Ctx) : (s.setCtx c x k).credits = s.credits := rfl
@[simp] theorem State.setCtx_retries (s : State) (c : Nat) (x : CtxId) (k : Ctx) : (s.setCtx c x k).retries = s.retries := rfl
@[simp] theorem State.setCtx_groups (s : State) (c : Nat) (x : CtxId) (k : Ctx) : (s.setCtx c x k).groups = s.groups := rfl
@[simp] theorem State.setCtx_msix (s : State) (c : Nat) (x : CtxId) (k : Ctx) : (s.setCtx c x k).msix = s.msix := rfl
@[simp] theorem State.setCtx_hostSize (s : State) (c : Nat) (x : CtxId) (k : Ctx) : (s.setCtx c x k).hostSize = s.hostSize := rfl
@[simp] theorem State.setCtx_hdmSize (s : State) (c : Nat) (x : CtxId) (k : Ctx) : (s.setCtx c x k).hdmSize = s.hdmSize := rfl
@[simp] theorem State.setCtx_fenDown (s : State) (c : Nat) (x : CtxId) (k : Ctx) : (s.setCtx c x k).fenDown = s.fenDown := rfl
@[simp] theorem State.setCtx_fenCorrected (s : State) (c : Nat) (x : CtxId) (k : Ctx) : (s.setCtx c x k).fenCorrected = s.fenCorrected := rfl
@[simp] theorem State.setCtx_fenBad (s : State) (c : Nat) (x : CtxId) (k : Ctx) : (s.setCtx c x k).fenBad = s.fenBad := rfl
@[simp] theorem State.setCtx_fenErr (s : State) (c : Nat) (x : CtxId) (k : Ctx) : (s.setCtx c x k).fenErr = s.fenErr := rfl
@[simp] theorem State.setCtx_hostData (s : State) (c : Nat) (x : CtxId) (k : Ctx) : (s.setCtx c x k).hostData = s.hostData := rfl
@[simp] theorem State.setCtx_fenRanges (s : State) (c : Nat) (x : CtxId) (k : Ctx) : (s.setCtx c x k).fenRanges = s.fenRanges := rfl
@[simp] theorem State.setCtx_boot (s : State) (c : Nat) (x : CtxId) (k : Ctx) : (s.setCtx c x k).boot = s.boot := rfl
@[simp] theorem State.setCtx_timeBase (s : State) (c : Nat) (x : CtxId) (k : Ctx) : (s.setCtx c x k).timeBase = s.timeBase := rfl
@[simp] theorem State.setCtx_slewBy (s : State) (c : Nat) (x : CtxId) (k : Ctx) : (s.setCtx c x k).slewBy = s.slewBy := rfl
@[simp] theorem State.setCtx_slewAt (s : State) (c : Nat) (x : CtxId) (k : Ctx) : (s.setCtx c x k).slewAt = s.slewAt := rfl
@[simp] theorem State.setCtx_clk (s : State) (c : Nat) (x : CtxId) (k : Ctx) : (s.setCtx c x k).clk = s.clk := rfl
@[simp] theorem State.setCtx_idCtr (s : State) (c : Nat) (x : CtxId) (k : Ctx) : (s.setCtx c x k).idCtr = s.idCtr := rfl
@[simp] theorem State.setCtx_uidCtr (s : State) (c : Nat) (x : CtxId) (k : Ctx) : (s.setCtx c x k).uidCtr = s.uidCtr := rfl
@[simp] theorem State.setCtx_freeCtr (s : State) (c : Nat) (x : CtxId) (k : Ctx) : (s.setCtx c x k).freeCtr = s.freeCtr := rfl
@[simp] theorem State.setCtx_sched (s : State) (c : Nat) (x : CtxId) (k : Ctx) : (s.setCtx c x k).sched = s.sched := rfl
@[simp] theorem State.setCtx_cur (s : State) (c : Nat) (x : CtxId) (k : Ctx) : (s.setCtx c x k).cur = s.cur := rfl
@[simp] theorem State.setCtx_ev (s : State) (c : Nat) (x : CtxId) (k : Ctx) : (s.setCtx c x k).ev = s.ev := rfl
@[simp] theorem State.setCtx_words (s : State) (c : Nat) (x : CtxId) (k : Ctx) : (s.setCtx c x k).words = s.words := rfl
@[simp] theorem State.setCtx_popMask (s : State) (c : Nat) (x : CtxId) (k : Ctx) : (s.setCtx c x k).popMask = s.popMask := rfl
@[simp] theorem State.setCtx_issuing (s : State) (c : Nat) (x : CtxId) (k : Ctx) : (s.setCtx c x k).issuing = s.issuing := rfl

/-! ### `State.modCtx` -/

@[simp] theorem State.modCtx_mem (s : State) (c : Nat) (x : CtxId) (f : Ctx → Ctx) : (s.modCtx c x f).mem = s.mem := rfl
@[simp] theorem State.modCtx_late (s : State) (c : Nat) (x : CtxId) (f : Ctx → Ctx) : (s.modCtx c x f).late = s.late := rfl
@[simp] theorem State.modCtx_rels (s : State) (c : Nat) (x : CtxId) (f : Ctx → Ctx) : (s.modCtx c x f).rels = s.rels := rfl
@[simp] theorem State.modCtx_poison (s : State) (c : Nat) (x : CtxId) (f : Ctx → Ctx) : (s.modCtx c x f).poison = s.poison := rfl
@[simp] theorem State.modCtx_vfs (s : State) (c : Nat) (x : CtxId) (f : Ctx → Ctx) : (s.modCtx c x f).vfs = s.vfs := rfl
@[simp] theorem State.modCtx_launches (s : State) (c : Nat) (x : CtxId) (f : Ctx → Ctx) : (s.modCtx c x f).launches = s.launches := rfl
@[simp] theorem State.modCtx_insts (s : State) (c : Nat) (x : CtxId) (f : Ctx → Ctx) : (s.modCtx c x f).insts = s.insts := rfl
@[simp] theorem State.modCtx_closed (s : State) (c : Nat) (x : CtxId) (f : Ctx → Ctx) : (s.modCtx c x f).closed = s.closed := rfl
@[simp] theorem State.modCtx_slots (s : State) (c : Nat) (x : CtxId) (f : Ctx → Ctx) : (s.modCtx c x f).slots = s.slots := rfl
@[simp] theorem State.modCtx_adm (s : State) (c : Nat) (x : CtxId) (f : Ctx → Ctx) : (s.modCtx c x f).adm = s.adm := rfl
@[simp] theorem State.modCtx_rot (s : State) (c : Nat) (x : CtxId) (f : Ctx → Ctx) : (s.modCtx c x f).rot = s.rot := rfl
@[simp] theorem State.modCtx_frames (s : State) (c : Nat) (x : CtxId) (f : Ctx → Ctx) : (s.modCtx c x f).frames = s.frames := rfl
@[simp] theorem State.modCtx_wstores (s : State) (c : Nat) (x : CtxId) (f : Ctx → Ctx) : (s.modCtx c x f).wstores = s.wstores := rfl
@[simp] theorem State.modCtx_preempts (s : State) (c : Nat) (x : CtxId) (f : Ctx → Ctx) : (s.modCtx c x f).preempts = s.preempts := rfl
@[simp] theorem State.modCtx_moving (s : State) (c : Nat) (x : CtxId) (f : Ctx → Ctx) : (s.modCtx c x f).moving = s.moving := rfl
@[simp] theorem State.modCtx_snaps (s : State) (c : Nat) (x : CtxId) (f : Ctx → Ctx) : (s.modCtx c x f).snaps = s.snaps := rfl
@[simp] theorem State.modCtx_traceq (s : State) (c : Nat) (x : CtxId) (f : Ctx → Ctx) : (s.modCtx c x f).traceq = s.traceq := rfl
@[simp] theorem State.modCtx_traceHeld (s : State) (c : Nat) (x : CtxId) (f : Ctx → Ctx) : (s.modCtx c x f).traceHeld = s.traceHeld := rfl
@[simp] theorem State.modCtx_traceLost (s : State) (c : Nat) (x : CtxId) (f : Ctx → Ctx) : (s.modCtx c x f).traceLost = s.traceLost := rfl
@[simp] theorem State.modCtx_pfaults (s : State) (c : Nat) (x : CtxId) (f : Ctx → Ctx) : (s.modCtx c x f).pfaults = s.pfaults := rfl
@[simp] theorem State.modCtx_walks (s : State) (c : Nat) (x : CtxId) (f : Ctx → Ctx) : (s.modCtx c x f).walks = s.walks := rfl
@[simp] theorem State.modCtx_ctlb (s : State) (c : Nat) (x : CtxId) (f : Ctx → Ctx) : (s.modCtx c x f).ctlb = s.ctlb := rfl
@[simp] theorem State.modCtx_invs (s : State) (c : Nat) (x : CtxId) (f : Ctx → Ctx) : (s.modCtx c x f).invs = s.invs := rfl
@[simp] theorem State.modCtx_objs (s : State) (c : Nat) (x : CtxId) (f : Ctx → Ctx) : (s.modCtx c x f).objs = s.objs := rfl
@[simp] theorem State.modCtx_wslots (s : State) (c : Nat) (x : CtxId) (f : Ctx → Ctx) : (s.modCtx c x f).wslots = s.wslots := rfl
@[simp] theorem State.modCtx_slotBits (s : State) (c : Nat) (x : CtxId) (f : Ctx → Ctx) : (s.modCtx c x f).slotBits = s.slotBits := rfl
@[simp] theorem State.modCtx_winBase (s : State) (c : Nat) (x : CtxId) (f : Ctx → Ctx) : (s.modCtx c x f).winBase = s.winBase := rfl
@[simp] theorem State.modCtx_bias (s : State) (c : Nat) (x : CtxId) (f : Ctx → Ctx) : (s.modCtx c x f).bias = s.bias := rfl
@[simp] theorem State.modCtx_devno (s : State) (c : Nat) (x : CtxId) (f : Ctx → Ctx) : (s.modCtx c x f).devno = s.devno := rfl
@[simp] theorem State.modCtx_routes (s : State) (c : Nat) (x : CtxId) (f : Ctx → Ctx) : (s.modCtx c x f).routes = s.routes := rfl
@[simp] theorem State.modCtx_tenants (s : State) (c : Nat) (x : CtxId) (f : Ctx → Ctx) : (s.modCtx c x f).tenants = s.tenants := rfl
@[simp] theorem State.modCtx_flits (s : State) (c : Nat) (x : CtxId) (f : Ctx → Ctx) : (s.modCtx c x f).flits = s.flits := rfl
@[simp] theorem State.modCtx_credits (s : State) (c : Nat) (x : CtxId) (f : Ctx → Ctx) : (s.modCtx c x f).credits = s.credits := rfl
@[simp] theorem State.modCtx_retries (s : State) (c : Nat) (x : CtxId) (f : Ctx → Ctx) : (s.modCtx c x f).retries = s.retries := rfl
@[simp] theorem State.modCtx_groups (s : State) (c : Nat) (x : CtxId) (f : Ctx → Ctx) : (s.modCtx c x f).groups = s.groups := rfl
@[simp] theorem State.modCtx_msix (s : State) (c : Nat) (x : CtxId) (f : Ctx → Ctx) : (s.modCtx c x f).msix = s.msix := rfl
@[simp] theorem State.modCtx_hostSize (s : State) (c : Nat) (x : CtxId) (f : Ctx → Ctx) : (s.modCtx c x f).hostSize = s.hostSize := rfl
@[simp] theorem State.modCtx_hdmSize (s : State) (c : Nat) (x : CtxId) (f : Ctx → Ctx) : (s.modCtx c x f).hdmSize = s.hdmSize := rfl
@[simp] theorem State.modCtx_fenDown (s : State) (c : Nat) (x : CtxId) (f : Ctx → Ctx) : (s.modCtx c x f).fenDown = s.fenDown := rfl
@[simp] theorem State.modCtx_fenCorrected (s : State) (c : Nat) (x : CtxId) (f : Ctx → Ctx) : (s.modCtx c x f).fenCorrected = s.fenCorrected := rfl
@[simp] theorem State.modCtx_fenBad (s : State) (c : Nat) (x : CtxId) (f : Ctx → Ctx) : (s.modCtx c x f).fenBad = s.fenBad := rfl
@[simp] theorem State.modCtx_fenErr (s : State) (c : Nat) (x : CtxId) (f : Ctx → Ctx) : (s.modCtx c x f).fenErr = s.fenErr := rfl
@[simp] theorem State.modCtx_hostData (s : State) (c : Nat) (x : CtxId) (f : Ctx → Ctx) : (s.modCtx c x f).hostData = s.hostData := rfl
@[simp] theorem State.modCtx_fenRanges (s : State) (c : Nat) (x : CtxId) (f : Ctx → Ctx) : (s.modCtx c x f).fenRanges = s.fenRanges := rfl
@[simp] theorem State.modCtx_boot (s : State) (c : Nat) (x : CtxId) (f : Ctx → Ctx) : (s.modCtx c x f).boot = s.boot := rfl
@[simp] theorem State.modCtx_timeBase (s : State) (c : Nat) (x : CtxId) (f : Ctx → Ctx) : (s.modCtx c x f).timeBase = s.timeBase := rfl
@[simp] theorem State.modCtx_slewBy (s : State) (c : Nat) (x : CtxId) (f : Ctx → Ctx) : (s.modCtx c x f).slewBy = s.slewBy := rfl
@[simp] theorem State.modCtx_slewAt (s : State) (c : Nat) (x : CtxId) (f : Ctx → Ctx) : (s.modCtx c x f).slewAt = s.slewAt := rfl
@[simp] theorem State.modCtx_clk (s : State) (c : Nat) (x : CtxId) (f : Ctx → Ctx) : (s.modCtx c x f).clk = s.clk := rfl
@[simp] theorem State.modCtx_idCtr (s : State) (c : Nat) (x : CtxId) (f : Ctx → Ctx) : (s.modCtx c x f).idCtr = s.idCtr := rfl
@[simp] theorem State.modCtx_uidCtr (s : State) (c : Nat) (x : CtxId) (f : Ctx → Ctx) : (s.modCtx c x f).uidCtr = s.uidCtr := rfl
@[simp] theorem State.modCtx_freeCtr (s : State) (c : Nat) (x : CtxId) (f : Ctx → Ctx) : (s.modCtx c x f).freeCtr = s.freeCtr := rfl
@[simp] theorem State.modCtx_sched (s : State) (c : Nat) (x : CtxId) (f : Ctx → Ctx) : (s.modCtx c x f).sched = s.sched := rfl
@[simp] theorem State.modCtx_cur (s : State) (c : Nat) (x : CtxId) (f : Ctx → Ctx) : (s.modCtx c x f).cur = s.cur := rfl
@[simp] theorem State.modCtx_ev (s : State) (c : Nat) (x : CtxId) (f : Ctx → Ctx) : (s.modCtx c x f).ev = s.ev := rfl
@[simp] theorem State.modCtx_words (s : State) (c : Nat) (x : CtxId) (f : Ctx → Ctx) : (s.modCtx c x f).words = s.words := rfl
@[simp] theorem State.modCtx_popMask (s : State) (c : Nat) (x : CtxId) (f : Ctx → Ctx) : (s.modCtx c x f).popMask = s.popMask := rfl
@[simp] theorem State.modCtx_issuing (s : State) (c : Nat) (x : CtxId) (f : Ctx → Ctx) : (s.modCtx c x f).issuing = s.issuing := rfl

/-! ### `State.modMe` -/

@[simp] theorem State.modMe_mem (s : State) (f : Ctx → Ctx) : (s.modMe f).mem = s.mem := rfl
@[simp] theorem State.modMe_late (s : State) (f : Ctx → Ctx) : (s.modMe f).late = s.late := rfl
@[simp] theorem State.modMe_rels (s : State) (f : Ctx → Ctx) : (s.modMe f).rels = s.rels := rfl
@[simp] theorem State.modMe_poison (s : State) (f : Ctx → Ctx) : (s.modMe f).poison = s.poison := rfl
@[simp] theorem State.modMe_vfs (s : State) (f : Ctx → Ctx) : (s.modMe f).vfs = s.vfs := rfl
@[simp] theorem State.modMe_launches (s : State) (f : Ctx → Ctx) : (s.modMe f).launches = s.launches := rfl
@[simp] theorem State.modMe_insts (s : State) (f : Ctx → Ctx) : (s.modMe f).insts = s.insts := rfl
@[simp] theorem State.modMe_closed (s : State) (f : Ctx → Ctx) : (s.modMe f).closed = s.closed := rfl
@[simp] theorem State.modMe_slots (s : State) (f : Ctx → Ctx) : (s.modMe f).slots = s.slots := rfl
@[simp] theorem State.modMe_adm (s : State) (f : Ctx → Ctx) : (s.modMe f).adm = s.adm := rfl
@[simp] theorem State.modMe_rot (s : State) (f : Ctx → Ctx) : (s.modMe f).rot = s.rot := rfl
@[simp] theorem State.modMe_frames (s : State) (f : Ctx → Ctx) : (s.modMe f).frames = s.frames := rfl
@[simp] theorem State.modMe_wstores (s : State) (f : Ctx → Ctx) : (s.modMe f).wstores = s.wstores := rfl
@[simp] theorem State.modMe_preempts (s : State) (f : Ctx → Ctx) : (s.modMe f).preempts = s.preempts := rfl
@[simp] theorem State.modMe_moving (s : State) (f : Ctx → Ctx) : (s.modMe f).moving = s.moving := rfl
@[simp] theorem State.modMe_snaps (s : State) (f : Ctx → Ctx) : (s.modMe f).snaps = s.snaps := rfl
@[simp] theorem State.modMe_traceq (s : State) (f : Ctx → Ctx) : (s.modMe f).traceq = s.traceq := rfl
@[simp] theorem State.modMe_traceHeld (s : State) (f : Ctx → Ctx) : (s.modMe f).traceHeld = s.traceHeld := rfl
@[simp] theorem State.modMe_traceLost (s : State) (f : Ctx → Ctx) : (s.modMe f).traceLost = s.traceLost := rfl
@[simp] theorem State.modMe_pfaults (s : State) (f : Ctx → Ctx) : (s.modMe f).pfaults = s.pfaults := rfl
@[simp] theorem State.modMe_walks (s : State) (f : Ctx → Ctx) : (s.modMe f).walks = s.walks := rfl
@[simp] theorem State.modMe_ctlb (s : State) (f : Ctx → Ctx) : (s.modMe f).ctlb = s.ctlb := rfl
@[simp] theorem State.modMe_invs (s : State) (f : Ctx → Ctx) : (s.modMe f).invs = s.invs := rfl
@[simp] theorem State.modMe_objs (s : State) (f : Ctx → Ctx) : (s.modMe f).objs = s.objs := rfl
@[simp] theorem State.modMe_wslots (s : State) (f : Ctx → Ctx) : (s.modMe f).wslots = s.wslots := rfl
@[simp] theorem State.modMe_slotBits (s : State) (f : Ctx → Ctx) : (s.modMe f).slotBits = s.slotBits := rfl
@[simp] theorem State.modMe_winBase (s : State) (f : Ctx → Ctx) : (s.modMe f).winBase = s.winBase := rfl
@[simp] theorem State.modMe_bias (s : State) (f : Ctx → Ctx) : (s.modMe f).bias = s.bias := rfl
@[simp] theorem State.modMe_devno (s : State) (f : Ctx → Ctx) : (s.modMe f).devno = s.devno := rfl
@[simp] theorem State.modMe_routes (s : State) (f : Ctx → Ctx) : (s.modMe f).routes = s.routes := rfl
@[simp] theorem State.modMe_tenants (s : State) (f : Ctx → Ctx) : (s.modMe f).tenants = s.tenants := rfl
@[simp] theorem State.modMe_flits (s : State) (f : Ctx → Ctx) : (s.modMe f).flits = s.flits := rfl
@[simp] theorem State.modMe_credits (s : State) (f : Ctx → Ctx) : (s.modMe f).credits = s.credits := rfl
@[simp] theorem State.modMe_retries (s : State) (f : Ctx → Ctx) : (s.modMe f).retries = s.retries := rfl
@[simp] theorem State.modMe_groups (s : State) (f : Ctx → Ctx) : (s.modMe f).groups = s.groups := rfl
@[simp] theorem State.modMe_msix (s : State) (f : Ctx → Ctx) : (s.modMe f).msix = s.msix := rfl
@[simp] theorem State.modMe_hostSize (s : State) (f : Ctx → Ctx) : (s.modMe f).hostSize = s.hostSize := rfl
@[simp] theorem State.modMe_hdmSize (s : State) (f : Ctx → Ctx) : (s.modMe f).hdmSize = s.hdmSize := rfl
@[simp] theorem State.modMe_fenDown (s : State) (f : Ctx → Ctx) : (s.modMe f).fenDown = s.fenDown := rfl
@[simp] theorem State.modMe_fenCorrected (s : State) (f : Ctx → Ctx) : (s.modMe f).fenCorrected = s.fenCorrected := rfl
@[simp] theorem State.modMe_fenBad (s : State) (f : Ctx → Ctx) : (s.modMe f).fenBad = s.fenBad := rfl
@[simp] theorem State.modMe_fenErr (s : State) (f : Ctx → Ctx) : (s.modMe f).fenErr = s.fenErr := rfl
@[simp] theorem State.modMe_hostData (s : State) (f : Ctx → Ctx) : (s.modMe f).hostData = s.hostData := rfl
@[simp] theorem State.modMe_fenRanges (s : State) (f : Ctx → Ctx) : (s.modMe f).fenRanges = s.fenRanges := rfl
@[simp] theorem State.modMe_boot (s : State) (f : Ctx → Ctx) : (s.modMe f).boot = s.boot := rfl
@[simp] theorem State.modMe_timeBase (s : State) (f : Ctx → Ctx) : (s.modMe f).timeBase = s.timeBase := rfl
@[simp] theorem State.modMe_slewBy (s : State) (f : Ctx → Ctx) : (s.modMe f).slewBy = s.slewBy := rfl
@[simp] theorem State.modMe_slewAt (s : State) (f : Ctx → Ctx) : (s.modMe f).slewAt = s.slewAt := rfl
@[simp] theorem State.modMe_clk (s : State) (f : Ctx → Ctx) : (s.modMe f).clk = s.clk := rfl
@[simp] theorem State.modMe_idCtr (s : State) (f : Ctx → Ctx) : (s.modMe f).idCtr = s.idCtr := rfl
@[simp] theorem State.modMe_uidCtr (s : State) (f : Ctx → Ctx) : (s.modMe f).uidCtr = s.uidCtr := rfl
@[simp] theorem State.modMe_freeCtr (s : State) (f : Ctx → Ctx) : (s.modMe f).freeCtr = s.freeCtr := rfl
@[simp] theorem State.modMe_sched (s : State) (f : Ctx → Ctx) : (s.modMe f).sched = s.sched := rfl
@[simp] theorem State.modMe_cur (s : State) (f : Ctx → Ctx) : (s.modMe f).cur = s.cur := rfl
@[simp] theorem State.modMe_ev (s : State) (f : Ctx → Ctx) : (s.modMe f).ev = s.ev := rfl
@[simp] theorem State.modMe_words (s : State) (f : Ctx → Ctx) : (s.modMe f).words = s.words := rfl
@[simp] theorem State.modMe_popMask (s : State) (f : Ctx → Ctx) : (s.modMe f).popMask = s.popMask := rfl
@[simp] theorem State.modMe_issuing (s : State) (f : Ctx → Ctx) : (s.modMe f).issuing = s.issuing := rfl

/-! ### `State.modHere` -/

@[simp] theorem State.modHere_mem (s : State) (f : Core → Core) : (s.modHere f).mem = s.mem := rfl
@[simp] theorem State.modHere_late (s : State) (f : Core → Core) : (s.modHere f).late = s.late := rfl
@[simp] theorem State.modHere_rels (s : State) (f : Core → Core) : (s.modHere f).rels = s.rels := rfl
@[simp] theorem State.modHere_poison (s : State) (f : Core → Core) : (s.modHere f).poison = s.poison := rfl
@[simp] theorem State.modHere_vfs (s : State) (f : Core → Core) : (s.modHere f).vfs = s.vfs := rfl
@[simp] theorem State.modHere_launches (s : State) (f : Core → Core) : (s.modHere f).launches = s.launches := rfl
@[simp] theorem State.modHere_insts (s : State) (f : Core → Core) : (s.modHere f).insts = s.insts := rfl
@[simp] theorem State.modHere_closed (s : State) (f : Core → Core) : (s.modHere f).closed = s.closed := rfl
@[simp] theorem State.modHere_slots (s : State) (f : Core → Core) : (s.modHere f).slots = s.slots := rfl
@[simp] theorem State.modHere_adm (s : State) (f : Core → Core) : (s.modHere f).adm = s.adm := rfl
@[simp] theorem State.modHere_rot (s : State) (f : Core → Core) : (s.modHere f).rot = s.rot := rfl
@[simp] theorem State.modHere_frames (s : State) (f : Core → Core) : (s.modHere f).frames = s.frames := rfl
@[simp] theorem State.modHere_wstores (s : State) (f : Core → Core) : (s.modHere f).wstores = s.wstores := rfl
@[simp] theorem State.modHere_preempts (s : State) (f : Core → Core) : (s.modHere f).preempts = s.preempts := rfl
@[simp] theorem State.modHere_moving (s : State) (f : Core → Core) : (s.modHere f).moving = s.moving := rfl
@[simp] theorem State.modHere_snaps (s : State) (f : Core → Core) : (s.modHere f).snaps = s.snaps := rfl
@[simp] theorem State.modHere_traceq (s : State) (f : Core → Core) : (s.modHere f).traceq = s.traceq := rfl
@[simp] theorem State.modHere_traceHeld (s : State) (f : Core → Core) : (s.modHere f).traceHeld = s.traceHeld := rfl
@[simp] theorem State.modHere_traceLost (s : State) (f : Core → Core) : (s.modHere f).traceLost = s.traceLost := rfl
@[simp] theorem State.modHere_pfaults (s : State) (f : Core → Core) : (s.modHere f).pfaults = s.pfaults := rfl
@[simp] theorem State.modHere_walks (s : State) (f : Core → Core) : (s.modHere f).walks = s.walks := rfl
@[simp] theorem State.modHere_ctlb (s : State) (f : Core → Core) : (s.modHere f).ctlb = s.ctlb := rfl
@[simp] theorem State.modHere_invs (s : State) (f : Core → Core) : (s.modHere f).invs = s.invs := rfl
@[simp] theorem State.modHere_objs (s : State) (f : Core → Core) : (s.modHere f).objs = s.objs := rfl
@[simp] theorem State.modHere_wslots (s : State) (f : Core → Core) : (s.modHere f).wslots = s.wslots := rfl
@[simp] theorem State.modHere_slotBits (s : State) (f : Core → Core) : (s.modHere f).slotBits = s.slotBits := rfl
@[simp] theorem State.modHere_winBase (s : State) (f : Core → Core) : (s.modHere f).winBase = s.winBase := rfl
@[simp] theorem State.modHere_bias (s : State) (f : Core → Core) : (s.modHere f).bias = s.bias := rfl
@[simp] theorem State.modHere_devno (s : State) (f : Core → Core) : (s.modHere f).devno = s.devno := rfl
@[simp] theorem State.modHere_routes (s : State) (f : Core → Core) : (s.modHere f).routes = s.routes := rfl
@[simp] theorem State.modHere_tenants (s : State) (f : Core → Core) : (s.modHere f).tenants = s.tenants := rfl
@[simp] theorem State.modHere_flits (s : State) (f : Core → Core) : (s.modHere f).flits = s.flits := rfl
@[simp] theorem State.modHere_credits (s : State) (f : Core → Core) : (s.modHere f).credits = s.credits := rfl
@[simp] theorem State.modHere_retries (s : State) (f : Core → Core) : (s.modHere f).retries = s.retries := rfl
@[simp] theorem State.modHere_groups (s : State) (f : Core → Core) : (s.modHere f).groups = s.groups := rfl
@[simp] theorem State.modHere_msix (s : State) (f : Core → Core) : (s.modHere f).msix = s.msix := rfl
@[simp] theorem State.modHere_hostSize (s : State) (f : Core → Core) : (s.modHere f).hostSize = s.hostSize := rfl
@[simp] theorem State.modHere_hdmSize (s : State) (f : Core → Core) : (s.modHere f).hdmSize = s.hdmSize := rfl
@[simp] theorem State.modHere_fenDown (s : State) (f : Core → Core) : (s.modHere f).fenDown = s.fenDown := rfl
@[simp] theorem State.modHere_fenCorrected (s : State) (f : Core → Core) : (s.modHere f).fenCorrected = s.fenCorrected := rfl
@[simp] theorem State.modHere_fenBad (s : State) (f : Core → Core) : (s.modHere f).fenBad = s.fenBad := rfl
@[simp] theorem State.modHere_fenErr (s : State) (f : Core → Core) : (s.modHere f).fenErr = s.fenErr := rfl
@[simp] theorem State.modHere_hostData (s : State) (f : Core → Core) : (s.modHere f).hostData = s.hostData := rfl
@[simp] theorem State.modHere_fenRanges (s : State) (f : Core → Core) : (s.modHere f).fenRanges = s.fenRanges := rfl
@[simp] theorem State.modHere_boot (s : State) (f : Core → Core) : (s.modHere f).boot = s.boot := rfl
@[simp] theorem State.modHere_timeBase (s : State) (f : Core → Core) : (s.modHere f).timeBase = s.timeBase := rfl
@[simp] theorem State.modHere_slewBy (s : State) (f : Core → Core) : (s.modHere f).slewBy = s.slewBy := rfl
@[simp] theorem State.modHere_slewAt (s : State) (f : Core → Core) : (s.modHere f).slewAt = s.slewAt := rfl
@[simp] theorem State.modHere_clk (s : State) (f : Core → Core) : (s.modHere f).clk = s.clk := rfl
@[simp] theorem State.modHere_idCtr (s : State) (f : Core → Core) : (s.modHere f).idCtr = s.idCtr := rfl
@[simp] theorem State.modHere_uidCtr (s : State) (f : Core → Core) : (s.modHere f).uidCtr = s.uidCtr := rfl
@[simp] theorem State.modHere_freeCtr (s : State) (f : Core → Core) : (s.modHere f).freeCtr = s.freeCtr := rfl
@[simp] theorem State.modHere_sched (s : State) (f : Core → Core) : (s.modHere f).sched = s.sched := rfl
@[simp] theorem State.modHere_cur (s : State) (f : Core → Core) : (s.modHere f).cur = s.cur := rfl
@[simp] theorem State.modHere_ev (s : State) (f : Core → Core) : (s.modHere f).ev = s.ev := rfl
@[simp] theorem State.modHere_words (s : State) (f : Core → Core) : (s.modHere f).words = s.words := rfl
@[simp] theorem State.modHere_popMask (s : State) (f : Core → Core) : (s.modHere f).popMask = s.popMask := rfl
@[simp] theorem State.modHere_issuing (s : State) (f : Core → Core) : (s.modHere f).issuing = s.issuing := rfl

/-! ### `State.land` -/

@[simp] theorem State.land_mem (s : State) (n : Nat) (d : Dest) (z : BitVec 12) : (s.land n d z).mem = s.mem := rfl
@[simp] theorem State.land_late (s : State) (n : Nat) (d : Dest) (z : BitVec 12) : (s.land n d z).late = s.late := rfl
@[simp] theorem State.land_rels (s : State) (n : Nat) (d : Dest) (z : BitVec 12) : (s.land n d z).rels = s.rels := rfl
@[simp] theorem State.land_poison (s : State) (n : Nat) (d : Dest) (z : BitVec 12) : (s.land n d z).poison = s.poison := rfl
@[simp] theorem State.land_vfs (s : State) (n : Nat) (d : Dest) (z : BitVec 12) : (s.land n d z).vfs = s.vfs := rfl
@[simp] theorem State.land_launches (s : State) (n : Nat) (d : Dest) (z : BitVec 12) : (s.land n d z).launches = s.launches := rfl
@[simp] theorem State.land_insts (s : State) (n : Nat) (d : Dest) (z : BitVec 12) : (s.land n d z).insts = s.insts := rfl
@[simp] theorem State.land_closed (s : State) (n : Nat) (d : Dest) (z : BitVec 12) : (s.land n d z).closed = s.closed := rfl
@[simp] theorem State.land_slots (s : State) (n : Nat) (d : Dest) (z : BitVec 12) : (s.land n d z).slots = s.slots := rfl
@[simp] theorem State.land_adm (s : State) (n : Nat) (d : Dest) (z : BitVec 12) : (s.land n d z).adm = s.adm := rfl
@[simp] theorem State.land_rot (s : State) (n : Nat) (d : Dest) (z : BitVec 12) : (s.land n d z).rot = s.rot := rfl
@[simp] theorem State.land_frames (s : State) (n : Nat) (d : Dest) (z : BitVec 12) : (s.land n d z).frames = s.frames := rfl
@[simp] theorem State.land_wstores (s : State) (n : Nat) (d : Dest) (z : BitVec 12) : (s.land n d z).wstores = s.wstores := rfl
@[simp] theorem State.land_preempts (s : State) (n : Nat) (d : Dest) (z : BitVec 12) : (s.land n d z).preempts = s.preempts := rfl
@[simp] theorem State.land_moving (s : State) (n : Nat) (d : Dest) (z : BitVec 12) : (s.land n d z).moving = s.moving := rfl
@[simp] theorem State.land_snaps (s : State) (n : Nat) (d : Dest) (z : BitVec 12) : (s.land n d z).snaps = s.snaps := rfl
@[simp] theorem State.land_traceq (s : State) (n : Nat) (d : Dest) (z : BitVec 12) : (s.land n d z).traceq = s.traceq := rfl
@[simp] theorem State.land_traceHeld (s : State) (n : Nat) (d : Dest) (z : BitVec 12) : (s.land n d z).traceHeld = s.traceHeld := rfl
@[simp] theorem State.land_traceLost (s : State) (n : Nat) (d : Dest) (z : BitVec 12) : (s.land n d z).traceLost = s.traceLost := rfl
@[simp] theorem State.land_pfaults (s : State) (n : Nat) (d : Dest) (z : BitVec 12) : (s.land n d z).pfaults = s.pfaults := rfl
@[simp] theorem State.land_walks (s : State) (n : Nat) (d : Dest) (z : BitVec 12) : (s.land n d z).walks = s.walks := rfl
@[simp] theorem State.land_ctlb (s : State) (n : Nat) (d : Dest) (z : BitVec 12) : (s.land n d z).ctlb = s.ctlb := rfl
@[simp] theorem State.land_invs (s : State) (n : Nat) (d : Dest) (z : BitVec 12) : (s.land n d z).invs = s.invs := rfl
@[simp] theorem State.land_objs (s : State) (n : Nat) (d : Dest) (z : BitVec 12) : (s.land n d z).objs = s.objs := rfl
@[simp] theorem State.land_wslots (s : State) (n : Nat) (d : Dest) (z : BitVec 12) : (s.land n d z).wslots = s.wslots := rfl
@[simp] theorem State.land_slotBits (s : State) (n : Nat) (d : Dest) (z : BitVec 12) : (s.land n d z).slotBits = s.slotBits := rfl
@[simp] theorem State.land_winBase (s : State) (n : Nat) (d : Dest) (z : BitVec 12) : (s.land n d z).winBase = s.winBase := rfl
@[simp] theorem State.land_bias (s : State) (n : Nat) (d : Dest) (z : BitVec 12) : (s.land n d z).bias = s.bias := rfl
@[simp] theorem State.land_devno (s : State) (n : Nat) (d : Dest) (z : BitVec 12) : (s.land n d z).devno = s.devno := rfl
@[simp] theorem State.land_routes (s : State) (n : Nat) (d : Dest) (z : BitVec 12) : (s.land n d z).routes = s.routes := rfl
@[simp] theorem State.land_tenants (s : State) (n : Nat) (d : Dest) (z : BitVec 12) : (s.land n d z).tenants = s.tenants := rfl
@[simp] theorem State.land_flits (s : State) (n : Nat) (d : Dest) (z : BitVec 12) : (s.land n d z).flits = s.flits := rfl
@[simp] theorem State.land_credits (s : State) (n : Nat) (d : Dest) (z : BitVec 12) : (s.land n d z).credits = s.credits := rfl
@[simp] theorem State.land_retries (s : State) (n : Nat) (d : Dest) (z : BitVec 12) : (s.land n d z).retries = s.retries := rfl
@[simp] theorem State.land_groups (s : State) (n : Nat) (d : Dest) (z : BitVec 12) : (s.land n d z).groups = s.groups := rfl
@[simp] theorem State.land_msix (s : State) (n : Nat) (d : Dest) (z : BitVec 12) : (s.land n d z).msix = s.msix := rfl
@[simp] theorem State.land_hostSize (s : State) (n : Nat) (d : Dest) (z : BitVec 12) : (s.land n d z).hostSize = s.hostSize := rfl
@[simp] theorem State.land_hdmSize (s : State) (n : Nat) (d : Dest) (z : BitVec 12) : (s.land n d z).hdmSize = s.hdmSize := rfl
@[simp] theorem State.land_fenDown (s : State) (n : Nat) (d : Dest) (z : BitVec 12) : (s.land n d z).fenDown = s.fenDown := rfl
@[simp] theorem State.land_fenCorrected (s : State) (n : Nat) (d : Dest) (z : BitVec 12) : (s.land n d z).fenCorrected = s.fenCorrected := rfl
@[simp] theorem State.land_fenBad (s : State) (n : Nat) (d : Dest) (z : BitVec 12) : (s.land n d z).fenBad = s.fenBad := rfl
@[simp] theorem State.land_fenErr (s : State) (n : Nat) (d : Dest) (z : BitVec 12) : (s.land n d z).fenErr = s.fenErr := rfl
@[simp] theorem State.land_hostData (s : State) (n : Nat) (d : Dest) (z : BitVec 12) : (s.land n d z).hostData = s.hostData := rfl
@[simp] theorem State.land_fenRanges (s : State) (n : Nat) (d : Dest) (z : BitVec 12) : (s.land n d z).fenRanges = s.fenRanges := rfl
@[simp] theorem State.land_boot (s : State) (n : Nat) (d : Dest) (z : BitVec 12) : (s.land n d z).boot = s.boot := rfl
@[simp] theorem State.land_timeBase (s : State) (n : Nat) (d : Dest) (z : BitVec 12) : (s.land n d z).timeBase = s.timeBase := rfl
@[simp] theorem State.land_slewBy (s : State) (n : Nat) (d : Dest) (z : BitVec 12) : (s.land n d z).slewBy = s.slewBy := rfl
@[simp] theorem State.land_slewAt (s : State) (n : Nat) (d : Dest) (z : BitVec 12) : (s.land n d z).slewAt = s.slewAt := rfl
@[simp] theorem State.land_clk (s : State) (n : Nat) (d : Dest) (z : BitVec 12) : (s.land n d z).clk = s.clk := rfl
@[simp] theorem State.land_idCtr (s : State) (n : Nat) (d : Dest) (z : BitVec 12) : (s.land n d z).idCtr = s.idCtr := rfl
@[simp] theorem State.land_uidCtr (s : State) (n : Nat) (d : Dest) (z : BitVec 12) : (s.land n d z).uidCtr = s.uidCtr := rfl
@[simp] theorem State.land_freeCtr (s : State) (n : Nat) (d : Dest) (z : BitVec 12) : (s.land n d z).freeCtr = s.freeCtr := rfl
@[simp] theorem State.land_sched (s : State) (n : Nat) (d : Dest) (z : BitVec 12) : (s.land n d z).sched = s.sched := rfl
@[simp] theorem State.land_cur (s : State) (n : Nat) (d : Dest) (z : BitVec 12) : (s.land n d z).cur = s.cur := rfl
@[simp] theorem State.land_ev (s : State) (n : Nat) (d : Dest) (z : BitVec 12) : (s.land n d z).ev = s.ev := rfl
@[simp] theorem State.land_words (s : State) (n : Nat) (d : Dest) (z : BitVec 12) : (s.land n d z).words = s.words := rfl
@[simp] theorem State.land_popMask (s : State) (n : Nat) (d : Dest) (z : BitVec 12) : (s.land n d z).popMask = s.popMask := rfl
@[simp] theorem State.land_issuing (s : State) (n : Nat) (d : Dest) (z : BitVec 12) : (s.land n d z).issuing = s.issuing := rfl

/-! ### `State.performed` -/

@[simp] theorem State.performed_mem (s : State) : (s.performed).mem = s.mem := rfl
@[simp] theorem State.performed_late (s : State) : (s.performed).late = s.late := rfl
@[simp] theorem State.performed_rels (s : State) : (s.performed).rels = s.rels := rfl
@[simp] theorem State.performed_poison (s : State) : (s.performed).poison = s.poison := rfl
@[simp] theorem State.performed_vfs (s : State) : (s.performed).vfs = s.vfs := rfl
@[simp] theorem State.performed_launches (s : State) : (s.performed).launches = s.launches := rfl
@[simp] theorem State.performed_insts (s : State) : (s.performed).insts = s.insts := rfl
@[simp] theorem State.performed_closed (s : State) : (s.performed).closed = s.closed := rfl
@[simp] theorem State.performed_slots (s : State) : (s.performed).slots = s.slots := rfl
@[simp] theorem State.performed_adm (s : State) : (s.performed).adm = s.adm := rfl
@[simp] theorem State.performed_rot (s : State) : (s.performed).rot = s.rot := rfl
@[simp] theorem State.performed_frames (s : State) : (s.performed).frames = s.frames := rfl
@[simp] theorem State.performed_wstores (s : State) : (s.performed).wstores = s.wstores := rfl
@[simp] theorem State.performed_preempts (s : State) : (s.performed).preempts = s.preempts := rfl
@[simp] theorem State.performed_moving (s : State) : (s.performed).moving = s.moving := rfl
@[simp] theorem State.performed_snaps (s : State) : (s.performed).snaps = s.snaps := rfl
@[simp] theorem State.performed_traceq (s : State) : (s.performed).traceq = s.traceq := rfl
@[simp] theorem State.performed_traceHeld (s : State) : (s.performed).traceHeld = s.traceHeld := rfl
@[simp] theorem State.performed_traceLost (s : State) : (s.performed).traceLost = s.traceLost := rfl
@[simp] theorem State.performed_pfaults (s : State) : (s.performed).pfaults = s.pfaults := rfl
@[simp] theorem State.performed_walks (s : State) : (s.performed).walks = s.walks := rfl
@[simp] theorem State.performed_ctlb (s : State) : (s.performed).ctlb = s.ctlb := rfl
@[simp] theorem State.performed_invs (s : State) : (s.performed).invs = s.invs := rfl
@[simp] theorem State.performed_objs (s : State) : (s.performed).objs = s.objs := rfl
@[simp] theorem State.performed_wslots (s : State) : (s.performed).wslots = s.wslots := rfl
@[simp] theorem State.performed_slotBits (s : State) : (s.performed).slotBits = s.slotBits := rfl
@[simp] theorem State.performed_winBase (s : State) : (s.performed).winBase = s.winBase := rfl
@[simp] theorem State.performed_bias (s : State) : (s.performed).bias = s.bias := rfl
@[simp] theorem State.performed_devno (s : State) : (s.performed).devno = s.devno := rfl
@[simp] theorem State.performed_routes (s : State) : (s.performed).routes = s.routes := rfl
@[simp] theorem State.performed_tenants (s : State) : (s.performed).tenants = s.tenants := rfl
@[simp] theorem State.performed_flits (s : State) : (s.performed).flits = s.flits := rfl
@[simp] theorem State.performed_credits (s : State) : (s.performed).credits = s.credits := rfl
@[simp] theorem State.performed_retries (s : State) : (s.performed).retries = s.retries := rfl
@[simp] theorem State.performed_groups (s : State) : (s.performed).groups = s.groups := rfl
@[simp] theorem State.performed_msix (s : State) : (s.performed).msix = s.msix := rfl
@[simp] theorem State.performed_hostSize (s : State) : (s.performed).hostSize = s.hostSize := rfl
@[simp] theorem State.performed_hdmSize (s : State) : (s.performed).hdmSize = s.hdmSize := rfl
@[simp] theorem State.performed_fenDown (s : State) : (s.performed).fenDown = s.fenDown := rfl
@[simp] theorem State.performed_fenCorrected (s : State) : (s.performed).fenCorrected = s.fenCorrected := rfl
@[simp] theorem State.performed_fenBad (s : State) : (s.performed).fenBad = s.fenBad := rfl
@[simp] theorem State.performed_fenErr (s : State) : (s.performed).fenErr = s.fenErr := rfl
@[simp] theorem State.performed_hostData (s : State) : (s.performed).hostData = s.hostData := rfl
@[simp] theorem State.performed_fenRanges (s : State) : (s.performed).fenRanges = s.fenRanges := rfl
@[simp] theorem State.performed_boot (s : State) : (s.performed).boot = s.boot := rfl
@[simp] theorem State.performed_timeBase (s : State) : (s.performed).timeBase = s.timeBase := rfl
@[simp] theorem State.performed_slewBy (s : State) : (s.performed).slewBy = s.slewBy := rfl
@[simp] theorem State.performed_slewAt (s : State) : (s.performed).slewAt = s.slewAt := rfl
@[simp] theorem State.performed_clk (s : State) : (s.performed).clk = s.clk := rfl
@[simp] theorem State.performed_idCtr (s : State) : (s.performed).idCtr = s.idCtr := rfl
@[simp] theorem State.performed_uidCtr (s : State) : (s.performed).uidCtr = s.uidCtr := rfl
@[simp] theorem State.performed_freeCtr (s : State) : (s.performed).freeCtr = s.freeCtr := rfl
@[simp] theorem State.performed_sched (s : State) : (s.performed).sched = s.sched := rfl
@[simp] theorem State.performed_cur (s : State) : (s.performed).cur = s.cur := rfl
@[simp] theorem State.performed_ev (s : State) : (s.performed).ev = s.ev := rfl
@[simp] theorem State.performed_words (s : State) : (s.performed).words = s.words := rfl
@[simp] theorem State.performed_popMask (s : State) : (s.performed).popMask = s.popMask := rfl
@[simp] theorem State.performed_issuing (s : State) : (s.performed).issuing = s.issuing := rfl

/-! ### `State.result` -/

@[simp] theorem State.result_mem (s : State) (n : Nat) (v : VReg) : (s.result n v).mem = s.mem := rfl
@[simp] theorem State.result_late (s : State) (n : Nat) (v : VReg) : (s.result n v).late = s.late := rfl
@[simp] theorem State.result_rels (s : State) (n : Nat) (v : VReg) : (s.result n v).rels = s.rels := rfl
@[simp] theorem State.result_poison (s : State) (n : Nat) (v : VReg) : (s.result n v).poison = s.poison := rfl
@[simp] theorem State.result_vfs (s : State) (n : Nat) (v : VReg) : (s.result n v).vfs = s.vfs := rfl
@[simp] theorem State.result_launches (s : State) (n : Nat) (v : VReg) : (s.result n v).launches = s.launches := rfl
@[simp] theorem State.result_insts (s : State) (n : Nat) (v : VReg) : (s.result n v).insts = s.insts := rfl
@[simp] theorem State.result_closed (s : State) (n : Nat) (v : VReg) : (s.result n v).closed = s.closed := rfl
@[simp] theorem State.result_slots (s : State) (n : Nat) (v : VReg) : (s.result n v).slots = s.slots := rfl
@[simp] theorem State.result_adm (s : State) (n : Nat) (v : VReg) : (s.result n v).adm = s.adm := rfl
@[simp] theorem State.result_rot (s : State) (n : Nat) (v : VReg) : (s.result n v).rot = s.rot := rfl
@[simp] theorem State.result_frames (s : State) (n : Nat) (v : VReg) : (s.result n v).frames = s.frames := rfl
@[simp] theorem State.result_wstores (s : State) (n : Nat) (v : VReg) : (s.result n v).wstores = s.wstores := rfl
@[simp] theorem State.result_preempts (s : State) (n : Nat) (v : VReg) : (s.result n v).preempts = s.preempts := rfl
@[simp] theorem State.result_moving (s : State) (n : Nat) (v : VReg) : (s.result n v).moving = s.moving := rfl
@[simp] theorem State.result_snaps (s : State) (n : Nat) (v : VReg) : (s.result n v).snaps = s.snaps := rfl
@[simp] theorem State.result_traceq (s : State) (n : Nat) (v : VReg) : (s.result n v).traceq = s.traceq := rfl
@[simp] theorem State.result_traceHeld (s : State) (n : Nat) (v : VReg) : (s.result n v).traceHeld = s.traceHeld := rfl
@[simp] theorem State.result_traceLost (s : State) (n : Nat) (v : VReg) : (s.result n v).traceLost = s.traceLost := rfl
@[simp] theorem State.result_pfaults (s : State) (n : Nat) (v : VReg) : (s.result n v).pfaults = s.pfaults := rfl
@[simp] theorem State.result_walks (s : State) (n : Nat) (v : VReg) : (s.result n v).walks = s.walks := rfl
@[simp] theorem State.result_ctlb (s : State) (n : Nat) (v : VReg) : (s.result n v).ctlb = s.ctlb := rfl
@[simp] theorem State.result_invs (s : State) (n : Nat) (v : VReg) : (s.result n v).invs = s.invs := rfl
@[simp] theorem State.result_objs (s : State) (n : Nat) (v : VReg) : (s.result n v).objs = s.objs := rfl
@[simp] theorem State.result_wslots (s : State) (n : Nat) (v : VReg) : (s.result n v).wslots = s.wslots := rfl
@[simp] theorem State.result_slotBits (s : State) (n : Nat) (v : VReg) : (s.result n v).slotBits = s.slotBits := rfl
@[simp] theorem State.result_winBase (s : State) (n : Nat) (v : VReg) : (s.result n v).winBase = s.winBase := rfl
@[simp] theorem State.result_bias (s : State) (n : Nat) (v : VReg) : (s.result n v).bias = s.bias := rfl
@[simp] theorem State.result_devno (s : State) (n : Nat) (v : VReg) : (s.result n v).devno = s.devno := rfl
@[simp] theorem State.result_routes (s : State) (n : Nat) (v : VReg) : (s.result n v).routes = s.routes := rfl
@[simp] theorem State.result_tenants (s : State) (n : Nat) (v : VReg) : (s.result n v).tenants = s.tenants := rfl
@[simp] theorem State.result_flits (s : State) (n : Nat) (v : VReg) : (s.result n v).flits = s.flits := rfl
@[simp] theorem State.result_credits (s : State) (n : Nat) (v : VReg) : (s.result n v).credits = s.credits := rfl
@[simp] theorem State.result_retries (s : State) (n : Nat) (v : VReg) : (s.result n v).retries = s.retries := rfl
@[simp] theorem State.result_groups (s : State) (n : Nat) (v : VReg) : (s.result n v).groups = s.groups := rfl
@[simp] theorem State.result_msix (s : State) (n : Nat) (v : VReg) : (s.result n v).msix = s.msix := rfl
@[simp] theorem State.result_hostSize (s : State) (n : Nat) (v : VReg) : (s.result n v).hostSize = s.hostSize := rfl
@[simp] theorem State.result_hdmSize (s : State) (n : Nat) (v : VReg) : (s.result n v).hdmSize = s.hdmSize := rfl
@[simp] theorem State.result_fenDown (s : State) (n : Nat) (v : VReg) : (s.result n v).fenDown = s.fenDown := rfl
@[simp] theorem State.result_fenCorrected (s : State) (n : Nat) (v : VReg) : (s.result n v).fenCorrected = s.fenCorrected := rfl
@[simp] theorem State.result_fenBad (s : State) (n : Nat) (v : VReg) : (s.result n v).fenBad = s.fenBad := rfl
@[simp] theorem State.result_fenErr (s : State) (n : Nat) (v : VReg) : (s.result n v).fenErr = s.fenErr := rfl
@[simp] theorem State.result_hostData (s : State) (n : Nat) (v : VReg) : (s.result n v).hostData = s.hostData := rfl
@[simp] theorem State.result_fenRanges (s : State) (n : Nat) (v : VReg) : (s.result n v).fenRanges = s.fenRanges := rfl
@[simp] theorem State.result_boot (s : State) (n : Nat) (v : VReg) : (s.result n v).boot = s.boot := rfl
@[simp] theorem State.result_timeBase (s : State) (n : Nat) (v : VReg) : (s.result n v).timeBase = s.timeBase := rfl
@[simp] theorem State.result_slewBy (s : State) (n : Nat) (v : VReg) : (s.result n v).slewBy = s.slewBy := rfl
@[simp] theorem State.result_slewAt (s : State) (n : Nat) (v : VReg) : (s.result n v).slewAt = s.slewAt := rfl
@[simp] theorem State.result_clk (s : State) (n : Nat) (v : VReg) : (s.result n v).clk = s.clk := rfl
@[simp] theorem State.result_idCtr (s : State) (n : Nat) (v : VReg) : (s.result n v).idCtr = s.idCtr := rfl
@[simp] theorem State.result_uidCtr (s : State) (n : Nat) (v : VReg) : (s.result n v).uidCtr = s.uidCtr := rfl
@[simp] theorem State.result_freeCtr (s : State) (n : Nat) (v : VReg) : (s.result n v).freeCtr = s.freeCtr := rfl
@[simp] theorem State.result_sched (s : State) (n : Nat) (v : VReg) : (s.result n v).sched = s.sched := rfl
@[simp] theorem State.result_cur (s : State) (n : Nat) (v : VReg) : (s.result n v).cur = s.cur := rfl
@[simp] theorem State.result_ev (s : State) (n : Nat) (v : VReg) : (s.result n v).ev = s.ev := rfl
@[simp] theorem State.result_words (s : State) (n : Nat) (v : VReg) : (s.result n v).words = s.words := rfl
@[simp] theorem State.result_popMask (s : State) (n : Nat) (v : VReg) : (s.result n v).popMask = s.popMask := rfl
@[simp] theorem State.result_issuing (s : State) (n : Nat) (v : VReg) : (s.result n v).issuing = s.issuing := rfl

/-! ### `State.pushCq` -/

@[simp] theorem State.pushCq_mem (s : State) (b : Bool) : (s.pushCq b).mem = s.mem := rfl
@[simp] theorem State.pushCq_late (s : State) (b : Bool) : (s.pushCq b).late = s.late := rfl
@[simp] theorem State.pushCq_rels (s : State) (b : Bool) : (s.pushCq b).rels = s.rels := rfl
@[simp] theorem State.pushCq_poison (s : State) (b : Bool) : (s.pushCq b).poison = s.poison := rfl
@[simp] theorem State.pushCq_vfs (s : State) (b : Bool) : (s.pushCq b).vfs = s.vfs := rfl
@[simp] theorem State.pushCq_launches (s : State) (b : Bool) : (s.pushCq b).launches = s.launches := rfl
@[simp] theorem State.pushCq_insts (s : State) (b : Bool) : (s.pushCq b).insts = s.insts := rfl
@[simp] theorem State.pushCq_closed (s : State) (b : Bool) : (s.pushCq b).closed = s.closed := rfl
@[simp] theorem State.pushCq_slots (s : State) (b : Bool) : (s.pushCq b).slots = s.slots := rfl
@[simp] theorem State.pushCq_adm (s : State) (b : Bool) : (s.pushCq b).adm = s.adm := rfl
@[simp] theorem State.pushCq_rot (s : State) (b : Bool) : (s.pushCq b).rot = s.rot := rfl
@[simp] theorem State.pushCq_frames (s : State) (b : Bool) : (s.pushCq b).frames = s.frames := rfl
@[simp] theorem State.pushCq_wstores (s : State) (b : Bool) : (s.pushCq b).wstores = s.wstores := rfl
@[simp] theorem State.pushCq_preempts (s : State) (b : Bool) : (s.pushCq b).preempts = s.preempts := rfl
@[simp] theorem State.pushCq_moving (s : State) (b : Bool) : (s.pushCq b).moving = s.moving := rfl
@[simp] theorem State.pushCq_snaps (s : State) (b : Bool) : (s.pushCq b).snaps = s.snaps := rfl
@[simp] theorem State.pushCq_traceq (s : State) (b : Bool) : (s.pushCq b).traceq = s.traceq := rfl
@[simp] theorem State.pushCq_traceHeld (s : State) (b : Bool) : (s.pushCq b).traceHeld = s.traceHeld := rfl
@[simp] theorem State.pushCq_traceLost (s : State) (b : Bool) : (s.pushCq b).traceLost = s.traceLost := rfl
@[simp] theorem State.pushCq_pfaults (s : State) (b : Bool) : (s.pushCq b).pfaults = s.pfaults := rfl
@[simp] theorem State.pushCq_walks (s : State) (b : Bool) : (s.pushCq b).walks = s.walks := rfl
@[simp] theorem State.pushCq_ctlb (s : State) (b : Bool) : (s.pushCq b).ctlb = s.ctlb := rfl
@[simp] theorem State.pushCq_invs (s : State) (b : Bool) : (s.pushCq b).invs = s.invs := rfl
@[simp] theorem State.pushCq_objs (s : State) (b : Bool) : (s.pushCq b).objs = s.objs := rfl
@[simp] theorem State.pushCq_wslots (s : State) (b : Bool) : (s.pushCq b).wslots = s.wslots := rfl
@[simp] theorem State.pushCq_slotBits (s : State) (b : Bool) : (s.pushCq b).slotBits = s.slotBits := rfl
@[simp] theorem State.pushCq_winBase (s : State) (b : Bool) : (s.pushCq b).winBase = s.winBase := rfl
@[simp] theorem State.pushCq_bias (s : State) (b : Bool) : (s.pushCq b).bias = s.bias := rfl
@[simp] theorem State.pushCq_devno (s : State) (b : Bool) : (s.pushCq b).devno = s.devno := rfl
@[simp] theorem State.pushCq_routes (s : State) (b : Bool) : (s.pushCq b).routes = s.routes := rfl
@[simp] theorem State.pushCq_tenants (s : State) (b : Bool) : (s.pushCq b).tenants = s.tenants := rfl
@[simp] theorem State.pushCq_flits (s : State) (b : Bool) : (s.pushCq b).flits = s.flits := rfl
@[simp] theorem State.pushCq_credits (s : State) (b : Bool) : (s.pushCq b).credits = s.credits := rfl
@[simp] theorem State.pushCq_retries (s : State) (b : Bool) : (s.pushCq b).retries = s.retries := rfl
@[simp] theorem State.pushCq_groups (s : State) (b : Bool) : (s.pushCq b).groups = s.groups := rfl
@[simp] theorem State.pushCq_msix (s : State) (b : Bool) : (s.pushCq b).msix = s.msix := rfl
@[simp] theorem State.pushCq_hostSize (s : State) (b : Bool) : (s.pushCq b).hostSize = s.hostSize := rfl
@[simp] theorem State.pushCq_hdmSize (s : State) (b : Bool) : (s.pushCq b).hdmSize = s.hdmSize := rfl
@[simp] theorem State.pushCq_fenDown (s : State) (b : Bool) : (s.pushCq b).fenDown = s.fenDown := rfl
@[simp] theorem State.pushCq_fenCorrected (s : State) (b : Bool) : (s.pushCq b).fenCorrected = s.fenCorrected := rfl
@[simp] theorem State.pushCq_fenBad (s : State) (b : Bool) : (s.pushCq b).fenBad = s.fenBad := rfl
@[simp] theorem State.pushCq_fenErr (s : State) (b : Bool) : (s.pushCq b).fenErr = s.fenErr := rfl
@[simp] theorem State.pushCq_hostData (s : State) (b : Bool) : (s.pushCq b).hostData = s.hostData := rfl
@[simp] theorem State.pushCq_fenRanges (s : State) (b : Bool) : (s.pushCq b).fenRanges = s.fenRanges := rfl
@[simp] theorem State.pushCq_boot (s : State) (b : Bool) : (s.pushCq b).boot = s.boot := rfl
@[simp] theorem State.pushCq_timeBase (s : State) (b : Bool) : (s.pushCq b).timeBase = s.timeBase := rfl
@[simp] theorem State.pushCq_slewBy (s : State) (b : Bool) : (s.pushCq b).slewBy = s.slewBy := rfl
@[simp] theorem State.pushCq_slewAt (s : State) (b : Bool) : (s.pushCq b).slewAt = s.slewAt := rfl
@[simp] theorem State.pushCq_clk (s : State) (b : Bool) : (s.pushCq b).clk = s.clk := rfl
@[simp] theorem State.pushCq_idCtr (s : State) (b : Bool) : (s.pushCq b).idCtr = s.idCtr := rfl
@[simp] theorem State.pushCq_uidCtr (s : State) (b : Bool) : (s.pushCq b).uidCtr = s.uidCtr := rfl
@[simp] theorem State.pushCq_freeCtr (s : State) (b : Bool) : (s.pushCq b).freeCtr = s.freeCtr := rfl
@[simp] theorem State.pushCq_sched (s : State) (b : Bool) : (s.pushCq b).sched = s.sched := rfl
@[simp] theorem State.pushCq_cur (s : State) (b : Bool) : (s.pushCq b).cur = s.cur := rfl
@[simp] theorem State.pushCq_ev (s : State) (b : Bool) : (s.pushCq b).ev = s.ev := rfl
@[simp] theorem State.pushCq_words (s : State) (b : Bool) : (s.pushCq b).words = s.words := rfl
@[simp] theorem State.pushCq_popMask (s : State) (b : Bool) : (s.pushCq b).popMask = s.popMask := rfl
@[simp] theorem State.pushCq_issuing (s : State) (b : Bool) : (s.pushCq b).issuing = s.issuing := rfl

/-! ### `State.cause` -/

@[simp] theorem State.cause_mem (s : State) (z : BitVec 12) : (s.cause z).mem = s.mem := rfl
@[simp] theorem State.cause_late (s : State) (z : BitVec 12) : (s.cause z).late = s.late := rfl
@[simp] theorem State.cause_rels (s : State) (z : BitVec 12) : (s.cause z).rels = s.rels := rfl
@[simp] theorem State.cause_poison (s : State) (z : BitVec 12) : (s.cause z).poison = s.poison := rfl
@[simp] theorem State.cause_vfs (s : State) (z : BitVec 12) : (s.cause z).vfs = s.vfs := rfl
@[simp] theorem State.cause_launches (s : State) (z : BitVec 12) : (s.cause z).launches = s.launches := rfl
@[simp] theorem State.cause_insts (s : State) (z : BitVec 12) : (s.cause z).insts = s.insts := rfl
@[simp] theorem State.cause_closed (s : State) (z : BitVec 12) : (s.cause z).closed = s.closed := rfl
@[simp] theorem State.cause_slots (s : State) (z : BitVec 12) : (s.cause z).slots = s.slots := rfl
@[simp] theorem State.cause_adm (s : State) (z : BitVec 12) : (s.cause z).adm = s.adm := rfl
@[simp] theorem State.cause_rot (s : State) (z : BitVec 12) : (s.cause z).rot = s.rot := rfl
@[simp] theorem State.cause_frames (s : State) (z : BitVec 12) : (s.cause z).frames = s.frames := rfl
@[simp] theorem State.cause_wstores (s : State) (z : BitVec 12) : (s.cause z).wstores = s.wstores := rfl
@[simp] theorem State.cause_preempts (s : State) (z : BitVec 12) : (s.cause z).preempts = s.preempts := rfl
@[simp] theorem State.cause_moving (s : State) (z : BitVec 12) : (s.cause z).moving = s.moving := rfl
@[simp] theorem State.cause_snaps (s : State) (z : BitVec 12) : (s.cause z).snaps = s.snaps := rfl
@[simp] theorem State.cause_traceq (s : State) (z : BitVec 12) : (s.cause z).traceq = s.traceq := rfl
@[simp] theorem State.cause_traceHeld (s : State) (z : BitVec 12) : (s.cause z).traceHeld = s.traceHeld := rfl
@[simp] theorem State.cause_traceLost (s : State) (z : BitVec 12) : (s.cause z).traceLost = s.traceLost := rfl
@[simp] theorem State.cause_pfaults (s : State) (z : BitVec 12) : (s.cause z).pfaults = s.pfaults := rfl
@[simp] theorem State.cause_walks (s : State) (z : BitVec 12) : (s.cause z).walks = s.walks := rfl
@[simp] theorem State.cause_ctlb (s : State) (z : BitVec 12) : (s.cause z).ctlb = s.ctlb := rfl
@[simp] theorem State.cause_invs (s : State) (z : BitVec 12) : (s.cause z).invs = s.invs := rfl
@[simp] theorem State.cause_objs (s : State) (z : BitVec 12) : (s.cause z).objs = s.objs := rfl
@[simp] theorem State.cause_wslots (s : State) (z : BitVec 12) : (s.cause z).wslots = s.wslots := rfl
@[simp] theorem State.cause_slotBits (s : State) (z : BitVec 12) : (s.cause z).slotBits = s.slotBits := rfl
@[simp] theorem State.cause_winBase (s : State) (z : BitVec 12) : (s.cause z).winBase = s.winBase := rfl
@[simp] theorem State.cause_bias (s : State) (z : BitVec 12) : (s.cause z).bias = s.bias := rfl
@[simp] theorem State.cause_devno (s : State) (z : BitVec 12) : (s.cause z).devno = s.devno := rfl
@[simp] theorem State.cause_routes (s : State) (z : BitVec 12) : (s.cause z).routes = s.routes := rfl
@[simp] theorem State.cause_tenants (s : State) (z : BitVec 12) : (s.cause z).tenants = s.tenants := rfl
@[simp] theorem State.cause_flits (s : State) (z : BitVec 12) : (s.cause z).flits = s.flits := rfl
@[simp] theorem State.cause_credits (s : State) (z : BitVec 12) : (s.cause z).credits = s.credits := rfl
@[simp] theorem State.cause_retries (s : State) (z : BitVec 12) : (s.cause z).retries = s.retries := rfl
@[simp] theorem State.cause_groups (s : State) (z : BitVec 12) : (s.cause z).groups = s.groups := rfl
@[simp] theorem State.cause_msix (s : State) (z : BitVec 12) : (s.cause z).msix = s.msix := rfl
@[simp] theorem State.cause_hostSize (s : State) (z : BitVec 12) : (s.cause z).hostSize = s.hostSize := rfl
@[simp] theorem State.cause_hdmSize (s : State) (z : BitVec 12) : (s.cause z).hdmSize = s.hdmSize := rfl
@[simp] theorem State.cause_fenDown (s : State) (z : BitVec 12) : (s.cause z).fenDown = s.fenDown := rfl
@[simp] theorem State.cause_fenCorrected (s : State) (z : BitVec 12) : (s.cause z).fenCorrected = s.fenCorrected := rfl
@[simp] theorem State.cause_fenBad (s : State) (z : BitVec 12) : (s.cause z).fenBad = s.fenBad := rfl
@[simp] theorem State.cause_fenErr (s : State) (z : BitVec 12) : (s.cause z).fenErr = s.fenErr := rfl
@[simp] theorem State.cause_hostData (s : State) (z : BitVec 12) : (s.cause z).hostData = s.hostData := rfl
@[simp] theorem State.cause_fenRanges (s : State) (z : BitVec 12) : (s.cause z).fenRanges = s.fenRanges := rfl
@[simp] theorem State.cause_boot (s : State) (z : BitVec 12) : (s.cause z).boot = s.boot := rfl
@[simp] theorem State.cause_timeBase (s : State) (z : BitVec 12) : (s.cause z).timeBase = s.timeBase := rfl
@[simp] theorem State.cause_slewBy (s : State) (z : BitVec 12) : (s.cause z).slewBy = s.slewBy := rfl
@[simp] theorem State.cause_slewAt (s : State) (z : BitVec 12) : (s.cause z).slewAt = s.slewAt := rfl
@[simp] theorem State.cause_clk (s : State) (z : BitVec 12) : (s.cause z).clk = s.clk := rfl
@[simp] theorem State.cause_idCtr (s : State) (z : BitVec 12) : (s.cause z).idCtr = s.idCtr := rfl
@[simp] theorem State.cause_uidCtr (s : State) (z : BitVec 12) : (s.cause z).uidCtr = s.uidCtr := rfl
@[simp] theorem State.cause_freeCtr (s : State) (z : BitVec 12) : (s.cause z).freeCtr = s.freeCtr := rfl
@[simp] theorem State.cause_sched (s : State) (z : BitVec 12) : (s.cause z).sched = s.sched := rfl
@[simp] theorem State.cause_cur (s : State) (z : BitVec 12) : (s.cause z).cur = s.cur := rfl
@[simp] theorem State.cause_ev (s : State) (z : BitVec 12) : (s.cause z).ev = s.ev := rfl
@[simp] theorem State.cause_words (s : State) (z : BitVec 12) : (s.cause z).words = s.words := rfl
@[simp] theorem State.cause_popMask (s : State) (z : BitVec 12) : (s.cause z).popMask = s.popMask := rfl
@[simp] theorem State.cause_issuing (s : State) (z : BitVec 12) : (s.cause z).issuing = s.issuing := rfl

/-! ### `State.waitHead` -/

@[simp] theorem State.waitHead_mem (s : State) (w : Wait) : (s.waitHead w).mem = s.mem := rfl
@[simp] theorem State.waitHead_late (s : State) (w : Wait) : (s.waitHead w).late = s.late := rfl
@[simp] theorem State.waitHead_rels (s : State) (w : Wait) : (s.waitHead w).rels = s.rels := rfl
@[simp] theorem State.waitHead_poison (s : State) (w : Wait) : (s.waitHead w).poison = s.poison := rfl
@[simp] theorem State.waitHead_vfs (s : State) (w : Wait) : (s.waitHead w).vfs = s.vfs := rfl
@[simp] theorem State.waitHead_launches (s : State) (w : Wait) : (s.waitHead w).launches = s.launches := rfl
@[simp] theorem State.waitHead_insts (s : State) (w : Wait) : (s.waitHead w).insts = s.insts := rfl
@[simp] theorem State.waitHead_closed (s : State) (w : Wait) : (s.waitHead w).closed = s.closed := rfl
@[simp] theorem State.waitHead_slots (s : State) (w : Wait) : (s.waitHead w).slots = s.slots := rfl
@[simp] theorem State.waitHead_adm (s : State) (w : Wait) : (s.waitHead w).adm = s.adm := rfl
@[simp] theorem State.waitHead_rot (s : State) (w : Wait) : (s.waitHead w).rot = s.rot := rfl
@[simp] theorem State.waitHead_frames (s : State) (w : Wait) : (s.waitHead w).frames = s.frames := rfl
@[simp] theorem State.waitHead_wstores (s : State) (w : Wait) : (s.waitHead w).wstores = s.wstores := rfl
@[simp] theorem State.waitHead_preempts (s : State) (w : Wait) : (s.waitHead w).preempts = s.preempts := rfl
@[simp] theorem State.waitHead_moving (s : State) (w : Wait) : (s.waitHead w).moving = s.moving := rfl
@[simp] theorem State.waitHead_snaps (s : State) (w : Wait) : (s.waitHead w).snaps = s.snaps := rfl
@[simp] theorem State.waitHead_traceq (s : State) (w : Wait) : (s.waitHead w).traceq = s.traceq := rfl
@[simp] theorem State.waitHead_traceHeld (s : State) (w : Wait) : (s.waitHead w).traceHeld = s.traceHeld := rfl
@[simp] theorem State.waitHead_traceLost (s : State) (w : Wait) : (s.waitHead w).traceLost = s.traceLost := rfl
@[simp] theorem State.waitHead_pfaults (s : State) (w : Wait) : (s.waitHead w).pfaults = s.pfaults := rfl
@[simp] theorem State.waitHead_walks (s : State) (w : Wait) : (s.waitHead w).walks = s.walks := rfl
@[simp] theorem State.waitHead_ctlb (s : State) (w : Wait) : (s.waitHead w).ctlb = s.ctlb := rfl
@[simp] theorem State.waitHead_invs (s : State) (w : Wait) : (s.waitHead w).invs = s.invs := rfl
@[simp] theorem State.waitHead_objs (s : State) (w : Wait) : (s.waitHead w).objs = s.objs := rfl
@[simp] theorem State.waitHead_wslots (s : State) (w : Wait) : (s.waitHead w).wslots = s.wslots := rfl
@[simp] theorem State.waitHead_slotBits (s : State) (w : Wait) : (s.waitHead w).slotBits = s.slotBits := rfl
@[simp] theorem State.waitHead_winBase (s : State) (w : Wait) : (s.waitHead w).winBase = s.winBase := rfl
@[simp] theorem State.waitHead_bias (s : State) (w : Wait) : (s.waitHead w).bias = s.bias := rfl
@[simp] theorem State.waitHead_devno (s : State) (w : Wait) : (s.waitHead w).devno = s.devno := rfl
@[simp] theorem State.waitHead_routes (s : State) (w : Wait) : (s.waitHead w).routes = s.routes := rfl
@[simp] theorem State.waitHead_tenants (s : State) (w : Wait) : (s.waitHead w).tenants = s.tenants := rfl
@[simp] theorem State.waitHead_flits (s : State) (w : Wait) : (s.waitHead w).flits = s.flits := rfl
@[simp] theorem State.waitHead_credits (s : State) (w : Wait) : (s.waitHead w).credits = s.credits := rfl
@[simp] theorem State.waitHead_retries (s : State) (w : Wait) : (s.waitHead w).retries = s.retries := rfl
@[simp] theorem State.waitHead_groups (s : State) (w : Wait) : (s.waitHead w).groups = s.groups := rfl
@[simp] theorem State.waitHead_msix (s : State) (w : Wait) : (s.waitHead w).msix = s.msix := rfl
@[simp] theorem State.waitHead_hostSize (s : State) (w : Wait) : (s.waitHead w).hostSize = s.hostSize := rfl
@[simp] theorem State.waitHead_hdmSize (s : State) (w : Wait) : (s.waitHead w).hdmSize = s.hdmSize := rfl
@[simp] theorem State.waitHead_fenDown (s : State) (w : Wait) : (s.waitHead w).fenDown = s.fenDown := rfl
@[simp] theorem State.waitHead_fenCorrected (s : State) (w : Wait) : (s.waitHead w).fenCorrected = s.fenCorrected := rfl
@[simp] theorem State.waitHead_fenBad (s : State) (w : Wait) : (s.waitHead w).fenBad = s.fenBad := rfl
@[simp] theorem State.waitHead_fenErr (s : State) (w : Wait) : (s.waitHead w).fenErr = s.fenErr := rfl
@[simp] theorem State.waitHead_hostData (s : State) (w : Wait) : (s.waitHead w).hostData = s.hostData := rfl
@[simp] theorem State.waitHead_fenRanges (s : State) (w : Wait) : (s.waitHead w).fenRanges = s.fenRanges := rfl
@[simp] theorem State.waitHead_boot (s : State) (w : Wait) : (s.waitHead w).boot = s.boot := rfl
@[simp] theorem State.waitHead_timeBase (s : State) (w : Wait) : (s.waitHead w).timeBase = s.timeBase := rfl
@[simp] theorem State.waitHead_slewBy (s : State) (w : Wait) : (s.waitHead w).slewBy = s.slewBy := rfl
@[simp] theorem State.waitHead_slewAt (s : State) (w : Wait) : (s.waitHead w).slewAt = s.slewAt := rfl
@[simp] theorem State.waitHead_clk (s : State) (w : Wait) : (s.waitHead w).clk = s.clk := rfl
@[simp] theorem State.waitHead_idCtr (s : State) (w : Wait) : (s.waitHead w).idCtr = s.idCtr := rfl
@[simp] theorem State.waitHead_uidCtr (s : State) (w : Wait) : (s.waitHead w).uidCtr = s.uidCtr := rfl
@[simp] theorem State.waitHead_freeCtr (s : State) (w : Wait) : (s.waitHead w).freeCtr = s.freeCtr := rfl
@[simp] theorem State.waitHead_sched (s : State) (w : Wait) : (s.waitHead w).sched = s.sched := rfl
@[simp] theorem State.waitHead_cur (s : State) (w : Wait) : (s.waitHead w).cur = s.cur := rfl
@[simp] theorem State.waitHead_ev (s : State) (w : Wait) : (s.waitHead w).ev = s.ev := rfl
@[simp] theorem State.waitHead_words (s : State) (w : Wait) : (s.waitHead w).words = s.words := rfl
@[simp] theorem State.waitHead_popMask (s : State) (w : Wait) : (s.waitHead w).popMask = s.popMask := rfl
@[simp] theorem State.waitHead_issuing (s : State) (w : Wait) : (s.waitHead w).issuing = s.issuing := rfl

/-! ### `State.setVf` -/

@[simp] theorem State.setVf_cores (s : State) (n : Nat) (v : Vf) : (s.setVf n v).cores = s.cores := rfl
@[simp] theorem State.setVf_mem (s : State) (n : Nat) (v : Vf) : (s.setVf n v).mem = s.mem := rfl
@[simp] theorem State.setVf_late (s : State) (n : Nat) (v : Vf) : (s.setVf n v).late = s.late := rfl
@[simp] theorem State.setVf_rels (s : State) (n : Nat) (v : Vf) : (s.setVf n v).rels = s.rels := rfl
@[simp] theorem State.setVf_poison (s : State) (n : Nat) (v : Vf) : (s.setVf n v).poison = s.poison := rfl
@[simp] theorem State.setVf_launches (s : State) (n : Nat) (v : Vf) : (s.setVf n v).launches = s.launches := rfl
@[simp] theorem State.setVf_insts (s : State) (n : Nat) (v : Vf) : (s.setVf n v).insts = s.insts := rfl
@[simp] theorem State.setVf_closed (s : State) (n : Nat) (v : Vf) : (s.setVf n v).closed = s.closed := rfl
@[simp] theorem State.setVf_slots (s : State) (n : Nat) (v : Vf) : (s.setVf n v).slots = s.slots := rfl
@[simp] theorem State.setVf_adm (s : State) (n : Nat) (v : Vf) : (s.setVf n v).adm = s.adm := rfl
@[simp] theorem State.setVf_rot (s : State) (n : Nat) (v : Vf) : (s.setVf n v).rot = s.rot := rfl
@[simp] theorem State.setVf_frames (s : State) (n : Nat) (v : Vf) : (s.setVf n v).frames = s.frames := rfl
@[simp] theorem State.setVf_wstores (s : State) (n : Nat) (v : Vf) : (s.setVf n v).wstores = s.wstores := rfl
@[simp] theorem State.setVf_preempts (s : State) (n : Nat) (v : Vf) : (s.setVf n v).preempts = s.preempts := rfl
@[simp] theorem State.setVf_moving (s : State) (n : Nat) (v : Vf) : (s.setVf n v).moving = s.moving := rfl
@[simp] theorem State.setVf_snaps (s : State) (n : Nat) (v : Vf) : (s.setVf n v).snaps = s.snaps := rfl
@[simp] theorem State.setVf_traceq (s : State) (n : Nat) (v : Vf) : (s.setVf n v).traceq = s.traceq := rfl
@[simp] theorem State.setVf_traceHeld (s : State) (n : Nat) (v : Vf) : (s.setVf n v).traceHeld = s.traceHeld := rfl
@[simp] theorem State.setVf_traceLost (s : State) (n : Nat) (v : Vf) : (s.setVf n v).traceLost = s.traceLost := rfl
@[simp] theorem State.setVf_pfaults (s : State) (n : Nat) (v : Vf) : (s.setVf n v).pfaults = s.pfaults := rfl
@[simp] theorem State.setVf_walks (s : State) (n : Nat) (v : Vf) : (s.setVf n v).walks = s.walks := rfl
@[simp] theorem State.setVf_ctlb (s : State) (n : Nat) (v : Vf) : (s.setVf n v).ctlb = s.ctlb := rfl
@[simp] theorem State.setVf_invs (s : State) (n : Nat) (v : Vf) : (s.setVf n v).invs = s.invs := rfl
@[simp] theorem State.setVf_objs (s : State) (n : Nat) (v : Vf) : (s.setVf n v).objs = s.objs := rfl
@[simp] theorem State.setVf_wslots (s : State) (n : Nat) (v : Vf) : (s.setVf n v).wslots = s.wslots := rfl
@[simp] theorem State.setVf_slotBits (s : State) (n : Nat) (v : Vf) : (s.setVf n v).slotBits = s.slotBits := rfl
@[simp] theorem State.setVf_winBase (s : State) (n : Nat) (v : Vf) : (s.setVf n v).winBase = s.winBase := rfl
@[simp] theorem State.setVf_bias (s : State) (n : Nat) (v : Vf) : (s.setVf n v).bias = s.bias := rfl
@[simp] theorem State.setVf_devno (s : State) (n : Nat) (v : Vf) : (s.setVf n v).devno = s.devno := rfl
@[simp] theorem State.setVf_routes (s : State) (n : Nat) (v : Vf) : (s.setVf n v).routes = s.routes := rfl
@[simp] theorem State.setVf_tenants (s : State) (n : Nat) (v : Vf) : (s.setVf n v).tenants = s.tenants := rfl
@[simp] theorem State.setVf_flits (s : State) (n : Nat) (v : Vf) : (s.setVf n v).flits = s.flits := rfl
@[simp] theorem State.setVf_credits (s : State) (n : Nat) (v : Vf) : (s.setVf n v).credits = s.credits := rfl
@[simp] theorem State.setVf_retries (s : State) (n : Nat) (v : Vf) : (s.setVf n v).retries = s.retries := rfl
@[simp] theorem State.setVf_groups (s : State) (n : Nat) (v : Vf) : (s.setVf n v).groups = s.groups := rfl
@[simp] theorem State.setVf_msix (s : State) (n : Nat) (v : Vf) : (s.setVf n v).msix = s.msix := rfl
@[simp] theorem State.setVf_hostSize (s : State) (n : Nat) (v : Vf) : (s.setVf n v).hostSize = s.hostSize := rfl
@[simp] theorem State.setVf_hdmSize (s : State) (n : Nat) (v : Vf) : (s.setVf n v).hdmSize = s.hdmSize := rfl
@[simp] theorem State.setVf_fenDown (s : State) (n : Nat) (v : Vf) : (s.setVf n v).fenDown = s.fenDown := rfl
@[simp] theorem State.setVf_fenCorrected (s : State) (n : Nat) (v : Vf) : (s.setVf n v).fenCorrected = s.fenCorrected := rfl
@[simp] theorem State.setVf_fenBad (s : State) (n : Nat) (v : Vf) : (s.setVf n v).fenBad = s.fenBad := rfl
@[simp] theorem State.setVf_fenErr (s : State) (n : Nat) (v : Vf) : (s.setVf n v).fenErr = s.fenErr := rfl
@[simp] theorem State.setVf_hostData (s : State) (n : Nat) (v : Vf) : (s.setVf n v).hostData = s.hostData := rfl
@[simp] theorem State.setVf_fenRanges (s : State) (n : Nat) (v : Vf) : (s.setVf n v).fenRanges = s.fenRanges := rfl
@[simp] theorem State.setVf_boot (s : State) (n : Nat) (v : Vf) : (s.setVf n v).boot = s.boot := rfl
@[simp] theorem State.setVf_timeBase (s : State) (n : Nat) (v : Vf) : (s.setVf n v).timeBase = s.timeBase := rfl
@[simp] theorem State.setVf_slewBy (s : State) (n : Nat) (v : Vf) : (s.setVf n v).slewBy = s.slewBy := rfl
@[simp] theorem State.setVf_slewAt (s : State) (n : Nat) (v : Vf) : (s.setVf n v).slewAt = s.slewAt := rfl
@[simp] theorem State.setVf_clk (s : State) (n : Nat) (v : Vf) : (s.setVf n v).clk = s.clk := rfl
@[simp] theorem State.setVf_idCtr (s : State) (n : Nat) (v : Vf) : (s.setVf n v).idCtr = s.idCtr := rfl
@[simp] theorem State.setVf_uidCtr (s : State) (n : Nat) (v : Vf) : (s.setVf n v).uidCtr = s.uidCtr := rfl
@[simp] theorem State.setVf_freeCtr (s : State) (n : Nat) (v : Vf) : (s.setVf n v).freeCtr = s.freeCtr := rfl
@[simp] theorem State.setVf_sched (s : State) (n : Nat) (v : Vf) : (s.setVf n v).sched = s.sched := rfl
@[simp] theorem State.setVf_cur (s : State) (n : Nat) (v : Vf) : (s.setVf n v).cur = s.cur := rfl
@[simp] theorem State.setVf_ev (s : State) (n : Nat) (v : Vf) : (s.setVf n v).ev = s.ev := rfl
@[simp] theorem State.setVf_words (s : State) (n : Nat) (v : Vf) : (s.setVf n v).words = s.words := rfl
@[simp] theorem State.setVf_popMask (s : State) (n : Nat) (v : Vf) : (s.setVf n v).popMask = s.popMask := rfl
@[simp] theorem State.setVf_issuing (s : State) (n : Nat) (v : Vf) : (s.setVf n v).issuing = s.issuing := rfl

/-! ### `State.modVf` -/

@[simp] theorem State.modVf_cores (s : State) (n : Nat) (f : Vf → Vf) : (s.modVf n f).cores = s.cores := rfl
@[simp] theorem State.modVf_mem (s : State) (n : Nat) (f : Vf → Vf) : (s.modVf n f).mem = s.mem := rfl
@[simp] theorem State.modVf_late (s : State) (n : Nat) (f : Vf → Vf) : (s.modVf n f).late = s.late := rfl
@[simp] theorem State.modVf_rels (s : State) (n : Nat) (f : Vf → Vf) : (s.modVf n f).rels = s.rels := rfl
@[simp] theorem State.modVf_poison (s : State) (n : Nat) (f : Vf → Vf) : (s.modVf n f).poison = s.poison := rfl
@[simp] theorem State.modVf_launches (s : State) (n : Nat) (f : Vf → Vf) : (s.modVf n f).launches = s.launches := rfl
@[simp] theorem State.modVf_insts (s : State) (n : Nat) (f : Vf → Vf) : (s.modVf n f).insts = s.insts := rfl
@[simp] theorem State.modVf_closed (s : State) (n : Nat) (f : Vf → Vf) : (s.modVf n f).closed = s.closed := rfl
@[simp] theorem State.modVf_slots (s : State) (n : Nat) (f : Vf → Vf) : (s.modVf n f).slots = s.slots := rfl
@[simp] theorem State.modVf_adm (s : State) (n : Nat) (f : Vf → Vf) : (s.modVf n f).adm = s.adm := rfl
@[simp] theorem State.modVf_rot (s : State) (n : Nat) (f : Vf → Vf) : (s.modVf n f).rot = s.rot := rfl
@[simp] theorem State.modVf_frames (s : State) (n : Nat) (f : Vf → Vf) : (s.modVf n f).frames = s.frames := rfl
@[simp] theorem State.modVf_wstores (s : State) (n : Nat) (f : Vf → Vf) : (s.modVf n f).wstores = s.wstores := rfl
@[simp] theorem State.modVf_preempts (s : State) (n : Nat) (f : Vf → Vf) : (s.modVf n f).preempts = s.preempts := rfl
@[simp] theorem State.modVf_moving (s : State) (n : Nat) (f : Vf → Vf) : (s.modVf n f).moving = s.moving := rfl
@[simp] theorem State.modVf_snaps (s : State) (n : Nat) (f : Vf → Vf) : (s.modVf n f).snaps = s.snaps := rfl
@[simp] theorem State.modVf_traceq (s : State) (n : Nat) (f : Vf → Vf) : (s.modVf n f).traceq = s.traceq := rfl
@[simp] theorem State.modVf_traceHeld (s : State) (n : Nat) (f : Vf → Vf) : (s.modVf n f).traceHeld = s.traceHeld := rfl
@[simp] theorem State.modVf_traceLost (s : State) (n : Nat) (f : Vf → Vf) : (s.modVf n f).traceLost = s.traceLost := rfl
@[simp] theorem State.modVf_pfaults (s : State) (n : Nat) (f : Vf → Vf) : (s.modVf n f).pfaults = s.pfaults := rfl
@[simp] theorem State.modVf_walks (s : State) (n : Nat) (f : Vf → Vf) : (s.modVf n f).walks = s.walks := rfl
@[simp] theorem State.modVf_ctlb (s : State) (n : Nat) (f : Vf → Vf) : (s.modVf n f).ctlb = s.ctlb := rfl
@[simp] theorem State.modVf_invs (s : State) (n : Nat) (f : Vf → Vf) : (s.modVf n f).invs = s.invs := rfl
@[simp] theorem State.modVf_objs (s : State) (n : Nat) (f : Vf → Vf) : (s.modVf n f).objs = s.objs := rfl
@[simp] theorem State.modVf_wslots (s : State) (n : Nat) (f : Vf → Vf) : (s.modVf n f).wslots = s.wslots := rfl
@[simp] theorem State.modVf_slotBits (s : State) (n : Nat) (f : Vf → Vf) : (s.modVf n f).slotBits = s.slotBits := rfl
@[simp] theorem State.modVf_winBase (s : State) (n : Nat) (f : Vf → Vf) : (s.modVf n f).winBase = s.winBase := rfl
@[simp] theorem State.modVf_bias (s : State) (n : Nat) (f : Vf → Vf) : (s.modVf n f).bias = s.bias := rfl
@[simp] theorem State.modVf_devno (s : State) (n : Nat) (f : Vf → Vf) : (s.modVf n f).devno = s.devno := rfl
@[simp] theorem State.modVf_routes (s : State) (n : Nat) (f : Vf → Vf) : (s.modVf n f).routes = s.routes := rfl
@[simp] theorem State.modVf_tenants (s : State) (n : Nat) (f : Vf → Vf) : (s.modVf n f).tenants = s.tenants := rfl
@[simp] theorem State.modVf_flits (s : State) (n : Nat) (f : Vf → Vf) : (s.modVf n f).flits = s.flits := rfl
@[simp] theorem State.modVf_credits (s : State) (n : Nat) (f : Vf → Vf) : (s.modVf n f).credits = s.credits := rfl
@[simp] theorem State.modVf_retries (s : State) (n : Nat) (f : Vf → Vf) : (s.modVf n f).retries = s.retries := rfl
@[simp] theorem State.modVf_groups (s : State) (n : Nat) (f : Vf → Vf) : (s.modVf n f).groups = s.groups := rfl
@[simp] theorem State.modVf_msix (s : State) (n : Nat) (f : Vf → Vf) : (s.modVf n f).msix = s.msix := rfl
@[simp] theorem State.modVf_hostSize (s : State) (n : Nat) (f : Vf → Vf) : (s.modVf n f).hostSize = s.hostSize := rfl
@[simp] theorem State.modVf_hdmSize (s : State) (n : Nat) (f : Vf → Vf) : (s.modVf n f).hdmSize = s.hdmSize := rfl
@[simp] theorem State.modVf_fenDown (s : State) (n : Nat) (f : Vf → Vf) : (s.modVf n f).fenDown = s.fenDown := rfl
@[simp] theorem State.modVf_fenCorrected (s : State) (n : Nat) (f : Vf → Vf) : (s.modVf n f).fenCorrected = s.fenCorrected := rfl
@[simp] theorem State.modVf_fenBad (s : State) (n : Nat) (f : Vf → Vf) : (s.modVf n f).fenBad = s.fenBad := rfl
@[simp] theorem State.modVf_fenErr (s : State) (n : Nat) (f : Vf → Vf) : (s.modVf n f).fenErr = s.fenErr := rfl
@[simp] theorem State.modVf_hostData (s : State) (n : Nat) (f : Vf → Vf) : (s.modVf n f).hostData = s.hostData := rfl
@[simp] theorem State.modVf_fenRanges (s : State) (n : Nat) (f : Vf → Vf) : (s.modVf n f).fenRanges = s.fenRanges := rfl
@[simp] theorem State.modVf_boot (s : State) (n : Nat) (f : Vf → Vf) : (s.modVf n f).boot = s.boot := rfl
@[simp] theorem State.modVf_timeBase (s : State) (n : Nat) (f : Vf → Vf) : (s.modVf n f).timeBase = s.timeBase := rfl
@[simp] theorem State.modVf_slewBy (s : State) (n : Nat) (f : Vf → Vf) : (s.modVf n f).slewBy = s.slewBy := rfl
@[simp] theorem State.modVf_slewAt (s : State) (n : Nat) (f : Vf → Vf) : (s.modVf n f).slewAt = s.slewAt := rfl
@[simp] theorem State.modVf_clk (s : State) (n : Nat) (f : Vf → Vf) : (s.modVf n f).clk = s.clk := rfl
@[simp] theorem State.modVf_idCtr (s : State) (n : Nat) (f : Vf → Vf) : (s.modVf n f).idCtr = s.idCtr := rfl
@[simp] theorem State.modVf_uidCtr (s : State) (n : Nat) (f : Vf → Vf) : (s.modVf n f).uidCtr = s.uidCtr := rfl
@[simp] theorem State.modVf_freeCtr (s : State) (n : Nat) (f : Vf → Vf) : (s.modVf n f).freeCtr = s.freeCtr := rfl
@[simp] theorem State.modVf_sched (s : State) (n : Nat) (f : Vf → Vf) : (s.modVf n f).sched = s.sched := rfl
@[simp] theorem State.modVf_cur (s : State) (n : Nat) (f : Vf → Vf) : (s.modVf n f).cur = s.cur := rfl
@[simp] theorem State.modVf_ev (s : State) (n : Nat) (f : Vf → Vf) : (s.modVf n f).ev = s.ev := rfl
@[simp] theorem State.modVf_words (s : State) (n : Nat) (f : Vf → Vf) : (s.modVf n f).words = s.words := rfl
@[simp] theorem State.modVf_popMask (s : State) (n : Nat) (f : Vf → Vf) : (s.modVf n f).popMask = s.popMask := rfl
@[simp] theorem State.modVf_issuing (s : State) (n : Nat) (f : Vf → Vf) : (s.modVf n f).issuing = s.issuing := rfl

/-! ### `State.modLaunch` -/

@[simp] theorem State.modLaunch_cores (s : State) (i : W32) (f : Launch → Launch) : (s.modLaunch i f).cores = s.cores := rfl
@[simp] theorem State.modLaunch_mem (s : State) (i : W32) (f : Launch → Launch) : (s.modLaunch i f).mem = s.mem := rfl
@[simp] theorem State.modLaunch_late (s : State) (i : W32) (f : Launch → Launch) : (s.modLaunch i f).late = s.late := rfl
@[simp] theorem State.modLaunch_rels (s : State) (i : W32) (f : Launch → Launch) : (s.modLaunch i f).rels = s.rels := rfl
@[simp] theorem State.modLaunch_poison (s : State) (i : W32) (f : Launch → Launch) : (s.modLaunch i f).poison = s.poison := rfl
@[simp] theorem State.modLaunch_vfs (s : State) (i : W32) (f : Launch → Launch) : (s.modLaunch i f).vfs = s.vfs := rfl
@[simp] theorem State.modLaunch_insts (s : State) (i : W32) (f : Launch → Launch) : (s.modLaunch i f).insts = s.insts := rfl
@[simp] theorem State.modLaunch_closed (s : State) (i : W32) (f : Launch → Launch) : (s.modLaunch i f).closed = s.closed := rfl
@[simp] theorem State.modLaunch_slots (s : State) (i : W32) (f : Launch → Launch) : (s.modLaunch i f).slots = s.slots := rfl
@[simp] theorem State.modLaunch_adm (s : State) (i : W32) (f : Launch → Launch) : (s.modLaunch i f).adm = s.adm := rfl
@[simp] theorem State.modLaunch_rot (s : State) (i : W32) (f : Launch → Launch) : (s.modLaunch i f).rot = s.rot := rfl
@[simp] theorem State.modLaunch_frames (s : State) (i : W32) (f : Launch → Launch) : (s.modLaunch i f).frames = s.frames := rfl
@[simp] theorem State.modLaunch_wstores (s : State) (i : W32) (f : Launch → Launch) : (s.modLaunch i f).wstores = s.wstores := rfl
@[simp] theorem State.modLaunch_preempts (s : State) (i : W32) (f : Launch → Launch) : (s.modLaunch i f).preempts = s.preempts := rfl
@[simp] theorem State.modLaunch_moving (s : State) (i : W32) (f : Launch → Launch) : (s.modLaunch i f).moving = s.moving := rfl
@[simp] theorem State.modLaunch_snaps (s : State) (i : W32) (f : Launch → Launch) : (s.modLaunch i f).snaps = s.snaps := rfl
@[simp] theorem State.modLaunch_traceq (s : State) (i : W32) (f : Launch → Launch) : (s.modLaunch i f).traceq = s.traceq := rfl
@[simp] theorem State.modLaunch_traceHeld (s : State) (i : W32) (f : Launch → Launch) : (s.modLaunch i f).traceHeld = s.traceHeld := rfl
@[simp] theorem State.modLaunch_traceLost (s : State) (i : W32) (f : Launch → Launch) : (s.modLaunch i f).traceLost = s.traceLost := rfl
@[simp] theorem State.modLaunch_pfaults (s : State) (i : W32) (f : Launch → Launch) : (s.modLaunch i f).pfaults = s.pfaults := rfl
@[simp] theorem State.modLaunch_walks (s : State) (i : W32) (f : Launch → Launch) : (s.modLaunch i f).walks = s.walks := rfl
@[simp] theorem State.modLaunch_ctlb (s : State) (i : W32) (f : Launch → Launch) : (s.modLaunch i f).ctlb = s.ctlb := rfl
@[simp] theorem State.modLaunch_invs (s : State) (i : W32) (f : Launch → Launch) : (s.modLaunch i f).invs = s.invs := rfl
@[simp] theorem State.modLaunch_objs (s : State) (i : W32) (f : Launch → Launch) : (s.modLaunch i f).objs = s.objs := rfl
@[simp] theorem State.modLaunch_wslots (s : State) (i : W32) (f : Launch → Launch) : (s.modLaunch i f).wslots = s.wslots := rfl
@[simp] theorem State.modLaunch_slotBits (s : State) (i : W32) (f : Launch → Launch) : (s.modLaunch i f).slotBits = s.slotBits := rfl
@[simp] theorem State.modLaunch_winBase (s : State) (i : W32) (f : Launch → Launch) : (s.modLaunch i f).winBase = s.winBase := rfl
@[simp] theorem State.modLaunch_bias (s : State) (i : W32) (f : Launch → Launch) : (s.modLaunch i f).bias = s.bias := rfl
@[simp] theorem State.modLaunch_devno (s : State) (i : W32) (f : Launch → Launch) : (s.modLaunch i f).devno = s.devno := rfl
@[simp] theorem State.modLaunch_routes (s : State) (i : W32) (f : Launch → Launch) : (s.modLaunch i f).routes = s.routes := rfl
@[simp] theorem State.modLaunch_tenants (s : State) (i : W32) (f : Launch → Launch) : (s.modLaunch i f).tenants = s.tenants := rfl
@[simp] theorem State.modLaunch_flits (s : State) (i : W32) (f : Launch → Launch) : (s.modLaunch i f).flits = s.flits := rfl
@[simp] theorem State.modLaunch_credits (s : State) (i : W32) (f : Launch → Launch) : (s.modLaunch i f).credits = s.credits := rfl
@[simp] theorem State.modLaunch_retries (s : State) (i : W32) (f : Launch → Launch) : (s.modLaunch i f).retries = s.retries := rfl
@[simp] theorem State.modLaunch_groups (s : State) (i : W32) (f : Launch → Launch) : (s.modLaunch i f).groups = s.groups := rfl
@[simp] theorem State.modLaunch_msix (s : State) (i : W32) (f : Launch → Launch) : (s.modLaunch i f).msix = s.msix := rfl
@[simp] theorem State.modLaunch_hostSize (s : State) (i : W32) (f : Launch → Launch) : (s.modLaunch i f).hostSize = s.hostSize := rfl
@[simp] theorem State.modLaunch_hdmSize (s : State) (i : W32) (f : Launch → Launch) : (s.modLaunch i f).hdmSize = s.hdmSize := rfl
@[simp] theorem State.modLaunch_fenDown (s : State) (i : W32) (f : Launch → Launch) : (s.modLaunch i f).fenDown = s.fenDown := rfl
@[simp] theorem State.modLaunch_fenCorrected (s : State) (i : W32) (f : Launch → Launch) : (s.modLaunch i f).fenCorrected = s.fenCorrected := rfl
@[simp] theorem State.modLaunch_fenBad (s : State) (i : W32) (f : Launch → Launch) : (s.modLaunch i f).fenBad = s.fenBad := rfl
@[simp] theorem State.modLaunch_fenErr (s : State) (i : W32) (f : Launch → Launch) : (s.modLaunch i f).fenErr = s.fenErr := rfl
@[simp] theorem State.modLaunch_hostData (s : State) (i : W32) (f : Launch → Launch) : (s.modLaunch i f).hostData = s.hostData := rfl
@[simp] theorem State.modLaunch_fenRanges (s : State) (i : W32) (f : Launch → Launch) : (s.modLaunch i f).fenRanges = s.fenRanges := rfl
@[simp] theorem State.modLaunch_boot (s : State) (i : W32) (f : Launch → Launch) : (s.modLaunch i f).boot = s.boot := rfl
@[simp] theorem State.modLaunch_timeBase (s : State) (i : W32) (f : Launch → Launch) : (s.modLaunch i f).timeBase = s.timeBase := rfl
@[simp] theorem State.modLaunch_slewBy (s : State) (i : W32) (f : Launch → Launch) : (s.modLaunch i f).slewBy = s.slewBy := rfl
@[simp] theorem State.modLaunch_slewAt (s : State) (i : W32) (f : Launch → Launch) : (s.modLaunch i f).slewAt = s.slewAt := rfl
@[simp] theorem State.modLaunch_clk (s : State) (i : W32) (f : Launch → Launch) : (s.modLaunch i f).clk = s.clk := rfl
@[simp] theorem State.modLaunch_idCtr (s : State) (i : W32) (f : Launch → Launch) : (s.modLaunch i f).idCtr = s.idCtr := rfl
@[simp] theorem State.modLaunch_uidCtr (s : State) (i : W32) (f : Launch → Launch) : (s.modLaunch i f).uidCtr = s.uidCtr := rfl
@[simp] theorem State.modLaunch_freeCtr (s : State) (i : W32) (f : Launch → Launch) : (s.modLaunch i f).freeCtr = s.freeCtr := rfl
@[simp] theorem State.modLaunch_sched (s : State) (i : W32) (f : Launch → Launch) : (s.modLaunch i f).sched = s.sched := rfl
@[simp] theorem State.modLaunch_cur (s : State) (i : W32) (f : Launch → Launch) : (s.modLaunch i f).cur = s.cur := rfl
@[simp] theorem State.modLaunch_ev (s : State) (i : W32) (f : Launch → Launch) : (s.modLaunch i f).ev = s.ev := rfl
@[simp] theorem State.modLaunch_words (s : State) (i : W32) (f : Launch → Launch) : (s.modLaunch i f).words = s.words := rfl
@[simp] theorem State.modLaunch_popMask (s : State) (i : W32) (f : Launch → Launch) : (s.modLaunch i f).popMask = s.popMask := rfl
@[simp] theorem State.modLaunch_issuing (s : State) (i : W32) (f : Launch → Launch) : (s.modLaunch i f).issuing = s.issuing := rfl

/-! ### `State.charge` -/

@[simp] theorem State.charge_cores (s : State) (i : W32) (n : Nat) : (s.charge i n).cores = s.cores := rfl
@[simp] theorem State.charge_mem (s : State) (i : W32) (n : Nat) : (s.charge i n).mem = s.mem := rfl
@[simp] theorem State.charge_late (s : State) (i : W32) (n : Nat) : (s.charge i n).late = s.late := rfl
@[simp] theorem State.charge_rels (s : State) (i : W32) (n : Nat) : (s.charge i n).rels = s.rels := rfl
@[simp] theorem State.charge_poison (s : State) (i : W32) (n : Nat) : (s.charge i n).poison = s.poison := rfl
@[simp] theorem State.charge_vfs (s : State) (i : W32) (n : Nat) : (s.charge i n).vfs = s.vfs := rfl
@[simp] theorem State.charge_insts (s : State) (i : W32) (n : Nat) : (s.charge i n).insts = s.insts := rfl
@[simp] theorem State.charge_closed (s : State) (i : W32) (n : Nat) : (s.charge i n).closed = s.closed := rfl
@[simp] theorem State.charge_slots (s : State) (i : W32) (n : Nat) : (s.charge i n).slots = s.slots := rfl
@[simp] theorem State.charge_adm (s : State) (i : W32) (n : Nat) : (s.charge i n).adm = s.adm := rfl
@[simp] theorem State.charge_rot (s : State) (i : W32) (n : Nat) : (s.charge i n).rot = s.rot := rfl
@[simp] theorem State.charge_frames (s : State) (i : W32) (n : Nat) : (s.charge i n).frames = s.frames := rfl
@[simp] theorem State.charge_wstores (s : State) (i : W32) (n : Nat) : (s.charge i n).wstores = s.wstores := rfl
@[simp] theorem State.charge_preempts (s : State) (i : W32) (n : Nat) : (s.charge i n).preempts = s.preempts := rfl
@[simp] theorem State.charge_moving (s : State) (i : W32) (n : Nat) : (s.charge i n).moving = s.moving := rfl
@[simp] theorem State.charge_snaps (s : State) (i : W32) (n : Nat) : (s.charge i n).snaps = s.snaps := rfl
@[simp] theorem State.charge_traceq (s : State) (i : W32) (n : Nat) : (s.charge i n).traceq = s.traceq := rfl
@[simp] theorem State.charge_traceHeld (s : State) (i : W32) (n : Nat) : (s.charge i n).traceHeld = s.traceHeld := rfl
@[simp] theorem State.charge_traceLost (s : State) (i : W32) (n : Nat) : (s.charge i n).traceLost = s.traceLost := rfl
@[simp] theorem State.charge_pfaults (s : State) (i : W32) (n : Nat) : (s.charge i n).pfaults = s.pfaults := rfl
@[simp] theorem State.charge_walks (s : State) (i : W32) (n : Nat) : (s.charge i n).walks = s.walks := rfl
@[simp] theorem State.charge_ctlb (s : State) (i : W32) (n : Nat) : (s.charge i n).ctlb = s.ctlb := rfl
@[simp] theorem State.charge_invs (s : State) (i : W32) (n : Nat) : (s.charge i n).invs = s.invs := rfl
@[simp] theorem State.charge_objs (s : State) (i : W32) (n : Nat) : (s.charge i n).objs = s.objs := rfl
@[simp] theorem State.charge_wslots (s : State) (i : W32) (n : Nat) : (s.charge i n).wslots = s.wslots := rfl
@[simp] theorem State.charge_slotBits (s : State) (i : W32) (n : Nat) : (s.charge i n).slotBits = s.slotBits := rfl
@[simp] theorem State.charge_winBase (s : State) (i : W32) (n : Nat) : (s.charge i n).winBase = s.winBase := rfl
@[simp] theorem State.charge_bias (s : State) (i : W32) (n : Nat) : (s.charge i n).bias = s.bias := rfl
@[simp] theorem State.charge_devno (s : State) (i : W32) (n : Nat) : (s.charge i n).devno = s.devno := rfl
@[simp] theorem State.charge_routes (s : State) (i : W32) (n : Nat) : (s.charge i n).routes = s.routes := rfl
@[simp] theorem State.charge_tenants (s : State) (i : W32) (n : Nat) : (s.charge i n).tenants = s.tenants := rfl
@[simp] theorem State.charge_flits (s : State) (i : W32) (n : Nat) : (s.charge i n).flits = s.flits := rfl
@[simp] theorem State.charge_credits (s : State) (i : W32) (n : Nat) : (s.charge i n).credits = s.credits := rfl
@[simp] theorem State.charge_retries (s : State) (i : W32) (n : Nat) : (s.charge i n).retries = s.retries := rfl
@[simp] theorem State.charge_groups (s : State) (i : W32) (n : Nat) : (s.charge i n).groups = s.groups := rfl
@[simp] theorem State.charge_msix (s : State) (i : W32) (n : Nat) : (s.charge i n).msix = s.msix := rfl
@[simp] theorem State.charge_hostSize (s : State) (i : W32) (n : Nat) : (s.charge i n).hostSize = s.hostSize := rfl
@[simp] theorem State.charge_hdmSize (s : State) (i : W32) (n : Nat) : (s.charge i n).hdmSize = s.hdmSize := rfl
@[simp] theorem State.charge_fenDown (s : State) (i : W32) (n : Nat) : (s.charge i n).fenDown = s.fenDown := rfl
@[simp] theorem State.charge_fenCorrected (s : State) (i : W32) (n : Nat) : (s.charge i n).fenCorrected = s.fenCorrected := rfl
@[simp] theorem State.charge_fenBad (s : State) (i : W32) (n : Nat) : (s.charge i n).fenBad = s.fenBad := rfl
@[simp] theorem State.charge_fenErr (s : State) (i : W32) (n : Nat) : (s.charge i n).fenErr = s.fenErr := rfl
@[simp] theorem State.charge_hostData (s : State) (i : W32) (n : Nat) : (s.charge i n).hostData = s.hostData := rfl
@[simp] theorem State.charge_fenRanges (s : State) (i : W32) (n : Nat) : (s.charge i n).fenRanges = s.fenRanges := rfl
@[simp] theorem State.charge_boot (s : State) (i : W32) (n : Nat) : (s.charge i n).boot = s.boot := rfl
@[simp] theorem State.charge_timeBase (s : State) (i : W32) (n : Nat) : (s.charge i n).timeBase = s.timeBase := rfl
@[simp] theorem State.charge_slewBy (s : State) (i : W32) (n : Nat) : (s.charge i n).slewBy = s.slewBy := rfl
@[simp] theorem State.charge_slewAt (s : State) (i : W32) (n : Nat) : (s.charge i n).slewAt = s.slewAt := rfl
@[simp] theorem State.charge_clk (s : State) (i : W32) (n : Nat) : (s.charge i n).clk = s.clk := rfl
@[simp] theorem State.charge_idCtr (s : State) (i : W32) (n : Nat) : (s.charge i n).idCtr = s.idCtr := rfl
@[simp] theorem State.charge_uidCtr (s : State) (i : W32) (n : Nat) : (s.charge i n).uidCtr = s.uidCtr := rfl
@[simp] theorem State.charge_freeCtr (s : State) (i : W32) (n : Nat) : (s.charge i n).freeCtr = s.freeCtr := rfl
@[simp] theorem State.charge_sched (s : State) (i : W32) (n : Nat) : (s.charge i n).sched = s.sched := rfl
@[simp] theorem State.charge_cur (s : State) (i : W32) (n : Nat) : (s.charge i n).cur = s.cur := rfl
@[simp] theorem State.charge_ev (s : State) (i : W32) (n : Nat) : (s.charge i n).ev = s.ev := rfl
@[simp] theorem State.charge_words (s : State) (i : W32) (n : Nat) : (s.charge i n).words = s.words := rfl
@[simp] theorem State.charge_popMask (s : State) (i : W32) (n : Nat) : (s.charge i n).popMask = s.popMask := rfl
@[simp] theorem State.charge_issuing (s : State) (i : W32) (n : Nat) : (s.charge i n).issuing = s.issuing := rfl

/-! ### `Core.setCtx` -/

@[simp] theorem Core.setCtx_cur (s : Core) (x : CtxId) (k : Ctx) : (s.setCtx x k).cur = s.cur := rfl
@[simp] theorem Core.setCtx_nxt (s : Core) (x : CtxId) (k : Ctx) : (s.setCtx x k).nxt = s.nxt := rfl
@[simp] theorem Core.setCtx_last (s : Core) (x : CtxId) (k : Ctx) : (s.setCtx x k).last = s.last := rfl
@[simp] theorem Core.setCtx_ltiles (s : Core) (x : CtxId) (k : Ctx) : (s.setCtx x k).ltiles = s.ltiles := rfl
@[simp] theorem Core.setCtx_banks (s : Core) (x : CtxId) (k : Ctx) : (s.setCtx x k).banks = s.banks := rfl
@[simp] theorem Core.setCtx_grant (s : Core) (x : CtxId) (k : Ctx) : (s.setCtx x k).grant = s.grant := rfl
@[simp] theorem Core.setCtx_cls (s : Core) (x : CtxId) (k : Ctx) : (s.setCtx x k).cls = s.cls := rfl
@[simp] theorem Core.setCtx_front (s : Core) (x : CtxId) (k : Ctx) : (s.setCtx x k).front = s.front := rfl
@[simp] theorem Core.setCtx_fq (s : Core) (x : CtxId) (k : Ctx) : (s.setCtx x k).fq = s.fq := rfl
@[simp] theorem Core.setCtx_frun (s : Core) (x : CtxId) (k : Ctx) : (s.setCtx x k).frun = s.frun := rfl
@[simp] theorem Core.setCtx_mq (s : Core) (x : CtxId) (k : Ctx) : (s.setCtx x k).mq = s.mq := rfl
@[simp] theorem Core.setCtx_call (s : Core) (x : CtxId) (k : Ctx) : (s.setCtx x k).call = s.call := rfl
@[simp] theorem Core.setCtx_tails (s : Core) (x : CtxId) (k : Ctx) : (s.setCtx x k).tails = s.tails := rfl
@[simp] theorem Core.setCtx_mrun (s : Core) (x : CtxId) (k : Ctx) : (s.setCtx x k).mrun = s.mrun := rfl
@[simp] theorem Core.setCtx_rts (s : Core) (x : CtxId) (k : Ctx) : (s.setCtx x k).rts = s.rts := rfl
@[simp] theorem Core.setCtx_nb (s : Core) (x : CtxId) (k : Ctx) : (s.setCtx x k).nb = s.nb := rfl
@[simp] theorem Core.setCtx_reten (s : Core) (x : CtxId) (k : Ctx) : (s.setCtx x k).reten = s.reten := rfl
@[simp] theorem Core.setCtx_bankAt (s : Core) (x : CtxId) (k : Ctx) : (s.setCtx x k).bankAt = s.bankAt := rfl
@[simp] theorem Core.setCtx_retenAt (s : Core) (x : CtxId) (k : Ctx) : (s.setCtx x k).retenAt = s.retenAt := rfl
@[simp] theorem Core.setCtx_took (s : Core) (x : CtxId) (k : Ctx) : (s.setCtx x k).took = s.took := rfl
@[simp] theorem Core.setCtx_snapaddr (s : Core) (x : CtxId) (k : Ctx) : (s.setCtx x k).snapaddr = s.snapaddr := rfl
@[simp] theorem Core.setCtx_corrected (s : Core) (x : CtxId) (k : Ctx) : (s.setCtx x k).corrected = s.corrected := rfl
@[simp] theorem Core.setCtx_tlb (s : Core) (x : CtxId) (k : Ctx) : (s.setCtx x k).tlb = s.tlb := rfl
@[simp] theorem Core.setCtx_rotX (s : Core) (x : CtxId) (k : Ctx) : (s.setCtx x k).rotX = s.rotX := rfl
@[simp] theorem Core.setCtx_rotQ (s : Core) (x : CtxId) (k : Ctx) : (s.setCtx x k).rotQ = s.rotQ := rfl
@[simp] theorem Core.setCtx_cyc (s : Core) (x : CtxId) (k : Ctx) : (s.setCtx x k).cyc = s.cyc := rfl
@[simp] theorem Core.setCtx_seqCtr (s : Core) (x : CtxId) (k : Ctx) : (s.setCtx x k).seqCtr = s.seqCtr := rfl

/-! ### `Core.modCtx` -/

@[simp] theorem Core.modCtx_cur (s : Core) (x : CtxId) (f : Ctx → Ctx) : (s.modCtx x f).cur = s.cur := rfl
@[simp] theorem Core.modCtx_nxt (s : Core) (x : CtxId) (f : Ctx → Ctx) : (s.modCtx x f).nxt = s.nxt := rfl
@[simp] theorem Core.modCtx_last (s : Core) (x : CtxId) (f : Ctx → Ctx) : (s.modCtx x f).last = s.last := rfl
@[simp] theorem Core.modCtx_ltiles (s : Core) (x : CtxId) (f : Ctx → Ctx) : (s.modCtx x f).ltiles = s.ltiles := rfl
@[simp] theorem Core.modCtx_banks (s : Core) (x : CtxId) (f : Ctx → Ctx) : (s.modCtx x f).banks = s.banks := rfl
@[simp] theorem Core.modCtx_grant (s : Core) (x : CtxId) (f : Ctx → Ctx) : (s.modCtx x f).grant = s.grant := rfl
@[simp] theorem Core.modCtx_cls (s : Core) (x : CtxId) (f : Ctx → Ctx) : (s.modCtx x f).cls = s.cls := rfl
@[simp] theorem Core.modCtx_front (s : Core) (x : CtxId) (f : Ctx → Ctx) : (s.modCtx x f).front = s.front := rfl
@[simp] theorem Core.modCtx_fq (s : Core) (x : CtxId) (f : Ctx → Ctx) : (s.modCtx x f).fq = s.fq := rfl
@[simp] theorem Core.modCtx_frun (s : Core) (x : CtxId) (f : Ctx → Ctx) : (s.modCtx x f).frun = s.frun := rfl
@[simp] theorem Core.modCtx_mq (s : Core) (x : CtxId) (f : Ctx → Ctx) : (s.modCtx x f).mq = s.mq := rfl
@[simp] theorem Core.modCtx_call (s : Core) (x : CtxId) (f : Ctx → Ctx) : (s.modCtx x f).call = s.call := rfl
@[simp] theorem Core.modCtx_tails (s : Core) (x : CtxId) (f : Ctx → Ctx) : (s.modCtx x f).tails = s.tails := rfl
@[simp] theorem Core.modCtx_mrun (s : Core) (x : CtxId) (f : Ctx → Ctx) : (s.modCtx x f).mrun = s.mrun := rfl
@[simp] theorem Core.modCtx_rts (s : Core) (x : CtxId) (f : Ctx → Ctx) : (s.modCtx x f).rts = s.rts := rfl
@[simp] theorem Core.modCtx_nb (s : Core) (x : CtxId) (f : Ctx → Ctx) : (s.modCtx x f).nb = s.nb := rfl
@[simp] theorem Core.modCtx_reten (s : Core) (x : CtxId) (f : Ctx → Ctx) : (s.modCtx x f).reten = s.reten := rfl
@[simp] theorem Core.modCtx_bankAt (s : Core) (x : CtxId) (f : Ctx → Ctx) : (s.modCtx x f).bankAt = s.bankAt := rfl
@[simp] theorem Core.modCtx_retenAt (s : Core) (x : CtxId) (f : Ctx → Ctx) : (s.modCtx x f).retenAt = s.retenAt := rfl
@[simp] theorem Core.modCtx_took (s : Core) (x : CtxId) (f : Ctx → Ctx) : (s.modCtx x f).took = s.took := rfl
@[simp] theorem Core.modCtx_snapaddr (s : Core) (x : CtxId) (f : Ctx → Ctx) : (s.modCtx x f).snapaddr = s.snapaddr := rfl
@[simp] theorem Core.modCtx_corrected (s : Core) (x : CtxId) (f : Ctx → Ctx) : (s.modCtx x f).corrected = s.corrected := rfl
@[simp] theorem Core.modCtx_tlb (s : Core) (x : CtxId) (f : Ctx → Ctx) : (s.modCtx x f).tlb = s.tlb := rfl
@[simp] theorem Core.modCtx_rotX (s : Core) (x : CtxId) (f : Ctx → Ctx) : (s.modCtx x f).rotX = s.rotX := rfl
@[simp] theorem Core.modCtx_rotQ (s : Core) (x : CtxId) (f : Ctx → Ctx) : (s.modCtx x f).rotQ = s.rotQ := rfl
@[simp] theorem Core.modCtx_cyc (s : Core) (x : CtxId) (f : Ctx → Ctx) : (s.modCtx x f).cyc = s.cyc := rfl
@[simp] theorem Core.modCtx_seqCtr (s : Core) (x : CtxId) (f : Ctx → Ctx) : (s.modCtx x f).seqCtr = s.seqCtr := rfl

/-! ### `Ctx.setS` -/

@[simp] theorem Ctx.setS_st (s : Ctx) (r : BitVec 5) (v : W64) : (s.setS r v).st = s.st := by unfold Ctx.setS; split <;> rfl
@[simp] theorem Ctx.setS_wait (s : Ctx) (r : BitVec 5) (v : W64) : (s.setS r v).wait = s.wait := by unfold Ctx.setS; split <;> rfl
@[simp] theorem Ctx.setS_waitOrg (s : Ctx) (r : BitVec 5) (v : W64) : (s.setS r v).waitOrg = s.waitOrg := by unfold Ctx.setS; split <;> rfl
@[simp] theorem Ctx.setS_sw (s : Ctx) (r : BitVec 5) (v : W64) : (s.setS r v).sw = s.sw := by unfold Ctx.setS; split <;> rfl
@[simp] theorem Ctx.setS_fz (s : Ctx) (r : BitVec 5) (v : W64) : (s.setS r v).fz = s.fz := by unfold Ctx.setS; split <;> rfl
@[simp] theorem Ctx.setS_latched (s : Ctx) (r : BitVec 5) (v : W64) : (s.setS r v).latched = s.latched := by unfold Ctx.setS; split <;> rfl
@[simp] theorem Ctx.setS_launch (s : Ctx) (r : BitVec 5) (v : W64) : (s.setS r v).launch = s.launch := by unfold Ctx.setS; split <;> rfl
@[simp] theorem Ctx.setS_unit (s : Ctx) (r : BitVec 5) (v : W64) : (s.setS r v).unit = s.unit := by unfold Ctx.setS; split <;> rfl
@[simp] theorem Ctx.setS_vf (s : Ctx) (r : BitVec 5) (v : W64) : (s.setS r v).vf = s.vf := by unfold Ctx.setS; split <;> rfl
@[simp] theorem Ctx.setS_priv (s : Ctx) (r : BitVec 5) (v : W64) : (s.setS r v).priv = s.priv := by unfold Ctx.setS; split <;> rfl
@[simp] theorem Ctx.setS_pc (s : Ctx) (r : BitVec 5) (v : W64) : (s.setS r v).pc = s.pc := by unfold Ctx.setS; split <;> rfl
@[simp] theorem Ctx.setS_nextPc (s : Ctx) (r : BitVec 5) (v : W64) : (s.setS r v).nextPc = s.nextPc := by unfold Ctx.setS; split <;> rfl
@[simp] theorem Ctx.setS_v (s : Ctx) (r : BitVec 5) (v : W64) : (s.setS r v).v = s.v := by unfold Ctx.setS; split <;> rfl
@[simp] theorem Ctx.setS_k (s : Ctx) (r : BitVec 5) (v : W64) : (s.setS r v).k = s.k := by unfold Ctx.setS; split <;> rfl
@[simp] theorem Ctx.setS_sh (s : Ctx) (r : BitVec 5) (v : W64) : (s.setS r v).sh = s.sh := by unfold Ctx.setS; split <;> rfl
@[simp] theorem Ctx.setS_rlen (s : Ctx) (r : BitVec 5) (v : W64) : (s.setS r v).rlen = s.rlen := by unfold Ctx.setS; split <;> rfl
@[simp] theorem Ctx.setS_tg (s : Ctx) (r : BitVec 5) (v : W64) : (s.setS r v).tg = s.tg := by unfold Ctx.setS; split <;> rfl
@[simp] theorem Ctx.setS_ag (s : Ctx) (r : BitVec 5) (v : W64) : (s.setS r v).ag = s.ag := by unfold Ctx.setS; split <;> rfl
@[simp] theorem Ctx.setS_loops (s : Ctx) (r : BitVec 5) (v : W64) : (s.setS r v).loops = s.loops := by unfold Ctx.setS; split <;> rfl
@[simp] theorem Ctx.setS_cq (s : Ctx) (r : BitVec 5) (v : W64) : (s.setS r v).cq = s.cq := by unfold Ctx.setS; split <;> rfl
@[simp] theorem Ctx.setS_event (s : Ctx) (r : BitVec 5) (v : W64) : (s.setS r v).event = s.event := by unfold Ctx.setS; split <;> rfl
@[simp] theorem Ctx.setS_segs (s : Ctx) (r : BitVec 5) (v : W64) : (s.setS r v).segs = s.segs := by unfold Ctx.setS; split <;> rfl
@[simp] theorem Ctx.setS_half0 (s : Ctx) (r : BitVec 5) (v : W64) : (s.setS r v).half0 = s.half0 := by unfold Ctx.setS; split <;> rfl
@[simp] theorem Ctx.setS_half1 (s : Ctx) (r : BitVec 5) (v : W64) : (s.setS r v).half1 = s.half1 := by unfold Ctx.setS; split <;> rfl
@[simp] theorem Ctx.setS_idle (s : Ctx) (r : BitVec 5) (v : W64) : (s.setS r v).idle = s.idle := by unfold Ctx.setS; split <;> rfl
@[simp] theorem Ctx.setS_lands (s : Ctx) (r : BitVec 5) (v : W64) : (s.setS r v).lands = s.lands := by unfold Ctx.setS; split <;> rfl
@[simp] theorem Ctx.setS_vbmm (s : Ctx) (r : BitVec 5) (v : W64) : (s.setS r v).vbmm = s.vbmm := by unfold Ctx.setS; split <;> rfl
@[simp] theorem Ctx.setS_pend (s : Ctx) (r : BitVec 5) (v : W64) : (s.setS r v).pend = s.pend := by unfold Ctx.setS; split <;> rfl
@[simp] theorem Ctx.setS_mt (s : Ctx) (r : BitVec 5) (v : W64) : (s.setS r v).mt = s.mt := by unfold Ctx.setS; split <;> rfl
@[simp] theorem Ctx.setS_mc (s : Ctx) (r : BitVec 5) (v : W64) : (s.setS r v).mc = s.mc := by unfold Ctx.setS; split <;> rfl
@[simp] theorem Ctx.setS_mg (s : Ctx) (r : BitVec 5) (v : W64) : (s.setS r v).mg = s.mg := by unfold Ctx.setS; split <;> rfl
@[simp] theorem Ctx.setS_drn (s : Ctx) (r : BitVec 5) (v : W64) : (s.setS r v).drn = s.drn := by unfold Ctx.setS; split <;> rfl
@[simp] theorem Ctx.setS_bundles (s : Ctx) (r : BitVec 5) (v : W64) : (s.setS r v).bundles = s.bundles := by unfold Ctx.setS; split <;> rfl
@[simp] theorem Ctx.setS_sqA (s : Ctx) (r : BitVec 5) (v : W64) : (s.setS r v).sqA = s.sqA := by unfold Ctx.setS; split <;> rfl
@[simp] theorem Ctx.setS_sqB (s : Ctx) (r : BitVec 5) (v : W64) : (s.setS r v).sqB = s.sqB := by unfold Ctx.setS; split <;> rfl
@[simp] theorem Ctx.setS_ft (s : Ctx) (r : BitVec 5) (v : W64) : (s.setS r v).ft = s.ft := by unfold Ctx.setS; split <;> rfl
@[simp] theorem Ctx.setS_ftlevel (s : Ctx) (r : BitVec 5) (v : W64) : (s.setS r v).ftlevel = s.ftlevel := by unfold Ctx.setS; split <;> rfl
@[simp] theorem Ctx.setS_mp (s : Ctx) (r : BitVec 5) (v : W64) : (s.setS r v).mp = s.mp := by unfold Ctx.setS; split <;> rfl
@[simp] theorem Ctx.setS_sticky (s : Ctx) (r : BitVec 5) (v : W64) : (s.setS r v).sticky = s.sticky := by unfold Ctx.setS; split <;> rfl
@[simp] theorem Ctx.setS_trapcause (s : Ctx) (r : BitVec 5) (v : W64) : (s.setS r v).trapcause = s.trapcause := by unfold Ctx.setS; split <;> rfl
@[simp] theorem Ctx.setS_trapba (s : Ctx) (r : BitVec 5) (v : W64) : (s.setS r v).trapba = s.trapba := by unfold Ctx.setS; split <;> rfl
@[simp] theorem Ctx.setS_trapsc (s : Ctx) (r : BitVec 5) (v : W64) : (s.setS r v).trapsc = s.trapsc := by unfold Ctx.setS; split <;> rfl
@[simp] theorem Ctx.setS_trapvec (s : Ctx) (r : BitVec 5) (v : W64) : (s.setS r v).trapvec = s.trapvec := by unfold Ctx.setS; split <;> rfl
@[simp] theorem Ctx.setS_tif (s : Ctx) (r : BitVec 5) (v : W64) : (s.setS r v).tif = s.tif := by unfold Ctx.setS; split <;> rfl
@[simp] theorem Ctx.setS_shadow (s : Ctx) (r : BitVec 5) (v : W64) : (s.setS r v).shadow = s.shadow := by unfold Ctx.setS; split <;> rfl
@[simp] theorem Ctx.setS_faultList (s : Ctx) (r : BitVec 5) (v : W64) : (s.setS r v).faultList = s.faultList := by unfold Ctx.setS; split <;> rfl
@[simp] theorem Ctx.setS_scycle (s : Ctx) (r : BitVec 5) (v : W64) : (s.setS r v).scycle = s.scycle := by unfold Ctx.setS; split <;> rfl
@[simp] theorem Ctx.setS_quota (s : Ctx) (r : BitVec 5) (v : W64) : (s.setS r v).quota = s.quota := by unfold Ctx.setS; split <;> rfl
@[simp] theorem Ctx.setS_h (s : Ctx) (r : BitVec 5) (v : W64) : (s.setS r v).h = s.h := by unfold Ctx.setS; split <;> rfl
@[simp] theorem Ctx.setS_q (s : Ctx) (r : BitVec 5) (v : W64) : (s.setS r v).q = s.q := by unfold Ctx.setS; split <;> rfl
@[simp] theorem Ctx.setS_binds (s : Ctx) (r : BitVec 5) (v : W64) : (s.setS r v).binds = s.binds := by unfold Ctx.setS; split <;> rfl
@[simp] theorem Ctx.setS_obs (s : Ctx) (r : BitVec 5) (v : W64) : (s.setS r v).obs = s.obs := by unfold Ctx.setS; split <;> rfl
@[simp] theorem Ctx.setS_arv (s : Ctx) (r : BitVec 5) (v : W64) : (s.setS r v).arv = s.arv := by unfold Ctx.setS; split <;> rfl
@[simp] theorem Ctx.setS_tiles (s : Ctx) (r : BitVec 5) (v : W64) : (s.setS r v).tiles = s.tiles := by unfold Ctx.setS; split <;> rfl
@[simp] theorem Ctx.setS_eq (s : Ctx) (r : BitVec 5) (v : W64) : (s.setS r v).eq = s.eq := by unfold Ctx.setS; split <;> rfl
@[simp] theorem Ctx.setS_ccq (s : Ctx) (r : BitVec 5) (v : W64) : (s.setS r v).ccq = s.ccq := by unfold Ctx.setS; split <;> rfl
@[simp] theorem Ctx.setS_stores (s : Ctx) (r : BitVec 5) (v : W64) : (s.setS r v).stores = s.stores := by unfold Ctx.setS; split <;> rfl
@[simp] theorem Ctx.setS_cnt (s : Ctx) (r : BitVec 5) (v : W64) : (s.setS r v).cnt = s.cnt := by unfold Ctx.setS; split <;> rfl
@[simp] theorem Ctx.setS_allocWait (s : Ctx) (r : BitVec 5) (v : W64) : (s.setS r v).allocWait = s.allocWait := by unfold Ctx.setS; split <;> rfl
@[simp] theorem Ctx.setS_latchAlloc (s : Ctx) (r : BitVec 5) (v : W64) : (s.setS r v).latchAlloc = s.latchAlloc := by unfold Ctx.setS; split <;> rfl
@[simp] theorem Ctx.setS_prog (s : Ctx) (r : BitVec 5) (v : W64) : (s.setS r v).prog = s.prog := by unfold Ctx.setS; split <;> rfl
@[simp] theorem Ctx.setS_wd (s : Ctx) (r : BitVec 5) (v : W64) : (s.setS r v).wd = s.wd := by unfold Ctx.setS; split <;> rfl
@[simp] theorem Ctx.setS_readyWait (s : Ctx) (r : BitVec 5) (v : W64) : (s.setS r v).readyWait = s.readyWait := by unfold Ctx.setS; split <;> rfl
@[simp] theorem Ctx.setS_pendEv (s : Ctx) (r : BitVec 5) (v : W64) : (s.setS r v).pendEv = s.pendEv := by unfold Ctx.setS; split <;> rfl
@[simp] theorem Ctx.setS_dbg (s : Ctx) (r : BitVec 5) (v : W64) : (s.setS r v).dbg = s.dbg := by unfold Ctx.setS; split <;> rfl
@[simp] theorem Ctx.setS_rep (s : Ctx) (r : BitVec 5) (v : W64) : (s.setS r v).rep = s.rep := by unfold Ctx.setS; split <;> rfl
@[simp] theorem Ctx.setS_ans (s : Ctx) (r : BitVec 5) (v : W64) : (s.setS r v).ans = s.ans := by unfold Ctx.setS; split <;> rfl
@[simp] theorem Ctx.setS_saved (s : Ctx) (r : BitVec 5) (v : W64) : (s.setS r v).saved = s.saved := by unfold Ctx.setS; split <;> rfl
@[simp] theorem Ctx.setS_savedCall (s : Ctx) (r : BitVec 5) (v : W64) : (s.setS r v).savedCall = s.savedCall := by unfold Ctx.setS; split <;> rfl
@[simp] theorem Ctx.setS_savedF (s : Ctx) (r : BitVec 5) (v : W64) : (s.setS r v).savedF = s.savedF := by unfold Ctx.setS; split <;> rfl
@[simp] theorem Ctx.setS_tokCtr (s : Ctx) (r : BitVec 5) (v : W64) : (s.setS r v).tokCtr = s.tokCtr := by unfold Ctx.setS; split <;> rfl

/-! ### `Ctx.setV` -/

@[simp] theorem Ctx.setV_st (s : Ctx) (r : BitVec 5) (v : VReg) : (s.setV r v).st = s.st := rfl
@[simp] theorem Ctx.setV_wait (s : Ctx) (r : BitVec 5) (v : VReg) : (s.setV r v).wait = s.wait := rfl
@[simp] theorem Ctx.setV_waitOrg (s : Ctx) (r : BitVec 5) (v : VReg) : (s.setV r v).waitOrg = s.waitOrg := rfl
@[simp] theorem Ctx.setV_sw (s : Ctx) (r : BitVec 5) (v : VReg) : (s.setV r v).sw = s.sw := rfl
@[simp] theorem Ctx.setV_fz (s : Ctx) (r : BitVec 5) (v : VReg) : (s.setV r v).fz = s.fz := rfl
@[simp] theorem Ctx.setV_latched (s : Ctx) (r : BitVec 5) (v : VReg) : (s.setV r v).latched = s.latched := rfl
@[simp] theorem Ctx.setV_launch (s : Ctx) (r : BitVec 5) (v : VReg) : (s.setV r v).launch = s.launch := rfl
@[simp] theorem Ctx.setV_unit (s : Ctx) (r : BitVec 5) (v : VReg) : (s.setV r v).unit = s.unit := rfl
@[simp] theorem Ctx.setV_vf (s : Ctx) (r : BitVec 5) (v : VReg) : (s.setV r v).vf = s.vf := rfl
@[simp] theorem Ctx.setV_priv (s : Ctx) (r : BitVec 5) (v : VReg) : (s.setV r v).priv = s.priv := rfl
@[simp] theorem Ctx.setV_pc (s : Ctx) (r : BitVec 5) (v : VReg) : (s.setV r v).pc = s.pc := rfl
@[simp] theorem Ctx.setV_nextPc (s : Ctx) (r : BitVec 5) (v : VReg) : (s.setV r v).nextPc = s.nextPc := rfl
@[simp] theorem Ctx.setV_s (s : Ctx) (r : BitVec 5) (v : VReg) : (s.setV r v).s = s.s := rfl
@[simp] theorem Ctx.setV_k (s : Ctx) (r : BitVec 5) (v : VReg) : (s.setV r v).k = s.k := rfl
@[simp] theorem Ctx.setV_sh (s : Ctx) (r : BitVec 5) (v : VReg) : (s.setV r v).sh = s.sh := rfl
@[simp] theorem Ctx.setV_rlen (s : Ctx) (r : BitVec 5) (v : VReg) : (s.setV r v).rlen = s.rlen := rfl
@[simp] theorem Ctx.setV_tg (s : Ctx) (r : BitVec 5) (v : VReg) : (s.setV r v).tg = s.tg := rfl
@[simp] theorem Ctx.setV_ag (s : Ctx) (r : BitVec 5) (v : VReg) : (s.setV r v).ag = s.ag := rfl
@[simp] theorem Ctx.setV_loops (s : Ctx) (r : BitVec 5) (v : VReg) : (s.setV r v).loops = s.loops := rfl
@[simp] theorem Ctx.setV_cq (s : Ctx) (r : BitVec 5) (v : VReg) : (s.setV r v).cq = s.cq := rfl
@[simp] theorem Ctx.setV_event (s : Ctx) (r : BitVec 5) (v : VReg) : (s.setV r v).event = s.event := rfl
@[simp] theorem Ctx.setV_segs (s : Ctx) (r : BitVec 5) (v : VReg) : (s.setV r v).segs = s.segs := rfl
@[simp] theorem Ctx.setV_half0 (s : Ctx) (r : BitVec 5) (v : VReg) : (s.setV r v).half0 = s.half0 := rfl
@[simp] theorem Ctx.setV_half1 (s : Ctx) (r : BitVec 5) (v : VReg) : (s.setV r v).half1 = s.half1 := rfl
@[simp] theorem Ctx.setV_idle (s : Ctx) (r : BitVec 5) (v : VReg) : (s.setV r v).idle = s.idle := rfl
@[simp] theorem Ctx.setV_lands (s : Ctx) (r : BitVec 5) (v : VReg) : (s.setV r v).lands = s.lands := rfl
@[simp] theorem Ctx.setV_vbmm (s : Ctx) (r : BitVec 5) (v : VReg) : (s.setV r v).vbmm = s.vbmm := rfl
@[simp] theorem Ctx.setV_pend (s : Ctx) (r : BitVec 5) (v : VReg) : (s.setV r v).pend = s.pend := rfl
@[simp] theorem Ctx.setV_mt (s : Ctx) (r : BitVec 5) (v : VReg) : (s.setV r v).mt = s.mt := rfl
@[simp] theorem Ctx.setV_mc (s : Ctx) (r : BitVec 5) (v : VReg) : (s.setV r v).mc = s.mc := rfl
@[simp] theorem Ctx.setV_mg (s : Ctx) (r : BitVec 5) (v : VReg) : (s.setV r v).mg = s.mg := rfl
@[simp] theorem Ctx.setV_drn (s : Ctx) (r : BitVec 5) (v : VReg) : (s.setV r v).drn = s.drn := rfl
@[simp] theorem Ctx.setV_bundles (s : Ctx) (r : BitVec 5) (v : VReg) : (s.setV r v).bundles = s.bundles := rfl
@[simp] theorem Ctx.setV_sqA (s : Ctx) (r : BitVec 5) (v : VReg) : (s.setV r v).sqA = s.sqA := rfl
@[simp] theorem Ctx.setV_sqB (s : Ctx) (r : BitVec 5) (v : VReg) : (s.setV r v).sqB = s.sqB := rfl
@[simp] theorem Ctx.setV_ft (s : Ctx) (r : BitVec 5) (v : VReg) : (s.setV r v).ft = s.ft := rfl
@[simp] theorem Ctx.setV_ftlevel (s : Ctx) (r : BitVec 5) (v : VReg) : (s.setV r v).ftlevel = s.ftlevel := rfl
@[simp] theorem Ctx.setV_mp (s : Ctx) (r : BitVec 5) (v : VReg) : (s.setV r v).mp = s.mp := rfl
@[simp] theorem Ctx.setV_sticky (s : Ctx) (r : BitVec 5) (v : VReg) : (s.setV r v).sticky = s.sticky := rfl
@[simp] theorem Ctx.setV_trapcause (s : Ctx) (r : BitVec 5) (v : VReg) : (s.setV r v).trapcause = s.trapcause := rfl
@[simp] theorem Ctx.setV_trapba (s : Ctx) (r : BitVec 5) (v : VReg) : (s.setV r v).trapba = s.trapba := rfl
@[simp] theorem Ctx.setV_trapsc (s : Ctx) (r : BitVec 5) (v : VReg) : (s.setV r v).trapsc = s.trapsc := rfl
@[simp] theorem Ctx.setV_trapvec (s : Ctx) (r : BitVec 5) (v : VReg) : (s.setV r v).trapvec = s.trapvec := rfl
@[simp] theorem Ctx.setV_tif (s : Ctx) (r : BitVec 5) (v : VReg) : (s.setV r v).tif = s.tif := rfl
@[simp] theorem Ctx.setV_shadow (s : Ctx) (r : BitVec 5) (v : VReg) : (s.setV r v).shadow = s.shadow := rfl
@[simp] theorem Ctx.setV_faultList (s : Ctx) (r : BitVec 5) (v : VReg) : (s.setV r v).faultList = s.faultList := rfl
@[simp] theorem Ctx.setV_scycle (s : Ctx) (r : BitVec 5) (v : VReg) : (s.setV r v).scycle = s.scycle := rfl
@[simp] theorem Ctx.setV_quota (s : Ctx) (r : BitVec 5) (v : VReg) : (s.setV r v).quota = s.quota := rfl
@[simp] theorem Ctx.setV_h (s : Ctx) (r : BitVec 5) (v : VReg) : (s.setV r v).h = s.h := rfl
@[simp] theorem Ctx.setV_q (s : Ctx) (r : BitVec 5) (v : VReg) : (s.setV r v).q = s.q := rfl
@[simp] theorem Ctx.setV_binds (s : Ctx) (r : BitVec 5) (v : VReg) : (s.setV r v).binds = s.binds := rfl
@[simp] theorem Ctx.setV_obs (s : Ctx) (r : BitVec 5) (v : VReg) : (s.setV r v).obs = s.obs := rfl
@[simp] theorem Ctx.setV_arv (s : Ctx) (r : BitVec 5) (v : VReg) : (s.setV r v).arv = s.arv := rfl
@[simp] theorem Ctx.setV_tiles (s : Ctx) (r : BitVec 5) (v : VReg) : (s.setV r v).tiles = s.tiles := rfl
@[simp] theorem Ctx.setV_eq (s : Ctx) (r : BitVec 5) (v : VReg) : (s.setV r v).eq = s.eq := rfl
@[simp] theorem Ctx.setV_ccq (s : Ctx) (r : BitVec 5) (v : VReg) : (s.setV r v).ccq = s.ccq := rfl
@[simp] theorem Ctx.setV_stores (s : Ctx) (r : BitVec 5) (v : VReg) : (s.setV r v).stores = s.stores := rfl
@[simp] theorem Ctx.setV_cnt (s : Ctx) (r : BitVec 5) (v : VReg) : (s.setV r v).cnt = s.cnt := rfl
@[simp] theorem Ctx.setV_allocWait (s : Ctx) (r : BitVec 5) (v : VReg) : (s.setV r v).allocWait = s.allocWait := rfl
@[simp] theorem Ctx.setV_latchAlloc (s : Ctx) (r : BitVec 5) (v : VReg) : (s.setV r v).latchAlloc = s.latchAlloc := rfl
@[simp] theorem Ctx.setV_prog (s : Ctx) (r : BitVec 5) (v : VReg) : (s.setV r v).prog = s.prog := rfl
@[simp] theorem Ctx.setV_wd (s : Ctx) (r : BitVec 5) (v : VReg) : (s.setV r v).wd = s.wd := rfl
@[simp] theorem Ctx.setV_readyWait (s : Ctx) (r : BitVec 5) (v : VReg) : (s.setV r v).readyWait = s.readyWait := rfl
@[simp] theorem Ctx.setV_pendEv (s : Ctx) (r : BitVec 5) (v : VReg) : (s.setV r v).pendEv = s.pendEv := rfl
@[simp] theorem Ctx.setV_dbg (s : Ctx) (r : BitVec 5) (v : VReg) : (s.setV r v).dbg = s.dbg := rfl
@[simp] theorem Ctx.setV_rep (s : Ctx) (r : BitVec 5) (v : VReg) : (s.setV r v).rep = s.rep := rfl
@[simp] theorem Ctx.setV_ans (s : Ctx) (r : BitVec 5) (v : VReg) : (s.setV r v).ans = s.ans := rfl
@[simp] theorem Ctx.setV_saved (s : Ctx) (r : BitVec 5) (v : VReg) : (s.setV r v).saved = s.saved := rfl
@[simp] theorem Ctx.setV_savedCall (s : Ctx) (r : BitVec 5) (v : VReg) : (s.setV r v).savedCall = s.savedCall := rfl
@[simp] theorem Ctx.setV_savedF (s : Ctx) (r : BitVec 5) (v : VReg) : (s.setV r v).savedF = s.savedF := rfl
@[simp] theorem Ctx.setV_tokCtr (s : Ctx) (r : BitVec 5) (v : VReg) : (s.setV r v).tokCtr = s.tokCtr := rfl

/-! ### `Ctx.setK` -/

@[simp] theorem Ctx.setK_st (s : Ctx) (r : BitVec 3) (v : Mask) : (s.setK r v).st = s.st := by unfold Ctx.setK; split <;> rfl
@[simp] theorem Ctx.setK_wait (s : Ctx) (r : BitVec 3) (v : Mask) : (s.setK r v).wait = s.wait := by unfold Ctx.setK; split <;> rfl
@[simp] theorem Ctx.setK_waitOrg (s : Ctx) (r : BitVec 3) (v : Mask) : (s.setK r v).waitOrg = s.waitOrg := by unfold Ctx.setK; split <;> rfl
@[simp] theorem Ctx.setK_sw (s : Ctx) (r : BitVec 3) (v : Mask) : (s.setK r v).sw = s.sw := by unfold Ctx.setK; split <;> rfl
@[simp] theorem Ctx.setK_fz (s : Ctx) (r : BitVec 3) (v : Mask) : (s.setK r v).fz = s.fz := by unfold Ctx.setK; split <;> rfl
@[simp] theorem Ctx.setK_latched (s : Ctx) (r : BitVec 3) (v : Mask) : (s.setK r v).latched = s.latched := by unfold Ctx.setK; split <;> rfl
@[simp] theorem Ctx.setK_launch (s : Ctx) (r : BitVec 3) (v : Mask) : (s.setK r v).launch = s.launch := by unfold Ctx.setK; split <;> rfl
@[simp] theorem Ctx.setK_unit (s : Ctx) (r : BitVec 3) (v : Mask) : (s.setK r v).unit = s.unit := by unfold Ctx.setK; split <;> rfl
@[simp] theorem Ctx.setK_vf (s : Ctx) (r : BitVec 3) (v : Mask) : (s.setK r v).vf = s.vf := by unfold Ctx.setK; split <;> rfl
@[simp] theorem Ctx.setK_priv (s : Ctx) (r : BitVec 3) (v : Mask) : (s.setK r v).priv = s.priv := by unfold Ctx.setK; split <;> rfl
@[simp] theorem Ctx.setK_pc (s : Ctx) (r : BitVec 3) (v : Mask) : (s.setK r v).pc = s.pc := by unfold Ctx.setK; split <;> rfl
@[simp] theorem Ctx.setK_nextPc (s : Ctx) (r : BitVec 3) (v : Mask) : (s.setK r v).nextPc = s.nextPc := by unfold Ctx.setK; split <;> rfl
@[simp] theorem Ctx.setK_s (s : Ctx) (r : BitVec 3) (v : Mask) : (s.setK r v).s = s.s := by unfold Ctx.setK; split <;> rfl
@[simp] theorem Ctx.setK_v (s : Ctx) (r : BitVec 3) (v : Mask) : (s.setK r v).v = s.v := by unfold Ctx.setK; split <;> rfl
@[simp] theorem Ctx.setK_sh (s : Ctx) (r : BitVec 3) (v : Mask) : (s.setK r v).sh = s.sh := by unfold Ctx.setK; split <;> rfl
@[simp] theorem Ctx.setK_rlen (s : Ctx) (r : BitVec 3) (v : Mask) : (s.setK r v).rlen = s.rlen := by unfold Ctx.setK; split <;> rfl
@[simp] theorem Ctx.setK_tg (s : Ctx) (r : BitVec 3) (v : Mask) : (s.setK r v).tg = s.tg := by unfold Ctx.setK; split <;> rfl
@[simp] theorem Ctx.setK_ag (s : Ctx) (r : BitVec 3) (v : Mask) : (s.setK r v).ag = s.ag := by unfold Ctx.setK; split <;> rfl
@[simp] theorem Ctx.setK_loops (s : Ctx) (r : BitVec 3) (v : Mask) : (s.setK r v).loops = s.loops := by unfold Ctx.setK; split <;> rfl
@[simp] theorem Ctx.setK_cq (s : Ctx) (r : BitVec 3) (v : Mask) : (s.setK r v).cq = s.cq := by unfold Ctx.setK; split <;> rfl
@[simp] theorem Ctx.setK_event (s : Ctx) (r : BitVec 3) (v : Mask) : (s.setK r v).event = s.event := by unfold Ctx.setK; split <;> rfl
@[simp] theorem Ctx.setK_segs (s : Ctx) (r : BitVec 3) (v : Mask) : (s.setK r v).segs = s.segs := by unfold Ctx.setK; split <;> rfl
@[simp] theorem Ctx.setK_half0 (s : Ctx) (r : BitVec 3) (v : Mask) : (s.setK r v).half0 = s.half0 := by unfold Ctx.setK; split <;> rfl
@[simp] theorem Ctx.setK_half1 (s : Ctx) (r : BitVec 3) (v : Mask) : (s.setK r v).half1 = s.half1 := by unfold Ctx.setK; split <;> rfl
@[simp] theorem Ctx.setK_idle (s : Ctx) (r : BitVec 3) (v : Mask) : (s.setK r v).idle = s.idle := by unfold Ctx.setK; split <;> rfl
@[simp] theorem Ctx.setK_lands (s : Ctx) (r : BitVec 3) (v : Mask) : (s.setK r v).lands = s.lands := by unfold Ctx.setK; split <;> rfl
@[simp] theorem Ctx.setK_vbmm (s : Ctx) (r : BitVec 3) (v : Mask) : (s.setK r v).vbmm = s.vbmm := by unfold Ctx.setK; split <;> rfl
@[simp] theorem Ctx.setK_pend (s : Ctx) (r : BitVec 3) (v : Mask) : (s.setK r v).pend = s.pend := by unfold Ctx.setK; split <;> rfl
@[simp] theorem Ctx.setK_mt (s : Ctx) (r : BitVec 3) (v : Mask) : (s.setK r v).mt = s.mt := by unfold Ctx.setK; split <;> rfl
@[simp] theorem Ctx.setK_mc (s : Ctx) (r : BitVec 3) (v : Mask) : (s.setK r v).mc = s.mc := by unfold Ctx.setK; split <;> rfl
@[simp] theorem Ctx.setK_mg (s : Ctx) (r : BitVec 3) (v : Mask) : (s.setK r v).mg = s.mg := by unfold Ctx.setK; split <;> rfl
@[simp] theorem Ctx.setK_drn (s : Ctx) (r : BitVec 3) (v : Mask) : (s.setK r v).drn = s.drn := by unfold Ctx.setK; split <;> rfl
@[simp] theorem Ctx.setK_bundles (s : Ctx) (r : BitVec 3) (v : Mask) : (s.setK r v).bundles = s.bundles := by unfold Ctx.setK; split <;> rfl
@[simp] theorem Ctx.setK_sqA (s : Ctx) (r : BitVec 3) (v : Mask) : (s.setK r v).sqA = s.sqA := by unfold Ctx.setK; split <;> rfl
@[simp] theorem Ctx.setK_sqB (s : Ctx) (r : BitVec 3) (v : Mask) : (s.setK r v).sqB = s.sqB := by unfold Ctx.setK; split <;> rfl
@[simp] theorem Ctx.setK_ft (s : Ctx) (r : BitVec 3) (v : Mask) : (s.setK r v).ft = s.ft := by unfold Ctx.setK; split <;> rfl
@[simp] theorem Ctx.setK_ftlevel (s : Ctx) (r : BitVec 3) (v : Mask) : (s.setK r v).ftlevel = s.ftlevel := by unfold Ctx.setK; split <;> rfl
@[simp] theorem Ctx.setK_mp (s : Ctx) (r : BitVec 3) (v : Mask) : (s.setK r v).mp = s.mp := by unfold Ctx.setK; split <;> rfl
@[simp] theorem Ctx.setK_sticky (s : Ctx) (r : BitVec 3) (v : Mask) : (s.setK r v).sticky = s.sticky := by unfold Ctx.setK; split <;> rfl
@[simp] theorem Ctx.setK_trapcause (s : Ctx) (r : BitVec 3) (v : Mask) : (s.setK r v).trapcause = s.trapcause := by unfold Ctx.setK; split <;> rfl
@[simp] theorem Ctx.setK_trapba (s : Ctx) (r : BitVec 3) (v : Mask) : (s.setK r v).trapba = s.trapba := by unfold Ctx.setK; split <;> rfl
@[simp] theorem Ctx.setK_trapsc (s : Ctx) (r : BitVec 3) (v : Mask) : (s.setK r v).trapsc = s.trapsc := by unfold Ctx.setK; split <;> rfl
@[simp] theorem Ctx.setK_trapvec (s : Ctx) (r : BitVec 3) (v : Mask) : (s.setK r v).trapvec = s.trapvec := by unfold Ctx.setK; split <;> rfl
@[simp] theorem Ctx.setK_tif (s : Ctx) (r : BitVec 3) (v : Mask) : (s.setK r v).tif = s.tif := by unfold Ctx.setK; split <;> rfl
@[simp] theorem Ctx.setK_shadow (s : Ctx) (r : BitVec 3) (v : Mask) : (s.setK r v).shadow = s.shadow := by unfold Ctx.setK; split <;> rfl
@[simp] theorem Ctx.setK_faultList (s : Ctx) (r : BitVec 3) (v : Mask) : (s.setK r v).faultList = s.faultList := by unfold Ctx.setK; split <;> rfl
@[simp] theorem Ctx.setK_scycle (s : Ctx) (r : BitVec 3) (v : Mask) : (s.setK r v).scycle = s.scycle := by unfold Ctx.setK; split <;> rfl
@[simp] theorem Ctx.setK_quota (s : Ctx) (r : BitVec 3) (v : Mask) : (s.setK r v).quota = s.quota := by unfold Ctx.setK; split <;> rfl
@[simp] theorem Ctx.setK_h (s : Ctx) (r : BitVec 3) (v : Mask) : (s.setK r v).h = s.h := by unfold Ctx.setK; split <;> rfl
@[simp] theorem Ctx.setK_q (s : Ctx) (r : BitVec 3) (v : Mask) : (s.setK r v).q = s.q := by unfold Ctx.setK; split <;> rfl
@[simp] theorem Ctx.setK_binds (s : Ctx) (r : BitVec 3) (v : Mask) : (s.setK r v).binds = s.binds := by unfold Ctx.setK; split <;> rfl
@[simp] theorem Ctx.setK_obs (s : Ctx) (r : BitVec 3) (v : Mask) : (s.setK r v).obs = s.obs := by unfold Ctx.setK; split <;> rfl
@[simp] theorem Ctx.setK_arv (s : Ctx) (r : BitVec 3) (v : Mask) : (s.setK r v).arv = s.arv := by unfold Ctx.setK; split <;> rfl
@[simp] theorem Ctx.setK_tiles (s : Ctx) (r : BitVec 3) (v : Mask) : (s.setK r v).tiles = s.tiles := by unfold Ctx.setK; split <;> rfl
@[simp] theorem Ctx.setK_eq (s : Ctx) (r : BitVec 3) (v : Mask) : (s.setK r v).eq = s.eq := by unfold Ctx.setK; split <;> rfl
@[simp] theorem Ctx.setK_ccq (s : Ctx) (r : BitVec 3) (v : Mask) : (s.setK r v).ccq = s.ccq := by unfold Ctx.setK; split <;> rfl
@[simp] theorem Ctx.setK_stores (s : Ctx) (r : BitVec 3) (v : Mask) : (s.setK r v).stores = s.stores := by unfold Ctx.setK; split <;> rfl
@[simp] theorem Ctx.setK_cnt (s : Ctx) (r : BitVec 3) (v : Mask) : (s.setK r v).cnt = s.cnt := by unfold Ctx.setK; split <;> rfl
@[simp] theorem Ctx.setK_allocWait (s : Ctx) (r : BitVec 3) (v : Mask) : (s.setK r v).allocWait = s.allocWait := by unfold Ctx.setK; split <;> rfl
@[simp] theorem Ctx.setK_latchAlloc (s : Ctx) (r : BitVec 3) (v : Mask) : (s.setK r v).latchAlloc = s.latchAlloc := by unfold Ctx.setK; split <;> rfl
@[simp] theorem Ctx.setK_prog (s : Ctx) (r : BitVec 3) (v : Mask) : (s.setK r v).prog = s.prog := by unfold Ctx.setK; split <;> rfl
@[simp] theorem Ctx.setK_wd (s : Ctx) (r : BitVec 3) (v : Mask) : (s.setK r v).wd = s.wd := by unfold Ctx.setK; split <;> rfl
@[simp] theorem Ctx.setK_readyWait (s : Ctx) (r : BitVec 3) (v : Mask) : (s.setK r v).readyWait = s.readyWait := by unfold Ctx.setK; split <;> rfl
@[simp] theorem Ctx.setK_pendEv (s : Ctx) (r : BitVec 3) (v : Mask) : (s.setK r v).pendEv = s.pendEv := by unfold Ctx.setK; split <;> rfl
@[simp] theorem Ctx.setK_dbg (s : Ctx) (r : BitVec 3) (v : Mask) : (s.setK r v).dbg = s.dbg := by unfold Ctx.setK; split <;> rfl
@[simp] theorem Ctx.setK_rep (s : Ctx) (r : BitVec 3) (v : Mask) : (s.setK r v).rep = s.rep := by unfold Ctx.setK; split <;> rfl
@[simp] theorem Ctx.setK_ans (s : Ctx) (r : BitVec 3) (v : Mask) : (s.setK r v).ans = s.ans := by unfold Ctx.setK; split <;> rfl
@[simp] theorem Ctx.setK_saved (s : Ctx) (r : BitVec 3) (v : Mask) : (s.setK r v).saved = s.saved := by unfold Ctx.setK; split <;> rfl
@[simp] theorem Ctx.setK_savedCall (s : Ctx) (r : BitVec 3) (v : Mask) : (s.setK r v).savedCall = s.savedCall := by unfold Ctx.setK; split <;> rfl
@[simp] theorem Ctx.setK_savedF (s : Ctx) (r : BitVec 3) (v : Mask) : (s.setK r v).savedF = s.savedF := by unfold Ctx.setK; split <;> rfl
@[simp] theorem Ctx.setK_tokCtr (s : Ctx) (r : BitVec 3) (v : Mask) : (s.setK r v).tokCtr = s.tokCtr := by unfold Ctx.setK; split <;> rfl

/-! ### `Ctx.setAg` -/

@[simp] theorem Ctx.setAg_st (s : Ctx) (r : BitVec 3) (v : AGen) : (s.setAg r v).st = s.st := rfl
@[simp] theorem Ctx.setAg_wait (s : Ctx) (r : BitVec 3) (v : AGen) : (s.setAg r v).wait = s.wait := rfl
@[simp] theorem Ctx.setAg_waitOrg (s : Ctx) (r : BitVec 3) (v : AGen) : (s.setAg r v).waitOrg = s.waitOrg := rfl
@[simp] theorem Ctx.setAg_sw (s : Ctx) (r : BitVec 3) (v : AGen) : (s.setAg r v).sw = s.sw := rfl
@[simp] theorem Ctx.setAg_fz (s : Ctx) (r : BitVec 3) (v : AGen) : (s.setAg r v).fz = s.fz := rfl
@[simp] theorem Ctx.setAg_latched (s : Ctx) (r : BitVec 3) (v : AGen) : (s.setAg r v).latched = s.latched := rfl
@[simp] theorem Ctx.setAg_launch (s : Ctx) (r : BitVec 3) (v : AGen) : (s.setAg r v).launch = s.launch := rfl
@[simp] theorem Ctx.setAg_unit (s : Ctx) (r : BitVec 3) (v : AGen) : (s.setAg r v).unit = s.unit := rfl
@[simp] theorem Ctx.setAg_vf (s : Ctx) (r : BitVec 3) (v : AGen) : (s.setAg r v).vf = s.vf := rfl
@[simp] theorem Ctx.setAg_priv (s : Ctx) (r : BitVec 3) (v : AGen) : (s.setAg r v).priv = s.priv := rfl
@[simp] theorem Ctx.setAg_pc (s : Ctx) (r : BitVec 3) (v : AGen) : (s.setAg r v).pc = s.pc := rfl
@[simp] theorem Ctx.setAg_nextPc (s : Ctx) (r : BitVec 3) (v : AGen) : (s.setAg r v).nextPc = s.nextPc := rfl
@[simp] theorem Ctx.setAg_s (s : Ctx) (r : BitVec 3) (v : AGen) : (s.setAg r v).s = s.s := rfl
@[simp] theorem Ctx.setAg_v (s : Ctx) (r : BitVec 3) (v : AGen) : (s.setAg r v).v = s.v := rfl
@[simp] theorem Ctx.setAg_k (s : Ctx) (r : BitVec 3) (v : AGen) : (s.setAg r v).k = s.k := rfl
@[simp] theorem Ctx.setAg_sh (s : Ctx) (r : BitVec 3) (v : AGen) : (s.setAg r v).sh = s.sh := rfl
@[simp] theorem Ctx.setAg_rlen (s : Ctx) (r : BitVec 3) (v : AGen) : (s.setAg r v).rlen = s.rlen := rfl
@[simp] theorem Ctx.setAg_tg (s : Ctx) (r : BitVec 3) (v : AGen) : (s.setAg r v).tg = s.tg := rfl
@[simp] theorem Ctx.setAg_loops (s : Ctx) (r : BitVec 3) (v : AGen) : (s.setAg r v).loops = s.loops := rfl
@[simp] theorem Ctx.setAg_cq (s : Ctx) (r : BitVec 3) (v : AGen) : (s.setAg r v).cq = s.cq := rfl
@[simp] theorem Ctx.setAg_event (s : Ctx) (r : BitVec 3) (v : AGen) : (s.setAg r v).event = s.event := rfl
@[simp] theorem Ctx.setAg_segs (s : Ctx) (r : BitVec 3) (v : AGen) : (s.setAg r v).segs = s.segs := rfl
@[simp] theorem Ctx.setAg_half0 (s : Ctx) (r : BitVec 3) (v : AGen) : (s.setAg r v).half0 = s.half0 := rfl
@[simp] theorem Ctx.setAg_half1 (s : Ctx) (r : BitVec 3) (v : AGen) : (s.setAg r v).half1 = s.half1 := rfl
@[simp] theorem Ctx.setAg_idle (s : Ctx) (r : BitVec 3) (v : AGen) : (s.setAg r v).idle = s.idle := rfl
@[simp] theorem Ctx.setAg_lands (s : Ctx) (r : BitVec 3) (v : AGen) : (s.setAg r v).lands = s.lands := rfl
@[simp] theorem Ctx.setAg_vbmm (s : Ctx) (r : BitVec 3) (v : AGen) : (s.setAg r v).vbmm = s.vbmm := rfl
@[simp] theorem Ctx.setAg_pend (s : Ctx) (r : BitVec 3) (v : AGen) : (s.setAg r v).pend = s.pend := rfl
@[simp] theorem Ctx.setAg_mt (s : Ctx) (r : BitVec 3) (v : AGen) : (s.setAg r v).mt = s.mt := rfl
@[simp] theorem Ctx.setAg_mc (s : Ctx) (r : BitVec 3) (v : AGen) : (s.setAg r v).mc = s.mc := rfl
@[simp] theorem Ctx.setAg_mg (s : Ctx) (r : BitVec 3) (v : AGen) : (s.setAg r v).mg = s.mg := rfl
@[simp] theorem Ctx.setAg_drn (s : Ctx) (r : BitVec 3) (v : AGen) : (s.setAg r v).drn = s.drn := rfl
@[simp] theorem Ctx.setAg_bundles (s : Ctx) (r : BitVec 3) (v : AGen) : (s.setAg r v).bundles = s.bundles := rfl
@[simp] theorem Ctx.setAg_sqA (s : Ctx) (r : BitVec 3) (v : AGen) : (s.setAg r v).sqA = s.sqA := rfl
@[simp] theorem Ctx.setAg_sqB (s : Ctx) (r : BitVec 3) (v : AGen) : (s.setAg r v).sqB = s.sqB := rfl
@[simp] theorem Ctx.setAg_ft (s : Ctx) (r : BitVec 3) (v : AGen) : (s.setAg r v).ft = s.ft := rfl
@[simp] theorem Ctx.setAg_ftlevel (s : Ctx) (r : BitVec 3) (v : AGen) : (s.setAg r v).ftlevel = s.ftlevel := rfl
@[simp] theorem Ctx.setAg_mp (s : Ctx) (r : BitVec 3) (v : AGen) : (s.setAg r v).mp = s.mp := rfl
@[simp] theorem Ctx.setAg_sticky (s : Ctx) (r : BitVec 3) (v : AGen) : (s.setAg r v).sticky = s.sticky := rfl
@[simp] theorem Ctx.setAg_trapcause (s : Ctx) (r : BitVec 3) (v : AGen) : (s.setAg r v).trapcause = s.trapcause := rfl
@[simp] theorem Ctx.setAg_trapba (s : Ctx) (r : BitVec 3) (v : AGen) : (s.setAg r v).trapba = s.trapba := rfl
@[simp] theorem Ctx.setAg_trapsc (s : Ctx) (r : BitVec 3) (v : AGen) : (s.setAg r v).trapsc = s.trapsc := rfl
@[simp] theorem Ctx.setAg_trapvec (s : Ctx) (r : BitVec 3) (v : AGen) : (s.setAg r v).trapvec = s.trapvec := rfl
@[simp] theorem Ctx.setAg_tif (s : Ctx) (r : BitVec 3) (v : AGen) : (s.setAg r v).tif = s.tif := rfl
@[simp] theorem Ctx.setAg_shadow (s : Ctx) (r : BitVec 3) (v : AGen) : (s.setAg r v).shadow = s.shadow := rfl
@[simp] theorem Ctx.setAg_faultList (s : Ctx) (r : BitVec 3) (v : AGen) : (s.setAg r v).faultList = s.faultList := rfl
@[simp] theorem Ctx.setAg_scycle (s : Ctx) (r : BitVec 3) (v : AGen) : (s.setAg r v).scycle = s.scycle := rfl
@[simp] theorem Ctx.setAg_quota (s : Ctx) (r : BitVec 3) (v : AGen) : (s.setAg r v).quota = s.quota := rfl
@[simp] theorem Ctx.setAg_h (s : Ctx) (r : BitVec 3) (v : AGen) : (s.setAg r v).h = s.h := rfl
@[simp] theorem Ctx.setAg_q (s : Ctx) (r : BitVec 3) (v : AGen) : (s.setAg r v).q = s.q := rfl
@[simp] theorem Ctx.setAg_binds (s : Ctx) (r : BitVec 3) (v : AGen) : (s.setAg r v).binds = s.binds := rfl
@[simp] theorem Ctx.setAg_obs (s : Ctx) (r : BitVec 3) (v : AGen) : (s.setAg r v).obs = s.obs := rfl
@[simp] theorem Ctx.setAg_arv (s : Ctx) (r : BitVec 3) (v : AGen) : (s.setAg r v).arv = s.arv := rfl
@[simp] theorem Ctx.setAg_tiles (s : Ctx) (r : BitVec 3) (v : AGen) : (s.setAg r v).tiles = s.tiles := rfl
@[simp] theorem Ctx.setAg_eq (s : Ctx) (r : BitVec 3) (v : AGen) : (s.setAg r v).eq = s.eq := rfl
@[simp] theorem Ctx.setAg_ccq (s : Ctx) (r : BitVec 3) (v : AGen) : (s.setAg r v).ccq = s.ccq := rfl
@[simp] theorem Ctx.setAg_stores (s : Ctx) (r : BitVec 3) (v : AGen) : (s.setAg r v).stores = s.stores := rfl
@[simp] theorem Ctx.setAg_cnt (s : Ctx) (r : BitVec 3) (v : AGen) : (s.setAg r v).cnt = s.cnt := rfl
@[simp] theorem Ctx.setAg_allocWait (s : Ctx) (r : BitVec 3) (v : AGen) : (s.setAg r v).allocWait = s.allocWait := rfl
@[simp] theorem Ctx.setAg_latchAlloc (s : Ctx) (r : BitVec 3) (v : AGen) : (s.setAg r v).latchAlloc = s.latchAlloc := rfl
@[simp] theorem Ctx.setAg_prog (s : Ctx) (r : BitVec 3) (v : AGen) : (s.setAg r v).prog = s.prog := rfl
@[simp] theorem Ctx.setAg_wd (s : Ctx) (r : BitVec 3) (v : AGen) : (s.setAg r v).wd = s.wd := rfl
@[simp] theorem Ctx.setAg_readyWait (s : Ctx) (r : BitVec 3) (v : AGen) : (s.setAg r v).readyWait = s.readyWait := rfl
@[simp] theorem Ctx.setAg_pendEv (s : Ctx) (r : BitVec 3) (v : AGen) : (s.setAg r v).pendEv = s.pendEv := rfl
@[simp] theorem Ctx.setAg_dbg (s : Ctx) (r : BitVec 3) (v : AGen) : (s.setAg r v).dbg = s.dbg := rfl
@[simp] theorem Ctx.setAg_rep (s : Ctx) (r : BitVec 3) (v : AGen) : (s.setAg r v).rep = s.rep := rfl
@[simp] theorem Ctx.setAg_ans (s : Ctx) (r : BitVec 3) (v : AGen) : (s.setAg r v).ans = s.ans := rfl
@[simp] theorem Ctx.setAg_saved (s : Ctx) (r : BitVec 3) (v : AGen) : (s.setAg r v).saved = s.saved := rfl
@[simp] theorem Ctx.setAg_savedCall (s : Ctx) (r : BitVec 3) (v : AGen) : (s.setAg r v).savedCall = s.savedCall := rfl
@[simp] theorem Ctx.setAg_savedF (s : Ctx) (r : BitVec 3) (v : AGen) : (s.setAg r v).savedF = s.savedF := rfl
@[simp] theorem Ctx.setAg_tokCtr (s : Ctx) (r : BitVec 3) (v : AGen) : (s.setAg r v).tokCtr = s.tokCtr := rfl

/-! ### `Ctx.fillCq` -/

@[simp] theorem Ctx.fillCq_st (s : Ctx) (t : Nat) (b : Bool) : (s.fillCq t b).st = s.st := rfl
@[simp] theorem Ctx.fillCq_wait (s : Ctx) (t : Nat) (b : Bool) : (s.fillCq t b).wait = s.wait := rfl
@[simp] theorem Ctx.fillCq_waitOrg (s : Ctx) (t : Nat) (b : Bool) : (s.fillCq t b).waitOrg = s.waitOrg := rfl
@[simp] theorem Ctx.fillCq_sw (s : Ctx) (t : Nat) (b : Bool) : (s.fillCq t b).sw = s.sw := rfl
@[simp] theorem Ctx.fillCq_fz (s : Ctx) (t : Nat) (b : Bool) : (s.fillCq t b).fz = s.fz := rfl
@[simp] theorem Ctx.fillCq_latched (s : Ctx) (t : Nat) (b : Bool) : (s.fillCq t b).latched = s.latched := rfl
@[simp] theorem Ctx.fillCq_launch (s : Ctx) (t : Nat) (b : Bool) : (s.fillCq t b).launch = s.launch := rfl
@[simp] theorem Ctx.fillCq_unit (s : Ctx) (t : Nat) (b : Bool) : (s.fillCq t b).unit = s.unit := rfl
@[simp] theorem Ctx.fillCq_vf (s : Ctx) (t : Nat) (b : Bool) : (s.fillCq t b).vf = s.vf := rfl
@[simp] theorem Ctx.fillCq_priv (s : Ctx) (t : Nat) (b : Bool) : (s.fillCq t b).priv = s.priv := rfl
@[simp] theorem Ctx.fillCq_pc (s : Ctx) (t : Nat) (b : Bool) : (s.fillCq t b).pc = s.pc := rfl
@[simp] theorem Ctx.fillCq_nextPc (s : Ctx) (t : Nat) (b : Bool) : (s.fillCq t b).nextPc = s.nextPc := rfl
@[simp] theorem Ctx.fillCq_s (s : Ctx) (t : Nat) (b : Bool) : (s.fillCq t b).s = s.s := rfl
@[simp] theorem Ctx.fillCq_v (s : Ctx) (t : Nat) (b : Bool) : (s.fillCq t b).v = s.v := rfl
@[simp] theorem Ctx.fillCq_k (s : Ctx) (t : Nat) (b : Bool) : (s.fillCq t b).k = s.k := rfl
@[simp] theorem Ctx.fillCq_sh (s : Ctx) (t : Nat) (b : Bool) : (s.fillCq t b).sh = s.sh := rfl
@[simp] theorem Ctx.fillCq_rlen (s : Ctx) (t : Nat) (b : Bool) : (s.fillCq t b).rlen = s.rlen := rfl
@[simp] theorem Ctx.fillCq_tg (s : Ctx) (t : Nat) (b : Bool) : (s.fillCq t b).tg = s.tg := rfl
@[simp] theorem Ctx.fillCq_ag (s : Ctx) (t : Nat) (b : Bool) : (s.fillCq t b).ag = s.ag := rfl
@[simp] theorem Ctx.fillCq_loops (s : Ctx) (t : Nat) (b : Bool) : (s.fillCq t b).loops = s.loops := rfl
@[simp] theorem Ctx.fillCq_event (s : Ctx) (t : Nat) (b : Bool) : (s.fillCq t b).event = s.event := rfl
@[simp] theorem Ctx.fillCq_segs (s : Ctx) (t : Nat) (b : Bool) : (s.fillCq t b).segs = s.segs := rfl
@[simp] theorem Ctx.fillCq_half0 (s : Ctx) (t : Nat) (b : Bool) : (s.fillCq t b).half0 = s.half0 := rfl
@[simp] theorem Ctx.fillCq_half1 (s : Ctx) (t : Nat) (b : Bool) : (s.fillCq t b).half1 = s.half1 := rfl
@[simp] theorem Ctx.fillCq_idle (s : Ctx) (t : Nat) (b : Bool) : (s.fillCq t b).idle = s.idle := rfl
@[simp] theorem Ctx.fillCq_lands (s : Ctx) (t : Nat) (b : Bool) : (s.fillCq t b).lands = s.lands := rfl
@[simp] theorem Ctx.fillCq_vbmm (s : Ctx) (t : Nat) (b : Bool) : (s.fillCq t b).vbmm = s.vbmm := rfl
@[simp] theorem Ctx.fillCq_pend (s : Ctx) (t : Nat) (b : Bool) : (s.fillCq t b).pend = s.pend := rfl
@[simp] theorem Ctx.fillCq_mt (s : Ctx) (t : Nat) (b : Bool) : (s.fillCq t b).mt = s.mt := rfl
@[simp] theorem Ctx.fillCq_mc (s : Ctx) (t : Nat) (b : Bool) : (s.fillCq t b).mc = s.mc := rfl
@[simp] theorem Ctx.fillCq_mg (s : Ctx) (t : Nat) (b : Bool) : (s.fillCq t b).mg = s.mg := rfl
@[simp] theorem Ctx.fillCq_drn (s : Ctx) (t : Nat) (b : Bool) : (s.fillCq t b).drn = s.drn := rfl
@[simp] theorem Ctx.fillCq_bundles (s : Ctx) (t : Nat) (b : Bool) : (s.fillCq t b).bundles = s.bundles := rfl
@[simp] theorem Ctx.fillCq_sqA (s : Ctx) (t : Nat) (b : Bool) : (s.fillCq t b).sqA = s.sqA := rfl
@[simp] theorem Ctx.fillCq_sqB (s : Ctx) (t : Nat) (b : Bool) : (s.fillCq t b).sqB = s.sqB := rfl
@[simp] theorem Ctx.fillCq_ft (s : Ctx) (t : Nat) (b : Bool) : (s.fillCq t b).ft = s.ft := rfl
@[simp] theorem Ctx.fillCq_ftlevel (s : Ctx) (t : Nat) (b : Bool) : (s.fillCq t b).ftlevel = s.ftlevel := rfl
@[simp] theorem Ctx.fillCq_mp (s : Ctx) (t : Nat) (b : Bool) : (s.fillCq t b).mp = s.mp := rfl
@[simp] theorem Ctx.fillCq_sticky (s : Ctx) (t : Nat) (b : Bool) : (s.fillCq t b).sticky = s.sticky := rfl
@[simp] theorem Ctx.fillCq_trapcause (s : Ctx) (t : Nat) (b : Bool) : (s.fillCq t b).trapcause = s.trapcause := rfl
@[simp] theorem Ctx.fillCq_trapba (s : Ctx) (t : Nat) (b : Bool) : (s.fillCq t b).trapba = s.trapba := rfl
@[simp] theorem Ctx.fillCq_trapsc (s : Ctx) (t : Nat) (b : Bool) : (s.fillCq t b).trapsc = s.trapsc := rfl
@[simp] theorem Ctx.fillCq_trapvec (s : Ctx) (t : Nat) (b : Bool) : (s.fillCq t b).trapvec = s.trapvec := rfl
@[simp] theorem Ctx.fillCq_tif (s : Ctx) (t : Nat) (b : Bool) : (s.fillCq t b).tif = s.tif := rfl
@[simp] theorem Ctx.fillCq_shadow (s : Ctx) (t : Nat) (b : Bool) : (s.fillCq t b).shadow = s.shadow := rfl
@[simp] theorem Ctx.fillCq_faultList (s : Ctx) (t : Nat) (b : Bool) : (s.fillCq t b).faultList = s.faultList := rfl
@[simp] theorem Ctx.fillCq_scycle (s : Ctx) (t : Nat) (b : Bool) : (s.fillCq t b).scycle = s.scycle := rfl
@[simp] theorem Ctx.fillCq_quota (s : Ctx) (t : Nat) (b : Bool) : (s.fillCq t b).quota = s.quota := rfl
@[simp] theorem Ctx.fillCq_h (s : Ctx) (t : Nat) (b : Bool) : (s.fillCq t b).h = s.h := rfl
@[simp] theorem Ctx.fillCq_q (s : Ctx) (t : Nat) (b : Bool) : (s.fillCq t b).q = s.q := rfl
@[simp] theorem Ctx.fillCq_binds (s : Ctx) (t : Nat) (b : Bool) : (s.fillCq t b).binds = s.binds := rfl
@[simp] theorem Ctx.fillCq_obs (s : Ctx) (t : Nat) (b : Bool) : (s.fillCq t b).obs = s.obs := rfl
@[simp] theorem Ctx.fillCq_arv (s : Ctx) (t : Nat) (b : Bool) : (s.fillCq t b).arv = s.arv := rfl
@[simp] theorem Ctx.fillCq_tiles (s : Ctx) (t : Nat) (b : Bool) : (s.fillCq t b).tiles = s.tiles := rfl
@[simp] theorem Ctx.fillCq_eq (s : Ctx) (t : Nat) (b : Bool) : (s.fillCq t b).eq = s.eq := rfl
@[simp] theorem Ctx.fillCq_ccq (s : Ctx) (t : Nat) (b : Bool) : (s.fillCq t b).ccq = s.ccq := rfl
@[simp] theorem Ctx.fillCq_stores (s : Ctx) (t : Nat) (b : Bool) : (s.fillCq t b).stores = s.stores := rfl
@[simp] theorem Ctx.fillCq_cnt (s : Ctx) (t : Nat) (b : Bool) : (s.fillCq t b).cnt = s.cnt := rfl
@[simp] theorem Ctx.fillCq_allocWait (s : Ctx) (t : Nat) (b : Bool) : (s.fillCq t b).allocWait = s.allocWait := rfl
@[simp] theorem Ctx.fillCq_latchAlloc (s : Ctx) (t : Nat) (b : Bool) : (s.fillCq t b).latchAlloc = s.latchAlloc := rfl
@[simp] theorem Ctx.fillCq_prog (s : Ctx) (t : Nat) (b : Bool) : (s.fillCq t b).prog = s.prog := rfl
@[simp] theorem Ctx.fillCq_wd (s : Ctx) (t : Nat) (b : Bool) : (s.fillCq t b).wd = s.wd := rfl
@[simp] theorem Ctx.fillCq_readyWait (s : Ctx) (t : Nat) (b : Bool) : (s.fillCq t b).readyWait = s.readyWait := rfl
@[simp] theorem Ctx.fillCq_pendEv (s : Ctx) (t : Nat) (b : Bool) : (s.fillCq t b).pendEv = s.pendEv := rfl
@[simp] theorem Ctx.fillCq_dbg (s : Ctx) (t : Nat) (b : Bool) : (s.fillCq t b).dbg = s.dbg := rfl
@[simp] theorem Ctx.fillCq_rep (s : Ctx) (t : Nat) (b : Bool) : (s.fillCq t b).rep = s.rep := rfl
@[simp] theorem Ctx.fillCq_ans (s : Ctx) (t : Nat) (b : Bool) : (s.fillCq t b).ans = s.ans := rfl
@[simp] theorem Ctx.fillCq_saved (s : Ctx) (t : Nat) (b : Bool) : (s.fillCq t b).saved = s.saved := rfl
@[simp] theorem Ctx.fillCq_savedCall (s : Ctx) (t : Nat) (b : Bool) : (s.fillCq t b).savedCall = s.savedCall := rfl
@[simp] theorem Ctx.fillCq_savedF (s : Ctx) (t : Nat) (b : Bool) : (s.fillCq t b).savedF = s.savedF := rfl
@[simp] theorem Ctx.fillCq_tokCtr (s : Ctx) (t : Nat) (b : Bool) : (s.fillCq t b).tokCtr = s.tokCtr := rfl

/-! ### `Ctx.fillPend` -/

@[simp] theorem Ctx.fillPend_st (s : Ctx) (t n : Nat) (v : VReg) (a : Option StreamWord) : (s.fillPend t n v a).st = s.st := rfl
@[simp] theorem Ctx.fillPend_wait (s : Ctx) (t n : Nat) (v : VReg) (a : Option StreamWord) : (s.fillPend t n v a).wait = s.wait := rfl
@[simp] theorem Ctx.fillPend_waitOrg (s : Ctx) (t n : Nat) (v : VReg) (a : Option StreamWord) : (s.fillPend t n v a).waitOrg = s.waitOrg := rfl
@[simp] theorem Ctx.fillPend_sw (s : Ctx) (t n : Nat) (v : VReg) (a : Option StreamWord) : (s.fillPend t n v a).sw = s.sw := rfl
@[simp] theorem Ctx.fillPend_fz (s : Ctx) (t n : Nat) (v : VReg) (a : Option StreamWord) : (s.fillPend t n v a).fz = s.fz := rfl
@[simp] theorem Ctx.fillPend_latched (s : Ctx) (t n : Nat) (v : VReg) (a : Option StreamWord) : (s.fillPend t n v a).latched = s.latched := rfl
@[simp] theorem Ctx.fillPend_launch (s : Ctx) (t n : Nat) (v : VReg) (a : Option StreamWord) : (s.fillPend t n v a).launch = s.launch := rfl
@[simp] theorem Ctx.fillPend_unit (s : Ctx) (t n : Nat) (v : VReg) (a : Option StreamWord) : (s.fillPend t n v a).unit = s.unit := rfl
@[simp] theorem Ctx.fillPend_vf (s : Ctx) (t n : Nat) (v : VReg) (a : Option StreamWord) : (s.fillPend t n v a).vf = s.vf := rfl
@[simp] theorem Ctx.fillPend_priv (s : Ctx) (t n : Nat) (v : VReg) (a : Option StreamWord) : (s.fillPend t n v a).priv = s.priv := rfl
@[simp] theorem Ctx.fillPend_pc (s : Ctx) (t n : Nat) (v : VReg) (a : Option StreamWord) : (s.fillPend t n v a).pc = s.pc := rfl
@[simp] theorem Ctx.fillPend_nextPc (s : Ctx) (t n : Nat) (v : VReg) (a : Option StreamWord) : (s.fillPend t n v a).nextPc = s.nextPc := rfl
@[simp] theorem Ctx.fillPend_s (s : Ctx) (t n : Nat) (v : VReg) (a : Option StreamWord) : (s.fillPend t n v a).s = s.s := rfl
@[simp] theorem Ctx.fillPend_v (s : Ctx) (t n : Nat) (v : VReg) (a : Option StreamWord) : (s.fillPend t n v a).v = s.v := rfl
@[simp] theorem Ctx.fillPend_k (s : Ctx) (t n : Nat) (v : VReg) (a : Option StreamWord) : (s.fillPend t n v a).k = s.k := rfl
@[simp] theorem Ctx.fillPend_sh (s : Ctx) (t n : Nat) (v : VReg) (a : Option StreamWord) : (s.fillPend t n v a).sh = s.sh := rfl
@[simp] theorem Ctx.fillPend_rlen (s : Ctx) (t n : Nat) (v : VReg) (a : Option StreamWord) : (s.fillPend t n v a).rlen = s.rlen := rfl
@[simp] theorem Ctx.fillPend_tg (s : Ctx) (t n : Nat) (v : VReg) (a : Option StreamWord) : (s.fillPend t n v a).tg = s.tg := rfl
@[simp] theorem Ctx.fillPend_ag (s : Ctx) (t n : Nat) (v : VReg) (a : Option StreamWord) : (s.fillPend t n v a).ag = s.ag := rfl
@[simp] theorem Ctx.fillPend_loops (s : Ctx) (t n : Nat) (v : VReg) (a : Option StreamWord) : (s.fillPend t n v a).loops = s.loops := rfl
@[simp] theorem Ctx.fillPend_cq (s : Ctx) (t n : Nat) (v : VReg) (a : Option StreamWord) : (s.fillPend t n v a).cq = s.cq := rfl
@[simp] theorem Ctx.fillPend_event (s : Ctx) (t n : Nat) (v : VReg) (a : Option StreamWord) : (s.fillPend t n v a).event = s.event := rfl
@[simp] theorem Ctx.fillPend_segs (s : Ctx) (t n : Nat) (v : VReg) (a : Option StreamWord) : (s.fillPend t n v a).segs = s.segs := rfl
@[simp] theorem Ctx.fillPend_half0 (s : Ctx) (t n : Nat) (v : VReg) (a : Option StreamWord) : (s.fillPend t n v a).half0 = s.half0 := rfl
@[simp] theorem Ctx.fillPend_half1 (s : Ctx) (t n : Nat) (v : VReg) (a : Option StreamWord) : (s.fillPend t n v a).half1 = s.half1 := rfl
@[simp] theorem Ctx.fillPend_idle (s : Ctx) (t n : Nat) (v : VReg) (a : Option StreamWord) : (s.fillPend t n v a).idle = s.idle := rfl
@[simp] theorem Ctx.fillPend_lands (s : Ctx) (t n : Nat) (v : VReg) (a : Option StreamWord) : (s.fillPend t n v a).lands = s.lands := rfl
@[simp] theorem Ctx.fillPend_vbmm (s : Ctx) (t n : Nat) (v : VReg) (a : Option StreamWord) : (s.fillPend t n v a).vbmm = s.vbmm := rfl
@[simp] theorem Ctx.fillPend_mt (s : Ctx) (t n : Nat) (v : VReg) (a : Option StreamWord) : (s.fillPend t n v a).mt = s.mt := rfl
@[simp] theorem Ctx.fillPend_mc (s : Ctx) (t n : Nat) (v : VReg) (a : Option StreamWord) : (s.fillPend t n v a).mc = s.mc := rfl
@[simp] theorem Ctx.fillPend_mg (s : Ctx) (t n : Nat) (v : VReg) (a : Option StreamWord) : (s.fillPend t n v a).mg = s.mg := rfl
@[simp] theorem Ctx.fillPend_drn (s : Ctx) (t n : Nat) (v : VReg) (a : Option StreamWord) : (s.fillPend t n v a).drn = s.drn := rfl
@[simp] theorem Ctx.fillPend_bundles (s : Ctx) (t n : Nat) (v : VReg) (a : Option StreamWord) : (s.fillPend t n v a).bundles = s.bundles := rfl
@[simp] theorem Ctx.fillPend_sqA (s : Ctx) (t n : Nat) (v : VReg) (a : Option StreamWord) : (s.fillPend t n v a).sqA = s.sqA := rfl
@[simp] theorem Ctx.fillPend_sqB (s : Ctx) (t n : Nat) (v : VReg) (a : Option StreamWord) : (s.fillPend t n v a).sqB = s.sqB := rfl
@[simp] theorem Ctx.fillPend_ft (s : Ctx) (t n : Nat) (v : VReg) (a : Option StreamWord) : (s.fillPend t n v a).ft = s.ft := rfl
@[simp] theorem Ctx.fillPend_ftlevel (s : Ctx) (t n : Nat) (v : VReg) (a : Option StreamWord) : (s.fillPend t n v a).ftlevel = s.ftlevel := rfl
@[simp] theorem Ctx.fillPend_mp (s : Ctx) (t n : Nat) (v : VReg) (a : Option StreamWord) : (s.fillPend t n v a).mp = s.mp := rfl
@[simp] theorem Ctx.fillPend_sticky (s : Ctx) (t n : Nat) (v : VReg) (a : Option StreamWord) : (s.fillPend t n v a).sticky = s.sticky := rfl
@[simp] theorem Ctx.fillPend_trapcause (s : Ctx) (t n : Nat) (v : VReg) (a : Option StreamWord) : (s.fillPend t n v a).trapcause = s.trapcause := rfl
@[simp] theorem Ctx.fillPend_trapba (s : Ctx) (t n : Nat) (v : VReg) (a : Option StreamWord) : (s.fillPend t n v a).trapba = s.trapba := rfl
@[simp] theorem Ctx.fillPend_trapsc (s : Ctx) (t n : Nat) (v : VReg) (a : Option StreamWord) : (s.fillPend t n v a).trapsc = s.trapsc := rfl
@[simp] theorem Ctx.fillPend_trapvec (s : Ctx) (t n : Nat) (v : VReg) (a : Option StreamWord) : (s.fillPend t n v a).trapvec = s.trapvec := rfl
@[simp] theorem Ctx.fillPend_tif (s : Ctx) (t n : Nat) (v : VReg) (a : Option StreamWord) : (s.fillPend t n v a).tif = s.tif := rfl
@[simp] theorem Ctx.fillPend_shadow (s : Ctx) (t n : Nat) (v : VReg) (a : Option StreamWord) : (s.fillPend t n v a).shadow = s.shadow := rfl
@[simp] theorem Ctx.fillPend_faultList (s : Ctx) (t n : Nat) (v : VReg) (a : Option StreamWord) : (s.fillPend t n v a).faultList = s.faultList := rfl
@[simp] theorem Ctx.fillPend_scycle (s : Ctx) (t n : Nat) (v : VReg) (a : Option StreamWord) : (s.fillPend t n v a).scycle = s.scycle := rfl
@[simp] theorem Ctx.fillPend_quota (s : Ctx) (t n : Nat) (v : VReg) (a : Option StreamWord) : (s.fillPend t n v a).quota = s.quota := rfl
@[simp] theorem Ctx.fillPend_h (s : Ctx) (t n : Nat) (v : VReg) (a : Option StreamWord) : (s.fillPend t n v a).h = s.h := rfl
@[simp] theorem Ctx.fillPend_q (s : Ctx) (t n : Nat) (v : VReg) (a : Option StreamWord) : (s.fillPend t n v a).q = s.q := rfl
@[simp] theorem Ctx.fillPend_binds (s : Ctx) (t n : Nat) (v : VReg) (a : Option StreamWord) : (s.fillPend t n v a).binds = s.binds := rfl
@[simp] theorem Ctx.fillPend_obs (s : Ctx) (t n : Nat) (v : VReg) (a : Option StreamWord) : (s.fillPend t n v a).obs = s.obs := rfl
@[simp] theorem Ctx.fillPend_arv (s : Ctx) (t n : Nat) (v : VReg) (a : Option StreamWord) : (s.fillPend t n v a).arv = s.arv := rfl
@[simp] theorem Ctx.fillPend_tiles (s : Ctx) (t n : Nat) (v : VReg) (a : Option StreamWord) : (s.fillPend t n v a).tiles = s.tiles := rfl
@[simp] theorem Ctx.fillPend_eq (s : Ctx) (t n : Nat) (v : VReg) (a : Option StreamWord) : (s.fillPend t n v a).eq = s.eq := rfl
@[simp] theorem Ctx.fillPend_ccq (s : Ctx) (t n : Nat) (v : VReg) (a : Option StreamWord) : (s.fillPend t n v a).ccq = s.ccq := rfl
@[simp] theorem Ctx.fillPend_stores (s : Ctx) (t n : Nat) (v : VReg) (a : Option StreamWord) : (s.fillPend t n v a).stores = s.stores := rfl
@[simp] theorem Ctx.fillPend_cnt (s : Ctx) (t n : Nat) (v : VReg) (a : Option StreamWord) : (s.fillPend t n v a).cnt = s.cnt := rfl
@[simp] theorem Ctx.fillPend_allocWait (s : Ctx) (t n : Nat) (v : VReg) (a : Option StreamWord) : (s.fillPend t n v a).allocWait = s.allocWait := rfl
@[simp] theorem Ctx.fillPend_latchAlloc (s : Ctx) (t n : Nat) (v : VReg) (a : Option StreamWord) : (s.fillPend t n v a).latchAlloc = s.latchAlloc := rfl
@[simp] theorem Ctx.fillPend_prog (s : Ctx) (t n : Nat) (v : VReg) (a : Option StreamWord) : (s.fillPend t n v a).prog = s.prog := rfl
@[simp] theorem Ctx.fillPend_wd (s : Ctx) (t n : Nat) (v : VReg) (a : Option StreamWord) : (s.fillPend t n v a).wd = s.wd := rfl
@[simp] theorem Ctx.fillPend_readyWait (s : Ctx) (t n : Nat) (v : VReg) (a : Option StreamWord) : (s.fillPend t n v a).readyWait = s.readyWait := rfl
@[simp] theorem Ctx.fillPend_pendEv (s : Ctx) (t n : Nat) (v : VReg) (a : Option StreamWord) : (s.fillPend t n v a).pendEv = s.pendEv := rfl
@[simp] theorem Ctx.fillPend_dbg (s : Ctx) (t n : Nat) (v : VReg) (a : Option StreamWord) : (s.fillPend t n v a).dbg = s.dbg := rfl
@[simp] theorem Ctx.fillPend_rep (s : Ctx) (t n : Nat) (v : VReg) (a : Option StreamWord) : (s.fillPend t n v a).rep = s.rep := rfl
@[simp] theorem Ctx.fillPend_ans (s : Ctx) (t n : Nat) (v : VReg) (a : Option StreamWord) : (s.fillPend t n v a).ans = s.ans := rfl
@[simp] theorem Ctx.fillPend_saved (s : Ctx) (t n : Nat) (v : VReg) (a : Option StreamWord) : (s.fillPend t n v a).saved = s.saved := rfl
@[simp] theorem Ctx.fillPend_savedCall (s : Ctx) (t n : Nat) (v : VReg) (a : Option StreamWord) : (s.fillPend t n v a).savedCall = s.savedCall := rfl
@[simp] theorem Ctx.fillPend_savedF (s : Ctx) (t n : Nat) (v : VReg) (a : Option StreamWord) : (s.fillPend t n v a).savedF = s.savedF := rfl
@[simp] theorem Ctx.fillPend_tokCtr (s : Ctx) (t n : Nat) (v : VReg) (a : Option StreamWord) : (s.fillPend t n v a).tokCtr = s.tokCtr := rfl

/-! ### What the updates write -/

@[simp] theorem State.core_setCore (s : State) (c : Nat) (k : Core) : (s.setCore c k).core c = k := alGet_alSet_self _ _ _ _

theorem State.core_setCore_other (s : State) {c d : Nat} (k : Core) (h : d ≠ c) : (s.setCore c k).core d = s.core d := alGet_alSet_other _ _ h _

@[simp] theorem State.core_modCore (s : State) (c : Nat) (f : Core → Core) : (s.modCore c f).core c = f (s.core c) := s.core_setCore c _

theorem State.core_modCore_other (s : State) {c d : Nat} (f : Core → Core) (h : d ≠ c) : (s.modCore c f).core d = s.core d :=
  s.core_setCore_other _ h

@[simp] theorem State.ctx_setCtx (s : State) (c : Nat) (x : CtxId) (k : Ctx) : (s.setCtx c x k).ctx c x = k := by
  unfold State.ctx State.setCtx
  rw [State.core_modCore]
  simp [Core.setCtx]

theorem State.ctx_setCtx_other (s : State) {c d : Nat} {x y : CtxId} (k : Ctx) (h : d ≠ c ∨ y ≠ x) : (s.setCtx c x k).ctx d y = s.ctx d y := by
  unfold State.ctx State.setCtx
  by_cases e : d = c
  · subst e
    rw [State.core_modCore]
    have hy : x.val ≠ y.val := fun q => h.elim (fun k => k rfl) fun k => k (Fin.ext q.symm)
    simp [Core.setCtx, hy]
  · rw [State.core_modCore_other _ _ e]

@[simp] theorem State.ctx_modCtx (s : State) (c : Nat) (x : CtxId) (f : Ctx → Ctx) : (s.modCtx c x f).ctx c x = f (s.ctx c x) := s.ctx_setCtx c x _

theorem State.ctx_modCtx_other (s : State) {c d : Nat} {x y : CtxId} (f : Ctx → Ctx) (h : d ≠ c ∨ y ≠ x) :
    (s.modCtx c x f).ctx d y = s.ctx d y := s.ctx_setCtx_other _ h

@[simp] theorem State.me_modMe (s : State) (f : Ctx → Ctx) : (s.modMe f).me = f s.me := s.ctx_modCtx _ _ _

@[simp] theorem State.vf_setVf (s : State) (n : Nat) (v : Vf) : (s.setVf n v).vf n = v := alGet_alSet_self _ _ _ _

@[simp] theorem State.vf_modVf (s : State) (n : Nat) (f : Vf → Vf) : (s.modVf n f).vf n = f (s.vf n) := s.vf_setVf n _

/-- A result put in flight: the issuing context's list of results grows by one entry, and nothing else of the context changes. -/
theorem State.land_me (s : State) (n : Nat) (d : Dest) (z : BitVec 12) :
    (s.land n d z).me = { s.me with lands := s.me.lands ++ [⟨n, d, s.cur.slot, z, s.cur.org⟩] } := s.me_modMe _

/-- Every other context is as it was. -/
theorem State.land_other (s : State) (n : Nat) (d : Dest) (z : BitVec 12) {c : Nat} {x : CtxId} (h : c ≠ s.cur.core ∨ x ≠ s.cur.x) :
    (s.land n d z).ctx c x = s.ctx c x := s.ctx_modCtx_other _ h

@[simp] theorem Ctx.sreg_zero (cx : Ctx) : cx.sreg 0 = 0 := rfl

@[simp] theorem Ctx.kreg_zero (cx : Ctx) : cx.kreg 0 = BitVec.allOnes 512 := rfl

@[simp] theorem Ctx.setS_zero (cx : Ctx) (v : W64) : cx.setS 0 v = cx := rfl

@[simp] theorem Ctx.setK_zero (cx : Ctx) (v : Mask) : cx.setK 0 v = cx := rfl

/-- A register reads as last written; s0 stays zero. -/
theorem Ctx.sreg_setS (cx : Ctx) (r : BitVec 5) (v : W64) : (cx.setS r v).sreg r = if r = 0 then 0 else v := by
  unfold Ctx.sreg Ctx.setS
  split
  · rfl
  · simp [vget, vset]

theorem Ctx.sreg_setS_other (cx : Ctx) {r q : BitVec 5} (v : W64) (h : q ≠ r) : (cx.setS r v).sreg q = cx.sreg q := by
  unfold Ctx.sreg Ctx.setS
  split
  · rfl
  · split
    · rfl
    · have e : r.toNat ≠ q.toNat := fun e => h (BitVec.eq_of_toNat_eq e.symm)
      simp [vget, vset, e]

end Sys2Proof.Machine
end

