-- ==== Sys2Proof/Laws/Memory.lean ====
section
/-! SUPPORT. Memory: reads after writes, and that every operation keeps the canonical form. -/

namespace Sys2Proof.Machine

/-- The first key of a list of cells is above a bound. -/
def Memory.above (a : Nat) : List Host.Cell → Prop
  | [] => True
  | (j, _) :: _ => a < j

theorem Memory.wf_cons {a : Nat} {b : Byte} {r : List Host.Cell} :
    Memory.wf ((a, b) :: r) = true ↔ b ≠ memDefault ∧ Memory.above a r ∧ Memory.wf r = true := by
  cases r with
  | nil => simp [Memory.wf, Memory.above]
  | cons p q => obtain ⟨j, c⟩ := p; simp [Memory.wf, Memory.above, and_assoc]

theorem Memory.above_trans {a b : Nat} {m : List Host.Cell} (h : a < b) (hb : Memory.above b m) : Memory.above a m := by
  cases m with
  | nil => trivial
  | cons p q => obtain ⟨j, c⟩ := p; exact Nat.lt_trans h hb

/-- An address below the first key is not listed. -/
theorem readByte_below {a : Nat} {m : List Host.Cell} (h : Memory.above a m) (hw : Memory.wf m = true) : readByte m a = memDefault := by
  induction m with
  | nil => rfl
  | cons p q ih =>
    obtain ⟨j, c⟩ := p
    have h' : a < j := h
    obtain ⟨-, ha, hq⟩ := Memory.wf_cons.1 hw
    have : j ≠ a := by omega
    simp only [readByte, alGet, if_neg this]
    exact ih (Memory.above_trans h' ha) hq

theorem Memory.above_writeByte {i a : Nat} (b : Byte) {m : List Host.Cell} (hi : i < a) (h : Memory.above i m) (hw : Memory.wf m = true) :
    Memory.above i (writeByte a b m) := by
  cases m with
  | nil => simp only [writeByte]; split <;> simp [Memory.above, hi]
  | cons p q =>
    obtain ⟨j, c⟩ := p
    obtain ⟨-, ha, -⟩ := Memory.wf_cons.1 hw
    simp only [writeByte]
    split
    · next e =>
      subst e
      split
      · exact Memory.above_trans hi ha
      · exact hi
    · split
      · split
        · exact h
        · exact hi
      · exact h

/-- A write keeps the canonical form. -/
theorem writeByte_wf (a : Nat) (b : Byte) {m : List Host.Cell} (h : Memory.wf m = true) : Memory.wf (writeByte a b m) = true := by
  induction m with
  | nil =>
    simp only [writeByte]
    split
    · rfl
    · next n => exact Memory.wf_cons.2 ⟨n, trivial, rfl⟩
  | cons p q ih =>
    obtain ⟨j, c⟩ := p
    obtain ⟨hc, ha, hq⟩ := Memory.wf_cons.1 h
    simp only [writeByte]
    split
    · next e =>
      subst e
      split
      · exact hq
      · next n => exact Memory.wf_cons.2 ⟨n, ha, hq⟩
    · split
      · next l =>
        split
        · exact h
        · next n => exact Memory.wf_cons.2 ⟨n, l, h⟩
      · next n l => exact Memory.wf_cons.2 ⟨hc, Memory.above_writeByte b (by omega) ha hq, ih hq⟩

/-- A byte reads as last written. -/
theorem readByte_writeByte_self (a : Nat) (b : Byte) {m : List Host.Cell} (h : Memory.wf m = true) : readByte (writeByte a b m) a = b := by
  induction m with
  | nil => simp only [writeByte]; split <;> simp [readByte, alGet, *]
  | cons p q ih =>
    obtain ⟨j, c⟩ := p
    obtain ⟨-, ha, hq⟩ := Memory.wf_cons.1 h
    simp only [writeByte]
    split
    · next e =>
      subst e
      split
      · next d => rw [readByte_below ha hq, d]
      · simp [readByte, alGet]
    · next n =>
      split
      · next l =>
        split
        · next d => rw [d]; exact readByte_below (m := (j, c) :: q) l h
        · simp [readByte, alGet]
      · have := ih hq
        simpa [readByte, alGet, n] using this

/-- Every other byte is as it was. -/
theorem readByte_writeByte_other {a i : Nat} (b : Byte) (m : List Host.Cell) (hi : i ≠ a) : readByte (writeByte a b m) i = readByte m i := by
  induction m with
  | nil => simp only [writeByte]; split <;> simp [readByte, alGet, Ne.symm hi]
  | cons p q ih =>
    obtain ⟨j, c⟩ := p
    simp only [writeByte]
    split
    · next e => subst e; split <;> simp [readByte, alGet, Ne.symm hi]
    · split
      · split <;> simp [readByte, alGet, Ne.symm hi]
      · have := ih
        simp only [readByte, alGet] at this ⊢
        split
        · rfl
        · exact this

theorem writeNat_wf (a v n : Nat) {m : List Host.Cell} (h : Memory.wf m = true) : Memory.wf (writeNat m a v n) = true := by
  induction n generalizing a v m with
  | zero => exact h
  | succ n ih => exact ih _ _ (writeByte_wf _ _ h)

/-- Bytes outside a stored range are as they were. -/
theorem readByte_writeNat_other {a i : Nat} (v n : Nat) (m : List Host.Cell) (h : i < a ∨ a + n ≤ i) :
    readByte (writeNat m a v n) i = readByte m i := by
  induction n generalizing a v m with
  | zero => rfl
  | succ n ih => rw [writeNat, ih _ _ (by omega), readByte_writeByte_other _ _ (by omega)]

/-- Byte i of a stored number. -/
theorem readByte_writeNat (a v n i : Nat) {m : List Host.Cell} (hm : Memory.wf m = true) (h : i < n) :
    readByte (writeNat m a v n) (a + i) = BitVec.ofNat 8 (v / 256 ^ i) := by
  induction n generalizing a v i m with
  | zero => omega
  | succ n ih =>
    cases i with
    | zero => rw [writeNat, readByte_writeNat_other _ _ _ (by omega), Nat.add_zero, readByte_writeByte_self _ _ hm]; simp
    | succ i =>
      have e : a + (i + 1) = (a + 1) + i := by omega
      rw [writeNat, e, ih _ _ _ (writeByte_wf _ _ hm) (by omega), Nat.div_div_eq_div_mul, Nat.pow_succ, Nat.mul_comm]

/-- What is stored is what is read, within its width. -/
theorem readNat_writeNat (a v n : Nat) {m : List Host.Cell} (h : Memory.wf m = true) : readNat (writeNat m a v n) a n = v % 256 ^ n := by
  induction n generalizing a v m with
  | zero => simp [readNat, Nat.mod_one]
  | succ n ih =>
    rw [readNat, writeNat, ih _ _ (writeByte_wf _ _ h), readByte_writeNat_other _ _ _ (by omega), readByte_writeByte_self _ _ h]
    have e : v % 256 ^ (n + 1) = v % 256 + 256 * (v / 256 % 256 ^ n) := by
      rw [show 256 ^ (n + 1) = 256 * 256 ^ n by rw [Nat.pow_succ, Nat.mul_comm], Nat.mod_mul]
    rw [e]
    simp

/-- A read depends only on the bytes read. -/
theorem readNat_congr {m m' : List Host.Cell} {a n : Nat} (h : ∀ i, a ≤ i → i < a + n → readByte m i = readByte m' i) :
    readNat m a n = readNat m' a n := by
  induction n generalizing a with
  | zero => rfl
  | succ n ih => rw [readNat, readNat, h a (by omega) (by omega), ih fun i _ _ => h i (by omega) (by omega)]

/-- A read away from a store is as it was. -/
theorem readNat_writeNat_other {a b : Nat} (v n k : Nat) (m : List Host.Cell) (h : b + k ≤ a ∨ a + n ≤ b) :
    readNat (writeNat m a v n) b k = readNat m b k :=
  readNat_congr fun i _ _ => readByte_writeNat_other _ _ _ (by omega)

theorem Memory.above_filter {a : Nat} (f : Host.Cell → Bool) {m : List Host.Cell} (h : Memory.above a m) (hw : Memory.wf m = true) :
    Memory.above a (m.filter f) := by
  induction m with
  | nil => trivial
  | cons p q ih =>
    obtain ⟨j, c⟩ := p
    obtain ⟨-, ha, hq⟩ := Memory.wf_cons.1 hw
    rw [List.filter_cons]
    split
    · exact h
    · exact ih (Memory.above_trans h ha) hq

/-- Dropping cells keeps the canonical form. -/
theorem Memory.wf_filter (f : Host.Cell → Bool) {m : List Host.Cell} (h : Memory.wf m = true) : Memory.wf (m.filter f) = true := by
  induction m with
  | nil => rfl
  | cons p q ih =>
    obtain ⟨j, c⟩ := p
    obtain ⟨hc, ha, hq⟩ := Memory.wf_cons.1 h
    rw [List.filter_cons]
    split
    · exact Memory.wf_cons.2 ⟨hc, Memory.above_filter f ha hq, ih hq⟩
    · exact ih hq

theorem scrub_wf (lo hi : Nat) {m : List Host.Cell} (h : Memory.wf m = true) : Memory.wf (scrub lo hi m) = true := Memory.wf_filter _ h

/-- What a performed write leaves in memory: the bytes written; the management window takes none, nor does host memory over a link in error. -/
theorem State.write_mem (s : State) (pa n v : Nat) :
    (s.write pa n v).mem = if region pa = 3 ∨ (region pa = 2 ∧ s.boot.linkErr) then s.mem else writeNat s.mem pa v n := by
  have mend (t : State) : (t.mend pa n).mem = t.mem := by unfold State.mend; split <;> rfl
  have fen (t : State) : (t.fenWritten pa n).mem = t.mem := by unfold State.fenWritten State.fenAdd; dsimp only; split <;> (try split) <;> rfl
  unfold State.write
  split
  · rfl
  · rw [mend]
    dsimp only
    split
    · rw [fen]
    · rfl

/-- A performed write keeps the canonical form. -/
theorem State.write_wf (s : State) (pa n v : Nat) (h : Memory.wf s.mem = true) : Memory.wf (s.write pa n v).mem = true := by
  rw [State.write_mem]
  split
  · exact h
  · exact writeNat_wf _ _ _ h

/-- Performing late writes keeps the canonical form. -/
theorem State.settleFirst_wf (s : State) (k : Nat) (h : Memory.wf s.mem = true) : Memory.wf (s.settleFirst k).mem = true := by
  have go (l : List Late) (t : State) (ht : Memory.wf t.mem = true) :
      Memory.wf (l.foldl (fun t e => t.write e.st.pa e.st.n (e.st.data.toNat % 256 ^ e.st.n)) t).mem = true := by
    induction l generalizing t with
    | nil => exact ht
    | cons e r ih => exact ih _ (State.write_wf _ _ _ _ ht)
  exact go _ _ h

theorem State.settle_wf (s : State) (pa n : Nat) (h : Memory.wf s.mem = true) : Memory.wf (s.settle pa n).mem = true := State.settleFirst_wf _ _ h

/-- A store by the state keeps the canonical form. -/
theorem State.store_wf (s : State) (pa n v : Nat) (h : Memory.wf s.mem = true) : Memory.wf (s.store pa n v).mem = true :=
  State.write_wf _ _ _ _ (State.settle_wf _ _ _ h)

/-- Where no write is late, there is nothing to perform first. -/
theorem State.settle_of_none (s : State) (pa n : Nat) (h : s.late = []) : s.settle pa n = s := by
  cases s
  cases h
  rfl

/-- Bytes outside a store are as they were, where no write is late. -/
theorem State.store_other (s : State) (pa n v : Nat) {i : Nat} (hl : s.late = []) (h : i < pa ∨ pa + n ≤ i) :
    readByte (s.store pa n v).mem i = readByte s.mem i := by
  rw [State.store, State.settle_of_none s pa n hl, State.write_mem]
  split
  · rfl
  · exact readByte_writeNat_other _ _ _ h

/-- Memory is in canonical form at reset. -/
theorem State.reset_mem_wf : Memory.wf State.reset.mem = true := rfl

end Sys2Proof.Machine
end

