-- ==== Sys2Proof/Laws/PerInstr.lean ====
section
/-! SUPPORT. Family F, one lemma per constructor: the word of a slot word has an opcode that its slot assigns, and its slot's decoder reads the word as the
instruction (of the rows that share a word, as the first); a routine word's encoding is read as the routine word; a row of the device has no word. -/

namespace Sys2Proof.Laws.F

open Sys2Proof

/-- A field above the low part of a word is a field of its high part. -/
theorem fld_append_hi {a b : Nat} (x : BitVec a) (y : BitVec b) (lo n : Nat) (h : b ≤ lo) : fld (x ++ y) lo n = fld x (lo - b) n := by
  ext i hi
  simp only [fld, BitVec.getElem_extractLsb', BitVec.getLsbD_append]
  rw [if_neg (by omega)]
  congr 1
  omega

/-- A field within the low part of a word is a field of that part. -/
theorem fld_append_lo {a b : Nat} (x : BitVec a) (y : BitVec b) (lo n : Nat) (h : lo + n ≤ b) : fld (x ++ y) lo n = fld y lo n := by
  ext i hi
  simp only [fld, BitVec.getElem_extractLsb', BitVec.getLsbD_append]
  rw [if_pos (by omega)]

/-- A field that is the whole word. -/
theorem fld_all {a : Nat} (x : BitVec a) : fld x 0 a = x := by
  ext i hi; simp [fld]

/-- A field with a bit set is not 0. -/
theorem fld_ne {a : Nat} (x : BitVec a) (lo n k : Nat) (h : lo ≤ k ∧ k < lo + n) (hk : x.getLsbD k = true) : fld x lo n ≠ 0#n := by
  intro hz
  have := congrArg (fun v => v.getLsbD (k - lo)) hz
  simp [fld, show k - lo < n by omega, show lo + (k - lo) = k by omega, hk] at this

/-- What is claimed of every instruction as syntax. -/
def Statement (i : Instr) : Prop :=
  (∀ w, encode i = some w → ∃ n, slotOf i = some n ∧ assigned n (fld w 26 6) = true ∧ decodeRaw n w = some (wordRow i)) ∧
  ∀ w, encodeRoutine i = some w → slotOf i = none ∧ decodeRoutine w = some i

theorem nop (t : BitVec 3) (i : BitVec 2) : Statement (.nop t i) := by
  refine ⟨fun w h => ?_, nofun⟩
  cases h
  have op : fld (0#6 ++ t ++ i ++ 0#21 : W32) 26 6 = 0#6 := by
    simp (discharger := decide) only [fld_append_hi]; rfl
  refine ⟨0, rfl, by rw [op]; rfl, ?_⟩
  simp only [decodeRaw, decodeCtl, op, BitVec.reduceToNat]
  simp (discharger := decide) only [fld_append_hi, fld_append_lo, fld_all, Nat.reduceSub]
  rfl

theorem br (t : BitVec 3) (i : BitVec 2) (o : BitVec 21) : Statement (.br t i o) := by
  refine ⟨fun w h => ?_, nofun⟩
  cases h
  have op : fld (1#6 ++ t ++ i ++ o : W32) 26 6 = 1#6 := by
    simp (discharger := decide) only [fld_append_hi]; rfl
  refine ⟨0, rfl, by rw [op]; rfl, ?_⟩
  simp only [decodeRaw, decodeCtl, op, BitVec.reduceToNat]
  simp (discharger := decide) only [fld_append_hi, fld_append_lo, fld_all, Nat.reduceSub]
  rfl

theorem brt (t : BitVec 3) (i : BitVec 2) (n : BitVec 3) : Statement (.brt t i n) := by
  refine ⟨fun w h => ?_, nofun⟩
  cases h
  have op : fld (2#6 ++ t ++ i ++ n ++ 0#18 : W32) 26 6 = 2#6 := by
    simp (discharger := decide) only [fld_append_hi]; rfl
  refine ⟨0, rfl, by rw [op]; rfl, ?_⟩
  simp only [decodeRaw, decodeCtl, op, BitVec.reduceToNat]
  simp (discharger := decide) only [fld_append_hi, fld_append_lo, fld_all, Nat.reduceSub]
  rfl

theorem mbr (t : BitVec 3) (i : BitVec 2) (b : BitVec 3) : Statement (.mbr t i b) := by
  refine ⟨fun w h => ?_, nofun⟩
  cases h
  have op : fld (3#6 ++ t ++ i ++ b ++ 0#18 : W32) 26 6 = 3#6 := by
    simp (discharger := decide) only [fld_append_hi]; rfl
  refine ⟨0, rfl, by rw [op]; rfl, ?_⟩
  simp only [decodeRaw, decodeCtl, op, BitVec.reduceToNat]
  simp (discharger := decide) only [fld_append_hi, fld_append_lo, fld_all, Nat.reduceSub]
  rfl

theorem call (t : BitVec 3) (i : BitVec 2) (o : BitVec 21) : Statement (.call t i o) := by
  refine ⟨fun w h => ?_, nofun⟩
  cases h
  have op : fld (4#6 ++ t ++ i ++ o : W32) 26 6 = 4#6 := by
    simp (discharger := decide) only [fld_append_hi]; rfl
  refine ⟨0, rfl, by rw [op]; rfl, ?_⟩
  simp only [decodeRaw, decodeCtl, op, BitVec.reduceToNat]
  simp (discharger := decide) only [fld_append_hi, fld_append_lo, fld_all, Nat.reduceSub]
  rfl

theorem ret (t : BitVec 3) (i : BitVec 2) : Statement (.ret t i) := by
  refine ⟨fun w h => ?_, nofun⟩
  cases h
  have op : fld (5#6 ++ t ++ i ++ 0#21 : W32) 26 6 = 5#6 := by
    simp (discharger := decide) only [fld_append_hi]; rfl
  refine ⟨0, rfl, by rw [op]; rfl, ?_⟩
  simp only [decodeRaw, decodeCtl, op, BitVec.reduceToNat]
  simp (discharger := decide) only [fld_append_hi, fld_append_lo, fld_all, Nat.reduceSub]
  rfl

theorem loopReg (t : BitVec 3) (i : BitVec 2) (n : BitVec 3) (c : BitVec 5) (e : BitVec 12) : Statement (.loopReg t i n c e) := by
  refine ⟨fun w h => ?_, nofun⟩
  cases h
  have op : fld (6#6 ++ t ++ i ++ n ++ 0#1 ++ c ++ e : W32) 26 6 = 6#6 := by
    simp (discharger := decide) only [fld_append_hi]; rfl
  refine ⟨0, rfl, by rw [op]; rfl, ?_⟩
  simp only [decodeRaw, decodeCtl, op, BitVec.reduceToNat]
  simp (discharger := decide) only [fld_append_hi, fld_append_lo, fld_all, Nat.reduceSub]
  rfl

theorem loopImm (t : BitVec 3) (i : BitVec 2) (n : BitVec 3) (c : BitVec 5) (e : BitVec 12) : Statement (.loopImm t i n c e) := by
  refine ⟨fun w h => ?_, nofun⟩
  cases h
  have op : fld (6#6 ++ t ++ i ++ n ++ 1#1 ++ c ++ e : W32) 26 6 = 6#6 := by
    simp (discharger := decide) only [fld_append_hi]; rfl
  refine ⟨0, rfl, by rw [op]; rfl, ?_⟩
  simp only [decodeRaw, decodeCtl, op, BitVec.reduceToNat]
  simp (discharger := decide) only [fld_append_hi, fld_append_lo, fld_all, Nat.reduceSub]
  rfl

theorem lbrk (t : BitVec 3) (i : BitVec 2) (n : BitVec 3) : Statement (.lbrk t i n) := by
  refine ⟨fun w h => ?_, nofun⟩
  cases h
  have op : fld (7#6 ++ t ++ i ++ n ++ 0#18 : W32) 26 6 = 7#6 := by
    simp (discharger := decide) only [fld_append_hi]; rfl
  refine ⟨0, rfl, by rw [op]; rfl, ?_⟩
  simp only [decodeRaw, decodeCtl, op, BitVec.reduceToNat]
  simp (discharger := decide) only [fld_append_hi, fld_append_lo, fld_all, Nat.reduceSub]
  rfl

theorem tgsetLabel (t : BitVec 3) (i : BitVec 2) (n : BitVec 3) (o : BitVec 17) : Statement (.tgsetLabel t i n o) := by
  refine ⟨fun w h => ?_, nofun⟩
  cases h
  have op : fld (8#6 ++ t ++ i ++ n ++ 0#1 ++ o : W32) 26 6 = 8#6 := by
    simp (discharger := decide) only [fld_append_hi]; rfl
  refine ⟨0, rfl, by rw [op]; rfl, ?_⟩
  simp only [decodeRaw, decodeCtl, op, BitVec.reduceToNat]
  simp (discharger := decide) only [fld_append_hi, fld_append_lo, fld_all, Nat.reduceSub]
  rfl

theorem tgsetReg (t : BitVec 3) (i : BitVec 2) (n : BitVec 3) (a : BitVec 5) : Statement (.tgsetReg t i n a) := by
  refine ⟨fun w h => ?_, nofun⟩
  cases h
  have op : fld (8#6 ++ t ++ i ++ n ++ 1#1 ++ a ++ 0#12 : W32) 26 6 = 8#6 := by
    simp (discharger := decide) only [fld_append_hi]; rfl
  refine ⟨0, rfl, by rw [op]; rfl, ?_⟩
  simp only [decodeRaw, decodeCtl, op, BitVec.reduceToNat]
  simp (discharger := decide) only [fld_append_hi, fld_append_lo, fld_all, Nat.reduceSub]
  rfl

theorem idle (t : BitVec 3) (i : BitVec 2) (m : BitVec 16) : Statement (.idle t i m) := by
  refine ⟨fun w h => ?_, nofun⟩
  cases h
  have op : fld (9#6 ++ t ++ i ++ 0#5 ++ m : W32) 26 6 = 9#6 := by
    simp (discharger := decide) only [fld_append_hi]; rfl
  refine ⟨0, rfl, by rw [op]; rfl, ?_⟩
  simp only [decodeRaw, decodeCtl, op, BitVec.reduceToNat]
  simp (discharger := decide) only [fld_append_hi, fld_append_lo, fld_all, Nat.reduceSub]
  rfl

theorem cqclr (t : BitVec 3) (i : BitVec 2) : Statement (.cqclr t i) := by
  refine ⟨fun w h => ?_, nofun⟩
  cases h
  have op : fld (10#6 ++ t ++ i ++ 0#21 : W32) 26 6 = 10#6 := by
    simp (discharger := decide) only [fld_append_hi]; rfl
  refine ⟨0, rfl, by rw [op]; rfl, ?_⟩
  simp only [decodeRaw, decodeCtl, op, BitVec.reduceToNat]
  simp (discharger := decide) only [fld_append_hi, fld_append_lo, fld_all, Nat.reduceSub]
  rfl

theorem wfe (t : BitVec 3) (i : BitVec 2) : Statement (.wfe t i) := by
  refine ⟨fun w h => ?_, nofun⟩
  cases h
  have op : fld (11#6 ++ t ++ i ++ 0#21 : W32) 26 6 = 11#6 := by
    simp (discharger := decide) only [fld_append_hi]; rfl
  refine ⟨0, rfl, by rw [op]; rfl, ?_⟩
  simp only [decodeRaw, decodeCtl, op, BitVec.reduceToNat]
  simp (discharger := decide) only [fld_append_hi, fld_append_lo, fld_all, Nat.reduceSub]
  rfl

theorem sev (t : BitVec 3) (i : BitVec 2) (m : BitVec 4) : Statement (.sev t i m) := by
  refine ⟨fun w h => ?_, nofun⟩
  cases h
  have op : fld (12#6 ++ t ++ i ++ 0#17 ++ m : W32) 26 6 = 12#6 := by
    simp (discharger := decide) only [fld_append_hi]; rfl
  refine ⟨0, rfl, by rw [op]; rfl, ?_⟩
  simp only [decodeRaw, decodeCtl, op, BitVec.reduceToNat]
  simp (discharger := decide) only [fld_append_hi, fld_append_lo, fld_all, Nat.reduceSub]
  rfl

theorem yield (t : BitVec 3) (i : BitVec 2) : Statement (.yield t i) := by
  refine ⟨fun w h => ?_, nofun⟩
  cases h
  have op : fld (13#6 ++ t ++ i ++ 0#21 : W32) 26 6 = 13#6 := by
    simp (discharger := decide) only [fld_append_hi]; rfl
  refine ⟨0, rfl, by rw [op]; rfl, ?_⟩
  simp only [decodeRaw, decodeCtl, op, BitVec.reduceToNat]
  simp (discharger := decide) only [fld_append_hi, fld_append_lo, fld_all, Nat.reduceSub]
  rfl

theorem launch (t : BitVec 3) (i : BitVec 2) (d : BitVec 5) (a : BitVec 5) : Statement (.launch t i d a) := by
  refine ⟨fun w h => ?_, nofun⟩
  cases h
  have op : fld (14#6 ++ t ++ i ++ d ++ a ++ 0#11 : W32) 26 6 = 14#6 := by
    simp (discharger := decide) only [fld_append_hi]; rfl
  refine ⟨0, rfl, by rw [op]; rfl, ?_⟩
  simp only [decodeRaw, decodeCtl, op, BitVec.reduceToNat]
  simp (discharger := decide) only [fld_append_hi, fld_append_lo, fld_all, Nat.reduceSub]
  rfl

theorem retire (t : BitVec 3) (i : BitVec 2) : Statement (.retire t i) := by
  refine ⟨fun w h => ?_, nofun⟩
  cases h
  have op : fld (15#6 ++ t ++ i ++ 0#21 : W32) 26 6 = 15#6 := by
    simp (discharger := decide) only [fld_append_hi]; rfl
  refine ⟨0, rfl, by rw [op]; rfl, ?_⟩
  simp only [decodeRaw, decodeCtl, op, BitVec.reduceToNat]
  simp (discharger := decide) only [fld_append_hi, fld_append_lo, fld_all, Nat.reduceSub]
  rfl

theorem xdisp (t : BitVec 3) (i : BitVec 2) (d : BitVec 5) (a : BitVec 5) : Statement (.xdisp t i d a) := by
  refine ⟨fun w h => ?_, nofun⟩
  cases h
  have op : fld (16#6 ++ t ++ i ++ d ++ a ++ 0#11 : W32) 26 6 = 16#6 := by
    simp (discharger := decide) only [fld_append_hi]; rfl
  refine ⟨0, rfl, by rw [op]; rfl, ?_⟩
  simp only [decodeRaw, decodeCtl, op, BitVec.reduceToNat]
  simp (discharger := decide) only [fld_append_hi, fld_append_lo, fld_all, Nat.reduceSub]
  rfl

theorem trap (t : BitVec 3) (i : BitVec 2) (m : BitVec 16) : Statement (.trap t i m) := by
  refine ⟨fun w h => ?_, nofun⟩
  cases h
  have op : fld (17#6 ++ t ++ i ++ 0#5 ++ m : W32) 26 6 = 17#6 := by
    simp (discharger := decide) only [fld_append_hi]; rfl
  refine ⟨0, rfl, by rw [op]; rfl, ?_⟩
  simp only [decodeRaw, decodeCtl, op, BitVec.reduceToNat]
  simp (discharger := decide) only [fld_append_hi, fld_append_lo, fld_all, Nat.reduceSub]
  rfl

theorem eret (t : BitVec 3) (i : BitVec 2) : Statement (.eret t i) := by
  refine ⟨fun w h => ?_, nofun⟩
  cases h
  have op : fld (18#6 ++ t ++ i ++ 0#21 : W32) 26 6 = 18#6 := by
    simp (discharger := decide) only [fld_append_hi]; rfl
  refine ⟨0, rfl, by rw [op]; rfl, ?_⟩
  simp only [decodeRaw, decodeCtl, op, BitVec.reduceToNat]
  simp (discharger := decide) only [fld_append_hi, fld_append_lo, fld_all, Nat.reduceSub]
  rfl

theorem csrr (t : BitVec 3) (i : BitVec 2) (d : BitVec 5) (c : BitVec 11) : Statement (.csrr t i d c) := by
  refine ⟨fun w h => ?_, nofun⟩
  cases h
  have op : fld (19#6 ++ t ++ i ++ d ++ 0#5 ++ c : W32) 26 6 = 19#6 := by
    simp (discharger := decide) only [fld_append_hi]; rfl
  refine ⟨0, rfl, by rw [op]; rfl, ?_⟩
  simp only [decodeRaw, decodeCtl, op, BitVec.reduceToNat]
  simp (discharger := decide) only [fld_append_hi, fld_append_lo, fld_all, Nat.reduceSub]
  rfl

theorem csrw (t : BitVec 3) (i : BitVec 2) (a : BitVec 5) (c : BitVec 11) : Statement (.csrw t i a c) := by
  refine ⟨fun w h => ?_, nofun⟩
  cases h
  have op : fld (20#6 ++ t ++ i ++ 0#5 ++ a ++ c : W32) 26 6 = 20#6 := by
    simp (discharger := decide) only [fld_append_hi]; rfl
  refine ⟨0, rfl, by rw [op]; rfl, ?_⟩
  simp only [decodeRaw, decodeCtl, op, BitVec.reduceToNat]
  simp (discharger := decide) only [fld_append_hi, fld_append_lo, fld_all, Nat.reduceSub]
  rfl

theorem bkpt (t : BitVec 3) (i : BitVec 2) (m : BitVec 16) : Statement (.bkpt t i m) := by
  refine ⟨fun w h => ?_, nofun⟩
  cases h
  have op : fld (21#6 ++ t ++ i ++ 0#5 ++ m : W32) 26 6 = 21#6 := by
    simp (discharger := decide) only [fld_append_hi]; rfl
  refine ⟨0, rfl, by rw [op]; rfl, ?_⟩
  simp only [decodeRaw, decodeCtl, op, BitVec.reduceToNat]
  simp (discharger := decide) only [fld_append_hi, fld_append_lo, fld_all, Nat.reduceSub]
  rfl

theorem segld (t : BitVec 3) (i : BitVec 2) (n : BitVec 6) : Statement (.segld t i n) := by
  refine ⟨fun w h => ?_, nofun⟩
  cases h
  have op : fld (22#6 ++ t ++ i ++ 0#15 ++ n : W32) 26 6 = 22#6 := by
    simp (discharger := decide) only [fld_append_hi]; rfl
  refine ⟨0, rfl, by rw [op]; rfl, ?_⟩
  simp only [decodeRaw, decodeCtl, op, BitVec.reduceToNat]
  simp (discharger := decide) only [fld_append_hi, fld_append_lo, fld_all, Nat.reduceSub]
  rfl

theorem cancel (t : BitVec 3) (i : BitVec 2) (l : BitVec 3) (a : BitVec 5) : Statement (.cancel t i l a) := by
  refine ⟨fun w h => ?_, nofun⟩
  cases h
  have op : fld (23#6 ++ t ++ i ++ l ++ 0#2 ++ a ++ 0#11 : W32) 26 6 = 23#6 := by
    simp (discharger := decide) only [fld_append_hi]; rfl
  refine ⟨0, rfl, by rw [op]; rfl, ?_⟩
  simp only [decodeRaw, decodeCtl, op, BitVec.reduceToNat]
  simp (discharger := decide) only [fld_append_hi, fld_append_lo, fld_all, Nat.reduceSub]
  rfl

theorem add (t : BitVec 3) (i : BitVec 2) (d : BitVec 5) (a : BitVec 5) (b : BitVec 5) : Statement (.add t i d a b) := by
  refine ⟨fun w h => ?_, nofun⟩
  cases h
  have op : fld (1#6 ++ t ++ i ++ d ++ a ++ b ++ 0#6 : W32) 26 6 = 1#6 := by
    simp (discharger := decide) only [fld_append_hi]; rfl
  refine ⟨1, rfl, by rw [op]; rfl, ?_⟩
  simp only [decodeRaw, decodeSca, op, BitVec.reduceToNat]
  simp (discharger := decide) only [fld_append_hi, fld_append_lo, fld_all, Nat.reduceSub]
  rfl

theorem sub (t : BitVec 3) (i : BitVec 2) (d : BitVec 5) (a : BitVec 5) (b : BitVec 5) : Statement (.sub t i d a b) := by
  refine ⟨fun w h => ?_, nofun⟩
  cases h
  have op : fld (2#6 ++ t ++ i ++ d ++ a ++ b ++ 0#6 : W32) 26 6 = 2#6 := by
    simp (discharger := decide) only [fld_append_hi]; rfl
  refine ⟨1, rfl, by rw [op]; rfl, ?_⟩
  simp only [decodeRaw, decodeSca, op, BitVec.reduceToNat]
  simp (discharger := decide) only [fld_append_hi, fld_append_lo, fld_all, Nat.reduceSub]
  rfl

theorem mul (t : BitVec 3) (i : BitVec 2) (d : BitVec 5) (a : BitVec 5) (b : BitVec 5) : Statement (.mul t i d a b) := by
  refine ⟨fun w h => ?_, nofun⟩
  cases h
  have op : fld (3#6 ++ t ++ i ++ d ++ a ++ b ++ 0#6 : W32) 26 6 = 3#6 := by
    simp (discharger := decide) only [fld_append_hi]; rfl
  refine ⟨1, rfl, by rw [op]; rfl, ?_⟩
  simp only [decodeRaw, decodeSca, op, BitVec.reduceToNat]
  simp (discharger := decide) only [fld_append_hi, fld_append_lo, fld_all, Nat.reduceSub]
  rfl

theorem mulh (t : BitVec 3) (i : BitVec 2) (d : BitVec 5) (a : BitVec 5) (b : BitVec 5) : Statement (.mulh t i d a b) := by
  refine ⟨fun w h => ?_, nofun⟩
  cases h
  have op : fld (4#6 ++ t ++ i ++ d ++ a ++ b ++ 0#6 : W32) 26 6 = 4#6 := by
    simp (discharger := decide) only [fld_append_hi]; rfl
  refine ⟨1, rfl, by rw [op]; rfl, ?_⟩
  simp only [decodeRaw, decodeSca, op, BitVec.reduceToNat]
  simp (discharger := decide) only [fld_append_hi, fld_append_lo, fld_all, Nat.reduceSub]
  rfl

theorem mulhu (t : BitVec 3) (i : BitVec 2) (d : BitVec 5) (a : BitVec 5) (b : BitVec 5) : Statement (.mulhu t i d a b) := by
  refine ⟨fun w h => ?_, nofun⟩
  cases h
  have op : fld (5#6 ++ t ++ i ++ d ++ a ++ b ++ 0#6 : W32) 26 6 = 5#6 := by
    simp (discharger := decide) only [fld_append_hi]; rfl
  refine ⟨1, rfl, by rw [op]; rfl, ?_⟩
  simp only [decodeRaw, decodeSca, op, BitVec.reduceToNat]
  simp (discharger := decide) only [fld_append_hi, fld_append_lo, fld_all, Nat.reduceSub]
  rfl

theorem div (t : BitVec 3) (i : BitVec 2) (d : BitVec 5) (a : BitVec 5) (b : BitVec 5) : Statement (.div t i d a b) := by
  refine ⟨fun w h => ?_, nofun⟩
  cases h
  have op : fld (6#6 ++ t ++ i ++ d ++ a ++ b ++ 0#6 : W32) 26 6 = 6#6 := by
    simp (discharger := decide) only [fld_append_hi]; rfl
  refine ⟨1, rfl, by rw [op]; rfl, ?_⟩
  simp only [decodeRaw, decodeSca, op, BitVec.reduceToNat]
  simp (discharger := decide) only [fld_append_hi, fld_append_lo, fld_all, Nat.reduceSub]
  rfl

theorem divu (t : BitVec 3) (i : BitVec 2) (d : BitVec 5) (a : BitVec 5) (b : BitVec 5) : Statement (.divu t i d a b) := by
  refine ⟨fun w h => ?_, nofun⟩
  cases h
  have op : fld (7#6 ++ t ++ i ++ d ++ a ++ b ++ 0#6 : W32) 26 6 = 7#6 := by
    simp (discharger := decide) only [fld_append_hi]; rfl
  refine ⟨1, rfl, by rw [op]; rfl, ?_⟩
  simp only [decodeRaw, decodeSca, op, BitVec.reduceToNat]
  simp (discharger := decide) only [fld_append_hi, fld_append_lo, fld_all, Nat.reduceSub]
  rfl

theorem rem (t : BitVec 3) (i : BitVec 2) (d : BitVec 5) (a : BitVec 5) (b : BitVec 5) : Statement (.rem t i d a b) := by
  refine ⟨fun w h => ?_, nofun⟩
  cases h
  have op : fld (8#6 ++ t ++ i ++ d ++ a ++ b ++ 0#6 : W32) 26 6 = 8#6 := by
    simp (discharger := decide) only [fld_append_hi]; rfl
  refine ⟨1, rfl, by rw [op]; rfl, ?_⟩
  simp only [decodeRaw, decodeSca, op, BitVec.reduceToNat]
  simp (discharger := decide) only [fld_append_hi, fld_append_lo, fld_all, Nat.reduceSub]
  rfl

theorem remu (t : BitVec 3) (i : BitVec 2) (d : BitVec 5) (a : BitVec 5) (b : BitVec 5) : Statement (.remu t i d a b) := by
  refine ⟨fun w h => ?_, nofun⟩
  cases h
  have op : fld (9#6 ++ t ++ i ++ d ++ a ++ b ++ 0#6 : W32) 26 6 = 9#6 := by
    simp (discharger := decide) only [fld_append_hi]; rfl
  refine ⟨1, rfl, by rw [op]; rfl, ?_⟩
  simp only [decodeRaw, decodeSca, op, BitVec.reduceToNat]
  simp (discharger := decide) only [fld_append_hi, fld_append_lo, fld_all, Nat.reduceSub]
  rfl

theorem and (t : BitVec 3) (i : BitVec 2) (d : BitVec 5) (a : BitVec 5) (b : BitVec 5) : Statement (.and t i d a b) := by
  refine ⟨fun w h => ?_, nofun⟩
  cases h
  have op : fld (10#6 ++ t ++ i ++ d ++ a ++ b ++ 0#6 : W32) 26 6 = 10#6 := by
    simp (discharger := decide) only [fld_append_hi]; rfl
  refine ⟨1, rfl, by rw [op]; rfl, ?_⟩
  simp only [decodeRaw, decodeSca, op, BitVec.reduceToNat]
  simp (discharger := decide) only [fld_append_hi, fld_append_lo, fld_all, Nat.reduceSub]
  rfl

theorem or (t : BitVec 3) (i : BitVec 2) (d : BitVec 5) (a : BitVec 5) (b : BitVec 5) : Statement (.or t i d a b) := by
  refine ⟨fun w h => ?_, nofun⟩
  cases h
  have op : fld (11#6 ++ t ++ i ++ d ++ a ++ b ++ 0#6 : W32) 26 6 = 11#6 := by
    simp (discharger := decide) only [fld_append_hi]; rfl
  refine ⟨1, rfl, by rw [op]; rfl, ?_⟩
  simp only [decodeRaw, decodeSca, op, BitVec.reduceToNat]
  simp (discharger := decide) only [fld_append_hi, fld_append_lo, fld_all, Nat.reduceSub]
  rfl

theorem xor (t : BitVec 3) (i : BitVec 2) (d : BitVec 5) (a : BitVec 5) (b : BitVec 5) : Statement (.xor t i d a b) := by
  refine ⟨fun w h => ?_, nofun⟩
  cases h
  have op : fld (12#6 ++ t ++ i ++ d ++ a ++ b ++ 0#6 : W32) 26 6 = 12#6 := by
    simp (discharger := decide) only [fld_append_hi]; rfl
  refine ⟨1, rfl, by rw [op]; rfl, ?_⟩
  simp only [decodeRaw, decodeSca, op, BitVec.reduceToNat]
  simp (discharger := decide) only [fld_append_hi, fld_append_lo, fld_all, Nat.reduceSub]
  rfl

theorem shl (t : BitVec 3) (i : BitVec 2) (d : BitVec 5) (a : BitVec 5) (b : BitVec 5) : Statement (.shl t i d a b) := by
  refine ⟨fun w h => ?_, nofun⟩
  cases h
  have op : fld (13#6 ++ t ++ i ++ d ++ a ++ b ++ 0#6 : W32) 26 6 = 13#6 := by
    simp (discharger := decide) only [fld_append_hi]; rfl
  refine ⟨1, rfl, by rw [op]; rfl, ?_⟩
  simp only [decodeRaw, decodeSca, op, BitVec.reduceToNat]
  simp (discharger := decide) only [fld_append_hi, fld_append_lo, fld_all, Nat.reduceSub]
  rfl

theorem shr (t : BitVec 3) (i : BitVec 2) (d : BitVec 5) (a : BitVec 5) (b : BitVec 5) : Statement (.shr t i d a b) := by
  refine ⟨fun w h => ?_, nofun⟩
  cases h
  have op : fld (14#6 ++ t ++ i ++ d ++ a ++ b ++ 0#6 : W32) 26 6 = 14#6 := by
    simp (discharger := decide) only [fld_append_hi]; rfl
  refine ⟨1, rfl, by rw [op]; rfl, ?_⟩
  simp only [decodeRaw, decodeSca, op, BitVec.reduceToNat]
  simp (discharger := decide) only [fld_append_hi, fld_append_lo, fld_all, Nat.reduceSub]
  rfl

theorem sar (t : BitVec 3) (i : BitVec 2) (d : BitVec 5) (a : BitVec 5) (b : BitVec 5) : Statement (.sar t i d a b) := by
  refine ⟨fun w h => ?_, nofun⟩
  cases h
  have op : fld (15#6 ++ t ++ i ++ d ++ a ++ b ++ 0#6 : W32) 26 6 = 15#6 := by
    simp (discharger := decide) only [fld_append_hi]; rfl
  refine ⟨1, rfl, by rw [op]; rfl, ?_⟩
  simp only [decodeRaw, decodeSca, op, BitVec.reduceToNat]
  simp (discharger := decide) only [fld_append_hi, fld_append_lo, fld_all, Nat.reduceSub]
  rfl

theorem rot (t : BitVec 3) (i : BitVec 2) (d : BitVec 5) (a : BitVec 5) (b : BitVec 5) : Statement (.rot t i d a b) := by
  refine ⟨fun w h => ?_, nofun⟩
  cases h
  have op : fld (16#6 ++ t ++ i ++ d ++ a ++ b ++ 0#6 : W32) 26 6 = 16#6 := by
    simp (discharger := decide) only [fld_append_hi]; rfl
  refine ⟨1, rfl, by rw [op]; rfl, ?_⟩
  simp only [decodeRaw, decodeSca, op, BitVec.reduceToNat]
  simp (discharger := decide) only [fld_append_hi, fld_append_lo, fld_all, Nat.reduceSub]
  rfl

theorem min (t : BitVec 3) (i : BitVec 2) (d : BitVec 5) (a : BitVec 5) (b : BitVec 5) : Statement (.min t i d a b) := by
  refine ⟨fun w h => ?_, nofun⟩
  cases h
  have op : fld (17#6 ++ t ++ i ++ d ++ a ++ b ++ 0#6 : W32) 26 6 = 17#6 := by
    simp (discharger := decide) only [fld_append_hi]; rfl
  refine ⟨1, rfl, by rw [op]; rfl, ?_⟩
  simp only [decodeRaw, decodeSca, op, BitVec.reduceToNat]
  simp (discharger := decide) only [fld_append_hi, fld_append_lo, fld_all, Nat.reduceSub]
  rfl

theorem max (t : BitVec 3) (i : BitVec 2) (d : BitVec 5) (a : BitVec 5) (b : BitVec 5) : Statement (.max t i d a b) := by
  refine ⟨fun w h => ?_, nofun⟩
  cases h
  have op : fld (18#6 ++ t ++ i ++ d ++ a ++ b ++ 0#6 : W32) 26 6 = 18#6 := by
    simp (discharger := decide) only [fld_append_hi]; rfl
  refine ⟨1, rfl, by rw [op]; rfl, ?_⟩
  simp only [decodeRaw, decodeSca, op, BitVec.reduceToNat]
  simp (discharger := decide) only [fld_append_hi, fld_append_lo, fld_all, Nat.reduceSub]
  rfl

theorem minu (t : BitVec 3) (i : BitVec 2) (d : BitVec 5) (a : BitVec 5) (b : BitVec 5) : Statement (.minu t i d a b) := by
  refine ⟨fun w h => ?_, nofun⟩
  cases h
  have op : fld (19#6 ++ t ++ i ++ d ++ a ++ b ++ 0#6 : W32) 26 6 = 19#6 := by
    simp (discharger := decide) only [fld_append_hi]; rfl
  refine ⟨1, rfl, by rw [op]; rfl, ?_⟩
  simp only [decodeRaw, decodeSca, op, BitVec.reduceToNat]
  simp (discharger := decide) only [fld_append_hi, fld_append_lo, fld_all, Nat.reduceSub]
  rfl

theorem maxu (t : BitVec 3) (i : BitVec 2) (d : BitVec 5) (a : BitVec 5) (b : BitVec 5) : Statement (.maxu t i d a b) := by
  refine ⟨fun w h => ?_, nofun⟩
  cases h
  have op : fld (20#6 ++ t ++ i ++ d ++ a ++ b ++ 0#6 : W32) 26 6 = 20#6 := by
    simp (discharger := decide) only [fld_append_hi]; rfl
  refine ⟨1, rfl, by rw [op]; rfl, ?_⟩
  simp only [decodeRaw, decodeSca, op, BitVec.reduceToNat]
  simp (discharger := decide) only [fld_append_hi, fld_append_lo, fld_all, Nat.reduceSub]
  rfl

theorem clz (t : BitVec 3) (i : BitVec 2) (d : BitVec 5) (a : BitVec 5) : Statement (.clz t i d a) := by
  refine ⟨fun w h => ?_, nofun⟩
  cases h
  have op : fld (21#6 ++ t ++ i ++ d ++ a ++ 0#11 : W32) 26 6 = 21#6 := by
    simp (discharger := decide) only [fld_append_hi]; rfl
  refine ⟨1, rfl, by rw [op]; rfl, ?_⟩
  simp only [decodeRaw, decodeSca, op, BitVec.reduceToNat]
  simp (discharger := decide) only [fld_append_hi, fld_append_lo, fld_all, Nat.reduceSub]
  rfl

theorem ctz (t : BitVec 3) (i : BitVec 2) (d : BitVec 5) (a : BitVec 5) : Statement (.ctz t i d a) := by
  refine ⟨fun w h => ?_, nofun⟩
  cases h
  have op : fld (22#6 ++ t ++ i ++ d ++ a ++ 0#11 : W32) 26 6 = 22#6 := by
    simp (discharger := decide) only [fld_append_hi]; rfl
  refine ⟨1, rfl, by rw [op]; rfl, ?_⟩
  simp only [decodeRaw, decodeSca, op, BitVec.reduceToNat]
  simp (discharger := decide) only [fld_append_hi, fld_append_lo, fld_all, Nat.reduceSub]
  rfl

theorem popc (t : BitVec 3) (i : BitVec 2) (d : BitVec 5) (a : BitVec 5) : Statement (.popc t i d a) := by
  refine ⟨fun w h => ?_, nofun⟩
  cases h
  have op : fld (23#6 ++ t ++ i ++ d ++ a ++ 0#11 : W32) 26 6 = 23#6 := by
    simp (discharger := decide) only [fld_append_hi]; rfl
  refine ⟨1, rfl, by rw [op]; rfl, ?_⟩
  simp only [decodeRaw, decodeSca, op, BitVec.reduceToNat]
  simp (discharger := decide) only [fld_append_hi, fld_append_lo, fld_all, Nat.reduceSub]
  rfl

theorem sext (t : BitVec 3) (i : BitVec 2) (d : BitVec 5) (a : BitVec 5) (w : BitVec 2) : Statement (.sext t i d a w) := by
  refine ⟨fun w h => ?_, nofun⟩
  cases h
  have op : fld (24#6 ++ t ++ i ++ d ++ a ++ 0#9 ++ w : W32) 26 6 = 24#6 := by
    simp (discharger := decide) only [fld_append_hi]; rfl
  refine ⟨1, rfl, by rw [op]; rfl, ?_⟩
  simp only [decodeRaw, decodeSca, op, BitVec.reduceToNat]
  simp (discharger := decide) only [fld_append_hi, fld_append_lo, fld_all, Nat.reduceSub]
  rfl

theorem zext (t : BitVec 3) (i : BitVec 2) (d : BitVec 5) (a : BitVec 5) (w : BitVec 2) : Statement (.zext t i d a w) := by
  refine ⟨fun w h => ?_, nofun⟩
  cases h
  have op : fld (25#6 ++ t ++ i ++ d ++ a ++ 0#9 ++ w : W32) 26 6 = 25#6 := by
    simp (discharger := decide) only [fld_append_hi]; rfl
  refine ⟨1, rfl, by rw [op]; rfl, ?_⟩
  simp only [decodeRaw, decodeSca, op, BitVec.reduceToNat]
  simp (discharger := decide) only [fld_append_hi, fld_append_lo, fld_all, Nat.reduceSub]
  rfl

theorem addi (t : BitVec 3) (i : BitVec 2) (d : BitVec 5) (a : BitVec 5) (m : BitVec 11) : Statement (.addi t i d a m) := by
  refine ⟨fun w h => ?_, nofun⟩
  cases h
  have op : fld (26#6 ++ t ++ i ++ d ++ a ++ m : W32) 26 6 = 26#6 := by
    simp (discharger := decide) only [fld_append_hi]; rfl
  refine ⟨1, rfl, by rw [op]; rfl, ?_⟩
  simp only [decodeRaw, decodeSca, op, BitVec.reduceToNat]
  simp (discharger := decide) only [fld_append_hi, fld_append_lo, fld_all, Nat.reduceSub]
  rfl

theorem andi (t : BitVec 3) (i : BitVec 2) (d : BitVec 5) (a : BitVec 5) (m : BitVec 11) : Statement (.andi t i d a m) := by
  refine ⟨fun w h => ?_, nofun⟩
  cases h
  have op : fld (27#6 ++ t ++ i ++ d ++ a ++ m : W32) 26 6 = 27#6 := by
    simp (discharger := decide) only [fld_append_hi]; rfl
  refine ⟨1, rfl, by rw [op]; rfl, ?_⟩
  simp only [decodeRaw, decodeSca, op, BitVec.reduceToNat]
  simp (discharger := decide) only [fld_append_hi, fld_append_lo, fld_all, Nat.reduceSub]
  rfl

theorem ori (t : BitVec 3) (i : BitVec 2) (d : BitVec 5) (a : BitVec 5) (m : BitVec 11) : Statement (.ori t i d a m) := by
  refine ⟨fun w h => ?_, nofun⟩
  cases h
  have op : fld (28#6 ++ t ++ i ++ d ++ a ++ m : W32) 26 6 = 28#6 := by
    simp (discharger := decide) only [fld_append_hi]; rfl
  refine ⟨1, rfl, by rw [op]; rfl, ?_⟩
  simp only [decodeRaw, decodeSca, op, BitVec.reduceToNat]
  simp (discharger := decide) only [fld_append_hi, fld_append_lo, fld_all, Nat.reduceSub]
  rfl

theorem xori (t : BitVec 3) (i : BitVec 2) (d : BitVec 5) (a : BitVec 5) (m : BitVec 11) : Statement (.xori t i d a m) := by
  refine ⟨fun w h => ?_, nofun⟩
  cases h
  have op : fld (29#6 ++ t ++ i ++ d ++ a ++ m : W32) 26 6 = 29#6 := by
    simp (discharger := decide) only [fld_append_hi]; rfl
  refine ⟨1, rfl, by rw [op]; rfl, ?_⟩
  simp only [decodeRaw, decodeSca, op, BitVec.reduceToNat]
  simp (discharger := decide) only [fld_append_hi, fld_append_lo, fld_all, Nat.reduceSub]
  rfl

theorem shli (t : BitVec 3) (i : BitVec 2) (d : BitVec 5) (a : BitVec 5) (s : BitVec 6) : Statement (.shli t i d a s) := by
  refine ⟨fun w h => ?_, nofun⟩
  cases h
  have op : fld (30#6 ++ t ++ i ++ d ++ a ++ 0#5 ++ s : W32) 26 6 = 30#6 := by
    simp (discharger := decide) only [fld_append_hi]; rfl
  refine ⟨1, rfl, by rw [op]; rfl, ?_⟩
  simp only [decodeRaw, decodeSca, op, BitVec.reduceToNat]
  simp (discharger := decide) only [fld_append_hi, fld_append_lo, fld_all, Nat.reduceSub]
  rfl

theorem shri (t : BitVec 3) (i : BitVec 2) (d : BitVec 5) (a : BitVec 5) (s : BitVec 6) : Statement (.shri t i d a s) := by
  refine ⟨fun w h => ?_, nofun⟩
  cases h
  have op : fld (31#6 ++ t ++ i ++ d ++ a ++ 0#5 ++ s : W32) 26 6 = 31#6 := by
    simp (discharger := decide) only [fld_append_hi]; rfl
  refine ⟨1, rfl, by rw [op]; rfl, ?_⟩
  simp only [decodeRaw, decodeSca, op, BitVec.reduceToNat]
  simp (discharger := decide) only [fld_append_hi, fld_append_lo, fld_all, Nat.reduceSub]
  rfl

theorem sari (t : BitVec 3) (i : BitVec 2) (d : BitVec 5) (a : BitVec 5) (s : BitVec 6) : Statement (.sari t i d a s) := by
  refine ⟨fun w h => ?_, nofun⟩
  cases h
  have op : fld (32#6 ++ t ++ i ++ d ++ a ++ 0#5 ++ s : W32) 26 6 = 32#6 := by
    simp (discharger := decide) only [fld_append_hi]; rfl
  refine ⟨1, rfl, by rw [op]; rfl, ?_⟩
  simp only [decodeRaw, decodeSca, op, BitVec.reduceToNat]
  simp (discharger := decide) only [fld_append_hi, fld_append_lo, fld_all, Nat.reduceSub]
  rfl

theorem li (t : BitVec 3) (i : BitVec 2) (d : BitVec 5) (m : BitVec 16) : Statement (.li t i d m) := by
  refine ⟨fun w h => ?_, nofun⟩
  cases h
  have op : fld (33#6 ++ t ++ i ++ d ++ m : W32) 26 6 = 33#6 := by
    simp (discharger := decide) only [fld_append_hi]; rfl
  refine ⟨1, rfl, by rw [op]; rfl, ?_⟩
  simp only [decodeRaw, decodeSca, op, BitVec.reduceToNat]
  simp (discharger := decide) only [fld_append_hi, fld_append_lo, fld_all, Nat.reduceSub]
  rfl

theorem lih (t : BitVec 3) (i : BitVec 2) (d : BitVec 5) (m : BitVec 16) : Statement (.lih t i d m) := by
  refine ⟨fun w h => ?_, nofun⟩
  cases h
  have op : fld (34#6 ++ t ++ i ++ d ++ m : W32) 26 6 = 34#6 := by
    simp (discharger := decide) only [fld_append_hi]; rfl
  refine ⟨1, rfl, by rw [op]; rfl, ?_⟩
  simp only [decodeRaw, decodeSca, op, BitVec.reduceToNat]
  simp (discharger := decide) only [fld_append_hi, fld_append_lo, fld_all, Nat.reduceSub]
  rfl

theorem cmp (t : BitVec 3) (i : BitVec 2) (a : BitVec 5) (b : BitVec 5) (c : BitVec 4) : Statement (.cmp t i a b c) := by
  refine ⟨fun w h => ?_, nofun⟩
  cases h
  have op : fld (35#6 ++ t ++ i ++ 0#5 ++ a ++ b ++ 0#2 ++ c : W32) 26 6 = 35#6 := by
    simp (discharger := decide) only [fld_append_hi]; rfl
  refine ⟨1, rfl, by rw [op]; rfl, ?_⟩
  simp only [decodeRaw, decodeSca, op, BitVec.reduceToNat]
  simp (discharger := decide) only [fld_append_hi, fld_append_lo, fld_all, Nat.reduceSub]
  rfl

theorem cmpi (t : BitVec 3) (i : BitVec 2) (c : BitVec 5) (a : BitVec 5) (m : BitVec 11) : Statement (.cmpi t i c a m) := by
  refine ⟨fun w h => ?_, nofun⟩
  cases h
  have op : fld (36#6 ++ t ++ i ++ c ++ a ++ m : W32) 26 6 = 36#6 := by
    simp (discharger := decide) only [fld_append_hi]; rfl
  refine ⟨1, rfl, by rw [op]; rfl, ?_⟩
  simp only [decodeRaw, decodeSca, op, BitVec.reduceToNat]
  simp (discharger := decide) only [fld_append_hi, fld_append_lo, fld_all, Nat.reduceSub]
  rfl

theorem sel (t : BitVec 3) (i : BitVec 2) (d : BitVec 5) (a : BitVec 5) (b : BitVec 5) (c : BitVec 5) : Statement (.sel t i d a b c) := by
  refine ⟨fun w h => ?_, nofun⟩
  cases h
  have op : fld (37#6 ++ t ++ i ++ d ++ a ++ b ++ 0#1 ++ c : W32) 26 6 = 37#6 := by
    simp (discharger := decide) only [fld_append_hi]; rfl
  refine ⟨1, rfl, by rw [op]; rfl, ?_⟩
  simp only [decodeRaw, decodeSca, op, BitVec.reduceToNat]
  simp (discharger := decide) only [fld_append_hi, fld_append_lo, fld_all, Nat.reduceSub]
  rfl

theorem agset (t : BitVec 3) (i : BitVec 2) (n : BitVec 3) (a : BitVec 5) (f : BitVec 3) : Statement (.agset t i n a f) := by
  refine ⟨fun w h => ?_, nofun⟩
  cases h
  have op : fld (38#6 ++ t ++ i ++ 0#2 ++ n ++ a ++ 0#8 ++ f : W32) 26 6 = 38#6 := by
    simp (discharger := decide) only [fld_append_hi]; rfl
  refine ⟨1, rfl, by rw [op]; rfl, ?_⟩
  simp only [decodeRaw, decodeSca, op, BitVec.reduceToNat]
  simp (discharger := decide) only [fld_append_hi, fld_append_lo, fld_all, Nat.reduceSub]
  rfl

theorem agstep (t : BitVec 3) (i : BitVec 2) (n : BitVec 3) (a : BitVec 5) : Statement (.agstep t i n a) := by
  refine ⟨fun w h => ?_, nofun⟩
  cases h
  have op : fld (39#6 ++ t ++ i ++ 0#2 ++ n ++ a ++ 0#11 : W32) 26 6 = 39#6 := by
    simp (discharger := decide) only [fld_append_hi]; rfl
  refine ⟨1, rfl, by rw [op]; rfl, ?_⟩
  simp only [decodeRaw, decodeSca, op, BitVec.reduceToNat]
  simp (discharger := decide) only [fld_append_hi, fld_append_lo, fld_all, Nat.reduceSub]
  rfl

theorem agrd (t : BitVec 3) (i : BitVec 2) (d : BitVec 5) (n : BitVec 3) (f : BitVec 3) : Statement (.agrd t i d n f) := by
  refine ⟨fun w h => ?_, nofun⟩
  cases h
  have op : fld (40#6 ++ t ++ i ++ d ++ 0#2 ++ n ++ 0#8 ++ f : W32) 26 6 = 40#6 := by
    simp (discharger := decide) only [fld_append_hi]; rfl
  refine ⟨1, rfl, by rw [op]; rfl, ?_⟩
  simp only [decodeRaw, decodeSca, op, BitVec.reduceToNat]
  simp (discharger := decide) only [fld_append_hi, fld_append_lo, fld_all, Nat.reduceSub]
  rfl

theorem cqpush (t : BitVec 3) (i : BitVec 2) (a : BitVec 5) : Statement (.cqpush t i a) := by
  refine ⟨fun w h => ?_, nofun⟩
  cases h
  have op : fld (41#6 ++ t ++ i ++ 0#5 ++ a ++ 0#11 : W32) 26 6 = 41#6 := by
    simp (discharger := decide) only [fld_append_hi]; rfl
  refine ⟨1, rfl, by rw [op]; rfl, ?_⟩
  simp only [decodeRaw, decodeSca, op, BitVec.reduceToNat]
  simp (discharger := decide) only [fld_append_hi, fld_append_lo, fld_all, Nat.reduceSub]
  rfl

theorem vaddVa (t : BitVec 3) (i : BitVec 2) (d : BitVec 5) (a : BitVec 5) (b : BitVec 5) (h : BitVec 2) (k : BitVec 3) (l : BitVec 1) : Statement (.vaddVa t i d a b h k l) := by
  refine ⟨fun w h => ?_, nofun⟩
  cases h
  have op : fld (1#6 ++ t ++ i ++ d ++ a ++ b ++ h ++ k ++ l : W32) 26 6 = 1#6 := by
    simp (discharger := decide) only [fld_append_hi]; rfl
  refine ⟨2, rfl, by rw [op]; rfl, ?_⟩
  simp only [decodeRaw, decodeVa, op, BitVec.reduceToNat]
  simp (discharger := decide) only [fld_append_hi, fld_append_lo, fld_all, Nat.reduceSub]
  rfl

theorem vsubVa (t : BitVec 3) (i : BitVec 2) (d : BitVec 5) (a : BitVec 5) (b : BitVec 5) (h : BitVec 2) (k : BitVec 3) (l : BitVec 1) : Statement (.vsubVa t i d a b h k l) := by
  refine ⟨fun w h => ?_, nofun⟩
  cases h
  have op : fld (2#6 ++ t ++ i ++ d ++ a ++ b ++ h ++ k ++ l : W32) 26 6 = 2#6 := by
    simp (discharger := decide) only [fld_append_hi]; rfl
  refine ⟨2, rfl, by rw [op]; rfl, ?_⟩
  simp only [decodeRaw, decodeVa, op, BitVec.reduceToNat]
  simp (discharger := decide) only [fld_append_hi, fld_append_lo, fld_all, Nat.reduceSub]
  rfl

theorem vmulVa (t : BitVec 3) (i : BitVec 2) (d : BitVec 5) (a : BitVec 5) (b : BitVec 5) (h : BitVec 2) (k : BitVec 3) (l : BitVec 1) : Statement (.vmulVa t i d a b h k l) := by
  refine ⟨fun w h => ?_, nofun⟩
  cases h
  have op : fld (3#6 ++ t ++ i ++ d ++ a ++ b ++ h ++ k ++ l : W32) 26 6 = 3#6 := by
    simp (discharger := decide) only [fld_append_hi]; rfl
  refine ⟨2, rfl, by rw [op]; rfl, ?_⟩
  simp only [decodeRaw, decodeVa, op, BitVec.reduceToNat]
  simp (discharger := decide) only [fld_append_hi, fld_append_lo, fld_all, Nat.reduceSub]
  rfl

theorem vfmaVa (t : BitVec 3) (i : BitVec 2) (d : BitVec 5) (a : BitVec 5) (b : BitVec 5) (h : BitVec 2) (k : BitVec 3) (l : BitVec 1) : Statement (.vfmaVa t i d a b h k l) := by
  refine ⟨fun w h => ?_, nofun⟩
  cases h
  have op : fld (4#6 ++ t ++ i ++ d ++ a ++ b ++ h ++ k ++ l : W32) 26 6 = 4#6 := by
    simp (discharger := decide) only [fld_append_hi]; rfl
  refine ⟨2, rfl, by rw [op]; rfl, ?_⟩
  simp only [decodeRaw, decodeVa, op, BitVec.reduceToNat]
  simp (discharger := decide) only [fld_append_hi, fld_append_lo, fld_all, Nat.reduceSub]
  rfl

theorem vfms (t : BitVec 3) (i : BitVec 2) (d : BitVec 5) (a : BitVec 5) (b : BitVec 5) (h : BitVec 2) (k : BitVec 3) (l : BitVec 1) : Statement (.vfms t i d a b h k l) := by
  refine ⟨fun w h => ?_, nofun⟩
  cases h
  have op : fld (5#6 ++ t ++ i ++ d ++ a ++ b ++ h ++ k ++ l : W32) 26 6 = 5#6 := by
    simp (discharger := decide) only [fld_append_hi]; rfl
  refine ⟨2, rfl, by rw [op]; rfl, ?_⟩
  simp only [decodeRaw, decodeVa, op, BitVec.reduceToNat]
  simp (discharger := decide) only [fld_append_hi, fld_append_lo, fld_all, Nat.reduceSub]
  rfl

theorem vminVa (t : BitVec 3) (i : BitVec 2) (d : BitVec 5) (a : BitVec 5) (b : BitVec 5) (h : BitVec 2) (k : BitVec 3) (l : BitVec 1) : Statement (.vminVa t i d a b h k l) := by
  refine ⟨fun w h => ?_, nofun⟩
  cases h
  have op : fld (6#6 ++ t ++ i ++ d ++ a ++ b ++ h ++ k ++ l : W32) 26 6 = 6#6 := by
    simp (discharger := decide) only [fld_append_hi]; rfl
  refine ⟨2, rfl, by rw [op]; rfl, ?_⟩
  simp only [decodeRaw, decodeVa, op, BitVec.reduceToNat]
  simp (discharger := decide) only [fld_append_hi, fld_append_lo, fld_all, Nat.reduceSub]
  rfl

theorem vmaxVa (t : BitVec 3) (i : BitVec 2) (d : BitVec 5) (a : BitVec 5) (b : BitVec 5) (h : BitVec 2) (k : BitVec 3) (l : BitVec 1) : Statement (.vmaxVa t i d a b h k l) := by
  refine ⟨fun w h => ?_, nofun⟩
  cases h
  have op : fld (7#6 ++ t ++ i ++ d ++ a ++ b ++ h ++ k ++ l : W32) 26 6 = 7#6 := by
    simp (discharger := decide) only [fld_append_hi]; rfl
  refine ⟨2, rfl, by rw [op]; rfl, ?_⟩
  simp only [decodeRaw, decodeVa, op, BitVec.reduceToNat]
  simp (discharger := decide) only [fld_append_hi, fld_append_lo, fld_all, Nat.reduceSub]
  rfl

theorem vabs (t : BitVec 3) (i : BitVec 2) (d : BitVec 5) (a : BitVec 5) (h : BitVec 2) (k : BitVec 3) (l : BitVec 1) : Statement (.vabs t i d a h k l) := by
  refine ⟨fun w h => ?_, nofun⟩
  cases h
  have op : fld (8#6 ++ t ++ i ++ d ++ a ++ 0#5 ++ h ++ k ++ l : W32) 26 6 = 8#6 := by
    simp (discharger := decide) only [fld_append_hi]; rfl
  refine ⟨2, rfl, by rw [op]; rfl, ?_⟩
  simp only [decodeRaw, decodeVa, op, BitVec.reduceToNat]
  simp (discharger := decide) only [fld_append_hi, fld_append_lo, fld_all, Nat.reduceSub]
  rfl

theorem vneg (t : BitVec 3) (i : BitVec 2) (d : BitVec 5) (a : BitVec 5) (h : BitVec 2) (k : BitVec 3) (l : BitVec 1) : Statement (.vneg t i d a h k l) := by
  refine ⟨fun w h => ?_, nofun⟩
  cases h
  have op : fld (9#6 ++ t ++ i ++ d ++ a ++ 0#5 ++ h ++ k ++ l : W32) 26 6 = 9#6 := by
    simp (discharger := decide) only [fld_append_hi]; rfl
  refine ⟨2, rfl, by rw [op]; rfl, ?_⟩
  simp only [decodeRaw, decodeVa, op, BitVec.reduceToNat]
  simp (discharger := decide) only [fld_append_hi, fld_append_lo, fld_all, Nat.reduceSub]
  rfl

theorem vand (t : BitVec 3) (i : BitVec 2) (d : BitVec 5) (a : BitVec 5) (b : BitVec 5) (h : BitVec 2) (k : BitVec 3) (l : BitVec 1) : Statement (.vand t i d a b h k l) := by
  refine ⟨fun w h => ?_, nofun⟩
  cases h
  have op : fld (10#6 ++ t ++ i ++ d ++ a ++ b ++ h ++ k ++ l : W32) 26 6 = 10#6 := by
    simp (discharger := decide) only [fld_append_hi]; rfl
  refine ⟨2, rfl, by rw [op]; rfl, ?_⟩
  simp only [decodeRaw, decodeVa, op, BitVec.reduceToNat]
  simp (discharger := decide) only [fld_append_hi, fld_append_lo, fld_all, Nat.reduceSub]
  rfl

theorem vor (t : BitVec 3) (i : BitVec 2) (d : BitVec 5) (a : BitVec 5) (b : BitVec 5) (h : BitVec 2) (k : BitVec 3) (l : BitVec 1) : Statement (.vor t i d a b h k l) := by
  refine ⟨fun w h => ?_, nofun⟩
  cases h
  have op : fld (11#6 ++ t ++ i ++ d ++ a ++ b ++ h ++ k ++ l : W32) 26 6 = 11#6 := by
    simp (discharger := decide) only [fld_append_hi]; rfl
  refine ⟨2, rfl, by rw [op]; rfl, ?_⟩
  simp only [decodeRaw, decodeVa, op, BitVec.reduceToNat]
  simp (discharger := decide) only [fld_append_hi, fld_append_lo, fld_all, Nat.reduceSub]
  rfl

theorem vxor (t : BitVec 3) (i : BitVec 2) (d : BitVec 5) (a : BitVec 5) (b : BitVec 5) (h : BitVec 2) (k : BitVec 3) (l : BitVec 1) : Statement (.vxor t i d a b h k l) := by
  refine ⟨fun w h => ?_, nofun⟩
  cases h
  have op : fld (12#6 ++ t ++ i ++ d ++ a ++ b ++ h ++ k ++ l : W32) 26 6 = 12#6 := by
    simp (discharger := decide) only [fld_append_hi]; rfl
  refine ⟨2, rfl, by rw [op]; rfl, ?_⟩
  simp only [decodeRaw, decodeVa, op, BitVec.reduceToNat]
  simp (discharger := decide) only [fld_append_hi, fld_append_lo, fld_all, Nat.reduceSub]
  rfl

theorem vnot (t : BitVec 3) (i : BitVec 2) (d : BitVec 5) (a : BitVec 5) (h : BitVec 2) (k : BitVec 3) (l : BitVec 1) : Statement (.vnot t i d a h k l) := by
  refine ⟨fun w h => ?_, nofun⟩
  cases h
  have op : fld (13#6 ++ t ++ i ++ d ++ a ++ 0#5 ++ h ++ k ++ l : W32) 26 6 = 13#6 := by
    simp (discharger := decide) only [fld_append_hi]; rfl
  refine ⟨2, rfl, by rw [op]; rfl, ?_⟩
  simp only [decodeRaw, decodeVa, op, BitVec.reduceToNat]
  simp (discharger := decide) only [fld_append_hi, fld_append_lo, fld_all, Nat.reduceSub]
  rfl

theorem vshl (t : BitVec 3) (i : BitVec 2) (d : BitVec 5) (a : BitVec 5) (b : BitVec 5) (h : BitVec 2) (k : BitVec 3) (l : BitVec 1) : Statement (.vshl t i d a b h k l) := by
  refine ⟨fun w h => ?_, nofun⟩
  cases h
  have op : fld (14#6 ++ t ++ i ++ d ++ a ++ b ++ h ++ k ++ l : W32) 26 6 = 14#6 := by
    simp (discharger := decide) only [fld_append_hi]; rfl
  refine ⟨2, rfl, by rw [op]; rfl, ?_⟩
  simp only [decodeRaw, decodeVa, op, BitVec.reduceToNat]
  simp (discharger := decide) only [fld_append_hi, fld_append_lo, fld_all, Nat.reduceSub]
  rfl

theorem vshr (t : BitVec 3) (i : BitVec 2) (d : BitVec 5) (a : BitVec 5) (b : BitVec 5) (h : BitVec 2) (k : BitVec 3) (l : BitVec 1) : Statement (.vshr t i d a b h k l) := by
  refine ⟨fun w h => ?_, nofun⟩
  cases h
  have op : fld (15#6 ++ t ++ i ++ d ++ a ++ b ++ h ++ k ++ l : W32) 26 6 = 15#6 := by
    simp (discharger := decide) only [fld_append_hi]; rfl
  refine ⟨2, rfl, by rw [op]; rfl, ?_⟩
  simp only [decodeRaw, decodeVa, op, BitVec.reduceToNat]
  simp (discharger := decide) only [fld_append_hi, fld_append_lo, fld_all, Nat.reduceSub]
  rfl

theorem vsar (t : BitVec 3) (i : BitVec 2) (d : BitVec 5) (a : BitVec 5) (b : BitVec 5) (h : BitVec 2) (k : BitVec 3) (l : BitVec 1) : Statement (.vsar t i d a b h k l) := by
  refine ⟨fun w h => ?_, nofun⟩
  cases h
  have op : fld (16#6 ++ t ++ i ++ d ++ a ++ b ++ h ++ k ++ l : W32) 26 6 = 16#6 := by
    simp (discharger := decide) only [fld_append_hi]; rfl
  refine ⟨2, rfl, by rw [op]; rfl, ?_⟩
  simp only [decodeRaw, decodeVa, op, BitVec.reduceToNat]
  simp (discharger := decide) only [fld_append_hi, fld_append_lo, fld_all, Nat.reduceSub]
  rfl

theorem vcmp (t : BitVec 3) (i : BitVec 2) (c : BitVec 3) (a : BitVec 5) (b : BitVec 5) (h : BitVec 2) (e : BitVec 3) (l : BitVec 1) : Statement (.vcmp t i c a b h e l) := by
  refine ⟨fun w h => ?_, nofun⟩
  cases h
  have op : fld (17#6 ++ t ++ i ++ c ++ 0#2 ++ a ++ b ++ h ++ e ++ l : W32) 26 6 = 17#6 := by
    simp (discharger := decide) only [fld_append_hi]; rfl
  refine ⟨2, rfl, by rw [op]; rfl, ?_⟩
  simp only [decodeRaw, decodeVa, op, BitVec.reduceToNat]
  simp (discharger := decide) only [fld_append_hi, fld_append_lo, fld_all, Nat.reduceSub]
  rfl

theorem vsel (t : BitVec 3) (i : BitVec 2) (d : BitVec 5) (a : BitVec 5) (b : BitVec 5) (h : BitVec 2) (k : BitVec 3) (l : BitVec 1) : Statement (.vsel t i d a b h k l) := by
  refine ⟨fun w h => ?_, nofun⟩
  cases h
  have op : fld (18#6 ++ t ++ i ++ d ++ a ++ b ++ h ++ k ++ l : W32) 26 6 = 18#6 := by
    simp (discharger := decide) only [fld_append_hi]; rfl
  refine ⟨2, rfl, by rw [op]; rfl, ?_⟩
  simp only [decodeRaw, decodeVa, op, BitVec.reduceToNat]
  simp (discharger := decide) only [fld_append_hi, fld_append_lo, fld_all, Nat.reduceSub]
  rfl

theorem vcvt (t : BitVec 3) (i : BitVec 2) (d : BitVec 5) (a : BitVec 5) (y : BitVec 4) (h : BitVec 2) (r : BitVec 2) : Statement (.vcvt t i d a y h r) := by
  refine ⟨fun w h => ?_, nofun⟩
  cases h
  have op : fld (19#6 ++ t ++ i ++ d ++ a ++ y ++ 0#1 ++ h ++ 0#1 ++ r ++ 0#1 : W32) 26 6 = 19#6 := by
    simp (discharger := decide) only [fld_append_hi]; rfl
  refine ⟨2, rfl, by rw [op]; rfl, ?_⟩
  simp only [decodeRaw, decodeVa, op, BitVec.reduceToNat]
  simp (discharger := decide) only [fld_append_hi, fld_append_lo, fld_all, Nat.reduceSub]
  rfl

theorem vmov (t : BitVec 3) (i : BitVec 2) (d : BitVec 5) (a : BitVec 5) (h : BitVec 2) (k : BitVec 3) (l : BitVec 1) : Statement (.vmov t i d a h k l) := by
  refine ⟨fun w h => ?_, nofun⟩
  cases h
  have op : fld (20#6 ++ t ++ i ++ d ++ a ++ 0#5 ++ h ++ k ++ l : W32) 26 6 = 20#6 := by
    simp (discharger := decide) only [fld_append_hi]; rfl
  refine ⟨2, rfl, by rw [op]; rfl, ?_⟩
  simp only [decodeRaw, decodeVa, op, BitVec.reduceToNat]
  simp (discharger := decide) only [fld_append_hi, fld_append_lo, fld_all, Nat.reduceSub]
  rfl

theorem vbcast (t : BitVec 3) (i : BitVec 2) (d : BitVec 5) (a : BitVec 5) (h : BitVec 2) (k : BitVec 3) (l : BitVec 1) : Statement (.vbcast t i d a h k l) := by
  refine ⟨fun w h => ?_, nofun⟩
  cases h
  have op : fld (21#6 ++ t ++ i ++ d ++ a ++ 0#5 ++ h ++ k ++ l : W32) 26 6 = 21#6 := by
    simp (discharger := decide) only [fld_append_hi]; rfl
  refine ⟨2, rfl, by rw [op]; rfl, ?_⟩
  simp only [decodeRaw, decodeVa, op, BitVec.reduceToNat]
  simp (discharger := decide) only [fld_append_hi, fld_append_lo, fld_all, Nat.reduceSub]
  rfl

theorem vli (t : BitVec 3) (i : BitVec 2) (d : BitVec 5) (m : BitVec 16) : Statement (.vli t i d m) := by
  refine ⟨fun w h => ?_, nofun⟩
  cases h
  have op : fld (22#6 ++ t ++ i ++ d ++ m : W32) 26 6 = 22#6 := by
    simp (discharger := decide) only [fld_append_hi]; rfl
  refine ⟨2, rfl, by rw [op]; rfl, ?_⟩
  simp only [decodeRaw, decodeVa, op, BitVec.reduceToNat]
  simp (discharger := decide) only [fld_append_hi, fld_append_lo, fld_all, Nat.reduceSub]
  rfl

theorem vshape (t : BitVec 3) (i : BitVec 2) (n : BitVec 2) (a : BitVec 5) : Statement (.vshape t i n a) := by
  refine ⟨fun w h => ?_, nofun⟩
  cases h
  have op : fld (23#6 ++ t ++ i ++ 0#3 ++ n ++ a ++ 0#11 : W32) 26 6 = 23#6 := by
    simp (discharger := decide) only [fld_append_hi]; rfl
  refine ⟨2, rfl, by rw [op]; rfl, ?_⟩
  simp only [decodeRaw, decodeVa, op, BitVec.reduceToNat]
  simp (discharger := decide) only [fld_append_hi, fld_append_lo, fld_all, Nat.reduceSub]
  rfl

theorem vrlen (t : BitVec 3) (i : BitVec 2) (a : BitVec 5) (h : BitVec 2) : Statement (.vrlen t i a h) := by
  refine ⟨fun w h => ?_, nofun⟩
  cases h
  have op : fld (24#6 ++ t ++ i ++ 0#5 ++ a ++ 0#5 ++ h ++ 0#4 : W32) 26 6 = 24#6 := by
    simp (discharger := decide) only [fld_append_hi]; rfl
  refine ⟨2, rfl, by rw [op]; rfl, ?_⟩
  simp only [decodeRaw, decodeVa, op, BitVec.reduceToNat]
  simp (discharger := decide) only [fld_append_hi, fld_append_lo, fld_all, Nat.reduceSub]
  rfl

theorem vbmm (t : BitVec 3) (i : BitVec 2) (d : BitVec 5) (a : BitVec 5) (b : BitVec 5) (h : BitVec 2) (k : BitVec 3) (l : BitVec 1) : Statement (.vbmm t i d a b h k l) := by
  refine ⟨fun w h => ?_, nofun⟩
  cases h
  have op : fld (25#6 ++ t ++ i ++ d ++ a ++ b ++ h ++ k ++ l : W32) 26 6 = 25#6 := by
    simp (discharger := decide) only [fld_append_hi]; rfl
  refine ⟨2, rfl, by rw [op]; rfl, ?_⟩
  simp only [decodeRaw, decodeVa, op, BitVec.reduceToNat]
  simp (discharger := decide) only [fld_append_hi, fld_append_lo, fld_all, Nat.reduceSub]
  rfl

theorem vsat (t : BitVec 3) (i : BitVec 2) (d : BitVec 5) (a : BitVec 5) (b : BitVec 5) (h : BitVec 2) (o : BitVec 2) (l : BitVec 1) : Statement (.vsat t i d a b h o l) := by
  refine ⟨fun w h => ?_, nofun⟩
  cases h
  have op : fld (26#6 ++ t ++ i ++ d ++ a ++ b ++ h ++ o ++ 0#1 ++ l : W32) 26 6 = 26#6 := by
    simp (discharger := decide) only [fld_append_hi]; rfl
  refine ⟨2, rfl, by rw [op]; rfl, ?_⟩
  simp only [decodeRaw, decodeVa, op, BitVec.reduceToNat]
  simp (discharger := decide) only [fld_append_hi, fld_append_lo, fld_all, Nat.reduceSub]
  rfl

theorem vclamp (t : BitVec 3) (i : BitVec 2) (d : BitVec 5) (a : BitVec 5) (b : BitVec 5) (h : BitVec 2) (k : BitVec 3) (l : BitVec 1) : Statement (.vclamp t i d a b h k l) := by
  refine ⟨fun w h => ?_, nofun⟩
  cases h
  have op : fld (27#6 ++ t ++ i ++ d ++ a ++ b ++ h ++ k ++ l : W32) 26 6 = 27#6 := by
    simp (discharger := decide) only [fld_append_hi]; rfl
  refine ⟨2, rfl, by rw [op]; rfl, ?_⟩
  simp only [decodeRaw, decodeVa, op, BitVec.reduceToNat]
  simp (discharger := decide) only [fld_append_hi, fld_append_lo, fld_all, Nat.reduceSub]
  rfl

theorem vany (t : BitVec 3) (i : BitVec 2) (h : BitVec 2) (k : BitVec 3) (l : BitVec 1) : Statement (.vany t i h k l) := by
  refine ⟨fun w h => ?_, nofun⟩
  cases h
  have op : fld (28#6 ++ t ++ i ++ 0#15 ++ h ++ k ++ l : W32) 26 6 = 28#6 := by
    simp (discharger := decide) only [fld_append_hi]; rfl
  refine ⟨2, rfl, by rw [op]; rfl, ?_⟩
  simp only [decodeRaw, decodeVa, op, BitVec.reduceToNat]
  simp (discharger := decide) only [fld_append_hi, fld_append_lo, fld_all, Nat.reduceSub]
  rfl

theorem vall (t : BitVec 3) (i : BitVec 2) (h : BitVec 2) (k : BitVec 3) (l : BitVec 1) : Statement (.vall t i h k l) := by
  refine ⟨fun w h => ?_, nofun⟩
  cases h
  have op : fld (29#6 ++ t ++ i ++ 0#15 ++ h ++ k ++ l : W32) 26 6 = 29#6 := by
    simp (discharger := decide) only [fld_append_hi]; rfl
  refine ⟨2, rfl, by rw [op]; rfl, ?_⟩
  simp only [decodeRaw, decodeVa, op, BitVec.reduceToNat]
  simp (discharger := decide) only [fld_append_hi, fld_append_lo, fld_all, Nat.reduceSub]
  rfl

theorem kop (t : BitVec 3) (i : BitVec 2) (c : BitVec 3) (e : BitVec 3) (f : BitVec 3) (o : BitVec 4) : Statement (.kop t i c e f o) := by
  refine ⟨fun w h => ?_, nofun⟩
  cases h
  have op : fld (30#6 ++ t ++ i ++ c ++ e ++ f ++ o ++ 0#8 : W32) 26 6 = 30#6 := by
    simp (discharger := decide) only [fld_append_hi]; rfl
  refine ⟨2, rfl, by rw [op]; rfl, ?_⟩
  simp only [decodeRaw, decodeVa, op, BitVec.reduceToNat]
  simp (discharger := decide) only [fld_append_hi, fld_append_lo, fld_all, Nat.reduceSub]
  rfl

theorem vacrVaImm (t : BitVec 3) (i : BitVec 2) (d : BitVec 5) (b : BitVec 3) (x : BitVec 5) : Statement (.vacrVaImm t i d b x) := by
  refine ⟨fun w h => ?_, nofun⟩
  cases h
  have op : fld (31#6 ++ t ++ i ++ d ++ b ++ 0#1 ++ x ++ 0#7 : W32) 26 6 = 31#6 := by
    simp (discharger := decide) only [fld_append_hi]; rfl
  refine ⟨2, rfl, by rw [op]; rfl, ?_⟩
  simp only [decodeRaw, decodeVa, op, BitVec.reduceToNat]
  simp (discharger := decide) only [fld_append_hi, fld_append_lo, fld_all, Nat.reduceSub]
  rfl

theorem vacrVaReg (t : BitVec 3) (i : BitVec 2) (d : BitVec 5) (b : BitVec 3) (s : BitVec 5) : Statement (.vacrVaReg t i d b s) := by
  refine ⟨fun w h => ?_, nofun⟩
  cases h
  have op : fld (31#6 ++ t ++ i ++ d ++ b ++ 1#1 ++ s ++ 0#7 : W32) 26 6 = 31#6 := by
    simp (discharger := decide) only [fld_append_hi]; rfl
  refine ⟨2, rfl, by rw [op]; rfl, ?_⟩
  simp only [decodeRaw, decodeVa, op, BitVec.reduceToNat]
  simp (discharger := decide) only [fld_append_hi, fld_append_lo, fld_all, Nat.reduceSub]
  rfl

theorem vacwVaImm (t : BitVec 3) (i : BitVec 2) (a : BitVec 5) (b : BitVec 3) (x : BitVec 5) : Statement (.vacwVaImm t i a b x) := by
  refine ⟨fun w h => ?_, nofun⟩
  cases h
  have op : fld (32#6 ++ t ++ i ++ a ++ b ++ 0#1 ++ x ++ 0#7 : W32) 26 6 = 32#6 := by
    simp (discharger := decide) only [fld_append_hi]; rfl
  refine ⟨2, rfl, by rw [op]; rfl, ?_⟩
  simp only [decodeRaw, decodeVa, op, BitVec.reduceToNat]
  simp (discharger := decide) only [fld_append_hi, fld_append_lo, fld_all, Nat.reduceSub]
  rfl

theorem vacwVaReg (t : BitVec 3) (i : BitVec 2) (a : BitVec 5) (b : BitVec 3) (s : BitVec 5) : Statement (.vacwVaReg t i a b s) := by
  refine ⟨fun w h => ?_, nofun⟩
  cases h
  have op : fld (32#6 ++ t ++ i ++ a ++ b ++ 1#1 ++ s ++ 0#7 : W32) 26 6 = 32#6 := by
    simp (discharger := decide) only [fld_append_hi]; rfl
  refine ⟨2, rfl, by rw [op]; rfl, ?_⟩
  simp only [decodeRaw, decodeVa, op, BitVec.reduceToNat]
  simp (discharger := decide) only [fld_append_hi, fld_append_lo, fld_all, Nat.reduceSub]
  rfl

theorem vext (t : BitVec 3) (i : BitVec 2) (d : BitVec 5) (a : BitVec 5) (b : BitVec 5) (m : BitVec 6) : Statement (.vext t i d a b m) := by
  refine ⟨fun w h => ?_, nofun⟩
  cases h
  have op : fld (33#6 ++ t ++ i ++ d ++ a ++ b ++ m : W32) 26 6 = 33#6 := by
    simp (discharger := decide) only [fld_append_hi]; rfl
  refine ⟨2, rfl, by rw [op]; rfl, ?_⟩
  simp only [decodeRaw, decodeVa, op, BitVec.reduceToNat]
  simp (discharger := decide) only [fld_append_hi, fld_append_lo, fld_all, Nat.reduceSub]
  rfl

theorem vaddVb (t : BitVec 3) (i : BitVec 2) (d : BitVec 5) (a : BitVec 5) (b : BitVec 5) (h : BitVec 2) (k : BitVec 3) (l : BitVec 1) : Statement (.vaddVb t i d a b h k l) := by
  refine ⟨fun w h => ?_, nofun⟩
  cases h
  have op : fld (1#6 ++ t ++ i ++ d ++ a ++ b ++ h ++ k ++ l : W32) 26 6 = 1#6 := by
    simp (discharger := decide) only [fld_append_hi]; rfl
  refine ⟨3, rfl, by rw [op]; rfl, ?_⟩
  simp only [decodeRaw, decodeVb, op, BitVec.reduceToNat]
  simp (discharger := decide) only [fld_append_hi, fld_append_lo, fld_all, Nat.reduceSub]
  rfl

theorem vsubVb (t : BitVec 3) (i : BitVec 2) (d : BitVec 5) (a : BitVec 5) (b : BitVec 5) (h : BitVec 2) (k : BitVec 3) (l : BitVec 1) : Statement (.vsubVb t i d a b h k l) := by
  refine ⟨fun w h => ?_, nofun⟩
  cases h
  have op : fld (2#6 ++ t ++ i ++ d ++ a ++ b ++ h ++ k ++ l : W32) 26 6 = 2#6 := by
    simp (discharger := decide) only [fld_append_hi]; rfl
  refine ⟨3, rfl, by rw [op]; rfl, ?_⟩
  simp only [decodeRaw, decodeVb, op, BitVec.reduceToNat]
  simp (discharger := decide) only [fld_append_hi, fld_append_lo, fld_all, Nat.reduceSub]
  rfl

theorem vmulVb (t : BitVec 3) (i : BitVec 2) (d : BitVec 5) (a : BitVec 5) (b : BitVec 5) (h : BitVec 2) (k : BitVec 3) (l : BitVec 1) : Statement (.vmulVb t i d a b h k l) := by
  refine ⟨fun w h => ?_, nofun⟩
  cases h
  have op : fld (3#6 ++ t ++ i ++ d ++ a ++ b ++ h ++ k ++ l : W32) 26 6 = 3#6 := by
    simp (discharger := decide) only [fld_append_hi]; rfl
  refine ⟨3, rfl, by rw [op]; rfl, ?_⟩
  simp only [decodeRaw, decodeVb, op, BitVec.reduceToNat]
  simp (discharger := decide) only [fld_append_hi, fld_append_lo, fld_all, Nat.reduceSub]
  rfl

theorem vfmaVb (t : BitVec 3) (i : BitVec 2) (d : BitVec 5) (a : BitVec 5) (b : BitVec 5) (h : BitVec 2) (k : BitVec 3) (l : BitVec 1) : Statement (.vfmaVb t i d a b h k l) := by
  refine ⟨fun w h => ?_, nofun⟩
  cases h
  have op : fld (4#6 ++ t ++ i ++ d ++ a ++ b ++ h ++ k ++ l : W32) 26 6 = 4#6 := by
    simp (discharger := decide) only [fld_append_hi]; rfl
  refine ⟨3, rfl, by rw [op]; rfl, ?_⟩
  simp only [decodeRaw, decodeVb, op, BitVec.reduceToNat]
  simp (discharger := decide) only [fld_append_hi, fld_append_lo, fld_all, Nat.reduceSub]
  rfl

theorem vminVb (t : BitVec 3) (i : BitVec 2) (d : BitVec 5) (a : BitVec 5) (b : BitVec 5) (h : BitVec 2) (k : BitVec 3) (l : BitVec 1) : Statement (.vminVb t i d a b h k l) := by
  refine ⟨fun w h => ?_, nofun⟩
  cases h
  have op : fld (5#6 ++ t ++ i ++ d ++ a ++ b ++ h ++ k ++ l : W32) 26 6 = 5#6 := by
    simp (discharger := decide) only [fld_append_hi]; rfl
  refine ⟨3, rfl, by rw [op]; rfl, ?_⟩
  simp only [decodeRaw, decodeVb, op, BitVec.reduceToNat]
  simp (discharger := decide) only [fld_append_hi, fld_append_lo, fld_all, Nat.reduceSub]
  rfl

theorem vmaxVb (t : BitVec 3) (i : BitVec 2) (d : BitVec 5) (a : BitVec 5) (b : BitVec 5) (h : BitVec 2) (k : BitVec 3) (l : BitVec 1) : Statement (.vmaxVb t i d a b h k l) := by
  refine ⟨fun w h => ?_, nofun⟩
  cases h
  have op : fld (6#6 ++ t ++ i ++ d ++ a ++ b ++ h ++ k ++ l : W32) 26 6 = 6#6 := by
    simp (discharger := decide) only [fld_append_hi]; rfl
  refine ⟨3, rfl, by rw [op]; rfl, ?_⟩
  simp only [decodeRaw, decodeVb, op, BitVec.reduceToNat]
  simp (discharger := decide) only [fld_append_hi, fld_append_lo, fld_all, Nat.reduceSub]
  rfl

theorem vexp2 (t : BitVec 3) (i : BitVec 2) (d : BitVec 5) (a : BitVec 5) (h : BitVec 2) (k : BitVec 3) (l : BitVec 1) : Statement (.vexp2 t i d a h k l) := by
  refine ⟨fun w h => ?_, nofun⟩
  cases h
  have op : fld (7#6 ++ t ++ i ++ d ++ a ++ 0#5 ++ h ++ k ++ l : W32) 26 6 = 7#6 := by
    simp (discharger := decide) only [fld_append_hi]; rfl
  refine ⟨3, rfl, by rw [op]; rfl, ?_⟩
  simp only [decodeRaw, decodeVb, op, BitVec.reduceToNat]
  simp (discharger := decide) only [fld_append_hi, fld_append_lo, fld_all, Nat.reduceSub]
  rfl

theorem vlog2 (t : BitVec 3) (i : BitVec 2) (d : BitVec 5) (a : BitVec 5) (h : BitVec 2) (k : BitVec 3) (l : BitVec 1) : Statement (.vlog2 t i d a h k l) := by
  refine ⟨fun w h => ?_, nofun⟩
  cases h
  have op : fld (8#6 ++ t ++ i ++ d ++ a ++ 0#5 ++ h ++ k ++ l : W32) 26 6 = 8#6 := by
    simp (discharger := decide) only [fld_append_hi]; rfl
  refine ⟨3, rfl, by rw [op]; rfl, ?_⟩
  simp only [decodeRaw, decodeVb, op, BitVec.reduceToNat]
  simp (discharger := decide) only [fld_append_hi, fld_append_lo, fld_all, Nat.reduceSub]
  rfl

theorem vrcp (t : BitVec 3) (i : BitVec 2) (d : BitVec 5) (a : BitVec 5) (h : BitVec 2) (k : BitVec 3) (l : BitVec 1) : Statement (.vrcp t i d a h k l) := by
  refine ⟨fun w h => ?_, nofun⟩
  cases h
  have op : fld (9#6 ++ t ++ i ++ d ++ a ++ 0#5 ++ h ++ k ++ l : W32) 26 6 = 9#6 := by
    simp (discharger := decide) only [fld_append_hi]; rfl
  refine ⟨3, rfl, by rw [op]; rfl, ?_⟩
  simp only [decodeRaw, decodeVb, op, BitVec.reduceToNat]
  simp (discharger := decide) only [fld_append_hi, fld_append_lo, fld_all, Nat.reduceSub]
  rfl

theorem vrsqrt (t : BitVec 3) (i : BitVec 2) (d : BitVec 5) (a : BitVec 5) (h : BitVec 2) (k : BitVec 3) (l : BitVec 1) : Statement (.vrsqrt t i d a h k l) := by
  refine ⟨fun w h => ?_, nofun⟩
  cases h
  have op : fld (10#6 ++ t ++ i ++ d ++ a ++ 0#5 ++ h ++ k ++ l : W32) 26 6 = 10#6 := by
    simp (discharger := decide) only [fld_append_hi]; rfl
  refine ⟨3, rfl, by rw [op]; rfl, ?_⟩
  simp only [decodeRaw, decodeVb, op, BitVec.reduceToNat]
  simp (discharger := decide) only [fld_append_hi, fld_append_lo, fld_all, Nat.reduceSub]
  rfl

theorem vsqrt (t : BitVec 3) (i : BitVec 2) (d : BitVec 5) (a : BitVec 5) (h : BitVec 2) (k : BitVec 3) (l : BitVec 1) : Statement (.vsqrt t i d a h k l) := by
  refine ⟨fun w h => ?_, nofun⟩
  cases h
  have op : fld (11#6 ++ t ++ i ++ d ++ a ++ 0#5 ++ h ++ k ++ l : W32) 26 6 = 11#6 := by
    simp (discharger := decide) only [fld_append_hi]; rfl
  refine ⟨3, rfl, by rw [op]; rfl, ?_⟩
  simp only [decodeRaw, decodeVb, op, BitVec.reduceToNat]
  simp (discharger := decide) only [fld_append_hi, fld_append_lo, fld_all, Nat.reduceSub]
  rfl

theorem vdiv (t : BitVec 3) (i : BitVec 2) (d : BitVec 5) (a : BitVec 5) (b : BitVec 5) (h : BitVec 2) (k : BitVec 3) (l : BitVec 1) : Statement (.vdiv t i d a b h k l) := by
  refine ⟨fun w h => ?_, nofun⟩
  cases h
  have op : fld (12#6 ++ t ++ i ++ d ++ a ++ b ++ h ++ k ++ l : W32) 26 6 = 12#6 := by
    simp (discharger := decide) only [fld_append_hi]; rfl
  refine ⟨3, rfl, by rw [op]; rfl, ?_⟩
  simp only [decodeRaw, decodeVb, op, BitVec.reduceToNat]
  simp (discharger := decide) only [fld_append_hi, fld_append_lo, fld_all, Nat.reduceSub]
  rfl

theorem vtanh (t : BitVec 3) (i : BitVec 2) (d : BitVec 5) (a : BitVec 5) (h : BitVec 2) (k : BitVec 3) (l : BitVec 1) : Statement (.vtanh t i d a h k l) := by
  refine ⟨fun w h => ?_, nofun⟩
  cases h
  have op : fld (13#6 ++ t ++ i ++ d ++ a ++ 0#5 ++ h ++ k ++ l : W32) 26 6 = 13#6 := by
    simp (discharger := decide) only [fld_append_hi]; rfl
  refine ⟨3, rfl, by rw [op]; rfl, ?_⟩
  simp only [decodeRaw, decodeVb, op, BitVec.reduceToNat]
  simp (discharger := decide) only [fld_append_hi, fld_append_lo, fld_all, Nat.reduceSub]
  rfl

theorem vsigm (t : BitVec 3) (i : BitVec 2) (d : BitVec 5) (a : BitVec 5) (h : BitVec 2) (k : BitVec 3) (l : BitVec 1) : Statement (.vsigm t i d a h k l) := by
  refine ⟨fun w h => ?_, nofun⟩
  cases h
  have op : fld (14#6 ++ t ++ i ++ d ++ a ++ 0#5 ++ h ++ k ++ l : W32) 26 6 = 14#6 := by
    simp (discharger := decide) only [fld_append_hi]; rfl
  refine ⟨3, rfl, by rw [op]; rfl, ?_⟩
  simp only [decodeRaw, decodeVb, op, BitVec.reduceToNat]
  simp (discharger := decide) only [fld_append_hi, fld_append_lo, fld_all, Nat.reduceSub]
  rfl

theorem vrsum (t : BitVec 3) (i : BitVec 2) (d : BitVec 5) (a : BitVec 5) (h : BitVec 2) (k : BitVec 3) (l : BitVec 1) : Statement (.vrsum t i d a h k l) := by
  refine ⟨fun w h => ?_, nofun⟩
  cases h
  have op : fld (15#6 ++ t ++ i ++ d ++ a ++ 0#5 ++ h ++ k ++ l : W32) 26 6 = 15#6 := by
    simp (discharger := decide) only [fld_append_hi]; rfl
  refine ⟨3, rfl, by rw [op]; rfl, ?_⟩
  simp only [decodeRaw, decodeVb, op, BitVec.reduceToNat]
  simp (discharger := decide) only [fld_append_hi, fld_append_lo, fld_all, Nat.reduceSub]
  rfl

theorem vrmax (t : BitVec 3) (i : BitVec 2) (d : BitVec 5) (a : BitVec 5) (h : BitVec 2) (k : BitVec 3) (l : BitVec 1) : Statement (.vrmax t i d a h k l) := by
  refine ⟨fun w h => ?_, nofun⟩
  cases h
  have op : fld (16#6 ++ t ++ i ++ d ++ a ++ 0#5 ++ h ++ k ++ l : W32) 26 6 = 16#6 := by
    simp (discharger := decide) only [fld_append_hi]; rfl
  refine ⟨3, rfl, by rw [op]; rfl, ?_⟩
  simp only [decodeRaw, decodeVb, op, BitVec.reduceToNat]
  simp (discharger := decide) only [fld_append_hi, fld_append_lo, fld_all, Nat.reduceSub]
  rfl

theorem vrmin (t : BitVec 3) (i : BitVec 2) (d : BitVec 5) (a : BitVec 5) (h : BitVec 2) (k : BitVec 3) (l : BitVec 1) : Statement (.vrmin t i d a h k l) := by
  refine ⟨fun w h => ?_, nofun⟩
  cases h
  have op : fld (17#6 ++ t ++ i ++ d ++ a ++ 0#5 ++ h ++ k ++ l : W32) 26 6 = 17#6 := by
    simp (discharger := decide) only [fld_append_hi]; rfl
  refine ⟨3, rfl, by rw [op]; rfl, ?_⟩
  simp only [decodeRaw, decodeVb, op, BitVec.reduceToNat]
  simp (discharger := decide) only [fld_append_hi, fld_append_lo, fld_all, Nat.reduceSub]
  rfl

theorem vargmax (t : BitVec 3) (i : BitVec 2) (d : BitVec 5) (a : BitVec 5) (h : BitVec 2) (k : BitVec 3) (l : BitVec 1) : Statement (.vargmax t i d a h k l) := by
  refine ⟨fun w h => ?_, nofun⟩
  cases h
  have op : fld (18#6 ++ t ++ i ++ d ++ a ++ 0#5 ++ h ++ k ++ l : W32) 26 6 = 18#6 := by
    simp (discharger := decide) only [fld_append_hi]; rfl
  refine ⟨3, rfl, by rw [op]; rfl, ?_⟩
  simp only [decodeRaw, decodeVb, op, BitVec.reduceToNat]
  simp (discharger := decide) only [fld_append_hi, fld_append_lo, fld_all, Nat.reduceSub]
  rfl

theorem vscan (t : BitVec 3) (i : BitVec 2) (d : BitVec 5) (a : BitVec 5) (h : BitVec 2) (k : BitVec 3) (l : BitVec 1) : Statement (.vscan t i d a h k l) := by
  refine ⟨fun w h => ?_, nofun⟩
  cases h
  have op : fld (19#6 ++ t ++ i ++ d ++ a ++ 0#5 ++ h ++ k ++ l : W32) 26 6 = 19#6 := by
    simp (discharger := decide) only [fld_append_hi]; rfl
  refine ⟨3, rfl, by rw [op]; rfl, ?_⟩
  simp only [decodeRaw, decodeVb, op, BitVec.reduceToNat]
  simp (discharger := decide) only [fld_append_hi, fld_append_lo, fld_all, Nat.reduceSub]
  rfl

theorem vperm (t : BitVec 3) (i : BitVec 2) (d : BitVec 5) (a : BitVec 5) (b : BitVec 5) (h : BitVec 2) (k : BitVec 3) (l : BitVec 1) : Statement (.vperm t i d a b h k l) := by
  refine ⟨fun w h => ?_, nofun⟩
  cases h
  have op : fld (20#6 ++ t ++ i ++ d ++ a ++ b ++ h ++ k ++ l : W32) 26 6 = 20#6 := by
    simp (discharger := decide) only [fld_append_hi]; rfl
  refine ⟨3, rfl, by rw [op]; rfl, ?_⟩
  simp only [decodeRaw, decodeVb, op, BitVec.reduceToNat]
  simp (discharger := decide) only [fld_append_hi, fld_append_lo, fld_all, Nat.reduceSub]
  rfl

theorem vtrans (t : BitVec 3) (i : BitVec 2) (d : BitVec 5) (a : BitVec 5) (h : BitVec 2) : Statement (.vtrans t i d a h) := by
  refine ⟨fun w h => ?_, nofun⟩
  cases h
  have op : fld (21#6 ++ t ++ i ++ d ++ a ++ 0#5 ++ h ++ 0#4 : W32) 26 6 = 21#6 := by
    simp (discharger := decide) only [fld_append_hi]; rfl
  refine ⟨3, rfl, by rw [op]; rfl, ?_⟩
  simp only [decodeRaw, decodeVb, op, BitVec.reduceToNat]
  simp (discharger := decide) only [fld_append_hi, fld_append_lo, fld_all, Nat.reduceSub]
  rfl

theorem vcompact (t : BitVec 3) (i : BitVec 2) (d : BitVec 5) (a : BitVec 5) (h : BitVec 2) (k : BitVec 3) : Statement (.vcompact t i d a h k) := by
  refine ⟨fun w h => ?_, nofun⟩
  cases h
  have op : fld (22#6 ++ t ++ i ++ d ++ a ++ 0#5 ++ h ++ k ++ 0#1 : W32) 26 6 = 22#6 := by
    simp (discharger := decide) only [fld_append_hi]; rfl
  refine ⟨3, rfl, by rw [op]; rfl, ?_⟩
  simp only [decodeRaw, decodeVb, op, BitVec.reduceToNat]
  simp (discharger := decide) only [fld_append_hi, fld_append_lo, fld_all, Nat.reduceSub]
  rfl

theorem vexpand (t : BitVec 3) (i : BitVec 2) (d : BitVec 5) (a : BitVec 5) (h : BitVec 2) (k : BitVec 3) : Statement (.vexpand t i d a h k) := by
  refine ⟨fun w h => ?_, nofun⟩
  cases h
  have op : fld (23#6 ++ t ++ i ++ d ++ a ++ 0#5 ++ h ++ k ++ 0#1 : W32) 26 6 = 23#6 := by
    simp (discharger := decide) only [fld_append_hi]; rfl
  refine ⟨3, rfl, by rw [op]; rfl, ?_⟩
  simp only [decodeRaw, decodeVb, op, BitVec.reduceToNat]
  simp (discharger := decide) only [fld_append_hi, fld_append_lo, fld_all, Nat.reduceSub]
  rfl

theorem vrot (t : BitVec 3) (i : BitVec 2) (d : BitVec 5) (a : BitVec 5) (b : BitVec 5) (h : BitVec 2) (k : BitVec 3) : Statement (.vrot t i d a b h k) := by
  refine ⟨fun w h => ?_, nofun⟩
  cases h
  have op : fld (24#6 ++ t ++ i ++ d ++ a ++ b ++ h ++ k ++ 0#1 : W32) 26 6 = 24#6 := by
    simp (discharger := decide) only [fld_append_hi]; rfl
  refine ⟨3, rfl, by rw [op]; rfl, ?_⟩
  simp only [decodeRaw, decodeVb, op, BitVec.reduceToNat]
  simp (discharger := decide) only [fld_append_hi, fld_append_lo, fld_all, Nat.reduceSub]
  rfl

theorem vacrVbImm (t : BitVec 3) (i : BitVec 2) (d : BitVec 5) (b : BitVec 3) (x : BitVec 5) : Statement (.vacrVbImm t i d b x) := by
  refine ⟨fun w h => ?_, nofun⟩
  cases h
  have op : fld (25#6 ++ t ++ i ++ d ++ b ++ 0#1 ++ x ++ 0#7 : W32) 26 6 = 25#6 := by
    simp (discharger := decide) only [fld_append_hi]; rfl
  refine ⟨3, rfl, by rw [op]; rfl, ?_⟩
  simp only [decodeRaw, decodeVb, op, BitVec.reduceToNat]
  simp (discharger := decide) only [fld_append_hi, fld_append_lo, fld_all, Nat.reduceSub]
  rfl

theorem vacrVbReg (t : BitVec 3) (i : BitVec 2) (d : BitVec 5) (b : BitVec 3) (s : BitVec 5) : Statement (.vacrVbReg t i d b s) := by
  refine ⟨fun w h => ?_, nofun⟩
  cases h
  have op : fld (25#6 ++ t ++ i ++ d ++ b ++ 1#1 ++ s ++ 0#7 : W32) 26 6 = 25#6 := by
    simp (discharger := decide) only [fld_append_hi]; rfl
  refine ⟨3, rfl, by rw [op]; rfl, ?_⟩
  simp only [decodeRaw, decodeVb, op, BitVec.reduceToNat]
  simp (discharger := decide) only [fld_append_hi, fld_append_lo, fld_all, Nat.reduceSub]
  rfl

theorem vacwVbImm (t : BitVec 3) (i : BitVec 2) (a : BitVec 5) (b : BitVec 3) (x : BitVec 5) : Statement (.vacwVbImm t i a b x) := by
  refine ⟨fun w h => ?_, nofun⟩
  cases h
  have op : fld (26#6 ++ t ++ i ++ a ++ b ++ 0#1 ++ x ++ 0#7 : W32) 26 6 = 26#6 := by
    simp (discharger := decide) only [fld_append_hi]; rfl
  refine ⟨3, rfl, by rw [op]; rfl, ?_⟩
  simp only [decodeRaw, decodeVb, op, BitVec.reduceToNat]
  simp (discharger := decide) only [fld_append_hi, fld_append_lo, fld_all, Nat.reduceSub]
  rfl

theorem vacwVbReg (t : BitVec 3) (i : BitVec 2) (a : BitVec 5) (b : BitVec 3) (s : BitVec 5) : Statement (.vacwVbReg t i a b s) := by
  refine ⟨fun w h => ?_, nofun⟩
  cases h
  have op : fld (26#6 ++ t ++ i ++ a ++ b ++ 1#1 ++ s ++ 0#7 : W32) 26 6 = 26#6 := by
    simp (discharger := decide) only [fld_append_hi]; rfl
  refine ⟨3, rfl, by rw [op]; rfl, ?_⟩
  simp only [decodeRaw, decodeVb, op, BitVec.reduceToNat]
  simp (discharger := decide) only [fld_append_hi, fld_append_lo, fld_all, Nat.reduceSub]
  rfl

theorem vround (t : BitVec 3) (i : BitVec 2) (d : BitVec 5) (a : BitVec 5) (h : BitVec 2) (k : BitVec 3) (l : BitVec 1) : Statement (.vround t i d a h k l) := by
  refine ⟨fun w h => ?_, nofun⟩
  cases h
  have op : fld (27#6 ++ t ++ i ++ d ++ a ++ 0#5 ++ h ++ k ++ l : W32) 26 6 = 27#6 := by
    simp (discharger := decide) only [fld_append_hi]; rfl
  refine ⟨3, rfl, by rw [op]; rfl, ?_⟩
  simp only [decodeRaw, decodeVb, op, BitVec.reduceToNat]
  simp (discharger := decide) only [fld_append_hi, fld_append_lo, fld_all, Nat.reduceSub]
  rfl

theorem mcall (t : BitVec 3) (i : BitVec 2) (m : BitVec 8) (d : BitVec 3) (a : BitVec 1) (e : BitVec 1) (f : BitVec 1) : Statement (.mcall t i m d a e f) := by
  refine ⟨fun w h => ?_, nofun⟩
  cases h
  have op : fld (1#6 ++ t ++ i ++ m ++ d ++ a ++ e ++ f ++ 0#7 : W32) 26 6 = 1#6 := by
    simp (discharger := decide) only [fld_append_hi]; rfl
  refine ⟨4, rfl, by rw [op]; rfl, ?_⟩
  simp only [decodeRaw, decodeMx, op, BitVec.reduceToNat]
  simp (discharger := decide) only [fld_append_hi, fld_append_lo, fld_all, Nat.reduceSub]
  rfl

theorem mpset (t : BitVec 3) (i : BitVec 2) (n : BitVec 3) (a : BitVec 5) : Statement (.mpset t i n a) := by
  refine ⟨fun w h => ?_, nofun⟩
  cases h
  have op : fld (2#6 ++ t ++ i ++ n ++ 0#2 ++ a ++ 0#11 : W32) 26 6 = 2#6 := by
    simp (discharger := decide) only [fld_append_hi]; rfl
  refine ⟨4, rfl, by rw [op]; rfl, ?_⟩
  simp only [decodeRaw, decodeMx, op, BitVec.reduceToNat]
  simp (discharger := decide) only [fld_append_hi, fld_append_lo, fld_all, Nat.reduceSub]
  rfl

theorem mpget (t : BitVec 3) (i : BitVec 2) (d : BitVec 5) (n : BitVec 3) : Statement (.mpget t i d n) := by
  refine ⟨fun w h => ?_, nofun⟩
  cases h
  have op : fld (3#6 ++ t ++ i ++ d ++ n ++ 0#13 : W32) 26 6 = 3#6 := by
    simp (discharger := decide) only [fld_append_hi]; rfl
  refine ⟨4, rfl, by rw [op]; rfl, ?_⟩
  simp only [decodeRaw, decodeMx, op, BitVec.reduceToNat]
  simp (discharger := decide) only [fld_append_hi, fld_append_lo, fld_all, Nat.reduceSub]
  rfl

theorem mload (t : BitVec 3) (i : BitVec 2) (a : BitVec 5) : Statement (.mload t i a) := by
  refine ⟨fun w h => ?_, nofun⟩
  cases h
  have op : fld (4#6 ++ t ++ i ++ 0#5 ++ a ++ 0#11 : W32) 26 6 = 4#6 := by
    simp (discharger := decide) only [fld_append_hi]; rfl
  refine ⟨4, rfl, by rw [op]; rfl, ?_⟩
  simp only [decodeRaw, decodeMx, op, BitVec.reduceToNat]
  simp (discharger := decide) only [fld_append_hi, fld_append_lo, fld_all, Nat.reduceSub]
  rfl

theorem aclass (t : BitVec 3) (i : BitVec 2) (n : BitVec 3) (c : BitVec 2) : Statement (.aclass t i n c) := by
  refine ⟨fun w h => ?_, nofun⟩
  cases h
  have op : fld (5#6 ++ t ++ i ++ n ++ c ++ 0#16 : W32) 26 6 = 5#6 := by
    simp (discharger := decide) only [fld_append_hi]; rfl
  refine ⟨4, rfl, by rw [op]; rfl, ?_⟩
  simp only [decodeRaw, decodeMx, op, BitVec.reduceToNat]
  simp (discharger := decide) only [fld_append_hi, fld_append_lo, fld_all, Nat.reduceSub]
  rfl

theorem aclr (t : BitVec 3) (i : BitVec 2) (n : BitVec 3) : Statement (.aclr t i n) := by
  refine ⟨fun w h => ?_, nofun⟩
  cases h
  have op : fld (6#6 ++ t ++ i ++ n ++ 0#18 : W32) 26 6 = 6#6 := by
    simp (discharger := decide) only [fld_append_hi]; rfl
  refine ⟨4, rfl, by rw [op]; rfl, ?_⟩
  simp only [decodeRaw, decodeMx, op, BitVec.reduceToNat]
  simp (discharger := decide) only [fld_append_hi, fld_append_lo, fld_all, Nat.reduceSub]
  rfl

theorem acmv (t : BitVec 3) (i : BitVec 2) (d : BitVec 3) (s : BitVec 3) (m : BitVec 2) : Statement (.acmv t i d s m) := by
  refine ⟨fun w h => ?_, nofun⟩
  cases h
  have op : fld (7#6 ++ t ++ i ++ d ++ s ++ m ++ 0#13 : W32) 26 6 = 7#6 := by
    simp (discharger := decide) only [fld_append_hi]; rfl
  refine ⟨4, rfl, by rw [op]; rfl, ?_⟩
  simp only [decodeRaw, decodeMx, op, BitVec.reduceToNat]
  simp (discharger := decide) only [fld_append_hi, fld_append_lo, fld_all, Nat.reduceSub]
  rfl

theorem mwaitAll (t : BitVec 3) (i : BitVec 2) : Statement (.mwaitAll t i) := by
  refine ⟨fun w h => ?_, nofun⟩
  cases h
  have op : fld (8#6 ++ t ++ i ++ 0#21 : W32) 26 6 = 8#6 := by
    simp (discharger := decide) only [fld_append_hi]; rfl
  refine ⟨4, rfl, by rw [op]; rfl, ?_⟩
  simp only [decodeRaw, decodeMx, op, BitVec.reduceToNat]
  simp (discharger := decide) only [fld_append_hi, fld_append_lo, fld_all, Nat.reduceSub]
  rfl

theorem mwaitBank (t : BitVec 3) (i : BitVec 2) (n : BitVec 3) : Statement (.mwaitBank t i n) := by
  refine ⟨fun w h => ?_, nofun⟩
  cases h
  have op : fld (8#6 ++ t ++ i ++ 1#1 ++ n ++ 0#17 : W32) 26 6 = 8#6 := by
    simp (discharger := decide) only [fld_append_hi]; rfl
  refine ⟨4, rfl, by rw [op]; rfl, ?_⟩
  simp only [decodeRaw, decodeMx, op, BitVec.reduceToNat]
  simp (discharger := decide) only [fld_append_hi, fld_append_lo, fld_all, Nat.reduceSub]
  rw [show (fld (8#6 ++ t ++ i ++ 1#1 ++ n ++ 0#17 : W32) 0 21 == 0#21) = false from beq_false_of_ne (fld_ne _ _ _ 20 (by decide) (by simp only [BitVec.getLsbD_append]; rfl))]
  rfl

theorem sqclr (t : BitVec 3) (i : BitVec 2) (m : BitVec 2) : Statement (.sqclr t i m) := by
  refine ⟨fun w h => ?_, nofun⟩
  cases h
  have op : fld (9#6 ++ t ++ i ++ 0#19 ++ m : W32) 26 6 = 9#6 := by
    simp (discharger := decide) only [fld_append_hi]; rfl
  refine ⟨4, rfl, by rw [op]; rfl, ?_⟩
  simp only [decodeRaw, decodeMx, op, BitVec.reduceToNat]
  simp (discharger := decide) only [fld_append_hi, fld_append_lo, fld_all, Nat.reduceSub]
  rfl

theorem ftset (t : BitVec 3) (i : BitVec 2) (n : BitVec 4) (a : BitVec 5) : Statement (.ftset t i n a) := by
  refine ⟨fun w h => ?_, nofun⟩
  cases h
  have op : fld (10#6 ++ t ++ i ++ n ++ 0#1 ++ a ++ 0#11 : W32) 26 6 = 10#6 := by
    simp (discharger := decide) only [fld_append_hi]; rfl
  refine ⟨4, rfl, by rw [op]; rfl, ?_⟩
  simp only [decodeRaw, decodeMx, op, BitVec.reduceToNat]
  simp (discharger := decide) only [fld_append_hi, fld_append_lo, fld_all, Nat.reduceSub]
  rfl

theorem ftsel (t : BitVec 3) (i : BitVec 2) (l : BitVec 3) : Statement (.ftsel t i l) := by
  refine ⟨fun w h => ?_, nofun⟩
  cases h
  have op : fld (11#6 ++ t ++ i ++ l ++ 0#18 : W32) 26 6 = 11#6 := by
    simp (discharger := decide) only [fld_append_hi]; rfl
  refine ⟨4, rfl, by rw [op]; rfl, ?_⟩
  simp only [decodeRaw, decodeMx, op, BitVec.reduceToNat]
  simp (discharger := decide) only [fld_append_hi, fld_append_lo, fld_all, Nat.reduceSub]
  rfl

theorem finit (t : BitVec 3) (i : BitVec 2) (n : BitVec 3) (a : BitVec 5) : Statement (.finit t i n a) := by
  refine ⟨fun w h => ?_, nofun⟩
  cases h
  have op : fld (12#6 ++ t ++ i ++ n ++ 0#2 ++ a ++ 0#11 : W32) 26 6 = 12#6 := by
    simp (discharger := decide) only [fld_append_hi]; rfl
  refine ⟨4, rfl, by rw [op]; rfl, ?_⟩
  simp only [decodeRaw, decodeMx, op, BitVec.reduceToNat]
  simp (discharger := decide) only [fld_append_hi, fld_append_lo, fld_all, Nat.reduceSub]
  rfl

theorem fins (t : BitVec 3) (i : BitVec 2) (n : BitVec 3) (a : BitVec 5) (b : BitVec 5) : Statement (.fins t i n a b) := by
  refine ⟨fun w h => ?_, nofun⟩
  cases h
  have op : fld (13#6 ++ t ++ i ++ n ++ 0#2 ++ a ++ b ++ 0#6 : W32) 26 6 = 13#6 := by
    simp (discharger := decide) only [fld_append_hi]; rfl
  refine ⟨4, rfl, by rw [op]; rfl, ?_⟩
  simp only [decodeRaw, decodeMx, op, BitVec.reduceToNat]
  simp (discharger := decide) only [fld_append_hi, fld_append_lo, fld_all, Nat.reduceSub]
  rfl

theorem fmrg (t : BitVec 3) (i : BitVec 2) (d : BitVec 3) (s : BitVec 3) : Statement (.fmrg t i d s) := by
  refine ⟨fun w h => ?_, nofun⟩
  cases h
  have op : fld (14#6 ++ t ++ i ++ d ++ s ++ 0#15 : W32) 26 6 = 14#6 := by
    simp (discharger := decide) only [fld_append_hi]; rfl
  refine ⟨4, rfl, by rw [op]; rfl, ?_⟩
  simp only [decodeRaw, decodeMx, op, BitVec.reduceToNat]
  simp (discharger := decide) only [fld_append_hi, fld_append_lo, fld_all, Nat.reduceSub]
  rfl

theorem frd (t : BitVec 3) (i : BitVec 2) (d : BitVec 5) (n : BitVec 3) (a : BitVec 5) : Statement (.frd t i d n a) := by
  refine ⟨fun w h => ?_, nofun⟩
  cases h
  have op : fld (15#6 ++ t ++ i ++ d ++ n ++ a ++ 0#8 : W32) 26 6 = 15#6 := by
    simp (discharger := decide) only [fld_append_hi]; rfl
  refine ⟨4, rfl, by rw [op]; rfl, ?_⟩
  simp only [decodeRaw, decodeMx, op, BitVec.reduceToNat]
  simp (discharger := decide) only [fld_append_hi, fld_append_lo, fld_all, Nat.reduceSub]
  rfl

theorem fcnt (t : BitVec 3) (i : BitVec 2) (d : BitVec 5) (n : BitVec 3) (s : BitVec 3) : Statement (.fcnt t i d n s) := by
  refine ⟨fun w h => ?_, nofun⟩
  cases h
  have op : fld (16#6 ++ t ++ i ++ d ++ n ++ s ++ 0#10 : W32) 26 6 = 16#6 := by
    simp (discharger := decide) only [fld_append_hi]; rfl
  refine ⟨4, rfl, by rw [op]; rfl, ?_⟩
  simp only [decodeRaw, decodeMx, op, BitVec.reduceToNat]
  simp (discharger := decide) only [fld_append_hi, fld_append_lo, fld_all, Nat.reduceSub]
  rfl

theorem fclr (t : BitVec 3) (i : BitVec 2) (n : BitVec 3) : Statement (.fclr t i n) := by
  refine ⟨fun w h => ?_, nofun⟩
  cases h
  have op : fld (17#6 ++ t ++ i ++ n ++ 0#18 : W32) 26 6 = 17#6 := by
    simp (discharger := decide) only [fld_append_hi]; rfl
  refine ⟨4, rfl, by rw [op]; rfl, ?_⟩
  simp only [decodeRaw, decodeMx, op, BitVec.reduceToNat]
  simp (discharger := decide) only [fld_append_hi, fld_append_lo, fld_all, Nat.reduceSub]
  rfl

theorem tallocImm (t : BitVec 3) (i : BitVec 2) (x : BitVec 9) (a : BitVec 5) (c : BitVec 6) : Statement (.tallocImm t i x a c) := by
  refine ⟨fun w h => ?_, nofun⟩
  cases h
  have op : fld (1#6 ++ t ++ i ++ x ++ a ++ 1#1 ++ c : W32) 26 6 = 1#6 := by
    simp (discharger := decide) only [fld_append_hi]; rfl
  refine ⟨5, rfl, by rw [op]; rfl, ?_⟩
  simp only [decodeRaw, decodeMt, op, BitVec.reduceToNat]
  simp (discharger := decide) only [fld_append_hi, fld_append_lo, fld_all, Nat.reduceSub]
  rfl

theorem tallocReg (t : BitVec 3) (i : BitVec 2) (x : BitVec 9) (a : BitVec 5) (b : BitVec 5) : Statement (.tallocReg t i x a b) := by
  refine ⟨fun w h => ?_, nofun⟩
  cases h
  have op : fld (1#6 ++ t ++ i ++ x ++ a ++ 0#2 ++ b : W32) 26 6 = 1#6 := by
    simp (discharger := decide) only [fld_append_hi]; rfl
  refine ⟨5, rfl, by rw [op]; rfl, ?_⟩
  simp only [decodeRaw, decodeMt, op, BitVec.reduceToNat]
  simp (discharger := decide) only [fld_append_hi, fld_append_lo, fld_all, Nat.reduceSub]
  rfl

theorem tld (t : BitVec 3) (i : BitVec 2) (x : BitVec 9) (r : BitVec 2) (d : BitVec 5) (p : BitVec 5) : Statement (.tld t i x r d p) := by
  refine ⟨fun w h => ?_, nofun⟩
  cases h
  have op : fld (2#6 ++ t ++ i ++ x ++ r ++ d ++ p : W32) 26 6 = 2#6 := by
    simp (discharger := decide) only [fld_append_hi]; rfl
  refine ⟨5, rfl, by rw [op]; rfl, ?_⟩
  simp only [decodeRaw, decodeMt, op, BitVec.reduceToNat]
  simp (discharger := decide) only [fld_append_hi, fld_append_lo, fld_all, Nat.reduceSub]
  rfl

theorem tst (t : BitVec 3) (i : BitVec 2) (x : BitVec 9) (a : BitVec 5) (p : BitVec 5) : Statement (.tst t i x a p) := by
  refine ⟨fun w h => ?_, nofun⟩
  cases h
  have op : fld (3#6 ++ t ++ i ++ x ++ 0#2 ++ a ++ p : W32) 26 6 = 3#6 := by
    simp (discharger := decide) only [fld_append_hi]; rfl
  refine ⟨5, rfl, by rw [op]; rfl, ?_⟩
  simp only [decodeRaw, decodeMt, op, BitVec.reduceToNat]
  simp (discharger := decide) only [fld_append_hi, fld_append_lo, fld_all, Nat.reduceSub]
  rfl

theorem tcntImm (t : BitVec 3) (i : BitVec 2) (x : BitVec 9) (m : BitVec 11) : Statement (.tcntImm t i x m) := by
  refine ⟨fun w h => ?_, nofun⟩
  cases h
  have op : fld (4#6 ++ t ++ i ++ x ++ 1#1 ++ m : W32) 26 6 = 4#6 := by
    simp (discharger := decide) only [fld_append_hi]; rfl
  refine ⟨5, rfl, by rw [op]; rfl, ?_⟩
  simp only [decodeRaw, decodeMt, op, BitVec.reduceToNat]
  simp (discharger := decide) only [fld_append_hi, fld_append_lo, fld_all, Nat.reduceSub]
  rfl

theorem tcntReg (t : BitVec 3) (i : BitVec 2) (x : BitVec 9) (a : BitVec 5) : Statement (.tcntReg t i x a) := by
  refine ⟨fun w h => ?_, nofun⟩
  cases h
  have op : fld (4#6 ++ t ++ i ++ x ++ 0#1 ++ a ++ 0#6 : W32) 26 6 = 4#6 := by
    simp (discharger := decide) only [fld_append_hi]; rfl
  refine ⟨5, rfl, by rw [op]; rfl, ?_⟩
  simp only [decodeRaw, decodeMt, op, BitVec.reduceToNat]
  simp (discharger := decide) only [fld_append_hi, fld_append_lo, fld_all, Nat.reduceSub]
  rfl

theorem tdrop (t : BitVec 3) (i : BitVec 2) (x : BitVec 9) : Statement (.tdrop t i x) := by
  refine ⟨fun w h => ?_, nofun⟩
  cases h
  have op : fld (5#6 ++ t ++ i ++ x ++ 0#12 : W32) 26 6 = 5#6 := by
    simp (discharger := decide) only [fld_append_hi]; rfl
  refine ⟨5, rfl, by rw [op]; rfl, ?_⟩
  simp only [decodeRaw, decodeMt, op, BitVec.reduceToNat]
  simp (discharger := decide) only [fld_append_hi, fld_append_lo, fld_all, Nat.reduceSub]
  rfl

theorem tparkTile (t : BitVec 3) (i : BitVec 2) (x : BitVec 9) : Statement (.tparkTile t i x) := by
  refine ⟨fun w h => ?_, nofun⟩
  cases h
  have op : fld (6#6 ++ t ++ i ++ x ++ 0#12 : W32) 26 6 = 6#6 := by
    simp (discharger := decide) only [fld_append_hi]; rfl
  refine ⟨5, rfl, by rw [op]; rfl, ?_⟩
  simp only [decodeRaw, decodeMt, op, BitVec.reduceToNat]
  simp (discharger := decide) only [fld_append_hi, fld_append_lo, fld_all, Nat.reduceSub]
  rfl

theorem tparkReg (t : BitVec 3) (i : BitVec 2) (a : BitVec 5) : Statement (.tparkReg t i a) := by
  refine ⟨fun w h => ?_, nofun⟩
  cases h
  have op : fld (6#6 ++ t ++ i ++ 1#10 ++ a ++ 0#6 : W32) 26 6 = 6#6 := by
    simp (discharger := decide) only [fld_append_hi]; rfl
  refine ⟨5, rfl, by rw [op]; rfl, ?_⟩
  simp only [decodeRaw, decodeMt, op, BitVec.reduceToNat]
  simp (discharger := decide) only [fld_append_hi, fld_append_lo, fld_all, Nat.reduceSub]
  rw [show (fld (6#6 ++ t ++ i ++ 1#10 ++ a ++ 0#6 : W32) 0 12 == 0#12) = false from beq_false_of_ne (fld_ne _ _ _ 11 (by decide) (by simp only [BitVec.getLsbD_append]; rfl))]
  rfl

theorem tunparkTile (t : BitVec 3) (i : BitVec 2) (x : BitVec 9) : Statement (.tunparkTile t i x) := by
  refine ⟨fun w h => ?_, nofun⟩
  cases h
  have op : fld (7#6 ++ t ++ i ++ x ++ 0#12 : W32) 26 6 = 7#6 := by
    simp (discharger := decide) only [fld_append_hi]; rfl
  refine ⟨5, rfl, by rw [op]; rfl, ?_⟩
  simp only [decodeRaw, decodeMt, op, BitVec.reduceToNat]
  simp (discharger := decide) only [fld_append_hi, fld_append_lo, fld_all, Nat.reduceSub]
  rfl

theorem tunparkReg (t : BitVec 3) (i : BitVec 2) (a : BitVec 5) : Statement (.tunparkReg t i a) := by
  refine ⟨fun w h => ?_, nofun⟩
  cases h
  have op : fld (7#6 ++ t ++ i ++ 1#10 ++ a ++ 0#6 : W32) 26 6 = 7#6 := by
    simp (discharger := decide) only [fld_append_hi]; rfl
  refine ⟨5, rfl, by rw [op]; rfl, ?_⟩
  simp only [decodeRaw, decodeMt, op, BitVec.reduceToNat]
  simp (discharger := decide) only [fld_append_hi, fld_append_lo, fld_all, Nat.reduceSub]
  rw [show (fld (7#6 ++ t ++ i ++ 1#10 ++ a ++ 0#6 : W32) 0 12 == 0#12) = false from beq_false_of_ne (fld_ne _ _ _ 11 (by decide) (by simp only [BitVec.getLsbD_append]; rfl))]
  rfl

theorem tstat (t : BitVec 3) (i : BitVec 2) (x : BitVec 9) (d : BitVec 5) : Statement (.tstat t i x d) := by
  refine ⟨fun w h => ?_, nofun⟩
  cases h
  have op : fld (8#6 ++ t ++ i ++ x ++ 0#2 ++ d ++ 0#5 : W32) 26 6 = 8#6 := by
    simp (discharger := decide) only [fld_append_hi]; rfl
  refine ⟨5, rfl, by rw [op]; rfl, ?_⟩
  simp only [decodeRaw, decodeMt, op, BitVec.reduceToNat]
  simp (discharger := decide) only [fld_append_hi, fld_append_lo, fld_all, Nat.reduceSub]
  rfl

theorem tplane (t : BitVec 3) (i : BitVec 2) (d : BitVec 8) (s : BitVec 8) (r : BitVec 2) : Statement (.tplane t i d s r) := by
  refine ⟨fun w h => ?_, nofun⟩
  cases h
  have op : fld (9#6 ++ t ++ i ++ 0#1 ++ d ++ s ++ r ++ 0#2 : W32) 26 6 = 9#6 := by
    simp (discharger := decide) only [fld_append_hi]; rfl
  refine ⟨5, rfl, by rw [op]; rfl, ?_⟩
  simp only [decodeRaw, decodeMt, op, BitVec.reduceToNat]
  simp (discharger := decide) only [fld_append_hi, fld_append_lo, fld_all, Nat.reduceSub]
  rfl

theorem hbind (t : BitVec 3) (i : BitVec 2) (m : BitVec 8) (n : BitVec 4) (c : BitVec 4) : Statement (.hbind t i m n c) := by
  refine ⟨fun w h => ?_, nofun⟩
  cases h
  have op : fld (10#6 ++ t ++ i ++ 0#1 ++ m ++ n ++ c ++ 0#4 : W32) 26 6 = 10#6 := by
    simp (discharger := decide) only [fld_append_hi]; rfl
  refine ⟨5, rfl, by rw [op]; rfl, ?_⟩
  simp only [decodeRaw, decodeMt, op, BitVec.reduceToNat]
  simp (discharger := decide) only [fld_append_hi, fld_append_lo, fld_all, Nat.reduceSub]
  rfl

theorem hadvp (t : BitVec 3) (i : BitVec 2) (n : BitVec 4) (c : BitVec 4) : Statement (.hadvp t i n c) := by
  refine ⟨fun w h => ?_, nofun⟩
  cases h
  have op : fld (11#6 ++ t ++ i ++ 1#1 ++ n ++ 0#4 ++ c ++ 0#8 : W32) 26 6 = 11#6 := by
    simp (discharger := decide) only [fld_append_hi]; rfl
  refine ⟨5, rfl, by rw [op]; rfl, ?_⟩
  simp only [decodeRaw, decodeMt, op, BitVec.reduceToNat]
  simp (discharger := decide) only [fld_append_hi, fld_append_lo, fld_all, Nat.reduceSub]
  rfl

theorem hadvc (t : BitVec 3) (i : BitVec 2) (n : BitVec 4) (c : BitVec 4) : Statement (.hadvc t i n c) := by
  refine ⟨fun w h => ?_, nofun⟩
  cases h
  have op : fld (12#6 ++ t ++ i ++ 1#1 ++ n ++ 0#4 ++ c ++ 0#8 : W32) 26 6 = 12#6 := by
    simp (discharger := decide) only [fld_append_hi]; rfl
  refine ⟨5, rfl, by rw [op]; rfl, ?_⟩
  simp only [decodeRaw, decodeMt, op, BitVec.reduceToNat]
  simp (discharger := decide) only [fld_append_hi, fld_append_lo, fld_all, Nat.reduceSub]
  rfl

theorem qbind (t : BitVec 3) (i : BitVec 2) (h : BitVec 4) (q : BitVec 2) : Statement (.qbind t i h q) := by
  refine ⟨fun w h => ?_, nofun⟩
  cases h
  have op : fld (13#6 ++ t ++ i ++ 1#1 ++ h ++ 7#9 ++ q ++ 0#5 : W32) 26 6 = 13#6 := by
    simp (discharger := decide) only [fld_append_hi]; rfl
  refine ⟨5, rfl, by rw [op]; rfl, ?_⟩
  simp only [decodeRaw, decodeMt, op, BitVec.reduceToNat]
  simp (discharger := decide) only [fld_append_hi, fld_append_lo, fld_all, Nat.reduceSub]
  rfl

theorem qbindUnbind (t : BitVec 3) (i : BitVec 2) (q : BitVec 2) : Statement (.qbindUnbind t i q) := by
  refine ⟨fun w h => ?_, nofun⟩
  cases h
  have op : fld (13#6 ++ t ++ i ++ 23#14 ++ q ++ 0#5 : W32) 26 6 = 13#6 := by
    simp (discharger := decide) only [fld_append_hi]; rfl
  refine ⟨5, rfl, by rw [op]; rfl, ?_⟩
  simp only [decodeRaw, decodeMt, op, BitVec.reduceToNat]
  simp (discharger := decide) only [fld_append_hi, fld_append_lo, fld_all, Nat.reduceSub]
  rfl

theorem sqld (t : BitVec 3) (i : BitVec 2) (x : BitVec 9) (r : BitVec 2) (s : BitVec 1) (p : BitVec 5) : Statement (.sqld t i x r s p) := by
  refine ⟨fun w h => ?_, nofun⟩
  cases h
  have op : fld (14#6 ++ t ++ i ++ x ++ r ++ s ++ 0#4 ++ p : W32) 26 6 = 14#6 := by
    simp (discharger := decide) only [fld_append_hi]; rfl
  refine ⟨5, rfl, by rw [op]; rfl, ?_⟩
  simp only [decodeRaw, decodeMt, op, BitVec.reduceToNat]
  simp (discharger := decide) only [fld_append_hi, fld_append_lo, fld_all, Nat.reduceSub]
  rfl

theorem tshare (t : BitVec 3) (i : BitVec 2) (x : BitVec 9) : Statement (.tshare t i x) := by
  refine ⟨fun w h => ?_, nofun⟩
  cases h
  have op : fld (15#6 ++ t ++ i ++ x ++ 0#12 : W32) 26 6 = 15#6 := by
    simp (discharger := decide) only [fld_append_hi]; rfl
  refine ⟨5, rfl, by rw [op]; rfl, ?_⟩
  simp only [decodeRaw, decodeMt, op, BitVec.reduceToNat]
  simp (discharger := decide) only [fld_append_hi, fld_append_lo, fld_all, Nat.reduceSub]
  rfl

theorem tlw (t : BitVec 3) (i : BitVec 2) (x : BitVec 9) (r : BitVec 2) (d : BitVec 5) (a : BitVec 5) : Statement (.tlw t i x r d a) := by
  refine ⟨fun w h => ?_, nofun⟩
  cases h
  have op : fld (16#6 ++ t ++ i ++ x ++ r ++ d ++ a : W32) 26 6 = 16#6 := by
    simp (discharger := decide) only [fld_append_hi]; rfl
  refine ⟨5, rfl, by rw [op]; rfl, ?_⟩
  simp only [decodeRaw, decodeMt, op, BitVec.reduceToNat]
  simp (discharger := decide) only [fld_append_hi, fld_append_lo, fld_all, Nat.reduceSub]
  rfl

theorem tsw (t : BitVec 3) (i : BitVec 2) (x : BitVec 9) (a : BitVec 5) (b : BitVec 5) : Statement (.tsw t i x a b) := by
  refine ⟨fun w h => ?_, nofun⟩
  cases h
  have op : fld (17#6 ++ t ++ i ++ x ++ 0#2 ++ a ++ b : W32) 26 6 = 17#6 := by
    simp (discharger := decide) only [fld_append_hi]; rfl
  refine ⟨5, rfl, by rw [op]; rfl, ?_⟩
  simp only [decodeRaw, decodeMt, op, BitVec.reduceToNat]
  simp (discharger := decide) only [fld_append_hi, fld_append_lo, fld_all, Nat.reduceSub]
  rfl

theorem tatom (t : BitVec 3) (i : BitVec 2) (x : BitVec 9) (o : BitVec 2) (d : BitVec 5) (a : BitVec 5) : Statement (.tatom t i x o d a) := by
  refine ⟨fun w h => ?_, nofun⟩
  cases h
  have op : fld (18#6 ++ t ++ i ++ x ++ o ++ d ++ a : W32) 26 6 = 18#6 := by
    simp (discharger := decide) only [fld_append_hi]; rfl
  refine ⟨5, rfl, by rw [op]; rfl, ?_⟩
  simp only [decodeRaw, decodeMt, op, BitVec.reduceToNat]
  simp (discharger := decide) only [fld_append_hi, fld_append_lo, fld_all, Nat.reduceSub]
  rfl

theorem tquota (t : BitVec 3) (i : BitVec 2) (c : BitVec 2) (a : BitVec 5) : Statement (.tquota t i c a) := by
  refine ⟨fun w h => ?_, nofun⟩
  cases h
  have op : fld (19#6 ++ t ++ i ++ 0#9 ++ c ++ a ++ 0#5 : W32) 26 6 = 19#6 := by
    simp (discharger := decide) only [fld_append_hi]; rfl
  refine ⟨5, rfl, by rw [op]; rfl, ?_⟩
  simp only [decodeRaw, decodeMt, op, BitVec.reduceToNat]
  simp (discharger := decide) only [fld_append_hi, fld_append_lo, fld_all, Nat.reduceSub]
  rfl

theorem cld (t : BitVec 3) (i : BitVec 2) (x : BitVec 9) (r : BitVec 2) (d : BitVec 5) (c : BitVec 5) : Statement (.cld t i x r d c) := by
  refine ⟨fun w h => ?_, nofun⟩
  cases h
  have op : fld (1#6 ++ t ++ i ++ x ++ r ++ d ++ c : W32) 26 6 = 1#6 := by
    simp (discharger := decide) only [fld_append_hi]; rfl
  refine ⟨6, rfl, by rw [op]; rfl, ?_⟩
  simp only [decodeRaw, decodeMc, op, BitVec.reduceToNat]
  simp (discharger := decide) only [fld_append_hi, fld_append_lo, fld_all, Nat.reduceSub]
  rfl

theorem cst (t : BitVec 3) (i : BitVec 2) (x : BitVec 9) (a : BitVec 5) (c : BitVec 5) : Statement (.cst t i x a c) := by
  refine ⟨fun w h => ?_, nofun⟩
  cases h
  have op : fld (2#6 ++ t ++ i ++ x ++ 0#2 ++ a ++ c : W32) 26 6 = 2#6 := by
    simp (discharger := decide) only [fld_append_hi]; rfl
  refine ⟨6, rfl, by rw [op]; rfl, ?_⟩
  simp only [decodeRaw, decodeMc, op, BitVec.reduceToNat]
  simp (discharger := decide) only [fld_append_hi, fld_append_lo, fld_all, Nat.reduceSub]
  rfl

theorem ccopy (t : BitVec 3) (i : BitVec 2) (x : BitVec 9) (r : BitVec 2) (c : BitVec 5) : Statement (.ccopy t i x r c) := by
  refine ⟨fun w h => ?_, nofun⟩
  cases h
  have op : fld (3#6 ++ t ++ i ++ x ++ r ++ 0#5 ++ c : W32) 26 6 = 3#6 := by
    simp (discharger := decide) only [fld_append_hi]; rfl
  refine ⟨6, rfl, by rw [op]; rfl, ?_⟩
  simp only [decodeRaw, decodeMc, op, BitVec.reduceToNat]
  simp (discharger := decide) only [fld_append_hi, fld_append_lo, fld_all, Nat.reduceSub]
  rfl

theorem ccnt (t : BitVec 3) (i : BitVec 2) (x : BitVec 9) (a : BitVec 5) (c : BitVec 5) : Statement (.ccnt t i x a c) := by
  refine ⟨fun w h => ?_, nofun⟩
  cases h
  have op : fld (4#6 ++ t ++ i ++ x ++ 0#2 ++ a ++ c : W32) 26 6 = 4#6 := by
    simp (discharger := decide) only [fld_append_hi]; rfl
  refine ⟨6, rfl, by rw [op]; rfl, ?_⟩
  simp only [decodeRaw, decodeMc, op, BitVec.reduceToNat]
  simp (discharger := decide) only [fld_append_hi, fld_append_lo, fld_all, Nat.reduceSub]
  rfl

theorem clw (t : BitVec 3) (i : BitVec 2) (x : BitVec 9) (r : BitVec 2) (d : BitVec 5) (c : BitVec 5) : Statement (.clw t i x r d c) := by
  refine ⟨fun w h => ?_, nofun⟩
  cases h
  have op : fld (5#6 ++ t ++ i ++ x ++ r ++ d ++ c : W32) 26 6 = 5#6 := by
    simp (discharger := decide) only [fld_append_hi]; rfl
  refine ⟨6, rfl, by rw [op]; rfl, ?_⟩
  simp only [decodeRaw, decodeMc, op, BitVec.reduceToNat]
  simp (discharger := decide) only [fld_append_hi, fld_append_lo, fld_all, Nat.reduceSub]
  rfl

theorem csw (t : BitVec 3) (i : BitVec 2) (x : BitVec 9) (b : BitVec 5) (c : BitVec 5) : Statement (.csw t i x b c) := by
  refine ⟨fun w h => ?_, nofun⟩
  cases h
  have op : fld (6#6 ++ t ++ i ++ x ++ 0#2 ++ b ++ c : W32) 26 6 = 6#6 := by
    simp (discharger := decide) only [fld_append_hi]; rfl
  refine ⟨6, rfl, by rw [op]; rfl, ?_⟩
  simp only [decodeRaw, decodeMc, op, BitVec.reduceToNat]
  simp (discharger := decide) only [fld_append_hi, fld_append_lo, fld_all, Nat.reduceSub]
  rfl

theorem catom (t : BitVec 3) (i : BitVec 2) (x : BitVec 9) (o : BitVec 2) (d : BitVec 5) (a : BitVec 5) : Statement (.catom t i x o d a) := by
  refine ⟨fun w h => ?_, nofun⟩
  cases h
  have op : fld (7#6 ++ t ++ i ++ x ++ o ++ d ++ a : W32) 26 6 = 7#6 := by
    simp (discharger := decide) only [fld_append_hi]; rfl
  refine ⟨6, rfl, by rw [op]; rfl, ?_⟩
  simp only [decodeRaw, decodeMc, op, BitVec.reduceToNat]
  simp (discharger := decide) only [fld_append_hi, fld_append_lo, fld_all, Nat.reduceSub]
  rfl

theorem binitImm (t : BitVec 3) (i : BitVec 2) (n : BitVec 11) (m : BitVec 9) : Statement (.binitImm t i n m) := by
  refine ⟨fun w h => ?_, nofun⟩
  cases h
  have op : fld (8#6 ++ t ++ i ++ n ++ 1#1 ++ m : W32) 26 6 = 8#6 := by
    simp (discharger := decide) only [fld_append_hi]; rfl
  refine ⟨6, rfl, by rw [op]; rfl, ?_⟩
  simp only [decodeRaw, decodeMc, op, BitVec.reduceToNat]
  simp (discharger := decide) only [fld_append_hi, fld_append_lo, fld_all, Nat.reduceSub]
  rfl

theorem binitReg (t : BitVec 3) (i : BitVec 2) (n : BitVec 11) (a : BitVec 5) : Statement (.binitReg t i n a) := by
  refine ⟨fun w h => ?_, nofun⟩
  cases h
  have op : fld (8#6 ++ t ++ i ++ n ++ 0#1 ++ a ++ 0#4 : W32) 26 6 = 8#6 := by
    simp (discharger := decide) only [fld_append_hi]; rfl
  refine ⟨6, rfl, by rw [op]; rfl, ?_⟩
  simp only [decodeRaw, decodeMc, op, BitVec.reduceToNat]
  simp (discharger := decide) only [fld_append_hi, fld_append_lo, fld_all, Nat.reduceSub]
  rfl

theorem barv (t : BitVec 3) (i : BitVec 2) (n : BitVec 11) : Statement (.barv t i n) := by
  refine ⟨fun w h => ?_, nofun⟩
  cases h
  have op : fld (9#6 ++ t ++ i ++ n ++ 0#10 : W32) 26 6 = 9#6 := by
    simp (discharger := decide) only [fld_append_hi]; rfl
  refine ⟨6, rfl, by rw [op]; rfl, ?_⟩
  simp only [decodeRaw, decodeMc, op, BitVec.reduceToNat]
  simp (discharger := decide) only [fld_append_hi, fld_append_lo, fld_all, Nat.reduceSub]
  rfl

theorem barvRemote (t : BitVec 3) (i : BitVec 2) (n : BitVec 11) (c : BitVec 5) : Statement (.barvRemote t i n c) := by
  refine ⟨fun w h => ?_, nofun⟩
  cases h
  have op : fld (9#6 ++ t ++ i ++ n ++ 1#1 ++ c ++ 0#4 : W32) 26 6 = 9#6 := by
    simp (discharger := decide) only [fld_append_hi]; rfl
  refine ⟨6, rfl, by rw [op]; rfl, ?_⟩
  simp only [decodeRaw, decodeMc, op, BitVec.reduceToNat]
  simp (discharger := decide) only [fld_append_hi, fld_append_lo, fld_all, Nat.reduceSub]
  rw [show (fld (9#6 ++ t ++ i ++ n ++ 1#1 ++ c ++ 0#4 : W32) 0 10 == 0#10) = false from beq_false_of_ne (fld_ne _ _ _ 9 (by decide) (by simp only [BitVec.getLsbD_append]; rfl))]
  rfl

theorem bwait (t : BitVec 3) (i : BitVec 2) (n : BitVec 11) : Statement (.bwait t i n) := by
  refine ⟨fun w h => ?_, nofun⟩
  cases h
  have op : fld (10#6 ++ t ++ i ++ n ++ 0#10 : W32) 26 6 = 10#6 := by
    simp (discharger := decide) only [fld_append_hi]; rfl
  refine ⟨6, rfl, by rw [op]; rfl, ?_⟩
  simp only [decodeRaw, decodeMc, op, BitVec.reduceToNat]
  simp (discharger := decide) only [fld_append_hi, fld_append_lo, fld_all, Nat.reduceSub]
  rfl

theorem bexp (t : BitVec 3) (i : BitVec 2) (n : BitVec 11) (a : BitVec 5) : Statement (.bexp t i n a) := by
  refine ⟨fun w h => ?_, nofun⟩
  cases h
  have op : fld (11#6 ++ t ++ i ++ n ++ 0#1 ++ a ++ 0#4 : W32) 26 6 = 11#6 := by
    simp (discharger := decide) only [fld_append_hi]; rfl
  refine ⟨6, rfl, by rw [op]; rfl, ?_⟩
  simp only [decodeRaw, decodeMc, op, BitVec.reduceToNat]
  simp (discharger := decide) only [fld_append_hi, fld_append_lo, fld_all, Nat.reduceSub]
  rfl

theorem btry (t : BitVec 3) (i : BitVec 2) (n : BitVec 11) : Statement (.btry t i n) := by
  refine ⟨fun w h => ?_, nofun⟩
  cases h
  have op : fld (12#6 ++ t ++ i ++ n ++ 0#10 : W32) 26 6 = 12#6 := by
    simp (discharger := decide) only [fld_append_hi]; rfl
  refine ⟨6, rfl, by rw [op]; rfl, ?_⟩
  simp only [decodeRaw, decodeMc, op, BitVec.reduceToNat]
  simp (discharger := decide) only [fld_append_hi, fld_append_lo, fld_all, Nat.reduceSub]
  rfl

theorem csev (t : BitVec 3) (i : BitVec 2) (c : BitVec 5) (m : BitVec 4) : Statement (.csev t i c m) := by
  refine ⟨fun w h => ?_, nofun⟩
  cases h
  have op : fld (13#6 ++ t ++ i ++ 0#12 ++ c ++ m : W32) 26 6 = 13#6 := by
    simp (discharger := decide) only [fld_append_hi]; rfl
  refine ⟨6, rfl, by rw [op]; rfl, ?_⟩
  simp only [decodeRaw, decodeMc, op, BitVec.reduceToNat]
  simp (discharger := decide) only [fld_append_hi, fld_append_lo, fld_all, Nat.reduceSub]
  rfl

theorem gls (t : BitVec 3) (i : BitVec 2) (d : BitVec 5) (e : BitVec 6) (y : BitVec 3) : Statement (.gls t i d e y) := by
  refine ⟨fun w h => ?_, nofun⟩
  cases h
  have op : fld (1#6 ++ t ++ i ++ d ++ e ++ y ++ 0#7 : W32) 26 6 = 1#6 := by
    simp (discharger := decide) only [fld_append_hi]; rfl
  refine ⟨7, rfl, by rw [op]; rfl, ?_⟩
  simp only [decodeRaw, decodeMg, op, BitVec.reduceToNat]
  simp (discharger := decide) only [fld_append_hi, fld_append_lo, fld_all, Nat.reduceSub]
  rfl

theorem gss (t : BitVec 3) (i : BitVec 2) (a : BitVec 5) (e : BitVec 6) (y : BitVec 3) : Statement (.gss t i a e y) := by
  refine ⟨fun w h => ?_, nofun⟩
  cases h
  have op : fld (2#6 ++ t ++ i ++ a ++ e ++ y ++ 0#7 : W32) 26 6 = 2#6 := by
    simp (discharger := decide) only [fld_append_hi]; rfl
  refine ⟨7, rfl, by rw [op]; rfl, ?_⟩
  simp only [decodeRaw, decodeMg, op, BitVec.reduceToNat]
  simp (discharger := decide) only [fld_append_hi, fld_append_lo, fld_all, Nat.reduceSub]
  rfl

theorem gvst (t : BitVec 3) (i : BitVec 2) (a : BitVec 5) (e : BitVec 6) : Statement (.gvst t i a e) := by
  refine ⟨fun w h => ?_, nofun⟩
  cases h
  have op : fld (3#6 ++ t ++ i ++ a ++ e ++ 0#10 : W32) 26 6 = 3#6 := by
    simp (discharger := decide) only [fld_append_hi]; rfl
  refine ⟨7, rfl, by rw [op]; rfl, ?_⟩
  simp only [decodeRaw, decodeMg, op, BitVec.reduceToNat]
  simp (discharger := decide) only [fld_append_hi, fld_append_lo, fld_all, Nat.reduceSub]
  rfl

theorem gfetchImm (t : BitVec 3) (i : BitVec 2) (x : BitVec 9) (n : BitVec 3) (c : BitVec 5) (p : BitVec 3) : Statement (.gfetchImm t i x n c p) := by
  refine ⟨fun w h => ?_, nofun⟩
  cases h
  have op : fld (4#6 ++ t ++ i ++ x ++ n ++ 1#1 ++ c ++ p : W32) 26 6 = 4#6 := by
    simp (discharger := decide) only [fld_append_hi]; rfl
  refine ⟨7, rfl, by rw [op]; rfl, ?_⟩
  simp only [decodeRaw, decodeMg, op, BitVec.reduceToNat]
  simp (discharger := decide) only [fld_append_hi, fld_append_lo, fld_all, Nat.reduceSub]
  rfl

theorem gfetchReg (t : BitVec 3) (i : BitVec 2) (x : BitVec 9) (n : BitVec 3) (c : BitVec 5) (p : BitVec 3) : Statement (.gfetchReg t i x n c p) := by
  refine ⟨fun w h => ?_, nofun⟩
  cases h
  have op : fld (4#6 ++ t ++ i ++ x ++ n ++ 0#1 ++ c ++ p : W32) 26 6 = 4#6 := by
    simp (discharger := decide) only [fld_append_hi]; rfl
  refine ⟨7, rfl, by rw [op]; rfl, ?_⟩
  simp only [decodeRaw, decodeMg, op, BitVec.reduceToNat]
  simp (discharger := decide) only [fld_append_hi, fld_append_lo, fld_all, Nat.reduceSub]
  rfl

theorem ggather (t : BitVec 3) (i : BitVec 2) (x : BitVec 9) (n : BitVec 3) (j : BitVec 5) : Statement (.ggather t i x n j) := by
  refine ⟨fun w h => ?_, nofun⟩
  cases h
  have op : fld (5#6 ++ t ++ i ++ x ++ n ++ j ++ 0#4 : W32) 26 6 = 5#6 := by
    simp (discharger := decide) only [fld_append_hi]; rfl
  refine ⟨7, rfl, by rw [op]; rfl, ?_⟩
  simp only [decodeRaw, decodeMg, op, BitVec.reduceToNat]
  simp (discharger := decide) only [fld_append_hi, fld_append_lo, fld_all, Nat.reduceSub]
  rfl

theorem gscatter (t : BitVec 3) (i : BitVec 2) (x : BitVec 9) (n : BitVec 3) (j : BitVec 5) (r : BitVec 2) : Statement (.gscatter t i x n j r) := by
  refine ⟨fun w h => ?_, nofun⟩
  cases h
  have op : fld (6#6 ++ t ++ i ++ x ++ n ++ j ++ r ++ 0#2 : W32) 26 6 = 6#6 := by
    simp (discharger := decide) only [fld_append_hi]; rfl
  refine ⟨7, rfl, by rw [op]; rfl, ?_⟩
  simp only [decodeRaw, decodeMg, op, BitVec.reduceToNat]
  simp (discharger := decide) only [fld_append_hi, fld_append_lo, fld_all, Nat.reduceSub]
  rfl

theorem gstore (t : BitVec 3) (i : BitVec 2) (x : BitVec 9) (n : BitVec 3) (r : BitVec 2) (p : BitVec 3) : Statement (.gstore t i x n r p) := by
  refine ⟨fun w h => ?_, nofun⟩
  cases h
  have op : fld (7#6 ++ t ++ i ++ x ++ n ++ r ++ 0#4 ++ p : W32) 26 6 = 7#6 := by
    simp (discharger := decide) only [fld_append_hi]; rfl
  refine ⟨7, rfl, by rw [op]; rfl, ?_⟩
  simp only [decodeRaw, decodeMg, op, BitVec.reduceToNat]
  simp (discharger := decide) only [fld_append_hi, fld_append_lo, fld_all, Nat.reduceSub]
  rfl

theorem gcopy (t : BitVec 3) (i : BitVec 2) (d : BitVec 3) (s : BitVec 3) (l : BitVec 5) (p : BitVec 3) : Statement (.gcopy t i d s l p) := by
  refine ⟨fun w h => ?_, nofun⟩
  cases h
  have op : fld (8#6 ++ t ++ i ++ d ++ s ++ l ++ 0#7 ++ p : W32) 26 6 = 8#6 := by
    simp (discharger := decide) only [fld_append_hi]; rfl
  refine ⟨7, rfl, by rw [op]; rfl, ?_⟩
  simp only [decodeRaw, decodeMg, op, BitVec.reduceToNat]
  simp (discharger := decide) only [fld_append_hi, fld_append_lo, fld_all, Nat.reduceSub]
  rfl

theorem gatom (t : BitVec 3) (i : BitVec 2) (d : BitVec 5) (e : BitVec 6) (a : BitVec 5) (o : BitVec 2) (s : BitVec 3) : Statement (.gatom t i d e a o s) := by
  refine ⟨fun w h => ?_, nofun⟩
  cases h
  have op : fld (9#6 ++ t ++ i ++ d ++ e ++ a ++ o ++ s : W32) 26 6 = 9#6 := by
    simp (discharger := decide) only [fld_append_hi]; rfl
  refine ⟨7, rfl, by rw [op]; rfl, ?_⟩
  simp only [decodeRaw, decodeMg, op, BitVec.reduceToNat]
  simp (discharger := decide) only [fld_append_hi, fld_append_lo, fld_all, Nat.reduceSub]
  rfl

theorem gcas (t : BitVec 3) (i : BitVec 2) (d : BitVec 5) (e : BitVec 6) (a : BitVec 5) (s : BitVec 3) : Statement (.gcas t i d e a s) := by
  refine ⟨fun w h => ?_, nofun⟩
  cases h
  have op : fld (10#6 ++ t ++ i ++ d ++ e ++ a ++ 0#2 ++ s : W32) 26 6 = 10#6 := by
    simp (discharger := decide) only [fld_append_hi]; rfl
  refine ⟨7, rfl, by rw [op]; rfl, ?_⟩
  simp only [decodeRaw, decodeMg, op, BitVec.reduceToNat]
  simp (discharger := decide) only [fld_append_hi, fld_append_lo, fld_all, Nat.reduceSub]
  rfl

theorem gwait (t : BitVec 3) (i : BitVec 2) (f : BitVec 5) (v : BitVec 5) : Statement (.gwait t i f v) := by
  refine ⟨fun w h => ?_, nofun⟩
  cases h
  have op : fld (11#6 ++ t ++ i ++ 0#5 ++ f ++ v ++ 0#6 : W32) 26 6 = 11#6 := by
    simp (discharger := decide) only [fld_append_hi]; rfl
  refine ⟨7, rfl, by rw [op]; rfl, ?_⟩
  simp only [decodeRaw, decodeMg, op, BitVec.reduceToNat]
  simp (discharger := decide) only [fld_append_hi, fld_append_lo, fld_all, Nat.reduceSub]
  rfl

theorem gacq (t : BitVec 3) (i : BitVec 2) (f : BitVec 5) (s : BitVec 3) : Statement (.gacq t i f s) := by
  refine ⟨fun w h => ?_, nofun⟩
  cases h
  have op : fld (12#6 ++ t ++ i ++ 0#5 ++ f ++ 0#8 ++ s : W32) 26 6 = 12#6 := by
    simp (discharger := decide) only [fld_append_hi]; rfl
  refine ⟨7, rfl, by rw [op]; rfl, ?_⟩
  simp only [decodeRaw, decodeMg, op, BitVec.reduceToNat]
  simp (discharger := decide) only [fld_append_hi, fld_append_lo, fld_all, Nat.reduceSub]
  rfl

theorem grel (t : BitVec 3) (i : BitVec 2) (f : BitVec 5) (s : BitVec 3) : Statement (.grel t i f s) := by
  refine ⟨fun w h => ?_, nofun⟩
  cases h
  have op : fld (13#6 ++ t ++ i ++ 0#5 ++ f ++ 0#8 ++ s : W32) 26 6 = 13#6 := by
    simp (discharger := decide) only [fld_append_hi]; rfl
  refine ⟨7, rfl, by rw [op]; rfl, ?_⟩
  simp only [decodeRaw, decodeMg, op, BitVec.reduceToNat]
  simp (discharger := decide) only [fld_append_hi, fld_append_lo, fld_all, Nat.reduceSub]
  rfl

theorem gbind (t : BitVec 3) (i : BitVec 2) (r : BitVec 5) (l : BitVec 5) (f : BitVec 5) : Statement (.gbind t i r l f) := by
  refine ⟨fun w h => ?_, nofun⟩
  cases h
  have op : fld (14#6 ++ t ++ i ++ r ++ l ++ f ++ 0#6 : W32) 26 6 = 14#6 := by
    simp (discharger := decide) only [fld_append_hi]; rfl
  refine ⟨7, rfl, by rw [op]; rfl, ?_⟩
  simp only [decodeRaw, decodeMg, op, BitVec.reduceToNat]
  simp (discharger := decide) only [fld_append_hi, fld_append_lo, fld_all, Nat.reduceSub]
  rfl

theorem gunbind (t : BitVec 3) (i : BitVec 2) (r : BitVec 5) (f : BitVec 5) : Statement (.gunbind t i r f) := by
  refine ⟨fun w h => ?_, nofun⟩
  cases h
  have op : fld (15#6 ++ t ++ i ++ r ++ 0#5 ++ f ++ 0#6 : W32) 26 6 = 15#6 := by
    simp (discharger := decide) only [fld_append_hi]; rfl
  refine ⟨7, rfl, by rw [op]; rfl, ?_⟩
  simp only [decodeRaw, decodeMg, op, BitVec.reduceToNat]
  simp (discharger := decide) only [fld_append_hi, fld_append_lo, fld_all, Nat.reduceSub]
  rfl

theorem gqfence (t : BitVec 3) (i : BitVec 2) (m : BitVec 4) : Statement (.gqfence t i m) := by
  refine ⟨fun w h => ?_, nofun⟩
  cases h
  have op : fld (16#6 ++ t ++ i ++ 0#17 ++ m : W32) 26 6 = 16#6 := by
    simp (discharger := decide) only [fld_append_hi]; rfl
  refine ⟨7, rfl, by rw [op]; rfl, ?_⟩
  simp only [decodeRaw, decodeMg, op, BitVec.reduceToNat]
  simp (discharger := decide) only [fld_append_hi, fld_append_lo, fld_all, Nat.reduceSub]
  rfl

theorem gsluicePromote (t : BitVec 3) (i : BitVec 2) (a : BitVec 5) (p : BitVec 3) : Statement (.gsluicePromote t i a p) := by
  refine ⟨fun w h => ?_, nofun⟩
  cases h
  have op : fld (17#6 ++ t ++ i ++ 0#5 ++ a ++ 0#8 ++ p : W32) 26 6 = 17#6 := by
    simp (discharger := decide) only [fld_append_hi]; rfl
  refine ⟨7, rfl, by rw [op]; rfl, ?_⟩
  simp only [decodeRaw, decodeMg, op, BitVec.reduceToNat]
  simp (discharger := decide) only [fld_append_hi, fld_append_lo, fld_all, Nat.reduceSub]
  rfl

theorem gsluicePromoteX (t : BitVec 3) (i : BitVec 2) (a : BitVec 5) (p : BitVec 3) : Statement (.gsluicePromoteX t i a p) := by
  refine ⟨fun w h => ?_, nofun⟩
  cases h
  have op : fld (17#6 ++ t ++ i ++ 0#5 ++ a ++ 0#8 ++ p : W32) 26 6 = 17#6 := by
    simp (discharger := decide) only [fld_append_hi]; rfl
  refine ⟨7, rfl, by rw [op]; rfl, ?_⟩
  simp only [decodeRaw, decodeMg, op, BitVec.reduceToNat]
  simp (discharger := decide) only [fld_append_hi, fld_append_lo, fld_all, Nat.reduceSub]
  rfl

theorem gsluiceRelease (t : BitVec 3) (i : BitVec 2) (a : BitVec 5) (p : BitVec 3) : Statement (.gsluiceRelease t i a p) := by
  refine ⟨fun w h => ?_, nofun⟩
  cases h
  have op : fld (17#6 ++ t ++ i ++ 0#5 ++ a ++ 0#8 ++ p : W32) 26 6 = 17#6 := by
    simp (discharger := decide) only [fld_append_hi]; rfl
  refine ⟨7, rfl, by rw [op]; rfl, ?_⟩
  simp only [decodeRaw, decodeMg, op, BitVec.reduceToNat]
  simp (discharger := decide) only [fld_append_hi, fld_append_lo, fld_all, Nat.reduceSub]
  rfl

theorem gskimSelect (t : BitVec 3) (i : BitVec 2) (a : BitVec 5) (p : BitVec 3) : Statement (.gskimSelect t i a p) := by
  refine ⟨fun w h => ?_, nofun⟩
  cases h
  have op : fld (18#6 ++ t ++ i ++ 0#5 ++ a ++ 0#8 ++ p : W32) 26 6 = 18#6 := by
    simp (discharger := decide) only [fld_append_hi]; rfl
  refine ⟨7, rfl, by rw [op]; rfl, ?_⟩
  simp only [decodeRaw, decodeMg, op, BitVec.reduceToNat]
  simp (discharger := decide) only [fld_append_hi, fld_append_lo, fld_all, Nat.reduceSub]
  rfl

theorem gskimBiasw (t : BitVec 3) (i : BitVec 2) (a : BitVec 5) (p : BitVec 3) : Statement (.gskimBiasw t i a p) := by
  refine ⟨fun w h => ?_, nofun⟩
  cases h
  have op : fld (18#6 ++ t ++ i ++ 0#5 ++ a ++ 0#8 ++ p : W32) 26 6 = 18#6 := by
    simp (discharger := decide) only [fld_append_hi]; rfl
  refine ⟨7, rfl, by rw [op]; rfl, ?_⟩
  simp only [decodeRaw, decodeMg, op, BitVec.reduceToNat]
  simp (discharger := decide) only [fld_append_hi, fld_append_lo, fld_all, Nat.reduceSub]
  rfl

theorem gskimEpoch (t : BitVec 3) (i : BitVec 2) (a : BitVec 5) (p : BitVec 3) : Statement (.gskimEpoch t i a p) := by
  refine ⟨fun w h => ?_, nofun⟩
  cases h
  have op : fld (18#6 ++ t ++ i ++ 0#5 ++ a ++ 0#8 ++ p : W32) 26 6 = 18#6 := by
    simp (discharger := decide) only [fld_append_hi]; rfl
  refine ⟨7, rfl, by rw [op]; rfl, ?_⟩
  simp only [decodeRaw, decodeMg, op, BitVec.reduceToNat]
  simp (discharger := decide) only [fld_append_hi, fld_append_lo, fld_all, Nat.reduceSub]
  rfl

theorem gcollAllreduce (t : BitVec 3) (i : BitVec 2) (a : BitVec 5) (p : BitVec 3) : Statement (.gcollAllreduce t i a p) := by
  refine ⟨fun w h => ?_, nofun⟩
  cases h
  have op : fld (19#6 ++ t ++ i ++ 0#5 ++ a ++ 0#8 ++ p : W32) 26 6 = 19#6 := by
    simp (discharger := decide) only [fld_append_hi]; rfl
  refine ⟨7, rfl, by rw [op]; rfl, ?_⟩
  simp only [decodeRaw, decodeMg, op, BitVec.reduceToNat]
  simp (discharger := decide) only [fld_append_hi, fld_append_lo, fld_all, Nat.reduceSub]
  rfl

theorem gcollReducescatter (t : BitVec 3) (i : BitVec 2) (a : BitVec 5) (p : BitVec 3) : Statement (.gcollReducescatter t i a p) := by
  refine ⟨fun w h => ?_, nofun⟩
  cases h
  have op : fld (19#6 ++ t ++ i ++ 0#5 ++ a ++ 0#8 ++ p : W32) 26 6 = 19#6 := by
    simp (discharger := decide) only [fld_append_hi]; rfl
  refine ⟨7, rfl, by rw [op]; rfl, ?_⟩
  simp only [decodeRaw, decodeMg, op, BitVec.reduceToNat]
  simp (discharger := decide) only [fld_append_hi, fld_append_lo, fld_all, Nat.reduceSub]
  rfl

theorem gcollAllgather (t : BitVec 3) (i : BitVec 2) (a : BitVec 5) (p : BitVec 3) : Statement (.gcollAllgather t i a p) := by
  refine ⟨fun w h => ?_, nofun⟩
  cases h
  have op : fld (19#6 ++ t ++ i ++ 0#5 ++ a ++ 0#8 ++ p : W32) 26 6 = 19#6 := by
    simp (discharger := decide) only [fld_append_hi]; rfl
  refine ⟨7, rfl, by rw [op]; rfl, ?_⟩
  simp only [decodeRaw, decodeMg, op, BitVec.reduceToNat]
  simp (discharger := decide) only [fld_append_hi, fld_append_lo, fld_all, Nat.reduceSub]
  rfl

theorem gcollBroadcast (t : BitVec 3) (i : BitVec 2) (a : BitVec 5) (p : BitVec 3) : Statement (.gcollBroadcast t i a p) := by
  refine ⟨fun w h => ?_, nofun⟩
  cases h
  have op : fld (19#6 ++ t ++ i ++ 0#5 ++ a ++ 0#8 ++ p : W32) 26 6 = 19#6 := by
    simp (discharger := decide) only [fld_append_hi]; rfl
  refine ⟨7, rfl, by rw [op]; rfl, ?_⟩
  simp only [decodeRaw, decodeMg, op, BitVec.reduceToNat]
  simp (discharger := decide) only [fld_append_hi, fld_append_lo, fld_all, Nat.reduceSub]
  rfl

theorem gsendData (t : BitVec 3) (i : BitVec 2) (a : BitVec 5) (p : BitVec 3) : Statement (.gsendData t i a p) := by
  refine ⟨fun w h => ?_, nofun⟩
  cases h
  have op : fld (20#6 ++ t ++ i ++ 0#5 ++ a ++ 0#8 ++ p : W32) 26 6 = 20#6 := by
    simp (discharger := decide) only [fld_append_hi]; rfl
  refine ⟨7, rfl, by rw [op]; rfl, ?_⟩
  simp only [decodeRaw, decodeMg, op, BitVec.reduceToNat]
  simp (discharger := decide) only [fld_append_hi, fld_append_lo, fld_all, Nat.reduceSub]
  rfl

theorem gsendLaunch (t : BitVec 3) (i : BitVec 2) (a : BitVec 5) (p : BitVec 3) : Statement (.gsendLaunch t i a p) := by
  refine ⟨fun w h => ?_, nofun⟩
  cases h
  have op : fld (20#6 ++ t ++ i ++ 0#5 ++ a ++ 0#8 ++ p : W32) 26 6 = 20#6 := by
    simp (discharger := decide) only [fld_append_hi]; rfl
  refine ⟨7, rfl, by rw [op]; rfl, ?_⟩
  simp only [decodeRaw, decodeMg, op, BitVec.reduceToNat]
  simp (discharger := decide) only [fld_append_hi, fld_append_lo, fld_all, Nat.reduceSub]
  rfl

theorem grecv (t : BitVec 3) (i : BitVec 2) (a : BitVec 5) (p : BitVec 3) : Statement (.grecv t i a p) := by
  refine ⟨fun w h => ?_, nofun⟩
  cases h
  have op : fld (21#6 ++ t ++ i ++ 0#5 ++ a ++ 0#8 ++ p : W32) 26 6 = 21#6 := by
    simp (discharger := decide) only [fld_append_hi]; rfl
  refine ⟨7, rfl, by rw [op]; rfl, ?_⟩
  simp only [decodeRaw, decodeMg, op, BitVec.reduceToNat]
  simp (discharger := decide) only [fld_append_hi, fld_append_lo, fld_all, Nat.reduceSub]
  rfl

theorem gpref (t : BitVec 3) (i : BitVec 2) (e : BitVec 6) (l : BitVec 5) : Statement (.gpref t i e l) := by
  refine ⟨fun w h => ?_, nofun⟩
  cases h
  have op : fld (22#6 ++ t ++ i ++ 0#5 ++ e ++ l ++ 0#5 : W32) 26 6 = 22#6 := by
    simp (discharger := decide) only [fld_append_hi]; rfl
  refine ⟨7, rfl, by rw [op]; rfl, ?_⟩
  simp only [decodeRaw, decodeMg, op, BitVec.reduceToNat]
  simp (discharger := decide) only [fld_append_hi, fld_append_lo, fld_all, Nat.reduceSub]
  rfl

theorem gtlbi (t : BitVec 3) (i : BitVec 2) (a : BitVec 5) (b : BitVec 5) (m : BitVec 2) : Statement (.gtlbi t i a b m) := by
  refine ⟨fun w h => ?_, nofun⟩
  cases h
  have op : fld (23#6 ++ t ++ i ++ 0#5 ++ a ++ b ++ m ++ 0#4 : W32) 26 6 = 23#6 := by
    simp (discharger := decide) only [fld_append_hi]; rfl
  refine ⟨7, rfl, by rw [op]; rfl, ?_⟩
  simp only [decodeRaw, decodeMg, op, BitVec.reduceToNat]
  simp (discharger := decide) only [fld_append_hi, fld_append_lo, fld_all, Nat.reduceSub]
  rfl

theorem rwLda : Statement .rwLda := by
  refine ⟨nofun, fun w h => ?_⟩
  cases h
  refine ⟨rfl, ?_⟩
  rfl

theorem rwLdb : Statement .rwLdb := by
  refine ⟨nofun, fun w h => ?_⟩
  cases h
  refine ⟨rfl, ?_⟩
  rfl

theorem rwStep : Statement .rwStep := by
  refine ⟨nofun, fun w h => ?_⟩
  cases h
  refine ⟨rfl, ?_⟩
  rfl

theorem rwSkip (tgt : BitVec 11) : Statement (.rwSkip tgt) := by
  refine ⟨nofun, fun w h => ?_⟩
  cases h
  refine ⟨rfl, ?_⟩
  have op : fld (4#6 ++ 0#47 ++ tgt : W64) 58 6 = 4#6 := by
    simp (discharger := decide) only [fld_append_hi]; rfl
  simp only [decodeRoutine, op, BitVec.reduceToNat]
  simp (discharger := decide) only [fld_append_hi, fld_append_lo, fld_all, Nat.reduceSub]
  rfl

theorem rwSpop : Statement .rwSpop := by
  refine ⟨nofun, fun w h => ?_⟩
  cases h
  refine ⟨rfl, ?_⟩
  rfl

theorem rwProm (tr : Bool) : Statement (.rwProm tr) := by
  refine ⟨nofun, fun w h => ?_⟩
  cases h
  refine ⟨rfl, ?_⟩
  cases tr <;> rfl

theorem rwKadv : Statement .rwKadv := by
  refine ⟨nofun, fun w h => ?_⟩
  cases h
  refine ⟨rfl, ?_⟩
  rfl

theorem rwJmore (tgt : BitVec 11) : Statement (.rwJmore tgt) := by
  refine ⟨nofun, fun w h => ?_⟩
  cases h
  refine ⟨rfl, ?_⟩
  have op : fld (8#6 ++ 0#47 ++ tgt : W64) 58 6 = 8#6 := by
    simp (discharger := decide) only [fld_append_hi]; rfl
  simp only [decodeRoutine, op, BitVec.reduceToNat]
  simp (discharger := decide) only [fld_append_hi, fld_append_lo, fld_all, Nat.reduceSub]
  rfl

theorem rwBwr (e : BitVec 2) : Statement (.rwBwr e) := by
  refine ⟨nofun, fun w h => ?_⟩
  cases h
  refine ⟨rfl, ?_⟩
  have op : fld (9#6 ++ 0#56 ++ e : W64) 58 6 = 9#6 := by
    simp (discharger := decide) only [fld_append_hi]; rfl
  simp only [decodeRoutine, op, BitVec.reduceToNat]
  simp (discharger := decide) only [fld_append_hi, fld_append_lo, fld_all, Nat.reduceSub]
  rfl

theorem rwEnd : Statement .rwEnd := by
  refine ⟨nofun, fun w h => ?_⟩
  cases h
  refine ⟨rfl, ?_⟩
  rfl

theorem bundleIssue : Statement .bundleIssue := ⟨nofun, nofun⟩

theorem computeResultLand : Statement .computeResultLand := ⟨nofun, nofun⟩

theorem globalLoadReturn : Statement .globalLoadReturn := ⟨nofun, nofun⟩

theorem idleExpire : Statement .idleExpire := ⟨nofun, nofun⟩

theorem forcedSwitch : Statement .forcedSwitch := ⟨nofun, nofun⟩

theorem segmentCopyComplete : Statement .segmentCopyComplete := ⟨nofun, nofun⟩

theorem launchAnswer : Statement .launchAnswer := ⟨nofun, nofun⟩

theorem retireComplete : Statement .retireComplete := ⟨nofun, nofun⟩

theorem killed : Statement .killed := ⟨nofun, nofun⟩

theorem watchdog : Statement .watchdog := ⟨nofun, nofun⟩

theorem storeFull : Statement .storeFull := ⟨nofun, nofun⟩

theorem overrunCrossing : Statement .overrunCrossing := ⟨nofun, nofun⟩

theorem overrun : Statement .overrun := ⟨nofun, nofun⟩

theorem late : Statement .late := ⟨nofun, nofun⟩

theorem unitPlace : Statement .unitPlace := ⟨nofun, nofun⟩

theorem preempt : Statement .preempt := ⟨nofun, nofun⟩

theorem frameWritten : Statement .frameWritten := ⟨nofun, nofun⟩

theorem unitResume : Statement .unitResume := ⟨nofun, nofun⟩

theorem preemptedCommandFault : Statement .preemptedCommandFault := ⟨nofun, nofun⟩

theorem translationWalkDone : Statement .translationWalkDone := ⟨nofun, nofun⟩

theorem pageFaultResolved : Statement .pageFaultResolved := ⟨nofun, nofun⟩

theorem commandStart : Statement .commandStart := ⟨nofun, nofun⟩

theorem copyEngineLine : Statement .copyEngineLine := ⟨nofun, nofun⟩

theorem commandComplete : Statement .commandComplete := ⟨nofun, nofun⟩

theorem invalidation : Statement .invalidation := ⟨nofun, nofun⟩

theorem invalidationComplete : Statement .invalidationComplete := ⟨nofun, nofun⟩

theorem gwaitReread : Statement .gwaitReread := ⟨nofun, nofun⟩

theorem parkComplete : Statement .parkComplete := ⟨nofun, nofun⟩

theorem unparkComplete : Statement .unparkComplete := ⟨nofun, nofun⟩

theorem storeErrorUncorrectable : Statement .storeErrorUncorrectable := ⟨nofun, nofun⟩

theorem softErrorCorrected : Statement .softErrorCorrected := ⟨nofun, nofun⟩

theorem retentionEnter : Statement .retentionEnter := ⟨nofun, nofun⟩

theorem retentionEntryDone : Statement .retentionEntryDone := ⟨nofun, nofun⟩

theorem retentionExitDone : Statement .retentionExitDone := ⟨nofun, nofun⟩

theorem matrixOpStart : Statement .matrixOpStart := ⟨nofun, nofun⟩

theorem matrixCallComplete : Statement .matrixCallComplete := ⟨nofun, nofun⟩

theorem matrixOpComplete : Statement .matrixOpComplete := ⟨nofun, nofun⟩

theorem mloadInstall : Statement .mloadInstall := ⟨nofun, nofun⟩

theorem frontOpStart : Statement .frontOpStart := ⟨nofun, nofun⟩

theorem frontInsert : Statement .frontInsert := ⟨nofun, nofun⟩

theorem admissionTest : Statement .admissionTest := ⟨nofun, nofun⟩

theorem signalRecheck : Statement .signalRecheck := ⟨nofun, nofun⟩

theorem launchComplete : Statement .launchComplete := ⟨nofun, nofun⟩

theorem queueEntryFetch : Statement .queueEntryFetch := ⟨nofun, nofun⟩

theorem map : Statement .map := ⟨nofun, nofun⟩

theorem unmap : Statement .unmap := ⟨nofun, nofun⟩

theorem switch : Statement .switch := ⟨nofun, nofun⟩

theorem allWaiting : Statement .allWaiting := ⟨nofun, nofun⟩

theorem partitionMove : Statement .partitionMove := ⟨nofun, nofun⟩

theorem pluginCall : Statement .pluginCall := ⟨nofun, nofun⟩

theorem pluginTimeout : Statement .pluginTimeout := ⟨nofun, nofun⟩

theorem firmwareCoreReset : Statement .firmwareCoreReset := ⟨nofun, nofun⟩

theorem tail : Statement .tail := ⟨nofun, nofun⟩

theorem enSet : Statement .enSet := ⟨nofun, nofun⟩

theorem enClear : Statement .enClear := ⟨nofun, nofun⟩

theorem phase : Statement .phase := ⟨nofun, nofun⟩

theorem job : Statement .job := ⟨nofun, nofun⟩

theorem registerWrite : Statement .registerWrite := ⟨nofun, nofun⟩

theorem hostSnoop : Statement .hostSnoop := ⟨nofun, nofun⟩

theorem hostMemAccess : Statement .hostMemAccess := ⟨nofun, nofun⟩

theorem ideIntegrityFail : Statement .ideIntegrityFail := ⟨nofun, nofun⟩

theorem launchFlit : Statement .launchFlit := ⟨nofun, nofun⟩

theorem sendFlit : Statement .sendFlit := ⟨nofun, nofun⟩

theorem collFlit : Statement .collFlit := ⟨nofun, nofun⟩

theorem abortFlit : Statement .abortFlit := ⟨nofun, nofun⟩

theorem timeFlit : Statement .timeFlit := ⟨nofun, nofun⟩

theorem creditFlit : Statement .creditFlit := ⟨nofun, nofun⟩

theorem answerFlit : Statement .answerFlit := ⟨nofun, nofun⟩

theorem linkLevelRetry : Statement .linkLevelRetry := ⟨nofun, nofun⟩

theorem promoteCopyComplete : Statement .promoteCopyComplete := ⟨nofun, nofun⟩

theorem stripeUncorrectable : Statement .stripeUncorrectable := ⟨nofun, nofun⟩

theorem promoteNospace : Statement .promoteNospace := ⟨nofun, nofun⟩

theorem leaveComplete : Statement .leaveComplete := ⟨nofun, nofun⟩

theorem fenChannelDown : Statement .fenChannelDown := ⟨nofun, nofun⟩

theorem skimRow : Statement .skimRow := ⟨nofun, nofun⟩

theorem skimEpochDequeue : Statement .skimEpochDequeue := ⟨nofun, nofun⟩

theorem debugSlotWrite : Statement .debugSlotWrite := ⟨nofun, nofun⟩

theorem halt : Statement .halt := ⟨nofun, nofun⟩

theorem resume : Statement .resume := ⟨nofun, nofun⟩

theorem dctlStep : Statement .dctlStep := ⟨nofun, nofun⟩

theorem snap : Statement .snap := ⟨nofun, nofun⟩

theorem liveStateWrite : Statement .liveStateWrite := ⟨nofun, nofun⟩

theorem tenSet : Statement .tenSet := ⟨nofun, nofun⟩

theorem sample : Statement .sample := ⟨nofun, nofun⟩

theorem replayRequest : Statement .replayRequest := ⟨nofun, nofun⟩

theorem powerOn : Statement .powerOn := ⟨nofun, nofun⟩

theorem commit : Statement .commit := ⟨nofun, nofun⟩

theorem attestationRequest : Statement .attestationRequest := ⟨nofun, nofun⟩

theorem fuseError : Statement .fuseError := ⟨nofun, nofun⟩

theorem thermalSample : Statement .thermalSample := ⟨nofun, nofun⟩

theorem storePerformed : Statement .storePerformed := ⟨nofun, nofun⟩

theorem peerRequest : Statement .peerRequest := ⟨nofun, nofun⟩

theorem functionCreate : Statement .functionCreate := ⟨nofun, nofun⟩

theorem functionDestroy : Statement .functionDestroy := ⟨nofun, nofun⟩

theorem weightObjectRegister : Statement .weightObjectRegister := ⟨nofun, nofun⟩

theorem fenRangeAssign : Statement .fenRangeAssign := ⟨nofun, nofun⟩

theorem attestationReport : Statement .attestationReport := ⟨nofun, nofun⟩

theorem firmwareUncorrectableError : Statement .firmwareUncorrectableError := ⟨nofun, nofun⟩

theorem pluginLoad : Statement .pluginLoad := ⟨nofun, nofun⟩

theorem debuggerEventSet : Statement .debuggerEventSet := ⟨nofun, nofun⟩

theorem ideKeySet : Statement .ideKeySet := ⟨nofun, nofun⟩

end Sys2Proof.Laws.F
end

