-- ==== Sys2Proof/Laws/Vector.lean ====
section
/-! SUPPORT. Elements of vector registers: splitting, packing, and what an element-wise operation writes (R128, R131). -/

namespace Sys2Proof.Machine

open Sys2Proof.Safety

theorem splitNat_length (w n v : Nat) : (splitNat w n v).length = n := by
  induction n generalizing v with
  | zero => rfl
  | succ n ih => simp [splitNat, ih]

theorem splitNat_getD (w n v i : Nat) (h : i < n) : (splitNat w n v).getD i 0 = v / 2 ^ (w * i) % 2 ^ w := by
  induction n generalizing v i with
  | zero => omega
  | succ n ih =>
    cases i with
    | zero => simp [splitNat]
    | succ i =>
      have := ih (v / 2 ^ w) i (by omega)
      simp only [splitNat, List.getD_cons_succ, this, Nat.div_div_eq_div_mul, ← Nat.pow_add]
      congr 3
      ring

theorem splitNat_getElem (w n v i : Nat) (h : i < (splitNat w n v).length) : (splitNat w n v)[i] = v / 2 ^ (w * i) % 2 ^ w := by
  have := splitNat_getD w n v i (by simpa [splitNat_length] using h)
  rwa [List.getD_eq_getElem _ _ h] at this

/-- An element read from a register is its field (R128). -/
theorem nth_elems (p : Shape) (v : VReg) (e : Nat) (h : e < p.count) : nth (elems p v) e = elemOf p v e := splitNat_getD _ _ _ _ h

theorem packNat_lt (w : Nat) (l : List Nat) : packNat w l < 2 ^ (w * l.length) := by
  induction l with
  | nil => simp [packNat]
  | cons a r ih =>
    have h1 : a % 2 ^ w < 2 ^ w := Nat.mod_lt _ (Nat.two_pow_pos w)
    have h2 : 2 ^ w * packNat w r + 2 ^ w ≤ 2 ^ w * 2 ^ (w * r.length) := by
      rw [← Nat.mul_succ]; exact Nat.mul_le_mul_left _ ih
    have e : 2 ^ (w * (a :: r).length) = 2 ^ w * 2 ^ (w * r.length) := by rw [← Nat.pow_add]; congr 1; simp; ring
    simp only [packNat]
    omega

theorem packNat_digit (w : Nat) (l : List Nat) (i : Nat) : packNat w l / 2 ^ (w * i) % 2 ^ w = l.getD i 0 % 2 ^ w := by
  induction l generalizing i with
  | nil => simp [packNat]
  | cons a r ih =>
    cases i with
    | zero => simp [packNat]
    | succ i =>
      have e : 2 ^ (w * (i + 1)) = 2 ^ w * 2 ^ (w * i) := by rw [← Nat.pow_add]; congr 1; ring
      have h1 : a % 2 ^ w < 2 ^ w := Nat.mod_lt _ (Nat.two_pow_pos w)
      have d : (a % 2 ^ w + 2 ^ w * packNat w r) / 2 ^ w = packNat w r := by
        rw [Nat.add_mul_div_left _ _ (Nat.two_pow_pos w), Nat.div_eq_of_lt h1, Nat.zero_add]
      simp only [packNat, List.getD_cons_succ, e, ← Nat.div_div_eq_div_mul, d, ih]

theorem Shape.bits_pos (p : Shape) : 0 < p.bits := by
  unfold Shape.bits tyBits
  (repeat' split) <;> decide

theorem Shape.bits_mul_count (p : Shape) : p.bits * p.count ≤ 4096 := by
  unfold Shape.count
  exact Nat.mul_div_le _ _

theorem digit_mod (x a w n : Nat) (h : a + w ≤ n) : x % 2 ^ n / 2 ^ a % 2 ^ w = x / 2 ^ a % 2 ^ w := by
  obtain ⟨k, rfl⟩ := Nat.exists_eq_add_of_le h
  rw [Nat.pow_add, Nat.pow_add, Nat.mul_assoc, Nat.mod_mul_right_div_self, Nat.mod_mul_right_mod]

/-- An element of a packed register is the list's entry (R128). -/
theorem elemOf_ofElems (p : Shape) (l : List Nat) (e : Nat) (h : e < p.count) : elemOf p (ofElems p l) e = l.getD e 0 % 2 ^ p.bits := by
  have hb := p.bits_mul_count
  have he : p.bits * e + p.bits ≤ 4096 := by
    calc p.bits * e + p.bits = p.bits * (e + 1) := by ring
      _ ≤ p.bits * p.count := Nat.mul_le_mul_left _ h
      _ ≤ 4096 := hb
  unfold elemOf ofElems packElems
  rw [BitVec.toNat_ofNat, digit_mod _ _ _ _ he, packNat_digit]

theorem elemOf_lt (p : Shape) (v : VReg) (e : Nat) : elemOf p v e < 2 ^ p.bits := Nat.mod_lt _ (Nat.two_pow_pos _)

/-- What an element-wise operation writes: the elements that take part are computed, the others keep vD (R131). -/
theorem mapElems_elem (p : Shape) (part : Nat → Bool) (f : Nat → Nat × BitVec 12) (v : VReg) (e : Nat) (h : e < p.count) :
    elemOf p (ofElems p (mapElems part f (elems p v)).1) e = if part e then (f e).1 % 2 ^ p.bits else elemOf p v e := by
  have hl : e < (elems p v).length := by simpa [elems, splitNat_length] using h
  rw [elemOf_ofElems _ _ _ h]
  have : (mapElems part f (elems p v)).1.getD e 0 = if part e then (f e).1 else elemOf p v e := by
    have hx : (elems p v)[e] = elemOf p v e := splitNat_getElem _ _ _ _ hl
    simp only [mapElems]
    rw [List.getD_eq_getElem _ _ (by simpa using hl)]
    simp only [List.getElem_map, List.getElem_mapIdx, hx]
    split <;> rfl
  rw [this]
  split
  · rfl
  · exact Nat.mod_eq_of_lt (elemOf_lt _ _ _)

theorem foldl_or_getLsbD (l : List (BitVec 12)) (a : BitVec 12) (j : Nat) :
    (l.foldl (fun z q => z ||| q) a).getLsbD j = (a.getLsbD j || l.any fun q => q.getLsbD j) := by
  induction l generalizing a with
  | nil => simp
  | cons b r ih => simp [ih, Bool.or_assoc]

/-- The causes that an element-wise operation gathers: those of the elements that take part (R131, R347). -/
theorem mapElems_causes (part : Nat → Bool) (f : Nat → Nat × BitVec 12) (old : List Nat) :
    gathers old.length part (fun e => (f e).2) 0 (mapElems part f old).2 := by
  intro j
  have h : (mapElems part f old).2 =
      ((List.range old.length).map fun e => if part e then (f e).2 else 0).foldl (fun z q => z ||| q) 0 := by
    simp only [mapElems, List.foldl_map]
    have : old.mapIdx (fun e o => if part e then f e else (o, (0 : BitVec 12))) =
        (List.range old.length).map (fun e => if part e then f e else (old.getD e 0, 0)) := by
      apply List.ext_getElem
      · simp
      · intro n h1 h2
        simp at h1
        simp [h1]
    rw [this, List.foldl_map]
    congr 1
    funext z q
    split <;> rfl
  have hz : (0 : BitVec 12).getLsbD j = false := by simp
  have hf : ((fun q : BitVec 12 => q.getLsbD j) ∘ fun e => if part e then (f e).2 else 0) = fun e => part e && (f e).2.getLsbD j := by
    funext e
    simp only [Function.comp]
    cases part e <;> simp
  rw [h, foldl_or_getLsbD, List.any_map, hf]

/-- `vecOp` puts one element-wise result in flight (R131). -/
theorem State.vecOp_lands (s : State) (n : Nat) (p : Shape) (d : BitVec 5) (k : BitVec 3) (l : BitVec 1) (x : BitVec 12) (f : Nat → Nat × BitVec 12) :
    vecLands s (s.vecOp n p d k l x f) n p d k l x f := by
  refine ⟨_, _, rfl, fun e h => mapElems_elem p _ f _ e h, fun j => ?_⟩
  have := mapElems_causes (takesPart s p k l) f (elems p (s.vold d)) j
  have hz : (0 : BitVec 12).getLsbD j = false := by simp
  rw [hz, Bool.false_or, elems, splitNat_length] at this
  rw [BitVec.getLsbD_or, Bool.or_comm, ← this]
  rfl

end Sys2Proof.Machine
end

