-- ==== Sys2Proof/Tests/Slice0.lean ====
section
/-! SUPPORT. Tests: decoding of words written out from the encodings, ill-formed words, witnesses for the hypotheses of the statements, and single steps. -/

open Sys2Proof Sys2Proof.Machine Sys2Proof.Safety

namespace Sys2Proof.Tests

set_option exponentiation.threshold 524288

/-! Small states. -/

/-- A live unit of launch 1 in function 1, with one segment, changed by f. -/
def unit (f : Ctx → Ctx) : Ctx := f { Ctx.reset with st := .issuing, launch := 1, vf := 1, segs := [(0, 4096)] }

/-- The device after reset but for one live unit in context 0 of core 0. -/
def one (f : Ctx → Ctx) (g : Core → Core := fun k => k) (h : State → State := fun s => s) : State :=
  h { State.reset with cores := [(0, g { Core.reset with cur := some 0, ctx := Core.reset.ctx.set 0 (unit f) })] }

/-- No context of a state keeps a replay log. -/
theorem unlogged_of {s : State} (h : (s.cores.all fun p => decide (∀ x : Fin 4, p.2.ctx[x].rep.logging = false)) = true)
    (hf : s.frames = []) (hm : s.me.rep.replaying = false) : unlogged s := by
  refine ⟨fun c x => ?_, by simp [hf], hm⟩
  have key : ∀ l : List (Nat × Core), (l.all fun p => decide (∀ x : Fin 4, p.2.ctx[x].rep.logging = false)) = true →
      ∀ x : Fin 4, (alGet Core.reset c l).ctx[x].rep.logging = false := by
    intro l
    induction l with
    | nil => intro _ x; fin_cases x <;> rfl
    | cons p l ih =>
      intro hl y
      simp only [List.all_cons, Bool.and_eq_true, decide_eq_true_eq] at hl
      simp only [alGet]
      split
      · exact hl.1 y
      · exact ih hl.2 y
  exact key _ h x

/-! Ill-formed words: each check of well-formedness refuses its term, and the value at its bound passes. -/

/-- TAG 6 is reserved for every row of every slot (R29). -/
theorem test_wf_tag :
    ([.nop 6#3 0#2, .br 6#3 0#2 0#21, .add 6#3 0#2 0#5 0#5 0#5, .vaddVa 6#3 0#2 0#5 0#5 0#5 0#2 0#3 0#1, .vrcp 6#3 0#2 0#5 0#5 0#2 0#3 0#1,
      .mwaitAll 6#3 0#2, .tdrop 6#3 0#2 0#9, .bwait 6#3 0#2 0#11, .gqfence 6#3 0#2 0#4] : List Instr).all (fun i => !i.wf) = true := by decide

/-- Field values the encodings reserve (R85, R102, R133). -/
theorem test_wf_scalar_and_vector_fields :
    ([.mbr 0#3 0#2 5#3, .loopReg 0#3 0#2 6#3 0#5 0#12, .loopImm 0#3 0#2 6#3 0#5 0#12, .lbrk 0#3 0#2 6#3, .launch 0#3 0#2 0#5 25#5,
      .cancel 0#3 0#2 5#3 0#5, .sext 0#3 0#2 0#5 0#5 3#2, .zext 0#3 0#2 0#5 0#5 3#2, .cmp 0#3 0#2 0#5 0#5 10#4, .cmpi 0#3 0#2 10#5 0#5 0#11,
      .agset 0#3 0#2 0#3 0#5 7#3, .agrd 0#3 0#2 0#5 0#3 7#3, .vcmp 0#3 0#2 0#3 0#5 0#5 0#2 6#3 0#1, .vcvt 0#3 0#2 0#5 0#5 11#4 0#2 0#2,
      .vsat 0#3 0#2 0#5 0#5 0#5 0#2 3#2 0#1, .kop 0#3 0#2 0#3 0#3 0#3 6#4] : List Instr).all (fun i => !i.wf) = true ∧
    ([.mbr 0#3 0#2 4#3, .loopReg 0#3 0#2 5#3 0#5 0#12, .launch 0#3 0#2 0#5 24#5, .cancel 0#3 0#2 4#3 0#5, .sext 0#3 0#2 0#5 0#5 2#2, .cmp 0#3 0#2 0#5 0#5 9#4,
      .agset 0#3 0#2 0#3 0#5 6#3, .vcmp 0#3 0#2 0#3 0#5 0#5 0#2 5#3 0#1, .vcvt 0#3 0#2 0#5 0#5 10#4 0#2 0#2, .vsat 0#3 0#2 0#5 0#5 0#5 0#2 2#2 0#1,
      .kop 0#3 0#2 0#3 0#3 0#3 5#4] : List Instr).all Instr.wf = true := by decide

/-- Field values the encodings reserve (R175, R201, R238, R259, R272). -/
theorem test_wf_memory_and_matrix_fields :
    ([.aclass 0#3 0#2 0#3 3#2, .ftsel 0#3 0#2 6#3, .fcnt 0#3 0#2 0#5 0#3 5#3, .tld 0#3 0#2 0#9 3#2 0#5 0#5, .tld 0#3 0#2 0#9 0#2 0#5 24#5,
      .tst 0#3 0#2 0#9 0#5 24#5, .tplane 0#3 0#2 255#8 0#8 0#2, .tplane 0#3 0#2 0#8 0#8 2#2, .sqld 0#3 0#2 0#9 2#2 0#1 0#5, .sqld 0#3 0#2 0#9 0#2 0#1 24#5,
      .tlw 0#3 0#2 0#9 3#2 0#5 0#5, .tatom 0#3 0#2 0#9 3#2 0#5 31#5, .cld 0#3 0#2 0#9 3#2 0#5 0#5, .ccopy 0#3 0#2 0#9 2#2 0#5, .clw 0#3 0#2 0#9 3#2 0#5 0#5,
      .catom 0#3 0#2 0#9 3#2 0#5 31#5, .gls 0#3 0#2 0#5 0x28#6 0#3, .gss 0#3 0#2 0#5 0x30#6 0#3, .gvst 0#3 0#2 0#5 0x38#6, .ggather 0#3 0#2 0#9 0#3 31#5,
      .gscatter 0#3 0#2 0#9 0#3 31#5 0#2, .gscatter 0#3 0#2 0#9 0#3 0#5 2#2, .gstore 0#3 0#2 0#9 0#3 2#2 0#3, .gatom 0#3 0#2 0#5 0x28#6 0#5 0#2 0#3,
      .gatom 0#3 0#2 0#5 0#6 0#5 0#2 5#3, .gcas 0#3 0#2 0#5 0x28#6 0#5 0#3, .gcas 0#3 0#2 0#5 0#6 31#5 0#3, .gcas 0#3 0#2 0#5 0#6 0#5 5#3,
      .gacq 0#3 0#2 0#5 5#3, .grel 0#3 0#2 0#5 5#3, .gpref 0#3 0#2 0x28#6 0#5, .gtlbi 0#3 0#2 0#5 0#5 3#2] : List Instr).all (fun i => !i.wf) = true ∧
    ([.aclass 0#3 0#2 0#3 2#2, .ftsel 0#3 0#2 5#3, .fcnt 0#3 0#2 0#5 0#3 4#3, .tld 0#3 0#2 0#9 2#2 0#5 23#5, .tplane 0#3 0#2 254#8 0#8 1#2,
      .tatom 0#3 0#2 0#9 3#2 0#5 30#5, .gls 0#3 0#2 0#5 0x27#6 0#3, .ggather 0#3 0#2 0#9 0#3 30#5, .gcas 0#3 0#2 0#5 0x1F#6 30#5 4#3,
      .gtlbi 0#3 0#2 0#5 0#5 2#2] : List Instr).all Instr.wf = true := by decide

/-- The decoder refuses each ill-formed word by name: an unassigned opcode, TAG 6, a reserved bit, a reserved field value (R30, R35, R49). -/
theorem test_wf_decoder :
    decodeSlot 0 0xFC000000#32 = .error (.unassigned 0) ∧ decodeSlot 1 0x6B073801#32 = .error (.reservedTag 1) ∧
    decodeSlot 0 0x03E00001#32 = .error (.reservedBits 0) ∧
    ((encode (.lbrk 7#3 3#2 6#3)).map fun w => decodeSlot 0 w) = some (.error (.reservedField 0)) := by decide

/-- A header with a reserved bit, with LVL 6, or with NT 5 is refused (R28, R35). -/
theorem test_wf_header :
    decodeHeader 0x00400000#32 = .error .headerReserved ∧ decodeHeader 0x00300000#32 = .error .headerField ∧ decodeHeader 0x00014000#32 = .error .headerField ∧
    decodeHeader 0x00000106#32 = .ok ⟨0, false, false, 0, false, false, 1, 6⟩ := by decide

/-! Words that the rules write out, in the order of the slots (R48, R85, R102, R133, R175, R201, R238, R259, R272, R302, R307, R366, R368). -/

theorem test_spec_words_compute :
    decodeRaw 0 0x041FFFF0#32 = some (.br 0#3 0#2 0x1FFFF0#21) ∧ decodeRaw 0 0x1B824006#32 = some (.loopImm 7#3 0#2 0#3 4#5 6#12) ∧
    decodeRaw 1 0x6A073801#32 = some (.addi 4#3 0#2 7#5 7#5 1#11) ∧ decodeRaw 1 0x93822808#32 = some (.cmpi 7#3 0#2 2#5 5#5 8#11) ∧
    decodeRaw 1 0x9B805006#32 = some (.agset 7#3 0#2 0#3 10#5 6#3) ∧ decodeRaw 1 0x87A90010#32 = some (.li 7#3 1#2 9#5 16#16) ∧
    decodeRaw 2 0x07884500#32 = some (.vaddVa 7#3 0#2 8#5 8#5 20#5 0#2 0#3 0#1) ∧
    decodeRaw 2 0x6788A621#32 = some (.vbmm 7#3 0#2 8#5 20#5 24#5 2#2 0#3 1#1) := by decide

theorem test_spec_words_matrix :
    decodeRaw 4 0x07812E00#32 = some (.mcall 7#3 0#2 9#8 3#3 1#1 0#1 0#1) ∧ decodeRaw 4 0x0B987800#32 = some (.mpset 7#3 0#2 6#3 15#5) ∧
    decodeRaw 4 0x2F840000#32 = some (.ftsel 7#3 0#2 1#3) ∧ decodeRaw 4 0x339C3000#32 = some (.finit 7#3 0#2 7#3 6#5) ∧
    decodeRaw 4 0x379C51C0#32 = some (.fins 7#3 0#2 7#3 10#5 7#5) ∧ decodeRaw 4 0x3B9B8000#32 = some (.fmrg 7#3 0#2 6#3 7#3) ∧
    decodeRaw 4 0x3F8CE800#32 = some (.frd 7#3 0#2 12#5 7#3 8#5) ∧ decodeRaw 4 0x4389E000#32 = some (.fcnt 7#3 0#2 9#5 7#3 0#3) ∧
    decodeRaw 4 0x47980000#32 = some (.fclr 7#3 0#2 6#3) := by decide

theorem test_spec_words_tiles_and_cluster :
    decodeRaw 5 0x0B809180#32 = some (.tld 7#3 0#2 9#9 0#2 12#5 0#5) ∧ decodeRaw 5 0x3B815413#32 = some (.sqld 7#3 0#2 21#9 1#2 0#1 19#5) ∧
    decodeRaw 5 0x2B810230#32 = some (.hbind 7#3 0#2 16#8 2#4 3#4) ∧ decodeRaw 6 0x07808094#32 = some (.cld 7#3 0#2 8#9 0#2 4#5 20#5) ∧
    decodeRaw 6 0x0B8080D4#32 = some (.cst 7#3 0#2 8#9 6#5 20#5) ∧ decodeRaw 6 0x23801603#32 = some (.binitImm 7#3 0#2 5#11 3#9) ∧
    decodeRaw 6 0x27801400#32 = some (.barv 7#3 0#2 5#11) ∧ decodeRaw 6 0x2B801400#32 = some (.bwait 7#3 0#2 5#11) ∧
    decodeRaw 6 0x37800151#32 = some (.csev 7#3 0#2 21#5 1#4) := by decide

theorem test_spec_words_global :
    decodeRaw 7 0x07852180#32 = some (.gls 7#3 0#2 5#5 8#6 3#3) ∧ decodeRaw 7 0x13920108#32 = some (.gfetchImm 7#3 0#2 0x120#9 0#3 1#5 0#3) ∧
    decodeRaw 7 0x1381E115#32 = some (.gfetchImm 7#3 0#2 30#9 0#3 2#5 5#3) ∧ decodeRaw 7 0x178324C0#32 = some (.ggather 7#3 0#2 50#9 2#3 12#5) ∧
    decodeRaw 7 0x2F804900#32 = some (.gwait 7#3 0#2 9#5 4#5) ∧ decodeRaw 7 0x37804803#32 = some (.grel 7#3 0#2 9#5 3#3) ∧
    decodeRaw 7 0x4780A000#32 = some (.gsluicePromote 7#3 0#2 20#5 0#3) ∧ decodeRaw 7 0x4B80A802#32 = some (.gskimSelect 7#3 0#2 21#5 2#3) ∧
    decodeRaw 7 0x5380A000#32 = some (.gsendData 7#3 0#2 20#5 0#3) ∧ decodeRaw 7 0x5780A000#32 = some (.grecv 7#3 0#2 20#5 0#3) ∧
    decodeRaw 7 0x4F80A003#32 = some (.gcollAllreduce 7#3 0#2 20#5 3#3) := by decide

/-! Every assigned word, with a different value in each field, built from the opcode table's bits. -/

theorem test_decode_control_1 :
    decodeRaw 0 0x02400000#32 = some (.nop 4#3 2#2) ∧
    decodeRaw 0 0x065B0891#32 = some (.br 4#3 2#2 1771665#21) ∧
    decodeRaw 0 0x0A440000#32 = some (.brt 4#3 2#2 1#3) ∧
    decodeRaw 0 0x0E440000#32 = some (.mbr 4#3 2#2 1#3) ∧
    decodeRaw 0 0x125B0891#32 = some (.call 4#3 2#2 1771665#21) ∧
    decodeRaw 0 0x16400000#32 = some (.ret 4#3 2#2) ∧
    decodeRaw 0 0x1A441CEE#32 = some (.loopReg 4#3 2#2 1#3 1#5 3310#12) ∧
    decodeRaw 0 0x1A461CEE#32 = some (.loopImm 4#3 2#2 1#3 1#5 3310#12) ∧
    decodeRaw 0 0x1E440000#32 = some (.lbrk 4#3 2#2 1#3) ∧
    decodeRaw 0 0x22456221#32 = some (.tgsetLabel 4#3 2#2 1#3 90657#17) ∧
    decodeRaw 0 0x22461000#32 = some (.tgsetReg 4#3 2#2 1#3 1#5) ∧
    decodeRaw 0 0x26400891#32 = some (.idle 4#3 2#2 2193#16) := by decide

theorem test_decode_control_2 :
    decodeRaw 0 0x2A400000#32 = some (.cqclr 4#3 2#2) ∧
    decodeRaw 0 0x2E400000#32 = some (.wfe 4#3 2#2) ∧
    decodeRaw 0 0x32400001#32 = some (.sev 4#3 2#2 1#4) ∧
    decodeRaw 0 0x36400000#32 = some (.yield 4#3 2#2) ∧
    decodeRaw 0 0x3A510800#32 = some (.launch 4#3 2#2 17#5 1#5) ∧
    decodeRaw 0 0x3E400000#32 = some (.retire 4#3 2#2) ∧
    decodeRaw 0 0x42510800#32 = some (.xdisp 4#3 2#2 17#5 1#5) ∧
    decodeRaw 0 0x46400891#32 = some (.trap 4#3 2#2 2193#16) ∧
    decodeRaw 0 0x4A400000#32 = some (.eret 4#3 2#2) ∧
    decodeRaw 0 0x4E510221#32 = some (.csrr 4#3 2#2 17#5 545#11) ∧
    decodeRaw 0 0x52408A21#32 = some (.csrw 4#3 2#2 17#5 545#11) ∧
    decodeRaw 0 0x56400891#32 = some (.bkpt 4#3 2#2 2193#16) := by decide

theorem test_decode_control_3 :
    decodeRaw 0 0x5A400011#32 = some (.segld 4#3 2#2 17#6) ∧
    decodeRaw 0 0x5E440800#32 = some (.cancel 4#3 2#2 1#3 1#5) := by decide

theorem test_decode_scalar_1 :
    decodeRaw 1 0x06510B80#32 = some (.add 4#3 2#2 17#5 1#5 14#5) ∧
    decodeRaw 1 0x0A510B80#32 = some (.sub 4#3 2#2 17#5 1#5 14#5) ∧
    decodeRaw 1 0x0E510B80#32 = some (.mul 4#3 2#2 17#5 1#5 14#5) ∧
    decodeRaw 1 0x12510B80#32 = some (.mulh 4#3 2#2 17#5 1#5 14#5) ∧
    decodeRaw 1 0x16510B80#32 = some (.mulhu 4#3 2#2 17#5 1#5 14#5) ∧
    decodeRaw 1 0x1A510B80#32 = some (.div 4#3 2#2 17#5 1#5 14#5) ∧
    decodeRaw 1 0x1E510B80#32 = some (.divu 4#3 2#2 17#5 1#5 14#5) ∧
    decodeRaw 1 0x22510B80#32 = some (.rem 4#3 2#2 17#5 1#5 14#5) ∧
    decodeRaw 1 0x26510B80#32 = some (.remu 4#3 2#2 17#5 1#5 14#5) ∧
    decodeRaw 1 0x2A510B80#32 = some (.and 4#3 2#2 17#5 1#5 14#5) ∧
    decodeRaw 1 0x2E510B80#32 = some (.or 4#3 2#2 17#5 1#5 14#5) ∧
    decodeRaw 1 0x32510B80#32 = some (.xor 4#3 2#2 17#5 1#5 14#5) := by decide

theorem test_decode_scalar_2 :
    decodeRaw 1 0x36510B80#32 = some (.shl 4#3 2#2 17#5 1#5 14#5) ∧
    decodeRaw 1 0x3A510B80#32 = some (.shr 4#3 2#2 17#5 1#5 14#5) ∧
    decodeRaw 1 0x3E510B80#32 = some (.sar 4#3 2#2 17#5 1#5 14#5) ∧
    decodeRaw 1 0x42510B80#32 = some (.rot 4#3 2#2 17#5 1#5 14#5) ∧
    decodeRaw 1 0x46510B80#32 = some (.min 4#3 2#2 17#5 1#5 14#5) ∧
    decodeRaw 1 0x4A510B80#32 = some (.max 4#3 2#2 17#5 1#5 14#5) ∧
    decodeRaw 1 0x4E510B80#32 = some (.minu 4#3 2#2 17#5 1#5 14#5) ∧
    decodeRaw 1 0x52510B80#32 = some (.maxu 4#3 2#2 17#5 1#5 14#5) ∧
    decodeRaw 1 0x56510800#32 = some (.clz 4#3 2#2 17#5 1#5) ∧
    decodeRaw 1 0x5A510800#32 = some (.ctz 4#3 2#2 17#5 1#5) ∧
    decodeRaw 1 0x5E510800#32 = some (.popc 4#3 2#2 17#5 1#5) ∧
    decodeRaw 1 0x62510802#32 = some (.sext 4#3 2#2 17#5 1#5 2#2) := by decide

theorem test_decode_scalar_3 :
    decodeRaw 1 0x66510802#32 = some (.zext 4#3 2#2 17#5 1#5 2#2) ∧
    decodeRaw 1 0x6A510CEE#32 = some (.addi 4#3 2#2 17#5 1#5 1262#11) ∧
    decodeRaw 1 0x6E510CEE#32 = some (.andi 4#3 2#2 17#5 1#5 1262#11) ∧
    decodeRaw 1 0x72510CEE#32 = some (.ori 4#3 2#2 17#5 1#5 1262#11) ∧
    decodeRaw 1 0x76510CEE#32 = some (.xori 4#3 2#2 17#5 1#5 1262#11) ∧
    decodeRaw 1 0x7A51082E#32 = some (.shli 4#3 2#2 17#5 1#5 46#6) ∧
    decodeRaw 1 0x7E51082E#32 = some (.shri 4#3 2#2 17#5 1#5 46#6) ∧
    decodeRaw 1 0x8251082E#32 = some (.sari 4#3 2#2 17#5 1#5 46#6) ∧
    decodeRaw 1 0x86516221#32 = some (.li 4#3 2#2 17#5 25121#16) ∧
    decodeRaw 1 0x8A516221#32 = some (.lih 4#3 2#2 17#5 25121#16) ∧
    decodeRaw 1 0x8E40884E#32 = some (.cmp 4#3 2#2 17#5 1#5 14#4) ∧
    decodeRaw 1 0x92510CEE#32 = some (.cmpi 4#3 2#2 17#5 1#5 1262#11) := by decide

theorem test_decode_scalar_4 :
    decodeRaw 1 0x96510B86#32 = some (.sel 4#3 2#2 17#5 1#5 14#5 6#5) ∧
    decodeRaw 1 0x9A410806#32 = some (.agset 4#3 2#2 1#3 1#5 6#3) ∧
    decodeRaw 1 0x9E410800#32 = some (.agstep 4#3 2#2 1#3 1#5) ∧
    decodeRaw 1 0xA2510806#32 = some (.agrd 4#3 2#2 17#5 1#3 6#3) ∧
    decodeRaw 1 0xA6408800#32 = some (.cqpush 4#3 2#2 17#5) := by decide

theorem test_decode_vector_a_1 :
    decodeRaw 2 0x06510BAB#32 = some (.vaddVa 4#3 2#2 17#5 1#5 14#5 2#2 5#3 1#1) ∧
    decodeRaw 2 0x0A510BAB#32 = some (.vsubVa 4#3 2#2 17#5 1#5 14#5 2#2 5#3 1#1) ∧
    decodeRaw 2 0x0E510BAB#32 = some (.vmulVa 4#3 2#2 17#5 1#5 14#5 2#2 5#3 1#1) ∧
    decodeRaw 2 0x12510BAB#32 = some (.vfmaVa 4#3 2#2 17#5 1#5 14#5 2#2 5#3 1#1) ∧
    decodeRaw 2 0x16510BAB#32 = some (.vfms 4#3 2#2 17#5 1#5 14#5 2#2 5#3 1#1) ∧
    decodeRaw 2 0x1A510BAB#32 = some (.vminVa 4#3 2#2 17#5 1#5 14#5 2#2 5#3 1#1) ∧
    decodeRaw 2 0x1E510BAB#32 = some (.vmaxVa 4#3 2#2 17#5 1#5 14#5 2#2 5#3 1#1) ∧
    decodeRaw 2 0x2251082D#32 = some (.vabs 4#3 2#2 17#5 1#5 2#2 6#3 1#1) ∧
    decodeRaw 2 0x2651082D#32 = some (.vneg 4#3 2#2 17#5 1#5 2#2 6#3 1#1) ∧
    decodeRaw 2 0x2A510BAB#32 = some (.vand 4#3 2#2 17#5 1#5 14#5 2#2 5#3 1#1) ∧
    decodeRaw 2 0x2E510BAB#32 = some (.vor 4#3 2#2 17#5 1#5 14#5 2#2 5#3 1#1) ∧
    decodeRaw 2 0x32510BAB#32 = some (.vxor 4#3 2#2 17#5 1#5 14#5 2#2 5#3 1#1) := by decide

theorem test_decode_vector_a_2 :
    decodeRaw 2 0x3651082D#32 = some (.vnot 4#3 2#2 17#5 1#5 2#2 6#3 1#1) ∧
    decodeRaw 2 0x3A510BAB#32 = some (.vshl 4#3 2#2 17#5 1#5 14#5 2#2 5#3 1#1) ∧
    decodeRaw 2 0x3E510BAB#32 = some (.vshr 4#3 2#2 17#5 1#5 14#5 2#2 5#3 1#1) ∧
    decodeRaw 2 0x42510BAB#32 = some (.vsar 4#3 2#2 17#5 1#5 14#5 2#2 5#3 1#1) ∧
    decodeRaw 2 0x46440BAB#32 = some (.vcmp 4#3 2#2 1#3 1#5 14#5 2#2 5#3 1#1) ∧
    decodeRaw 2 0x4A510BAB#32 = some (.vsel 4#3 2#2 17#5 1#5 14#5 2#2 5#3 1#1) ∧
    decodeRaw 2 0x4E510F22#32 = some (.vcvt 4#3 2#2 17#5 1#5 14#4 2#2 1#2) ∧
    decodeRaw 2 0x5251082D#32 = some (.vmov 4#3 2#2 17#5 1#5 2#2 6#3 1#1) ∧
    decodeRaw 2 0x5651082D#32 = some (.vbcast 4#3 2#2 17#5 1#5 2#2 6#3 1#1) ∧
    decodeRaw 2 0x5A516221#32 = some (.vli 4#3 2#2 17#5 25121#16) ∧
    decodeRaw 2 0x5E410800#32 = some (.vshape 4#3 2#2 1#2 1#5) ∧
    decodeRaw 2 0x62408810#32 = some (.vrlen 4#3 2#2 17#5 1#2) := by decide

theorem test_decode_vector_a_3 :
    decodeRaw 2 0x66510BAB#32 = some (.vbmm 4#3 2#2 17#5 1#5 14#5 2#2 5#3 1#1) ∧
    decodeRaw 2 0x6A510BA5#32 = some (.vsat 4#3 2#2 17#5 1#5 14#5 2#2 1#2 1#1) ∧
    decodeRaw 2 0x6E510BAB#32 = some (.vclamp 4#3 2#2 17#5 1#5 14#5 2#2 5#3 1#1) ∧
    decodeRaw 2 0x72400013#32 = some (.vany 4#3 2#2 1#2 1#3 1#1) ∧
    decodeRaw 2 0x76400013#32 = some (.vall 4#3 2#2 1#2 1#3 1#1) ∧
    decodeRaw 2 0x7A456600#32 = some (.kop 4#3 2#2 1#3 2#3 6#3 6#4) ∧
    decodeRaw 2 0x7E512700#32 = some (.vacrVaImm 4#3 2#2 17#5 1#3 14#5) ∧
    decodeRaw 2 0x7E513700#32 = some (.vacrVaReg 4#3 2#2 17#5 1#3 14#5) ∧
    decodeRaw 2 0x82512700#32 = some (.vacwVaImm 4#3 2#2 17#5 1#3 14#5) ∧
    decodeRaw 2 0x82513700#32 = some (.vacwVaReg 4#3 2#2 17#5 1#3 14#5) ∧
    decodeRaw 2 0x86510BA6#32 = some (.vext 4#3 2#2 17#5 1#5 14#5 38#6) := by decide

theorem test_decode_vector_b_1 :
    decodeRaw 3 0x06510BAB#32 = some (.vaddVb 4#3 2#2 17#5 1#5 14#5 2#2 5#3 1#1) ∧
    decodeRaw 3 0x0A510BAB#32 = some (.vsubVb 4#3 2#2 17#5 1#5 14#5 2#2 5#3 1#1) ∧
    decodeRaw 3 0x0E510BAB#32 = some (.vmulVb 4#3 2#2 17#5 1#5 14#5 2#2 5#3 1#1) ∧
    decodeRaw 3 0x12510BAB#32 = some (.vfmaVb 4#3 2#2 17#5 1#5 14#5 2#2 5#3 1#1) ∧
    decodeRaw 3 0x16510BAB#32 = some (.vminVb 4#3 2#2 17#5 1#5 14#5 2#2 5#3 1#1) ∧
    decodeRaw 3 0x1A510BAB#32 = some (.vmaxVb 4#3 2#2 17#5 1#5 14#5 2#2 5#3 1#1) ∧
    decodeRaw 3 0x1E51082D#32 = some (.vexp2 4#3 2#2 17#5 1#5 2#2 6#3 1#1) ∧
    decodeRaw 3 0x2251082D#32 = some (.vlog2 4#3 2#2 17#5 1#5 2#2 6#3 1#1) ∧
    decodeRaw 3 0x2651082D#32 = some (.vrcp 4#3 2#2 17#5 1#5 2#2 6#3 1#1) ∧
    decodeRaw 3 0x2A51082D#32 = some (.vrsqrt 4#3 2#2 17#5 1#5 2#2 6#3 1#1) ∧
    decodeRaw 3 0x2E51082D#32 = some (.vsqrt 4#3 2#2 17#5 1#5 2#2 6#3 1#1) ∧
    decodeRaw 3 0x32510BAB#32 = some (.vdiv 4#3 2#2 17#5 1#5 14#5 2#2 5#3 1#1) := by decide

theorem test_decode_vector_b_2 :
    decodeRaw 3 0x3651082D#32 = some (.vtanh 4#3 2#2 17#5 1#5 2#2 6#3 1#1) ∧
    decodeRaw 3 0x3A51082D#32 = some (.vsigm 4#3 2#2 17#5 1#5 2#2 6#3 1#1) ∧
    decodeRaw 3 0x3E51082D#32 = some (.vrsum 4#3 2#2 17#5 1#5 2#2 6#3 1#1) ∧
    decodeRaw 3 0x4251082D#32 = some (.vrmax 4#3 2#2 17#5 1#5 2#2 6#3 1#1) ∧
    decodeRaw 3 0x4651082D#32 = some (.vrmin 4#3 2#2 17#5 1#5 2#2 6#3 1#1) ∧
    decodeRaw 3 0x4A51082D#32 = some (.vargmax 4#3 2#2 17#5 1#5 2#2 6#3 1#1) ∧
    decodeRaw 3 0x4E51082D#32 = some (.vscan 4#3 2#2 17#5 1#5 2#2 6#3 1#1) ∧
    decodeRaw 3 0x52510BAB#32 = some (.vperm 4#3 2#2 17#5 1#5 14#5 2#2 5#3 1#1) ∧
    decodeRaw 3 0x56510820#32 = some (.vtrans 4#3 2#2 17#5 1#5 2#2) ∧
    decodeRaw 3 0x5A51082C#32 = some (.vcompact 4#3 2#2 17#5 1#5 2#2 6#3) ∧
    decodeRaw 3 0x5E51082C#32 = some (.vexpand 4#3 2#2 17#5 1#5 2#2 6#3) ∧
    decodeRaw 3 0x62510BAA#32 = some (.vrot 4#3 2#2 17#5 1#5 14#5 2#2 5#3) := by decide

theorem test_decode_vector_b_3 :
    decodeRaw 3 0x66512700#32 = some (.vacrVbImm 4#3 2#2 17#5 1#3 14#5) ∧
    decodeRaw 3 0x66513700#32 = some (.vacrVbReg 4#3 2#2 17#5 1#3 14#5) ∧
    decodeRaw 3 0x6A512700#32 = some (.vacwVbImm 4#3 2#2 17#5 1#3 14#5) ∧
    decodeRaw 3 0x6A513700#32 = some (.vacwVbReg 4#3 2#2 17#5 1#3 14#5) ∧
    decodeRaw 3 0x6E51082D#32 = some (.vround 4#3 2#2 17#5 1#5 2#2 6#3 1#1) := by decide

theorem test_decode_matrix_1 :
    decodeRaw 4 0x06522780#32 = some (.mcall 4#3 2#2 145#8 1#3 1#1 1#1 1#1) ∧
    decodeRaw 4 0x0A440800#32 = some (.mpset 4#3 2#2 1#3 1#5) ∧
    decodeRaw 4 0x0E512000#32 = some (.mpget 4#3 2#2 17#5 1#3) ∧
    decodeRaw 4 0x12408800#32 = some (.mload 4#3 2#2 17#5) ∧
    decodeRaw 4 0x16450000#32 = some (.aclass 4#3 2#2 1#3 1#2) ∧
    decodeRaw 4 0x1A440000#32 = some (.aclr 4#3 2#2 1#3) ∧
    decodeRaw 4 0x1E454000#32 = some (.acmv 4#3 2#2 1#3 2#3 2#2) ∧
    decodeRaw 4 0x22400000#32 = some (.mwaitAll 4#3 2#2) ∧
    decodeRaw 4 0x22520000#32 = some (.mwaitBank 4#3 2#2 1#3) ∧
    decodeRaw 4 0x26400001#32 = some (.sqclr 4#3 2#2 1#2) ∧
    decodeRaw 4 0x2A420800#32 = some (.ftset 4#3 2#2 1#4 1#5) ∧
    decodeRaw 4 0x2E440000#32 = some (.ftsel 4#3 2#2 1#3) := by decide

theorem test_decode_matrix_2 :
    decodeRaw 4 0x32440800#32 = some (.finit 4#3 2#2 1#3 1#5) ∧
    decodeRaw 4 0x36440B80#32 = some (.fins 4#3 2#2 1#3 1#5 14#5) ∧
    decodeRaw 4 0x3A450000#32 = some (.fmrg 4#3 2#2 1#3 2#3) ∧
    decodeRaw 4 0x3E512E00#32 = some (.frd 4#3 2#2 17#5 1#3 14#5) ∧
    decodeRaw 4 0x42513800#32 = some (.fcnt 4#3 2#2 17#5 1#3 6#3) ∧
    decodeRaw 4 0x46440000#32 = some (.fclr 4#3 2#2 1#3) := by decide

theorem test_decode_tile_1 :
    decodeRaw 5 0x064910EE#32 = some (.tallocImm 4#3 2#2 145#9 1#5 46#6) ∧
    decodeRaw 5 0x0649108E#32 = some (.tallocReg 4#3 2#2 145#9 1#5 14#5) ∧
    decodeRaw 5 0x0A4915C6#32 = some (.tld 4#3 2#2 145#9 1#2 14#5 6#5) ∧
    decodeRaw 5 0x0E49102E#32 = some (.tst 4#3 2#2 145#9 1#5 14#5) ∧
    decodeRaw 5 0x12491A21#32 = some (.tcntImm 4#3 2#2 145#9 545#11) ∧
    decodeRaw 5 0x12491040#32 = some (.tcntReg 4#3 2#2 145#9 1#5) ∧
    decodeRaw 5 0x16491000#32 = some (.tdrop 4#3 2#2 145#9) ∧
    decodeRaw 5 0x1A491000#32 = some (.tparkTile 4#3 2#2 145#9) ∧
    decodeRaw 5 0x1A400C40#32 = some (.tparkReg 4#3 2#2 17#5) ∧
    decodeRaw 5 0x1E491000#32 = some (.tunparkTile 4#3 2#2 145#9) ∧
    decodeRaw 5 0x1E400C40#32 = some (.tunparkReg 4#3 2#2 17#5) ∧
    decodeRaw 5 0x22491020#32 = some (.tstat 4#3 2#2 145#9 1#5) := by decide

theorem test_decode_tile_2 :
    decodeRaw 5 0x26491218#32 = some (.tplane 4#3 2#2 145#8 33#8 2#2) ∧
    decodeRaw 5 0x2A4911E0#32 = some (.hbind 4#3 2#2 145#8 1#4 14#4) ∧
    decodeRaw 5 0x2E510200#32 = some (.hadvp 4#3 2#2 1#4 2#4) ∧
    decodeRaw 5 0x32510200#32 = some (.hadvc 4#3 2#2 1#4 2#4) ∧
    decodeRaw 5 0x365103A0#32 = some (.qbind 4#3 2#2 1#4 1#2) ∧
    decodeRaw 5 0x36400BA0#32 = some (.qbindUnbind 4#3 2#2 1#2) ∧
    decodeRaw 5 0x3A491606#32 = some (.sqld 4#3 2#2 145#9 1#2 1#1 6#5) ∧
    decodeRaw 5 0x3E491000#32 = some (.tshare 4#3 2#2 145#9) ∧
    decodeRaw 5 0x424915C6#32 = some (.tlw 4#3 2#2 145#9 1#2 14#5 6#5) ∧
    decodeRaw 5 0x4649102E#32 = some (.tsw 4#3 2#2 145#9 1#5 14#5) ∧
    decodeRaw 5 0x4A4915C6#32 = some (.tatom 4#3 2#2 145#9 1#2 14#5 6#5) ∧
    decodeRaw 5 0x4E400420#32 = some (.tquota 4#3 2#2 1#2 1#5) := by decide

theorem test_decode_peer_1 :
    decodeRaw 6 0x064915C6#32 = some (.cld 4#3 2#2 145#9 1#2 14#5 6#5) ∧
    decodeRaw 6 0x0A49102E#32 = some (.cst 4#3 2#2 145#9 1#5 14#5) ∧
    decodeRaw 6 0x0E49140E#32 = some (.ccopy 4#3 2#2 145#9 1#2 14#5) ∧
    decodeRaw 6 0x1249102E#32 = some (.ccnt 4#3 2#2 145#9 1#5 14#5) ∧
    decodeRaw 6 0x164915C6#32 = some (.clw 4#3 2#2 145#9 1#2 14#5 6#5) ∧
    decodeRaw 6 0x1A49102E#32 = some (.csw 4#3 2#2 145#9 1#5 14#5) ∧
    decodeRaw 6 0x1E4915C6#32 = some (.catom 4#3 2#2 145#9 1#2 14#5 6#5) ∧
    decodeRaw 6 0x22424621#32 = some (.binitImm 4#3 2#2 145#11 33#9) ∧
    decodeRaw 6 0x22424410#32 = some (.binitReg 4#3 2#2 145#11 1#5) ∧
    decodeRaw 6 0x26424400#32 = some (.barv 4#3 2#2 145#11) ∧
    decodeRaw 6 0x26424610#32 = some (.barvRemote 4#3 2#2 145#11 1#5) ∧
    decodeRaw 6 0x2A424400#32 = some (.bwait 4#3 2#2 145#11) := by decide

theorem test_decode_peer_2 :
    decodeRaw 6 0x2E424410#32 = some (.bexp 4#3 2#2 145#11 1#5) ∧
    decodeRaw 6 0x32424400#32 = some (.btry 4#3 2#2 145#11) ∧
    decodeRaw 6 0x36400111#32 = some (.csev 4#3 2#2 17#5 1#4) := by decide

theorem test_decode_global_1 :
    decodeRaw 7 0x06518700#32 = some (.gls 4#3 2#2 17#5 33#6 6#3) ∧
    decodeRaw 7 0x0A518700#32 = some (.gss 4#3 2#2 17#5 33#6 6#3) ∧
    decodeRaw 7 0x0E518400#32 = some (.gvst 4#3 2#2 17#5 33#6) ∧
    decodeRaw 7 0x12491376#32 = some (.gfetchImm 4#3 2#2 145#9 1#3 14#5 6#3) ∧
    decodeRaw 7 0x12491276#32 = some (.gfetchReg 4#3 2#2 145#9 1#3 14#5 6#3) ∧
    decodeRaw 7 0x164912E0#32 = some (.ggather 4#3 2#2 145#9 1#3 14#5) ∧
    decodeRaw 7 0x1A4912E8#32 = some (.gscatter 4#3 2#2 145#9 1#3 14#5 2#2) ∧
    decodeRaw 7 0x1E491306#32 = some (.gstore 4#3 2#2 145#9 1#3 2#2 6#3) ∧
    decodeRaw 7 0x22453806#32 = some (.gcopy 4#3 2#2 1#3 2#3 14#5 6#3) ∧
    decodeRaw 7 0x265185D5#32 = some (.gatom 4#3 2#2 17#5 33#6 14#5 2#2 5#3) ∧
    decodeRaw 7 0x2A5185C6#32 = some (.gcas 4#3 2#2 17#5 33#6 14#5 6#3) ∧
    decodeRaw 7 0x2E408840#32 = some (.gwait 4#3 2#2 17#5 1#5) := by decide

theorem test_decode_global_2 :
    decodeRaw 7 0x32408801#32 = some (.gacq 4#3 2#2 17#5 1#3) ∧
    decodeRaw 7 0x36408801#32 = some (.grel 4#3 2#2 17#5 1#3) ∧
    decodeRaw 7 0x3A510B80#32 = some (.gbind 4#3 2#2 17#5 1#5 14#5) ∧
    decodeRaw 7 0x3E510040#32 = some (.gunbind 4#3 2#2 17#5 1#5) ∧
    decodeRaw 7 0x42400001#32 = some (.gqfence 4#3 2#2 1#4) ∧
    decodeRaw 7 0x46408801#32 = some (.gsluicePromote 4#3 2#2 17#5 1#3) ∧
    decodeRaw 7 0x46408801#32 = some (wordRow (.gsluicePromoteX 4#3 2#2 17#5 1#3)) ∧
    decodeRaw 7 0x46408801#32 = some (wordRow (.gsluiceRelease 4#3 2#2 17#5 1#3)) ∧
    decodeRaw 7 0x4A408801#32 = some (.gskimSelect 4#3 2#2 17#5 1#3) ∧
    decodeRaw 7 0x4A408801#32 = some (wordRow (.gskimBiasw 4#3 2#2 17#5 1#3)) ∧
    decodeRaw 7 0x4A408801#32 = some (wordRow (.gskimEpoch 4#3 2#2 17#5 1#3)) ∧
    decodeRaw 7 0x4E408801#32 = some (.gcollAllreduce 4#3 2#2 17#5 1#3) := by decide

theorem test_decode_global_3 :
    decodeRaw 7 0x4E408801#32 = some (wordRow (.gcollReducescatter 4#3 2#2 17#5 1#3)) ∧
    decodeRaw 7 0x4E408801#32 = some (wordRow (.gcollAllgather 4#3 2#2 17#5 1#3)) ∧
    decodeRaw 7 0x4E408801#32 = some (wordRow (.gcollBroadcast 4#3 2#2 17#5 1#3)) ∧
    decodeRaw 7 0x52408801#32 = some (.gsendData 4#3 2#2 17#5 1#3) ∧
    decodeRaw 7 0x52408801#32 = some (wordRow (.gsendLaunch 4#3 2#2 17#5 1#3)) ∧
    decodeRaw 7 0x56408801#32 = some (.grecv 4#3 2#2 17#5 1#3) ∧
    decodeRaw 7 0x5A404420#32 = some (.gpref 4#3 2#2 17#6 1#5) ∧
    decodeRaw 7 0x5E408860#32 = some (.gtlbi 4#3 2#2 17#5 1#5 2#2) := by decide

theorem test_decode_routine :
    decodeRoutine 0x0000000000000000#64 = some .rwEnd ∧
    decodeRoutine 0x0400000000000000#64 = some .rwLda ∧
    decodeRoutine 0x0800000000000000#64 = some .rwLdb ∧
    decodeRoutine 0x0C00000000000000#64 = some .rwStep ∧
    decodeRoutine 0x10000000000005A5#64 = some (.rwSkip 1445#11) ∧
    decodeRoutine 0x1400000000000000#64 = some .rwSpop ∧
    decodeRoutine 0x1800000000000001#64 = some (.rwProm true) ∧
    decodeRoutine 0x1C00000000000000#64 = some .rwKadv ∧
    decodeRoutine 0x200000000000050A#64 = some (.rwJmore 1290#11) ∧
    decodeRoutine 0x2400000000000002#64 = some (.rwBwr 2#2) := by decide

/-! Witnesses: every hypothesis of every statement is met by a small state, at the ends of its range. -/

theorem test_witness_DecodeOfEncodeIsTheInstruction :
    slotOf (.nop 7#3 3#2) = some 0 ∧ (Instr.nop 7#3 3#2).wf = true ∧ slotOf (.gtlbi 7#3 3#2 31#5 31#5 2#2) = some 7 ∧
    (Instr.gtlbi 7#3 3#2 31#5 31#5 2#2).wf = true ∧ encodeRoutine (.rwSkip 2047#11) ≠ none := by decide

theorem test_witness_EncodeOfDecodeIsTheWord :
    decodeSlot 0 0x041FFFF0#32 = .ok (.br 0#3 0#2 0x1FFFF0#21) ∧ decodeSlot 7 0x07852180#32 = .ok (.gls 7#3 0#2 5#5 8#6 3#3) ∧
    decodeRoutine 0x2000000000000000#64 = some (.rwJmore 0#11) := by decide

theorem test_witness_SlotDecoderRefusesByName :
    assigned 0 (fld (0xFC000000#32) 26 6) = false ∧
    assigned 1 (fld (0x6B073801#32) 26 6) = true ∧ fld (0x6B073801#32) 23 3 = 6#3 ∧
    assigned 0 (fld (0x03E00001#32) 26 6) = true ∧ fld (0x03E00001#32) 23 3 ≠ 6#3 ∧ decodeRaw 0 0x03E00001#32 = none ∧
    (∃ i, decodeRaw 0 0x041FFFF0#32 = some i) ∧
    fld (0x041FFFF0#32) 23 3 ≠ 6#3 ∧ assigned 0 (fld (0x041FFFF0#32) 26 6) = true := by
  refine ⟨by decide, by decide, by decide, by decide, by decide, by decide, ⟨_, rfl⟩, by decide, by decide⟩

/-- Registers s3 and s4. -/
def regs (a b : W64) : State := one fun c => (c.setS 3 a).setS 4 b

theorem test_witness_ResultsLandAtTheirRegisters : 7 < 8 ∧ (0 : BitVec 12) = 0 ∧ (0x800 : BitVec 12) ≠ 0 := by decide

theorem test_witness_ScalarArithmetic :
    (regs 5 0).sreg 4 = 0 ∧ (regs 5 1).sreg 4 ≠ 0 ∧
    ((regs 0x8000000000000000 (-1)).sreg 3).toInt = -2 ^ 63 ∧ ((regs 0x8000000000000000 (-1)).sreg 4).toInt = -1 ∧
    ((regs 0x8000000000000000 1).sreg 4 ≠ 0 ∧ ¬(((regs 0x8000000000000000 1).sreg 3).toInt = -2 ^ 63 ∧ ((regs 0x8000000000000000 1).sreg 4).toInt = -1)) := by decide

theorem test_witness_ScalarUnaryOperations :
    (regs 0 0).sreg 3 = 0 ∧ (regs 1 0).sreg 3 ≠ 0 ∧ (0#2).toNat ≤ 2 ∧ (2#2).toNat ≤ 2 := by decide

theorem test_witness_ScalarComparesSelectAndGenerators :
    (9#4).toNat ≤ 9 ∧ (9#5).toNat ≤ 9 ∧ (5#3).toNat ≤ 5 ∧ (5#3).toNat < 6 := by decide

/-- Shape register 0 holds a record. -/
def shaped (w : W32) : State := one fun c => { c with sh := c.sh.set 0 w }

theorem test_witness_VectorIntegerArithmetic : tyFloat ((one id).shape 0).ty = false := by decide

theorem test_witness_VectorFloatingOperations : tyFloat ((shaped 10).shape 0).ty = true ∧ shapeOk 10 = true := by decide

theorem test_witness_VectorSaturationAndIntegerCorners :
    tyFloat ((shaped 7).shape 0).ty = false ∧ tyFloat ((shaped 8).shape 0).ty = true := by decide

theorem test_witness_ReductionsAndScan :
    tyFloat ((shaped 8).shape 0).ty = true ∧ tyFloat ((one id).shape 0).ty = false ∧
    ((List.range 2).filter fun c => takesPart (one id) ((one id).shape 0) 0 0 c) ≠ [] ∧
    ((List.range 2).filter fun c => takesPart (one fun c => c.setK 1 0) ((one id).shape 0) 1 0 c) = [] ∧
    ((List.range 2).map fun c => elemOf ((shaped 8).shape 0) ((shaped 8).vsrc 1).1 c).any (fun x => !((tyFmt 8).decode x).isNan) = true := by decide

theorem test_witness_ConversionsConstantsShapesAndRowLengths :
    shapeOk 10 = true ∧ shapeOk 11 = false ∧ tyFloat ((one id).shape 0).ty = false ∧ tyFloat (7#4).toNat = false ∧ ((one id).shape 0).rows ≤ 1 ∧
    tyFloat ((shaped 8).shape 0).ty = true ∧ 0 < ((shaped 8).shape 0).rows ∧ 10 ≤ 10 ∧ 3 < 4 ∧ tyFloat 10 = true ∧ (tyInt 3 1).natAbs = 1 ∧
    (tyFmt 8).decode 0x3C00 = .fin false 1024 (-10) ∧ (tyFmt 8).decode 0x7C00 = .inf false ∧ (tyFmt 8).decode 0x7E00 = .nan false := by decide

theorem test_witness_BatchedSmallMatrices :
    (let p := (one id).shape 0
     p.m * p.kmax ≤ p.cols ∧ p.kmax * p.n ≤ p.cols ∧ p.m * p.n ≤ p.cols ∧ 0 < p.rows ∧ 0 < p.m ∧ 0 < p.n ∧ p.m * p.n < p.cols ∧
      ((one id).me.kreg 0).getLsbD 0 = true ∧ ((one id).me.kreg 1).getLsbD 0 = false) ∧
    (let p := (shaped 0xFFFF83#32).shape 0
     ¬(p.m * p.kmax ≤ p.cols ∧ p.kmax * p.n ≤ p.cols ∧ p.m * p.n ≤ p.cols)) := by decide

/-- Bank 7 is granted to the unit, with a class. -/
def banked (cls : BitVec 2) : State := one id fun k => { k with grant := k.grant.set 7 (some 0), cls := k.cls.set 7 cls }

theorem test_witness_BankRowsInVectorSlots :
    ((banked 0).granted 7 = true ∧ (banked 0).bankClass 7 ≠ 1) ∧ ((banked 1).granted 7 = true ∧ (banked 1).bankClass 7 = 1) ∧
    (banked 0).granted 0 = false := by decide

theorem test_witness_RoundingIsCorrect :
    let f := fp16
    let mag (n : Nat) (j : Int) : Nat := n * 2 ^ (j - (-24)).toNat
    let big := mag (2 ^ (f.mb + 1) - 1) (f.bias - f.mb)
    let ulp := mag 1 (f.bias - f.mb)
    3 < 4 ∧ 0 < 1 ∧ (-24 : Int) ≤ 0 ∧ (-24 : Int) ≤ 1 - f.bias - f.mb ∧ 2 * big + ulp ≤ 2 * mag 1 16 ∧ big < mag 1 16 ∧ big + ulp ≤ mag 1 16 ∧
    ¬(2 * big + ulp ≤ 2 * mag 1 0) ∧ ¬(big < mag 1 0) ∧ ¬(big + ulp ≤ mag 1 0) ∧ f.decode 1 = .fin false 1 (-24) ∧ mag 1 (-24) ≤ mag 1 0 := by decide

theorem test_witness_FloatingSpecialCases :
    (fp16.decode 0x7E00).isNan = true ∧ fp16.decode 0 = .fin false 0 (1 - (fp16.bias : Int) - fp16.mb) ∧
    fp16.decode 0x3C00 = .fin false 1024 (-10) ∧ fp16.decode 0x7C00 = .inf false ∧ fp16.decode 0xFC00 = .inf true ∧ 3 < 4 ∧
    (fp16.decode 0x8000).isNan = false ∧ 0x8000 < 2 ^ (1 + fp16.eb + fp16.mb) ∧ (0x8000 % 2 ^ (fp16.eb + fp16.mb) = 0 ∧ 0 % 2 ^ (fp16.eb + fp16.mb) = 0 ∧ 0x8000 ≠ 0) ∧
    fp16.decode 0xBC00 = .fin true 1024 (-10) ∧ 1024 = 2 ^ 10 ∧ (1024 * 2 ^ ((-10 : Int) - min (-10) 0).toNat : Nat) = (1 : Int) * 2 ^ (-(min (-10 : Int) 0)).toNat ∧
    (tyFloat ((shaped 8).shape 0).ty = true ∧ tyFmt ((shaped 8).shape 0).ty = fp16 ∧ ((shaped 8).shape 0).mode < 4) := by decide

theorem test_witness_BranchesGoToTheirTargets :
    goodTarget (one id) 4092 ∧ (2 : W32).toNat % 4 ≠ 0 ∧ ((4096 : W32).toNat % 4 = 0 ∧ (one id).me.segOf 4096 = none) ∧
    (one id).cur.slot < 5 ∧ 3 < (one id).cur.leaf ∧ (one id id fun s => { s with cur := { s.cur with leaf := 3 } }).cur.leaf ≤ 3 ∧
    ((one fun c => c.setS 31 8).sreg 31).toNat < 2 ^ 32 ∧
    (2 ^ 32 ≤ ((one fun c => c.setS 31 0x100000002).sreg 31).toNat ∧ ((one fun c => c.setS 31 0x100000002).sreg 31).toNat % 4 ≠ 0) ∧
    (2 ^ 32 ≤ ((one fun c => c.setS 31 0x100000000).sreg 31).toNat ∧ ((one fun c => c.setS 31 0x100000000).sreg 31).toNat % 4 = 0) := by
  unfold goodTarget
  decide

/-- Loop level 5 is active. -/
def looping : State := one fun c => { c with loops := c.loops.set 5 ⟨true, 2, 0, 4, 12⟩, pc := 4 }

theorem test_witness_LoopsActivateAndBreak :
    (∀ m : Fin 6, m.val ≤ (5#3).toNat → (one id).me.loops[m].active = false) ∧ (5#3).toNat < 6 ∧
    (∃ g, (one fun c => { c with pc := 4 }).me.segOf 4 = some g ∧ (one id).me.segOf (((one id).cur.org.ba + 4 * (3#12).setWidth 32) - 4) = some g) ∧
    looping.me.loops[5].active = true ∧ (one id).me.loops[5].active = false ∧ (31#5 : BitVec 5).setWidth 32 ≠ (0 : W32) ∧
    ¬(∀ m : Fin 6, m.val ≤ (5#3).toNat → looping.me.loops[m].active = false) ∧
    ¬(∃ g, (one id).me.segOf 4 = some g ∧ (one id).me.segOf (0 - 4) = some g) := by
  refine ⟨by decide, by decide, ⟨0, by decide, by decide⟩, by decide, by decide, by decide, by decide, ?_⟩
  rintro ⟨g, -, h⟩
  revert h
  have : (one id).me.segOf (0 - 4) = none := by decide
  rw [this]
  exact fun h => nomatch h

theorem test_witness_IterationsEndInnermostFirst :
    (∀ m : Fin 6, (one id).me.loops[m].active = false) ∧
    (let l := looping.me.loops
     l[5].active = true ∧ (∀ m : Fin 6, m < 5 → l[m].active = false) ∧ (8 : W32).toNat < l[5].stop.toNat ∧ l[5].stop.toNat ≤ (12 : W32).toNat ∧
      l[5].index.toNat + 1 ≠ l[5].count.toNat) ∧
    (let l := looping.me.loops.set 5 ⟨true, 2, 1, 4, 12⟩
     l[5].stop.toNat ≤ (12 : W32).toNat ∧ l[5].index.toNat + 1 = l[5].count.toNat) := by decide

theorem test_witness_TargetsWaitsAndEvents :
    (one id).me.rep.logging = false ∧ (one id).me.rep.replaying = false ∧ (one id).me.event = false ∧ (one fun c => { c with event := true }).me.event = true ∧
    (one id).chosen 0 (some 0) = none ∧
    (one id fun k => { k with ctx := k.ctx.set 1 { k.ctx[1] with st := .ready } }).chosen 0 (some 0) = some 1 := by decide

/-- What a trap put aside. -/
def aside : Shadow :=
  ⟨4, [], [], [], [], [], [], Vector.replicate 6 Loop.off, Vector.replicate 4 none, List.replicate 16 0, Vector.replicate 8 0,
   Vector.replicate 8 AGen.zero, 0, 0, .none, Org.zero, false, 0⟩

theorem test_witness_LaunchRetireAndDispatchWords :
    (one id).me.rep.replaying = false ∧ (one id).here.cur = some (one id).cur.x ∧ (one id).me.shadow = none ∧
    (∃ h, (one fun c => { c with shadow := some aside }).me.shadow = some h) ∧
    (((one id).ctx 0 0).shadow = none ∧ (4092 : W32).toNat % 4 = 0 ∧ (((one id).ctx 0 0).segOf 4092).isSome = true) := by
  refine ⟨by decide, by decide, by decide, ⟨_, rfl⟩, by decide⟩

/-- A word in memory stream m, from its slot, encoding and operands. -/
def word (slot : Nat) (w : W32) (o : Ops := Ops.zero) : StreamWord := ⟨1, slot, w, Org.zero, 0, o, 0, none⟩

/-- An operation for the matrix engine. -/
def mop (k : MKind) : MOp := ⟨k, 0, 0, 1, 0, Org.zero, Vector.replicate 8 0, 0, 0, 0, 64, false, false, false, 0, none, none, 0, 0⟩

/-- Parameters of an int32 call on 1 by 1 results with two groups. -/
def par : CallPar := ⟨1, 1, 2, 1, 0, 0, 0, 0, 0, false, 0, 0, 1, 1, none, none⟩

/-- A running call. -/
def call : Call := ⟨mop .call, par, 0, 0, true, [0], none, none, false, false, false, 0, 0, none, false, false, 0, 0, false, false, none, none, none, 0, 0⟩

/-- The unit's core runs a call, with its routine loaded. -/
def calling (a : Call) (ws : List W64 := [0x2000000000000000#64]) (f : Ctx → Ctx := id) : State :=
  one f fun k => { k with call := some a, rts := [⟨1, 64, ws⟩] }

theorem test_witness_StepRunsTheDecodedInstruction :
    (isEvent .commit = true ∧ (one id).boot.powered = true) ∧
    (let s := one id id fun s => { s with issuing := true }
     s.issuing = true ∧ decodeRaw 1 0x6A073801#32 = some (.addi 4#3 0#2 7#5 7#5 1#11)) ∧
    (let w := word 5 0x0B809180#32
     let s := one fun c => { c with mt := [w] }
     (s.ctx 0 0).flows = true ∧ (s.ctx 0 0).stream 0 = [w] ∧ decodeRaw w.slot w.word = some (.tld 7#3 0#2 9#9 0#2 12#5 0#5) ∧
      (s.core 0).headHeld 0 0 w = false ∧ (s.ctx 0 0).readsFull 0 (.tld 7#3 0#2 9#9 0#2 12#5 0#5) = false ∧
      ∃ n, accessPlace 0 0 0 = some n ∧ s.outOfOrder (s.reaches 0 0 w) n = false) ∧
    (let s := calling call
     s.here.call = some call ∧ s.callLeaves 0 call = none ∧ s.engineWord = some 0x2000000000000000#64 ∧
      decodeRoutine 0x2000000000000000#64 = some (.rwJmore 0#11) ∧ call.ready ≤ s.here.cyc) := by decide

/-- A launch of function 1: 4 units of graph 9. -/
def launch1 : Launch :=
  ⟨1, 1, 0, 1, 0, false, false, 1000, 10, 4, 0, 0, 1, 9, [], 0, none, 0, .admitted, 0, 0, false, false, false, false, 0, 0, 0, 0, 64, 0, [], 11, true, none, 0⟩

/-- The instances of launch 1: graph 9 of phase 7 of job 5. -/
def family : List Inst := [⟨2, 9, 12, 1, false, false, 1, 11, false⟩, ⟨3, 7, 13, 1, false, false, 1, 12, false⟩, ⟨4, 5, 0, 1, false, false, 1, 13, false⟩]

/-- Launch 1 is there with its instances, changed by l, and its debug slot holds a word. -/
def inWorld (l : Launch → Launch) (w0 : W64 := 0) (s : State) : State :=
  { s with launches := [l launch1], insts := family, vfs := [(1, { Vf.reset with live := true, dbg := [(0, { DbgSlot.reset with w0 := w0 })] })] }

theorem test_witness_TrapStopOverlayAndCancelWords :
    (one id).me.tif = false ∧ (one fun c => { c with tif := true }).me.tif = true ∧
    (one id id (inWorld id 0x100000001)).dbgBit 1 1 0 = true ∧ (one id).dbgBit 1 1 0 = false ∧
    (0#6).toNat < (one id).me.segs.length ∧ (one id).me.segs.length ≤ (1#6).toNat ∧
    (let s := one (fun c => c.setS 3 3) id (inWorld id)
     s.launch? 1 = some launch1 ∧ launch1.vf = s.me.vf ∧ (s.aboveAt launch1 4).map (fun p => p.serial) = some 13 ∧ s.insts = family ∧
      ((s.sreg 3).setWidth 32 : W32).toNat < launch1.units.toNat ∧ (s.aboveAt launch1 2).isSome = true ∧
      (∀ n : Fin 3, ((s.aboveAt launch1 (2 + n.val)).map fun p => p.serial) = some (11 + n.val)) ∧
      (s.instAt 12).map (fun p => p.up) = some 13 ∧ ∀ k ∈ s.insts, k.id ≠ 6) ∧
    (3 : W32) ≠ 5 ∧ (3 : W32) ≠ 0 ∧ (one id).launch? 1 = none := by decide

theorem test_witness_TakingATrap :
    (4092 : W32).toNat % 4 = 0 ∧ (((one id).ctx 0 0).segOf 4092).isSome = true ∧ 15 < 16 ∧ 65535 < 2 ^ 16 ∧ 255 < 2 ^ 8 ∧
    ((one fun c => { c with trapvec := 4092 }).ctx 0 0).trapvec = 4092 ∧ (2 : W32).toNat % 4 ≠ 0 ∧ (2 : W32) ≠ 0xFFFFFFFF#32 ∧ ((one id).ctx 0 0).segOf 4096 = none ∧
    (let quiet (e : Pending) : Prop :=
       let s := one fun c => { c with pendEv := e }
       let cx := s.ctx 0 0
       cx.trapvec = 0xFFFFFFFF#32 ∧ cx.st.live = true ∧ cx.pendEv.kill = false ∧ s.stopAt 0 0 = none ∧ cx.pendEv.preempt = false ∧ cx.tif = false ∧
        cx.rep.replaying = false
     quiet { Pending.none with full := some (0, 0, Org.zero) } ∧ quiet { Pending.none with trap := some (65535, Org.zero) } ∧ quiet { Pending.none with overrun := true }) := by decide

theorem test_witness_ReturningFromATrap :
    ((one fun c => { c with tif := true, shadow := some aside }).ctx 0 0).shadow = some aside ∧ aside.s16.length = 16 ∧
    ∀ p ∈ aside.pend, p.val = none := by decide

theorem test_witness_FatalFaultEndsTheUnit :
    15 < 16 ∧ (one id).dbgBit ((one id).ctx 0 0).vf ((one id).ctx 0 0).launch 3 = false ∧ (one id id (inWorld id 0x100000008)).dbgBit 1 1 3 = true := by decide

/-- A tile of 1 KiB rows: state, read count, rows. -/
def tile (st : TileState) (count : Nat) (rowsm1 : BitVec 6 := 0) : Tile := ⟨1, st, count, rowsm1, 15, false, 0, false, 0, none, []⟩

/-- A memory word at hand in a slot, with operands in register copies. -/
def atSlot (slot : Nat) (o : Ops := Ops.zero) (s : State) : State := { s with cur := { s.cur with slot := slot, ops := o } }

/-- Copies of s1, s2 and s3. -/
def copies (a b c : W64 := 0) : Ops := { Ops.zero with s := (((Vector.replicate 32 (0 : W64)).set 1 a).set 2 b).set 3 c }

/-- Tile 5 is in the unit's table, tile 6 in its launch's. -/
def tiled (t u : Tile) (o : Ops := Ops.zero) (slot : Nat := 5) : State :=
  one (fun c => { c with tiles := [(5, t)] }) (fun k => { k with ltiles := [(1, [(6, u)])] }) (atSlot slot o)

theorem test_witness_TileReadsDeliverAndCount :
    unlogged (tiled (tile .present 2) (tile .present 1)) ∧
    (let s := tiled (tile .present 2) (tile .present 1)
     s.consumer 5 = some (.unit 0 0 5) ∧ s.consumer 6 = some (.launch 0 1 6) ∧ s.avail (.unit 0 0 5) = .ready ∧ s.avail (.launch 0 1 6) = .ready ∧
      s.pOffset 15 512 % 64 = 0 ∧ (s.opS 1).toNat % 65536 % 8 = 0 ∧ s.pOffset 15 128 % 128 = 0 ∧ s.me.sqA.length < 16 ∧
      s.consumer 7 = some (.launch 0 1 7) ∧ (s.tile (.launch 0 1 7)).st = .absent ∧ (7#9).getLsbD 8 = false) ∧
    ((tiled Tile.absent Tile.absent { copies 1 with ag := Vector.replicate 8 32 }).pOffset 16 512 % 64 ≠ 0) ∧
    ((tiled Tile.absent Tile.absent (copies 1)).opS 1).toNat % 65536 % 8 ≠ 0 ∧
    ((tiled Tile.absent Tile.absent { copies 1 with ag := Vector.replicate 8 64 }).pOffset 23 128 % 128 ≠ 0) :=
  ⟨unlogged_of (by decide) rfl rfl, by decide, by decide, by decide, by decide⟩

theorem test_witness_TileWritesStoreTheirBytes :
    unlogged (tiled (tile .present 2) (tile .present 1)) ∧
    (let s := tiled (tile .present 2) (tile .present 1)
     s.consumer 5 = some (.unit 0 0 5) ∧ s.avail (.unit 0 0 5) = .ready ∧ s.pOffset 15 512 % 64 = 0 ∧ (s.opS 1).toNat % 65536 % 8 = 0 ∧
      s.consumer 7 = some (.launch 0 1 7) ∧ (s.tile (.launch 0 1 7)).st = .absent) ∧
    (tile .present 1 63).size ≤ 65536 ∧ 65535 < (tile .present 1 63).size ∧
    (tiled Tile.absent Tile.absent (copies 0xFFFF)).pOffset 16 512 % 64 = 0 ∧
    ((tiled Tile.absent Tile.absent (copies 0xFFFF)).opS 1).toNat % 65536 % 8 ≠ 0 :=
  ⟨unlogged_of (by decide) rfl rfl, by decide, by decide, by decide, by decide, by decide⟩

theorem test_witness_TilesAreMadeCountedAndEnded :
    unlogged (tiled (tile .present 65535) Tile.absent) ∧
    (let s := tiled (tile .present 65535) Tile.absent (copies 0x10000 0)
     s.producer 7 = some (.unit 0 0 7) ∧ (s.tile (.unit 0 0 7)).st = .absent ∧ descOk (s.opS 2) = true ∧ (63#6 : BitVec 6).setWidth 64 ≠ (0 : W64) ∧
      s.opS 2 = 0 ∧ 65535 < (s.opS 1).toNat ∧ s.allocOk 0 (some 0) (Tile.absent.shape 0).granules = true ∧
      s.consumer 5 = some (.unit 0 0 5) ∧ (s.tile (.unit 0 0 5)).st ≠ .absent ∧ 65535 < ((s.tile (.unit 0 0 5)).count : Int) + (1#11).toInt ∧
      ((s.tile (.unit 0 0 5)).count : Int) + (s.opS 1).toInt > 0 ∧
      s.me.name false 5 = some 5 ∧ (s.tile (.launch 0 s.me.launch 5)).st = .absent) ∧
    (let s := tiled (tile .present 1) Tile.absent
     ((s.tile (.unit 0 0 5)).count : Int) + (2047#11).toInt ≤ 0) :=
  ⟨unlogged_of (by decide) rfl rfl, by decide, by decide⟩

theorem test_witness_SystemRegistersReadAndWrite :
    ((one id).me.rep.logging = false ∧ (one id).me.rep.replaying = false ∧ (one id).me.rep.asId = none) ∧ 0x0F0 ≤ (0x7FF#11).toNat ∧
    ((0x01A#11) ≠ 0x01B#11 ∧ ¬(0x020 ≤ (0x01A#11).toNat ∧ (0x01A#11).toNat ≤ 0x027)) ∧
    (let s := one id id (inWorld id)
     s.launch? s.me.launch = some launch1 ∧ ((s.aboveAt launch1 3).map fun j => j.id) = some 7 ∧ ((s.aboveAt launch1 4).map fun j => j.id) = some 5) ∧
    (let s := tiled (tile .present 2) (tile .present 1)
     (∃ m : Fin 256, (s.tile (s.resolve 0 0 m)).st = .present) ∧ ∀ m : Fin 256, ((one id).tile ((one id).resolve 0 0 m)).st ≠ .present) ∧
    (∀ j, j < 12 → ((regs 0xFFF 0).me.sticky[7].getLsbD j && !((regs 0xFFF 0).sreg 3).getLsbD j) = false) ∧
    (∃ j, j < 12 ∧ ((one fun c => { c with sticky := c.sticky.set 7 0x801 }).me.sticky[7].getLsbD j && !((1 : W64).getLsbD j)) = true) := by
  refine ⟨by decide, by decide, by decide, by decide, by decide +kernel, by decide, 11, by decide, by decide⟩

/-- A PLANES tile of one 8-bit element row of 64. -/
def planes : Tile := { tile .present 1 with layout := true, fmt := 8, rbm1 := 0 }

theorem test_witness_ParksPlanesRingsLatchesAndQuotas :
    unlogged (tiled (tile .present 1) Tile.absent) ∧
    (let s := one (fun c => { c with tiles := [(5, tile .present 1)] }) id fun s => inWorld id 0 (atSlot 5 (copies 5) s)
     (s.tile (.unit 0 0 5)).st = .present ∧ s.avail (.unit 0 0 5) = .ready ∧ s.launch? (s.ownerLaunch (.unit 0 0 5)) = some launch1 ∧ s.parks 0 < 64 ∧
      regTile (s.opS 1) ≠ 0x1FF ∧ s.consumer (regTile (s.opS 1)) = some (.unit 0 0 5)) ∧
    (tile .present 1).parkBytes ≤ 2048 ∧
    (let s := tiled (tile .parked 1) Tile.absent
     (s.tile (.unit 0 0 5)).st = .parked ∧ s.parks 0 < 64 ∧ s.allocOk 0 (s.unparkAccount (.unit 0 0 5)) (s.tile (.unit 0 0 5)).granules = true) ∧
    (let s := one fun c => { c with tiles := [(5, { tile .present 1 with rbm1 := 0 }), (7, planes), (8, { tile .present 1 with rbm1 := 1 })] }
     let els := (s.tile (s.resolve 0 0 5)).rowBytes * 8 / tyBits (s.tile (s.resolve 0 0 5)).fmt.toNat
     s.avail (s.resolve 0 0 5) = .ready ∧ s.avail (s.resolve 0 0 7) = .ready ∧ s.avail (s.resolve 0 0 8) = .ready ∧
      (s.tile (s.resolve 0 0 7)).layout = true ∧ (s.tile (s.resolve 0 0 7)).rows = (s.tile (s.resolve 0 0 5)).rows ∧ els % 64 = 0 ∧
      (s.tile (s.resolve 0 0 7)).st = .present ∧ (s.tile (s.resolve 0 0 8)).st = .present ∧ (s.tile (s.resolve 0 0 5)).layout = false ∧
      (s.tile (s.resolve 0 0 5)).fmt.toNat ≤ 10 ∧ fmtPlanes (s.tile (s.resolve 0 0 7)).fmt.toNat * els / 8 ≤ (s.tile (s.resolve 0 0 7)).rowBytes ∧
      els / 64 ≤ (s.tile (s.resolve 0 0 8)).rows ∧ 128 ≤ (s.tile (s.resolve 0 0 8)).rowBytes ∧
      fmtLegal (s.tile (s.resolve 0 0 7)).fmt.toNat = true ∧ (s.tile (s.resolve 0 0 5)).size ≤ 65536 ∧ (s.tile (s.resolve 0 0 8)).size ≤ 65536 ∧
      s.resolve 0 0 5 ≠ s.resolve 0 0 7 ∧ s.resolve 0 0 5 ≠ s.resolve 0 0 8 ∧ s.resolve 0 0 7 ≠ s.resolve 0 0 8) ∧
    ((240#8).toNat + (15#4).toNat ≤ 255) ∧ (255 < (241#8).toNat + (15#4).toNat) ∧
    (let s := one (fun c => { c with priv := true }) id (atSlot 5 (copies 1024))
     s.me.priv = true ∧ (s.ctx 0 0).st ≠ .free ∧
      ((s.opS 1).toNat % 2048) + ((allCtx.filter fun z => z ≠ 0).map fun z => (s.ctx 0 z).quota.toNat).sum ≤ 1024) ∧
    (one id).me.priv = false :=
  ⟨unlogged_of (by decide) rfl rfl, by decide, by decide, by decide, by decide, by decide, by decide, by decide, by decide⟩

theorem test_witness_PeerReadsDeliverAndCount :
    unlogged (tiled Tile.absent (tile .present 2) Ops.zero 6) ∧
    (let s := tiled Tile.absent (tile .present 2) (copies 0 0x03C00000#64 0x7F) 6
     let good (p : W64) : Prop := p.extractLsb' 60 4 = 0#4 ∧ p.getLsbD 51 = false ∧ p.extractLsb' 7 9 = 0#9
     s.me.name false 6 = some 6 ∧ (good (s.opS 2) ∧ (s.opS 2).toNat % 128 < 96) ∧ s.avail (.launch (0 / 96 * 96 + (s.opS 2).toNat % 128) s.me.launch 6) = .ready ∧
      (s.opS 2).toNat / 2 ^ 16 % 2 ^ 16 % 64 = 0 ∧ (s.tile (.launch 0 1 6)).st ≠ .absent ∧ (good (s.opS 3) ∧ ¬((s.opS 3).toNat % 128 < 96))) ∧
    ((0x80#64).extractLsb' 7 9 ≠ 0#9) ∧ ((0x10000#64).toNat / 2 ^ 16 % 2 ^ 16 % 64 ≠ 0) :=
  ⟨unlogged_of (by decide) rfl rfl, by decide, by decide, by decide⟩

theorem test_witness_PeerCopiesEnterTheCopyQueue :
    let s := tiled Tile.absent (tile .present 2) { copies 0x0060000100000000 with ag := Vector.replicate 8 0 } 6
    unlogged s ∧
    (let s := one (fun c => { c with tiles := [(5, tile .absent 0)] }) (fun k => { k with ltiles := [(1, [(6, tile .present 2)])] })
       (atSlot 6 (copies 0x0060000100000000))
     let w := s.opS 1
     w.extractLsb' 60 4 = 0#4 ∧ w.getLsbD 51 = false ∧ w.extractLsb' 7 9 = 0#9 ∧ w.toNat % 128 < 96 ∧ s.producer 5 = some (.unit 0 0 5) ∧
      (s.tile (.unit 0 0 5)).st = .absent ∧ s.me.ccq.length < 8 ∧ w.toNat / 2 ^ 52 % 2 ^ 8 = 6 ∧
      (s.tile (.launch 0 s.me.launch 6)).size = (s.tile (.unit 0 0 5)).size ∧ w.toNat / 2 ^ 32 % 2 ^ 16 = 1 ∧ w.toNat / 2 ^ 48 % 8 = 0 ∧
      s.allocOk 0 (some 0) (s.tile (.unit 0 0 5)).granules = true ∧ (s.nb 0 7).owner = 0 ∧ (0x0067000100000000#64).toNat / 2 ^ 48 % 8 = 7) :=
  ⟨unlogged_of (by decide) rfl rfl, by decide⟩

/-- A barrier of launch 1. -/
def barrier (exp : BitVec 16) (phase : Bool) : Barrier := ⟨0, exp, 1, phase, 2, 0, 0⟩

/-- Barrier 2047 of cores 0 and 95. -/
def barred (b : Barrier) (f : Ctx → Ctx := id) (o : Ops := Ops.zero) : State :=
  one f (fun k => { k with nb := [(2047, b)] }) fun s => atSlot 6 o { s with cores := s.cores ++ [(95, { Core.reset with nb := [(2047, b)] })] }

theorem test_witness_BarriersArriveAndComplete :
    unlogged (barred (barrier 1 false)) ∧
    ((one id).nb 0 2047).owner = 0 ∧ (one id).me.launch ≠ 0 ∧
    (let s := barred { barrier 2 false with target := 2 }
     (s.nb 0 2047).owner = s.me.launch ∧ (s.nb 0 2047).exp = (s.nb 0 2047).target ∧ (s.nb 0 2047).pend = 0) ∧
    (let s := barred (barrier 1 false) (fun c => { c with arv := [(2047, true, false)] }) (copies 95)
     (s.nb 0 2047).exp ≠ 0 ∧ (s.opS 1).toNat % 128 < 96 ∧ 0 / 96 * 96 + (s.opS 1).toNat % 128 ≠ 0 ∧ (s.nb 95 2047).owner = s.me.launch ∧
      (s.nb 95 2047).exp ≠ 0 ∧ s.me.ap 2047 = some false ∧ (s.nb 0 2047).phase = false ∧ s.cur.note = none) ∧
    (let s := barred (barrier 1 true) (fun c => { c with arv := [(2047, true, false)] })
     s.me.ap 2047 = some false ∧ (s.nb 0 2047).phase ≠ false) ∧
    (let s := barred { barrier 1 true with owner := 2 }
     (s.nb 0 2047).owner ≠ 0 ∧ (s.nb 0 2047).owner ≠ s.me.launch) :=
  ⟨unlogged_of (by decide) rfl rfl, by decide, by decide, by decide, by decide, by decide, by decide⟩

theorem test_witness_MatrixWordsActOnTheEngineAndItsRegisters :
    (banked 0).granted 7 = true ∧ (banked 0).granted 6 = false ∧ ((regs 64 1).sreg 3).toNat % 64 = 0 ∧ ((regs 64 1).sreg 4).toNat % 64 ≠ 0 ∧
    ((banked 0).bankClass 7 ≠ 1 ∧ 6 ≤ (7#3).toNat) ∧
    (let s := one id fun k => { k with grant := k.grant.set 5 (some 0) }
     s.granted 5 = true ∧ s.bankClass 5 ≠ 1 ∧ (5#3).toNat < 6 ∧ s.bankClass 5 = 0) ∧
    ftValid 0 = false ∧
    ftValid 0x10111082#32 = true := by decide

theorem test_witness_FrontWordsEnterTheirQueueOrRead :
    ((7#3).toNat = 6 + (1 : Fin 2).val ∧ (banked 1).granted 7 = true ∧ (banked 1).bankClass 7 = 1) ∧ (4#3).toNat ≤ 4 ∧
    ((banked 0).granted 7 = true ∧ ((7#3).toNat < 6 ∨ (banked 0).bankClass 7 ≠ 1)) ∧ (banked 1).granted 6 = false := by decide

/-- Tile 5 of the unit is the call's A operand. -/
def operand : Call := { call with op := { mop .call with ta := some 5, tb := some 5 }, par := { par with la := some false, lb := some false } }

theorem test_witness_RoutineWordsRunTheCall :
    (let s := calling operand [] fun c => { c with tiles := [(5, tile .present 1)] }
     s.here.call = some operand ∧ operand.group < operand.par.kg ∧ s.opLoc s.cur.core operand.op operand.op.ta operand.par.la = some (.unit 0 0 5) ∧
      s.opLoc s.cur.core operand.op operand.op.tb operand.par.lb = some (.unit 0 0 5) ∧ s.avail (.unit 0 0 5) = .ready ∧
      s.outOfTurn [.unit 0 0 5] 4 = false) ∧
    (let s := calling call
     s.opLoc s.cur.core call.op call.op.ta call.par.la = none) ∧
    (let a := { call with aSl := some [1], bSl := some [2] }
     a.aSl = some [1] ∧ a.bSl = some [2] ∧ call.aSl = none) ∧
    (let a := { call with stepped := true, par := { par with g := 2, kg := 3 } }
     a.stepped = true ∧ ¬(a.group < a.par.kg ∧ ((a.group + 1) % a.par.g = 0 ∨ a.group + 1 = a.par.kg))) ∧
    (let a := { call with stepped := true, par := { par with smode := 3 } }
     let s := calling a [] fun c => { c with sqA := [1], sqB := [2] }
     a.group < a.par.kg ∧ (a.group + 1) % a.par.g = 0 ∧ a.popped = false ∧ (s.ctx s.cur.core a.op.x).sqA ≠ [] ∧ (s.ctx s.cur.core a.op.x).sqB ≠ []) ∧
    (let a := { call with stepped := true, popped := true, tr := some true }
     a.promoted = false ∧ (a.par.smode = 0 ∨ a.popped = true) ∧ a.tr ≠ some (!true) ∧ (∀ e ∈ (calling a).here.tails, e.op.d ≠ a.op.d) ∧
      (calling a).here.bankLanding a.op.d = false) ∧
    (let a := { call with group := 1, stepped := true, promoted := true, kadv := true }
     a.group + 1 = a.par.kg ∧ a.promoted = true ∧ a.bwrDone = false ∧ a.group < a.par.kg ∧ a.kadv = true ∧ call.kadv = false) ∧
    (let a := { call with group := 2 }
     a.par.kg ≤ a.group ∧ a.stepped = false) ∧
    ¬(call.par.kg ≤ call.group ∨ (call.group + 1 = call.par.kg ∧ call.promoted = true)) := by decide

theorem test_witness_PromotionArithmetic :
    (let p := { par with m := 64, n := 64 }
     p.drow + p.m ≤ 64 ∧ p.dcol + p.n ≤ 64) ∧
    (let p := { par with drow := 63, dcol := 62, n := 2 }
     p.drow + p.m ≤ 64 ∧ p.dcol + p.n ≤ 64 ∧ (∀ i j, i < p.m → j < p.n → 4093 ≠ (p.drow + i) * 64 + p.dcol + j)) ∧
    2 ^ 32 - 1 < 2 ^ 32 ∧ (call.par.fp32 = false ∧ (call.first && call.op.na) = false) ∧
    (let a := { call with op := { mop .call with na := true }, par := { par with fp32 := true } }
     (a.first && a.op.na) = true ∧ a.par.fp32 = true ∧ a.par.smode = 0) := by
  refine ⟨by decide, ⟨by decide, by decide, fun i j hi hj => ?_⟩, by decide, by decide, by decide⟩
  change i < 1 at hi
  change j < 2 at hj
  change 4093 ≠ (63 + i) * 64 + 62 + j
  omega

/-- A page of function 1 at 0, in the core's translations. -/
def page (pa : Nat) (w : Bool := true) (priv : Bool := false) : Tlb := ⟨1, 0, 15, pa, w, priv⟩

/-- A direct word at hand over one page, with copies of s1, s2 and s3. -/
def mapped (t : List Tlb) (o : Ops := Ops.zero) (f : Ctx → Ctx := id) (h : State → State := id) : State :=
  one f (fun k => { k with tlb := t }) fun s => h (atSlot 7 o s)

theorem test_witness_DirectLoadsAndStores :
    (let s := mapped [page (2 ^ 48)] (copies 32760)
     s.me.rep.replaying = false ∧ (s.adr 1).toNat % 2 ^ ((3#3).toNat % 4) = 0 ∧ s.lineBusy (s.adr 1) 8 = false ∧ s.behindOwn false (s.adr 1).toNat 8 = false ∧ s.behindOwn true (s.adr 1).toNat 8 = false ∧ s.requests 0 < 768 ∧ s.faulted = false ∧
      (s.adr 1).toNat % 32768 + 8 ≤ 32768 ∧ s.xlate 0 s.me.vf s.me.priv true (s.adr 1) = .ok (2 ^ 48 + 32760) ∧
      s.xlate 0 s.me.vf s.me.priv false (s.adr 1) = .ok (2 ^ 48 + 32760) ∧ s.readsPoison [(2 ^ 48 + 32760, 8)] = false) ∧
    (let s := mapped [page 0] Ops.zero id fun s => { s with poison := [0] }
     s.xlate 0 1 false false (s.adr 1) = .ok 0 ∧ s.readsPoison [(0, 8)] = true) ∧
    (let st : Store := ⟨0, 0, 0, 8, 0⟩
     let s := mapped [page 0] Ops.zero fun c => { c with stores := [st] }
     (s.me.stores.filter fun st => bytesMeet 0 8 st.pa st.n) = [] ++ [st] ∧ region 0 ≠ 3 ∧ st.pa ≤ 0 ∧ 0 + 8 ≤ st.pa + st.n ∧
      (s.me.stores.filter fun st => bytesMeet 4 8 st.pa st.n) = [] ++ [st] ∧ ¬(st.pa ≤ 4 ∧ 4 + 8 ≤ st.pa + st.n)) ∧ region 0 ≠ 3 ∧ 56 % 64 + 8 ≤ 64 ∧
    (mapped [page 0 true true]).xlate 0 1 false false 0 = .perm ∧ (mapped [page 0 true true]).xlate 0 1 false true 0 = .perm ∧
    (mapped [page 0 false]).xlate 0 1 false true 0 = .fault ∧ (mapped []).xlate 0 1 false true 0 = .miss ∧ (mapped []).xlate 0 1 false false 0 = .miss ∧
    (let s := mapped [page 0] (copies 32256)
     (s.adr 1).toNat % 64 = 0 ∧ (s.adr 1).toNat % 32768 + 512 ≤ 32768 ∧ s.lineBusy (s.adr 1) 512 = false ∧ s.behindOwn true (s.adr 1).toNat 512 = false ∧
      s.xlate 0 1 false true (s.adr 1) = .ok 32256) ∧
    (let s := mapped [page 0] (copies 1)
     (s.adr 1).toNat % 2 ^ ((1#3).toNat % 4) ≠ 0 ∧ (s.adr 1).toNat % 64 ≠ 0) := by decide

theorem test_witness_AtomicsReadModifyWriteOneWord :
    let s := mapped [page 0] (copies 32760 32760 1)
    s.me.rep.replaying = false ∧ s.me.rep.logging = false ∧ memOk s ∧ (∀ st ∈ s.me.stores, region st.pa ≠ 3) ∧
    ((s.adr 1).toNat % 8 = 0 ∧ s.lineBusy (s.adr 1) 8 = false ∧ s.behindOwn false (s.adr 1).toNat 8 = false ∧ s.behindOwn true (s.adr 1).toNat 8 = false ∧ s.requests 0 < 768 ∧ s.faulted = false ∧ (s.adr 1).toNat % 32768 + 8 ≤ 32768 ∧
      s.xlate 0 1 false true (s.adr 1) = .ok 32760 ∧ s.xlate 0 1 false false (s.opS 2) = .ok 32760 ∧ s.readsPoison [(32760, 8)] = false ∧ region 32760 ≠ 3) ∧
    ((s.opS 2).toNat % 8 = 0 ∧ s.owesBound (s.opS 2) = false ∧ s.me.stores = [] ∧ (BitVec.ofNat 64 (readNat s.mem 32760 8) : W64) ≠ s.opS 3) ∧
    (BitVec.ofNat 64 (readNat s.mem 32760 8) : W64) = s.opS 4 ∧ (s.opS 3).toNat % 8 ≠ 0 ∧
    (mapped [page 0] (copies 0 8) fun c => { c with binds := [⟨0, 64, 8⟩], stores := [⟨0, 0, 0, 8, 0⟩] }).owesBound 8 = true ∧ (1 : BitVec 3) ≠ 0 := by
  refine ⟨by decide, by decide, by unfold memOk; decide, by decide, by decide, by decide, by decide, by decide, by decide⟩

theorem test_witness_BindingsFencesAndInvalidations :
    (let s := mapped [] (copies 64 64 8)
     s.me.rep.replaying = false ∧ ((s.opS 3).toNat % 8 = 0 ∧ (s.opS 1).toNat % 64 = 0 ∧ (s.opS 2).toNat % 64 = 0) ∧ s.opS 2 ≠ 0 ∧ s.me.binds.length < 16 ∧ s.lineBusy (s.opS 3) 8 = false ∧ s.behindOwn false (s.opS 3).toNat 8 = false ∧
      (∀ o ∈ s.me.binds, ¬(o.flag ≠ s.opS 3)) ∧ (∀ o ∈ s.me.binds, ¬(o.base = s.opS 1 ∧ o.flag = s.opS 3)) ∧ s.me.priv = false) ∧
    (let s := mapped [] (copies 64 64 8) fun c => { c with binds := List.replicate 16 ⟨64, 64, 8⟩, priv := true }
     ¬(s.me.binds.length < 16) ∧ (∃ o ∈ s.me.binds, o.base = s.opS 1 ∧ o.flag = s.opS 3) ∧ s.me.priv = true ∧
      (∀ v ∈ s.invs, v.waiter ≠ some (s.cur.core, s.cur.x, s.cur.tok)) ∧ s.cur.note = none ∧ s.lineBusy 0 0 = false ∧ (vget (n := 2) s.me.eq 3).length < 32) ∧
    (mapped [] (copies 1)).opS 1 = 1 ∧ (1 : W64).toNat % 64 ≠ 0 ∧
    (mapped [] Ops.zero id fun s => { s with cur := { s.cur with note := some 1 } }).cur.note ≠ none := by decide

/-- A command of queue q: its number, op and descriptor. -/
def cmd (num : Nat) (op : BitVec 6) (state : Nat) (desc : BitVec 512 := 0) (total : Nat := 4) : Cmd :=
  ⟨num, 7, op, 0, Org.zero, 1, 0, state, 0, total, 0, 0, 2, 0, none, none, none, 0, false, 0, none, false, 0, 0, [], 0, 0, 0, desc, 0, 0, [], false, 0, []⟩

/-- A gunbind whose flag's line an older gfetch has still to read. -/
theorem test_witness_BindingsWaitForOlderCommands :
    let s := mapped [] (copies 64 64 8) (fun c => { c with eq := c.eq.set 0 [cmd 1 0x04 0] }) fun s => { s with cur := { s.cur with tok := 9 } }
    (s.opS 3).toNat % 8 = 0 ∧ s.lineBusy (s.opS 3) 8 = true := by decide

theorem test_witness_DescriptorCommandsEnterTheirQueues :
    unlogged (mapped []) ∧
    (let s := mapped []
     s.foreignPb 0 = false ∧ (vget (n := 2) s.me.eq 2).length < 32 ∧ s.me.stores = [] ∧
      s.bytesFit 0 7 (s.descTotal 1 0x15 0) = true ∧
      (∀ r ∈ (true, (s.opS 1).toNat, 64) :: s.descRanges (s.cmdAt 0x15 (s.opS 1) 7) (BitVec.ofNat 512 (s.loadVa 1 (s.opS 1).toNat 64)), s.behindOwn r.1 r.2.1 r.2.2 = false)) ∧
    (let s := one id (fun k => { k with nb := [(7, { barrier 1 false with owner := 2 })] })
     s.foreignPb 7 = true) ∧
    (let s := mapped [] Ops.zero fun c => { c with eq := c.eq.set 3 (List.replicate 32 (cmd 1 0x13 0)) }
     s.foreignPb 0 = false ∧ 32 ≤ (vget (n := 2) s.me.eq 3).length) :=
  ⟨unlogged_of (by decide) rfl rfl, by decide, by decide, by decide⟩

theorem test_witness_TileCommandsEnterTheirQueues :
    unlogged (mapped []) ∧
    (let s := mapped [] { copies 0 64 0x1 with ag := Vector.replicate 8 64 } fun c => { c with tiles := [(6, tile .present 1)] }
     s.me.name false 5 = some 5 ∧ s.me.name true 5 = some 5 ∧ (vget (n := 3) s.cur.ops.ag 0).toNat % 64 = 0 ∧ (s.tile (.unit 0 0 5)).st = .absent ∧
      (s.tile (.unit 0 0 5)).layout = false ∧ (31#5 : BitVec 5).setWidth 64 ≠ (0 : W64) ∧ s.foreignPb 0 = false ∧ (vget (n := 2) s.me.eq 0).length < 32 ∧
      s.bytesFit 0 0 (s.tile (.unit 0 0 5)).size = true ∧ s.me.stores = [] ∧
      s.allocOk 0 (some 0) (s.tile (.unit 0 0 5)).granules = true ∧ (0#5 : BitVec 5).setWidth 64 = (0 : W64) ∧
      indexAligned (s.opS 3) (s.opS 2) = true ∧ gatherOk (s.opS 3) (s.tile (.unit 0 0 5)).rows false = true ∧ (s.opS 3).toNat % 2 ^ 16 ≠ 0 ∧
      s.resolve 0 0 6 = .unit 0 0 6 ∧ (s.tile (.unit 0 0 6)).st ≠ .absent ∧ gatherOk (s.opS 1) (s.tile (.unit 0 0 6)).rows true = true) ∧
    (let s := mapped [] { copies with ag := Vector.replicate 8 0, ft := 0x10111082 } fun c =>
       { c with tiles := [(5, { tile .absent 0 with layout := true, fmt := 8 }), (6, { tile .absent 0 with rowsm1 := 63, rbm1 := 3 })] }
     (s.tile (.unit 0 0 5)).layout = true ∧ (s.tile (.unit 0 0 6)).st = .absent ∧ (convertPlan (s.tile (.unit 0 0 5)) (s.tile (.unit 0 0 6)) 5 s.cur.ops.ft).isSome = true) ∧
    (let s := mapped [] { Ops.zero with ag := (Vector.replicate 8 (0 : W64)).set 1 64, s := (Vector.replicate 32 (0 : W64)).set 1 64 }
     let a := vget (n := 3) s.cur.ops.ag 0
     let b := vget (n := 3) s.cur.ops.ag 1
     a.toNat % 64 = 0 ∧ b.toNat % 64 = 0 ∧ (s.opS 1).toNat % 64 = 0 ∧ 0 < (s.opS 1).toNat ∧ (s.opS 1).toNat ≤ 2 ^ 32 ∧ a.toNat + (s.opS 1).toNat ≤ b.toNat) ∧
    ((2 ^ 33 : W64).toNat / 2 ^ 33 ≠ 0) ∧ ((1 : W64).toNat / 2 ^ 16 % 4 ≠ 3 ∧ (1 : W64).toNat % (2 * 2 ^ ((1 : W64).toNat / 2 ^ 16 % 4)) ≠ 0) ∧
    ((0x30000 : W64).toNat / 2 ^ 16 % 4 = 3 ∧ (0x30000 : W64).toNat % 2 ^ 16 = 0) ∧
    (let s := mapped [] (copies 64 0x100000040)
     (s.opS 1).toNat % 64 = 0 ∧ ¬((0 : Nat) + (s.opS 1).toNat ≤ 0) ∧ (s.opS 2).toNat % 64 = 0 ∧ 2 ^ 32 < (s.opS 2).toNat) ∧
    (1 : W64).toNat % 64 ≠ 0 :=
  ⟨unlogged_of (by decide) rfl rfl, by decide, by decide, by decide, by decide⟩

/-- A bundle of one addi stands at address 0, in the unit's first window. -/
def fetching (f : Ctx → Ctx := id) (ws : List W32 := [0x00000102, 0x6A073801]) (h : State → State := id) : State :=
  one (fun c => f { c with half0 := some ⟨0, true, ws⟩ }) id h

/-- A frame of the unit. -/
def frame (f : Ctx → Ctx := id) : Frame := ⟨0, unit f, [], false⟩

/-- A launch that waits for a core of function 1, and its function. -/
def placing (l : Launch → Launch := id) (f : Ctx → Ctx := id) (k : Core → Core := id) (h : State → State := id) : State :=
  one f k fun s =>
    let t := inWorld l 0 s
    h { t with vfs := [(1, { Vf.reset with live := true, cfg := { VfConfig.none with cores := [0] } })] }

theorem test_witness_BundlesIssueAndResultsLand :
    (let s := fetching
     let v := s.verdict 0 0
     (∀ z, (s.ctx 0 z).st ≠ .blocked) ∧ (s.core 0).cur = some 0 ∧ (s.ctx 0 0).st = .issuing ∧ (s.ctx 0 0).pendEv = Pending.none ∧
      (s.ctx 0 0).rep.replaying = false ∧ s.throttled 0 = false ∧ s.breakAt 0 0 = none ∧ v.1 = .go 4 ∧ (v.2.2.2.ctx 0 0).rep.logging = false ∧
      (v.2.2.2.ctx 0 0).rep.replaying = false ∧
      overflowSlot ((v.2.2.2.ctx 0 0).cq.length - v.2.1.nt.toNat) (v.2.2.1.filter fun w => executes (v.2.2.2.ctx 0 0) v.2.1 4 w.2.1) = none) ∧
    ((fetching fun c => { c with pend := [⟨0, .s 7, 5, none, 0, none, false, Org.zero, false⟩] }).verdict 0 0).1 = .stall ∧
    ((fetching fun c => { c with idle := 1 }).verdict 0 0).1 = .block .idle ∧ ((fetching id [0x80000000]).verdict 0 0).1 = .fatal .illegalBundle 15 ∧
    (State.reset.core 0).cur = none ∧
    (let p : Pend := ⟨5, .s 7, 5, some 9, 0, none, false, Org.zero, false⟩
     let cx := (one fun c => { c with pend := [p] }).ctx 0 0
     cx.pend.find? (fun q => decide (q.tok = 5) && q.val.isSome && decide (q.left = 0)) = some p ∧ cx.landable p.reg = true) ∧
    (let s := fetching fun c => { c with st := .blocked, wait := .idle }
     (s.ctx 0 0).st = .blocked ∧ (s.ctx 0 0).wait = .idle ∧ (s.ctx 0 0).idle = 0 ∧ (s.verdict 0 0).1 = .go 4) ∧
    (let s := one id fun k => { k with ctx := k.ctx.set 1 { unit id with st := .ready, readyWait := 3072 } }
     (s.core 0).cur = some 0 ∧ s.chosen 0 none = some 1 ∧ (s.ctx 0 0).pendEv = Pending.none ∧ s.breakAt 0 0 = none ∧ 3072 ≤ (s.ctx 0 1).readyWait ∧ s.deadlineOf (s.ctx 0 1).launch ≤ s.deadlineOf (s.ctx 0 0).launch) ∧
    (let s := one (fun c => { c with half1 := some ⟨0, false, []⟩ }) id (inWorld id)
     (s.ctx 0 0).half1 = some ⟨0, false, []⟩ ∧ s.launch? 1 = some launch1 ∧ (s.ctx 0 0).segs[0]? = some (0, 4096) ∧ (4096 : W32).toNat ≤ 0x4000) ∧
    (let a : Answer := ⟨31, 5, 0, some (0, 7), Org.zero, false⟩
     let cx := (one fun c => { c with ans := [a] }).ctx 0 0
     cx.ans.find? (fun b => decide (b.tok = 5) && !b.disp) = some a ∧ cx.shadow = none ∧ cx.landable (.s 31) = true ∧ cx.landable .none = true) ∧
    (let st : Store := ⟨5, 0, 0, 8, 1⟩
     let cx := (one fun c => { c with stores := [⟨4, 8, 8, 8, 2⟩, st] }).ctx 0 0
     cx.stores.filter (fun q => decide (q.num = 5)) = [st] ∧ region st.pa ≠ 3 ∧
      (∀ o ∈ cx.stores.takeWhile (fun q => q.num != 5), bytesMeet o.pa o.n st.pa st.n = false) ∧ region st.pa ≠ 2 ∧ (one id).ev.flag = false ∧ (one id).ev.m ≠ 2 ∧
      (one id).poisoned st.pa st.n = false ∧
      let s := one id id fun s => { s with late := [⟨5, 1, 0, st, []⟩] }
      s.late = [⟨5, 1, 0, st, []⟩] ∧ region (2 ^ 49) = 2 ∧ s.boot.linkErr = false) ∧
    (let w := word 7 0x2F804900
     let s := one fun c => { c with mg := [w] }
     let cx := s.ctx 0 0
     cx.mg = [w] ∧ (∃ t i f v, decodeRaw w.slot w.word = some (.gwait t i f v)) ∧ cx.flows = true ∧ (s.core 0).headHeld 0 0 w = false) ∧
    (let w := word 6 0x07808094
     let s := one fun c => { c with mc := [w] }
     let cx := s.ctx 0 0
     cx.mc = [w] ∧ decodeRaw w.slot w.word = some (.cld 7#3 0#2 8#9 0#2 4#5 20#5) ∧ (peerMeaning (.cld 7#3 0#2 8#9 0#2 4#5 20#5)).isSome = true ∧
      cx.flows = true ∧ (s.core 0).headHeld 0 0 w = false ∧ cx.readsFull 1 (.cld 7#3 0#2 8#9 0#2 4#5 20#5) = false ∧
      s.outOfOrder (s.reaches 0 0 w) (5 + 0) = false ∧ s.logsOver s = false) := by
  refine ⟨by decide, by decide, by decide, by decide, by decide, by decide, by decide, by decide, by decide, by decide, by decide, ⟨by decide, ⟨_, _, _, _, rfl⟩, by decide⟩, by decide⟩

/-- Context 3 of a core holds a unit of a later launch, the others units that retire. -/
def full : State :=
  placing id id (fun k => { k with ctx := (Vector.replicate 4 (unit fun c => { c with st := .retiring })).set 3 (unit fun c => { c with launch := 2 }) })
    fun s => { s with launches := s.launches ++ [{ launch1 with id := 2, deadline := 9000, placed := 4 }] }

/-- A command of a unit that left, in queue 1 of the context it had. -/
def scattering : Cmd := { cmd 5 0x06 1 with a1 := 1, idx := some 0, len := 64 }

theorem test_witness_UnitsEndTrapOverrunAndMove :
    (let s := one fun c => { c with st := .retiring }
     let cx := s.ctx 0 0
     cx.st = .retiring ∧ (cx.mt = [] ∧ cx.mc = [] ∧ cx.mg = [] ∧ cx.lands = [] ∧ cx.pend = [] ∧ cx.saved = [] ∧ cx.savedF = [] ∧ cx.faultList = []) ∧
      (s.core 0).outstanding 0 = false ∧ cx.stores = [] ∧ s.wstores = []) ∧
    (let cx := (one fun c => { c with pendEv := { Pending.none with kill := true }, wd := 1048576 }).ctx 0 0
     cx.st.live = true ∧ cx.pendEv.kill = true ∧ cx.st = .issuing ∧ 1048576 ≤ cx.wd) ∧
    (let w := { word 5 0x0B809180 with note := some 8 }
     let s := one fun c => { c with trapvec := 4092, mt := [w], sw := c.sw.set 0 .tile, allocWait := c.allocWait.set 0 4096 }
     let cx := s.ctx 0 0
     (cx.st.live = true ∧ cx.tif = false ∧ cx.rep.logging = false ∧ cx.rep.replaying = false ∧ cx.trapvec.toNat % 4 = 0 ∧ (cx.segOf cx.trapvec).isSome = true) ∧
      cx.flows = true ∧ cx.pendEv = Pending.none ∧ s.breakAt 0 0 = none ∧ s.fullWait 0 0 0 = some (5, 8, w.org)) ∧
    ((one fun c => { c with pendEv := { Pending.none with overrun := true } }).ctx 0 0).pendEv = { Pending.none with overrun := true } ∧
    (one fun c => { c with pendEv := { Pending.none with overrun := true } }).breakAt 0 0 = none ∧
    (let l := { launch1 with spent := 10001, pol := 2 }
     let s := one id id (inWorld fun _ => l)
     s.launch? 1 = some l ∧ l.stage = .admitted ∧ l.crossed = false ∧ l.bg = false ∧ 1000 * l.budget.toNat < l.spent.toNat ∧ l.allDone = false ∧
      2 ≤ l.pol.toNat ∧ launch1.pol = 0) ∧
    (let s := one id id fun s => { inWorld id 0 s with timeBase := 1001 }
     launch1.late = false ∧ launch1.demoted = false ∧ launch1.deadline.toNat < s.now.toNat) ∧
    ((placing.nextPlaced 0).map fun p => (p.1.launch, p.1.frame, p.2)) = some (launch1, none, 0) ∧ launch1.groupLive = [0] ∧ placing.dbgSlots 1 1 = [] ∧
    allCtx.find? (fun z => decide ((placing.ctx 0 z).st = .free)) = some 1 ∧ placing.launch? 1 = some launch1 ∧
    ((full.firstCand 0 ((full.candidates 0).filter fun a => (full.coreFor 0 a).isNone && (full.preemptFor 0 a).isSome)).bind
      (fun a => full.preemptFor 0 a)) = some (0, 3) ∧ (full.ctx 0 3).st.live = true ∧ (full.ctx 0 3).pendEv = Pending.none ∧ full.breakAt 0 3 = none ∧
    (let s := one fun c => { c with st := .ready, fz := true, pendEv := { Pending.none with preempt := true } }
     (s.ctx 0 0).pendEv.preempt = true ∧ (s.ctx 0 0).st = .ready ∧ (s.ctx 0 0).fz = true ∧ s.woundDown 0 0 = true ∧
      ∀ i : Fin 2, (s.core 0).frun[i] = none) ∧
    (let s := placing (fun l => { l with placed := 4 }) id id fun s => { s with frames := [frame] }
     ((s.nextPlaced 0).map fun p => (p.1.frame, p.2)) = some (some frame, 0) ∧ s.dbgBit 1 1 2 = false ∧
      allCtx.find? (fun z => decide ((s.ctx 0 z).st = .free)) = some 1) ∧
    (let s := one (fun c => { c with unit := 3, eq := c.eq.set 1 [scattering] }) id fun s => { inWorld id 0 s with frames := [frame] }
     (s.ctx 0 0).cmd 1 5 = some scattering ∧ s.unitCtx 0 1 0 = none ∧ s.frameOf 1 0 = some frame ∧ scattering.state = 1 ∧ scattering.dead = false ∧
      scattering.slot = 7 ∧ scattering.op = 0x06#6 ∧ scattering.reread = false ∧ scattering.idx = some 0 ∧ (scattering.rowAddr 0 scattering.next).toNat % 64 ≠ 0 ∧
      frame.ctx.rep.replaying = false ∧ s.heldAhead 0 1 scattering = false ∧ s.countHeld 0 scattering = false) := by
  refine ⟨by decide, by decide, by decide, by decide, by decide, by decide, by decide, by decide +kernel, by decide, by decide, by decide, by decide,
    by decide +kernel, by decide, by decide, by decide, by decide, by decide +kernel, by decide⟩

/-- Memory with a root table at 2^48 whose first entry maps addresses to themselves, and an image at 0: one segment of 64 bytes. -/
def imageMem : List Host.Cell :=
  [(0, 0x41), (1, 0x50), (2, 0x54), (3, 0x4E), (4, 1), (6, 1), (0x10, 0x40), (0x18, 0x80), (0x44, 64), (2 ^ 48, 7)]

/-- Function 1 with its tables, memory and queue 3. -/
def mappedWorld (q : Queue := Queue.reset) (h : State → State := id) (g : Vf → Vf := id) (f : Ctx → Ctx := id) : State :=
  one f id fun s => h { s with
    mem := imageMem, launches := [launch1], insts := family
    vfs := [(1, g { Vf.reset with live := true, queues := [(3, q)], cfg := { VfConfig.none with root := 0x1000000000000, cores := [0], sigCount := 16, plsShare := 4 } })]
    boot := { s.boot with ready := true, fwUp := Vector.replicate 4 true } }

/-- A background launch of one unit, image at 0, arguments at 64, in cluster 0. -/
def packet : BitVec 512 := (1 <<< 320 + 64 <<< 256 + 1 <<< 160 + 1 <<< 64 + 0x1101 : Nat)

def arrival : Arrival := ⟨1, 0, packet, some (3, 0), none, none, false, 9, 7, 5, 0, false⟩

/-- The world's part of an event. -/
def withEv (f : Args → Args) (s : State) : State := { s with ev := f s.ev }

/-- One command of the unit's queue q. -/
def commanded (q : Fin 4) (m : Cmd) (f : Ctx → Ctx := id) (k : Core → Core := id) (h : State → State := inWorld id) : State :=
  one (fun c => f { c with eq := c.eq.set q [m] }) k h

theorem test_witness_TranslationsCommandsAndCopies :
    (let k : Walk := ⟨1, 0, [⟨0, 0, 8, false, 7, 0, false⟩]⟩
     let s := mappedWorld Queue.reset (fun s => { s with walks := [(0, [k])] })
     ((alGet [] 0 s.walks).take 64).find? (fun k => decide (k.vf = 1) && decide (k.va = (8 : W64).toNat / 32768 * 32768)) = some k ∧
      s.walk k.vf k.va = some ⟨0, 39, true, false⟩ ∧ (one id).walk k.vf k.va = none) ∧
    (let f : PFault := ⟨0, 0, 8, true, 1, 5, false⟩
     let s := commanded 1 (cmd 5 7 2) id id fun s => { inWorld id 0 s with pfaults := [f, { f with queue := 7 }], boot := { s.boot with fwUp := Vector.replicate 4 true } }
     s.pfaults.find? (fun f => decide (f.core = 0) && decide (f.x = 0) && decide (f.queue = 1) && decide (f.num = 5)) = some f ∧
      s.pfaults.find? (fun f => decide (f.core = 0) && decide (f.x = 0) && decide (f.queue = 7) && decide (f.num = 5)) = some { f with queue := 7 } ∧
      (s.ctx 0 0).faultList = [] ∧ s.fwRuns 1 = true ∧ s.inWindow f.va.toNat = false ∧ (s.ctx 0 0).cmd 1 5 = some (cmd 5 7 2) ∧ (∀ i ∈ s.invs, 5 ∉ i.ahead) ∧
      region (ptePlace s.memNow f.va.toNat 3 (s.vf (s.cmdVf (cmd 5 7 2)).1).cfg.root.toNat) = 0) ∧
    (let s := commanded 1 { cmd 5 7 0 with aux := [5] } fun c => { c with tiles := [(5, tile .present 1)] }
     (s.ctx 0 0).cmd 1 5 = some { cmd 5 7 0 with aux := [5] } ∧ (cmd 5 7 0).dead = false ∧ s.mayStart 0 1 { cmd 5 7 0 with aux := [5] } = true ∧
      s.outOfOrder [s.resolve 0 0 5] copyPlace = false ∧ (cmd 5 7 0).slot = 7 ∧ s.unitCtx 0 1 0 = some 0 ∧ s.avail (s.resolve 0 0 5) = .ready) ∧
    (let s := commanded 0 (cmd 5 4 0)
     (s.ctx 0 0).cmd 0 5 = some (cmd 5 4 0) ∧ (cmd 5 4 0).state = 0 ∧ s.mayStart 0 0 (cmd 5 4 0) = true) ∧
    (let m := cmd 5 0x10 0
     m.fence = true ∧ (commanded 0 m).mayStart 0 0 m = true) ∧
    (let s := commanded 1 (cmd 5 7 1) id fun k => { k with rotQ := 1, tlb := [page 0] }
     (0 : CtxId) = Fin.ofNat 4 (s.core 0).rotX ∧ (s.core 0).rotQ / 2 ^ 0 % 2 = 1 ∧ (s.ctx 0 0).cmds 1 = [cmd 5 7 1] ∧ s.cmdReplays 0 (cmd 5 7 1) = false ∧
      (cmd 5 7 1).next + 1 < (cmd 5 7 1).total ∧ (cmd 5 7 1).a1.toNat % 64 = 0 ∧ s.cmdXlate 0 (cmd 5 7 1) true 0 = .ok 0 ∧ region 0 ≠ 3 ∧ region 0 ≠ 2 ∧ s.before 0 1 (cmd 5 7 1) = [] ∧
      s.requests 0 < 768 ∧ s.ev.flag = false ∧ s.late = []) ∧
    (let m := { cmd 5 0 1 with dst := some 1, slot := 6 }
     let s := one (fun c => { c with ccq := [m], tiles := [(5, tile .filling 1)] }) id (inWorld id)
     unlogged s ∧ ((s.ctx 0 0).cmds 4).find? (fun k => decide (k.state = 1)) = some m ∧ m.dead = false ∧ s.cmdReplays 0 m = false ∧
      (s.ctx 0 0).cmd 4 m.num = some m ∧ m.next + 1 < m.total ∧ m.dst = some 1 ∧ s.placeOf 0 m.launch m.unit 1 = some (.unit 0 0 5) ∧
      s.inReten (.unit 0 0 5) (· != .active) = false) ∧
    (let m := cmd 5 7 3
     let s := commanded 1 m
     (s.ctx 0 0).cmd 1 5 = some m ∧ s.before 0 1 m = [] ∧ m.slot = 7 ∧ m.state = 3 ∧ m.fence = false ∧ m.dead = false) ∧
    (let s := commanded 1 (cmd 5 7 1) id id fun s => { s with invs := [⟨[4], none, [], []⟩] }
     s.invs = [⟨[4], none, [], []⟩] ∧ ∀ n ∈ [4], n ∉ s.allCmds) := by
  refine ⟨by decide, by decide, by decide, by decide, by decide, by decide, ⟨unlogged_of (by decide) rfl rfl, by decide⟩, by decide, by decide⟩

/-- An operation for a front engine. -/
def fop (k : FKind) (cfg n : W64) : FOp := ⟨k, 0, 0, 1, 0, Org.zero, 6, 7, cfg, 0, n, 0⟩

/-- A tuple of one objective, the n-th subnormal FP32 number. -/
def point (n : Nat) : Tuple := ⟨BitVec.ofNat 128 n, 0⟩

/-- A front of one objective that holds tuples. -/
def fronted (l : List Tuple) : Front := { Front.empty with tuples := l }

/-- A routine of one `jmore`, as an mload command has read it. -/
def loaded : TileBytes := (0x2000000000000000 <<< 64 + 1 <<< 8 + 64 : Nat)

theorem test_witness_StoreEventsAndEngineOperations :
    unlogged (one id) ∧
    (let s := one fun c => { c with tiles := [(5, tile .parking 1), (6, { tile .unparking 1 with uid := 2 })] }
     s.locOf 0 1 = some (.unit 0 0 5) ∧ (s.tile (.unit 0 0 5)).st = .parking ∧ s.locOf 0 2 = some (.unit 0 0 6) ∧ (s.tile (.unit 0 0 6)).st = .unparking ∧
      s.inReten (.unit 0 0 5) (· != .active) = false ∧ s.inReten (.unit 0 0 6) (· != .active) = false ∧ (s.tile (.unit 0 0 5)).st.holds = true) ∧
    (let k := (one id fun k => { k with cyc := 16384, retenAt := Vector.replicate 4 14336 }).core 0
     (∀ q, q < 4 → (k.bankAt.toList[q]?).getD 0 + 16384 ≤ k.cyc) ∧ ∀ q, q < 4 → (k.retenAt.toList[q]?).getD 0 + 2048 ≤ k.cyc) ∧
    (let k := (one id fun k => { k with mq := [mop .aclr] }).core 0
     k.mq = [mop .aclr] ∧ k.call = none ∧ k.mrun = none ∧ (mop .aclr).after ≤ k.cyc ∧ ∀ y : CtxId, k.ctx[y].saved = []) ∧
    (let m := { mop .call with mp := (mop .call).mp.set 3 0x80000000, ft := 0x10111082 }
     let s := one id fun k => { k with mq := [m], rts := [⟨1, 64, [0x2000000000000000#64]⟩] }
     let par := m.par (s.opTable 0 m.x m.ta) (s.opTable 0 m.x m.tb)
     (s.core 0).olderNaming 0 m.x m.seq ((m.ta.toList ++ m.tb.toList).map BitVec.toNat) = false ∧ s.stoppedCall 0 m = none ∧
      s.callOk 0 m par ((s.core 0).routine m.launch m.idx) = true ∧ s.meetTile (s.opLoc 0 m m.ta par.la) = .go ∧ s.meetTile (s.opLoc 0 m m.tb par.lb) = .go) ∧
    (let a := { call with causes := cINV }
     let s := one id fun k => { k with tails := [a] }
     (s.core 0).tails = [a] ∧ a.causes ≠ 0 ∧ s.unitCtx 0 a.op.launch a.op.unit = some 0 ∧ a.doneAt ≤ (s.core 0).cyc ∧ a.epi = none ∧ (s.core 0).cyc < ({ a with doneAt := 1 } : Call).doneAt ∧
      (s.ctx 0 0).rep.replaying = false) ∧
    (let k := (one id fun k => { k with mrun := some (mop .acmv) }).core 0
     k.mrun = some (mop .acmv) ∧ (mop .acmv).after ≤ k.cyc ∧ k.tails = [] ∧ vget (n := 3) k.cls (mop .acmv).d ≠ 1 ∧ vget (n := 3) k.cls (mop .acmv).src ≠ 1 ∧ (mop .acmv).mode = 0 ∧
      k.bankLanding (mop .acmv).d = false ∧ k.bankLanding (mop .acmv).src = false) ∧
    (let e := { cmd 5 0x04 3 with slot := 4, buf := loaded }
     let s := one (fun c => { c with eq := c.eq.set 0 [e] }) fun k => { k with mrun := some (mop .mload) }
     let k := s.core 0
     let head : W64 := fld e.buf 0 64
     let words := (List.range (fld head 8 11 : BitVec 11).toNat).map fun i => (fld e.buf (64 * (i + 1)) 64 : W64)
     k.fetchOf (mop .mload) = some (0, e) ∧ e.dead = false ∧ s.before 0 0 e = [] ∧ (s.unitCtx 0 1 0).isSome = true ∧
      e.state = 3 ∧ e.causes = 0 ∧ fld head 19 45 = 0#45 ∧ words = [0x2000000000000000#64] ∧ words.length ≤ 1792 ∧ routineOk words = true ∧ 64 ≤ (fld head 0 8 : BitVec 8).toNat ∧
      words.length ≤ k.rtFree ∧ k.rts.length < 192) ∧
    (let k := (one id fun k => { k with fq := (k.fq.set 0 [fop .finit 0 0]).set 1 [fop .fins 0 16] }).core 0
     k.fq[0] = [fop .finit 0 0] ∧ k.frun[0] = none ∧ k.frontReady (fop .finit 0 0) = true ∧ finitOk 0 = true ∧ finitOk 0x4000 = false ∧ k.fq[1] = [fop .fins 0 16] ∧
      (fop .finit 0 0).after ≤ k.cyc ∧ k.bankLanding 6 = false ∧ k.bankLanding 7 = false ∧
      1 ≤ (fop .fins 0 16).n.toNat ∧ (fop .fins 0 16).n.toNat ≤ 16) ∧
    (let k := (one id fun k => { k with fq := k.fq.set 0 [fop .fmrg 0 0], front := k.front.set 1 (fronted [point 1]) }).core 0
     k.frontReady (fop .fmrg 0 0) = true ∧ frontOf (fop .fmrg 0 0).src = some 1 ∧ k.front[1].tuples ≠ [] ∧ k.front[1].dm1 = k.front[0].dm1 ∧
      ∀ n, n ≤ k.front[0].dm1.toNat → k.front[1].dir.getLsbD n = k.front[0].dir.getLsbD n) ∧
    (let run : FRun := ⟨fop .fins 0 1, [point 1], 0, false, 0⟩
     let k := (one id fun k => { k with frun := (k.frun.set 0 (some run)).set 1 (some { run with todo := [], causes := cNANDROP }) }).core 0
     k.frun[0] = some run ∧ run.dead = false ∧ (k.front[0].insert (point 1)).2.1 = none ∧ run.ready ≤ k.cyc ∧
      k.frun[1] = some { run with todo := [], causes := cNANDROP } ∧ cNANDROP ≠ 0) ∧
    (let f := fronted [point 2, ⟨0x7F800000, 3⟩]
     let x (h : Tuple) : FVal := fp32.decode (fld h.obj 0 32 : W32).toNat
     f.dm1 = 0 ∧ notNumber (x ⟨0x7FC00000, 0⟩) = true ∧ (∀ h ∈ f.tuples, notNumber (x h) = false) ∧ notNumber (x (point 0)) = false ∧
      valLess (x (point 3)) (x (point 2)) = false ∧ valLess (x (point 1)) (x (point 2)) = true ∧ valLess (x ⟨0xFF800000, 0⟩) (x (point 0)) = true) := by
  refine ⟨unlogged_of (by decide) rfl rfl, by decide, by decide, by decide, by decide, by decide, by decide, by decide, by decide, by decide, by decide, by decide⟩

/-- A full front of two objectives, both to be small: 256 tuples none of which is better in both. -/
def crowded (pol : BitVec 2) : Front :=
  { Front.empty with dm1 := 1, pol := pol, tuples := (List.range 256).map fun n => ⟨BitVec.ofNat 128 ((400 - n) * 2 ^ 32 + n + 1), BitVec.ofNat 32 n⟩ }

/-- The tuple worst in the chosen objective leaves a full front for a better arrival, or the arrival is dropped, as the policy says (R252-R254). -/
theorem test_a_full_front_overflows_by_its_policy :
    let t : Tuple := ⟨500 * 2 ^ 32, 999⟩
    let z := ((crowded 1).insert t).1.tuples
    (z.length = 256 ∧ z.getLast? = some t ∧ z.all (fun h => h.tag != 255) = true) ∧ ((crowded 0).insert t).1.tuples = (crowded 0).tuples := by decide +kernel

/-- Queue 3 of function 1, mapped to slot 2. -/
def serving (q : Queue) (h : State → State := id) (g : Vf → Vf := id) : State := mappedWorld q (fun s => h { s with slots := [(2, ⟨1, 3, false, none⟩)] }) g

theorem test_witness_AdmissionQueuesAndSlots :
    (let s := mappedWorld Queue.reset fun s => { s with adm := [arrival], clk := 1 }
     s.nextArrival 1 = some arrival ∧ arrival.cycle < s.clk ∧ s.boot.ready = true ∧ s.admissionCode arrival (packetLaunch packet 1 0 (s.vf 1).cfg.timeOff) = 0) ∧
    (let a : Arrival := { arrival with packet := 0 }
     let s := mappedWorld Queue.reset fun s => { s with adm := [a], clk := 1 }
     s.nextArrival 1 = some a ∧ a.cycle < s.clk ∧ s.admissionCode a (packetLaunch a.packet a.vf a.slot (s.vf a.vf).cfg.timeOff) ≠ 0 ∧ a.fromQueue = some (3, 0)) ∧
    (let a : Arrival := { arrival with packet := 0, fromQueue := none, fromCtx := some (1, 0, 5) }
     let b : Arrival := { arrival with packet := 0, fromQueue := none, fromDev := some (7, 2) }
     let s := mappedWorld Queue.reset (fun s => { s with adm := [b], clk := 1 }) id fun c => { c with ans := [⟨31, 5, 0, none, Org.zero, false⟩] }
     s.nextArrival 1 = some b ∧ b.cycle < s.clk ∧ b.fromDev = some (7, 2) ∧ s.admissionCode b (packetLaunch 0 1 0 (s.vf 1).cfg.timeOff) ≠ 0 ∧ a.fromCtx = some (1, 0, 5) ∧
      (s.ctx 0 0).st ≠ .free ∧ (s.ctx 0 0).launch = 1 ∧ (s.ctx 0 0).unit = 0 ∧ (s.ctx 0 0).ans.map (fun r => (r.tok, r.disp)) = [(5, false)]) ∧
    (let l := { launch1 with waits := [8], source := some (3, 0) }
     let s := mappedWorld { Queue.reset with headId := 1 } fun s => { s with launches := [l] }
     s.launch? l.id = some l ∧ (s.launches.filter fun l => decide (l.vf = 1) && decide (l.stage = .admitted) && l.waits.any fun i =>
        decide (((s.vf 1).cfg.sigBase.toNat + 8 * i.toNat) / 64 = ((s.vf 1).cfg.sigBase.toNat + 8 * 15) / 64)) = [l] ∧ s.sigSet 1 8 = true ∧
      (s.queue 1 3).headId = l.id) ∧
    (mappedWorld Queue.reset).sigSet 1 10 = false ∧
    (let l := { launch1 with placed := 4, doneUnits := 4, late := true, done := 9 }
     let s := mappedWorld Queue.reset fun s => { s with launches := [l] }
     s.launch? 1 = some l ∧ l.stage = .admitted ∧ l.allDone = true ∧ l.source = none ∧ l.done ≠ 0 ∧ s.objs = [] ∧ (∀ p ∈ s.wstores, p.1 ≠ 1) ∧ s.late = [] ∧ region 72 ≠ 2 ∧
      s.xlateDirect 1 (s.sigAddr 1 9) 8 = some 72 ∧ (s.walk 1 (s.sigAddr 1 9)).any (fun t => t.w) = true ∧ region 72 ≠ 3) ∧
    (let l := { launch1 with stage := .cancelled, placed := 1, doneUnits := 1 }
     l.stage = .cancelled ∧ l.placed ≤ l.doneUnits) ∧
    (let q := { Queue.reset with en := true, log2n := 16, tail := 0x10000, job := 5, phase := 7 }
     let s := serving q
     s.slots.find? (fun p => decide (p.1 = 2)) = some (2, ⟨1, 3, false, none⟩) ∧ (∀ p ∈ s.slots, p.1 = 2 → p.2 = ⟨1, 3, false, none⟩) ∧ s.queue 1 3 = q ∧
      (∀ p ∈ s.slots, p.2.stopping = false) ∧ 3 < 64 ∧ q.closing = false ∧ q.qerr = false ∧ q.fetched = false ∧ q.head ≠ q.tail ∧ s.vaPoisoned 1 (q.qbase.toNat + 64 * (q.head.toNat % 2 ^ q.log2n.toNat)) = false ∧
      s.scheduling = true ∧ q.testing = false ∧ { q with fetched := true }.testing = true) ∧
    (let s := serving { Queue.reset with en := true } id fun v => { v with queues := v.queues ++ [(63, { Queue.reset with en := true })] }
     s.mapped 1 63 = false ∧ (s.queue 1 63).en = true ∧ s.scheduling = true ∧ (∀ p ∈ s.slots, p.1 ≠ 1023) ∧ 1023 < 1024) ∧
    (let l := { launch1 with waits := [10] }
     let s := serving { Queue.reset with en := true, headId := 1 } (fun s => { s with launches := [l] }) fun v => { v with setters := [(10, 1)] }
     let t := s.slots.foldl (fun t p => t.traceFw p.2.vf 4 p.1 p.2.q) s
     s.slots ≠ [] ∧ (∀ p ∈ s.slots, s.headWaits p.2 = true) ∧ s.scheduling = true ∧ t.runnables = [] ∧ t.launches.filter t.inCycle = [l] ∧
      (t.aboveAt l 4).isSome = true) ∧
    (let l := { launch1 with waits := [8] }
     let s := serving { Queue.reset with en := true, headId := 1 } fun s => { s with launches := [l] }
     let t := s.slots.foldl (fun t p => t.traceFw p.2.vf 4 p.1 p.2.q) s
     t.runnables = [] ∧ t.launches.filter t.inCycle = []) ∧
    (let l := { launch1 with waits := [8] }
     let s := serving { Queue.reset with en := true, headId := 1 } (fun s => { s with launches := [l] })
       fun v => { v with queues := v.queues ++ [(63, { Queue.reset with en := true, tail := 1 })] }
     let t := s.slots.foldl (fun t p => t.traceFw p.2.vf 4 p.1 p.2.q) s
     (∀ p ∈ s.slots, s.headWaits p.2 = true) ∧ s.slots = [(2, ⟨1, 3, false, none⟩)] ∧ t.runnables = [(1, 63)]) ∧
    (let k := { Queue.reset with log2n := 4, tail := 0xFFFFFFFF, head := 0xFFFFFFFE }
     ((14 : W32) - k.head).toNat ≤ 2 ^ k.log2n.toNat ∧ (k.tail - k.head).toNat ≤ ((14 : W32) - k.head).toNat ∧ 2 ^ k.log2n.toNat < ((15 : W32) - k.head).toNat) ∧
    (let k := { Queue.reset with log2n := 16, qbase := 64, cqbase := 32 }
     k.en = false ∧ 1 ≤ k.log2n.toNat ∧ k.log2n.toNat ≤ 16 ∧ k.qbase.toNat % 64 = 0 ∧ k.cqbase.toNat % 32 = 0) ∧
    ((6 : W32) ≠ Queue.reset.phase ∧ (6 : W32) ≠ 0 ∧ mappedWorld.instLive 1 3 6 63 = false ∧ (6 : W32) ≠ Queue.reset.job ∧
      mappedWorld.instLive 1 4 6 63 = false ∧ mappedWorld.inst? 1 3 7 = some ⟨3, 7, 13, 1, false, false, 1, 12, false⟩ ∧
      mappedWorld.instDone ⟨3, 7, 13, 1, false, false, 1, 12, false⟩ = false ∧ mappedWorld.inst? 1 4 5 = some ⟨4, 5, 0, 1, false, false, 1, 13, false⟩ ∧
      mappedWorld.instDone ⟨4, 5, 0, 1, false, false, 1, 13, false⟩ = false) ∧
    (mappedWorld.fwRuns 2 = true ∧ ((mappedWorld.ctx 0 0).st.live = true) ∧ 4095 < 4096 ∧ 15 < 16 ∧ (500 : W64).toNat ≤ 500) := by
  refine ⟨by decide +kernel, by decide +kernel, by decide +kernel, by decide, by decide, by decide, by decide, by decide, by decide, by decide +kernel,
    by decide +kernel, by decide +kernel, by decide, by decide, by decide, by decide⟩

/-- Device 9, function 2 holds every right towards function 1. -/
def tenanted (h : State → State := id) (g : Vf → Vf := id) (f : Ctx → Ctx := id) (k : Core → Core := id) : State :=
  one f k fun s => h { s with tenants := [(0, 0x9020100000000F#64)], vfs := [(1, g { Vf.reset with live := true, cfg := { VfConfig.none with cores := [0] } })] }

/-- A posted receive of any sender, of 64 bytes at 0. -/
def receiving : Cmd := cmd 5 0x15 1 (64 <<< 128 + 16 : Nat) 1

/-- A group instance with one line outstanding. -/
def group : Group := ⟨2, [], [], [], [], []⟩

theorem test_witness_HostFabricAndFirmwareActions :
    (64 ≤ 64 ∧ (one id id fun s => { s with hostSize := 64 }).present (2 * 2 ^ 48 + (0 : W64).toNat) 64 = true ∧ (one id).boot.linkErr = false) ∧
    (let s := one id id fun s => { s with hdmSize := 128 }
     (64 : W64).toNat + 64 ≤ s.hdmSize.toNat ∧ s.boot.linkErr = false) ∧
    (let p : Pend := ⟨5, .s 7, 7, some 9, 0, none, false, Org.zero, true⟩
     let s := one (fun c => { c with pend := [p] }) id fun s => { s with boot := { s.boot with ideMem := true, fwUp := Vector.replicate 4 true } }
     s.boot.ideMem = true ∧ s.hostLoads = [(0, 0, p)] ∧ (s.ctx 0 0).st.live = true ∧ s.fwRuns 3 = true ∧ (one id).hostLoads = []) ∧
    (let s := tenanted
     let t : W64 := 0x9020100000000F
     s.tenant 8 2 1 = none ∧ s.tenant 9 2 1 = some t ∧ t.getLsbD 3 = true ∧ (fld (descWord (0 : BitVec 512) 5) 0 16 &&& ~~~(fld t 20 16 : BitVec 16)) = 0 ∧
      (fld (descWord packet 5) 0 16 &&& ~~~(fld t 20 16 : BitVec 16)) ≠ 0 ∧ fld t 4 16 = 0#16 ∧ s.permits 8 2 1 2 = false ∧ s.permits 9 2 1 2 = true ∧
      s.permits 9 2 1 1 = true) ∧
    (let t : W64 := 0x90201000000017
     let s := tenanted fun s => { s with tenants := [(0, t)] }
     let p : BitVec 512 := (65 <<< 128 : Nat)
     s.tenant 9 2 1 = some t ∧ t.getLsbD 3 = false ∧ (descWord p 0).getLsbD 8 = false ∧ fld t 4 16 ≠ (0#16 : BitVec 16) ∧
      64 * (fld t 4 16 : BitVec 16).toNat < (fld (descWord p 2) 0 32 : W32).toNat) ∧
    (let s := tenanted (fun s => { s with launches := [launch1] }) (fun v => { v with posted := [(0, 0, 5)] }) (fun c => { c with eq := c.eq.set 3 [receiving] })
       (fun k => { k with tlb := [page 0] })
     (∀ p ∈ s.cores, ∀ y : CtxId, ∀ k ∈ (s.ctx p.1 y).cmds 3, k.op = 0x15#6 → k.aux ≠ matchedWith 9 2 0 (max (64 : W64).toNat 64)) ∧ s.receiver 9 2 1 = 1 ∧
      s.posted 1 = [(0, 0, receiving.num)] ∧ receiving.dead = false ∧ s.before 0 3 receiving = [] ∧ s.requests 0 < 768 ∧ (s.ctx 0 0).cmd 3 5 = some receiving ∧ receiving.admits 9 2 0 = true ∧ receiving.len = 2 ∧
      receiving.state = 1 ∧ (descWord receiving.desc 2).toNat = 64 ∧ (descWord receiving.desc 1).toNat % 64 = 0 ∧
      s.cmdXlate 0 receiving true (descWord receiving.desc 1) = .ok 0 ∧ region 0 ≠ 3 ∧ region 0 ≠ 2) ∧
    (let m := { cmd 5 0x13 1 with desc := (7 <<< 32 + 5 <<< 20 : Nat) }
     let s := tenanted (fun s => { s with groups := [(5, group)] }) id fun c => { c with eq := c.eq.set 3 [m] }
     (s.group? 5).isSome = true ∧ s.group? 5 = some group ∧ (∀ k ∈ group.inbox, k.vf ≠ none) ∧ (s.group? 6).isSome = false ∧ m ∈ (s.ctx 0 0).cmds 3 ∧ m.op = 0x13#6 ∧ 1 ≤ m.len ∧
      m.coll = (5, 7) ∧ m.next < m.total) ∧
    (let m := { cmd 5 0x14 1 1 with total := 1 }
     let s := one fun c => { c with eq := c.eq.set 3 [m] }
     (s.ctx 0 0).cmd 3 5 = some m ∧ m.op = 0x14#6 ∧ fld (descWord m.desc 0) 0 4 = 1#4 ∧ m.len = 2 ∧ m.next < m.total ∧ m.ctl ≠ 0xFF ∧
      ({ m with ctl := 0xFF }).ctl = 0xFF) ∧
    (let s := mappedWorld Queue.reset (fun s => { s with launches := [], vfs := s.vfs ++ [(2, { Vf.reset with live := true })] })
     s.scheduling = true ∧ (s.vf 2).live = true ∧ s.moving = [] ∧ s.vfs.find? (fun p => p.2.cfg.cores.contains 0) = some (1, s.vf 1) ∧ 1 ≠ 2 ∧
      s.functionOn 0 1 = true ∧ s.demandTest 1 ((s.vf 1).cfg.cores.length - 1) none = true ∧ s.fwRuns 2 = true) ∧
    (mappedWorld Queue.reset (fun s => { s with launches := [] }) id fun c => { c with st := .free }).functionOn 0 1 = false ∧
    (mappedWorld.vf 1).plugin = false ∧ ((mappedWorld Queue.reset id fun v => { v with plugin := true }).vf 1).plugin = true ∧
    ((mappedWorld.boot.fwUp[if (2 : Fin 4) = 2 then (3 : Fin 4) else 2]) = true) ∧ State.reset.boot.fwUp[(0 : Fin 4)] = false := by
  refine ⟨by decide, by decide, by decide, by decide, by decide, by decide, by decide, by decide, by decide, by decide, by decide, by decide, by decide, by decide⟩

/-- A promoting object of one slot, pinned by launch 1. -/
def object (st : ObjState) : WObj := ⟨1, 4, 0, 32768, false, none, st, [(1, 0)], [0], [], false, false, [], 0, 0, 0, [], false⟩

def objected (l : List WObj) (h : State → State := id) : State := one id id fun s => h (withEv (fun e => { e with vf := 1, l := 4 }) { s with objs := l })

/-- A SELECT of one row of one logit, read from 0 and written at 128. -/
def selecting : Cmd := cmd 5 0x12 1 (128 <<< 192 + 1 <<< 42 : Nat) 1

theorem test_witness_TierEventsMoveObjectsAndRows :
    (let o := object .promoting
     let s := objected [o]
     s.objs.Pairwise (fun a b => (a.vf, a.id) ≠ (b.vf, b.id)) ∧ s.obj? 1 4 = some o ∧ o.st = .promoting ∧ o.slots ≠ [] ∧
      (∀ p ∈ s.objs, p.st = .promoting → p.slots ≠ []) ∧ region (s.objAddr o) ≠ 3 ∧ region (s.objAddr o) ≠ 2 ∧ o.fromBack = false ∧ s.objReads o = true ∧ o.back = none ∧ o.pins ≠ []) ∧
    ({ object .promoting with back := some 0 }).back.isSome = true ∧
    (let o := { object .promoting with slots := [] }
     (objected [o]).obj? 1 4 = some o ∧ o.slots = [] ∧ (objected [o]).takeSlots o = none ∧ (objected [o]).now.toNat < o.asked.toNat + 100000 ∧
      let s := objected [o] fun s => { s with timeBase := 100000 }
      o.asked.toNat + 100000 ≤ s.now.toNat) ∧
    (object .reclaiming).st = .reclaiming ∧ (0 : W64).toNat % 32768 = 0 ∧ (1 : W64) ≠ 0 ∧ (one id).obj? 1 4 = none ∧ (1 : W64).toNat % 32768 ≠ 0 ∧
    (∃ o, (objected [object .resident]).obj? 1 4 = some o ∧ o.st ≠ .fen) ∧ 47 < 48 ∧ 47 ∉ (one id).fenDown ∧
    (let s := commanded 2 selecting id (fun k => { k with tlb := [page 0] })
     let m := selecting
     (s.ctx 0 0).cmd 2 5 = some m ∧ m.op = 0x12#6 ∧ m.len = 2 ∧ m.state = 1 ∧ m.next < m.total ∧ fld (descWord m.desc 0) 0 4 = 0#4 ∧ m.dead = false ∧
      0 ∉ m.aux ∧ 0 < m.total ∧ s.objs = [] ∧ s.before 0 2 m = [] ∧ s.requests 0 < 768 ∧ region 0 ≠ 3 ∧ region 128 ≠ 3 ∧ region 128 ≠ 2 ∧ (descWord m.desc 1).toNat % 32768 + 4 ≤ 32768 ∧ (descWord m.desc 3).toNat % 32768 + 128 ≤ 32768 ∧ s.cmdXlate 0 m false (descWord m.desc 1) = .ok 0 ∧ s.cmdXlate 0 m true (descWord m.desc 3) = .ok 128 ∧
      stackOf [(0, 4)] = some 0 ∧ stackOf [(2 ^ 48, 4)] = none ∧ s.badPieces [(0, 4)] = false) ∧
    (let m := cmd 5 0x12 1 2 8
     fld (descWord m.desc 0) 0 4 = 2#4 ∧ 7 < 8 ∧ 7 ∉ m.aux ∧ (fld (descWord m.desc 0) 56 6 : BitVec 6).toNat < 64 ∧ ((commanded 2 m).ctx 0 0).biasAhead m 0 = false) ∧
    mappedWorld.fwRuns 3 = true ∧ 16 ≤ 16 ∧ (List.replicate 8192 (2 ^ 32 - 1)).length ≤ 8192 ∧ 2 ^ 32 - 1 < 2 ^ 32 := by
  refine ⟨by decide, by decide, by decide, by decide, by decide, by decide, by decide, by decide, ⟨_, rfl, by decide⟩, by decide, by decide, by decide, by decide, by decide, by decide, by rw [List.length_replicate], by decide⟩

/-- A checkpoint of the unit at address 64. -/
def snap : Snap := ⟨1, 64, [], 0, frame, []⟩

theorem test_witness_DebuggerRowsActOnTheirContext :
    15 < 16 ∧ (0 : W64).getLsbD 2 = false ∧
    (let cx := (one id).ctx 0 0
     cx.dbg.stopped = false ∧ cx.st.live = true ∧ cx.pendEv = Pending.none ∧ (one id).breakAt 0 0 = none) ∧
    (let cx := (one fun c => { c with st := .frozen, dbg := { c.dbg with stopped := true } }).ctx 0 0
     cx.dbg.stopped = true ∧ cx.dbg.fatal = false ∧ cx.pendEv = Pending.none ∧ cx.rep.replaying = false ∧ cx.pc.toNat % 4 = 0 ∧ (cx.segOf cx.pc).isSome = true) ∧
    TraceRegs.reset.sper = 0 ∧
    (let s := mappedWorld Queue.reset id fun v => { v with tr := { v.tr with sper := 1, slog2 := 40 } }
     (s.vf 1).tr.sper ≠ 0 ∧ 12 ≤ (s.vf 1).tr.slog2.toNat ∧ (s.vf 1).tr.slog2.toNat ≤ 40 ∧ (s.units.filter fun p => decide ((s.ctx p.1 p.2).vf = 1)) = [(0, 0)]) ∧
    (let l := { launch1 with bg := true }
     let s := one id id fun s => { inWorld (fun _ => l) 0 s with snaps := [snap] }
     ((s.snapAt 1 64).any fun p => s.roomOn 0 1 p.frame.ctx.quota.toNat p.frame.mask []) = true ∧ l.vf = 1 ∧ s.launch? 1 = some l ∧
      allCtx.find? (fun z => decide ((s.ctx 0 z).st = .free)) = some 1 ∧ l.bg = true ∧ l.pending = true ∧ s.dbgBit l.vf l.id 2 = false) := by
  refine ⟨by decide, by decide, by decide, by decide, by decide, by decide, ?_⟩
  decide +kernel

theorem test_witness_BootSecurityAndFunctions :
    (let b : BootIn := ⟨true, true, true, 1, true, true, [0, 1], 0, 0, 0, 0, []⟩
     b.fuseOk = true ∧ b.keyOk = true ∧ b.sigOk = true ∧ b.beatOk = true ∧ b.hbmOk = true ∧ b.fenDown.length ≤ 2 ∧
      State.reset.boot.rollback.toNat ≤ b.version.toNat ∧ b.version.toNat < ({ Boot.reset with rollback := 2 }).rollback.toNat ∧
      2 < ({ b with fenDown := [0, 1, 2] }).fenDown.length) ∧
    Args.zero.boot.fuseOk = false ∧
    (let s := mappedWorld Queue.reset fun s => { s with boot := { s.boot with version := 1, attestQ := [(1, 0)] } }
     s.boot.ready = true ∧ s.boot.rollback.toNat < s.boot.version.toNat ∧ s.boot.attestQ = [(1, 0)] ∧ s.fwRuns 1 = true ∧ s.fwRuns 3 = true ∧ (s.vf 128).live = false ∧ 128 ≤ 128 ∧ (s.vf 1).live = true ∧
      s.launches.filter (fun l => decide (l.vf = 1) && decide (l.stage = .admitted)) ≠ [] ∧ (s.units.any fun p => decide ((s.ctx p.1 p.2).vf = 1)) = true) ∧
    State.reset.boot.version.toNat ≤ State.reset.boot.rollback.toNat ∧ 114 < 115 ∧ (∃ o ∈ (objected [object .resident]).objs, o.slots ≠ []) ∧
    (let s := mappedWorld Queue.reset (fun s => { s with launches := [], fenRanges := [(1, 0, 64, false)] }) id fun c => { c with st := .free }
     (s.vf 1).live = true ∧ s.launches.filter (fun l => decide (l.vf = 1) && decide (l.stage = .admitted)) = [] ∧
      (s.units.any fun p => decide ((s.ctx p.1 p.2).vf = 1)) = false ∧ (1, 0, 64, false) ∈ s.fenRanges) := by
  decide

theorem test_witness_MemoryStaysCanonical : memOk (one id) ∧ step State.reset = .next State.reset := by
  exact ⟨by unfold memOk; decide, rfl⟩

/-! One step at a time, with values from the rules. -/

/-- What a meaning leads to satisfies a check. -/
def leads (o : Host.Outcome State Fault Refusal) (p : State → Bool) : Bool :=
  match o with
  | .next t => p t
  | _ => false

/-- The word that a meaning puts in flight for a scalar register is a value, with causes. -/
def gives (o : Host.Outcome State Fault Refusal) (r : BitVec 5) (v : W64) (z : BitVec 12 := 0) : Bool :=
  leads o fun t => (t.me.lands.map fun l => (l.dest, l.causes)) == [(.s r v, z)]

/-- R103: 64-bit sums wrap; the high half of (-1)(-1) is 0; a division by 0 gives all ones with DZ, the one overflow the dividend with INV. -/
theorem test_step_scalar_corners :
    gives (exec (.add 7#3 0#2 5#5 3#5 4#5) (regs (-1) 1)) 5 0 = true ∧ gives (exec (.mulh 7#3 0#2 5#5 3#5 4#5) (regs (-1) (-1))) 5 0 = true ∧
    gives (exec (.div 7#3 0#2 5#5 3#5 4#5) (regs 9 0)) 5 (-1) cDZ = true ∧ gives (exec (.remu 7#3 0#2 5#5 3#5 4#5) (regs 9 0)) 5 9 cDZ = true ∧
    gives (exec (.div 7#3 0#2 5#5 3#5 4#5) (regs 0x8000000000000000 (-1))) 5 0x8000000000000000 cINV = true ∧
    gives (exec (.rem 7#3 0#2 5#5 3#5 4#5) (regs (-7) 2)) 5 (-1) = true := by decide

/-- R104, R105: counts of 0, and `lih` after `li`. -/
theorem test_step_scalar_counts_and_constants :
    gives (exec (.clz 7#3 0#2 5#5 3#5) (regs 0 0)) 5 64 = true ∧ gives (exec (.ctz 7#3 0#2 5#5 3#5) (regs 8 0)) 5 3 = true ∧
    gives (exec (.li 7#3 0#2 5#5 0xFFFE#16) (regs 0 0)) 5 (-2) = true ∧ gives (exec (.lih 7#3 0#2 3#5 0x8000#16) (regs 1 0)) 3 0x18000 = true := by decide

/-- R86: `br` at 0x140 with off21 = -16 goes to 0x100. -/
theorem test_step_br :
    leads (exec (.br 0#3 0#2 0x1FFFF0#21) (one id id fun s => { s with cur := { s.cur with org := ⟨0x140, 0, false⟩ } })) (fun t => t.me.nextPc == some 0x100) = true := by
  decide

/-- R175, R177: `tld.c` reads the tile, and its last read ends it. -/
theorem test_step_tld :
    leads (exec (.tld 7#3 0#2 5#9 0#2 12#5 0#5) (tiled (tile .present 1) Tile.absent)) (fun t => (t.tile (.unit 0 0 5)).st == .absent) = true ∧
    leads (exec (.tld 7#3 0#2 5#9 1#2 12#5 0#5) (tiled (tile .present 1) Tile.absent)) (fun t => (t.tile (.unit 0 0 5)).st == .present) = true := by decide

/-- R266: the last arrival flips the phase, and EXP starts again at the target. -/
theorem test_step_barv :
    leads (exec (.barv 7#3 0#2 2047#11) (barred (barrier 1 false))) (fun t => (t.nb 0 2047) == { barrier 2 true with flips := 1 }) = true := by decide

/-- R172: `hbind h2, t16, 4`. -/
theorem test_step_hbind :
    leads (exec (.hbind 7#3 0#2 16#8 2#4 3#4) (tiled Tile.absent Tile.absent)) (fun t => vget (n := 4) t.me.h 2#4 == some ⟨16, 4, 0, 0⟩) = true := by decide

/-- R202, R208: a store at hand, and an exchange in memory. -/
theorem test_step_memory :
    leads (exec (.gss 7#3 0#2 2#5 1#6 3#3) (mapped [page 0] (copies 64 7))) (fun t => (t.me.stores.map fun st => (st.pa, st.n, st.data)) == [(64, 8, 7)]) = true ∧
    leads (exec (.gatom 7#3 0#2 5#5 1#6 2#5 2#2 0#3) (mapped [page 0] (copies 64 0x0102))) (fun t => t.mem == [(64, 2), (65, 1)]) = true := by decide

/-- R126, R232: a step of the engine adds the dot product of 64 elements. -/
theorem test_step_dot_product :
    leads (exec .rwStep (calling { call with aSl := some (List.replicate 64 (-3)), bSl := some (List.replicate 64 2) }))
      (fun t => (t.here.call.map fun a => a.inner) == some [-384]) = true := by decide

/-- R111, R112: 1 + 1 = 2, and 65504 + 16 overflows to infinity to nearest in fp16. -/
theorem test_step_float :
    fAdd fp32 0 0x3F800000 0x3F800000 = (0x40000000, 0) ∧ (fAdd fp16 0 0x7BFF 0x4C00).1 = 0x7C00 ∧ fMul fp16 0 0x3C00 0x8000 = (0x8000, 0) := by decide

/-- R337, R346: a trap saves its cause, and goes to TRAPVEC. -/
theorem test_step_trap :
    (((one fun c => { c with trapvec := 4092 }).enterTrap 0 0 0 5 1 ⟨8, 3, false⟩).ctx 0 0).trapcause = 0x501 ∧
    (((one fun c => { c with trapvec := 4092 }).enterTrap 0 0 0 5 1 ⟨8, 3, false⟩).ctx 0 0).pc = 4092 := by decide

/-- R37, R41: the placed word issues at the next step, and its result lands for the cycle after it. -/
theorem test_step_placed_word :
    decodeTableWord 32 0x87A90010 = some (.li 7#3 1#2 9#5 16#16) ∧
    leads (step (State.reset.withFetchWord 32 0x87A90010)) (fun t => t.me.sreg 9 == 16) = true := by decide +kernel

/-- R296: fen offset 0x10000 lies on channel 38, at channel offset 1,280. -/
theorem test_fen_place : fenPlace 0x10000 = (38, 1280) := by decide

end Sys2Proof.Tests
end

section
/-! SUPPORT. Vectors changed by place, units without a log, a context that leaves its core, and the end of a fault list. -/

namespace Sys2Proof.Machine

open Sys2Proof.Safety

/-! ### Vectors changed by place -/

theorem vmapI_getElem {α : Type} {n : Nat} (f : Nat → α → α) (v : Vector α n) (i : Nat) (h : i < n) : (vmapI f v)[i] = f i v[i] := by
  simp [vmapI]

/-- Replacing one entry by its number is writing it. -/
theorem vmapI_ite_eq_set {α : Type} {n : Nat} (v : Vector α n) (i : Nat) (h : i < n) (a : α) :
    vmapI (fun m l => if m = i then a else l) v = v.set i a := by
  ext j hj
  rw [vmapI_getElem, Vector.getElem_set]
  simp [eq_comm]

/-! ### Frames and inputs -/

theorem onlyCtx_modCtx (s : State) (c : Nat) (x : CtxId) (f : Ctx → Ctx) : onlyCtx c x s (s.modCtx c x f) := by
  unfold onlyCtx
  rw [State.ctx_modCtx]; rfl

/-- A unit that keeps no log and is not replayed takes the world's data as it comes (R395). -/
theorem State.input_plain {s : State} {c : Nat} {x : CtxId} (kind src aux : Nat) (o : Org) (data : List W64)
    (hl : (s.ctx c x).rep.logging = false) (hr : (s.ctx c x).rep.replaying = false) : s.input c x kind src aux o data = (s, data) := by
  simp [State.input, State.inputAux, hl, hr]

theorem State.inputMe_plain {s : State} (kind aux : Nat) (data : List W64) (hl : s.me.rep.logging = false) (hr : s.me.rep.replaying = false) :
    s.inputMe kind aux data = (s, data) := State.input_plain _ _ _ _ _ hl hr

/-! ### Leaving the core, and the fault list -/

/-- A context leaves its core: no context changes. -/
@[simp] theorem State.ctx_release (s : State) (c : Nat) (x : CtxId) (d : Nat) (y : CtxId) : (s.release c x).ctx d y = s.ctx d y := by
  by_cases h : d = c
  · subst h
    simp only [State.release, State.ctx, State.core_modCore]
    split <;> rfl
  · simp only [State.release, State.ctx, State.core_modCore_other _ _ h]

/-- A context that leaves its core does not hold it any more (R72). -/
theorem State.cur_release (s : State) (c : Nat) (x : CtxId) : ((s.release c x).core c).cur ≠ some x := by
  simp only [State.release, State.core_modCore]
  split
  · nofun
  · assumption

theorem State.cur_release_of_cur {s : State} {c : Nat} {x : CtxId} (h : (s.core c).cur = some x) : ((s.release c x).core c).cur = none := by
  simp [State.release, h]

@[simp] theorem State.cur_modCtx (s : State) (c : Nat) (x : CtxId) (f : Ctx → Ctx) (d : Nat) : ((s.modCtx c x f).core d).cur = (s.core d).cur := by
  by_cases h : d = c
  · subst h; simp [State.modCtx, State.setCtx, Core.setCtx]
  · simp [State.modCtx, State.setCtx, State.core_modCore_other _ _ h]

/-- Delivered faults of a context leave its own fault list only. -/
theorem State.ctx_deliver (s : State) (c : Nat) (x : CtxId) : (s.deliver c x).ctx c x =
    { s.ctx c x with faultList := (s.ctx c x).faultList.filter fun f => (s.ctx c x).shadow.isSome && !f.tif } :=
  State.ctx_modCtx _ _ _ _

@[simp] theorem State.cur_deliver (s : State) (c : Nat) (x : CtxId) (d : Nat) : ((s.deliver c x).core d).cur = (s.core d).cur :=
  State.cur_modCtx _ _ _ _ _

end Sys2Proof.Machine
end

section
/-! PROOF. The state at reset (O60). -/

namespace Sys2Proof.Machine

open Sys2Proof.Safety

theorem State.ctx_reset (c : Nat) (x : CtxId) : State.reset.ctx c x = Ctx.reset := by
  show (Vector.replicate 4 Ctx.reset)[x] = Ctx.reset
  simp

theorem State.tile_reset (l : TLoc) : State.reset.tile l = Tile.absent := by
  cases l with
  | unit c x n => simp only [State.tile, State.ctx_reset]; rfl
  | launch c l n => rfl
  | frame c l u n => rfl

theorem Ctx.cmds_reset (q : Nat) : Ctx.reset.cmds q = [] := by
  have h : ∀ n, (List.replicate n ([] : List Cmd))[q]?.getD [] = [] := by
    intro n; rw [List.getElem?_replicate]; split <;> rfl
  unfold Ctx.cmds
  split
  · rfl
  · exact h 4

end Sys2Proof.Machine

namespace Sys2Proof.Proofs

open Sys2Proof.Machine

/-- Settles O60: every table of the reset state is empty, so every entry is the default. -/
theorem resetLeavesAnEmptyDevice : Obligations.ResetLeavesAnEmptyDevice := by
  unfold Obligations.ResetLeavesAnEmptyDevice
  refine ⟨rfl, fun _ => rfl, fun c x => ?_, fun l => ?_, fun _ _ => rfl, rfl, rfl, rfl, rfl, rfl, rfl, rfl, rfl, rfl, rfl⟩
  · rw [Sys2Proof.Machine.State.ctx_reset]
    exact ⟨rfl, rfl, rfl, rfl, rfl, rfl, rfl, rfl, Sys2Proof.Machine.Ctx.cmds_reset, rfl, rfl, rfl, rfl⟩
  · rw [Sys2Proof.Machine.State.tile_reset]; rfl

end Sys2Proof.Proofs
end

section
/-! PROOF. The end of iterations (O26). -/

namespace Sys2Proof.Machine

open Sys2Proof.Safety

/-! ### Iterations that end -/

/-- Levels that are not active are passed over. -/
theorem endIteration_of_inactive {l : Vector Loop 6} {a : W32} {p : List (Fin 6)} (h : ∀ m ∈ p, l[m].active = false) (r : List (Fin 6)) :
    endIteration l a (p ++ r) = endIteration l a r := by
  induction p with
  | nil => rfl
  | cons n p ih =>
    have hn : l[n].active = false := h n (by simp)
    simp only [List.cons_append, endIteration, hn, Bool.not_false, if_true]
    exact ih fun m hm => h m (by simp [hm])

/-- An active level before whose end the address lies keeps its iteration (R77). -/
theorem endIteration_inside {l : Vector Loop 6} {a : W32} {n : Fin 6} {r : List (Fin 6)} (h : l[n].active = true)
    (ha : a.toNat < l[n].stop.toNat) : endIteration l a (n :: r) = (l, a) := by
  simp only [endIteration, h, ha, Bool.not_true, Bool.false_eq_true, if_false, if_true]

/-- An active level that is not in its last iteration starts its next one (R77). -/
theorem endIteration_step {l : Vector Loop 6} {a : W32} {n : Fin 6} {r : List (Fin 6)} (h : l[n].active = true)
    (ha : l[n].stop.toNat ≤ a.toNat) (hl : l[n].index.toNat + 1 ≠ l[n].count.toNat) :
    endIteration l a (n :: r) = (l.set n { l[n] with index := l[n].index + 1 }, l[n].start) := by
  have ha' : ¬a.toNat < l[n].stop.toNat := Nat.not_lt.2 ha
  have hl' : l[n].last = false := decide_eq_false hl
  simp only [endIteration, h, ha', hl', Bool.not_true, Bool.false_eq_true, if_false]

/-- An active level in its last iteration becomes inactive, and the levels above it are tested (R77). -/
theorem endIteration_last {l : Vector Loop 6} {a : W32} {n : Fin 6} {r : List (Fin 6)} (h : l[n].active = true)
    (ha : l[n].stop.toNat ≤ a.toNat) (hl : l[n].index.toNat + 1 = l[n].count.toNat) :
    endIteration l a (n :: r) = endIteration (l.set n Loop.off) a r := by
  have ha' : ¬a.toNat < l[n].stop.toNat := Nat.not_lt.2 ha
  have hl' : l[n].last = true := decide_eq_true hl
  simp only [endIteration, h, ha', hl', Bool.not_true, Bool.false_eq_true, if_false, if_true]

/-- The levels in order, split at one of them: those below it, itself, and the rest. -/
theorem levels_split (n : Fin 6) : ∃ p r, levels = p ++ n :: r ∧ ∀ m ∈ p, m < n :=
  ⟨levels.take n.val, levels.drop (n.val + 1), by revert n; decide, by revert n; decide⟩

end Sys2Proof.Machine

namespace Sys2Proof.Proofs

open Sys2Proof.Machine

/-- Settles O26: levels below the innermost active one are passed over, and the test of that one is the claim. -/
theorem iterationsEndInnermostFirst : Obligations.IterationsEndInnermostFirst := by
  unfold Obligations.IterationsEndInnermostFirst
  intro l a
  refine ⟨fun h => ?_, fun n hn low => ?_⟩
  · exact endIteration_of_inactive (p := levels) (fun m _ => h m) []
  · obtain ⟨p, r, hs, hp⟩ := levels_split n
    have skip : ∀ l' : Vector Loop 6, (∀ m : Fin 6, m < n → l'[m].active = false) → endIteration l' a levels = endIteration l' a (n :: r) :=
        fun l' h' => by
      rw [hs]; exact endIteration_of_inactive (fun m hm => h' m (hp m hm)) _
    show (_ → endIteration l a levels = _) ∧ (_ → _ → endIteration l a levels = _) ∧ (_ → _ → endIteration l a levels = endIteration _ a levels)
    have still : ∀ m : Fin 6, m < n → (l.set n Loop.off)[m].active = false := fun m hm => by
      have : n.val ≠ m.val := fun e => absurd hm (by simp [Fin.lt_def, e])
      simpa [this] using low m hm
    have here : (l.set n Loop.off)[n].active = false := by simp [Loop.off]
    rw [skip l low]
    refine ⟨endIteration_inside hn, endIteration_step hn, fun ha hl => ?_⟩
    rw [endIteration_last hn ha hl]
    exact ((skip _ still).trans (endIteration_of_inactive (p := [n]) (by simpa using here) r)).symm

end Sys2Proof.Proofs
end

section
/-! PROOF. The loop words (O25). -/

namespace Sys2Proof.Machine

open Sys2Proof.Safety

/-- Some level of the list up to a number is active, where not all of the levels up to it are inactive. -/
theorem anyActive_iff (l : Vector Loop 6) (n : Nat) :
    (levels.any fun m => m.val ≤ n && l[m].active) = true ↔ ¬∀ m : Fin 6, m.val ≤ n → l[m].active = false := by
  have all : ∀ m : Fin 6, m ∈ levels := by decide
  simp [List.any_eq_true, all]

/-- A body lies in one segment, said by the two tests of `loop`. -/
theorem oneSegment_iff (o p : Option Nat) : (o.isNone || o != p) = true ↔ ¬∃ g, o = some g ∧ p = some g := by
  rcases o with _ | g
  · simp
  · rcases p with _ | q
    · simp
    · simpa using not_congr eq_comm

/-- `loop` over inactive levels with its body in one segment activates its level (R77). -/
theorem State.loop_activates (s : State) (n : BitVec 3) (k : W32) (e : BitVec 12) (hn : n.toNat < 6) :
    let stop : W32 := s.cur.org.ba + 4 * e.setWidth 32
    let idle : Prop := ∀ m : Fin 6, m.val ≤ n.toNat → s.me.loops[m].active = false
    let one : Prop := ∃ g, s.me.segOf s.me.pc = some g ∧ s.me.segOf (stop - 4) = some g
    (idle → one → k ≠ 0 → s.loop n k e = s.modMe fun cx => { cx with loops := cx.loops.set n.toNat ⟨true, k, 0, s.me.pc, stop⟩ }) ∧
    (idle → one → k = 0 → s.loop n k e = s.goEnd stop) ∧
    (¬idle → s.loop n k e = s.fatalMe .illegalBundle) ∧
    (idle → ¬one → s.loop n k e = s.fatalMe .segment) := by
  intro stop idle one
  have hi := anyActive_iff s.me.loops n.toNat
  have ho := oneSegment_iff (s.me.segOf s.seqNext) (s.me.segOf (s.cur.org.ba + 4 * e.setWidth 32 - 4))
  unfold State.loop
  refine ⟨fun i o hk => ?_, fun i o hk => ?_, fun i => if_pos (hi.2 i), fun i o => ?_⟩
  all_goals rw [if_neg fun h => hi.1 h i]
  · rw [if_neg fun h => ho.1 h o, if_neg hk]
    simp only [vmapI_ite_eq_set _ _ hn]; rfl
  · rw [if_neg fun h => ho.1 h o, if_pos hk]
  · rw [if_pos (ho.2 o)]

/-- `lbrk` of a level, by whether the level is active (R79, R87). -/
theorem execLbrk_eq (t : BitVec 3) (i : BitVec 2) (n : BitVec 3) (s : State) (hn : n.toNat < 6) : exec (.lbrk t i n) s =
    .next (if s.me.loops[n.toNat].active then
      (s.modMe fun cx => { cx with loops := vmapI (fun m k => if m ≤ n.toNat then Loop.off else k) cx.loops }).goEnd s.me.loops[n.toNat].stop
      else s) := by
  have h : s.me.loops.toList[n.toNat]? = some s.me.loops[n.toNat] := by simp [hn]
  show execLbrk t i n s = _
  unfold execLbrk
  rw [h]

end Sys2Proof.Machine

namespace Sys2Proof.Proofs

open Sys2Proof.Machine

/-- Settles O25: both forms of `loop` are `State.loop` of their count, and `lbrk` is decided by its level. -/
theorem loopsActivateAndBreak : Obligations.LoopsActivateAndBreak := by
  unfold Obligations.LoopsActivateAndBreak
  intro t i n c e s hn
  have runs (k : W32) := s.loop_activates n k e hn
  have lift (k : W32) {u : State} (h : s.loop n k e = u) : (.next (s.loop n k e) : Out) = .next u := congrArg _ h
  refine ⟨?_, ?_, fun h => ?_, fun h => ?_⟩
  · obtain ⟨a, z, b, c'⟩ := runs ((s.sreg c).setWidth 32)
    exact ⟨fun i o k => lift _ (a i o k), fun i o k => lift _ (z i o k), fun i => lift _ (b i), fun i o => lift _ (c' i o)⟩
  · obtain ⟨a, z, b, c'⟩ := runs (c.setWidth 32)
    exact ⟨fun i o k => lift _ (a i o k), fun i o k => lift _ (z i o k), fun i => lift _ (b i), fun i o => lift _ (c' i o)⟩
  · rw [execLbrk_eq _ _ _ _ hn, if_pos h]; rfl
  · rw [execLbrk_eq _ _ _ _ hn, h]; rfl

end Sys2Proof.Proofs
end

section
/-! PROOF. Targets, waits, events and `yield` (O27). -/

namespace Sys2Proof.Machine

open Sys2Proof.Safety

/-- Events are set on one core only, in the contexts named that hold a unit (R90). -/
theorem State.setEvents_ctx (s : State) (c : Nat) (k : BitVec 4) (y : CtxId) : (s.setEvents c k none).ctx c y =
    if k.getLsbD y.val = true ∧ (s.ctx c y).st ≠ .free then { s.ctx c y with event := true } else s.ctx c y := by
  unfold State.ctx State.setEvents
  rw [State.core_modCore]
  simp only [Fin.getElem_fin, vmapI_getElem]
  simp

theorem State.setEvents_onlyCore (s : State) (c : Nat) (k : BitVec 4) : onlyCore c s (s.setEvents c k none) := by
  unfold onlyCore State.setEvents State.modCore
  rw [State.core_setCore]

end Sys2Proof.Machine

namespace Sys2Proof.Proofs

open Sys2Proof.Machine

/-- Settles O27: each word by its own equation, with inputs the world's, as the unit keeps no log. -/
theorem targetsWaitsAndEvents : Obligations.TargetsWaitsAndEvents := by
  unfold Obligations.TargetsWaitsAndEvents
  intro t i n o a m k s hl hr
  refine ⟨rfl, rfl, rfl, rfl, fun he => ?_, fun he => ?_, ⟨_, ?_, s.setEvents_onlyCore _ k, s.setEvents_ctx _ k⟩, fun y hy => ?_, fun hn => ?_⟩
  · have hl' : (s.modMe fun cx => { cx with event := false }).me.rep.logging = false := by rw [State.me_modMe]; exact hl
    have hr' : (s.modMe fun cx => { cx with event := false }).me.rep.replaying = false := by rw [State.me_modMe]; exact hr
    show execWfe t i s = _
    simp [execWfe, State.replaying, hr, he, State.inputMe_plain _ _ _ hl' hr']
  · show execWfe t i s = _
    simp [execWfe, State.replaying, hr, he]
  · show execSev t i k s = _
    simp [execSev, State.replaying, hr]
  · show execYield t i s = _
    simp [execYield, hy]
  · show execYield t i s = _
    simp [execYield, hn]

end Sys2Proof.Proofs
end

section
/-! PROOF. `launch`, `retire` and `xdisp` (O29). -/

namespace Sys2Proof.Machine

open Sys2Proof.Safety

/-- The context of a `retire`: RETIRING, without a shadow, and with the words and owed writes of its shadow ahead of its own (R93). -/
def Ctx.retired (cx : Ctx) : Ctx :=
  let c1 := match cx.shadow with
    | some h =>
      let owed := h.pend.filter fun (p : Pend) => 5 ≤ p.slot && p.val.isNone
      { cx with mt := h.mt ++ cx.mt, mc := h.mc ++ cx.mc, mg := h.mg ++ cx.mg, pend := owed ++ cx.pend, shadow := none }
    | none => cx
  { c1 with st := .retiring, pendEv := Pending.none, wait := .none }

theorem execRetire_eq (t : BitVec 3) (i : BitVec 2) (s : State) : exec (.retire t i) s =
    .next (((s.modMe Ctx.retired).release s.cur.core s.cur.x).deliver s.cur.core s.cur.x) := rfl

/-- A context after its `retire` has issued. -/
theorem State.me_retired (s : State) : (((s.modMe Ctx.retired).release s.cur.core s.cur.x).deliver s.cur.core s.cur.x).me =
    { s.me.retired with faultList := s.me.retired.faultList.filter fun f => s.me.retired.shadow.isSome && !f.tif } := by
  show State.ctx _ s.cur.core s.cur.x = _
  rw [State.ctx_deliver, State.ctx_release]
  show { (s.modMe Ctx.retired).me with faultList :=
      (s.modMe Ctx.retired).me.faultList.filter fun f => (s.modMe Ctx.retired).me.shadow.isSome && !f.tif } = _
  rw [State.me_modMe]

/-- What a `retire` leaves of its context, and of its core (R93). -/
theorem execRetire_effect (t : BitVec 3) (i : BitVec 2) (s : State) :
    ∃ u, exec (.retire t i) s = .next u ∧ u.me.st = .retiring ∧ u.me.wait = .none ∧ u.me.pendEv = Pending.none ∧ u.me.shadow = none ∧
      (s.here.cur = some s.cur.x → u.here.cur = none) ∧ u.mem = s.mem ∧ u.me.lands = s.me.lands ∧ u.me.tiles = s.me.tiles ∧
      (s.me.shadow = none → u.me.mt = s.me.mt ∧ u.me.mc = s.me.mc ∧ u.me.mg = s.me.mg) ∧
      (∀ h, s.me.shadow = some h → u.me.mt = h.mt ++ s.me.mt ∧ u.me.mc = h.mc ++ s.me.mc ∧ u.me.mg = h.mg ++ s.me.mg) := by
  refine ⟨_, execRetire_eq t i s, ?_⟩
  rw [State.me_retired]
  refine ⟨rfl, rfl, rfl, ?_, fun h => ?_, ?_, ?_, ?_, fun h => ?_, fun sh h => ?_⟩
  · unfold Ctx.retired; split <;> simp [*]
  · show ((State.deliver _ s.cur.core s.cur.x).core s.cur.core).cur = none
    rw [State.cur_deliver]
    exact State.cur_release_of_cur ((State.cur_modCtx _ _ _ _ _).trans h)
  · rfl
  · unfold Ctx.retired; split <;> rfl
  · unfold Ctx.retired; split <;> rfl
  · simp [Ctx.retired, h]
  · simp [Ctx.retired, h]

/-- An entered command is the last of its queue. -/
theorem Ctx.eq_pushEq (cx : Ctx) (m : Cmd) : (cx.pushEq 0 m).eq[0] = cx.eq[0] ++ [m] := by
  simp [Ctx.pushEq, vset, vget]

/-- A good target of an `xdisp` is no fault (R310). -/
theorem Ctx.badTarget_good {cx : Ctx} {g : W32} (ha : g.toNat % 4 = 0) (hs : (cx.segOf g).isSome = true) : cx.badTarget (some g) = none := by
  simp [Ctx.badTarget, ha, Option.isSome_iff_ne_none.1 hs]

/-- An `xdisp` with a good target, of a context in no handler, ends with the jump and the count on its way (R310). -/
theorem State.xdispDone_good {s : State} {c : Nat} {x : CtxId} (k : Nat) (o : Org) (v : W64) {g : W32} (hh : (s.ctx c x).shadow = none)
    (ha : g.toNat % 4 = 0) (hs : ((s.ctx c x).segOf g).isSome = true) : s.xdispDone c x k o v (some g) =
      s.modCtx c x fun cx => { (cx.dispatchTo (some g)).fillPend k 1 (v.setWidth 4096) none with wait := .none } := by
  simp [State.xdispDone, Ctx.badTarget_good ha hs, State.modCtx, Ctx.xdispEnd, hh]

/-- The packet of a `launch` word of the context at hand, as it reaches admission (R92). -/
def State.launchArrival (s : State) (packet : BitVec 512) : Arrival :=
  let l := s.launch? s.me.launch
  ⟨s.me.vf, (l.map fun k => k.slot).getD 0, packet, none, some (s.me.launch, s.me.unit, s.cur.tok), none, s.me.priv,
    (l.map fun k => k.graph).getD 0, 0, 0, s.clk, false⟩

/-- The command that an `xdisp` of the context at hand enters in eq0 (R94, R313). -/
def State.xdispCmd (s : State) (d a : BitVec 5) : Cmd :=
  { Cmd.zero with
    num := s.uidCtr, op := 0x10#6, word := s.cur.raw, org := s.cur.org, launch := s.me.launch, unit := s.me.unit
    a1 := s.sreg a, tok := s.cur.tok, ctl := d.setWidth 64 }

theorem execXdisp_eq (t : BitVec 3) (i : BitVec 2) (d a : BitVec 5) {s : State} (hr : s.me.rep.replaying = false) : exec (.xdisp t i d a) s =
    .next (({ s with uidCtr := s.uidCtr + 1 } : State).modMe fun cx =>
      { (cx.pushEq 0 (s.xdispCmd d a)) with wait := .xdisp, waitOrg := s.cur.org }) := by
  show execXdisp t i d a s = _
  simp only [execXdisp, State.replaying, hr, Bool.false_eq_true, if_false]
  rfl

end Sys2Proof.Machine

namespace Sys2Proof.Proofs

open Sys2Proof.Machine

/-- Settles O29: the words by their equations, and an `xdisp` with a good target by `State.xdispDone_good`. -/
theorem launchRetireAndDispatchWords : Obligations.LaunchRetireAndDispatchWords := by
  unfold Obligations.LaunchRetireAndDispatchWords
  intro t i d a s w packet
  refine ⟨fun hr => ⟨_, s.launchArrival packet, ?_, rfl, rfl, rfl, rfl, rfl⟩, execRetire_effect t i s,
    fun hr => ⟨_, s.xdispCmd d a, execXdisp_eq t i d a hr, ?_⟩, fun c x k o v g hh ha hs => ⟨_, rfl, ?_⟩⟩
  · show execLaunch t i d a s = _
    simp only [execLaunch, State.replaying, hr, Bool.false_eq_true, if_false]; rfl
  · refine ⟨?_, ?_, ?_, rfl, rfl, rfl, rfl, rfl, onlyCtx_modCtx _ _ _ _⟩
    all_goals rw [State.me_modMe]
    exact Ctx.eq_pushEq _ _
  · rw [State.xdispDone_good _ _ _ hh ha hs]
    refine ⟨onlyCtx_modCtx _ _ _ _, ?_, ?_, ?_, ?_⟩
    all_goals rw [State.ctx_modCtx]
    · rfl
    · rfl
    · intro p hp ht
      exact List.mem_map.2 ⟨p, hp, if_pos ht⟩

end Sys2Proof.Proofs
end

section
/-! PROOF. Traps, stops, overlays and `cancel` (O30). -/

namespace Sys2Proof.Machine

open Sys2Proof.Safety

/-- The latest entry of a list that passes a test: none after it does. -/
theorem getLast?_filter_of_split {α : Type} {p : α → Bool} {l r : List α} {k : α} (hk : p k = true) (hr : ∀ q ∈ r, p q = false) :
    ((l ++ k :: r).filter p).getLast? = some k := by
  have : r.filter p = [] := List.filter_eq_nil_iff.2 fun q hq => by simp [hr q hq]
  simp [List.filter_append, hk, this]

/-- A copy that has been started is in one of the halves (R81). -/
theorem Ctx.startCopy_holds (cx : Ctx) (pc : W32) (n : Nat) :
    ((cx.startCopy pc n).half0.map fun h => h.seg) = some n ∨ ((cx.startCopy pc n).half1.map fun h => h.seg) = some n := by
  unfold Ctx.startCopy
  dsimp only
  split_ifs with _ h1 h0
  · exact .inr h1
  · exact .inr rfl
  · exact .inl h0
  · exact .inl rfl

/-- The graph, phase or job (levels 2, 3, 4) around the unit at hand (R98). -/
def State.ownInst (s : State) (level : Nat) : Option Inst := (s.launch? s.me.launch).bind fun k => s.aboveAt k level

/-- A launch of the unit's own function and job (R98). -/
def State.launchInJob (s : State) (k : Launch) : Bool :=
  k.vf = s.me.vf && (s.aboveAt k 4).map (fun i => i.serial) = (s.ownInst 4).map fun i => i.serial

/-- What an id names at a level for a `cancel` of the unit at hand: of its function and in its job (R98). -/
def State.cancelHit (s : State) (level : Nat) (id : W32) (k : Inst) : Bool :=
  let job := (s.ownInst 4).map fun i => i.serial
  k.vf = s.me.vf && k.level = level && k.id = id && (job.isSome && match level with
    | 2 => ((s.instAt k.up).map fun p => p.up) = job
    | 3 => some k.up = job
    | _ => some k.serial = job)

/-- What a `cancel` of a graph, phase or job does (R98). -/
theorem execCancel_inst (t : BitVec 3) (i : BitVec 2) (e : BitVec 3) (a : BitVec 5) (s : State) (h : 2 ≤ e.toNat) :
    exec (.cancel t i e a) s = .next (
      match (if ((s.sreg a).setWidth 32 : W32) = 0 then s.ownInst e.toNat
        else (s.insts.filter (s.cancelHit e.toNat ((s.sreg a).setWidth 32))).getLast?) with
      | some k => s.cancelInst k 1
      | none => s.fatalMe .permission) := by
  show execCancel t i e a s = _
  obtain ⟨m, hm⟩ := Nat.exists_eq_add_of_le' h
  simp only [execCancel, hm]
  rfl

/-- Something is hit where the caller's job is known and holds it (R98). -/
theorem State.cancelHit_iff (s : State) (level : Nat) (id : W32) (k : Inst) (hl : level ∈ [2, 3, 4]) :
    s.cancelHit level id k = true ↔ k.vf = s.me.vf ∧ k.level = level ∧ k.id = id ∧ ∃ j, s.ownInst 4 = some j ∧
      (level = 2 → ∃ p, s.instAt k.up = some p ∧ p.up = j.serial) ∧ (level = 3 → k.up = j.serial) ∧ (level = 4 → k.serial = j.serial) := by
  unfold State.cancelHit
  cases hj : s.ownInst 4 with
  | none => simp
  | some j =>
    simp only [List.mem_cons, List.not_mem_nil, or_false] at hl
    rcases hl with rfl | rfl | rfl <;> simp [and_assoc]

theorem State.launchInJob_of {s : State} {k : Launch} (hv : k.vf = s.me.vf) {j : Inst} (hj : s.ownInst 4 = some j)
    (ha : (s.aboveAt k 4).map (fun p => p.serial) = some j.serial) : s.launchInJob k = true := by
  simp [State.launchInJob, hv, hj, ha]

/-- `cancel` of a unit (R98). -/
theorem execCancel_unit (t : BitVec 3) (i : BitVec 2) (a : BitVec 5) (s : State) :
    exec (.cancel t i 0 a) s = .next (
      let la : W32 := if (s.sreg a).extractLsb' 32 32 = 0 then s.me.launch else (s.sreg a).extractLsb' 32 32
      match s.launch? la with
      | some k => if s.launchInJob k && ((s.sreg a).setWidth 32 : W32).toNat < k.units.toNat then s.cancelUnit la ((s.sreg a).setWidth 32)
        else s.fatalMe .permission
      | none => s.fatalMe .permission) := rfl

/-- `cancel` of a launch (R98). -/
theorem execCancel_launch (t : BitVec 3) (i : BitVec 2) (a : BitVec 5) (s : State) :
    exec (.cancel t i 1 a) s = .next (
      let la : W32 := if ((s.sreg a).setWidth 32 : W32) = 0 then s.me.launch else (s.sreg a).setWidth 32
      if ((s.launch? la).map s.launchInJob).getD false then s.cancelLaunches [la] 1 else s.fatalMe .permission) := rfl

end Sys2Proof.Machine

namespace Sys2Proof.Proofs

open Sys2Proof.Machine

/-- Settles O30: `cancel` of a graph, phase or job takes the latest one hit, of a unit or launch one in the caller's job. -/
theorem trapStopOverlayAndCancelWords : Obligations.TrapStopOverlayAndCancelWords := by
  unfold Obligations.TrapStopOverlayAndCancelWords
  intro t i m n a s own v id la mine
  refine ⟨fun h => ?_, fun h => ?_, fun h => ?_, fun h => ?_, fun h => ?_, fun h => ?_, fun h => ⟨?_, Ctx.startCopy_holds _ _ _⟩, fun h => ?_,
    fun k hk ⟨hv, j, hj, ha⟩ hu => ?_, fun k hk ⟨hv, j, hj, ha⟩ => ?_, fun e h2 h4 => ?_, fun hk => ?_⟩
  · show execTrap t i m s = _; simp [execTrap, h]
  · show execTrap t i m s = _; simp [execTrap, h]
  · show execEret t i s = _; simp [execEret, h]
  · show execEret t i s = _; simp [execEret, h]
  · show execBkpt t i m s = _; simp [execBkpt, h]
  · show execBkpt t i m s = _; simp [execBkpt, h]
  · show execSegld t i n s = _; simp [execSegld, Nat.not_le.2 h]
  · show execSegld t i n s = _; simp [execSegld, h]
  · rw [execCancel_unit]
    show _ = Host.Outcome.next _
    dsimp only
    rw [show s.launch? _ = some k from hk]
    exact congrArg _ (if_pos (by simp [State.launchInJob_of hv hj ha]; exact hu))
  · rw [execCancel_launch]
    dsimp only
    rw [show s.launch? _ = some k from hk]
    exact congrArg _ (if_pos (State.launchInJob_of hv hj ha))
  · have he : e.toNat ∈ [2, 3, 4] := by simp; omega
    have num (n : Nat) (hn : n < 8) : e = BitVec.ofNat 3 n ↔ e.toNat = n := by
      rw [← BitVec.toNat_inj, BitVec.toNat_ofNat, Nat.mod_eq_of_lt hn]
    have hit (k : Inst) := s.cancelHit_iff e.toNat id k he
    rw [← num 2 (by decide), ← num 3 (by decide), ← num 4 (by decide)] at hit
    rw [execCancel_inst _ _ _ _ _ h2]
    refine ⟨fun hz k hk => ?_, fun hz hn => ?_, fun hz l k r hs hk hr => ?_⟩
    · rw [if_pos hz, show s.ownInst e.toNat = some k from hk]
    · have none : s.insts.filter (s.cancelHit e.toNat id) = [] :=
        List.filter_eq_nil_iff.2 fun k hk h => hn k hk ((hit k).1 h)
      rw [if_neg hz, none]; rfl
    · have last := getLast?_filter_of_split (l := l) ((hit k).2 hk) fun q hq => Bool.eq_false_iff.2 fun h => hr q hq ((hit q).1 h)
      rw [if_neg hz, hs, last]
  · rw [execCancel_launch]
    dsimp only
    rw [show s.launch? _ = none from hk]
    rfl

end Sys2Proof.Proofs
end

section
/-! PROOF. The system registers (O28). -/

namespace Sys2Proof.Machine

open Sys2Proof.Safety

/-! ### Sticky records -/

/-- No causes leave a record as it is (R347). -/
@[simp] theorem stickySet_zero (r : W64) (o : Org) : stickySet r 0 o = r := if_pos rfl

@[simp] theorem Ctx.sticky1_zero (cx : Ctx) (slot : Nat) (o : Org) : cx.sticky1 slot 0 o = cx := by
  unfold Ctx.sticky1
  split
  · rw [stickySet_zero, Vector.set_getElem_self]
  · rfl

/-- The causes left of a record by a clear. -/
def stickyLeft (r v : W64) : BitVec 12 := fld r 0 12 &&& ~~~(fld v 0 12)

theorem stickyLeft_getLsbD (r v : W64) (j : Nat) (h : j < 12) : (stickyLeft r v).getLsbD j = (r.getLsbD j && !v.getLsbD j) := by
  simp [stickyLeft, fld, h]

theorem stickyClear_eq (r v : W64) : stickyClear r v = if stickyLeft r v = 0 then 0 else putBits r 0 12 (stickyLeft r v) := rfl

/-- The bits of a word after a field of it has been replaced. -/
theorem putBits_getLsbD {w : Nat} (x : BitVec w) (lo n : Nat) (v : BitVec n) (j : Nat) (hj : j < w) :
    (putBits x lo n v).getLsbD j = if lo ≤ j ∧ j < lo + n then v.getLsbD (j - lo) else x.getLsbD j := by
  simp only [putBits, BitVec.getLsbD_or, BitVec.getLsbD_and, BitVec.getLsbD_not, BitVec.getLsbD_shiftLeft, BitVec.getLsbD_setWidth,
    BitVec.getLsbD_allOnes]
  by_cases h1 : lo ≤ j
  · have h2 : j - lo < w := by omega
    by_cases h3 : j < lo + n
    · have h4 : j - lo < n := by omega
      simp [hj, h1, h2, h3, h4, Nat.not_lt.2 h1]
    · have h4 : ¬j - lo < n := by omega
      have h5 : n ≤ j - lo := by omega
      simp [hj, h1, h3, h4, BitVec.getLsbD_of_ge v _ h5]
  · have h2 : j < lo := by omega
    simp [hj, h1, h2]

/-- A clear takes away the causes written with 1 (R347). -/
theorem stickyClear_cause (r v : W64) (j : Nat) (h : j < 12) : (stickyClear r v).getLsbD j = (r.getLsbD j && !v.getLsbD j) := by
  rw [stickyClear_eq, ← stickyLeft_getLsbD r v j h]
  split
  · next hz => rw [hz]; simp
  · rw [putBits_getLsbD _ _ _ _ _ (by omega), if_pos ⟨Nat.zero_le _, by omega⟩]; rfl

/-- With a cause left, the rest of the record stays; with none, all of it goes (R347). -/
theorem stickyClear_rest (r v : W64) : ((∀ j, j < 12 → (stickyClear r v).getLsbD j = false) → stickyClear r v = 0) ∧
    ((∃ j, j < 12 ∧ (stickyClear r v).getLsbD j = true) → ∀ j, 12 ≤ j → (stickyClear r v).getLsbD j = r.getLsbD j) := by
  rw [stickyClear_eq]
  split
  · next => exact ⟨fun _ => rfl, fun ⟨j, _, hj⟩ => absurd hj (by simp)⟩
  · next hz =>
    have low (j : Nat) (hj : j < 12) : (putBits r 0 12 (stickyLeft r v)).getLsbD j = (stickyLeft r v).getLsbD j := by
      rw [putBits_getLsbD _ _ _ _ _ (by omega), if_pos ⟨Nat.zero_le _, by omega⟩]; rfl
    have high (j : Nat) (hj : 12 ≤ j) : (putBits r 0 12 (stickyLeft r v)).getLsbD j = r.getLsbD j := by
      by_cases h64 : j < 64
      · rw [putBits_getLsbD _ _ _ _ _ h64, if_neg (by omega)]
      · rw [BitVec.getLsbD_of_ge _ j (Nat.le_of_not_lt h64), BitVec.getLsbD_of_ge _ j (Nat.le_of_not_lt h64)]
    refine ⟨fun h => absurd (BitVec.eq_of_getLsbD_eq fun j hj => ?_) hz, fun _ => high⟩
    rw [← low j hj, h j hj]; simp

/-- A landing that clears a record changes that record only. -/
theorem Core.apply_clear (k : Core) (x : CtxId) (n : Fin 8) (w : W64) (m : Nat) (o : Org) :
    k.apply x ⟨1, .clear (BitVec.ofNat 3 n) w, m, 0, o⟩ =
      k.modCtx x fun cx => { cx with sticky := cx.sticky.set n (stickyClear cx.sticky[n] w) } := by
  unfold Core.apply
  simp only [Ctx.sticky1_zero]
  simp [vset, vget]

/-! ### PARKHINT -/

/-- One name tried for PARKHINT against the best so far (R167). -/
def State.parkStep (s : State) (c : Nat) (x : CtxId) (best : Option (Nat × Nat × Nat)) (n : Nat) : Option (Nat × Nat × Nat) :=
  let t := s.tile (s.resolve c x n)
  let dl := s.deadlineOf (s.ownerLaunch (s.resolve c x n))
  if t.st ≠ .present then best
  else match best with
    | none => some (dl, t.granules, n)
    | some (d, g, m) => if d < dl ∨ (d = dl ∧ g ≤ t.granules) then some (dl, t.granules, n) else some (d, g, m)

theorem State.parkHint_eq (s : State) (c : Nat) (x : CtxId) : s.parkHint c x = match (List.range 256).foldl (s.parkStep c x) none with
    | some (_, _, n) => n
    | none => 0x1FF := rfl

/-- The best of the names below k: none where no tile is PRESENT, else the latest deadline, ties to the larger tile, then the higher name. -/
def State.parkBest (s : State) (c : Nat) (x : CtxId) (k : Nat) (best : Option (Nat × Nat × Nat)) : Prop :=
  let there (m : Nat) : Prop := m < k ∧ (s.tile (s.resolve c x m)).st = .present
  let dl (m : Nat) : Nat := s.deadlineOf (s.ownerLaunch (s.resolve c x m))
  let size (m : Nat) : Nat := (s.tile (s.resolve c x m)).granules
  match best with
  | none => ∀ m, ¬there m
  | some (d, g, n) => there n ∧ d = dl n ∧ g = size n ∧ ∀ m, there m →
      dl m ≤ dl n ∧ (dl m = dl n → size m ≤ size n ∧ (size m = size n → m ≤ n))

theorem State.parkBest_step {s : State} {c : Nat} {x : CtxId} {k : Nat} {best : Option (Nat × Nat × Nat)} (h : s.parkBest c x k best) :
    s.parkBest c x (k + 1) (s.parkStep c x best k) := by
  have skip (h : (s.tile (s.resolve c x k)).st ≠ .present) (m : Nat) (hm : m < k + 1 ∧ (s.tile (s.resolve c x m)).st = .present) : m < k := by
    have : m ≠ k := fun e => h (e ▸ hm.2)
    omega
  unfold State.parkStep
  dsimp only
  by_cases hp : (s.tile (s.resolve c x k)).st = .present
  · rw [if_neg (not_not.2 hp)]
    have old (m : Nat) (hm : m < k + 1 ∧ (s.tile (s.resolve c x m)).st = .present) (hk : m ≠ k) :
        m < k ∧ (s.tile (s.resolve c x m)).st = .present := ⟨by omega, hm.2⟩
    match best, h with
    | none, h =>
      refine ⟨⟨Nat.lt_succ_self k, hp⟩, rfl, rfl, fun m hm => ?_⟩
      by_cases e : m = k
      · subst e; exact ⟨le_rfl, fun _ => ⟨le_rfl, fun _ => le_rfl⟩⟩
      · exact absurd (old m hm e) (h m)
    | some (d, g, n), ⟨hn, hd, hg, hb⟩ =>
      subst hd hg
      dsimp only at hb ⊢
      by_cases better : s.deadlineOf (s.ownerLaunch (s.resolve c x n)) < s.deadlineOf (s.ownerLaunch (s.resolve c x k)) ∨
          s.deadlineOf (s.ownerLaunch (s.resolve c x n)) = s.deadlineOf (s.ownerLaunch (s.resolve c x k)) ∧
          (s.tile (s.resolve c x n)).granules ≤ (s.tile (s.resolve c x k)).granules
      · rw [if_pos better]
        refine ⟨⟨Nat.lt_succ_self k, hp⟩, rfl, rfl, fun m hm => ?_⟩
        dsimp only
        by_cases e : m = k
        · subst e; exact ⟨le_rfl, fun _ => ⟨le_rfl, fun _ => le_rfl⟩⟩
        · have := hb m (old m hm e)
          have lt := (old m hm e).1
          exact ⟨by omega, fun h1 => ⟨by omega, fun h2 => by omega⟩⟩
      · rw [if_neg better]
        refine ⟨⟨by omega, hn.2⟩, rfl, rfl, fun m hm => ?_⟩
        dsimp only
        by_cases e : m = k
        · subst e; exact ⟨by omega, fun h1 => ⟨by omega, fun h2 => by omega⟩⟩
        · exact hb m (old m hm e)
  · rw [if_pos hp]
    match best, h with
    | none, h => exact fun m hm => h m ⟨skip hp m hm, hm.2⟩
    | some (d, g, n), ⟨hn, hd, hg, hb⟩ => exact ⟨⟨by omega, hn.2⟩, hd, hg, fun m hm => hb m ⟨skip hp m hm, hm.2⟩⟩

theorem State.parkBest_range (s : State) (c : Nat) (x : CtxId) (k : Nat) : s.parkBest c x k ((List.range k).foldl (s.parkStep c x) none) := by
  induction k with
  | zero => exact fun m h => absurd h.1 (Nat.not_lt_zero m)
  | succ k ih => rw [List.range_succ, List.foldl_append]; exact State.parkBest_step ih

/-! ### System registers (R96 Table 8) -/

/-- `csrr` of a unit that keeps no log and is not replayed. -/
theorem execCsrr_plain (t : BitVec 3) (i : BitVec 2) (d : BitVec 5) (c : BitVec 11) {s : State} (hl : s.me.rep.logging = false)
    (hr : s.me.rep.replaying = false) : exec (.csrr t i d c) s = .next (s.land 2 (.s d (s.csr c.toNat)) 0) := by
  show execCsrr t i d c s = _
  unfold execCsrr
  split
  · rw [State.inputMe_plain _ _ _ hl hr]; rfl
  · rfl

theorem State.csr_sticky (s : State) (n : Fin 8) : s.csr (0x020 + n) = s.me.sticky[n] := by
  have h := n.isLt
  have e : (0x020 + n.val) % 8 = n.val := by omega
  unfold State.csr
  dsimp only
  repeat rw [if_neg (by omega)]
  rw [if_pos (by omega)]
  simp [vget, e]

theorem State.csr_loopIndex (s : State) (n : Fin 6) :
    s.csr (0x030 + n) = if s.me.loops[n].active then s.me.loops[n].index.setWidth 64 else 0 := by
  have h := n.isLt
  unfold State.csr
  dsimp only
  repeat rw [if_neg (by omega)]
  rw [if_pos (by omega)]
  simp [h]

theorem State.csr_loopCount (s : State) (n : Fin 6) :
    s.csr (0x036 + n) = if s.me.loops[n].active then s.me.loops[n].count.setWidth 64 else 0 := by
  have h := n.isLt
  unfold State.csr
  dsimp only
  repeat rw [if_neg (by omega)]
  rw [if_pos (by omega)]
  simp [h]

theorem State.csr_issued (s : State) (n : Fin 6) : s.csr (0x040 + n) = s.me.cnt[n].issued.setWidth 64 := by
  have h := n.isLt
  unfold State.csr
  dsimp only
  repeat rw [if_neg (by omega)]
  rw [if_pos (by omega)]
  simp [h]

theorem State.csr_stall (s : State) (n : Fin 6) : s.csr (0x048 + n) = s.me.cnt[n].stall.setWidth 64 := by
  have h := n.isLt
  unfold State.csr
  dsimp only
  repeat rw [if_neg (by omega)]
  rw [if_pos (by omega)]
  simp [h]

theorem State.csr_fill (s : State) (m : Fin 6) (n : Fin 8) : s.csr (0x080 + 8 * m + n) = s.me.cnt[m].fill[n].setWidth 64 := by
  have hm := m.isLt
  have hn := n.isLt
  have q : (0x080 + 8 * m.val + n.val - 0x080) / 8 = m.val := by omega
  have e : (0x080 + 8 * m.val + n.val) % 8 = n.val := by omega
  unfold State.csr
  dsimp only
  repeat rw [if_neg (by omega)]
  rw [if_pos (by omega), q]
  simp [vget, e, hm]

theorem State.csr_noop (s : State) (m : Fin 6) (n : Fin 8) : s.csr (0x0C0 + 8 * m + n) = s.me.cnt[m].noop[n].setWidth 64 := by
  have hm := m.isLt
  have hn := n.isLt
  have q : (0x0C0 + 8 * m.val + n.val - 0x0C0) / 8 = m.val := by omega
  have e : (0x0C0 + 8 * m.val + n.val) % 8 = n.val := by omega
  unfold State.csr
  dsimp only
  repeat rw [if_neg (by omega)]
  rw [if_pos (by omega), q]
  simp [vget, e, hm]

/-- Numbers that Table 8 does not list read 0 (R96). -/
theorem State.csr_unlisted (s : State) (c : Nat)
    (h : c ∈ [6, 7, 0xF] ∨ (0x12 ≤ c ∧ c ≤ 0x17) ∨ (0x1D ≤ c ∧ c ≤ 0x1F) ∨ (0x28 ≤ c ∧ c ≤ 0x2F) ∨
    (0x3C ≤ c ∧ c ≤ 0x3F) ∨ c ∈ [0x46, 0x47] ∨ (0x4E ≤ c ∧ c ≤ 0x7F) ∨ (0xB0 ≤ c ∧ c ≤ 0xBF) ∨ 0xF0 ≤ c) : s.csr c = 0 := by
  simp only [List.mem_cons, List.not_mem_nil, or_false] at h
  unfold State.csr
  dsimp only
  repeat rw [if_neg (by omega)]

/-- CTXID as Table 8 lays it out (R96). -/
theorem ctxid_eq (p : Bool) (c : Nat) (x : CtxId) :
    (ctxid p c x).setWidth 64 = BitVec.ofNat 64 ((if p then 2 ^ 13 else 0) + c % 2048 * 4 + x.val) := by
  have := Nat.mod_lt c (show 0 < 2048 by decide)
  have := x.isLt
  apply BitVec.eq_of_toNat_eq
  simp only [ctxid, bit, BitVec.toNat_setWidth, BitVec.toNat_ofNat]
  cases p
  · simp only [Bool.false_eq_true, if_false]; omega
  · simp only [if_true]; omega

/-- The registers that show the unit's launch: GRAPH, BUDGET, SPENT, CORR and RESIDUE (R96). -/
theorem State.csr_ofLaunch {s : State} {l : Launch} (has : s.me.rep.asId = none) (hl : s.launch? s.me.launch = some l) :
    s.csr 0x003 = l.graph.setWidth 64 ∧ s.csr 0x009 = l.budget.setWidth 64 ∧ s.csr 0x00A = l.spent ∧ s.csr 0x00B = l.corr.setWidth 64 ∧
      s.csr 0x00D = l.residue.setWidth 64 := by
  simp [State.csr, has, hl]

theorem State.idAbove_of {s : State} {id : W32} {l : Launch} {n : Nat} {j : Inst} (hl : s.launch? id = some l) (hj : s.aboveAt l n = some j) :
    s.idAbove id n = j.id := by
  simp [State.idAbove, hl, hj]

/-- DEADLINE in the function's time (R96, R314). -/
theorem State.deadlineCsr_of {s : State} {id : W32} {l : Launch} (h : s.launch? id = some l) :
    s.deadlineCsr id = if l.bg = true ∨ l.demoted = true then BitVec.allOnes 64 else l.deadline + (s.vf l.vf).cfg.timeOff := by
  simp [State.deadlineCsr, h, State.vf]

/-- What PARKHINT reads (R167). -/
theorem State.parkHint_best (s : State) (c : Nat) (x : CtxId) :
    ((∀ m, ¬(m < 256 ∧ (s.tile (s.resolve c x m)).st = .present)) → s.parkHint c x = 0x1FF) ∧
    ((∃ m, m < 256 ∧ (s.tile (s.resolve c x m)).st = .present) →
      s.parkBest c x 256 (some (s.deadlineOf (s.ownerLaunch (s.resolve c x (s.parkHint c x))),
        (s.tile (s.resolve c x (s.parkHint c x))).granules, s.parkHint c x))) := by
  have h := s.parkBest_range c x 256
  rw [State.parkHint_eq]
  generalize (List.range 256).foldl (s.parkStep c x) none = best at h ⊢
  match best, h with
  | none, h => exact ⟨fun _ => rfl, fun ⟨m, hm⟩ => absurd hm (h m)⟩
  | some (d, g, n), ⟨hn, hd, hg, hb⟩ => exact ⟨fun hno => absurd hn (hno n), fun _ => ⟨hn, rfl, rfl, hb⟩⟩

end Sys2Proof.Machine

namespace Sys2Proof.Proofs

open Sys2Proof.Machine

/-- Settles O28: each register of Table 8 by the branch of `State.csr` that reads it, PARKHINT as the best of the names tried in order, and a
clear by the bits of the record it leaves. -/
theorem systemRegistersReadAndWrite : Obligations.SystemRegistersReadAndWrite := by
  unfold Obligations.SystemRegistersReadAndWrite
  intro t i d a s hl hr has reads v
  have read (c : BitVec 11) {w : W64} (h : s.csr c.toNat = w) : reads c w := h ▸ execCsrr_plain t i d c hl hr
  have readN (n : Nat) (hn : n < 2048) {w : W64} (h : s.csr n = w) : reads (BitVec.ofNat 11 n) w :=
    read _ (by rwa [BitVec.toNat_ofNat, Nat.mod_eq_of_lt hn])
  have unit : s.me.unitNo = s.me.unit := by simp [Ctx.unitNo, has]
  have id : (s.me.rep.asId.map fun i => i.1).getD s.me.launch = s.me.launch := by simp [has]
  refine ⟨fun c => read c rfl, read _ ?_, read _ ?_, read _ rfl, read _ rfl, read _ rfl, read _ rfl, read _ rfl, read _ rfl, read _ rfl, read _ rfl,
    fun n => readN _ (by omega) (s.csr_sticky n),
    fun n => ⟨readN _ (by omega) (s.csr_loopIndex n), readN _ (by omega) (s.csr_loopCount n), readN _ (by omega) (s.csr_issued n),
      readN _ (by omega) (s.csr_stall n)⟩,
    fun m n => ⟨readN _ (by omega) (s.csr_fill m n), readN _ (by omega) (s.csr_noop m n)⟩,
    read _ ?_, fun l hl => ?_,
    ⟨s.parkHint s.cur.core s.cur.x, read _ rfl, ?_⟩, fun c hc => read c (s.csr_unlisted _ hc),
    rfl, fun n => ?_, fun k x n w m o => ?_, fun c hv hs => ?_⟩
  · show s.me.unitNo.setWidth 64 = _; rw [unit]
  · show ((s.me.rep.asId.map fun i => i.1).getD s.me.launch).setWidth 64 = _; rw [id]
  · show ((s.me.rep.asId.map fun i => i.2.2).getD (ctxid s.me.priv s.cur.core s.cur.x)).setWidth 64 = _
    rw [has]; exact ctxid_eq _ _ _
  · obtain ⟨graph, budget, spent, corr, residue⟩ := State.csr_ofLaunch has hl
    refine ⟨read _ graph, fun j hj => read _ ?_, fun j hj => read _ ?_, read _ (State.deadlineCsr_of hl), read _ budget, read _ spent, read _ corr,
      read _ residue⟩
    · show (s.idAbove ((s.me.rep.asId.map fun i => i.1).getD s.me.launch) 3).setWidth 64 = _
      rw [id, State.idAbove_of hl hj]
    · show (s.idAbove ((s.me.rep.asId.map fun i => i.1).getD s.me.launch) 4).setWidth 64 = _
      rw [id, State.idAbove_of hl hj]
  · obtain ⟨hno, hsome⟩ := s.parkHint_best s.cur.core s.cur.x
    refine ⟨hno, fun h => ?_⟩
    obtain ⟨there, -, -, best⟩ := hsome h
    exact ⟨there, best⟩
  · have hn := n.isLt
    have e : (BitVec.ofNat 11 (0x020 + n.val)).toNat = 0x020 + n.val := by rw [BitVec.toNat_ofNat, Nat.mod_eq_of_lt (by omega)]
    have ne : BitVec.ofNat 11 (0x020 + n.val) ≠ 0x01B#11 := fun h => by
      have := congrArg BitVec.toNat h
      rw [e] at this; simp at this; omega
    show execCsrw t i a _ s = _
    unfold execCsrw
    dsimp only
    rw [if_neg ne, e, if_pos (by omega), Nat.add_sub_cancel_left]
  · rw [Core.apply_clear]
    have new : ((k.modCtx x fun cx => { cx with sticky := cx.sticky.set n (stickyClear cx.sticky[n] w) }).ctx[x]).sticky[n] =
        stickyClear k.ctx[x].sticky[n] w := by simp [Core.modCtx, Core.setCtx]
    obtain ⟨none, rest⟩ := stickyClear_rest k.ctx[x].sticky[n] w
    dsimp only
    rw [new]
    exact ⟨rfl, fun j hj => stickyClear_cause _ _ j hj, none, rest⟩
  · show execCsrw t i a c s = _
    unfold execCsrw
    dsimp only
    rw [if_neg hv, if_neg hs]

end Sys2Proof.Proofs
end

section

/-! ### Retirement performs the window stores of its unit (O51)

RETIRE_COMPLETE performs the stores that the unit still holds, and a store to the debug window acts on the core at once. A
window store of a retiring unit that resumes a neighbour stopped by a fatal fault ends that neighbour's unit, and with it go the
commands of that unit that have not started, also those that wait in the retiring context's own event queues. -/

namespace Sys2Proof.Machine

/-- The command of launch 2, unit 5, that still waits in `eq0` of the retiring context. -/
def retireWitnessCmd : Cmd := { Cmd.zero with launch := 2, unit := 5 }

/-- A drained RETIRING unit of launch 1 that still holds its store of DCTL RESUME for context 1 of its core. -/
def retireWitnessUnit : Ctx :=
  { Ctx.reset with
    st := .retiring, launch := 1, eq := Vector.set Ctx.reset.eq 0 [retireWitnessCmd]
    stores := [⟨0, 0, 3 * 2 ^ 48 + 0x900040, 8, 2⟩] }

/-- Unit 5 of launch 2, stopped by a fatal fault. -/
def retireWitnessStopped : Ctx :=
  { Ctx.reset with st := .frozen, launch := 2, unit := 5, dbg := ⟨true, 4, 0, true⟩ }

/-- The state with the two units on contexts 0 and 1 of core 0. -/
def retireWitness : State :=
  State.reset.setCore 0 ((Core.reset.setCtx 0 retireWitnessUnit).setCtx 1 retireWitnessStopped)

/-- How many entries `eq0` of context 0 holds after RETIRE_COMPLETE of the witness. -/
def retireWitnessLeft : Option Nat :=
  match exec .retireComplete retireWitness with
  | .next u => some (u.ctx 0 0).eq[0].length
  | _ => none

/-- The run: the retiring context's `eq0` is empty afterwards. -/
theorem retireWitnessLeft_eq : retireWitnessLeft = some 0 := by decide +kernel

theorem retireWitness_eq_emptied {u : State} (h : exec .retireComplete retireWitness = .next u) :
    (u.ctx 0 0).eq[0].length = 0 := by
  have hrun := retireWitnessLeft_eq
  rw [retireWitnessLeft, h] at hrun
  exact Option.some.inj hrun

end Sys2Proof.Machine

namespace Sys2Proof.Proofs
open Sys2Proof.Machine

/-- Refutes O51: the window store of a RETIRING unit resumes a neighbour stopped by a fatal fault, which ends, and the
neighbour's unstarted command leaves `eq0` of the retiring context, where the statement keeps every event queue. -/
theorem not_unitsEndTrapOverrunAndMove : ¬ Obligations.UnitsEndTrapOverrunAndMove := by
  unfold Obligations.UnitsEndTrapOverrunAndMove
  intro h
  obtain ⟨hretire, -⟩ := h retireWitness
  obtain ⟨u, hu, -, -, heq, -⟩ := hretire rfl rfl rfl rfl rfl rfl rfl rfl rfl rfl
  have hleft : (u.ctx 0 0).eq[0].length = 0 := retireWitness_eq_emptied hu
  have hkept : (u.ctx 0 0).eq[0].length = 1 := congrArg (fun q => (q[0] : List Cmd).length) heq
  omega

end Sys2Proof.Proofs
end

section

/-! ### Memory and traces stand apart from the rest of the state

A store of a device agent, a trace record and what they bring with them (the poison of lines, release sequences, the correction of
stripes, broken signals) change memory and the trace rings. `State.Aside s t` says that `t` is `s` up to these. -/

namespace Sys2Proof.Machine

/-- The function `v` with the broken signals and the ring state of another. -/
def Vf.aside (v w : Vf) : Vf :=
  { v with broken := w.broken, tr := { v.tr with twr := w.tr.twr, tlost := w.tr.tlost, lost := w.tr.lost } }

/-- The state `s` with the memory, the functions and the trace queues of another. -/
def State.aside (s t : State) : State :=
  { s with
    mem := t.mem, late := t.late, rels := t.rels, poison := t.poison, vfs := t.vfs, traceq := t.traceq, traceLost := t.traceLost
    fenCorrected := t.fenCorrected, fenBad := t.fenBad, fenErr := t.fenErr }

/-- `t` is `s` up to memory and traces. -/
structure State.Aside (s t : State) : Prop where
  eq : t = s.aside t
  vf : ∀ n, t.vf n = (s.vf n).aside (t.vf n)

namespace State.Aside

variable {s t u : State}

theorem refl (s : State) : s.Aside s := ⟨rfl, fun _ => rfl⟩

theorem trans (h : s.Aside t) (k : t.Aside u) : s.Aside u where
  eq := calc
    u = t.aside u := k.eq
    _ = (s.aside t).aside u := congrArg (fun a => State.aside a u) h.eq
    _ = s.aside u := rfl
  vf n := calc
    u.vf n = (t.vf n).aside (u.vf n) := k.vf n
    _ = ((s.vf n).aside (t.vf n)).aside (u.vf n) := congrArg (fun a => Vf.aside a (u.vf n)) (h.vf n)
    _ = (s.vf n).aside (u.vf n) := rfl

theorem of_vfs (h : t = s.aside t) (hv : t.vfs = s.vfs) : s.Aside t := ⟨h, fun n => by unfold State.vf; rw [hv]; rfl⟩

/-- Steps that each leave the rest alone leave it alone together. -/
theorem foldl {α : Type} {f : State → α → State} (h : ∀ a x, State.Aside a (f a x)) (l : List α) (s : State) : s.Aside (l.foldl f s) := by
  induction l generalizing s with
  | nil => exact refl s
  | cons x r ih => exact (h s x).trans (ih _)

theorem cores (h : s.Aside t) : t.cores = s.cores := (congrArg State.cores h.eq :)
theorem launches (h : s.Aside t) : t.launches = s.launches := (congrArg State.launches h.eq :)
theorem snaps (h : s.Aside t) : t.snaps = s.snaps := (congrArg State.snaps h.eq :)
theorem ev (h : s.Aside t) : t.ev = s.ev := (congrArg State.ev h.eq :)
theorem core (h : s.Aside t) (c : Nat) : t.core c = s.core c := congrArg (alGet Core.reset c) h.cores
theorem ctx (h : s.Aside t) (c : Nat) (x : CtxId) : t.ctx c x = s.ctx c x := by rw [State.ctx, h.core]; rfl
theorem launch? (h : s.Aside t) (id : W32) : t.launch? id = s.launch? id := by rw [State.launch?, h.launches]; rfl
theorem dbg (h : s.Aside t) (n : Nat) : (t.vf n).dbg = (s.vf n).dbg := (congrArg Vf.dbg (h.vf n) :)
theorem swr (h : s.Aside t) (n : Nat) : (t.vf n).tr.swr = (s.vf n).tr.swr := (congrArg (fun v => v.tr.swr) (h.vf n) :)
theorem dbgBit (h : s.Aside t) (n : Nat) (id : W32) (b : Nat) : t.dbgBit n id b = s.dbgBit n id b := by
  unfold State.dbgBit State.dbgSlots
  rw [h.dbg, h.dbg]

end State.Aside

/-! #### Writes -/

theorem State.fenAdd_aside (s : State) (n : Nat) : s.Aside (s.fenAdd n) := by
  unfold State.fenAdd
  split
  · exact .refl s
  · exact .of_vfs rfl rfl

theorem State.fenWritten_aside (s : State) (pa n : Nat) : s.Aside (s.fenWritten pa n) := by
  unfold State.fenWritten
  split
  · exact .refl s
  · exact (s.fenAdd_aside _).trans (.of_vfs rfl rfl)

/-- A table of functions whose broken signals are sifted. -/
theorem alGet_sift_broken (keep : Nat → Vf → BitVec 16 → Bool) (l : List (Nat × Vf)) (n : Nat) :
    alGet Vf.reset n (l.map fun p => (p.1, { p.2 with broken := p.2.broken.filter (keep p.1 p.2) })) =
      { alGet Vf.reset n l with broken := (alGet Vf.reset n l).broken.filter (keep n (alGet Vf.reset n l)) } := by
  induction l with
  | nil => rfl
  | cons p r ih =>
    simp only [List.map_cons, alGet]
    split
    · next h => rw [h]
    · exact ih

theorem State.mend_aside (s : State) (pa n : Nat) : s.Aside (s.mend pa n) := by
  unfold State.mend
  split
  · exact .refl s
  · refine ⟨rfl, fun m => ?_⟩
    have sift := alGet_sift_broken (fun j v i =>
      !((s.xlateDirect j (v.cfg.sigBase.toNat + 8 * i.toNat) 8).any fun a => a < pa + n && pa < a + 8)) s.vfs m
    unfold State.vf
    rw [sift]
    rfl

theorem State.write_aside (s : State) (pa n v : Nat) : s.Aside (s.write pa n v) := by
  unfold State.write
  split
  · exact .refl s
  · refine .trans ?_ (State.mend_aside _ pa n)
    refine .trans (t := if region pa = 1 then s.fenWritten pa n else s) ?_ (.of_vfs rfl rfl)
    split
    · exact s.fenWritten_aside pa n
    · exact .refl s

theorem State.settleFirst_aside (s : State) (k : Nat) : s.Aside (s.settleFirst k) :=
  .trans (t := { s with late := s.late.drop k }) (.of_vfs rfl rfl) (.foldl (fun a _ => a.write_aside _ _ _) _ _)

theorem State.settle_aside (s : State) (pa n : Nat) : s.Aside (s.settle pa n) := s.settleFirst_aside _

theorem State.store_aside (s : State) (pa n v : Nat) : s.Aside (s.store pa n v) := (s.settle_aside pa n).trans (State.write_aside _ pa n v)

theorem State.storeVa_aside (s : State) (vf va n v : Nat) : s.Aside (s.storeVa vf va n v) := by
  unfold State.storeVa
  split
  · split
    · exact s.store_aside _ n v
    · exact .refl s
  · exact .refl s

theorem State.putWords_aside (s : State) (vf a : Nat) (l : List W64) : s.Aside (s.putWords vf a l) := by
  induction l generalizing s a with
  | nil => exact .refl s
  | cons w r ih => exact (s.storeVa_aside vf a 8 _).trans (ih _ _)

/-! #### Traces -/

theorem State.vf_setVf_other (s : State) {n m : Nat} (v : Vf) (h : m ≠ n) : (s.setVf n v).vf m = s.vf m := alGet_alSet_other _ _ h _

/-- The ring state of a function set, after memory has been. -/
theorem State.Aside.setVf {s t : State} (h : s.Aside t) {n : Nat} {v : Vf} (hv : v = (s.vf n).aside v) : s.Aside (t.setVf n v) where
  eq := calc
    t.setVf n v = (s.aside t).setVf n v := congrArg (fun a => State.setVf a n v) h.eq
    _ = s.aside (t.setVf n v) := rfl
  vf m := by
    by_cases hm : m = n
    · subst hm
      rw [State.vf_setVf]
      exact hv
    · rw [State.vf_setVf_other _ _ hm]
      exact h.vf m

theorem State.traceOut_aside (s : State) (e : Traced) : s.Aside (s.traceOut e) := by
  unfold State.traceOut
  dsimp only
  split
  · exact .refl s
  · split
    · exact (Aside.refl s).setVf rfl
    · have h := s.storeVa_aside e.vf ((s.vf e.vf).tr.tbase.toNat + (s.vf e.vf).tr.twr.toNat % 2 ^ (s.vf e.vf).tr.tlog2.toNat) 32
        (e.rec_.bytes e.vf e.time (e.lost || (s.vf e.vf).tr.lost.contains e.rec_.source))
      refine h.setVf ?_
      rw [h.vf]
      rfl

theorem State.trace_aside (s : State) (vf : Nat) (r : TraceRec) : s.Aside (s.trace vf r) := by
  unfold State.trace
  dsimp only
  split
  · exact .refl s
  · split
    · refine .trans (t := { s with traceLost := s.traceLost.filter fun q => q != r.source }) (.of_vfs rfl rfl) ?_
      exact State.traceOut_aside _ _
    · split
      · refine Aside.setVf (t := { s with traceLost := r.source :: s.traceLost.filter fun q => q != r.source }) (.of_vfs rfl rfl) rfl
      · exact .of_vfs rfl rfl

theorem State.traceCtx_aside (s : State) (c : Nat) (x : CtxId) (type eng sub : Nat) (o : Org) (payload : Nat) :
    s.Aside (s.traceCtx c x type eng sub o payload) := s.trace_aside _ _

theorem State.traceFor_aside (s : State) (c : Nat) (x : CtxId) (launch : W32) (type eng sub : Nat) (o : Org) (payload : Nat) :
    s.Aside (s.traceFor c x launch type eng sub o payload) := by
  unfold State.traceFor
  split
  · exact s.trace_aside _ _
  · exact .refl s

end Sys2Proof.Machine
end

section

/-! ### The debugger's rows (O57) -/

namespace Sys2Proof.Machine

/-! #### Stops and resumes -/

/-- The context as a debug stop leaves it (R379). -/
def Ctx.stopFor (cx : Ctx) (why arg : Nat) : Ctx :=
  { (cx.freeze.setTrap (if why = 2 then 0 else 15) (if why = 2 then arg else 0) 0x05 cx.next) with
    st := .frozen
    dbg := { cx.dbg with stopped := true, why := BitVec.ofNat 4 why, arg := BitVec.ofNat 16 arg, fatal := false }
    pendEv := { cx.pendEv with halt := false, haltAll := false, bkpt := none, stepStop := false } }

theorem State.debugStop_aside (s : State) (c : Nat) (x : CtxId) (why arg : Nat) :
    ((s.release c x).modCtx c x fun cx => cx.stopFor why arg).Aside (s.debugStop c x why arg) :=
  State.traceCtx_aside _ _ _ _ _ _ _ _

theorem State.ctx_debugStop (s : State) (c : Nat) (x : CtxId) (why arg : Nat) :
    (s.debugStop c x why arg).ctx c x = (s.ctx c x).stopFor why arg := by
  rw [(s.debugStop_aside c x why arg).ctx, State.ctx_modCtx, State.ctx_release]

theorem State.cur_debugStop (s : State) (c : Nat) (x : CtxId) (why arg : Nat) : ((s.debugStop c x why arg).core c).cur ≠ some x := by
  rw [(s.debugStop_aside c x why arg).core, State.cur_modCtx]
  exact s.cur_release c x

/-- Which breakpoint a context meets does not change with its pending events, as long as they let it meet one. -/
theorem State.breakAt_modCtx (s : State) (c : Nat) (x : CtxId) (p : Pending) (hskip : p.skipBp = (s.ctx c x).pendEv.skipBp)
    (heret : p.eret = (s.ctx c x).pendEv.eret) : (s.modCtx c x fun k => { k with pendEv := p }).breakAt c x = s.breakAt c x := by
  unfold State.breakAt
  rw [State.ctx_modCtx]
  dsimp only
  rw [hskip, heret]
  rfl

/-- HALT of a live context with no event pending and no breakpoint at hand is a debug stop with WHY 0. -/
theorem State.haltCtx_eq {s : State} {c : Nat} {x : CtxId} (hstop : (s.ctx c x).dbg.stopped = false) (hlive : (s.ctx c x).st.live = true)
    (hpend : (s.ctx c x).pendEv = Pending.none) (hbreak : s.breakAt c x = none) :
    s.haltCtx c x false = (s.modCtx c x fun k => { k with pendEv := { Pending.none with halt := true } }).debugStop c x 0 0 := by
  have hbreak' : (s.modCtx c x fun k => { k with pendEv := { Pending.none with halt := true } }).breakAt c x = none := by
    rw [State.breakAt_modCtx _ _ _ _ (by rw [hpend]) (by rw [hpend]), hbreak]
  have hs : (s.modCtx c x fun k => { k with pendEv := if false then { k.pendEv with haltAll := true } else { k.pendEv with halt := true } }) =
      s.modCtx c x fun k => { k with pendEv := { Pending.none with halt := true } } := by
    simp only [State.modCtx, hpend]
    rfl
  unfold State.haltCtx
  dsimp only
  rw [hs, hstop, hlive]
  unfold State.boundary State.stopAt
  dsimp only
  rw [hbreak', State.ctx_modCtx]
  dsimp only
  rw [hlive]
  rfl

/-- A resume leaves nothing to take at the boundary it restarts from. -/
theorem State.boundary_resumed {s : State} {c : Nat} {x : CtxId} {step : Bool}
    (hpend : (s.ctx c x).pendEv = { Pending.none with skipBp := true, stepStop := step }) (hrep : (s.ctx c x).rep.replaying = false) :
    s.boundary c x = s := by
  have hbreak : s.breakAt c x = none := by
    unfold State.breakAt
    dsimp only
    rw [hpend]
    rfl
  have hdrain : s.drained c x = s := by
    unfold State.drained
    rw [hrep]
    rfl
  have hstray : s.strays c x = false := by
    unfold State.strays State.nextEntry State.entryAt
    dsimp only
    rw [hrep]
    rfl
  have hstop : s.stopAt c x = none := by
    unfold State.stopAt
    dsimp only
    rw [hbreak, hpend]
    cases step <;> rfl
  unfold State.boundary
  dsimp only
  rw [hstop, hdrain, hstray, hpend, hrep]
  simp [Pending.none]

/-- The context as a resume leaves it. -/
def Ctx.resumed (cx : Ctx) (step : Bool) : Ctx :=
  { cx with
    st := .ready, wait := cx.wait.kept, readyWait := 0, dbg := { cx.dbg with stopped := false }
    pendEv := { Pending.none with skipBp := true, stepStop := step } }

theorem State.resumeCtx_eq {s : State} {c : Nat} {x : CtxId} (step : Bool) (hstop : (s.ctx c x).dbg.stopped = true)
    (hfatal : (s.ctx c x).dbg.fatal = false) (hpend : (s.ctx c x).pendEv = Pending.none) (hrep : (s.ctx c x).rep.replaying = false)
    (halign : (s.ctx c x).pc.toNat % 4 = 0) (hseg : ((s.ctx c x).segOf (s.ctx c x).pc).isSome = true) :
    s.resumeCtx c x step = s.setCtx c x ((s.ctx c x).resumed step) := by
  have hs : (s.modCtx c x fun k => { k with
      st := .ready, wait := k.wait.kept, readyWait := 0, dbg := { k.dbg with stopped := false }
      pendEv := { k.pendEv with skipBp := true, stepStop := step } }) = s.setCtx c x ((s.ctx c x).resumed step) := by
    simp only [State.modCtx, hpend]
    rfl
  have hquiet : (s.setCtx c x ((s.ctx c x).resumed step)).boundary c x = s.setCtx c x ((s.ctx c x).resumed step) :=
    State.boundary_resumed (step := step) (by rw [State.ctx_setCtx]; rfl) (by rw [State.ctx_setCtx]; exact hrep)
  unfold State.resumeCtx
  dsimp only
  rw [hs, hquiet, hstop, hfatal, if_neg (by simp), if_neg (by simp)]
  split
  · rfl
  · rw [if_neg (by omega), if_neg (by rw [Option.isNone_iff_eq_none]; exact fun h => by rw [h] at hseg; cases hseg)]

/-! #### Checkpoints -/

/-- What a SNAP keeps of a context beside the words it writes. -/
def State.snapOf (s : State) (c : Nat) (x : CtxId) : Snap :=
  let cx := s.ctx c x
  let k := s.core c
  let frame := (List.range 23684).map fun i => cx.frameWord k (k.grantMask x) (8 * i)
  let banks := (k.granted x).flatMap k.bankWords
  let tiles := s.nameable c x
  let image := tiles.flatMap fun p => p.2.word (k.retained p.2) :: (List.range (p.2.size / 8)).map fun i => fld p.2.data (64 * i) 64
  let head : List W64 := [64, 189472, 64 + 0x2E440, 864, 64 + 0x2E440 + 896, 8 * banks.length, 64 + 0x2E440 + 896 + 8 * banks.length,
    8 * image.length].map (BitVec.ofNat 64)
  ⟨cx.vf, k.snapaddr[x] &&& 0xFFFFFFFFFFFFF000#64, head ++ frame.take 32, x, s.frameFor c x, tiles⟩

theorem State.startLog_snaps (s : State) (c : Nat) (x : CtxId) : (s.startLog c x).snaps = s.snaps := by
  unfold State.startLog
  dsimp only
  split
  · rfl
  · split
    · rfl
    · rw [(State.storeVa_aside _ _ _ _ _).snaps, (State.storeVa_aside _ _ _ _ _).snaps, (State.storeVa_aside _ _ _ _ _).snaps]
      rfl

theorem State.snapCtx_snaps {s : State} {c : Nat} {x : CtxId} (h : (s.ctx c x).dbg.stopped = true) :
    (s.snapCtx c x).snaps = s.snaps ++ [s.snapOf c x] := by
  unfold State.snapCtx
  dsimp only
  rw [h, if_neg (by simp), State.startLog_snaps]
  dsimp only
  rw [(State.putWords_aside _ _ _ _).snaps, (State.putWords_aside _ _ _ _).snaps, (State.putWords_aside _ _ _ _).snaps,
    (State.putWords_aside _ _ _ _).snaps, (State.putWords_aside _ _ _ _).snaps]
  rfl

/-! #### Live state -/

theorem Ctx.frameWrite_sreg (cx : Ctx) (r : BitVec 5) (v : W64) : cx.frameWrite (0x100 + 8 * r.toNat) v = cx.setS r v := by
  have hr := r.isLt
  unfold Ctx.frameWrite
  dsimp only
  rw [if_pos (by omega)]
  congr 1
  apply BitVec.eq_of_toNat_eq
  rw [BitVec.toNat_ofNat]
  omega

/-- A clear keeps the bits of the record that it does not name. -/
theorem stickyClear_eq_and (r v : W64) :
    stickyClear r v = if stickyLeft r v = 0 then 0 else r &&& ~~~((fld v 0 12 : BitVec 12).setWidth 64) := by
  rw [stickyClear_eq]
  congr 1
  ext j hj
  rw [← BitVec.getLsbD_eq_getElem, putBits_getLsbD r 0 12 (stickyLeft r v) j hj]
  split
  · next h =>
    rw [Nat.sub_zero, stickyLeft_getLsbD r v j (by omega)]
    simp [fld, hj, show j < 12 by omega]
  · next h => simp [fld, hj, show ¬ j < 12 by omega]

theorem Ctx.frameWrite_sticky (cx : Ctx) (i : Fin 8) (v : W64) :
    cx.frameWrite (0x740 + 8 * i.val) v = { cx with sticky := cx.sticky.set i (stickyClear cx.sticky[i] v) } := by
  have hi := i.isLt
  unfold Ctx.frameWrite
  dsimp only
  repeat rw [if_neg (by omega)]
  rw [if_pos (by omega), show (0x740 + 8 * i.val - 0x740) / 8 = i.val by omega]
  congr 1
  ext j hj
  rw [vmapI_getElem, Vector.getElem_set]
  by_cases h : j = i.val
  · subst h; simp
  · simp [h, Ne.symm h]

/-! #### Debug slots -/

theorem vmapI_ite_eq_set_map {α : Type} {n : Nat} (v : Vector α n) (i : Nat) (h : i < n) (f : α → α) :
    vmapI (fun m l => if m = i then f l else l) v = v.set i (f v[i]) := by
  ext j hj
  rw [vmapI_getElem, Vector.getElem_set]
  by_cases e : i = j
  · subst e; simp
  · simp [e, Ne.symm e]

theorem State.slotWrite_bp (s : State) (vf d : Nat) (hd : d < 16) (i : Fin 8) (v : W64) :
    s.slotWrite vf d (0x100 + 16 * i.val) v =
      let old := alGet DbgSlot.reset d (s.vf vf).dbg
      s.setVf vf { s.vf vf with dbg := alSet d { old with bps := old.bps.set i { old.bps[i] with w0 := v } } (s.vf vf).dbg } := by
  have hi := i.isLt
  unfold State.slotWrite
  dsimp only
  rw [if_neg (by omega), if_neg (by omega), if_neg (by omega), if_neg (by omega), if_pos (by omega),
    show (0x100 + 16 * i.val - 0x100) / 16 = i.val by omega, show (0x100 + 16 * i.val) % 16 = 0 by omega]
  simp only [if_true]
  have hset := vmapI_ite_eq_set_map (alGet DbgSlot.reset d (s.vf vf).dbg).bps i.val hi fun b => { b with w0 := v }
  rw [hset]
  rfl

/-- A write of word 0 of a slot without HALTALL stops no unit. -/
theorem State.slotWrite_w0 (s : State) (vf d : Nat) (hd : d < 16) (v : W64) (h : v.getLsbD 2 = false) :
    s.slotWrite vf d 0 v =
      let old := alGet DbgSlot.reset d (s.vf vf).dbg
      s.setVf vf { s.vf vf with dbg := alSet d { old with w0 := v &&& 0xFFFFFFFF0000001D#64 } (s.vf vf).dbg } := by
  have h2 : (v &&& 0xFFFFFFFF0000001D#64).getLsbD 2 = false := by rw [BitVec.getLsbD_and, h, Bool.false_and]
  unfold State.slotWrite
  dsimp only
  rw [if_neg (by omega), if_pos rfl, h2]
  rfl

theorem State.slotWrite_logbase (s : State) (vf d : Nat) (hd : d < 16) (v : W64) :
    s.slotWrite vf d 8 v =
      s.setVf vf { s.vf vf with dbg := alSet d { alGet DbgSlot.reset d (s.vf vf).dbg with logbase := v } (s.vf vf).dbg } := by
  unfold State.slotWrite
  dsimp only
  rw [if_neg (by omega)]
  rfl

theorem State.slotWrite_loglog2 (s : State) (vf d : Nat) (hd : d < 16) (v : W64) :
    s.slotWrite vf d 16 v =
      s.setVf vf { s.vf vf with dbg := alSet d { alGet DbgSlot.reset d (s.vf vf).dbg with loglog2 := fld v 0 6 } (s.vf vf).dbg } := by
  unfold State.slotWrite
  dsimp only
  rw [if_neg (by omega)]
  rfl

/-! #### Trace and samples -/

/-- TEN written as 1 starts the ring afresh, unless it was on (R385). -/
theorem TraceRegs.write_ten (t : TraceRegs) (v : W64) : let n := t.write 8 (v ||| 0x200)
    n.ten = true ∧ n.wrap = v.getLsbD 8 ∧ n.tlog2 = fld v 0 6 ∧ (t.ten = false → n.twr = 0 ∧ n.trd = 0 ∧ n.tlost = 0) := by
  have h9 : (v ||| 0x200).getLsbD 9 = true := by rw [BitVec.getLsbD_or]; simp
  have h8 : (v ||| 0x200).getLsbD 8 = v.getLsbD 8 := by rw [BitVec.getLsbD_or]; simp
  have h6 : fld (v ||| 0x200) 0 6 = fld v 0 6 := by
    ext j hj
    have hlow : (0x200 : W64).getLsbD j = false := by interval_cases j <;> rfl
    rw [← BitVec.getLsbD_eq_getElem, ← BitVec.getLsbD_eq_getElem, fld, fld, BitVec.getLsbD_extractLsb', BitVec.getLsbD_extractLsb',
      Nat.zero_add, BitVec.getLsbD_or, hlow, Bool.or_false]
  have hw : t.write 8 (v ||| 0x200) = let n : TraceRegs := { t with
      ten := (v ||| 0x200).getLsbD 9, wrap := (v ||| 0x200).getLsbD 8, tlog2 := fld (v ||| 0x200) 0 6 }
    if (v ||| 0x200).getLsbD 9 && !t.ten then { n with twr := 0, trd := 0, tlost := 0 } else n := rfl
  rw [h9, h8, h6] at hw
  dsimp only
  rw [hw]
  cases t.ten <;> simp

/-- Memory once a sample of a context has been written. -/
def State.sampleWritten (s : State) (vf c : Nat) (x : CtxId) : State :=
  let t := (s.vf vf).tr
  let cx := s.ctx c x
  let words : List Nat := (List.range 108).map fun i => (cx.frameWord (s.core c) 0 (0x2E440 + 8 * i)).toNat
  let put (a : State) (o n v : Nat) : State := a.storeVa vf (t.sbase.toNat + (t.swr.toNat + o) % 2 ^ t.slog2.toNat) n v
  (words.mapIdx fun i w => (i, w)).foldl (fun a p => put a (32 + 8 * p.1) 8 p.2)
    (put s 0 32 ((s.sampleRec c x).bytes vf (s.vfNow vf).toNat false))

theorem State.sampleWritten_aside (s : State) (vf c : Nat) (x : CtxId) : s.Aside (s.sampleWritten vf c x) :=
  (s.storeVa_aside _ _ _ _).trans (.foldl (fun a _ => a.storeVa_aside _ _ _ _) _ _)

/-- A sample writes its record and counters, moves SWR and is traced. -/
theorem State.sampleCtx_eq (s : State) (vf c : Nat) (x : CtxId) : s.sampleCtx vf c x =
    ((s.sampleWritten vf c x).modVf vf fun v => { v with tr := { v.tr with swr := v.tr.swr + 896 } }).trace vf (s.sampleRec c x) := rfl

theorem State.sampleCtx_cores (s : State) (vf c : Nat) (x : CtxId) : (s.sampleCtx vf c x).cores = s.cores := by
  rw [s.sampleCtx_eq, (State.trace_aside _ _ _).cores, State.modVf_cores, (s.sampleWritten_aside vf c x).cores]

theorem State.sampleCtx_swr (s : State) (vf c : Nat) (x : CtxId) : ((s.sampleCtx vf c x).vf vf).tr.swr = (s.vf vf).tr.swr + 896 := by
  rw [s.sampleCtx_eq, (State.trace_aside _ _ _).swr, State.vf_modVf]
  dsimp only
  rw [(s.sampleWritten_aside vf c x).swr vf]

/-! #### Replay requests -/

theorem State.launch?_modLaunch_self (s : State) (id : W32) (f : Launch → Launch) (hf : ∀ l, (f l).id = l.id) :
    (s.modLaunch id f).launch? id = (s.launch? id).map f := by
  unfold State.launch? State.modLaunch
  induction s.launches with
  | nil => rfl
  | cons l r ih =>
    simp only [List.map_cons, List.find?_cons]
    by_cases h : l.id = id
    · simp [h, hf]
    · have hb : (l.id == id) = false := beq_eq_false_iff_ne.mpr h
      simpa [h, hb] using ih

theorem State.launch?_id {s : State} {id : W32} {l : Launch} (h : s.launch? id = some l) : l.id = id := by
  simpa using List.find?_some h

/-- A saved front operation accepted again (R258). -/
def State.frontAgain (s : State) (c : Nat) (x : CtxId) (f : FOp) : State :=
  match frontOf f.bank with
  | some i => s.modCore c fun k =>
    { k with seqCtr := k.seqCtr + 1, fq := k.fq.set i (k.fq[i] ++ [{ f with x := x, seq := k.seqCtr, after := k.cyc + 1 }]) }
  | none => s

theorem State.frontAgain_kept (s : State) (c : Nat) (x : CtxId) (f : FOp) : (s.frontAgain c x f).ctx c x = s.ctx c x ∧
    (s.frontAgain c x f).launches = s.launches ∧ (s.frontAgain c x f).vfs = s.vfs := by
  unfold State.frontAgain
  split
  · refine ⟨?_, rfl, rfl⟩
    rw [State.ctx, State.core_modCore]
    rfl
  · exact ⟨rfl, rfl, rfl⟩

theorem State.frontAgain_all_kept (c : Nat) (x : CtxId) (l : List FOp) (s : State) :
    (l.foldl (fun a f => a.frontAgain c x f) s).ctx c x = s.ctx c x ∧ (l.foldl (fun a f => a.frontAgain c x f) s).launches = s.launches ∧
      (l.foldl (fun a f => a.frontAgain c x f) s).vfs = s.vfs := by
  induction l generalizing s with
  | nil => exact ⟨rfl, rfl, rfl⟩
  | cons f r ih =>
    obtain ⟨hctx, hlaunches, hvfs⟩ := s.frontAgain_kept c x f
    obtain ⟨hctx', hlaunches', hvfs'⟩ := ih (s.frontAgain c x f)
    exact ⟨hctx'.trans hctx, hlaunches'.trans hlaunches, hvfs'.trans hvfs⟩

/-- Accepting saved front operations again touches no context but the unit's own list of them. -/
theorem State.readmitFront_eq (s : State) (c : Nat) (x : CtxId) : (s.readmitFront c x).ctx c x = { s.ctx c x with savedF := [] } ∧
    (s.readmitFront c x).launches = s.launches ∧ (s.readmitFront c x).vfs = s.vfs := by
  obtain ⟨hctx, hlaunches, hvfs⟩ := State.frontAgain_all_kept c x (s.ctx c x).savedF s
  have he : s.readmitFront c x = ((s.ctx c x).savedF.foldl (fun a f => a.frontAgain c x f) s).modCtx c x fun cx => { cx with savedF := [] } := rfl
  rw [he, State.ctx_modCtx, hctx]
  exact ⟨rfl, hlaunches, hvfs⟩

/-- Accepting a saved matrix operation again takes it from the list of its context, and changes no other field of a context. -/
theorem State.readmit_eq (s : State) (c : Nat) : (∀ x, ∃ l, (s.readmit c).ctx c x = { s.ctx c x with saved := l }) ∧
    (s.readmit c).launches = s.launches ∧ (s.readmit c).vfs = s.vfs := by
  unfold State.readmit
  dsimp only
  split
  · exact ⟨fun x => ⟨_, rfl⟩, rfl, rfl⟩
  · split
    · exact ⟨fun x => ⟨_, rfl⟩, rfl, rfl⟩
    · split
      · exact ⟨fun x => ⟨_, rfl⟩, rfl, rfl⟩
      · next y _ _ m r _ =>
        refine ⟨fun x => ?_, rfl, rfl⟩
        rw [State.ctx, State.core_modCore]
        show ∃ l, ((s.modCtx c y fun cx => { cx with saved := r }).ctx c x) = _
        by_cases h : x = y
        · subst h
          rw [State.ctx_modCtx]
          exact ⟨r, rfl⟩
        · rw [State.ctx_modCtx_other _ _ (.inr h)]
          exact ⟨_, rfl⟩

/-- The core that takes up a checkpoint, with the launch's routines installed where it has none of the launch's units. -/
def State.replayCore (s : State) (c : Nat) (x : CtxId) (p : Snap) (l : Launch) (k : Core) : Core :=
  let k1 := if s.launchOn c l.id then k else (k.installAll l.id (s.imageRoutines l.vf l.image.toNat)).getD k
  (k1.putBanks x p.frame).setCtx x (p.ctxFor s c x l k1.ctx[x])

/-- The state with the checkpoint's unit placed on its context and counted, before its saved operations are accepted again. -/
def State.replayPlaced (s : State) (c : Nat) (x : CtxId) (p : Snap) (l : Launch) : State :=
  (((s.modCore c (s.replayCore c x p l)).modLaunch l.id fun k => { k with placed := k.placed + 1 }).traceCtx c x 0x03 7 1 p.frame.ctx.next
    (l.placed * 2 ^ 32 + l.id.toNat))

theorem State.replayPlaced_aside (s : State) (c : Nat) (x : CtxId) (p : Snap) (l : Launch) :
    ((s.modCore c (s.replayCore c x p l)).modLaunch l.id fun k => { k with placed := k.placed + 1 }).Aside (s.replayPlaced c x p l) :=
  State.traceCtx_aside _ _ _ _ _ _ _ _

theorem State.replayPlaced_ctx (s : State) (c : Nat) (x : CtxId) (p : Snap) (l : Launch) :
    ∃ old, (s.replayPlaced c x p l).ctx c x = p.ctxFor s c x l old := by
  rw [(s.replayPlaced_aside c x p l).ctx]
  show ∃ old, (s.modCore c (s.replayCore c x p l)).ctx c x = _
  rw [State.ctx, State.core_modCore]
  exact ⟨_, Vector.getElem_set_self _⟩

theorem State.replayPlaced_launch {s : State} {i : W32} {l : Launch} (hl : s.launch? i = some l) (c : Nat) (x : CtxId) (p : Snap) :
    (s.replayPlaced c x p l).launch? i = some { l with placed := l.placed + 1 } := by
  obtain rfl := State.launch?_id hl
  rw [(s.replayPlaced_aside c x p l).launch?]
  refine (State.launch?_modLaunch_self _ l.id (fun k => { k with placed := k.placed + 1 }) fun _ => rfl).trans ?_
  show (s.launch? l.id).map _ = _
  rw [hl]
  rfl

theorem execReplayRequest_eq {s : State} {p : Snap} {l : Launch} {y : CtxId} (hp : s.snapAt s.ev.vf s.ev.v = some p)
    (hl : s.launch? s.ev.l = some l) (hy : allCtx.find? (fun z => decide ((s.ctx s.ev.c z).st = .free)) = some y) (hbg : l.bg = true)
    (hvf : l.vf = s.ev.vf) (hpend : l.pending = true) (hroom : s.roomOn s.ev.c 1 p.frame.ctx.quota.toNat p.frame.mask [] = true) :
    execReplayRequest s =
      .next (((((s.replayPlaced s.ev.c y p l).readmitFront s.ev.c y).readmit s.ev.c)).settings s.ev.c y l false) := by
  unfold execReplayRequest
  dsimp only
  rw [hp, hl, hy]
  dsimp only
  rw [hbg, hpend, hroom, if_neg (by simp [hvf])]
  rfl

/-- Settings of a unit that is not newly placed stop it only where a slot of its launch has HALTALL. -/
theorem State.settings_resumed {s : State} {c : Nat} {x : CtxId} {l : Launch} (h : s.dbgBit l.vf l.id 2 = false) :
    s.settings c x l false = s := by
  unfold State.settings
  dsimp only
  rw [Bool.and_false, Bool.false_and, Bool.false_and]
  simp only [Bool.false_eq_true, if_false]
  rw [if_neg (by simp [h])]

theorem execSample_one {s : State} {p : Nat × CtxId} (hper : (s.vf s.ev.vf).tr.sper ≠ 0) (hlo : 12 ≤ (s.vf s.ev.vf).tr.slog2.toNat)
    (hhi : (s.vf s.ev.vf).tr.slog2.toNat ≤ 40) (hone : (s.units.filter fun p => decide ((s.ctx p.1 p.2).vf = s.ev.vf)) = [p]) :
    execSample s = .next (s.sampleCtx s.ev.vf p.1 p.2) := by
  have hon : ((s.vf s.ev.vf).tr.sper = 0 || decide ((s.vf s.ev.vf).tr.slog2.toNat < 12) || decide (40 < (s.vf s.ev.vf).tr.slog2.toNat)) = false := by
    rw [Bool.or_eq_false_iff, Bool.or_eq_false_iff]
    exact ⟨⟨decide_eq_false hper, decide_eq_false (by omega)⟩, decide_eq_false (by omega)⟩
  unfold execSample
  dsimp only
  rw [hon, hone, if_neg (by simp), List.foldl_cons, List.foldl_nil]

end Sys2Proof.Machine

namespace Sys2Proof.Proofs
open Sys2Proof.Machine

/-- Settles O57: each row is an equation or a frame of the debugger's operation that it performs. -/
theorem debuggerRowsActOnTheirContext : Obligations.DebuggerRowsActOnTheirContext := by
  unfold Obligations.DebuggerRowsActOnTheirContext
  intro s
  refine ⟨fun hq => ⟨fun hn => ?_, fun hn => ?_, fun hn h2 => ?_, fun i hn => ?_⟩, fun hstop hlive hpend hbreak => ?_,
    fun hstop hfatal hpend hrep halign hseg => ?_, fun hstop => ?_, fun hstop => ⟨fun hf => ?_, fun r hf hn => ?_, fun i hf hn => ?_⟩,
    fun hstop => ?_, ?_, fun hper => ?_, fun p hper hlo hhi hone => ?_, fun p l y hp hl hy hbg hvf hpend hroom hbit => ?_, rfl⟩
  · show execDebugSlotWrite s = _
    rw [execDebugSlotWrite, hn, State.slotWrite_logbase _ _ _ hq]
  · show execDebugSlotWrite s = _
    rw [execDebugSlotWrite, hn, State.slotWrite_loglog2 _ _ _ hq]
  · show execDebugSlotWrite s = _
    rw [execDebugSlotWrite, hn, State.slotWrite_w0 _ _ _ hq _ h2]
  · show execDebugSlotWrite s = _
    rw [execDebugSlotWrite, hn, State.slotWrite_bp _ _ _ hq]
  · refine ⟨_, rfl, ?_⟩
    rw [State.haltCtx_eq hstop hlive hpend hbreak, State.ctx_debugStop, State.ctx_modCtx]
    exact ⟨rfl, rfl, rfl, rfl, rfl, rfl, rfl, rfl, State.cur_debugStop _ _ _ _ _⟩
  · constructor
    · show execResume s = _
      rw [execResume, State.resumeCtx_eq false hstop hfatal hpend hrep halign hseg]
      rfl
    · show execDctlStep s = _
      rw [execDctlStep, State.resumeCtx_eq true hstop hfatal hpend hrep halign hseg]
      rfl
  · exact ⟨_, s.snapOf s.ev.c s.ev.x, rfl, State.snapCtx_snaps hstop, rfl, rfl, rfl, rfl⟩
  · show execLiveStateWrite s = _
    unfold execLiveStateWrite
    dsimp only
    rw [hstop, hf]
    rfl
  · show execLiveStateWrite s = _
    unfold execLiveStateWrite
    dsimp only
    rw [hstop, hf, hn, ← Ctx.frameWrite_sreg]
    rfl
  · show execLiveStateWrite s = _
    unfold execLiveStateWrite
    dsimp only
    rw [hstop, hf, hn, State.modCtx, if_neg (by simp), if_neg (by simp), Ctx.frameWrite_sticky, stickyClear_eq_and]
    rfl
  · show execLiveStateWrite s = _
    unfold execLiveStateWrite
    dsimp only
    rw [hstop]
    rfl
  · obtain ⟨hten, hwrap, hlog, hzero⟩ := (s.vf s.ev.vf).tr.write_ten s.ev.v
    have htr : ((s.modVf s.ev.vf fun k => { k with tr := k.tr.write 8 (s.ev.v ||| 0x200) }).vf s.ev.vf).tr =
        (s.vf s.ev.vf).tr.write 8 (s.ev.v ||| 0x200) := by rw [State.vf_modVf]
    refine ⟨_, rfl, ?_, ?_⟩
    · rw [htr]; rfl
    · rw [htr]; exact ⟨hten, hwrap, hlog, hzero⟩
  · show execSample s = _
    unfold execSample
    dsimp only
    rw [hper]
    rfl
  · refine ⟨s.sampleCtx s.ev.vf p.1 p.2, ?_, s.sampleCtx_swr _ _ _, s.sampleCtx_cores _ _ _⟩
    exact execSample_one hper hlo hhi hone
  · obtain ⟨old, hctx⟩ := s.replayPlaced_ctx s.ev.c y p l
    obtain ⟨hfront, hfl, hfv⟩ := (s.replayPlaced s.ev.c y p l).readmitFront_eq s.ev.c y
    obtain ⟨hsaved, hrl, hrv⟩ := ((s.replayPlaced s.ev.c y p l).readmitFront s.ev.c y).readmit_eq s.ev.c
    obtain ⟨saved, hfinal⟩ := hsaved y
    rw [hfront, hctx] at hfinal
    have hset : (((s.replayPlaced s.ev.c y p l).readmitFront s.ev.c y).readmit s.ev.c).dbgBit l.vf l.id 2 = false := by
      unfold State.dbgBit State.dbgSlots State.vf
      rw [hrv, hfv]
      exact ((s.replayPlaced_aside s.ev.c y p l).dbgBit l.vf l.id 2).trans hbit
    have hlaunch : ((((s.replayPlaced s.ev.c y p l).readmitFront s.ev.c y).readmit s.ev.c).launch? s.ev.l) =
        some { l with placed := l.placed + 1 } := by
      unfold State.launch?
      rw [hrl, hfl]
      exact State.replayPlaced_launch hl s.ev.c y p
    refine ⟨_, (execReplayRequest_eq hp hl hy hbg hvf hpend hroom).trans (by rw [State.settings_resumed hset]), ?_⟩
    rw [hfinal, hlaunch]
    exact ⟨rfl, rfl, rfl, rfl, rfl, rfl, rfl, rfl, rfl, rfl⟩

end Sys2Proof.Proofs
end

section

/-! ### What the end of units and the management window leave of a launch

Resumes, stops and writes to the management window may end units. `State.Kept s t` says that the launches of `t` are those of `s`, in
their order, up to what the device counts of them (of the units that are done there are never fewer), and that the
event at hand is the same. -/

namespace Sys2Proof.Machine

/-- A launch up to its counts, its cause and its lateness. -/
structure Launch.Kept (k n : Launch) : Prop where
  eq : n = { k with
    spent := n.spent, residue := n.residue, late := n.late, doneUnits := n.doneUnits, cause := n.cause, parkUsed := n.parkUsed, doneAt := n.doneAt }
  done : k.doneUnits ≤ n.doneUnits

theorem Launch.Kept.refl (k : Launch) : k.Kept k := ⟨rfl, Nat.le_refl _⟩

theorem Launch.Kept.trans {k l n : Launch} (h : k.Kept l) (g : l.Kept n) : k.Kept n := by
  obtain ⟨heq, hdone⟩ := h
  obtain ⟨geq, gdone⟩ := g
  refine ⟨?_, Nat.le_trans hdone gdone⟩
  rw [geq, heq]

theorem Launch.Kept.id {k n : Launch} (h : k.Kept n) : n.id = k.id := (congrArg Launch.id h.eq :)
theorem Launch.Kept.stage {k n : Launch} (h : k.Kept n) : n.stage = k.stage := (congrArg Launch.stage h.eq :)
theorem Launch.Kept.source {k n : Launch} (h : k.Kept n) : n.source = k.source := (congrArg Launch.source h.eq :)
theorem Launch.Kept.placed {k n : Launch} (h : k.Kept n) : n.placed = k.placed := (congrArg Launch.placed h.eq :)

theorem Launch.Kept.allDone {k n : Launch} (h : k.Kept n) (hk : k.allDone = true) : n.allDone = true := by
  have hleft : n.left = k.left := (congrArg Launch.left h.eq :)
  simp only [Launch.allDone, Bool.and_eq_true, decide_eq_true_eq] at hk ⊢
  rw [hleft, h.placed]
  exact ⟨hk.1, Nat.le_trans hk.2 h.done⟩

theorem Launch.kept_all_trans {a b c : List Launch} (h : List.Forall₂ Launch.Kept a b) (g : List.Forall₂ Launch.Kept b c) :
    List.Forall₂ Launch.Kept a c := by
  induction h generalizing c with
  | nil => exact g
  | cons hk _ ih =>
    cases g with
    | cons gk gr => exact .cons (hk.trans gk) (ih gr)

theorem Launch.kept_find {a b : List Launch} (h : List.Forall₂ Launch.Kept a b) {i : W32} {l : Launch}
    (hl : a.find? (fun l => l.id == i) = some l) : ∃ n, b.find? (fun l => l.id == i) = some n ∧ l.Kept n := by
  induction h with
  | nil => cases hl
  | @cons k n _ _ hk _ ih =>
    rw [List.find?_cons] at hl ⊢
    rw [hk.id]
    split at hl
    · cases hl
      exact ⟨n, rfl, hk⟩
    · exact ih hl

/-- The launches of a state are kept in another, at the same event. -/
structure State.Kept (s t : State) : Prop where
  launches : List.Forall₂ Launch.Kept s.launches t.launches
  ev : t.ev = s.ev

namespace State.Kept

variable {s t u : State}

theorem of_launches (h : t.launches = s.launches) (he : t.ev = s.ev := by rfl) : s.Kept t where
  launches := by
    rw [h]
    exact List.forall₂_same.mpr fun k _ => .refl k
  ev := he

theorem refl (s : State) : s.Kept s := of_launches rfl

theorem trans (h : s.Kept t) (g : t.Kept u) : s.Kept u := ⟨Launch.kept_all_trans h.launches g.launches, g.ev.trans h.ev⟩

theorem aside (h : s.Aside t) : s.Kept t := of_launches h.launches h.ev

theorem foldl {α : Type} {f : State → α → State} (h : ∀ a x, State.Kept a (f a x)) (l : List α) (s : State) : s.Kept (l.foldl f s) := by
  induction l generalizing s with
  | nil => exact refl s
  | cons x r ih => exact (h s x).trans (ih _)

theorem ite {c : Prop} [Decidable c] (ht : s.Kept t) (hu : s.Kept u) : s.Kept (if c then t else u) := by
  split
  · exact ht
  · exact hu

/-- A launch that an id names is named by it afterwards. -/
theorem launch? (h : s.Kept t) {i : W32} {l : Launch} (hl : s.launch? i = some l) : ∃ n, t.launch? i = some n ∧ l.Kept n := by
  unfold State.launch? at hl ⊢
  exact Launch.kept_find h.launches hl

end State.Kept

theorem State.modLaunch_kept (s : State) (i : W32) {f : Launch → Launch} (hf : ∀ l : Launch, l.Kept (f l)) : s.Kept (s.modLaunch i f) := by
  refine ⟨?_, rfl⟩
  unfold State.modLaunch
  rw [List.forall₂_map_right_iff]
  refine List.forall₂_same.mpr fun k _ => ?_
  split
  · exact hf k
  · exact .refl k

/-! #### Cores, functions, tiles and banks -/

theorem State.modCore_kept (s : State) (c : Nat) (f : Core → Core) : s.Kept (s.modCore c f) := .of_launches rfl

theorem State.modCtx_kept (s : State) (c : Nat) (x : CtxId) (f : Ctx → Ctx) : s.Kept (s.modCtx c x f) := .of_launches rfl

theorem State.setCtx_kept (s : State) (c : Nat) (x : CtxId) (k : Ctx) : s.Kept (s.setCtx c x k) := .of_launches rfl

theorem State.modVf_kept (s : State) (n : Nat) (f : Vf → Vf) : s.Kept (s.modVf n f) := .of_launches rfl

theorem State.charge_kept (s : State) (i : W32) (n : Nat) : s.Kept (s.charge i n) := s.modLaunch_kept i fun _ => ⟨rfl, Nat.le_refl _⟩

theorem State.addResidue_kept (s : State) (i : W32) (n : Nat) : s.Kept (s.addResidue i n) := s.modLaunch_kept i fun _ => ⟨rfl, Nat.le_refl _⟩

theorem State.unparkSpace_kept (s : State) (l : TLoc) (t : Tile) : s.Kept (s.unparkSpace l t) := s.modLaunch_kept _ fun _ => ⟨rfl, Nat.le_refl _⟩

theorem State.setTile_launches (s : State) (l : TLoc) (t : Tile) : (s.setTile l t).launches = s.launches := by cases l <;> rfl

theorem State.setTile_ev (s : State) (l : TLoc) (t : Tile) : (s.setTile l t).ev = s.ev := by cases l <;> rfl

theorem State.vanish_kept (s : State) (l : TLoc) : s.Kept (s.vanish l) := by
  unfold State.vanish
  dsimp only
  refine State.Kept.trans (State.Kept.ite (c := (s.tile l).st = .parking ∨ (s.tile l).st = .parked ∨ (s.tile l).st = .unparking)
    (s.unparkSpace_kept l (s.tile l)) (.refl s)) (.of_launches ?_ ?_)
  · split <;> exact State.setTile_launches _ _ _
  · split <;> exact State.setTile_ev _ _ _

theorem State.endTiles_kept (s : State) (i : W32) (l : List TLoc) : s.Kept (s.endTiles i l) :=
  (s.addResidue_kept i _).trans (.foldl (fun a p => a.vanish_kept p) _ _)

theorem State.endUnitTiles_kept (s : State) (c : Nat) (x : CtxId) : s.Kept (s.endUnitTiles c x) := s.endTiles_kept _ _

theorem State.endLaunchTiles_kept (s : State) (i : W32) : s.Kept (s.endLaunchTiles i) := s.endTiles_kept _ _

theorem State.flushStores_kept (s : State) (c : Nat) (x : CtxId) : s.Kept (s.flushStores c x) := by
  have h : s.Kept (((s.ctx c x).stores.filter fun st => !decide (region st.pa = 3)).foldl
      (fun a st => a.store st.pa st.n (st.data.toNat % 2 ^ (8 * st.n))) s) := by
    refine .foldl ?_ _ s
    exact fun a st => .aside (a.store_aside _ _ _)
  exact ⟨h.launches, h.ev⟩

theorem State.settleMoves_kept (s : State) : s.Kept s.settleMoves := by
  unfold State.settleMoves
  dsimp only
  refine .ite (.refl s) ?_
  refine .trans (t := { s with moving := s.moving.filter fun m => s.functionOn m.1 m.2.1 }) (.of_launches rfl) (.foldl ?_ _ _)
  exact fun a m => a.modVf_kept m.2.2 _

theorem State.leaveCore_kept (s : State) (c : Nat) (i : W32) : s.Kept (s.leaveCore c i) := by
  refine .trans ?_ (State.settleMoves_kept _)
  exact .ite (.refl s) (s.modCore_kept c _)

theorem State.forgetDirect_kept (s : State) (c : Nat) (x : CtxId) : s.Kept (s.forgetDirect c x) := .of_launches rfl

theorem State.unitDone_kept (s : State) (c : Nat) (x : CtxId) (i u : W32) (o : Org) : s.Kept (s.unitDone c x i u o) := by
  refine .trans (.aside (s.traceFor_aside c x i 0x04 7 _ o _)) (State.modLaunch_kept _ i fun l => ?_)
  dsimp only
  split
  · exact ⟨rfl, Nat.le_succ _⟩
  · exact ⟨rfl, Nat.le_succ _⟩

theorem State.endUnit_kept (s : State) (c : Nat) (x : CtxId) : s.Kept (s.endUnit c x) := by
  refine .trans ?_ (State.leaveCore_kept _ c _)
  refine .trans ?_ (State.forgetDirect_kept _ c x)
  refine .trans ?_ (State.unitDone_kept _ c x _ _ _)
  refine .trans ?_ (State.modCore_kept _ c _)
  refine .trans ?_ (State.modCore_kept _ c _)
  exact (s.flushStores_kept c x).trans (State.endUnitTiles_kept _ c x)

/-! #### Fatal faults, traps and stops -/

theorem State.sendAbort_kept (s : State) (c x vf : Nat) (l : W32) (o : Org) (g : BitVec 12) (i : W32) : s.Kept (s.sendAbort c x vf l o g i) :=
  .trans (t := { s with flits := s.flits ++ [Flit.abort g i] }) (.of_launches rfl) (.aside (State.trace_aside _ _ _))

theorem State.abortColls_kept (s : State) (c x : Nat) (cx : Ctx) (frame : List Ctx) : s.Kept (s.abortColls c x cx frame) := by
  unfold State.abortColls
  dsimp only
  refine .trans (.foldl (fun a p => a.sendAbort_kept c x _ _ _ _ _) _ _) (.foldl (fun a p => ?_) _ _)
  split
  · exact .refl a
  · next k _ =>
    refine .trans (t := { a with groups := a.groups.map fun q => if q.1 = p.1 then (q.1, { q.2 with ended := q.2.ended ++ [k.1] }) else q })
      (.of_launches rfl) (.foldl ?_ _ _)
    exact fun t i => t.sendAbort_kept c x _ _ _ _ _

theorem State.logRecord_kept (s : State) (c : Nat) (x : CtxId) (vf : Nat) (r : FaultRec) (o : Org) : s.Kept (s.logRecord c x vf r o) := by
  unfold State.logRecord
  dsimp only
  refine .trans ?_ (.foldl ?_ _ _)
  · refine .trans ?_ (.aside (State.trace_aside _ _ _))
    refine .trans ?_ (.aside (State.trace_aside _ _ _))
    exact s.modVf_kept vf _
  · exact fun t n => .ite (.refl t) (.aside (t.trace_aside _ _))

theorem State.endFatal_kept (s : State) (c : Nat) (x : CtxId) : s.Kept (s.endFatal c x) := by
  refine .trans ?_ (State.endUnit_kept _ c x)
  refine .trans ?_ (State.modLaunch_kept _ _ fun _ => ⟨rfl, Nat.le_refl _⟩)
  refine .trans ?_ (State.abortColls_kept _ c x.val _ _)
  exact s.logRecord_kept c x _ _ _

theorem State.fatal_kept (s : State) (c : Nat) (x : CtxId) (f : Fatal) (slot : Nat) (o : Org) : s.Kept (s.fatal c x f slot o) := by
  unfold State.fatal
  dsimp only
  refine .ite ?_ ?_
  · refine .trans ?_ (.aside (State.traceCtx_aside _ _ _ _ _ _ _ _))
    exact .of_launches rfl
  · refine .trans ?_ (State.endFatal_kept _ c x)
    exact .of_launches rfl

theorem State.enterTrap_kept (s : State) (c : Nat) (x : CtxId) (slot arg code : Nat) (o : Org) : s.Kept (s.enterTrap c x slot arg code o) := by
  unfold State.enterTrap
  dsimp only
  refine .ite (s.fatal_kept _ _ _ _ _) (.ite (s.fatal_kept _ _ _ _ _) ?_)
  refine .trans ?_ (.aside (State.traceCtx_aside _ _ _ _ _ _ _ _))
  exact s.setCtx_kept c x _

theorem State.preemptFreeze_kept (s : State) (c : Nat) (x : CtxId) : s.Kept (s.preemptFreeze c x) := .of_launches rfl

theorem State.debugStop_kept (s : State) (c : Nat) (x : CtxId) (why arg : Nat) : s.Kept (s.debugStop c x why arg) := by
  refine .trans ?_ (.aside (s.debugStop_aside c x why arg))
  exact .of_launches rfl

theorem State.writeWords_aside (s : State) (vf : Nat) (r : Replay) (n : Nat) (l : List W64) : s.Aside (s.writeWords vf r n l) := by
  induction l generalizing s n with
  | nil => exact .refl s
  | cons w t ih => exact (s.storeVa_aside vf _ 8 _).trans (ih _ _)

theorem State.logEntry_kept (s : State) (c : Nat) (x : CtxId) (kind src aux : Nat) (o : Org) (data : List W64) :
    s.Kept (s.logEntry c x kind src aux o data) := by
  refine .trans ?_ (State.charge_kept _ _ _)
  refine .trans ?_ (State.modCtx_kept _ c x _)
  exact .aside ((s.writeWords_aside _ _ _ _).trans (State.storeVa_aside _ _ _ _ _))

theorem State.enterLogged_kept (s : State) (c : Nat) (x : CtxId) (slot arg code : Nat) (o : Org) : s.Kept (s.enterLogged c x slot arg code o) := by
  refine .trans ?_ (State.enterTrap_kept _ c x _ _ _ _)
  exact .ite (s.logEntry_kept c x _ _ _ _ _) (.refl s)

/-! #### The boundary -/

/-- A trap, or the fatal fault of a unit without a handler, once its event is no longer pending. -/
theorem State.trapOrFatal_kept (s : State) (c : Nat) (x : CtxId) (f : Ctx → Ctx) (b : Prop) [Decidable b] (o : Org) (n : Nat) :
    s.Kept (if b then (s.modCtx c x f).fatal c x .permission 0 o else (s.modCtx c x f).enterTrap c x 0 n 0x04 o) :=
  (s.modCtx_kept c x f).trans (.ite (State.fatal_kept _ _ _ _ _ _) (State.enterTrap_kept _ _ _ _ _ _ _))

/-- An entry to the handler, if there is one, once its event is no longer pending. -/
theorem State.logged_kept (s : State) (c : Nat) (x : CtxId) (f : Ctx → Ctx) (b : Prop) [Decidable b] (slot arg code : Nat) (o : Org) :
    s.Kept (if b then s.modCtx c x f else (s.modCtx c x f).enterLogged c x slot arg code o) :=
  (s.modCtx_kept c x f).trans (.ite (.refl _) (State.enterLogged_kept _ _ _ _ _ _ _))

theorem State.boundary_kept (s : State) (c : Nat) (x : CtxId) : s.Kept (s.boundary c x) := by
  unfold State.boundary
  dsimp only
  refine .ite (.refl s) (.ite (s.fatal_kept _ _ _ _ _) ?_)
  split
  · exact s.debugStop_kept _ _ _ _
  · refine .ite (s.preemptFreeze_kept c x) (.ite (s.debugStop_kept _ _ _ _) (.ite (.refl s) (.ite ?_ (.ite (.refl s) ?_))))
    · split
      · refine .trans ?_ (State.enterTrap_kept _ _ _ _ _ _ _)
        exact s.modCtx_kept c x _
      · exact s.trapOrFatal_kept _ _ _ _ _ _
      · exact .refl s
    · split
      · exact s.logged_kept _ _ _ _ _ _ _ _
      · split
        · exact s.trapOrFatal_kept _ _ _ _ _ _
        · exact .ite (s.logged_kept _ _ _ _ _ _ _ _) (.refl s)

/-! #### Writes to the management window -/

theorem State.resumeCtx_kept (s : State) (c : Nat) (x : CtxId) (step : Bool) : s.Kept (s.resumeCtx c x step) := by
  unfold State.resumeCtx
  dsimp only
  refine .ite (.refl s) (.ite ?_ (.ite ?_ (.ite ?_ (.ite ?_ ?_))))
  · exact (s.modCtx_kept c x _).trans (State.endFatal_kept _ c x)
  · exact (s.modCtx_kept c x _).trans (State.boundary_kept _ c x)
  · exact (s.modCtx_kept c x _).trans (State.fatal_kept _ c x _ _ _)
  · exact (s.modCtx_kept c x _).trans (State.fatal_kept _ c x _ _ _)
  · exact (s.modCtx_kept c x _).trans (State.boundary_kept _ c x)

theorem State.haltCtx_kept (s : State) (c : Nat) (x : CtxId) (all : Bool) : s.Kept (s.haltCtx c x all) :=
  .ite (.refl s) ((s.modCtx_kept c x _).trans (State.boundary_kept _ c x))

theorem State.startLog_kept (s : State) (c : Nat) (x : CtxId) : s.Kept (s.startLog c x) := by
  unfold State.startLog
  dsimp only
  split
  · exact .refl s
  · refine .ite (.refl s) ?_
    refine .trans ?_ (.aside (State.storeVa_aside _ _ _ _ _))
    refine .trans ?_ (.aside (State.storeVa_aside _ _ _ _ _))
    refine .trans ?_ (.aside (State.storeVa_aside _ _ _ _ _))
    exact s.modCtx_kept c x _

theorem State.snapCtx_kept (s : State) (c : Nat) (x : CtxId) : s.Kept (s.snapCtx c x) := by
  have hwords (vf a b d e f : Nat) (l m n o r : List W64) :
      s.Kept (((((s.putWords vf a l).putWords vf b m).putWords vf d n).putWords vf e o).putWords vf f r) :=
    .aside (((((s.putWords_aside vf a l).trans (State.putWords_aside _ _ _ _)).trans (State.putWords_aside _ _ _ _)).trans
      (State.putWords_aside _ _ _ _)).trans (State.putWords_aside _ _ _ _))
  unfold State.snapCtx
  dsimp only
  refine .ite (.refl s) ?_
  refine .trans ?_ (State.startLog_kept _ c x)
  exact (hwords _ _ _ _ _ _ _ _ _ _ _).trans (.of_launches rfl)

theorem State.dctl_kept (s : State) (c : Nat) (x : CtxId) (v : W64) : s.Kept (s.dctl c x v) := by
  unfold State.dctl
  split
  · exact s.haltCtx_kept c x false
  · exact s.resumeCtx_kept c x false
  · exact s.resumeCtx_kept c x true
  · exact s.snapCtx_kept c x
  · exact .refl s

theorem State.slotWrite_kept (s : State) (vf d r : Nat) (v : W64) : s.Kept (s.slotWrite vf d r v) := by
  unfold State.slotWrite
  dsimp only
  refine .ite (.refl s) (.ite (.ite ?_ (s.modVf_kept vf _)) (.ite (s.modVf_kept vf _) (.ite (s.modVf_kept vf _) (.ite (s.modVf_kept vf _) (.refl s)))))
  refine (s.modVf_kept vf _).trans (.foldl ?_ _ _)
  exact fun t p => t.haltCtx_kept p.1 p.2 true

theorem State.windowWrite_kept (s : State) (vf o : Nat) (v : W64) : s.Kept (s.windowWrite vf o v) := by
  unfold State.windowWrite
  dsimp only
  refine .ite (s.slotWrite_kept vf _ _ v) (.ite ?_ (.ite (s.modVf_kept vf _) (.ite (.ite (s.setCtx_kept _ _ _) (.refl s)) (.refl s))))
  exact .ite (.refl s) (.ite (s.dctl_kept _ _ v) (.ite (s.modCore_kept _ _) (.refl s)))

theorem State.put_kept (s : State) (vf pa n v : Nat) : s.Kept (s.put vf pa n v) := by
  refine .ite (.aside (s.store_aside pa n v)) (.foldl ?_ _ _)
  exact fun t _ => t.windowWrite_kept vf _ _

theorem State.performStores_kept (s : State) (vf : Nat) (l : List Store) : s.Kept (s.performStores vf l) := by
  refine .foldl ?_ _ _
  exact fun t st => t.put_kept vf _ _ _

theorem State.performWindow_kept (s : State) (i : W32) : s.Kept (s.performWindow i) := by
  refine .trans (t := { s with wstores := s.wstores.filter fun p => p.1 != i }) (.of_launches rfl) (.foldl ?_ _ _)
  exact fun t p => t.performStores_kept p.2.1 _

end Sys2Proof.Machine
end
section

/-! ### The completion of a launch (O54) -/

namespace Sys2Proof.Machine

/-! #### What stays of the mapping of addresses -/

/-- Addresses are mapped in `t` as in `s`, and memory is the same. -/
structure State.SameMap (s t : State) : Prop where
  mem : t.mem = s.mem
  late : t.late = s.late
  winBase : t.winBase = s.winBase
  slotBits : t.slotBits = s.slotBits
  hostSize : t.hostSize = s.hostSize
  fenRanges : t.fenRanges = s.fenRanges
  objs : t.objs = s.objs
  boot : t.boot = s.boot
  slots : t.wslots.length = s.wslots.length
  cfg : ∀ n, (t.vf n).cfg = (s.vf n).cfg

namespace State.SameMap

variable {s t u : State}

theorem refl (s : State) : s.SameMap s := ⟨rfl, rfl, rfl, rfl, rfl, rfl, rfl, rfl, rfl, fun _ => rfl⟩

theorem trans (h : s.SameMap t) (g : t.SameMap u) : s.SameMap u :=
  ⟨g.mem.trans h.mem, g.late.trans h.late, g.winBase.trans h.winBase, g.slotBits.trans h.slotBits, g.hostSize.trans h.hostSize,
    g.fenRanges.trans h.fenRanges, g.objs.trans h.objs, g.boot.trans h.boot, g.slots.trans h.slots, fun n => (g.cfg n).trans (h.cfg n)⟩

theorem foldl {α : Type} {f : State → α → State} (h : ∀ a x, State.SameMap a (f a x)) (l : List α) (s : State) : s.SameMap (l.foldl f s) := by
  induction l generalizing s with
  | nil => exact refl s
  | cons x r ih => exact (h s x).trans (ih _)

theorem memNow (h : s.SameMap t) : t.memNow = s.memNow := by
  unfold State.memNow
  rw [h.late, h.mem]

theorem walk (h : s.SameMap t) (n va : Nat) : t.walk n va = s.walk n va := by
  have hwin : t.inWindow va = s.inWindow va := by
    unfold State.inWindow State.slotAddr
    rw [h.winBase, h.slotBits, h.slots]
  have hcovers (o : WObj) (slot : Nat) : t.coversFrom o slot va = s.coversFrom o slot va := by
    unfold State.coversFrom State.slotAddr
    rw [h.winBase, h.slotBits]
  have hleaf : t.windowLeaf n va = s.windowLeaf n va := by
    unfold State.windowLeaf State.objAddr
    simp only [hcovers]
    unfold State.slotAddr
    rw [h.objs, h.winBase, h.slotBits]
  have hmay : t.mayMap n = s.mayMap n := by
    funext leaf
    unfold State.mayMap
    rw [h.fenRanges]
  unfold State.walk
  rw [hwin, hleaf, hmay, h.memNow, h.cfg]

theorem present (h : s.SameMap t) (pa n : Nat) : t.present pa n = s.present pa n := by
  unfold State.present State.regionSize
  rw [h.hostSize]

theorem xlateDirect (h : s.SameMap t) (n va k : Nat) : t.xlateDirect n va k = s.xlateDirect n va k := by
  unfold State.xlateDirect
  simp only [h.walk, h.present]

end State.SameMap

theorem State.setTile_sameMap (s : State) (l : TLoc) (t : Tile) : s.SameMap (s.setTile l t) := by
  cases l <;> exact ⟨rfl, rfl, rfl, rfl, rfl, rfl, rfl, rfl, rfl, fun _ => rfl⟩

theorem State.modLaunch_sameMap (s : State) (i : W32) (f : Launch → Launch) : s.SameMap (s.modLaunch i f) :=
  ⟨rfl, rfl, rfl, rfl, rfl, rfl, rfl, rfl, rfl, fun _ => rfl⟩

theorem State.modCore_sameMap (s : State) (c : Nat) (f : Core → Core) : s.SameMap (s.modCore c f) :=
  ⟨rfl, rfl, rfl, rfl, rfl, rfl, rfl, rfl, rfl, fun _ => rfl⟩

theorem State.frames_sameMap (s : State) (l : List Frame) : s.SameMap { s with frames := l } :=
  ⟨rfl, rfl, rfl, rfl, rfl, rfl, rfl, rfl, rfl, fun _ => rfl⟩

theorem State.vanish_sameMap (s : State) (l : TLoc) : s.SameMap (s.vanish l) := by
  have hspace : s.SameMap (if (s.tile l).st = .parking ∨ (s.tile l).st = .parked ∨ (s.tile l).st = .unparking then
      s.unparkSpace l (s.tile l) else s) := by
    split
    · exact s.modLaunch_sameMap _ _
    · exact .refl s
  unfold State.vanish
  dsimp only
  split
  · refine .trans ?_ (State.modCore_sameMap _ _ _)
    exact ((hspace.trans (State.setTile_sameMap _ _ _)).trans (State.modCore_sameMap _ _ _)).trans (State.frames_sameMap _ _)
  · exact ((hspace.trans (State.setTile_sameMap _ _ _)).trans (State.modCore_sameMap _ _ _)).trans (State.frames_sameMap _ _)

theorem State.endTiles_sameMap (s : State) (i : W32) (l : List TLoc) : s.SameMap (s.endTiles i l) := by
  refine (s.modLaunch_sameMap i _).trans (.foldl ?_ _ _)
  exact fun a p => a.vanish_sameMap p

/-- Without objects a launch has no pins to drop. -/
theorem State.unpinAll_sameMap (s : State) (i : W32) (h : s.objs = []) : s.SameMap (s.unpinAll i) where
  mem := rfl
  late := rfl
  winBase := rfl
  slotBits := rfl
  hostSize := rfl
  fenRanges := rfl
  objs := (congrArg (List.map fun o => WObj.unpin o i) h).trans h.symm
  boot := rfl
  slots := List.length_map _
  cfg _ := rfl

/-! #### The state once a launch has completed -/

/-- The launch's stores into its window and its late writes are performed. -/
def State.performedFor (s : State) (i : W32) : State := (s.performWindow i).settleBy fun e => e.launch = i

theorem State.performedFor_kept (s : State) (i : W32) : s.Kept (s.performedFor i) :=
  (s.performWindow_kept i).trans (.aside (State.settleFirst_aside _ _))

/-- With no store of the launch outstanding and no late write there is nothing to perform. -/
theorem State.performedFor_eq {s : State} {i : W32} (hstores : ∀ p ∈ s.wstores, p.1 ≠ i) (hlate : s.late = []) : s.performedFor i = s := by
  have hmine : (s.wstores.filter fun p => decide (p.1 = i)) = [] := List.filter_eq_nil_iff.mpr fun p hp => by simpa using hstores p hp
  have hrest : (s.wstores.filter fun p => p.1 != i) = s.wstores := List.filter_eq_self.mpr fun p hp => by simpa using hstores p hp
  have hwin : s.performWindow i = s := by
    unfold State.performWindow
    rw [hmine, hrest]
    rfl
  unfold State.performedFor
  rw [hwin]
  unfold State.settleBy State.settleFirst
  rw [hlate]
  simp only [List.length_nil, List.reverse_nil, List.take_nil, List.drop_nil, List.foldl_nil]
  rw [← hlate]

theorem State.noteLate_kept (s : State) (l : Launch) : s.Kept (s.noteLate l) := by
  unfold State.noteLate
  dsimp only
  refine .ite (.refl s) ?_
  refine .trans ?_ (.aside (State.trace_aside _ _ _))
  exact (s.modLaunch_kept _ (f := fun k => { k with late := true }) fun _ => ⟨rfl, Nat.le_refl _⟩).trans (.of_launches rfl)

theorem State.noteLate_of_late {l : Launch} (s : State) (h : l.late = true) : s.noteLate l = s := by
  unfold State.noteLate
  rw [h]
  rfl

/-- The launch is complete: its tiles have vanished, its pins are dropped, and it sets its signal no more. -/
def State.afterCompletion (s : State) (l : Launch) : State :=
  ((((s.noteLate l).modLaunch l.id fun k => { k with stage := .complete }).endLaunchTiles l.id).unpinAll l.id).modVf l.vf
    fun v => { v with setters := v.setters.filter fun p => p.2 != l.id }

theorem State.afterCompletion_launch {s : State} {i : W32} {l : Launch} (hl : s.launch? i = some l) :
    ∃ n, (s.afterCompletion l).launch? i = some n ∧ n.stage = .complete ∧ n.source = l.source := by
  obtain rfl := State.launch?_id hl
  obtain ⟨k, hk, hlk⟩ := (s.noteLate_kept l).launch? hl
  have hstage : ((s.noteLate l).modLaunch l.id fun k => { k with stage := .complete }).launch? l.id = some { k with stage := .complete } := by
    refine (State.launch?_modLaunch_self _ _ (fun k => { k with stage := .complete }) fun _ => rfl).trans ?_
    rw [hk]
    rfl
  obtain ⟨n, hn, hkept⟩ := (State.endLaunchTiles_kept _ l.id).launch? hstage
  exact ⟨n, hn, hkept.stage, hkept.source.trans hlk.source⟩

/-- The signal of a launch, if it has one, is raised by one at its address. -/
def State.signalled (s : State) (l : Launch) (a : Nat) : State :=
  if l.done = 0 then s else s.storeVa l.vf a 8 ((s.loadVa l.vf a 8 + 1) % 2 ^ 64)

theorem State.signalled_aside (s : State) (l : Launch) (a : Nat) : s.Aside (s.signalled l a) := by
  unfold State.signalled
  split
  · exact .refl s
  · exact s.storeVa_aside _ _ _ _

/-! #### Records, and the launch's graph -/

theorem State.msi_eq (s : State) (vf : Nat) (vec : Byte) : s.msi vf vec = { s with msix := (s.msi vf vec).msix } := by
  unfold State.msi
  generalize (if vf = 128 then 256 else 64) = m
  split <;> rfl

/-- A record posted changes DONE of its queue, memory and the vector's messages. -/
theorem State.postRecord_eq (s : State) (vf q : Nat) (n : W32) (rec : Nat) : ∃ a b m,
    s.Aside a ∧ (a.modVf vf fun v => { v with queues := alSet q { alGet Queue.reset q (s.vf vf).queues with
      done := (alGet Queue.reset q (s.vf vf).queues).done + 1 } v.queues }).Aside b ∧ s.postRecord vf q n rec = { b with msix := m } := by
  let k := alGet Queue.reset q (s.vf vf).queues
  let a := s.storeVa vf (k.cqbase.toNat + 32 * (n.toNat % 2 ^ k.log2n.toNat)) 32 rec
  let d := a.modVf vf fun v => { v with queues := alSet q { k with done := k.done + 1 } v.queues }
  let b := if k.cqsig = 0 then d else d.storeVa vf k.cqsig.toNat 8 ((d.loadVa vf k.cqsig.toNat 8 + 1) % 2 ^ 64)
  have hb : d.Aside b := by
    show d.Aside (if k.cqsig = 0 then d else _)
    split
    · exact .refl d
    · exact d.storeVa_aside _ _ _ _
  have hpost : s.postRecord vf q n rec = if k.irq then b.msi vf k.vec else b := rfl
  refine ⟨a, b, (if k.irq then b.msi vf k.vec else b).msix, s.storeVa_aside _ _ _ _, hb, hpost.trans ?_⟩
  split
  · exact b.msi_eq vf k.vec
  · rfl

theorem State.postRecord_launches (s : State) (vf q : Nat) (n : W32) (rec : Nat) : (s.postRecord vf q n rec).launches = s.launches := by
  obtain ⟨a, b, m, ha, hb, he⟩ := s.postRecord_eq vf q n rec
  rw [he]
  exact hb.launches.trans ha.launches

theorem State.countDown_launches (f : Nat) (s : State) (n : Nat) : (s.countDown f n).launches = s.launches := by
  induction f generalizing s n with
  | zero => rfl
  | succ f ih =>
    unfold State.countDown
    split
    · rfl
    · dsimp only
      split
      · rw [ih]; rfl
      · rfl

theorem State.countDown_mem (f : Nat) (s : State) (n : Nat) : (s.countDown f n).mem = s.mem := by
  induction f generalizing s n with
  | zero => rfl
  | succ f ih =>
    unfold State.countDown
    split
    · rfl
    · dsimp only
      split
      · rw [ih]; rfl
      · rfl

/-- The record of a launch that a queue waits for is written once: its launch has no source any more. -/
theorem State.recordOf_launch {s : State} {i : W32} {n r : Launch} (hn : s.launch? i = some n) (hid : r.id = i) (hsource : r.source = n.source) :
    (s.recordOf r).launch? i = some { n with source := none } := by
  subst hid
  unfold State.recordOf
  split
  · next h => rw [hn, ← h, hsource]
  · refine (State.launch?_modLaunch_self _ _ (fun k => { k with source := none }) fun _ => rfl).trans ?_
    unfold State.launch?
    rw [State.postRecord_launches]
    exact congrArg (Option.map _) hn

theorem State.leaveGraph_launch {s : State} {i : W32} {l : Launch} (hl : s.launch? i = some l) :
    (s.leaveGraph i).launch? i = some { l with counted := false } := by
  unfold State.leaveGraph
  rw [hl]
  dsimp only
  split
  · next h => rw [hl, ← (by simpa using h : l.counted = false)]
  · unfold State.launch?
    rw [State.countDown_launches]
    refine (State.launch?_modLaunch_self _ _ (fun k => { k with counted := false }) fun _ => rfl).trans ?_
    rw [hl]
    rfl

theorem State.leaveGraph_mem (s : State) (i : W32) : (s.leaveGraph i).mem = s.mem := by
  unfold State.leaveGraph
  split
  · rfl
  · split
    · rfl
    · exact State.countDown_mem _ _ _

/-! #### The row -/

/-- How a launch whose units are done ends: with its record, and its place in its graph. -/
def State.ended (s : State) (i : W32) (r : Launch) : State := (s.recordOf r).leaveGraph i

theorem State.ended_launch {s : State} {i : W32} {n r : Launch} (hn : s.launch? i = some n) (hid : r.id = i) (hsource : r.source = n.source) :
    (s.ended i r).launch? i = some { n with source := none, counted := false } :=
  State.leaveGraph_launch (State.recordOf_launch hn hid hsource)

/-- A launch that no queue waits for ends without a write to memory. -/
theorem State.ended_mem (s : State) (i : W32) {r : Launch} (hsource : r.source = none) : (s.ended i r).mem = s.mem := by
  unfold State.ended State.recordOf
  rw [hsource, State.leaveGraph_mem]

/-- The launch is complete and has raised its signal. -/
def State.afterSignal (s : State) (l : Launch) : State := (s.afterCompletion l).signalled l (s.sigAddr l.vf l.done)

/-- What LAUNCH_COMPLETE does to the launch as it stands once its writes are performed. -/
def State.completeStep (s : State) (k : Launch) : State :=
  match k.stage with
  | .complete => s
  | .cancelled => if k.placed ≤ k.doneUnits then (s.endLaunchTiles k.id).ended k.id k else s
  | .admitted => if k.allDone then (s.afterSignal k).ended k.id (((s.afterSignal k).launch? k.id).getD k) else s

theorem execLaunchComplete_eq {s t : State} {l k : Launch} (hl : s.launch? s.ev.l = some l)
    (ht : t = if l.allDone then s.performedFor s.ev.l else s) (hk : t.launch? s.ev.l = some k) (hev : t.ev = s.ev) :
    execLaunchComplete s = .next (t.completeStep k) := by
  have hany : (s.launch? s.ev.l).any (fun l => l.allDone) = l.allDone := by rw [hl]; rfl
  have hs : (if (s.launch? s.ev.l).any (fun l => l.allDone) then (s.performWindow s.ev.l).settleBy fun e => decide (e.launch = s.ev.l) else s) = t := by
    rw [hany, ht]
    rfl
  unfold execLaunchComplete
  dsimp only
  rw [hs, hev, hk]
  unfold State.completeStep
  dsimp only
  congr 1
  cases k.stage
  · cases k.allDone <;> rfl
  · rfl
  · rw [State.launch?_id hk, hk]
    rfl

/-- The launch after its writes are performed, and the row's outcome. -/
theorem execLaunchComplete_kept {s : State} {l : Launch} (hl : s.launch? s.ev.l = some l) :
    ∃ t k, t = (if l.allDone then s.performedFor s.ev.l else s) ∧ t.launch? s.ev.l = some k ∧ l.Kept k ∧
      execLaunchComplete s = .next (t.completeStep k) := by
  have hkept : s.Kept (if l.allDone then s.performedFor s.ev.l else s) := .ite (s.performedFor_kept _) (.refl s)
  obtain ⟨k, hk, hlk⟩ := hkept.launch? hl
  exact ⟨_, k, rfl, hk, hlk, execLaunchComplete_eq hl rfl hk hkept.ev⟩

theorem State.completeStep_admitted {s : State} {k : Launch} (hk : s.launch? k.id = some k) (hstage : k.stage = .admitted)
    (hdone : k.allDone = true) : ∃ n, (s.completeStep k).launch? k.id = some n ∧ n.stage = .complete ∧ n.source = none ∧ n.counted = false := by
  obtain ⟨n, hn, hcomplete, -⟩ := State.afterCompletion_launch hk
  have hsig : (s.afterSignal k).launch? k.id = some n := ((State.signalled_aside _ _ _).launch? _).trans hn
  unfold State.completeStep
  rw [hstage, hdone, hsig]
  exact ⟨_, State.ended_launch hsig (State.launch?_id hsig) rfl, hcomplete, rfl, rfl⟩

theorem State.completeStep_cancelled {s : State} {k : Launch} (hk : s.launch? k.id = some k) (hstage : k.stage = .cancelled)
    (hdone : k.placed ≤ k.doneUnits) :
    ∃ n, (s.completeStep k).launch? k.id = some n ∧ n.stage = .cancelled ∧ n.source = none ∧ n.counted = false := by
  obtain ⟨n, hn, hkn⟩ := (s.endLaunchTiles_kept k.id).launch? hk
  unfold State.completeStep
  rw [hstage]
  dsimp only
  rw [if_pos hdone]
  exact ⟨_, State.ended_launch hn rfl hkn.source.symm, hkn.stage.trans hstage, rfl, rfl⟩

/-! #### The signal's word -/

theorem State.afterCompletion_sameMap {s : State} {l : Launch} (hlate : l.late = true) (hobjs : s.objs = []) : s.SameMap (s.afterCompletion l) := by
  have htiles : s.SameMap ((s.modLaunch l.id fun k => { k with stage := .complete }).endLaunchTiles l.id) :=
    (s.modLaunch_sameMap _ _).trans (State.endTiles_sameMap _ _ _)
  unfold State.afterCompletion
  rw [s.noteLate_of_late hlate]
  refine (htiles.trans (State.unpinAll_sameMap _ _ (htiles.objs.trans hobjs))).trans
    ⟨rfl, rfl, rfl, rfl, rfl, rfl, rfl, rfl, rfl, fun n => ?_⟩
  by_cases h : n = l.vf
  · subst h
    rw [State.vf_modVf]
  · rw [State.modVf, State.vf_setVf_other _ _ h]

/-- The word at an address that a function may write, and that is not in the window, once it is counted up. -/
theorem State.signalled_mem {s : State} {l : Launch} {a pa : Nat} (hdone : l.done ≠ 0) (hlate : s.late = [])
    (hpa : s.xlateDirect l.vf a 8 = some pa) (hw : (s.walk l.vf a).any (fun t => t.w) = true)
    (hwin : region pa ≠ 3) (hlink : region pa = 2 → s.boot.linkErr = false) :
    (s.signalled l a).mem = writeNat s.mem pa ((readNat s.mem pa 8 + 1) % 2 ^ 64) 8 := by
  have hload : s.loadVa l.vf a 8 = readNat s.mem pa 8 := by
    have hnow : s.memNow = s.mem := by
      unfold State.memNow
      rw [hlate]
      rfl
    unfold State.loadVa State.load
    rw [hpa, Option.map_some, Option.getD_some, if_neg hwin, hnow]
  unfold State.signalled State.storeVa State.store
  rw [if_neg hdone, hpa, hload]
  dsimp only
  rw [if_pos hw, State.settle_of_none _ _ _ hlate, State.write_mem, if_neg]
  rintro (h3 | ⟨h2, hl⟩)
  · exact hwin h3
  · rw [hlink h2] at hl
    cases hl

/-- A launch that no queue waits for completes with a write of its signal's word alone. -/
theorem State.completeStep_mem {s : State} {k : Launch} {pa : Nat} (hk : s.launch? k.id = some k) (hstage : k.stage = .admitted)
    (hall : k.allDone = true) (hsource : k.source = none) (hklate : k.late = true) (hdone : k.done ≠ 0) (hobjs : s.objs = []) (hlate : s.late = [])
    (hpa : s.xlateDirect k.vf (s.sigAddr k.vf k.done) 8 = some pa) (hw : (s.walk k.vf (s.sigAddr k.vf k.done)).any (fun t => t.w) = true)
    (hwin : region pa ≠ 3) (hlink : region pa = 2 → s.boot.linkErr = false) :
    (s.completeStep k).mem = writeNat s.mem pa ((readNat s.mem pa 8 + 1) % 2 ^ 64) 8 := by
  have hmap := State.afterCompletion_sameMap (s := s) (l := k) hklate hobjs
  obtain ⟨n, hn, hsrc⟩ : ∃ n, (s.afterSignal k).launch? k.id = some n ∧ n.source = none := by
    obtain ⟨n, hn, -, hns⟩ := State.afterCompletion_launch hk
    exact ⟨n, ((State.signalled_aside _ _ _).launch? _).trans hn, hns.trans hsource⟩
  unfold State.completeStep
  rw [hstage, hall, hn]
  dsimp only
  rw [if_pos rfl, Option.getD_some, State.ended_mem _ _ hsrc, State.afterSignal, State.signalled_mem hdone (hmap.late.trans hlate)
    ((hmap.xlateDirect _ _ _).trans hpa) (by rw [hmap.walk]; exact hw) hwin (by rw [hmap.boot]; exact hlink), hmap.mem]

end Sys2Proof.Machine
end
section

/-! ### Queues, slots, and the graphs, phases and jobs that ids name -/

namespace Sys2Proof.Machine

/-! #### Queues of a function -/

theorem State.modQueue_eq {s : State} {q : Nat} (hq : q < 64) (vf : Nat) (f : Queue → Queue) :
    s.modQueue vf q f = s.modVf vf fun v => { v with queues := alSet q (f (alGet Queue.reset q v.queues)) v.queues } := by
  unfold State.modQueue
  rw [if_neg (by omega)]

theorem State.queue_modQueue {s : State} {q : Nat} (hq : q < 64) (vf : Nat) (f : Queue → Queue) :
    (s.modQueue vf q f).queue vf q = f (s.queue vf q) := by
  rw [State.modQueue_eq hq, State.queue, State.vf_modVf]
  exact alGet_alSet_self _ _ _ _

theorem State.queue_modQueue_other {s : State} {q p : Nat} (hp : p ≠ q) (vf : Nat) (f : Queue → Queue) :
    (s.modQueue vf q f).queue vf p = s.queue vf p := by
  unfold State.modQueue
  split
  · rfl
  · rw [State.queue, State.vf_modVf]
    exact alGet_alSet_other _ _ hp _

theorem State.queue_congr {s t : State} (h : t.vfs = s.vfs) (vf q : Nat) : t.queue vf q = s.queue vf q := by
  unfold State.queue State.vf
  rw [h]

theorem State.Aside.queue {s t : State} (h : s.Aside t) (vf q : Nat) : t.queue vf q = s.queue vf q := by
  have hq : (t.vf vf).queues = (s.vf vf).queues := (congrArg Vf.queues (h.vf vf) :)
  unfold State.queue
  rw [hq]

/-- Writes to one queue of a function show there and in no other. -/
theorem State.modQueue_shows {s t : State} {q : Nat} (hq : q < 64) (vf : Nat) (f : Queue → Queue) {r : Queue} (hr : f (s.queue vf q) = r)
    (ht : t.vfs = s.vfs) : (t.modQueue vf q f).queue vf q = r ∧ ∀ p, p ≠ q → (t.modQueue vf q f).queue vf p = s.queue vf p := by
  refine ⟨?_, fun p hp => ?_⟩
  · rw [State.queue_modQueue hq, State.queue_congr ht, hr]
  · rw [State.queue_modQueue_other hp, State.queue_congr ht]

/-! #### The graph, phase or job that an id names -/

theorem State.mem_of_inst? {s : State} {vf level : Nat} {id : W32} {i : Inst} (h : s.inst? vf level id = some i) :
    i ∈ s.insts ∧ i.vf = vf ∧ i.level = level ∧ i.id = id := by
  have hi := List.mem_filter.mp (List.mem_of_getLast? h)
  simp only [Bool.and_eq_true, decide_eq_true_eq] at hi
  obtain ⟨hmem, ⟨⟨hvf, hlevel⟩, hid⟩, -⟩ := hi
  exact ⟨hmem, hvf, hlevel, hid⟩

/-- A graph, phase or job closed, if it has the number. -/
def Inst.closeAt (n : Nat) (i : Inst) : Inst := if i.serial = n then { i with closed := true } else i

theorem Inst.closeAt_closed (n : Nat) (i : Inst) : { i.closeAt n with closed := true } = { i with closed := true } := by
  unfold Inst.closeAt
  split <;> rfl

theorem State.closeInst_insts {s : State} {vf level : Nat} {id : W32} {i : Inst} (h : s.inst? vf level id = some i) :
    (s.closeInst vf level id).insts = s.insts.map (Inst.closeAt i.serial) := by
  unfold State.closeInst
  rw [h]
  rfl

theorem State.closeInst_insts_none {s : State} {vf level : Nat} {id : W32} (h : s.inst? vf level id = none) :
    (s.closeInst vf level id).insts = s.insts := by
  unfold State.closeInst
  rw [h]
  exact (apply_ite State.insts _ _ _).trans (ite_self _)

/-- Closing what an id names closes what has one number, or nothing. -/
theorem State.closeInst_cases (s : State) (vf level : Nat) (id : W32) :
    (s.closeInst vf level id).insts = s.insts ∨ ∃ n, (s.closeInst vf level id).insts = s.insts.map (Inst.closeAt n) := by
  cases h : s.inst? vf level id with
  | none => exact .inl (State.closeInst_insts_none h)
  | some i => exact .inr ⟨_, State.closeInst_insts h⟩

theorem State.closeInst_vfs (s : State) (vf level : Nat) (id : W32) : (s.closeInst vf level id).vfs = s.vfs := by
  unfold State.closeInst
  split
  · rfl
  · exact (apply_ite State.vfs _ _ _).trans (ite_self _)

theorem State.closed_mem_closeInst {s : State} {vf level : Nat} {id : W32} {i : Inst} (h : s.inst? vf level id = some i) :
    { i with closed := true } ∈ (s.closeInst vf level id).insts := by
  rw [State.closeInst_insts h]
  exact List.mem_map.mpr ⟨i, (State.mem_of_inst? h).1, if_pos rfl⟩

theorem State.closed_mem_closeInst_of_mem {s : State} {i : Inst} (h : { i with closed := true } ∈ s.insts) (vf level : Nat) (id : W32) :
    { i with closed := true } ∈ (s.closeInst vf level id).insts := by
  rcases s.closeInst_cases vf level id with he | ⟨n, he⟩
  · rw [he]
    exact h
  · rw [he]
    refine List.mem_map.mpr ⟨_, h, ?_⟩
    unfold Inst.closeAt
    split <;> rfl

theorem State.mem_renewId {s : State} {vf level : Nat} {id : W32} {i : Inst} (h : i ∈ s.insts) (hi : i.level = level → i.id ≠ id) :
    i ∈ (s.renewId vf level id).insts :=
  List.mem_map.mpr ⟨i, h, if_neg fun ⟨_, hlevel, hid⟩ => hi hlevel hid⟩

/-- An id names the same graph, phase or job after another has been closed. -/
theorem State.inst?_closeInst {s : State} {vf level : Nat} {id : W32} {i : Inst} (h : s.inst? vf level id = some i) (vf' level' : Nat) (id' : W32) :
    ∃ j, (s.closeInst vf' level' id').inst? vf level id = some j ∧ { j with closed := true } = { i with closed := true } := by
  have hsame (n : Nat) : (fun i : Inst => i.vf = vf && i.level = level && i.id = id && !i.past) ∘ Inst.closeAt n =
      fun i : Inst => i.vf = vf && i.level = level && i.id = id && !i.past := by
    funext k
    simp only [Function.comp, Inst.closeAt]
    split <;> rfl
  unfold State.inst? at h ⊢
  rcases s.closeInst_cases vf' level' id' with he | ⟨n, he⟩
  · rw [he]
    exact ⟨i, h, rfl⟩
  · rw [he, List.filter_map, hsame, List.getLast?_map, h]
    exact ⟨_, rfl, Inst.closeAt_closed _ i⟩

/-! #### PHASE and JOB -/

theorem execPhase_new {s : State} (hne : s.ev.l ≠ (s.queue s.ev.vf s.ev.q).phase) (hnew : s.ev.l = 0 ∨ s.instLive s.ev.vf 3 s.ev.l s.ev.q = false) :
    execPhase s = .next ((if s.ev.l = 0 then s
      else (s.closeInst s.ev.vf 3 (s.queue s.ev.vf s.ev.q).phase).renewId s.ev.vf 3 s.ev.l).modQueue s.ev.vf s.ev.q
        fun k => { k with phase := s.ev.l }) := by
  unfold execPhase
  dsimp only
  rw [decide_eq_false hne, Bool.false_or]
  rcases hnew with h | h
  · rw [if_neg (by rw [h]; simp)]
  · rw [h, Bool.and_false, if_neg Bool.false_ne_true]

theorem execPhase_live {s : State} {i : Inst} (hi : s.inst? s.ev.vf 3 s.ev.l = some i) (hl : s.ev.l ≠ 0) (hdone : s.instDone i = false) :
    execPhase s = .next s := by
  have hlive : s.instLive s.ev.vf 3 s.ev.l s.ev.q = true := by
    unfold State.instLive
    rw [hi, Option.any_some, hdone]
    rfl
  unfold execPhase
  dsimp only
  rw [hlive, bne_iff_ne.mpr hl, Bool.and_self, Bool.or_true, if_pos rfl]

theorem execJob_new {s : State} (hne : s.ev.l ≠ (s.queue s.ev.vf s.ev.q).job) (hnew : s.instLive s.ev.vf 4 s.ev.l s.ev.q = false) :
    execJob s = .next ((((s.closeInst s.ev.vf 4 (s.queue s.ev.vf s.ev.q).job).closeInst s.ev.vf 3 (s.queue s.ev.vf s.ev.q).phase).renewId
      s.ev.vf 4 s.ev.l).modQueue s.ev.vf s.ev.q fun k => { k with job := s.ev.l, phase := 0 }) := by
  unfold execJob
  dsimp only
  rw [if_neg]
  simp [hne, hnew]

theorem execJob_live {s : State} {i : Inst} (hi : s.inst? s.ev.vf 4 s.ev.l = some i) (hl : s.ev.l ≠ 0) (hdone : s.instDone i = false) :
    execJob s = .next s := by
  have hlive : s.instLive s.ev.vf 4 s.ev.l s.ev.q = true := by
    unfold State.instLive
    rw [hi, Option.any_some, hdone]
    rfl
  unfold execJob
  dsimp only
  rw [hlive, bne_iff_ne.mpr hl, Bool.and_self, Bool.or_true, if_pos rfl]

theorem State.modQueue_insts (s : State) (vf q : Nat) (f : Queue → Queue) : (s.modQueue vf q f).insts = s.insts := by
  unfold State.modQueue
  split <;> rfl

/-! #### Slots -/

/-- Slots of one number that all serve one queue, when that number stops. -/
theorem State.stopSlot_slots {s : State} {n : Nat} {h : HwSlot} (hall : ∀ p ∈ s.slots, p.1 = n → p.2 = h) (next : Option (Nat × Nat)) :
    (s.stopSlot n next).slots = s.slots.filterMap fun p => if p.1 ≠ n then some p
      else if (s.queue h.vf h.q).testing = true then some (p.1, { p.2 with stopping := true, next := next })
      else next.map fun q => (p.1, ⟨q.1, q.2, false, none⟩) := by
  refine List.filterMap_congr fun p hp => ?_
  by_cases hn : p.1 = n
  · rw [hall p hp hn]
  · rw [if_pos hn, if_pos hn]

end Sys2Proof.Machine
end
section

/-! ### Packets: submission, the test and its answer -/

namespace Sys2Proof.Machine

/-! #### The side of the state that the answer to a packet changes -/

/-- `t` is `s` up to memory, traces, the functions, the slots and the messages sent. -/
def State.HostSide (s t : State) : Prop := t = { s.aside t with slots := t.slots, msix := t.msix }

namespace State.HostSide

variable {s t u : State}

theorem refl (s : State) : s.HostSide s := rfl

theorem trans (h : s.HostSide t) (g : t.HostSide u) : s.HostSide u := by
  unfold State.HostSide at *
  rw [g, h]
  rfl

theorem aside (h : s.Aside t) : s.HostSide t := by
  unfold State.HostSide
  rw [h.eq]
  rfl

theorem launches (h : s.HostSide t) : t.launches = s.launches := (congrArg State.launches h :)
theorem adm (h : s.HostSide t) : t.adm = s.adm := (congrArg State.adm h :)
theorem cores (h : s.HostSide t) : t.cores = s.cores := (congrArg State.cores h :)
theorem flits (h : s.HostSide t) : t.flits = s.flits := (congrArg State.flits h :)

end State.HostSide

theorem State.modQueue_hostSide (s : State) (vf q : Nat) (f : Queue → Queue) : s.HostSide (s.modQueue vf q f) := by
  unfold State.modQueue
  split <;> rfl

theorem State.modVf_hostSide (s : State) (n : Nat) (f : Vf → Vf) : s.HostSide (s.modVf n f) := rfl

theorem State.passIfHead_hostSide (s : State) (l : Launch) : s.HostSide (s.passIfHead l) := by
  unfold State.passIfHead
  split
  · split
    · exact s.modQueue_hostSide _ _ _
    · rfl
  · rfl

theorem State.postRecord_hostSide (s : State) (vf q : Nat) (n : W32) (rec : Nat) : s.HostSide (s.postRecord vf q n rec) := by
  obtain ⟨a, b, m, ha, hb, he⟩ := s.postRecord_eq vf q n rec
  rw [he]
  exact ((State.HostSide.aside ha).trans ((State.modVf_hostSide _ _ _).trans (.aside hb))).trans rfl

theorem State.rejectEntry_hostSide (s : State) (vf q : Nat) (n corr : W32) (code : Nat) : s.HostSide (s.rejectEntry vf q n corr code) := by
  unfold State.rejectEntry State.passHead
  exact (s.postRecord_hostSide _ _ _ _).trans (State.modQueue_hostSide _ _ _ _)

theorem State.finishStops_vfs (s : State) : s.finishStops.vfs = s.vfs := by
  unfold State.finishStops
  split <;> rfl

theorem State.finishStops_hostSide (s : State) : s.HostSide s.finishStops := by
  unfold State.finishStops
  split <;> rfl

theorem State.finishEntry_hostSide (s : State) (vf q : Nat) : s.HostSide (s.finishEntry vf q) := by
  refine .trans ?_ (State.finishStops_hostSide _)
  exact s.modQueue_hostSide vf q _

/-! #### The answer -/

/-- The entry of a queue has its answer. -/
def State.answerQueue (s : State) (a : Arrival) (corr : W32) (code : Nat) : State :=
  match a.fromQueue with
  | some (q, n) => (if code = 0 then s else s.rejectEntry a.vf q n corr code).finishEntry a.vf q
  | none => s

theorem State.answerQueue_hostSide (s : State) (a : Arrival) (corr : W32) (code : Nat) : s.HostSide (s.answerQueue a corr code) := by
  unfold State.answerQueue
  split
  · refine .trans ?_ (State.finishEntry_hostSide _ _ _)
    split
    · exact .refl s
    · exact s.rejectEntry_hostSide _ _ _ _ _
  · exact .refl s

/-- A context of the unit that launched a packet has its answer. -/
def Ctx.answered (l u : W32) (tok code : Nat) (id : W32) (cx : Ctx) : Ctx :=
  if cx.launch = l ∧ cx.unit = u then
    { cx with ans := cx.ans.map fun r => if r.tok = tok ∧ !r.disp then { r with res := some (BitVec.ofNat 4 code, id) } else r }
  else cx

/-- The unit that launched a packet has its answer. -/
def State.answerUnit (s : State) (a : Arrival) (code : Nat) (id : W32) : State :=
  match a.fromCtx with
  | some (l, u, tok) =>
    { s with
      cores := s.cores.map fun p => (p.1, { p.2 with ctx := vmapI (fun _ cx => if cx.st = .free then cx else cx.answered l u tok code id) p.2.ctx })
      frames := s.frames.map fun f => { f with ctx := f.ctx.answered l u tok code id } }
  | none => s

/-- The device that sent a packet gets its answer. -/
def State.answerDevice (s : State) (a : Arrival) (code : Nat) (id : W32) : State :=
  match a.fromDev with
  | some (dev, vf) => { s with flits := s.flits ++ [Flit.answer dev vf id (BitVec.ofNat 4 code)] }
  | none => s

theorem State.answerPacket_eq (s : State) (a : Arrival) (corr : W32) (code : Nat) (id : W32) :
    s.answerPacket a corr code id = ((s.answerQueue a corr code).answerUnit a code id).answerDevice a code id := rfl

theorem State.answerDevice_kept (s : State) (a : Arrival) (code : Nat) (id : W32) : (s.answerDevice a code id).launches = s.launches ∧
    (s.answerDevice a code id).adm = s.adm ∧ (s.answerDevice a code id).vfs = s.vfs ∧ (s.answerDevice a code id).cores = s.cores := by
  unfold State.answerDevice
  split <;> exact ⟨rfl, rfl, rfl, rfl⟩

theorem State.answerUnit_kept (s : State) (a : Arrival) (code : Nat) (id : W32) : (s.answerUnit a code id).launches = s.launches ∧
    (s.answerUnit a code id).adm = s.adm ∧ (s.answerUnit a code id).vfs = s.vfs ∧ (s.answerUnit a code id).flits = s.flits := by
  unfold State.answerUnit
  split <;> exact ⟨rfl, rfl, rfl, rfl⟩

theorem State.answerPacket_launches (s : State) (a : Arrival) (corr : W32) (code : Nat) (id : W32) :
    (s.answerPacket a corr code id).launches = s.launches := by
  rw [State.answerPacket_eq, (State.answerDevice_kept _ _ _ _).1, (State.answerUnit_kept _ _ _ _).1, (s.answerQueue_hostSide _ _ _).launches]

theorem State.answerPacket_adm (s : State) (a : Arrival) (corr : W32) (code : Nat) (id : W32) :
    (s.answerPacket a corr code id).adm = s.adm := by
  rw [State.answerPacket_eq, (State.answerDevice_kept _ _ _ _).2.1, (State.answerUnit_kept _ _ _ _).2.1, (s.answerQueue_hostSide _ _ _).adm]

/-- A device that sent a packet gets one flit. -/
theorem State.answerPacket_flits {s : State} {a : Arrival} {d : BitVec 12} {v : BitVec 8} (h : a.fromDev = some (d, v)) (corr : W32) (code : Nat)
    (id : W32) : (s.answerPacket a corr code id).flits = s.flits ++ [.answer d v id (BitVec.ofNat 4 code)] := by
  obtain ⟨-, -, -, hunit⟩ := (s.answerQueue a corr code).answerUnit_kept a code id
  rw [State.answerPacket_eq, State.answerDevice, h]
  dsimp only
  rw [hunit, (s.answerQueue_hostSide _ _ _).flits]

/-! #### A rejected entry -/

/-- A record posted counts its entry as done. -/
theorem State.queue_postRecord (s : State) (vf q : Nat) (n : W32) (rec : Nat) :
    (s.postRecord vf q n rec).queue vf q = { s.queue vf q with done := (s.queue vf q).done + 1 } := by
  obtain ⟨a, b, m, -, hb, he⟩ := s.postRecord_eq vf q n rec
  have hq : b.queue vf q = { s.queue vf q with done := (s.queue vf q).done + 1 } := by
    rw [hb.queue, State.queue, State.vf_modVf]
    exact alGet_alSet_self _ _ _ _
  rw [he]
  exact hq

theorem State.queue_rejectEntry {q : Nat} (hq : q < 64) (s : State) (vf : Nat) (n corr : W32) (code : Nat) :
    ((s.rejectEntry vf q n corr code).queue vf q).head = (s.queue vf q).head + 1 ∧
      ((s.rejectEntry vf q n corr code).queue vf q).done = (s.queue vf q).done + 1 := by
  unfold State.rejectEntry State.passHead
  rw [State.queue_modQueue hq, State.queue_postRecord]
  exact ⟨rfl, rfl⟩

theorem State.queue_finishEntry {q : Nat} (hq : q < 64) (s : State) (vf : Nat) :
    ((s.finishEntry vf q).queue vf q).head = (s.queue vf q).head ∧ ((s.finishEntry vf q).queue vf q).done = (s.queue vf q).done := by
  unfold State.finishEntry
  rw [State.queue_congr (State.finishStops_vfs _), State.queue_modQueue hq]
  exact ⟨rfl, rfl⟩

/-- A rejected entry of a queue is done, and its slot is past it. -/
theorem State.queue_answerPacket {s : State} {a : Arrival} {q : Nat} {n : W32} (h : a.fromQueue = some (q, n)) (hq : q < 64) (corr : W32)
    {code : Nat} (hcode : code ≠ 0) (id : W32) :
    ((s.answerPacket a corr code id).queue a.vf q).head = (s.queue a.vf q).head + 1 ∧
      ((s.answerPacket a corr code id).queue a.vf q).done = (s.queue a.vf q).done + 1 := by
  obtain ⟨-, -, hdev, -⟩ := ((s.answerQueue a corr code).answerUnit a code id).answerDevice_kept a code id
  obtain ⟨-, -, hunit, -⟩ := (s.answerQueue a corr code).answerUnit_kept a code id
  have hans : s.answerQueue a corr code = (s.rejectEntry a.vf q n corr code).finishEntry a.vf q := by
    unfold State.answerQueue
    rw [h]
    dsimp only
    rw [if_neg hcode]
  obtain ⟨hhead, hdone⟩ := State.queue_finishEntry hq (s.rejectEntry a.vf q n corr code) a.vf
  obtain ⟨rhead, rdone⟩ := State.queue_rejectEntry hq s a.vf n corr code
  rw [State.answerPacket_eq, State.queue_congr hdev, State.queue_congr hunit, hans]
  exact ⟨hhead.trans rhead, hdone.trans rdone⟩

/-! #### The unit that launched a packet -/

/-- An entry of a table that is changed throughout, where the change keeps the default. -/
theorem alGet_map {α : Type} (d : α) (f : α → α) (hd : f d = d) (k : Nat) (l : List (Nat × α)) :
    alGet d k (l.map fun p => (p.1, f p.2)) = f (alGet d k l) := by
  induction l with
  | nil => exact hd.symm
  | cons p r ih =>
    simp only [List.map_cons, alGet]
    split
    · rfl
    · exact ih

/-- What the answer to the unit that launched a packet changes of a core. -/
def Core.answered (l u : W32) (tok code : Nat) (id : W32) (k : Core) : Core :=
  { k with ctx := vmapI (fun _ cx => if cx.st = .free then cx else cx.answered l u tok code id) k.ctx }

theorem Core.answered_ctx (l u : W32) (tok code : Nat) (id : W32) (k : Core) (x : CtxId) :
    (k.answered l u tok code id).ctx[x] = if k.ctx[x].st = .free then k.ctx[x] else k.ctx[x].answered l u tok code id :=
  vmapI_getElem _ _ _ _

theorem Core.answered_reset (l u : W32) (tok code : Nat) (id : W32) : Core.reset.answered l u tok code id = Core.reset := by
  have hctx : (Core.reset.answered l u tok code id).ctx = Core.reset.ctx := by
    ext i hi
    have hfree : Core.reset.ctx[i].st = .free := by
      have : Core.reset.ctx[i] = Ctx.reset := Vector.getElem_replicate _
      rw [this]
      rfl
    show (vmapI _ Core.reset.ctx)[i] = _
    rw [vmapI_getElem, if_pos hfree]
  exact congrArg (fun v => { Core.reset with ctx := v }) hctx

theorem State.answerUnit_ctx {s : State} {a : Arrival} {l u : W32} {tok : Nat} (h : a.fromCtx = some (l, u, tok)) (code : Nat) (id : W32)
    (c : Nat) (x : CtxId) (hfree : (s.ctx c x).st ≠ .free) :
    (s.answerUnit a code id).ctx c x = (s.ctx c x).answered l u tok code id := by
  have hcore : (s.answerUnit a code id).core c = (s.core c).answered l u tok code id := by
    unfold State.answerUnit
    rw [h]
    exact alGet_map Core.reset (Core.answered l u tok code id) (Core.answered_reset _ _ _ _ _) c s.cores
  rw [State.ctx, hcore, Core.answered_ctx]
  exact if_neg hfree

/-- An answer that a unit awaits is in its list afterwards. -/
theorem Ctx.answered_mem {cx : Ctx} {r : Answer} {tok code : Nat} (hr : r ∈ cx.ans) (htok : r.tok = tok) (hdisp : r.disp = false) (id : W32) :
    { r with res := some (BitVec.ofNat 4 code, id) } ∈ (cx.answered cx.launch cx.unit tok code id).ans := by
  unfold Ctx.answered
  rw [if_pos ⟨rfl, rfl⟩]
  exact List.mem_map.mpr ⟨r, hr, if_pos ⟨htok, by rw [hdisp]; rfl⟩⟩

theorem State.answerPacket_ctx {s : State} {a : Arrival} {l u : W32} {tok : Nat} (h : a.fromCtx = some (l, u, tok)) (corr : W32) (code : Nat)
    (id : W32) (c : Nat) (x : CtxId) (hfree : (s.ctx c x).st ≠ .free) :
    (s.answerPacket a corr code id).ctx c x = (s.ctx c x).answered l u tok code id := by
  obtain ⟨-, -, -, hdev⟩ := ((s.answerQueue a corr code).answerUnit a code id).answerDevice_kept a code id
  have hctx : (s.answerQueue a corr code).ctx c x = s.ctx c x := by
    unfold State.ctx State.core
    rw [(s.answerQueue_hostSide a corr code).cores]
  rw [State.answerPacket_eq, ← hctx, ← State.answerUnit_ctx h code id c x (by rw [hctx]; exact hfree)]
  unfold State.ctx State.core
  rw [hdev]

/-! #### A launch taken in -/

/-- `t` is `s` up to the graphs, phases and jobs and the counters of ids. -/
def State.Opened (s t : State) : Prop := t = { s with insts := t.insts, idCtr := t.idCtr, uidCtr := t.uidCtr }

namespace State.Opened

variable {s t u : State}

theorem refl (s : State) : s.Opened s := rfl

theorem trans (h : s.Opened t) (g : t.Opened u) : s.Opened u := by
  unfold State.Opened at *
  rw [g, h]

theorem launches (h : s.Opened t) : t.launches = s.launches := (congrArg State.launches h :)
theorem adm (h : s.Opened t) : t.adm = s.adm := (congrArg State.adm h :)

end State.Opened

theorem State.openInst_opened (s : State) (vf level : Nat) (id : W32) (up : Nat) : s.Opened (s.openInst vf level id up).2 := by
  unfold State.openInst
  by_cases h : id = 0
  · rw [if_pos h]; rfl
  · rw [if_neg h]; rfl

/-- A graph, phase or job that stands, or one that is opened. -/
def State.getInst (s : State) (a : Arrival) (i : Option Inst) (level : Nat) (id : W32) (up : Nat) : Inst × State :=
  match i with
  | some k => (k, s)
  | none => s.openInst a.vf level id up

theorem State.getInst_opened (s : State) (a : Arrival) (i : Option Inst) (level : Nat) (id : W32) (up : Nat) :
    s.Opened (s.getInst a i level id up).2 := by
  unfold State.getInst
  split
  · exact .refl s
  · exact s.openInst_opened _ _ _ _

theorem State.openGraph_opened (s : State) (a : Arrival) (j : Joins) : s.Opened (s.openGraph a j).2 := by
  have hnew : s.Opened (((s.getInst a j.job 4 a.job 0).2.getInst a j.phase 3 a.phase (s.getInst a j.job 4 a.job 0).1.serial).2.openInst a.vf 2 a.graph
      ((s.getInst a j.job 4 a.job 0).2.getInst a j.phase 3 a.phase (s.getInst a j.job 4 a.job 0).1.serial).1.serial).2 :=
    ((s.getInst_opened _ _ _ _ _).trans (State.getInst_opened _ _ _ _ _ _)).trans (State.openInst_opened _ _ _ _ _)
  unfold State.openGraph
  dsimp only
  split
  · exact .refl s
  · exact hnew

theorem State.countUp_opened (f : Nat) (s : State) (n : Nat) : s.Opened (s.countUp f n) := by
  induction f generalizing s n with
  | zero => exact .refl s
  | succ f ih =>
    unfold State.countUp
    split
    · exact .refl s
    · dsimp only
      split
      · exact .trans (t := s.modInst n fun k => { k with count := k.count + 1 }) rfl (ih _ _)
      · rfl

/-- The launch that a packet becomes, in its graph and with its id. -/
def Launch.taken (l : Launch) (a : Arrival) (g : Inst) (id : W32) (cap : Nat) : Launch :=
  { l with id := id, graph := g.id, inst := g.serial, counted := true, source := a.fromQueue, parkCap := cap, seq := id.toNat }

/-- A new launch is examined: it may wait no more; no other launch is added or lost. -/
theorem State.examine_launches (s : State) (k : Launch) : (s.examine k).adm = s.adm ∧
    ((s.examine k).launches = s.launches ∨ (s.examine k).launches = (s.modLaunch k.id fun k => { k with waits := [] }).launches) := by
  unfold State.examine
  split
  · have h := (s.modLaunch k.id fun k => { k with waits := [] }).passIfHead_hostSide k
    exact ⟨h.adm, .inr h.launches⟩
  · exact ⟨rfl, .inl rfl⟩

/-- A launch is taken in at the end of the list, and its packet's other fields are not looked at again. -/
theorem State.takeIn_eq (s : State) (a : Arrival) (l : Launch) (j : Joins) : ∃ (g : Inst) (id : W32) (cap : Nat) (t : State),
    (s.takeIn a l j).2 = t.examine (l.taken a g id cap) ∧ t.adm = s.adm ∧ t.launches = s.launches ++ [l.taken a g id cap] := by
  let g := (s.openGraph a j).1
  let s1 := (s.openGraph a j).2
  let id := s1.newId.1
  let s2 := s1.newId.2
  let cap := (s.vf a.vf).cfg.parkKiB * 1024 * l.units.toNat
  let k := l.taken a g id cap
  let s3 := ({ s2 with launches := s2.launches ++ [k] } : State).countUp 3 g.serial
  let s4 := if l.done = 0 then s3
    else s3.modVf a.vf fun v => { v with setters := v.setters ++ [(l.done, id)], broken := v.broken.filter fun i => i != l.done }
  let s5 : State := match a.fromQueue with
    | some (q, _) => s4.modQueue a.vf q fun k => { k with headId := id }
    | none => s4
  have h2 : s.Opened s2 := (s.openGraph_opened a j).trans rfl
  have h3 : ({ s2 with launches := s2.launches ++ [k] } : State).Opened s3 := State.countUp_opened _ _ _
  have h4 : s3.HostSide s4 := by
    show s3.HostSide (if l.done = 0 then s3 else _)
    split
    · exact .refl s3
    · exact s3.modVf_hostSide _ _
  have h5 : s4.HostSide s5 := by
    show s4.HostSide (match a.fromQueue with
      | some (q, _) => s4.modQueue a.vf q fun k => { k with headId := id }
      | none => s4)
    split
    · exact s4.modQueue_hostSide _ _ _
    · exact .refl s4
  refine ⟨g, id, cap, s5, rfl, ?_, ?_⟩
  · exact (h5.adm.trans h4.adm).trans (h3.adm.trans h2.adm)
  · exact (h5.launches.trans h4.launches).trans (h3.launches.trans (congrArg (· ++ [k]) h2.launches))

/-- Taking a launch in adds one launch, of the packet. -/
theorem State.takeIn_launches (s : State) (a : Arrival) (l : Launch) (j : Joins) : (s.takeIn a l j).2.adm = s.adm ∧
    (s.takeIn a l j).2.launches.length = s.launches.length + 1 ∧ ∃ n ∈ (s.takeIn a l j).2.launches, n = { l with
      id := n.id, graph := n.graph, inst := n.inst, counted := true, source := a.fromQueue, parkCap := n.parkCap, seq := n.seq, waits := n.waits } := by
  obtain ⟨g, id, cap, t, he, hadm, hl⟩ := s.takeIn_eq a l j
  obtain ⟨ha, hx⟩ := t.examine_launches (l.taken a g id cap)
  have hmem : l.taken a g id cap ∈ t.launches := by rw [hl]; simp
  have hlen : t.launches.length = s.launches.length + 1 := by rw [hl]; simp
  rw [he]
  refine ⟨ha.trans hadm, ?_⟩
  rcases hx with hx | hx
  · rw [hx]
    exact ⟨hlen, _, hmem, rfl⟩
  · rw [hx]
    refine ⟨(List.length_map _).trans hlen, { l.taken a g id cap with waits := [] }, List.mem_map.mpr ⟨_, hmem, if_pos rfl⟩, rfl⟩

/-! #### The row -/

theorem State.traceAdmit_aside (s : State) (a : Arrival) (corr : W32) (code : Nat) (id : W32) : s.Aside (s.traceAdmit a corr code id) := by
  unfold State.traceAdmit
  dsimp only
  split
  · exact s.trace_aside _ _
  · split
    · exact s.trace_aside _ _
    · exact s.trace_aside _ _

/-- The state in which a packet with its code is traced and answered. -/
def State.afterTest (s : State) (a : Arrival) (corr : W32) (code : Nat) (id : W32) : State :=
  (({ s with closed := s.stillClosed } : State).traceAdmit a corr code id).answerPacket a corr code id

theorem State.traceAdmit_closed_aside (s : State) (a : Arrival) (corr : W32) (code : Nat) (id : W32) :
    ({ s with closed := s.stillClosed } : State).Aside (({ s with closed := s.stillClosed } : State).traceAdmit a corr code id) :=
  State.traceAdmit_aside _ _ _ _ _

theorem State.afterTest_launches (s : State) (a : Arrival) (corr : W32) (code : Nat) (id : W32) : (s.afterTest a corr code id).launches = s.launches := by
  unfold State.afterTest
  rw [State.answerPacket_launches, (s.traceAdmit_closed_aside a corr code id).launches]

theorem State.afterTest_adm (s : State) (a : Arrival) (corr : W32) (code : Nat) (id : W32) : (s.afterTest a corr code id).adm = s.adm := by
  unfold State.afterTest
  rw [State.answerPacket_adm]
  exact (State.HostSide.aside (s.traceAdmit_closed_aside a corr code id)).adm

theorem execAdmissionTest_admitted {s : State} {a : Arrival} (ha : s.nextArrival s.ev.vf = some a) (hready : s.boot.ready = true)
    (hcycle : a.cycle < s.clk) {l : Launch} (hl : packetLaunch a.packet a.vf a.slot (s.vf a.vf).cfg.timeOff = l) (hcode : s.admissionCode a l = 0) :
    execAdmissionTest s = .next ((({ s with adm := s.adm.erase a } : State).takeIn a l (s.joins a)).2.afterTest a l.corr 0
      (({ s with adm := s.adm.erase a } : State).takeIn a l (s.joins a)).1) := by
  unfold execAdmissionTest
  dsimp only
  rw [ha]
  dsimp only
  rw [hl, hcode, hready, if_neg (by simp; omega)]
  rfl

theorem execAdmissionTest_refused {s : State} {a : Arrival} (ha : s.nextArrival s.ev.vf = some a) (hready : s.boot.ready = true)
    (hcycle : a.cycle < s.clk) {l : Launch} (hl : packetLaunch a.packet a.vf a.slot (s.vf a.vf).cfg.timeOff = l) (hcode : s.admissionCode a l ≠ 0) :
    execAdmissionTest s = .next (({ s with adm := s.adm.erase a } : State).afterTest a l.corr (s.admissionCode a l) 0) := by
  unfold execAdmissionTest
  dsimp only
  rw [ha]
  dsimp only
  rw [hl, hready, if_neg (by simp; omega), if_neg hcode]
  rfl

/-! #### Submission -/

theorem State.touchVa_aside (s : State) (vf va n : Nat) : s.Aside (s.touchVa vf va n) := by
  unfold State.touchVa
  cases s.xlateDirect vf va n with
  | none => exact .refl s
  | some pa => exact s.fenAdd_aside _

/-- A fresh id where one is needed, else the one at hand. -/
def State.freshId (s : State) (need : Prop) [Decidable need] (old : W32) : W32 × State := if need then s.newId else (old, s)

theorem State.freshId_snd (s : State) (need : Prop) [Decidable need] (old : W32) :
    (s.freshId need old).2 = { s with idCtr := (s.freshId need old).2.idCtr } := by
  unfold State.freshId
  split <;> rfl

theorem State.freshId_fst (s : State) (need : Prop) [Decidable need] (old : W32) (h : ¬ need) : (s.freshId need old).1 = old := by
  unfold State.freshId
  rw [if_neg h]

/-- Where the head entry of a slot's queue stands. -/
def State.headAt (s : State) (h : HwSlot) : Nat :=
  let k := s.queue h.vf h.q
  k.qbase.toNat + 64 * (k.head.toNat % 2 ^ k.log2n.toNat)

/-- The head entry of a slot's queue. -/
def State.headPacket (s : State) (h : HwSlot) : BitVec 512 := BitVec.ofNat 512 (s.loadVa h.vf (s.headAt h) 64)

/-- JOB of the head entry, fresh where the entry needs one. -/
def State.headJob (s : State) (h : HwSlot) : W32 × State :=
  (s.touchVa h.vf (s.headAt h) 64).freshId ((fld (Packet (s.headPacket h) 5) 16 32 : W32) = 0 ∧ (s.queue h.vf h.q).job = 0) (s.queue h.vf h.q).job

/-- PHASE of the head entry, fresh where the entry needs one. -/
def State.headPhase (s : State) (h : HwSlot) : W32 × State :=
  (s.headJob h).2.freshId ((fld (Packet (s.headPacket h) 5) 16 32 : W32) = 0 ∧ (s.queue h.vf h.q).phase = 0) (s.queue h.vf h.q).phase

/-- The head entry as it comes to admission. -/
def State.headArrival (s : State) (n : Nat) (h : HwSlot) : Arrival :=
  ⟨h.vf, n, s.headPacket h, some (h.q, (s.queue h.vf h.q).head), none, none, h.vf = 128, fld (Packet (s.headPacket h) 5) 16 32, (s.headPhase h).1,
    (s.headJob h).1, s.clk, false⟩

/-- The state with the head entry of a slot's queue submitted. -/
def State.submitted (s : State) (n : Nat) (h : HwSlot) : State :=
  let s3 := (s.headPhase h).2.modQueue h.vf h.q fun k => { k with fetched := true, job := (s.headJob h).1, phase := (s.headPhase h).1 }
  { s3 with adm := s3.adm ++ [s.headArrival n h] }

/-- Choosing the ids of a head entry reads it and takes ids. -/
theorem State.headPhase_kept (s : State) (h : HwSlot) : (s.headPhase h).2.adm = s.adm ∧
    ∀ vf q, (s.headPhase h).2.queue vf q = s.queue vf q := by
  have htouch := s.touchVa_aside h.vf (s.headAt h) 64
  have hjob := (s.touchVa h.vf (s.headAt h) 64).freshId_snd
    ((fld (Packet (s.headPacket h) 5) 16 32 : W32) = 0 ∧ (s.queue h.vf h.q).job = 0) (s.queue h.vf h.q).job
  have hphase := (s.headJob h).2.freshId_snd
    ((fld (Packet (s.headPacket h) 5) 16 32 : W32) = 0 ∧ (s.queue h.vf h.q).phase = 0) (s.queue h.vf h.q).phase
  refine ⟨?_, fun vf q => ?_⟩
  · exact ((congrArg State.adm hphase :).trans (congrArg State.adm hjob :)).trans (congrArg State.adm htouch.eq :)
  · rw [← htouch.queue]
    exact State.queue_congr ((congrArg State.vfs hphase :).trans (congrArg State.vfs hjob :)) vf q

theorem execQueueEntryFetch_eq {s : State} {n : Nat} {h : HwSlot} (hfind : s.slots.find? (fun p => decide (p.1 = s.ev.n)) = some (n, h))
    (hstop : h.stopping = false) (hen : (s.queue h.vf h.q).en = true) (hclosing : (s.queue h.vf h.q).closing = false)
    (herr : (s.queue h.vf h.q).qerr = false) (hfetched : (s.queue h.vf h.q).fetched = false)
    (htail : (s.queue h.vf h.q).head ≠ (s.queue h.vf h.q).tail) (hpoison : s.vaPoisoned h.vf (s.headAt h) = false) :
    execQueueEntryFetch s = .next (s.submitted n h) := by
  have hpoison' : s.vaPoisoned h.vf ((s.queue h.vf h.q).qbase.toNat + 64 * ((s.queue h.vf h.q).head.toNat % 2 ^ (s.queue h.vf h.q).log2n.toNat)) = false :=
    hpoison
  unfold execQueueEntryFetch
  rw [hfind]
  dsimp only
  rw [hstop, hen, hclosing, herr, hfetched, hpoison', decide_eq_false htail]
  have hclk2 : (s.touchVa h.vf (s.headAt h) 64).clk = s.clk := (congrArg State.clk (s.touchVa_aside h.vf (s.headAt h) 64).eq :)
  unfold State.submitted State.headArrival
  rw [← hclk2]
  rfl

/-- What the submission of a head entry shows. -/
theorem State.submitted_shows {s : State} (n : Nat) {h : HwSlot} (hq : h.q < 64) : (s.submitted n h).queue h.vf h.q =
    { s.queue h.vf h.q with fetched := true, job := (s.headJob h).1, phase := (s.headPhase h).1 } ∧
      (s.submitted n h).adm = s.adm ++ [s.headArrival n h] := by
  obtain ⟨hadm, hqueue⟩ := s.headPhase_kept h
  constructor
  · show ((s.headPhase h).2.modQueue h.vf h.q _).queue h.vf h.q = _
    rw [State.queue_modQueue hq, hqueue]
  · show ((s.headPhase h).2.modQueue h.vf h.q _).adm ++ _ = _
    rw [(State.modQueue_hostSide _ _ _ _).adm, hadm]

end Sys2Proof.Machine
end
section

/-! ### The rows of admission, queues and slots (O54) -/

namespace Sys2Proof.Machine

/-- ADMISSION_TEST takes its packet from the queue, and by its code admits one launch of it or answers it. -/
theorem admissionTest_shows {s : State} {a : Arrival} (ha : s.nextArrival s.ev.vf = some a) (hready : s.boot.ready = true) (hcycle : a.cycle < s.clk) :
    let l := packetLaunch a.packet a.vf a.slot (s.vf a.vf).cfg.timeOff
    let code := s.admissionCode a l
    ∃ u, exec .admissionTest s = .next u ∧ u.adm = s.adm.erase a ∧
      (code = 0 → u.launches.length = s.launches.length + 1 ∧ ∃ n ∈ u.launches, n.stage = .admitted ∧
        n = { l with
          id := n.id, graph := n.graph, inst := n.inst, counted := true, source := a.fromQueue, parkCap := n.parkCap, seq := n.seq, waits := n.waits }) ∧
      (code ≠ 0 → u.launches = s.launches ∧ (∀ d v, a.fromDev = some (d, v) → u.flits = s.flits ++ [.answer d v 0 (BitVec.ofNat 4 code)]) ∧
        (∀ q n, a.fromQueue = some (q, n) → q < 64 →
          (u.queue a.vf q).head = (s.queue a.vf q).head + 1 ∧ (u.queue a.vf q).done = (s.queue a.vf q).done + 1) ∧
        ∀ d z t c x r, a.fromCtx = some (d, z, t) → (s.ctx c x).st ≠ .free → (s.ctx c x).launch = d → (s.ctx c x).unit = z →
          r ∈ (s.ctx c x).ans → r.tok = t → r.disp = false → { r with res := some (BitVec.ofNat 4 code, 0) } ∈ (u.ctx c x).ans) := by
  intro l code
  by_cases hcode : code = 0
  · obtain ⟨hadm, hlen, n, hn, he⟩ := ({ s with adm := s.adm.erase a } : State).takeIn_launches a l (s.joins a)
    refine ⟨_, execAdmissionTest_admitted ha hready hcycle rfl hcode, (State.afterTest_adm _ _ _ _ _).trans hadm, fun _ => ?_,
      fun h => absurd hcode h⟩
    rw [State.afterTest_launches]
    exact ⟨hlen, n, hn, (congrArg Launch.stage he :), he⟩
  · let t : State := { s with adm := s.adm.erase a }
    have htrace := t.traceAdmit_closed_aside a l.corr code 0
    refine ⟨_, execAdmissionTest_refused ha hready hcycle rfl hcode, State.afterTest_adm _ _ _ _ _, fun h => absurd h hcode, fun _ =>
      ⟨State.afterTest_launches _ _ _ _ _, fun d v hd => ?_, fun q n hsource hq => ?_, fun d z tok c x r hctx hfree hd hz hr htok hdisp => ?_⟩⟩
    · refine (State.answerPacket_flits hd l.corr code 0).trans ?_
      rw [(State.HostSide.aside htrace).flits]
    · obtain ⟨hhead, hdone⟩ := State.queue_answerPacket (s := ({ t with closed := t.stillClosed } : State).traceAdmit a l.corr code 0) hsource hq
        l.corr hcode 0
      rw [htrace.queue] at hhead hdone
      exact ⟨hhead, hdone⟩
    · subst hd
      subst hz
      have hsame : (({ t with closed := t.stillClosed } : State).traceAdmit a l.corr code 0).ctx c x = s.ctx c x := htrace.ctx c x
      have hans := State.answerPacket_ctx (s := ({ t with closed := t.stillClosed } : State).traceAdmit a l.corr code 0) hctx l.corr code 0 c x
        (by rw [hsame]; exact hfree)
      show _ ∈ ((({ t with closed := t.stillClosed } : State).traceAdmit a l.corr code 0).answerPacket a l.corr code 0 |>.ctx c x).ans
      rw [hans, hsame]
      exact Ctx.answered_mem hr htok hdisp 0

/-- The launches that SIGNAL_RECHECK examines. -/
def State.atSignal (s : State) : List Launch :=
  s.launches.filter fun l => decide (l.vf = s.ev.vf) && decide (l.stage = .admitted) && l.waits.any fun i =>
    decide (((s.vf s.ev.vf).cfg.sigBase.toNat + 8 * i.toNat) / 64 = ((s.vf s.ev.vf).cfg.sigBase.toNat + 8 * s.ev.n) / 64)

theorem execSignalRecheck_one {s : State} {l : Launch} (h : s.atSignal = [l]) : execSignalRecheck s = .next (s.examine l) := by
  have he : execSignalRecheck s = .next (s.atSignal.foldl (fun t l => t.examine l) s) := rfl
  rw [he, h]
  rfl

theorem State.examine_set {s : State} {l : Launch} (h : ∀ i ∈ l.waits, s.sigSet l.vf i = true) :
    s.examine l = (s.modLaunch l.id fun k => { k with waits := [] }).passIfHead l := by
  unfold State.examine
  rw [if_pos (List.all_eq_true.mpr h)]

theorem State.examine_waits {s : State} {l : Launch} (h : ∃ i ∈ l.waits, s.sigSet l.vf i = false) : s.examine l = s := by
  obtain ⟨i, hi, hset⟩ := h
  unfold State.examine
  rw [if_neg]
  rw [List.all_eq_true]
  intro hall
  rw [hall i hi] at hset
  cases hset

/-- A launch that waits no more leaves its queue's head behind. -/
theorem State.queue_passIfHead {s : State} {l : Launch} {q : Nat} {n : W32} (hsource : l.source = some (q, n)) (hq : q < 64)
    (hhead : (s.queue l.vf q).headId = l.id) :
    (s.passIfHead l).queue l.vf q = { s.queue l.vf q with head := (s.queue l.vf q).head + 1, headId := 0, fetched := false } := by
  have hhead' : (alGet Queue.reset q (s.vf l.vf).queues).headId = l.id := hhead
  unfold State.passIfHead State.passHead
  rw [hsource]
  dsimp only
  rw [if_pos hhead', State.queue_modQueue hq]

/-- UNMAP and SWITCH once their slot is found. -/
theorem execUnmap_eq {s : State} {n : Nat} {h : HwSlot} (hfind : s.slots.find? (fun p => decide (p.1 = s.ev.n)) = some (n, h))
    (hfw : s.scheduling = true) : execUnmap s = .next ((s.stopSlot s.ev.n none).traceFw h.vf 1 s.ev.n h.q) := by
  unfold execUnmap
  dsimp only
  rw [hfind]
  dsimp only
  rw [hfw]
  rfl

theorem execSwitch_eq {s : State} {n : Nat} {h : HwSlot} (hfind : s.slots.find? (fun p => decide (p.1 = s.ev.n)) = some (n, h))
    (hfw : s.scheduling = true) (hmap : s.mapped s.ev.vf s.ev.q = false) (hen : (s.queue s.ev.vf s.ev.q).en = true) :
    execSwitch s = .next ((s.stopSlot s.ev.n (some (s.ev.vf, s.ev.q))).traceFw s.ev.vf 2 s.ev.n s.ev.q) := by
  have hany : (s.slots.any fun p => decide (p.1 = s.ev.n)) = true := by
    rw [List.any_eq_true]
    exact ⟨(n, h), List.mem_of_find?_eq_some hfind, (List.find?_some hfind :)⟩
  unfold execSwitch
  dsimp only
  rw [hfw, hany, hmap, hen]
  rfl

theorem execMap_eq {s : State} (hfw : s.scheduling = true) (hn : s.ev.n < 1024) (hfree : ∀ p ∈ s.slots, p.1 ≠ s.ev.n)
    (hmap : s.mapped s.ev.vf s.ev.q = false) (hen : (s.queue s.ev.vf s.ev.q).en = true) :
    execMap s = .next (({ s with slots := alSet s.ev.n ⟨s.ev.vf, s.ev.q, false, none⟩ s.slots } : State).traceFw s.ev.vf 0 s.ev.n s.ev.q) := by
  have hany : (s.slots.any fun p => decide (p.1 = s.ev.n)) = false := by
    rw [List.any_eq_false]
    exact fun p hp => by simpa using hfree p hp
  unfold execMap
  dsimp only
  rw [hfw, hany, hmap, hen, if_neg (by simp; omega)]

theorem State.Aside.slots {s t : State} (h : s.Aside t) : t.slots = s.slots := (congrArg State.slots h.eq :)

theorem State.traceFw_aside (s : State) (vf sub slot n : Nat) : s.Aside (s.traceFw vf sub slot n) := s.trace_aside _ _

/-! #### When all slots wait -/

/-- The state once each waiting slot has been traced. -/
def State.waitsTraced (s : State) : State := s.slots.foldl (fun t p => t.traceFw p.2.vf 4 p.1 p.2.q) s

theorem State.waitsTraced_aside (s : State) : s.Aside s.waitsTraced := by
  refine .foldl ?_ _ _
  exact fun t p => t.traceFw_aside _ _ _ _

/-- The launch in a cycle with the latest deadline, ties to the higher id. -/
def worstOf (l : List Launch) : Option Launch :=
  l.foldl (fun (best : Option Launch) l => match best with
    | none => some l
    | some b => if b.dl < l.dl ∨ (b.dl = l.dl ∧ b.id < l.id) then some l else some b) none

/-- The job of the launch in a cycle that is worst is cancelled. -/
def State.breakCycle (s : State) : State :=
  match worstOf (s.launches.filter s.inCycle) with
  | none => s
  | some l => match s.aboveAt l 4 with
    | some j => s.cancelInst j 3
    | none => s

theorem execAllWaiting_eq {s : State} (hslots : s.slots ≠ []) (hwait : ∀ p ∈ s.slots, s.headWaits p.2 = true) (hfw : s.scheduling = true) :
    execAllWaiting s = .next (if s.waitsTraced.runnables != [] then s.waitsTraced.replaceWaiting else s.waitsTraced.breakCycle) := by
  have hall : (s.slots.all fun p => s.headWaits p.2) = true := List.all_eq_true.mpr hwait
  unfold execAllWaiting
  rw [decide_eq_false hslots, hall, hfw]
  rfl

/-- One waiting slot goes to the one runnable queue. -/
theorem State.replaceWaiting_one {s : State} {n v q : Nat} {h : HwSlot} (hslots : s.slots = [(n, h)]) (hrun : s.runnables = [(v, q)]) :
    s.replaceWaiting.slots = [(n, ⟨v, q, false, none⟩)] := by
  unfold State.replaceWaiting
  dsimp only
  rw [hslots, List.mergeSort_singleton, hrun]
  simp only [List.zip_cons_cons, List.zip_nil_left, List.foldl_cons, List.foldl_nil]
  rw [(State.traceFw_aside _ _ _ _ _).slots, (State.traceFw_aside _ _ _ _ _).slots]
  show alSet n _ s.slots = _
  rw [hslots]
  simp [alSet]

/-! #### The clauses, row by row -/

theorem signalRecheck_shows {s : State} {l : Launch} (hl : s.launch? l.id = some l) (hone : s.atSignal = [l]) :
    ((∀ i ∈ l.waits, s.sigSet l.vf i = true) → ∃ u, exec .signalRecheck s = .next u ∧ u.launch? l.id = some { l with waits := [] } ∧
      ∀ q n, l.source = some (q, n) → q < 64 → (s.queue l.vf q).headId = l.id →
        (u.queue l.vf q).head = (s.queue l.vf q).head + 1 ∧ (u.queue l.vf q).fetched = false) ∧
    ((∃ i ∈ l.waits, s.sigSet l.vf i = false) → exec .signalRecheck s = .next s) := by
  have hexec : exec .signalRecheck s = .next (s.examine l) := execSignalRecheck_one hone
  rw [hexec]
  refine ⟨fun hset => ⟨_, rfl, ?_⟩, fun hwait => by rw [State.examine_waits hwait]⟩
  rw [State.examine_set hset]
  refine ⟨?_, fun q n hsource hq hhead => ?_⟩
  · have hlaunch : (s.modLaunch l.id fun k => { k with waits := [] }).launch? l.id = some { l with waits := [] } :=
      (State.launch?_modLaunch_self s l.id (fun k => { k with waits := [] }) fun _ => rfl).trans (by rw [hl]; rfl)
    rw [← hlaunch]
    unfold State.launch?
    rw [(State.passIfHead_hostSide _ l).launches]
  · rw [State.queue_passIfHead (s := s.modLaunch l.id fun k => { k with waits := [] }) hsource hq hhead]
    exact ⟨rfl, rfl⟩

theorem launchComplete_admitted_shows {s : State} {l : Launch} (hl : s.launch? s.ev.l = some l) (hstage : l.stage = .admitted)
    (hall : l.allDone = true) : ∃ u n, exec .launchComplete s = .next u ∧ u.launch? s.ev.l = some n ∧ n.stage = .complete ∧
      n.source = none ∧ n.counted = false ∧
      ∀ pa, l.source = none → l.late = true → l.done ≠ 0 → s.objs = [] → (∀ p ∈ s.wstores, p.1 ≠ s.ev.l) →
        s.xlateDirect l.vf (s.sigAddr l.vf l.done) 8 = some pa → (s.walk l.vf (s.sigAddr l.vf l.done)).any (fun t => t.w) = true →
        region pa ≠ 3 → (region pa = 2 → s.boot.linkErr = false) → s.late = [] →
        u.mem = writeNat s.mem pa ((readNat s.mem pa 8 + 1) % 2 ^ 64) 8 := by
  obtain ⟨t, k, ht, hk, hlk, he⟩ := execLaunchComplete_kept hl
  have hid : k.id = s.ev.l := State.launch?_id hk
  obtain ⟨n, hn, hstage', hsource, hcounted⟩ := State.completeStep_admitted (by rw [hid]; exact hk) (hlk.stage.trans hstage) (hlk.allDone hall)
  refine ⟨_, n, he, by rw [← hid]; exact hn, hstage', hsource, hcounted, ?_⟩
  intro pa hsrc hlatel hdone hobjs hstores hpa hw hwin hlink hlate
  have hts : t = s := by rw [ht, if_pos hall, State.performedFor_eq hstores hlate]
  rw [hts] at hk ⊢
  obtain rfl : l = k := Option.some.inj (hl.symm.trans hk)
  exact State.completeStep_mem (by rw [hid]; exact hk) hstage hall hsrc hlatel hdone hobjs hlate hpa hw hwin hlink

theorem launchComplete_cancelled_shows {s : State} {l : Launch} (hl : s.launch? s.ev.l = some l) (hstage : l.stage = .cancelled)
    (hdone : l.placed ≤ l.doneUnits) : ∃ u n, exec .launchComplete s = .next u ∧ u.launch? s.ev.l = some n ∧
      n.stage = .cancelled ∧ n.source = none ∧ n.counted = false := by
  obtain ⟨t, k, -, hk, hlk, he⟩ := execLaunchComplete_kept hl
  have hid : k.id = s.ev.l := State.launch?_id hk
  have hkdone : k.placed ≤ k.doneUnits := by
    rw [hlk.placed]
    exact Nat.le_trans hdone hlk.done
  obtain ⟨n, hn, hshows⟩ := State.completeStep_cancelled (by rw [hid]; exact hk) (hlk.stage.trans hstage) hkdone
  exact ⟨_, n, he, by rw [← hid]; exact hn, hshows⟩

theorem queueEntryFetch_shows {s : State} {n : Nat} {h : HwSlot} (hfind : s.slots.find? (fun p => decide (p.1 = s.ev.n)) = some (n, h)) :
    let r := s.queue h.vf h.q
    let at_ := r.qbase.toNat + 64 * (r.head.toNat % 2 ^ r.log2n.toNat)
    h.q < 64 → h.stopping = false → r.en = true → r.closing = false → r.qerr = false → r.fetched = false → r.head ≠ r.tail →
      s.vaPoisoned h.vf at_ = false → ∃ u a, exec .queueEntryFetch s = .next u ∧ (u.queue h.vf h.q).fetched = true ∧
        (u.queue h.vf h.q).head = r.head ∧ u.adm = s.adm ++ [a] ∧ a.vf = h.vf ∧ a.fromQueue = some (h.q, r.head) ∧ a.slot = n ∧
        a.packet = BitVec.ofNat 512 (s.loadVa h.vf at_ 64) ∧ a.job = (u.queue h.vf h.q).job ∧ a.phase = (u.queue h.vf h.q).phase ∧
        (r.job ≠ 0 → a.job = r.job) ∧ (r.phase ≠ 0 → a.phase = r.phase) := by
  intro r at_ hq hstop hen hclosing herr hfetched htail hpoison
  obtain ⟨hqueue, hadm⟩ := s.submitted_shows n hq
  refine ⟨s.submitted n h, s.headArrival n h, execQueueEntryFetch_eq hfind hstop hen hclosing herr hfetched htail hpoison, ?_⟩
  rw [hqueue]
  refine ⟨rfl, rfl, hadm, rfl, rfl, rfl, rfl, rfl, rfl, fun hjob => ?_, fun hphase => ?_⟩
  · exact State.freshId_fst _ _ _ fun hneed => hjob hneed.2
  · exact State.freshId_fst _ _ _ fun hneed => hphase hneed.2

/-- Slots of a stopping number: they stop once their entry has its code, or go at once. -/
theorem unmap_shows {s : State} {n : Nat} {h : HwSlot} (hfind : s.slots.find? (fun p => decide (p.1 = s.ev.n)) = some (n, h))
    (hall : ∀ p ∈ s.slots, p.1 = s.ev.n → p.2 = h) (hfw : s.scheduling = true) : ∃ u, exec .unmap s = .next u ∧ u.slots =
      if (s.queue h.vf h.q).testing = true then s.slots.map fun p => if p.1 = s.ev.n then (p.1, { p.2 with stopping := true, next := none }) else p
      else s.slots.filter fun p => decide (p.1 ≠ s.ev.n) := by
  refine ⟨_, execUnmap_eq hfind hfw, ?_⟩
  rw [(State.traceFw_aside _ _ _ _ _).slots, State.stopSlot_slots hall]
  split
  · rw [← List.filterMap_eq_map]
    refine List.filterMap_congr fun p _ => ?_
    by_cases hp : p.1 = s.ev.n <;> simp [hp]
  · rw [← List.filterMap_eq_filter]
    refine List.filterMap_congr fun p _ => ?_
    by_cases hp : p.1 = s.ev.n <;> simp [hp, Option.guard]

theorem switch_shows {s : State} {n : Nat} {h : HwSlot} (hfind : s.slots.find? (fun p => decide (p.1 = s.ev.n)) = some (n, h))
    (hall : ∀ p ∈ s.slots, p.1 = s.ev.n → p.2 = h) (hfw : s.scheduling = true) (hmap : s.mapped s.ev.vf s.ev.q = false)
    (hen : (s.queue s.ev.vf s.ev.q).en = true) : ∃ u, exec .switch s = .next u ∧
      u.slots = s.slots.map fun p => if p.1 ≠ s.ev.n then p
        else if (s.queue h.vf h.q).testing = true then (p.1, { p.2 with stopping := true, next := some (s.ev.vf, s.ev.q) })
        else (p.1, ⟨s.ev.vf, s.ev.q, false, none⟩) := by
  refine ⟨_, execSwitch_eq hfind hfw hmap hen, ?_⟩
  rw [(State.traceFw_aside _ _ _ _ _).slots, State.stopSlot_slots hall, ← List.filterMap_eq_map]
  refine List.filterMap_congr fun p _ => ?_
  by_cases hp : p.1 = s.ev.n
  · by_cases ht : (s.queue h.vf h.q).testing = true <;> simp [hp, ht]
  · simp [hp]

theorem allWaiting_shows {s : State} (hslots : s.slots ≠ []) (hwait : ∀ p ∈ s.slots, s.headWaits p.2 = true) (hfw : s.scheduling = true) :
    let t := s.slots.foldl (fun t p => t.traceFw p.2.vf 4 p.1 p.2.q) s
    (t.runnables ≠ [] → exec .allWaiting s = .next t.replaceWaiting) ∧
    (∀ n h v q, s.slots = [(n, h)] → t.runnables = [(v, q)] → ∃ u, exec .allWaiting s = .next u ∧ u.slots = [(n, ⟨v, q, false, none⟩)]) ∧
    (t.runnables = [] → t.launches.filter t.inCycle = [] → exec .allWaiting s = .next t) ∧
    (t.runnables = [] → ∀ l j, t.launches.filter t.inCycle = [l] → t.aboveAt l 4 = some j → exec .allWaiting s = .next (t.cancelInst j 3)) := by
  intro t
  have hsame : s.Aside t := s.waitsTraced_aside
  have hexec : exec .allWaiting s = .next (if t.runnables != [] then t.replaceWaiting else t.breakCycle) := execAllWaiting_eq hslots hwait hfw
  have hbusy (h : t.runnables ≠ []) : exec .allWaiting s = .next t.replaceWaiting := by rw [hexec, if_pos (bne_iff_ne.mpr h)]
  have hidle (h : t.runnables = []) : exec .allWaiting s = .next t.breakCycle := by rw [hexec, h]; rfl
  refine ⟨hbusy, fun n h v q hone hrun => ⟨_, hbusy (by rw [hrun]; simp), State.replaceWaiting_one (hsame.slots.trans hone) hrun⟩,
    fun hnone hcycle => ?_, fun hnone l j hcycle hj => ?_⟩
  · rw [hidle hnone, State.breakCycle, hcycle]
    rfl
  · rw [hidle hnone, State.breakCycle, hcycle]
    simp only [worstOf, List.foldl_cons, List.foldl_nil, hj]

/-- A new phase closes the one that its queue named. -/
theorem phase_closes {s : State} {i : Inst} (hne : s.ev.l ≠ (s.queue s.ev.vf s.ev.q).phase)
    (hi : s.inst? s.ev.vf 3 (s.queue s.ev.vf s.ev.q).phase = some i) (f : Queue → Queue) :
    { i with closed := true } ∈ (((s.closeInst s.ev.vf 3 (s.queue s.ev.vf s.ev.q).phase).renewId s.ev.vf 3 s.ev.l).modQueue s.ev.vf s.ev.q f).insts := by
  obtain ⟨-, -, -, hid⟩ := State.mem_of_inst? hi
  rw [State.modQueue_insts]
  exact State.mem_renewId (State.closed_mem_closeInst hi) fun _ h => hne (h.symm.trans hid)

/-- A new job closes the one that its queue named, and the phase. -/
theorem job_closes {s : State} {i : Inst} (hne : s.ev.l ≠ (s.queue s.ev.vf s.ev.q).job)
    (hi : s.inst? s.ev.vf 4 (s.queue s.ev.vf s.ev.q).job = some i ∨ s.inst? s.ev.vf 3 (s.queue s.ev.vf s.ev.q).phase = some i) (f : Queue → Queue) :
    { i with closed := true } ∈ ((((s.closeInst s.ev.vf 4 (s.queue s.ev.vf s.ev.q).job).closeInst s.ev.vf 3 (s.queue s.ev.vf s.ev.q).phase).renewId
      s.ev.vf 4 s.ev.l).modQueue s.ev.vf s.ev.q f).insts := by
  rw [State.modQueue_insts]
  rcases hi with hjob | hphase
  · obtain ⟨-, -, -, hid⟩ := State.mem_of_inst? hjob
    exact State.mem_renewId (State.closed_mem_closeInst_of_mem (State.closed_mem_closeInst hjob) _ _ _) fun _ h => hne (h.symm.trans hid)
  · obtain ⟨-, -, hlevel, -⟩ := State.mem_of_inst? hphase
    obtain ⟨j, hj, he⟩ := State.inst?_closeInst hphase s.ev.vf 4 (s.queue s.ev.vf s.ev.q).job
    refine State.mem_renewId (he ▸ State.closed_mem_closeInst hj) fun h4 _ => ?_
    have h4' : i.level = 4 := h4
    omega

/-- A row that writes its queue shows it there and in no other. -/
theorem State.writes_queue {s : State} (hq : s.ev.q < 64) {i : Instr} {f : Queue → Queue} {t : State} (ht : t.vfs = s.vfs)
    (he : exec i s = .next (t.modQueue s.ev.vf s.ev.q f)) {r : Queue} (hr : f (s.queue s.ev.vf s.ev.q) = r) :
    ∃ u, exec i s = .next u ∧ u.queue s.ev.vf s.ev.q = r ∧ ∀ p, p ≠ s.ev.q → u.queue s.ev.vf p = s.queue s.ev.vf p :=
  ⟨_, he, State.modQueue_shows hq _ _ hr ht⟩

/-- The refused and the good sizes of a queue that is to be enabled. -/
theorem enSet_shows {s : State} (hq : s.ev.q < 64) :
    let k := s.queue s.ev.vf s.ev.q
    (k.en = false → 1 ≤ k.log2n.toNat → k.log2n.toNat ≤ 16 → k.qbase.toNat % 64 = 0 → k.cqbase.toNat % 32 = 0 →
      ∃ u, exec .enSet s = .next u ∧ u.queue s.ev.vf s.ev.q =
        { k with en := true, head := 0, tail := 0, done := 0, headId := 0, fetched := false, closing := false } ∧
        ∀ p, p ≠ s.ev.q → u.queue s.ev.vf p = s.queue s.ev.vf p) ∧
    (k.log2n.toNat < 1 ∨ 16 < k.log2n.toNat ∨ k.qbase.toNat % 64 ≠ 0 ∨ k.cqbase.toNat % 32 ≠ 0 →
      ∃ u, exec .enSet s = .next u ∧ u.queue s.ev.vf s.ev.q = k ∧ ∀ p, p ≠ s.ev.q → u.queue s.ev.vf p = s.queue s.ev.vf p) := by
  intro k
  refine ⟨fun hen hlo hhi hqb hcq => State.writes_queue hq rfl rfl ?_, fun hbad => State.writes_queue hq rfl rfl ?_⟩
  · show (if k.en || decide (k.log2n.toNat < 1) || decide (16 < k.log2n.toNat) || decide (k.qbase.toNat % 64 ≠ 0) || decide (k.cqbase.toNat % 32 ≠ 0)
      then k else _) = _
    rw [if_neg]
    simp [hen, hqb, hcq]
    omega
  · show (if k.en || decide (k.log2n.toNat < 1) || decide (16 < k.log2n.toNat) || decide (k.qbase.toNat % 64 ≠ 0) || decide (k.cqbase.toNat % 32 ≠ 0)
      then k else _) = _
    rw [if_pos]
    rcases hbad with h | h | h | h <;> simp [h]

/-- A route written is the only one of its device. -/
theorem route_shows {s : State} {d : BitVec 12} {p : Nat} (hr : s.ev.reg = .route d (some p)) (hp : p < 16) (hfw : s.fwRuns 2 = true) :
    ∃ u, exec .registerWrite s = .next u ∧ (d.toNat, p) ∈ u.routes ∧ ∀ r ∈ u.routes, r.1 = d.toNat → r.2 = p := by
  have he : execRegisterWrite s = .next { s with routes := [(d.toNat, p)] ++ s.routes.filter fun r => r.1 ≠ d.toNat } := by
    unfold execRegisterWrite
    rw [hr]
    dsimp only
    rw [hfw, if_neg (by simp; omega)]
  refine ⟨_, he, List.mem_append_left _ (List.mem_singleton_self _), fun r hmem hd => ?_⟩
  rcases List.mem_append.mp hmem with h | h
  · rw [List.mem_singleton.mp h]
  · have hne := (List.mem_filter.mp h).2
    simp only [ne_eq, decide_not, Bool.not_eq_true', decide_eq_false_iff_not] at hne
    exact absurd hd hne

theorem execRegisterWrite_floor {s : State} {vf : Nat} (hr : s.ev.reg = .floor vf) (hv : s.ev.v.toNat ≤ 500) :
    execRegisterWrite s = .next (s.modVf vf fun k => { k with cfg := { k.cfg with floor := s.ev.v.toNat } }) := by
  unfold execRegisterWrite
  rw [hr]
  dsimp only
  rw [if_pos hv]

/-- Registers of a queue, and which of them an enabled queue keeps. -/
theorem queueRegisters_show {s : State} (hq : s.ev.q < 64) :
    let k := s.queue s.ev.vf s.ev.q
    let onQueue (r : Queue) : Prop := ∃ u, exec .registerWrite s = .next u ∧ u.queue s.ev.vf s.ev.q = r ∧
      ∀ p, p ≠ s.ev.q → u.queue s.ev.vf p = s.queue s.ev.vf p
    (s.ev.reg = .qbase s.ev.vf s.ev.q → onQueue (if k.en then k else { k with qbase := s.ev.v })) ∧
    (s.ev.reg = .cqbase s.ev.vf s.ev.q → onQueue (if k.en then k else { k with cqbase := s.ev.v })) ∧
    (s.ev.reg = .cqsig s.ev.vf s.ev.q → onQueue { k with cqsig := s.ev.v }) ∧
    (s.ev.reg = .qctl s.ev.vf s.ev.q → onQueue { k with
      qerr := k.qerr && !(s.ev.v.getLsbD 17), irq := s.ev.v.getLsbD 16, vec := fld s.ev.v 8 8, log2n := if k.en then k.log2n else fld s.ev.v 0 5 }) := by
  intro k onQueue
  have hwrite (f : Queue → Queue) (he : execRegisterWrite s = .next (s.modQueue s.ev.vf s.ev.q f)) : onQueue (f k) :=
    State.writes_queue (i := .registerWrite) hq rfl he rfl
  refine ⟨fun hr => ?_, fun hr => ?_, fun hr => ?_, fun hr => ?_⟩
  · exact hwrite (fun k => if k.en then k else { k with qbase := s.ev.v }) (by unfold execRegisterWrite; rw [hr])
  · exact hwrite (fun k => if k.en then k else { k with cqbase := s.ev.v }) (by unfold execRegisterWrite; rw [hr])
  · exact hwrite (fun k => { k with cqsig := s.ev.v }) (by unfold execRegisterWrite; rw [hr])
  · exact hwrite (fun k => { k with
      qerr := k.qerr && !(s.ev.v.getLsbD 17), irq := s.ev.v.getLsbD 16, vec := fld s.ev.v 8 8, log2n := if k.en then k.log2n else fld s.ev.v 0 5 })
      (by unfold execRegisterWrite; rw [hr])

end Sys2Proof.Machine

namespace Sys2Proof.Proofs
open Sys2Proof.Machine

/-- Settles O54: each row is an equation of what it does, and frames say what that leaves of launches, packets and queues. -/
theorem admissionQueuesAndSlots : Obligations.AdmissionQueuesAndSlots := by
  unfold Obligations.AdmissionQueuesAndSlots
  intro s
  refine ⟨fun a ha hready hcycle => admissionTest_shows ha hready hcycle, fun l hl hone => signalRecheck_shows hl hone,
    fun l hl => ⟨launchComplete_admitted_shows hl, launchComplete_cancelled_shows hl⟩,
    fun n h hfind hall => ⟨queueEntryFetch_shows hfind, unmap_shows hfind hall, switch_shows hfind hall⟩,
    fun hfw hn hfree hmap hen => ⟨_, execMap_eq hfw hn hfree hmap hen, State.Aside.slots (State.traceFw_aside _ _ _ _ _)⟩, allWaiting_shows,
    fun hq => ⟨State.writes_queue hq rfl rfl rfl, (enSet_shows hq).1, (enSet_shows hq).2, State.writes_queue hq rfl rfl ?_,
      fun hne hl hlive => ⟨?_, ?_⟩, fun hne hl => ?_, fun i hi hl hdone => execPhase_live hi hl hdone, fun hne hl hlive => ⟨?_, ?_⟩, fun i hi hl hdone => execJob_live hi hl hdone,
      queueRegisters_show hq⟩,
    fun c x hr => ?_, fun n hr hn hfw => ?_, fun n hr hlive => ?_, fun n hr => ?_, fun g p ms hr hg hp hp' hfw => ?_, fun d p hr hp hfw => ?_,
    fun vf hr hv => ?_, fun hr => ?_⟩
  · simp only [Bool.and_eq_true]
  · exact State.writes_queue (i := .phase) (f := fun k => { k with phase := s.ev.l })
      (t := (s.closeInst s.ev.vf 3 (s.queue s.ev.vf s.ev.q).phase).renewId s.ev.vf 3 s.ev.l) hq (s.closeInst_vfs _ _ _)
      ((execPhase_new hne (.inr hlive)).trans (by rw [if_neg hl])) rfl
  · exact ⟨_, (execPhase_new hne (.inr hlive)).trans (by rw [if_neg hl]), fun i hi => phase_closes hne hi _⟩
  · exact State.writes_queue (i := .phase) (f := fun k => { k with phase := s.ev.l }) hq rfl
      ((execPhase_new hne (.inl hl)).trans (by rw [if_pos hl])) (by rw [hl])
  · refine State.writes_queue (i := .job) (f := fun k => { k with job := s.ev.l, phase := 0 }) hq ?_ (execJob_new hne hlive) rfl
    exact (State.closeInst_vfs _ _ _ _).trans (s.closeInst_vfs _ _ _)
  · exact ⟨_, execJob_new hne hlive, fun i hi => job_closes hne hi _⟩
  · show execRegisterWrite s = _
    unfold execRegisterWrite
    rw [hr]
  · show execRegisterWrite s = _
    unfold execRegisterWrite
    rw [hr]
    dsimp only
    rw [if_pos rfl, if_pos ⟨hn, hfw⟩]
  · show execRegisterWrite s = _
    unfold execRegisterWrite
    rw [hr]
    dsimp only
    rw [if_neg Bool.false_ne_true, if_pos hlive]
  · show execRegisterWrite s = _
    unfold execRegisterWrite
    rw [hr]
  · show execRegisterWrite s = _
    unfold execRegisterWrite
    rw [hr]
    dsimp only
    rw [if_pos ⟨hg, hp, hp', hfw⟩]
  · exact route_shows hr hp hfw
  · refine ⟨_, execRegisterWrite_floor hr hv, ?_⟩
    rw [State.vf_modVf]
  · show execRegisterWrite s = _
    unfold execRegisterWrite
    rw [hr]

end Sys2Proof.Proofs
end

section
/-! PROOF. The scalar slot: arithmetic, counts and extensions, immediates, compares and generators (O8, O9, O10, O11). -/

namespace Sys2Proof.Machine

/-- A result in flight is known by any expression equal to its value. -/
theorem landsS_congr {o : Out} {s : State} {n : Nat} {d : BitVec 5} {v w : W64} {z : BitVec 12} (he : o = .next (s.land n (.s d v) z)) (hv : v = w) :
    o = .next (s.land n (.s d w) z) := hv ▸ he

/-! ### Counts of bits (R104) -/

theorem ctzFuel_zero : ∀ f, ctzFuel f 0 = f
  | 0 => rfl
  | f + 1 => by simp [ctzFuel, ctzFuel_zero f, Nat.add_comm]

/-- With fuel for every bit of a number that is not 0, `ctzFuel` is the index of its lowest one bit. -/
theorem ctzFuel_lowest {f v : Nat} (hv : v ≠ 0) (hf : v < 2 ^ f) :
    ctzFuel f v < f ∧ v.testBit (ctzFuel f v) = true ∧ ∀ j, j < ctzFuel f v → v.testBit j = false := by
  induction f generalizing v with
  | zero => omega
  | succ f ih =>
    by_cases h : v % 2 = 1
    · simp [ctzFuel, h, Nat.testBit_zero]
    · obtain ⟨hlt, hone, hlow⟩ := ih (v := v / 2) (by omega) (by omega)
      have hstep : ctzFuel (f + 1) v = ctzFuel f (v / 2) + 1 := by rw [ctzFuel, if_neg h, Nat.add_comm]
      rw [hstep, Nat.testBit_add_one]
      refine ⟨by omega, hone, fun j hj => ?_⟩
      cases j with
      | zero => simp [Nat.testBit_zero, h]
      | succ j => rw [Nat.testBit_add_one]; exact hlow j (by omega)

theorem popFuel_eq_countP (f v : Nat) : popFuel f v = (List.range f).countP fun j => v.testBit j := by
  induction f generalizing v with
  | zero => rfl
  | succ f ih =>
    have htail : ((fun j => v.testBit j) ∘ Nat.succ) = fun j => (v / 2).testBit j := funext fun j => Nat.testBit_succ v j
    have hhead : v % 2 = if v.testBit 0 = true then 1 else 0 := by
      rcases Nat.mod_two_eq_zero_or_one v with h | h <;> simp [Nat.testBit_zero, h]
    rw [List.range_succ_eq_map, List.countP_cons, List.countP_map, htail, ← ih, ← hhead, popFuel, Nat.add_comm]

theorem bitLen_bounds {v : Nat} (hv : v ≠ 0) : 0 < bitLen v ∧ 2 ^ (bitLen v - 1) ≤ v ∧ v < 2 ^ bitLen v := by
  rw [bitLen, if_neg hv]
  exact ⟨Nat.succ_pos _, Nat.log2_self_le hv, Nat.lt_log2_self⟩

theorem clz64_zero : clz64 0 = 64 := rfl

/-- Above the highest one bit of a word, which has index 63 - n, stand n zeros. -/
theorem clz64_highest {v : W64} (hv : v ≠ 0) : clz64 v < 64 ∧ 2 ^ (63 - clz64 v) ≤ v.toNat ∧ v.toNat < 2 ^ (64 - clz64 v) := by
  obtain ⟨hpos, hlow, hhigh⟩ := bitLen_bounds (v := v.toNat) (by simpa [BitVec.toNat_eq] using hv)
  have hle : bitLen v.toNat ≤ 64 := by
    have := (Nat.pow_lt_pow_iff_right (by decide : 1 < 2)).mp (Nat.lt_of_le_of_lt hlow v.isLt)
    omega
  have htop : 64 - clz64 v = bitLen v.toNat := Nat.sub_sub_self hle
  have htop' : 63 - clz64 v = bitLen v.toNat - 1 := by omega
  exact ⟨Nat.sub_lt (by decide) hpos, htop' ▸ hlow, htop ▸ hhigh⟩

theorem ctz64_zero : ctz64 0 = 64 := ctzFuel_zero 64

theorem ctz64_lowest {v : W64} (hv : v ≠ 0) :
    ctz64 v < 64 ∧ v.getLsbD (ctz64 v) = true ∧ ∀ j, j < ctz64 v → v.getLsbD j = false :=
  ctzFuel_lowest (by simpa [BitVec.toNat_eq] using hv) v.isLt

/-! ### Extensions (R104) -/

/-- The bits of a word whose low w bits were sign-extended. -/
theorem getLsbD_signExtend_low (v : W64) {w j : Nat} (hw : 0 < w) (hj : j < 64) :
    ((v.setWidth w).signExtend 64).getLsbD j = v.getLsbD (Nat.min j (w - 1)) := by
  rw [BitVec.getLsbD_signExtend, BitVec.msb_eq_getLsbD_last]
  by_cases h : j < w
  · simp [h, hj, show Nat.min j (w - 1) = j from Nat.min_eq_left (by omega)]
  · simp [h, hj, hw, show Nat.min j (w - 1) = w - 1 from Nat.min_eq_right (by omega)]

/-- The bits of a word whose low w bits were zero-extended. -/
theorem getLsbD_zeroExtend_low (v : W64) {w j : Nat} (hj : j < 64) :
    ((v.setWidth w).setWidth 64).getLsbD j = (decide (j < w) && v.getLsbD j) := by
  simp [hj]

/-- Codes 0, 1 and 2 name the widths 8, 16 and 32. -/
theorem sextW_eq {w : BitVec 2} (hw : w.toNat ≤ 2) (v : W64) : sextW w v = (v.setWidth (8 * 2 ^ w.toNat)).signExtend 64 := by
  unfold sextW
  generalize w.toNat = n at hw
  match n, hw with
  | 0, _ | 1, _ | 2, _ => rfl

theorem zextW_eq {w : BitVec 2} (hw : w.toNat ≤ 2) (v : W64) : zextW w v = (v.setWidth (8 * 2 ^ w.toNat)).setWidth 64 := by
  unfold zextW
  generalize w.toNat = n at hw
  match n, hw with
  | 0, _ | 1, _ | 2, _ => rfl

/-! ### Division (R103) -/

theorem divide_zero (sgn : Bool) (a : W64) : divide sgn a 0 = (BitVec.allOnes 64, a, cDZ) := rfl

theorem divide_unsigned {a b : W64} (hb : b ≠ 0) :
    divide false a b = (BitVec.ofNat 64 (a.toNat / b.toNat), BitVec.ofNat 64 (a.toNat % b.toNat), 0) := by
  rw [divide, if_neg hb, if_neg (by simp), if_neg Bool.false_ne_true]

theorem divide_overflow : divide true (BitVec.intMin 64) (BitVec.allOnes 64) = (BitVec.intMin 64, 0, cINV) := rfl

theorem toInt_eq_min_iff (a : W64) : a.toInt = -2 ^ 63 ↔ a = BitVec.intMin 64 := BitVec.toInt_inj (y := BitVec.intMin 64)

theorem toInt_eq_neg_one_iff (a : W64) : a.toInt = -1 ↔ a = BitVec.allOnes 64 := BitVec.toInt_inj (y := BitVec.allOnes 64)

/-- A signed division that neither divides by 0 nor overflows. -/
theorem divide_signed {a b : W64} (hb : b ≠ 0) (h : ¬(a.toInt = -2 ^ 63 ∧ b.toInt = -1)) :
    divide true a b = (BitVec.ofInt 64 (a.toInt.tdiv b.toInt), BitVec.ofInt 64 (a.toInt - a.toInt.tdiv b.toInt * b.toInt), 0) := by
  rw [toInt_eq_min_iff, toInt_eq_neg_one_iff] at h
  rw [divide, if_neg hb, if_neg (by simpa using h), if_pos rfl, Int.tmod_def, Int.mul_comm]

section
variable {t : BitVec 3} {i : BitVec 2} {d a b : BitVec 5} {s : State} {q r : W64} {z : BitVec 12}

/-- `div` and `rem` put the two results of one signed division in flight, with its causes. -/
theorem exec_div_rem (h : divide true (s.sreg a) (s.sreg b) = (q, r, z)) :
    exec (.div t i d a b) s = .next (s.land 20 (.s d q) z) ∧ exec (.rem t i d a b) s = .next (s.land 20 (.s d r) z) := by
  show execDiv t i d a b s = _ ∧ execRem t i d a b s = _
  simp only [execDiv, execRem, h, and_self]

/-- `divu` and `remu` put the two results of one unsigned division in flight, with its causes. -/
theorem exec_divu_remu (h : divide false (s.sreg a) (s.sreg b) = (q, r, z)) :
    exec (.divu t i d a b) s = .next (s.land 20 (.s d q) z) ∧ exec (.remu t i d a b) s = .next (s.land 20 (.s d r) z) := by
  show execDivu t i d a b s = _ ∧ execRemu t i d a b s = _
  simp only [execDivu, execRemu, h, and_self]

end

/-! ### Conditions (R106 Table 5) -/

/-- The relation that a condition of R106 Table 5 names. -/
def Condition (c : Nat) (a b : W64) : Prop :=
  match c with
  | 0 => a = b
  | 1 => a ≠ b
  | 2 => a.toInt < b.toInt
  | 3 => a.toInt ≤ b.toInt
  | 4 => b.toInt < a.toInt
  | 5 => b.toInt ≤ a.toInt
  | 6 => a.toNat < b.toNat
  | 7 => a.toNat ≤ b.toNat
  | 8 => b.toNat < a.toNat
  | _ => b.toNat ≤ a.toNat

theorem condHolds_iff : ∀ (c : Nat) (a b : W64), condHolds c a b = true ↔ Condition c a b
  | 0, _, _ => beq_iff_eq
  | 1, _, _ => bne_iff_ne
  | 2, _, _ | 4, _, _ => BitVec.slt_iff_toInt_lt
  | 3, _, _ | 5, _, _ => BitVec.sle_iff_toInt_le
  | 6, _, _ | 8, _, _ => BitVec.ult_iff_toNat_lt
  | 7, _, _ | _ + 9, _, _ => BitVec.ule_iff_toNat_le

/-! ### Fields of a generator (R102) -/

theorem AGen.field_stride (g : AGen) (f : BitVec 3) (h : f.toNat < 6) : g.field f = g.st[f.toNat] := by
  have hf : f ≠ 6#3 := fun e => absurd h (by rw [e]; decide)
  simp [AGen.field, hf, h]

end Sys2Proof.Machine

namespace Sys2Proof.Proofs

open Sys2Proof.Machine

/-- Settles O9: the counts by the highest and the lowest one bit of `clz64` and `ctz64` and the bits that `popFuel` adds, the extensions bit by bit. -/
theorem scalarUnaryOperations : Obligations.ScalarUnaryOperations := by
  unfold Obligations.ScalarUnaryOperations
  intro t i d a s x
  refine ⟨⟨clz64 x, rfl, fun h => ?_, clz64_highest⟩, ⟨ctz64 x, rfl, fun h => ?_, ctz64_lowest⟩, ?_,
    fun w hw => ⟨sextW w x, zextW w x, rfl, rfl, fun j hj => ⟨?_, ?_⟩⟩⟩
  · rw [h, clz64_zero]
  · rw [h, ctz64_zero]
  · exact landsS_congr rfl (congrArg (BitVec.ofNat 64) (popFuel_eq_countP 64 x.toNat))
  · rw [sextW_eq hw, getLsbD_signExtend_low x (Nat.mul_pos (by decide) (Nat.two_pow_pos _)) hj]
  · rw [zextW_eq hw, getLsbD_zeroExtend_low x hj]

/-- Settles O8: most values are the model's as they stand; the orders are those of the numbers, and the division group is `divide` in its four cases. -/
theorem scalarArithmetic : Obligations.ScalarArithmetic := by
  unfold Obligations.ScalarArithmetic
  intro t i d a b s x y n
  refine ⟨rfl, rfl, rfl, rfl, rfl, rfl, rfl, rfl, rfl, ?_, ?_, ?_, ?_, rfl, rfl, rfl, fun hy => ?_, fun hy => ?_, fun hx hy => ?_, fun hy h => ?_⟩
  · exact landsS_congr rfl (by simp only [BitVec.slt_iff_toInt_lt, x, y])
  · exact landsS_congr rfl (by simp only [BitVec.slt_iff_toInt_lt, x, y])
  · exact landsS_congr rfl (by simp only [BitVec.ult_iff_toNat_lt, x, y])
  · exact landsS_congr rfl (by simp only [BitVec.ult_iff_toNat_lt, x, y])
  · have hby0 (sgn : Bool) : divide sgn x y = (BitVec.allOnes 64, x, cDZ) := hy ▸ divide_zero sgn x
    obtain ⟨hdiv, hrem⟩ := exec_div_rem (t := t) (i := i) (d := d) (hby0 true)
    obtain ⟨hdivu, hremu⟩ := exec_divu_remu (t := t) (i := i) (d := d) (hby0 false)
    exact ⟨hdiv, hdivu, hrem, hremu⟩
  · exact exec_divu_remu (divide_unsigned hy)
  · have hover : divide true x y = (BitVec.intMin 64, 0, cINV) := by
      rw [(toInt_eq_min_iff x).mp hx, (toInt_eq_neg_one_iff y).mp hy, divide_overflow]
    exact exec_div_rem hover
  · exact exec_div_rem (divide_signed hy h)

/-- Settles O10: sign extension is by definition the word of the immediate's signed value. -/
theorem scalarImmediates : Obligations.ScalarImmediates := by
  unfold Obligations.ScalarImmediates
  intro t i d a m h k s x
  exact ⟨rfl, rfl, rfl, rfl, rfl, rfl, rfl, rfl, rfl⟩

/-- Settles O11: the compares by the relation that `condHolds` decides, the generators by their fields. -/
theorem scalarComparesSelectAndGenerators : Obligations.ScalarComparesSelectAndGenerators := by
  unfold Obligations.ScalarComparesSelectAndGenerators
  intro t i d a b c m e s g holds
  refine ⟨fun n _ => ⟨_, rfl, condHolds_iff n.toNat _ _⟩, fun n _ => ⟨_, rfl, condHolds_iff n.toNat _ _⟩, ?_, ?_, rfl, fun f hf => ?_, rfl, rfl,
    fun f hf => ?_⟩
  · have hne : (s.sreg a != 0) = decide (s.sreg a ≠ 0) := by simp [bne, beq_eq_decide]
    rw [← hne]
    rfl
  · exact landsS_congr rfl (ite_not _ _ _).symm
  · have hstride : f ≠ 6#3 := fun h => absurd hf (by rw [h]; decide)
    show execAgset t i e a f s = _
    rw [execAgset, if_neg hstride]
  · exact landsS_congr rfl (g.field_stride f hf)

end Sys2Proof.Proofs
end

section
/-! PROOF. Promotion arithmetic (O44). -/

namespace Sys2Proof.Machine

open Sys2Proof.Safety

/-! ### Fields of words -/

/-- A field as a number. -/
theorem fld_toNat {w : Nat} (x : BitVec w) (lo n : Nat) : (fld x lo n).toNat = x.toNat / 2 ^ lo % 2 ^ n := by
  rw [fld, BitVec.extractLsb'_toNat, Nat.shiftRight_eq_div_pow]

/-- A field that is replaced reads as the new value. -/
theorem fld_putBits_self {w : Nat} (x : BitVec w) (lo n : Nat) (v : BitVec n) (h : lo + n ≤ w) : fld (putBits x lo n v) lo n = v := by
  ext j hj
  rw [fld, BitVec.getElem_extractLsb', putBits_getLsbD _ _ _ _ _ (by omega), if_pos (by omega), Nat.add_sub_cancel_left,
    BitVec.getLsbD_eq_getElem hj]

/-- A field apart from the one that is replaced. -/
theorem fld_putBits_apart {w : Nat} (x : BitVec w) {lo n a k : Nat} (v : BitVec n) (hin : a + k ≤ w) (h : a + k ≤ lo ∨ lo + n ≤ a) :
    fld (putBits x lo n v) a k = fld x a k := by
  ext j hj
  rw [fld, fld, BitVec.getElem_extractLsb', BitVec.getElem_extractLsb', putBits_getLsbD _ _ _ _ _ (by omega), if_neg (by omega)]

/-! ### The result region of a bank (R219, R232) -/

/-- The 32-bit word n of a bank. -/
def bankWord (b : Bank) (n : Nat) : Nat := (fld b (32 * n) 32).toNat

theorem bankWord_putBits_self (b : Bank) {n : Nat} (v : W32) (h : n < 4096) : bankWord (putBits b (32 * n) 32 v) n = v.toNat := by
  rw [bankWord, fld_putBits_self _ _ _ _ (by omega)]

theorem bankWord_putBits_other (b : Bank) {n k : Nat} (v : W32) (hk : k < 4096) (h : k ≠ n) :
    bankWord (putBits b (32 * n) 32 v) k = bankWord b k := by
  rw [bankWord, bankWord, fld_putBits_apart _ _ (by omega) (by omega)]

/-- One element of a pass over a result region: its word is replaced, its causes are gathered. -/
def regionStep (par : CallPar) (tr : Bool) (f : Nat → Nat → Nat → Nat × BitVec 12) (acc : Bank × BitVec 12) (p : Nat × Nat) : Bank × BitVec 12 :=
  let w := par.word tr p.1 p.2
  let r := f p.1 p.2 (bankWord acc.1 w)
  (putBits acc.1 (32 * w) 32 (BitVec.ofNat 32 r.1), acc.2 ||| r.2)

/-- The elements of a region in the order of their visit. -/
def regionOf (par : CallPar) : List (Nat × Nat) := (List.range par.m).flatMap fun i => (List.range par.n).map (Prod.mk i)

theorem mem_regionOf {par : CallPar} {p : Nat × Nat} : p ∈ regionOf par ↔ p.1 < par.m ∧ p.2 < par.n := by
  obtain ⟨i, j⟩ := p
  simp [regionOf]

theorem overRegion_eq_foldl (par : CallPar) (tr : Bool) (bank : Bank) (f : Nat → Nat → Nat → Nat × BitVec 12) :
    overRegion par tr bank f = (regionOf par).foldl (regionStep par tr f) (bank, 0) := by
  simp only [regionOf, List.foldl_flatMap, List.foldl_map]
  rfl

/-- A pass over elements whose words lie apart gives each word its own new value, and leaves the others. -/
theorem foldl_regionStep (par : CallPar) (tr : Bool) (f : Nat → Nat → Nat → Nat × BitVec 12) (l : List (Nat × Nat)) (acc : Bank × BitVec 12)
    (hin : ∀ p ∈ l, par.word tr p.1 p.2 < 4096) (hapart : l.Pairwise fun p q => par.word tr p.1 p.2 ≠ par.word tr q.1 q.2) :
    let out := (l.foldl (regionStep par tr f) acc).1
    (∀ p ∈ l, bankWord out (par.word tr p.1 p.2) = (f p.1 p.2 (bankWord acc.1 (par.word tr p.1 p.2))).1 % 2 ^ 32) ∧
    ∀ n, n < 4096 → (∀ p ∈ l, n ≠ par.word tr p.1 p.2) → bankWord out n = bankWord acc.1 n := by
  induction l generalizing acc with
  | nil => simp
  | cons p r ih =>
    obtain ⟨hp, hr⟩ := List.pairwise_cons.1 hapart
    obtain ⟨each, rest⟩ := ih (regionStep par tr f acc p) (fun q hq => hin q (.tail _ hq)) hr
    have hw := hin p (.head _)
    have other (n : Nat) (hn : n < 4096) (h : n ≠ par.word tr p.1 p.2) :
        bankWord (regionStep par tr f acc p).1 n = bankWord acc.1 n := bankWord_putBits_other _ _ hn h
    refine ⟨fun q hq => ?_, fun n hn hout => ?_⟩
    · rcases List.mem_cons.1 hq with rfl | hq
      · calc bankWord (r.foldl (regionStep par tr f) (regionStep par tr f acc q)).1 (par.word tr q.1 q.2)
            = bankWord (regionStep par tr f acc q).1 (par.word tr q.1 q.2) := rest _ hw hp
          _ = _ := bankWord_putBits_self _ _ hw
          _ = _ := BitVec.toNat_ofNat _ _
      · exact (each q hq).trans (by rw [other _ (hin q (.tail _ hq)) (hp q hq).symm])
    · exact (rest n hn fun q hq => hout q (.tail _ hq)).trans (other n hn (hout p (.head _)))

/-- Elements of a region that lies in its bank have words in the bank, each its own. -/
theorem CallPar.word_inj {par : CallPar} {tr : Bool} (hrow : par.drow + (if tr then par.n else par.m) ≤ 64)
    (hcol : par.dcol + (if tr then par.m else par.n) ≤ 64) {p q : Nat × Nat} (hp : p ∈ regionOf par) (hq : q ∈ regionOf par) :
    par.word tr p.1 p.2 < 4096 ∧ (par.word tr p.1 p.2 = par.word tr q.1 q.2 → p = q) := by
  obtain ⟨i, j⟩ := p
  obtain ⟨k, l⟩ := q
  rw [mem_regionOf] at hp hq
  rw [Prod.mk.injEq]
  cases tr <;> simp only [CallPar.word, Bool.false_eq_true, if_false, if_true] at * <;> omega

theorem regionOf_nodup (par : CallPar) : (regionOf par).Nodup := List.nodup_range.product List.nodup_range

/-- A pass over a result region that lies in its bank (R219). -/
theorem overRegion_words {par : CallPar} {tr : Bool} (hrow : par.drow + (if tr then par.n else par.m) ≤ 64)
    (hcol : par.dcol + (if tr then par.m else par.n) ≤ 64) (bank : Bank) (f : Nat → Nat → Nat → Nat × BitVec 12) :
    let out := (overRegion par tr bank f).1
    (∀ i j, i < par.m → j < par.n → bankWord out (par.word tr i j) = (f i j (bankWord bank (par.word tr i j))).1 % 2 ^ 32) ∧
    ∀ n, n < 4096 → (∀ i j, i < par.m → j < par.n → n ≠ par.word tr i j) → bankWord out n = bankWord bank n := by
  have hin : ∀ p ∈ regionOf par, par.word tr p.1 p.2 < 4096 := fun p hp => (CallPar.word_inj hrow hcol hp hp).1
  have hapart : (regionOf par).Pairwise fun p q => par.word tr p.1 p.2 ≠ par.word tr q.1 q.2 :=
    (regionOf_nodup par).imp_of_mem fun hp hq hne heq => hne ((CallPar.word_inj hrow hcol hp hq).2 heq)
  obtain ⟨each, rest⟩ := foldl_regionStep par tr f (regionOf par) (bank, 0) hin hapart
  rw [overRegion_eq_foldl]
  exact ⟨fun i j hi hj => each (i, j) (mem_regionOf.2 ⟨hi, hj⟩),
    fun n hn h => rest n hn fun p hp => h p.1 p.2 (mem_regionOf.1 hp).1 (mem_regionOf.1 hp).2⟩

/-! ### One element (R126, R234) -/

/-- A saturated integer is the nearest one in 32 bits, with IOVF where that is another (R126). -/
theorem sat32_eq (v : Int) :
    sat32 v = (max (-2 ^ 31) (min (2 ^ 31 - 1) v), if v < -2 ^ 31 ∨ 2 ^ 31 - 1 < v then cIOVF else 0) := by
  unfold sat32
  split
  · next h => rw [if_pos (by omega)]; congr 1; omega
  · split
    · next h => rw [if_pos (by omega)]; congr 1; omega
    · rw [if_neg (by omega)]; congr 1; omega

/-- The value of a popped scale that is used, and 1 for a side without (R120, R121). -/
theorem scaleAt_eq {used : Bool} {e : BitVec 1024} {n : Nat} {z : Bool} {m : Nat} {k : Int}
    (h : let v := e.toNat / 2 ^ (16 * n) % 2 ^ 16
      if used then (if v / 2 ^ 7 % 2 ^ 8 = 255 then z = false ∧ m = 0 ∧ k = 0 else bf16.decode v = .fin z m k) else z = false ∧ m = 1 ∧ k = 0) :
    scaleAt used e n = .fin z m k := by
  dsimp only at h
  rw [← fld_toNat] at h
  unfold scaleAt
  cases used with
  | false =>
    obtain ⟨rfl, rfl, rfl⟩ := h
    rfl
  | true =>
    simp only [if_true] at h
    simp only [Bool.not_true, Bool.false_eq_true, if_false]
    split at h
    · next hbad =>
      obtain ⟨rfl, rfl, rfl⟩ := h
      rw [if_pos hbad]
    · next hgood => rw [if_neg hgood, h]

/-- An integer promotion: the accumulator alone as the call opens its bank, else the saturated sum (R126). -/
theorem promoteElem_int {a : Call} (h : a.par.fp32 = false) (i j old : Nat) : promoteElem a i j old =
    if a.first && a.op.na then (ofIntBits 32 (a.inner.getD (i * a.par.n + j) 0), 0)
    else (ofIntBits 32 (sat32 (signed 32 old + a.inner.getD (i * a.par.n + j) 0)).1,
      (sat32 (signed 32 old + a.inner.getD (i * a.par.n + j) 0)).2) := by
  simp only [promoteElem, h, Bool.false_eq_true, if_false]

/-- An FP32 promotion of an accumulator with the scales of its row and column (R121, R126). -/
theorem promoteElem_fp32 {a : Call} (h : a.par.fp32 = true) {i j : Nat} {za zb : Bool} {ma mb : Nat} {ea eb : Int} (old : Nat)
    (hA : scaleAt (a.par.smode.getLsbD 0) a.scA ((fld (a.op.p 0) 9 6).toNat + i) = .fin za ma ea)
    (hB : scaleAt (a.par.smode.getLsbD 1) a.scB ((fld (a.op.p 1) 9 6).toNat + j) = .fin zb mb eb) :
    let x := a.inner.getD (i * a.par.n + j) 0
    let r := fp32.ofExact .arith 0 (decide (x < 0) != (za != zb)) (x.natAbs * ma * mb)
      (ea + eb + ((fmtPlanes a.par.fa.toNat - a.par.qa + (fmtPlanes a.par.fb.toNat - a.par.qb) : Nat) : Int))
    let q := fAdd fp32 0 old r.1
    promoteElem a i j old = if a.first && a.op.na then r else (q.1, q.2 ||| r.2 ||| (if q.1 % 2 ^ 31 = 0x7F800000 then cOVF else 0)) := by
  simp only [promoteElem, h, if_true, hA, hB, isInf32, decide_eq_true_eq, Nat.cast_add]

/-- The integer epilogues (R234). -/
theorem epilogueElem_int (v : W32) (old : Nat) :
    let x := signed 32 old
    let k := signed 32 v.toNat
    let top : Int := min (2 ^ 31 - 1) k.natAbs
    epilogueElem 0 false v old = (if x < 0 then 0 else old, 0) ∧
    epilogueElem 1 false v old = (ofIntBits 32 (sat32 (x * k)).1, (sat32 (x * k)).2) ∧
    epilogueElem 2 false v old = (ofIntBits 32 (sat32 (x + k)).1, (sat32 (x + k)).2) ∧
    epilogueElem 3 false v old = (ofIntBits 32 (max (-top) (min top x)), 0) := by
  intro x k top
  refine ⟨rfl, rfl, rfl, ?_⟩
  have htop : (sat32 k.natAbs).1 = top := by rw [sat32_eq]; dsimp only [top]; omega
  have hclamp : (if x < -top then -top else if top < x then top else x) = max (-top) (min top x) := by
    have : 0 ≤ top := by dsimp only [top]; omega
    split
    · omega
    · split <;> omega
  rw [← hclamp, ← htop]
  rfl

end Sys2Proof.Machine

namespace Sys2Proof.Proofs

open Sys2Proof.Machine

/-- Settles O44: a region's words lie apart, so a pass over it changes each once; one element by its kind of promotion. -/
theorem promotionArithmetic : Obligations.PromotionArithmetic := by
  unfold Obligations.PromotionArithmetic
  intro par tr bank f hrow hcol word at_ out
  have hword (b : Bank) (n : Nat) : word b n = bankWord b n := (fld_toNat b (32 * n) 32).symm
  obtain ⟨each, rest⟩ := overRegion_words hrow hcol bank f
  refine ⟨fun i j hi hj => ?_, fun n hn h => ?_, fun a i j old _ => ?_⟩
  · rw [hword, hword]; exact each i j hi hj
  · rw [hword, hword]; exact rest n hn h
  intro x opening sat scale row
  have hsat (v : Int) : ((ofIntBits 32 (sat32 v).1, (sat32 v).2) : Nat × BitVec 12) = sat v := by rw [sat32_eq]
  refine ⟨fun hint hopen => ?_, fun hint hopen => ?_, fun hfp za ma ea zb mb eb hA hB => ?_, fun v => ?_⟩
  · rw [promoteElem_int hint, if_pos hopen]
  · rw [promoteElem_int hint, if_neg (Bool.eq_false_iff.1 hopen), ← hsat]
  · dsimp only [row] at hA hB
    rw [← fld_toNat _ 9 6] at hA hB
    exact promoteElem_fp32 hfp old (scaleAt_eq hA) (scaleAt_eq hB)
  · obtain ⟨relu, mulc, addc, clamp⟩ := epilogueElem_int v old
    exact ⟨relu, mulc.trans (hsat _), addc.trans (hsat _), clamp⟩

end Sys2Proof.Proofs
end

section
/-! SUPPORT. Tile entries: what each operation of the Counted Tile Store leaves of the entries, of the contexts and of the unit at hand,
where no unit keeps a log (R155-R185, R395). -/

namespace Sys2Proof.Machine

open Sys2Proof.Safety

/-! ### Named updates -/

/-- A context with another table of entries. -/
def Ctx.withTiles (cx : Ctx) (l : List (Nat × Tile)) : Ctx := { cx with tiles := l }

/-- A context with other sticky records. -/
def Ctx.withSticky (cx : Ctx) (v : Vector W64 8) : Ctx := { cx with sticky := v }

/-- A context after tiles have changed: its table, the places of its rings and its allocation counters (R158, R166, R173). -/
def Ctx.moved (cx : Ctx) (l : List (Nat × Tile)) (h : Vector (Option Ring) 16) (w : Vector Nat 4) : Ctx :=
  { cx with tiles := l, h := h, allocWait := w }

/-- A unit has made one more access (R394). -/
def Ctx.ordered (cx : Ctx) : Ctx := { cx with rep := { cx.rep with ord := cx.rep.ord + 1 } }

/-- A stream of a context waits on nothing (R44). -/
def Ctx.unwaited (cx : Ctx) (m : Fin 3) : Ctx := { cx with sw := vset cx.sw m .none }

/-- A core with each of its contexts changed by number. -/
def Core.mapCtx (g : Nat → Ctx → Ctx) (k : Core) : Core := { k with ctx := vmapI g k.ctx }

/-- A state with other frames. -/
def State.mapFrames (s : State) (g : Frame → Frame) : State := { s with frames := s.frames.map g }

/-! ### Contexts and entries of a changed state -/

/-- A context of a core that is changed. -/
theorem State.ctx_modCore (s : State) (c : Nat) (f : Core → Core) (d : Nat) (x : CtxId) :
    (s.modCore c f).ctx d x = if d = c then (f (s.core c)).ctx[x] else s.ctx d x := by
  unfold State.ctx
  split
  · next h => rw [h, State.core_modCore]
  · next h => rw [State.core_modCore_other _ _ h]

/-- A context of a state of which one context is changed. -/
theorem State.ctx_modCtx_eq (s : State) (c : Nat) (x : CtxId) (f : Ctx → Ctx) (d : Nat) (y : CtxId) :
    (s.modCtx c x f).ctx d y = if d = c ∧ y = x then f (s.ctx c x) else s.ctx d y := by
  split
  · next h => obtain ⟨rfl, rfl⟩ := h; exact s.ctx_modCtx d y f
  · next h => exact s.ctx_modCtx_other f (by tauto)

theorem State.core_modCtx_ltiles (s : State) (c : Nat) (x : CtxId) (f : Ctx → Ctx) (d : Nat) :
    ((s.modCtx c x f).core d).ltiles = (s.core d).ltiles := by
  by_cases h : d = c
  · subst h
    show ((s.modCore d _).core d).ltiles = _
    rw [State.core_modCore]
    rfl
  · exact congrArg Core.ltiles (s.core_modCore_other _ h)

/-- Entries depend on the tables of contexts, cores and frames alone. -/
theorem State.tile_congr {s t : State} (hctx : ∀ c x, (t.ctx c x).tiles = (s.ctx c x).tiles) (hcore : ∀ c, (t.core c).ltiles = (s.core c).ltiles)
    (hframe : ∀ l u n, t.tile (.frame 0 l u n) = s.tile (.frame 0 l u n)) (m : TLoc) : t.tile m = s.tile m := by
  cases m with
  | unit c x n => exact congrArg (alGet Tile.absent n) (hctx c x)
  | launch c l n => simp only [State.tile, hcore]
  | frame c l u n => exact hframe l u n

/-- A change of a context that keeps its table keeps every entry. -/
theorem State.tile_modCtx (s : State) (c : Nat) (x : CtxId) {f : Ctx → Ctx} (hf : (f (s.ctx c x)).tiles = (s.ctx c x).tiles) (m : TLoc) :
    (s.modCtx c x f).tile m = s.tile m := by
  refine State.tile_congr (fun d y => ?_) (s.core_modCtx_ltiles c x f) (fun _ _ _ => rfl) m
  rw [State.ctx_modCtx_eq]
  split
  · next h => obtain ⟨rfl, rfl⟩ := h; exact hf
  · rfl

theorem State.tile_modMe (s : State) {f : Ctx → Ctx} (hf : (f s.me).tiles = s.me.tiles) (m : TLoc) : (s.modMe f).tile m = s.tile m :=
  s.tile_modCtx _ _ hf m

@[simp] theorem State.tile_modLaunch (s : State) (i : W32) (f : Launch → Launch) (m : TLoc) : (s.modLaunch i f).tile m = s.tile m := by
  cases m <;> rfl

/-- An entry of a core, not of a frame. -/
def TLoc.inCore : TLoc → Prop
  | .frame _ _ _ _ => False
  | .unit _ _ _ => True
  | .launch _ _ _ => True

theorem State.resolve_inCore (s : State) (c : Nat) (x : CtxId) (n : Nat) : (s.resolve c x n).inCore := by
  unfold State.resolve
  split <;> trivial

/-- A consumer operand names an entry of the core (R156). -/
theorem State.consumer_inCore {s : State} {o : BitVec 9} {l : TLoc} (h : s.consumer o = some l) : l.inCore := by
  obtain ⟨n, -, rfl⟩ := Option.map_eq_some_iff.1 h
  exact s.resolve_inCore _ _ n

/-- An entry reads as it was set. -/
theorem State.tile_setTile (s : State) {l : TLoc} (hl : l.inCore) (t : Tile) : (s.setTile l t).tile l = t := by
  cases l with
  | unit c x n => simp only [State.setTile, State.tile, State.ctx_modCtx, alGet_alSet_self]
  | launch c l n => simp only [State.setTile, State.tile, State.core_modCore, alGet_alSet_self]
  | frame c l u n => exact hl.elim

/-- The contexts of a state of which an entry is set. -/
theorem State.ctx_setTile (s : State) {l : TLoc} (hl : l.inCore) (t : Tile) (d : Nat) (y : CtxId) :
    (s.setTile l t).ctx d y = (s.ctx d y).withTiles ((s.setTile l t).ctx d y).tiles := by
  cases l with
  | unit c x n =>
    have h := s.ctx_modCtx_eq c x (fun cx => cx.withTiles (alSet n t cx.tiles)) d y
    change (s.setTile (.unit c x n) t).ctx d y = _ at h
    rw [h]
    split
    · next e => obtain ⟨rfl, rfl⟩ := e; rfl
    · rfl
  | launch c a n =>
    have h := s.ctx_modCore c (fun k => { k with ltiles := alSet a.toNat (alSet n t (alGet [] a.toNat k.ltiles)) k.ltiles }) d y
    change (s.setTile (.launch c a n) t).ctx d y = _ at h
    rw [h]
    split
    · next e => subst e; rfl
    · rfl
  | frame c l u n => exact hl.elim

/-- Setting an entry leaves every other one. -/
theorem State.tile_setTile_other (s : State) {l m : TLoc} (hl : l.inCore) (hm : m ≠ l) (t : Tile) : (s.setTile l t).tile m = s.tile m := by
  cases l with
  | frame c l u n => exact hl.elim
  | unit c x n =>
    cases m with
    | frame d l u k => rfl
    | launch d l k => simp only [State.setTile, State.tile, State.core_modCtx_ltiles]
    | unit d y k =>
      simp only [State.setTile, State.tile, State.ctx_modCtx_eq]
      split
      · next h =>
        obtain ⟨rfl, rfl⟩ := h
        exact alGet_alSet_other _ _ (fun e => hm (by rw [e])) _
      · rfl
  | launch c a n =>
    cases m with
    | frame d l u k => rfl
    | unit d y k =>
      simp only [State.setTile, State.tile, State.ctx_modCore]
      split
      · next h => rw [h]; rfl
      · rfl
    | launch d b k =>
      simp only [State.setTile, State.tile]
      by_cases hd : d = c
      · subst hd
        rw [State.core_modCore]
        by_cases hb : b = a
        · subst hb
          rw [alGet_alSet_self, alGet_alSet_other _ _ (fun e => hm (by rw [e]))]
        · rw [alGet_alSet_other _ _ (fun e => hb (BitVec.eq_of_toNat_eq e))]
      · rw [State.core_modCore_other _ _ hd]

@[simp] theorem State.setTile_mem (s : State) (l : TLoc) (t : Tile) : (s.setTile l t).mem = s.mem := by cases l <;> rfl

@[simp] theorem State.setTile_cur (s : State) (l : TLoc) (t : Tile) : (s.setTile l t).cur = s.cur := by cases l <;> rfl

theorem State.setTile_frames (s : State) {l : TLoc} (hl : l.inCore) (t : Tile) : (s.setTile l t).frames = s.frames := by
  cases l with
  | frame c l u n => exact hl.elim
  | unit c x n => rfl
  | launch c l n => rfl

/-! ### Tiles that vanish (R158, R159, R173) -/

/-- One context is another after tiles have changed (R158, R166, R173). -/
def Ctx.TilesMoved (a b : Ctx) : Prop := b = a.moved b.tiles b.h b.allocWait

theorem Ctx.TilesMoved.refl (a : Ctx) : a.TilesMoved a := rfl

theorem Ctx.TilesMoved.trans {a b c : Ctx} (h : a.TilesMoved b) (g : b.TilesMoved c) : a.TilesMoved c := by
  unfold Ctx.TilesMoved at *
  rw [g, h]
  rfl

/-- A state of which one entry has changed: of contexts what goes with entries, of launches their counts, and of frames their rings may differ. -/
structure State.TileMoved (l : TLoc) (s t : State) : Prop where
  ctx : ∀ c x, (s.ctx c x).TilesMoved (t.ctx c x)
  tiles : tilesBut l s t
  mem : t.mem = s.mem
  cur : t.cur = s.cur

theorem State.TileMoved.refl (l : TLoc) (s : State) : State.TileMoved l s s := ⟨fun _ _ => .refl _, fun _ _ => rfl, rfl, rfl⟩

theorem State.TileMoved.trans {l : TLoc} {s t u : State} (h : State.TileMoved l s t) (g : State.TileMoved l t u) : State.TileMoved l s u :=
  ⟨fun c x => (h.ctx c x).trans (g.ctx c x), fun m hm => (g.tiles m hm).trans (h.tiles m hm), g.mem.trans h.mem, g.cur.trans h.cur⟩

theorem State.TileMoved.me {l : TLoc} {s t : State} (h : State.TileMoved l s t) : s.me.TilesMoved t.me := by
  have := h.ctx s.cur.core s.cur.x
  unfold State.me
  rwa [h.cur]

theorem State.setTile_moved (s : State) {l : TLoc} (hl : l.inCore) (t : Tile) : State.TileMoved l s (s.setTile l t) where
  ctx c x := by
    unfold Ctx.TilesMoved
    rw [s.ctx_setTile hl]
    rfl
  tiles _ hm := s.tile_setTile_other hl hm t
  mem := s.setTile_mem l t
  cur := s.setTile_cur l t

/-- A launch's counts belong to no context and to no entry. -/
theorem State.modLaunch_moved (s : State) (l : TLoc) (i : W32) (f : Launch → Launch) : State.TileMoved l s (s.modLaunch i f) :=
  ⟨fun _ _ => .refl _, fun m _ => s.tile_modLaunch i f m, rfl, rfl⟩

/-- A change to the contexts of a core that moves rings and allocation counters keeps every entry. -/
theorem State.mapCtx_moved (s : State) (l : TLoc) (c : Nat) {g : Nat → Ctx → Ctx} (hg : ∀ (i : Nat) (k : Ctx), k.TilesMoved (g i k))
    (ht : ∀ i k, (g i k).tiles = k.tiles) :
    State.TileMoved l s (s.modCore c (Core.mapCtx g)) ∧ ∀ m, (s.modCore c (Core.mapCtx g)).tile m = s.tile m := by
  have ctx (d : Nat) (x : CtxId) : (s.modCore c (Core.mapCtx g)).ctx d x = if d = c then g x.val (s.ctx d x) else s.ctx d x := by
    rw [State.ctx_modCore]
    split
    · next h => subst h; exact vmapI_getElem g _ x.val x.isLt
    · rfl
  have tiles (m : TLoc) : (s.modCore c (Core.mapCtx g)).tile m = s.tile m := by
    refine State.tile_congr (s := s) (t := s.modCore c (Core.mapCtx g)) (fun d x => ?_) (fun d => ?_) (fun _ _ _ => rfl) m
    · rw [ctx]
      split
      · exact ht _ _
      · rfl
    · by_cases h : d = c
      · subst h; rw [State.core_modCore]; rfl
      · rw [State.core_modCore_other _ _ h]
  refine ⟨⟨fun d x => ?_, fun m _ => tiles m, rfl, rfl⟩, tiles⟩
  rw [ctx]
  split
  · exact hg _ _
  · exact .refl _

/-- Frames whose rings move keep their entries. -/
theorem State.mapFrames_moved (s : State) (l : TLoc) {g : Frame → Frame}
    (hg : ∀ f, (g f).ctx.launch = f.ctx.launch ∧ (g f).ctx.unit = f.ctx.unit ∧ (g f).ctx.tiles = f.ctx.tiles) :
    State.TileMoved l s (s.mapFrames g) ∧ ∀ m, (s.mapFrames g).tile m = s.tile m := by
  have tiles (m : TLoc) : (s.mapFrames g).tile m = s.tile m := by
    refine State.tile_congr (s := s) (t := s.mapFrames g) (fun _ _ => rfl) (fun _ => rfl) (fun a u n => ?_) m
    have hp : (fun f : Frame => decide (f.ctx.launch = a) && decide (f.ctx.unit = u)) ∘ g =
        fun f => decide (f.ctx.launch = a) && decide (f.ctx.unit = u) := by
      funext f
      obtain ⟨hl, hu, -⟩ := hg f
      simp only [Function.comp, hl, hu]
    simp only [State.tile, State.frameOf, State.mapFrames, List.find?_map, hp, Option.map_map]
    congr 2
    funext f
    simp only [Function.comp, (hg f).2.2]
  exact ⟨⟨fun _ _ => .refl _, fun m _ => tiles m, rfl, rfl⟩, tiles⟩

/-- What is counted of a launch whose parked tile vanishes (R168). -/
def State.unparkedSpace (s : State) (l : TLoc) : State :=
  if (s.tile l).st = .parking ∨ (s.tile l).st = .parked ∨ (s.tile l).st = .unparking then s.unparkSpace l (s.tile l) else s

theorem State.unparkedSpace_moved (s : State) (l : TLoc) : State.TileMoved l s (s.unparkedSpace l) := by
  unfold State.unparkedSpace
  split
  · exact s.modLaunch_moved l _ _
  · exact .refl l s

/-- What vanishes leaves its shape in an ABSENT entry; nothing else of the entries changes (R158). -/
theorem State.vanish_moved (s : State) {l : TLoc} (hl : l.inCore) : State.TileMoved l s (s.vanish l) ∧ (s.vanish l).tile l = (s.tile l).gone := by
  have set := (s.unparkedSpace_moved l).trans ((s.unparkedSpace l).setTile_moved hl (s.tile l).gone)
  have entry := (s.unparkedSpace l).tile_setTile hl (s.tile l).gone
  obtain ⟨rings, ringsTile⟩ := ((s.unparkedSpace l).setTile l (s.tile l).gone).mapCtx_moved l l.core
    (g := fun i cx => cx.advanceC fun n => s.resolve l.core (Fin.ofNat 4 i) n == l) (fun _ _ => rfl) (fun _ _ => rfl)
  have frames (g : Frame → Nat → Bool) (t : State) := t.mapFrames_moved l
    (g := fun f => if f.core = l.core then { f with ctx := f.ctx.advanceC (g f) } else f) fun f => by split <;> exact ⟨rfl, rfl, rfl⟩
  have freed (t : State) := t.mapCtx_moved l l.core (g := fun _ cx => { cx with allocWait := Vector.replicate 4 0 }) (fun _ _ => rfl) fun _ _ => rfl
  unfold State.vanish
  dsimp only
  split
  · exact ⟨((set.trans rings).trans (frames _ _).1).trans (freed _).1,
      ((freed _).2 l).trans (((frames _ _).2 l).trans ((ringsTile l).trans entry))⟩
  · exact ⟨(set.trans rings).trans (frames _ _).1, ((frames _ _).2 l).trans ((ringsTile l).trans entry)⟩

/-- A counted read changes its own entry alone, as R159 counts. -/
theorem State.countRead_moved (s : State) {l : TLoc} (hl : l.inCore) (r : BitVec 2) :
    State.TileMoved l s (s.countRead l r) ∧ counted s (s.countRead l r) l r := by
  by_cases hr : r = 1
  · rw [show s.countRead l r = s from if_pos hr]
    exact ⟨.refl l s, (if_pos hr).mpr rfl⟩
  · rw [show s.countRead l r = s.consume l from if_neg hr]
    unfold counted
    rw [if_neg hr]
    unfold State.consume
    dsimp only
    by_cases hlast : (s.tile l).count ≤ 1
    · obtain ⟨moved, gone⟩ := s.vanish_moved hl
      rw [if_pos hlast, if_pos hlast, gone]
      exact ⟨moved, rfl, rfl⟩
    · rw [if_neg hlast, if_neg hlast]
      exact ⟨s.setTile_moved hl _, s.tile_setTile hl _⟩

/-! ### Units without a log (R395) -/

/-- No unit keeps a log. -/
def State.quiet (s : State) : Prop := (∀ c x, (s.ctx c x).rep.logging = false) ∧ ∀ f ∈ s.frames, f.ctx.rep.logging = false

theorem State.quiet_of_unlogged {s : State} (h : unlogged s) : s.quiet := ⟨h.1, h.2.1⟩

/-- No unit can be told of a change where none keeps a log. -/
theorem State.namers_of_quiet {s : State} (h : s.quiet) (l : TLoc) : s.namers l = [] := by
  obtain ⟨hctx, hframe⟩ := h
  unfold State.namers
  dsimp only
  rw [List.filter_eq_nil_iff.2, List.filterMap_nil]
  intro p hp
  rcases List.mem_append.1 hp with hp | hp
  · obtain ⟨x, -, rfl⟩ := List.mem_map.1 hp
    simp [hctx]
  · obtain ⟨f, hf, rfl⟩ := List.mem_map.1 hp
    simp [hframe f (List.mem_filter.1 hf).1]

theorem State.logTstate_of_quiet {before : State} (h : before.quiet) (s : State) (l : TLoc) (b : Option Logger) : s.logTstate before l b = s := by
  simp [State.logTstate, State.namers_of_quiet h]

theorem State.noted_of_unlogged {before : State} (h : unlogged before) (s : State) (l : TLoc) : s.noted before l = s :=
  State.logTstate_of_quiet (State.quiet_of_unlogged h) s l _

theorem State.noteWrite_of_unlogged {s : State} (h : unlogged s) (l : TLoc) (o n : Nat) (x : Option CtxId) : s.noteWrite l o n x = s :=
  if_pos (State.namers_of_quiet (State.quiet_of_unlogged h) l)

/-- A change to the unit at hand that starts no log and no replay leaves the units without one. -/
theorem unlogged_modMe {s : State} (h : unlogged s) {f : Ctx → Ctx} (hf : (f s.me).rep = s.me.rep) : unlogged (s.modMe f) := by
  obtain ⟨hctx, hframe, hme⟩ := h
  refine ⟨fun c x => ?_, hframe, ?_⟩
  · show ((s.modCtx s.cur.core s.cur.x f).ctx c x).rep.logging = false
    rw [State.ctx_modCtx_eq]
    split
    · show (f s.me).rep.logging = false
      rw [hf]
      exact hctx _ _
    · exact hctx c x
  · rw [State.me_modMe, hf]
    exact hme

theorem unlogged_setTile {s : State} (h : unlogged s) {l : TLoc} (hl : l.inCore) (t : Tile) : unlogged (s.setTile l t) := by
  obtain ⟨hctx, hframe, hme⟩ := h
  have rep : (s.setTile l t).me.rep = s.me.rep := by
    unfold State.me
    rw [s.setTile_cur, s.ctx_setTile hl]
    rfl
  refine ⟨fun c x => ?_, ?_, by rw [rep]; exact hme⟩
  · rw [s.ctx_setTile hl]
    exact hctx c x
  · rw [s.setTile_frames hl]
    exact hframe

/-- The unit at hand neither keeps a log nor replays one. -/
def State.plain (s : State) : Prop := s.me.rep.logging = false ∧ s.me.rep.replaying = false

theorem State.plain_of_unlogged {s : State} (h : unlogged s) : s.plain := ⟨h.1 _ _, h.2.2⟩

theorem State.plain_of_moved {l : TLoc} {s t : State} (h : s.plain) (m : State.TileMoved l s t) : t.plain := by
  have rep : t.me.rep = s.me.rep := (congrArg Ctx.rep m.me :)
  unfold State.plain
  rwa [rep]

/-- Setting causes changes the record alone. -/
theorem Ctx.sticky1_eq (cx : Ctx) (m : Nat) (z : BitVec 12) (o : Org) : cx.sticky1 m z o = cx.withSticky (cx.sticky1 m z o).sticky := by
  unfold Ctx.sticky1
  split <;> rfl

@[simp] theorem Ctx.sticky1_rep (cx : Ctx) (m : Nat) (z : BitVec 12) (o : Org) : (cx.sticky1 m z o).rep = cx.rep := by rw [Ctx.sticky1_eq]; rfl
@[simp] theorem Ctx.sticky1_tiles (cx : Ctx) (m : Nat) (z : BitVec 12) (o : Org) : (cx.sticky1 m z o).tiles = cx.tiles := by rw [Ctx.sticky1_eq]; rfl
@[simp] theorem Ctx.sticky1_pend (cx : Ctx) (m : Nat) (z : BitVec 12) (o : Org) : (cx.sticky1 m z o).pend = cx.pend := by rw [Ctx.sticky1_eq]; rfl
@[simp] theorem Ctx.sticky1_cq (cx : Ctx) (m : Nat) (z : BitVec 12) (o : Org) : (cx.sticky1 m z o).cq = cx.cq := by rw [Ctx.sticky1_eq]; rfl
@[simp] theorem Ctx.sticky1_sqA (cx : Ctx) (m : Nat) (z : BitVec 12) (o : Org) : (cx.sticky1 m z o).sqA = cx.sqA := by rw [Ctx.sticky1_eq]; rfl
@[simp] theorem Ctx.sticky1_sqB (cx : Ctx) (m : Nat) (z : BitVec 12) (o : Org) : (cx.sticky1 m z o).sqB = cx.sqB := by rw [Ctx.sticky1_eq]; rfl
@[simp] theorem Ctx.sticky1_h (cx : Ctx) (m : Nat) (z : BitVec 12) (o : Org) : (cx.sticky1 m z o).h = cx.h := by rw [Ctx.sticky1_eq]; rfl

/-- Causes of a word of a unit without a log enter its record, and nothing else changes (R347). -/
theorem State.causeIn_plain {s : State} (h : s.plain) (z : BitVec 12) : s.causeIn z = if z = 0 then s else s.cause z := by
  obtain ⟨hl, hr⟩ := h
  unfold State.causeIn State.replaying
  simp only [hl, hr, Bool.false_eq_true, and_false, or_false, if_false]

/-- The state at hand with another context in its place, but for what no statement of a word sees: entries, memory and the word are the same. -/
structure State.Mine (s t : State) (k : Ctx) : Prop where
  me : t.me = k
  tile : ∀ m, t.tile m = s.tile m
  mem : t.mem = s.mem
  cur : t.cur = s.cur

theorem State.Mine.trans {s t u : State} {k n : Ctx} (h : State.Mine s t k) (g : State.Mine t u n) : State.Mine s u n :=
  ⟨g.me, fun m => (g.tile m).trans (h.tile m), g.mem.trans h.mem, g.cur.trans h.cur⟩

theorem State.modMe_mine (s : State) {f : Ctx → Ctx} (hf : (f s.me).tiles = s.me.tiles) : State.Mine s (s.modMe f) (f s.me) :=
  ⟨s.me_modMe f, s.tile_modMe hf, rfl, rfl⟩

theorem State.causeIn_mine {s : State} (h : s.plain) (z : BitVec 12) : State.Mine s (s.causeIn z) (s.me.sticky1 s.cur.slot z s.cur.org) := by
  rw [State.causeIn_plain h]
  split
  · next hz => exact ⟨by rw [hz, Ctx.sticky1_zero], fun _ => rfl, rfl, rfl⟩
  · exact s.modMe_mine (Ctx.sticky1_tiles _ _ _ _)

theorem unlogged_causeIn {s : State} (h : unlogged s) (z : BitVec 12) : unlogged (s.causeIn z) := by
  rw [State.causeIn_plain (State.plain_of_unlogged h)]
  split
  · exact h
  · exact unlogged_modMe h (Ctx.sticky1_rep _ _ _ _)

/-- The condition entry of a word of a unit without a log fills with its own value (R42). -/
theorem State.pushCqIn_mine {s : State} (h : s.plain) (b : Bool) : State.Mine s (s.pushCqIn b) (s.me.fillCq s.cur.cqTok b) := by
  obtain ⟨hl, hr⟩ := h
  have push (d : Bool) : State.Mine s (s.pushCq d) (s.me.fillCq s.cur.cqTok d) := s.modMe_mine rfl
  unfold State.pushCqIn
  split
  · exact push b
  · have hl' : (s.ctx s.cur.core s.cur.x).rep.logging = false := hl
    have hr' : (s.ctx s.cur.core s.cur.x).rep.replaying = false := hr
    have hb : decide (bit b % 2 = 1) = b := by cases b <;> rfl
    simp only [State.inputAux, hl', hr', Bool.false_eq_true, if_false, hb]
    exact push b

/-- A performed word's stream waits on nothing, and its unit has made one access (R44, R394). -/
def Ctx.done (cx : Ctx) (m : Fin 3) : Ctx := (cx.unwaited m).ordered

theorem State.mtDone_plain {s : State} (h : s.plain) :
    s.mtDone = (s.modMe fun cx => cx.unwaited (streamOf s.cur.slot)).modMe Ctx.ordered := by
  refine if_neg (ne_true_of_eq_false (b := (s.performed.modMe Ctx.ordered).me.rep.replaying) ?_)
  rw [State.me_modMe, State.performed, State.me_modMe]
  exact h.2

theorem State.mtDone_mine {s : State} (h : s.plain) : State.Mine s s.mtDone (s.me.done (streamOf s.cur.slot)) := by
  have first := s.modMe_mine (f := fun cx => cx.unwaited (streamOf s.cur.slot)) rfl
  have second := (s.modMe fun cx => cx.unwaited (streamOf s.cur.slot)).modMe_mine (f := Ctx.ordered) rfl
  have both := first.trans second
  rw [first.me] at both
  rw [State.mtDone_plain h]
  exact both

end Sys2Proof.Machine
end

section
/-! PROOF. Reads of own tiles (O34). -/

namespace Sys2Proof.Machine

open Sys2Proof.Safety

/-! ### Registers that stay -/

theorem regsSame_refl (a : Ctx) : regsSame a a := by
  unfold regsSame
  and_intros <;> rfl

theorem regsSame_trans {a b c : Ctx} (h : regsSame a b) (g : regsSame b c) : regsSame a c := by
  unfold regsSame at *
  obtain ⟨h1, h2, h3, h4, h5, h6, h7, h8, h9, h10, h11, h12, h13, h14, h15, h16, h17, h18, h19, h20, h21, h22, h23⟩ := h
  rw [← h1, ← h2, ← h3, ← h4, ← h5, ← h6, ← h7, ← h8, ← h9, ← h10, ← h11, ← h12, ← h13, ← h14, ← h15, ← h16, ← h17, ← h18, ← h19, ← h20, ← h21, ← h22,
    ← h23]
  exact g

theorem regsSame_of_moved {a b : Ctx} (h : a.TilesMoved b) : regsSame a b := by
  rw [h]
  exact regsSame_refl a

theorem regsSame_sticky1 (cx : Ctx) (m : Nat) (z : BitVec 12) (o : Org) : regsSame cx (cx.sticky1 m z o) := by
  rw [Ctx.sticky1_eq]
  exact regsSame_refl cx

/-! ### A read that is done (R159, R161, R175) -/

/-- A read of kind `.q` fills its condition entry (R161). -/
def Ctx.pushedBy (cx : Ctx) (r : BitVec 2) (tok : Nat) (b : Bool) : Ctx := if r = 2 then cx.fillCq tok b else cx

theorem regsSame_pushedBy (cx : Ctx) (r : BitVec 2) (tok : Nat) (b : Bool) : regsSame cx (cx.pushedBy r tok b) := by
  unfold Ctx.pushedBy
  split <;> exact regsSame_refl cx

/-- The unit at hand, once a read of kind r has been performed from the context k: tiles have moved, the condition entry is filled, the word is
performed. -/
def State.ReadFrom (s u : State) (k : Ctx) (r : BitVec 2) (b : Bool) : Prop :=
  ∃ n, k.TilesMoved n ∧ u.me = (n.pushedBy r s.cur.cqTok b).done (streamOf s.cur.slot)

/-- What a performed read leaves of its unit. -/
theorem State.ReadFrom.fields {s u : State} {k : Ctx} {r : BitVec 2} {b : Bool} (h : State.ReadFrom s u k r b) :
    u.me.pend = k.pend ∧ u.me.sqA = k.sqA ∧ u.me.sqB = k.sqB ∧ u.me.sticky = k.sticky ∧
    u.me.cq = (if r = 2 then (k.fillCq s.cur.cqTok b).cq else k.cq) ∧ regsSame k u.me := by
  obtain ⟨n, hn, hu⟩ := h
  have hregs : regsSame k u.me := by
    rw [hu]
    exact regsSame_trans (regsSame_trans (regsSame_of_moved hn) (regsSame_pushedBy n r s.cur.cqTok b)) (regsSame_refl _)
  rw [hn] at hu
  refine ⟨?_, ?_, ?_, ?_, ?_, hregs⟩
  all_goals
    rw [hu]
    unfold Ctx.pushedBy
    split <;> rfl

theorem counted_congr {s t u v : State} {l : TLoc} (r : BitVec 2) (hs : s.tile l = t.tile l) (hu : u.tile l = v.tile l) (h : counted s u l r) :
    counted t v l r := by
  unfold counted at *
  rwa [← hs, ← hu]

/-- A read pushes onto the condition queue as its kind says. -/
theorem State.pushRead_mine {s : State} (h : s.plain) (r : BitVec 2) (b : Bool) :
    State.Mine s (if r = 2 then s.pushCqIn b else s) (s.me.pushedBy r s.cur.cqTok b) := by
  unfold Ctx.pushedBy
  split
  · exact State.pushCqIn_mine h b
  · exact ⟨rfl, fun _ => rfl, rfl, rfl⟩

theorem Ctx.pushedBy_rep (cx : Ctx) (r : BitVec 2) (tok : Nat) (b : Bool) : (cx.pushedBy r tok b).rep = cx.rep := by
  unfold Ctx.pushedBy
  split <;> rfl

/-- The read of a found entry counts on that entry alone. -/
theorem State.readDone_found {s : State} (hs : unlogged s) {l : TLoc} (hl : l.inCore) (r : BitVec 2) :
    let u := (s.readDone (some l) r).mtDone
    u.mem = s.mem ∧ counted s u l r ∧ tilesBut l s u ∧ State.ReadFrom s u s.me r true := by
  obtain ⟨moved, count⟩ := s.countRead_moved hl r
  have plain := State.plain_of_moved (State.plain_of_unlogged hs) moved
  have push := State.pushRead_mine plain r true
  have plain' : (if r = 2 then (s.countRead l r).pushCqIn true else s.countRead l r).plain := by
    unfold State.plain
    rw [push.me, Ctx.pushedBy_rep]
    exact plain
  have all := push.trans (State.mtDone_mine plain')
  have read : (s.readDone (some l) r).mtDone = (if r = 2 then (s.countRead l r).pushCqIn true else s.countRead l r).mtDone := by
    unfold State.readDone
    simp only [State.noted_of_unlogged hs]
    rfl
  have hme := all.me
  rw [push.me, push.cur, moved.cur] at hme
  rw [read]
  exact ⟨all.mem.trans moved.mem, counted_congr r rfl (all.tile l).symm count, fun m hm => (all.tile m).trans (moved.tiles m hm), _, moved.me, hme⟩

/-- The read that finds no tile counts on none. -/
theorem State.readDone_none {s : State} (hs : s.plain) (r : BitVec 2) :
    let u := (s.readDone none r).mtDone
    u.mem = s.mem ∧ (∀ m, u.tile m = s.tile m) ∧ State.ReadFrom s u s.me r false := by
  have push := State.pushRead_mine hs r false
  have plain' : (if r = 2 then s.pushCqIn false else s).plain := by
    unfold State.plain
    rw [push.me, Ctx.pushedBy_rep]
    exact hs
  have all := push.trans (State.mtDone_mine plain')
  have hme := all.me
  rw [push.me, push.cur] at hme
  exact ⟨all.mem, all.tile, _, .refl _, hme⟩

/-! ### The words -/

/-- What a read leaves where it first changes its own unit by f, and sets causes. -/
theorem State.read_found {s : State} (hs : unlogged s) {l : TLoc} (hl : l.inCore) (r : BitVec 2) (z : BitVec 12) {f : Ctx → Ctx}
    (hrep : (f s.me).rep = s.me.rep) (htiles : (f s.me).tiles = s.me.tiles) :
    let u := (((s.modMe f).causeIn z).readDone (some l) r).mtDone
    u.mem = s.mem ∧ counted s u l r ∧ tilesBut l s u ∧ State.ReadFrom s u ((f s.me).sticky1 s.cur.slot z s.cur.org) r true := by
  have hf := unlogged_modMe hs hrep
  have mine := (s.modMe_mine htiles).trans (State.causeIn_mine (State.plain_of_unlogged hf) z)
  obtain ⟨mem, count, other, read⟩ := State.readDone_found (unlogged_causeIn hf z) hl r
  refine ⟨mem.trans mine.mem, counted_congr r (mine.tile l) rfl count, fun m hm => (other m hm).trans (mine.tile m), ?_⟩
  unfold State.ReadFrom at *
  rwa [mine.me, mine.cur, State.me_modMe] at read

theorem State.read_none {s : State} (hs : s.plain) (r : BitVec 2) (z : BitVec 12) {f : Ctx → Ctx} (hrep : (f s.me).rep = s.me.rep)
    (htiles : (f s.me).tiles = s.me.tiles) :
    let u := (((s.modMe f).causeIn z).readDone none r).mtDone
    u.mem = s.mem ∧ (∀ m, u.tile m = s.tile m) ∧ State.ReadFrom s u ((f s.me).sticky1 s.cur.slot z s.cur.org) r false := by
  have hf : (s.modMe f).plain := by
    unfold State.plain
    rw [State.me_modMe, hrep]
    exact hs
  have mine := (s.modMe_mine htiles).trans (State.causeIn_mine hf z)
  have hz : ((s.modMe f).causeIn z).plain := by
    unfold State.plain
    rw [mine.me, Ctx.sticky1_rep, State.me_modMe, hrep]
    exact hs
  obtain ⟨mem, tiles, read⟩ := State.readDone_none hz r
  refine ⟨mem.trans mine.mem, fun m => (tiles m).trans (mine.tile m), ?_⟩
  unfold State.ReadFrom at *
  rwa [mine.me, mine.cur, State.me_modMe] at read

/-- An entry that is ready is there. -/
theorem State.st_of_ready {s : State} {l : TLoc} (h : s.avail l = .ready) : (s.tile l).st ≠ .absent := by
  intro ha
  unfold State.avail at h
  rw [ha] at h
  cases h

theorem State.avail_absent {s : State} {l : TLoc} (h : (s.tile l).st = .absent) : s.avail l = .absent := by
  unfold State.avail
  rw [h]

/-- A read operand of a ready entry goes on with it (R161). -/
theorem State.readOp_ready {s : State} {x : BitVec 9} {l : TLoc} (hx : s.consumer x = some l) (hl : s.avail l = .ready) (k : Option TLoc → State) :
    s.readOp x k = k (some l) := by
  unfold State.readOp State.access
  simp only [hx, hl, State.st_of_ready hl, and_false, if_false, if_true]

/-- A read operand of an ABSENT entry that is named directly goes on without one (R161). -/
theorem State.readOp_absent {s : State} {x : BitVec 9} {l : TLoc} (hx : s.consumer x = some l) (hl : (s.tile l).st = .absent)
    (hd : x.getLsbD 8 = false) (k : Option TLoc → State) : s.readOp x k = k none := by
  unfold State.readOp State.access
  simp only [hx, isHandle, hd, State.avail_absent hl, Bool.false_eq_true, false_and, if_false]

/-- A sticky record does not depend on what a word changes elsewhere. -/
theorem Ctx.sticky1_sticky_congr {a b : Ctx} (h : a.sticky = b.sticky) (m : Nat) (z : BitVec 12) (o : Org) :
    (a.sticky1 m z o).sticky = (b.sticky1 m z o).sticky := by
  unfold Ctx.sticky1
  rw [h]
  split
  · rfl
  · exact h

/-- What a read has done for its unit, beside the value that it delivers. -/
theorem State.ReadFrom.shows {s u : State} {f : Ctx → Ctx} {z : BitVec 12} {r : BitVec 2} {b : Bool}
    (h : State.ReadFrom s u ((f s.me).sticky1 s.cur.slot z s.cur.org) r b) (hsticky : (f s.me).sticky = s.me.sticky) (hcq : (f s.me).cq = s.me.cq)
    (hregs : regsSame s.me (f s.me)) :
    causesSet s u z ∧ pushed s u r b ∧ regsSame s.me u.me ∧ u.me.pend = (f s.me).pend ∧ u.me.sqA = (f s.me).sqA ∧ u.me.sqB = (f s.me).sqB := by
  obtain ⟨pend, sqA, sqB, sticky, cq, regs⟩ := h.fields
  refine ⟨?_, ?_, regsSame_trans (regsSame_trans hregs (regsSame_sticky1 _ _ _ _)) regs, ?_, ?_, ?_⟩
  · exact sticky.trans (Ctx.sticky1_sticky_congr hsticky _ _ _)
  · unfold pushed
    rw [cq]
    split
    · simp only [Ctx.fillCq, Ctx.sticky1_cq, hcq]
    · rw [Ctx.sticky1_cq, hcq]
  · rw [pend, Ctx.sticky1_pend]
  · rw [sqA, Ctx.sticky1_sqA]
  · rw [sqB, Ctx.sticky1_sqB]

/-- The context of an `sqld` that has appended its entry to a side (R122). -/
def Ctx.sided (cx : Ctx) (q : BitVec 1) (v : BitVec 1024) : Ctx :=
  if q = 0 then { cx with sqA := cx.sqA ++ [v] } else { cx with sqB := cx.sqB ++ [v] }

/-- The entries of a side (R122). -/
def Ctx.side (cx : Ctx) (q : BitVec 1) : List (BitVec 1024) := if q = 0 then cx.sqA else cx.sqB

theorem Ctx.sided_side (cx : Ctx) (q : BitVec 1) (v : BitVec 1024) :
    (cx.sided q v).side q = cx.side q ++ [v] ∧ (cx.sided q v).side (1 - q) = cx.side (1 - q) := by
  rcases BitVec.eq_zero_or_eq_one q with rfl | rfl <;> exact ⟨rfl, rfl⟩

/-- An `sqld` changes its side alone. -/
theorem Ctx.sided_rest (cx : Ctx) (q : BitVec 1) (v : BitVec 1024) : (cx.sided q v).rep = cx.rep ∧ (cx.sided q v).tiles = cx.tiles ∧
    (cx.sided q v).sticky = cx.sticky ∧ (cx.sided q v).cq = cx.cq ∧ (cx.sided q v).pend = cx.pend ∧ regsSame cx (cx.sided q v) := by
  unfold Ctx.sided
  split <;> exact ⟨rfl, rfl, rfl, rfl, rfl, regsSame_refl cx⟩

/-- `tld` of an aligned offset reads its operand (R177). -/
theorem execTld_aligned (t : BitVec 3) (i : BitVec 2) (x : BitVec 9) (r : BitVec 2) (d p : BitVec 5) (s : State) (h : s.pOffset p 512 % 64 = 0) :
    exec (.tld t i x r d p) s = .next (s.readOp x fun l =>
      (((s.modMe (·.fillPend s.cur.tok 4 (s.readData l (s.pOffset p 512) 512).1 none)).causeIn
        (s.readData l (s.pOffset p 512) 512).2).readDone l r).mtDone) :=
  congrArg _ (if_neg (not_not.2 h))

/-- `tlw` of an aligned offset reads its operand (R177). -/
theorem execTlw_aligned (t : BitVec 3) (i : BitVec 2) (x : BitVec 9) (r : BitVec 2) (d a : BitVec 5) (s : State)
    (h : (s.opS a).toNat % 65536 % 8 = 0) :
    exec (.tlw t i x r d a) s = .next (s.readOp x fun l =>
      (((s.modMe (·.fillPend s.cur.tok 3 ((s.readData l ((s.opS a).toNat % 65536) 8).1.setWidth 4096) none)).causeIn
        (s.readData l ((s.opS a).toNat % 65536) 8).2).readDone l r).mtDone) :=
  congrArg _ (if_neg (not_not.2 h))

/-- `sqld` of an aligned offset into a side that has room reads its operand (R122, R177). -/
theorem execSqld_aligned (t : BitVec 3) (i : BitVec 2) (x : BitVec 9) (r : BitVec 2) (q : BitVec 1) (p : BitVec 5) (s : State)
    (h : s.pOffset p 128 % 128 = 0) (hroom : (s.me.side q).length < 16) :
    exec (.sqld t i x r q p) s = .next (s.readOp x fun l =>
      (((s.modMe (·.sided q (s.readData l (s.pOffset p 128) 128).1)).causeIn (s.readData l (s.pOffset p 128) 128).2).readDone l r).mtDone) :=
  congrArg _ ((if_neg (not_not.2 h)).trans (if_neg (Nat.not_le.2 hroom)))

end Sys2Proof.Machine

namespace Sys2Proof.Proofs

open Sys2Proof.Machine Sys2Proof.Safety

/-- Settles O34: each word is a read of its operand, and a read is done in one way where it finds a tile and in one where it finds none. -/
theorem tileReadsDeliverAndCount : Obligations.TileReadsDeliverAndCount := by
  unfold Obligations.TileReadsDeliverAndCount
  intro t i x r d p a q s hs o w z past side done none_
  have found (l : TLoc) (hx : s.consumer x = some l) (n : Nat) (f : Ctx → Ctx) (hrep : (f s.me).rep = s.me.rep) (htiles : (f s.me).tiles = s.me.tiles)
      (hsticky : (f s.me).sticky = s.me.sticky) (hcq : (f s.me).cq = s.me.cq) (hregs : regsSame s.me (f s.me)) :
      let u := (((s.modMe f).causeIn (past l n)).readDone (some l) r).mtDone
      done u l n ∧ u.me.pend = (f s.me).pend ∧ u.me.sqA = (f s.me).sqA ∧ u.me.sqB = (f s.me).sqB := by
    obtain ⟨mem, count, other, read⟩ := State.read_found hs (State.consumer_inCore hx) r (past l n) hrep htiles
    obtain ⟨causes, push, regs, pend, sqA, sqB⟩ := read.shows hsticky hcq hregs
    exact ⟨⟨causes, count, push, other, regs, mem⟩, pend, sqA, sqB⟩
  have missed (f : Ctx → Ctx) (hrep : (f s.me).rep = s.me.rep) (htiles : (f s.me).tiles = s.me.tiles) (hsticky : (f s.me).sticky = s.me.sticky)
      (hcq : (f s.me).cq = s.me.cq) (hregs : regsSame s.me (f s.me)) :
      let u := (((s.modMe f).causeIn cABSENT).readDone none r).mtDone
      none_ u ∧ u.me.pend = (f s.me).pend ∧ u.me.sqA = (f s.me).sqA ∧ u.me.sqB = (f s.me).sqB := by
    obtain ⟨mem, tiles, read⟩ := State.read_none (State.plain_of_unlogged hs) r cABSENT hrep htiles
    obtain ⟨causes, push, regs, pend, sqA, sqB⟩ := read.shows hsticky hcq hregs
    exact ⟨⟨causes, tiles, push, regs, mem⟩, pend, sqA, sqB⟩
  have sided {u : State} {k : Ctx} (hA : u.me.sqA = k.sqA) (hB : u.me.sqB = k.sqB) (v : BitVec 1) : u.me.side v = k.side v := by
    unfold Ctx.side
    rw [hA, hB]
  refine ⟨fun l hx hl => ⟨fun ho => ?_, fun hw => ?_, fun hz hq => ?_⟩, fun l hx hl hd => ⟨fun ho => ?_, fun hw => ?_, fun hz hq => ?_⟩,
    fun ho => congrArg _ (if_pos ho), fun hw => congrArg _ (if_pos hw), fun hz => congrArg _ (if_pos hz)⟩
  · obtain ⟨hdone, pend, sqA, sqB⟩ := found l hx o (·.fillPend s.cur.tok 4 ((s.tile l).read o 512) none) rfl rfl rfl rfl (regsSame_refl _)
    exact ⟨_, (execTld_aligned t i x r d p s ho).trans (congrArg _ (State.readOp_ready hx hl _)), pend, sqA, sqB, hdone⟩
  · obtain ⟨hdone, pend, -, -⟩ := found l hx w (·.fillPend s.cur.tok 3 (((s.tile l).read w 8).setWidth 4096) none) rfl rfl rfl rfl (regsSame_refl _)
    exact ⟨_, (execTlw_aligned t i x r d a s hw).trans (congrArg _ (State.readOp_ready hx hl _)), pend, hdone⟩
  · obtain ⟨hrep, htiles, hsticky, hcq, hpend, hregs⟩ := s.me.sided_rest q ((s.tile l).read z 128)
    obtain ⟨same, other⟩ := s.me.sided_side q ((s.tile l).read z 128)
    obtain ⟨hdone, pend, sqA, sqB⟩ := found l hx z (·.sided q ((s.tile l).read z 128)) hrep htiles hsticky hcq hregs
    exact ⟨_, (execSqld_aligned t i x r q p s hz hq).trans (congrArg _ (State.readOp_ready hx hl _)), pend.trans hpend, (sided sqA sqB q).trans same,
      (sided sqA sqB (1 - q)).trans other, hdone⟩
  · obtain ⟨hdone, pend, -, -⟩ := missed (·.fillPend s.cur.tok 4 0 none) rfl rfl rfl rfl (regsSame_refl _)
    exact ⟨_, (execTld_aligned t i x r d p s ho).trans (congrArg _ (State.readOp_absent hx hl hd _)), pend, hdone⟩
  · have zero : (0 : W64).setWidth 4096 = 0 := by simp
    obtain ⟨hdone, pend, -, -⟩ := missed (·.fillPend s.cur.tok 3 ((0 : W64).setWidth 4096) none) rfl rfl rfl rfl (regsSame_refl _)
    refine ⟨_, (execTlw_aligned t i x r d a s hw).trans (congrArg _ (State.readOp_absent hx hl hd _)), ?_, hdone⟩
    rw [← zero]
    exact pend
  · obtain ⟨hrep, htiles, hsticky, hcq, -, hregs⟩ := s.me.sided_rest q 0
    obtain ⟨same, -⟩ := s.me.sided_side q 0
    obtain ⟨hdone, -, sqA, sqB⟩ := missed (·.sided q 0) hrep htiles hsticky hcq hregs
    exact ⟨_, (execSqld_aligned t i x r q p s hz hq).trans (congrArg _ (State.readOp_absent hx hl hd _)), (sided sqA sqB q).trans same, hdone⟩

end Sys2Proof.Proofs
end

section
/-! PROOF. The one rounding of every floating result (O22): values as real numbers, what a rounded magnitude is, and that `FFmt.round` is that of
each format. -/

namespace Sys2Proof.Machine

open Sys2Proof.Safety

/-! ### Values as real numbers -/

/-- n 2^j. -/
noncomputable def dyad (n : Nat) (j : Int) : ℝ := n * (2 : ℝ) ^ j

theorem two_zpow_pos (j : Int) : (0 : ℝ) < 2 ^ j := zpow_pos two_pos j

theorem two_zpow_succ (j : Int) : (2 : ℝ) ^ (j + 1) = 2 * 2 ^ j := by rw [zpow_add_one₀ two_ne_zero]; ring

theorem dyad_nonneg (n : Nat) (j : Int) : 0 ≤ dyad n j := mul_nonneg n.cast_nonneg (two_zpow_pos j).le

/-- A value at a lower exponent. -/
theorem dyad_shift (n : Nat) {j z : Int} (h : z ≤ j) : dyad (n * 2 ^ (j - z).toNat) z = dyad n j := by
  obtain ⟨k, hk⟩ := Int.eq_ofNat_of_zero_le (sub_nonneg.2 h)
  have hj : j = z + k := by omega
  rw [hk, Int.toNat_natCast, dyad, dyad, hj, zpow_add₀ two_ne_zero, zpow_natCast]
  push_cast
  ring

theorem dyad_le_iff {n m : Nat} {j : Int} : dyad n j ≤ dyad m j ↔ n ≤ m := by
  rw [dyad, dyad, mul_le_mul_iff_left₀ (two_zpow_pos j), Nat.cast_le]

/-- `atMost` is the order of values. -/
theorem atMost_iff {n m : Nat} {j e : Int} : atMost n j m e ↔ dyad n j ≤ dyad m e := by
  rw [← dyad_shift n (min_le_left j e), ← dyad_shift m (min_le_right j e), dyad_le_iff]
  rfl

/-! ### A rounded magnitude (R111) -/

/-- A mode takes a magnitude of a sign up to the next one, where it is not exact: down for negative, up for positive ones (R111). -/
def Away (mode : Nat) (s : Bool) : Prop := (mode = 2 ∧ s = true) ∨ (mode = 3 ∧ s = false)

/-- r is the magnitude x rounded to an integer in a mode (R111). -/
structure IsRound (mode : Nat) (s : Bool) (x : ℝ) (r : Nat) : Prop where
  near : mode = 0 → (r : ℝ) - 1 / 2 ≤ x ∧ x ≤ r + 1 / 2 ∧ ((x = r - 1 / 2 ∨ x = r + 1 / 2) → r % 2 = 0)
  up : Away mode s → (r : ℝ) - 1 < x ∧ x ≤ r
  down : mode ≠ 0 → ¬Away mode s → (r : ℝ) ≤ x ∧ x < r + 1

theorem away_ne_zero {mode : Nat} {s : Bool} (h : Away mode s) : mode ≠ 0 := by
  rintro rfl
  rcases h with ⟨h, -⟩ | ⟨h, -⟩ <;> cases h

/-- A rounded magnitude is less than one away. -/
theorem IsRound.close {mode : Nat} {s : Bool} {x : ℝ} {r : Nat} (h : IsRound mode s x r) : (r : ℝ) - 1 < x ∧ x < r + 1 := by
  by_cases h0 : mode = 0
  · obtain ⟨lo, hi, -⟩ := h.near h0
    constructor <;> linarith
  · by_cases ha : Away mode s
    · obtain ⟨lo, hi⟩ := h.up ha
      exact ⟨lo, by linarith⟩
    · obtain ⟨lo, hi⟩ := h.down h0 ha
      exact ⟨by linarith, hi⟩

theorem IsRound.le_of_le {mode : Nat} {s : Bool} {x : ℝ} {r k : Nat} (h : IsRound mode s x r) (hk : (k : ℝ) ≤ x) : k ≤ r := by
  have : (k : ℝ) < r + 1 := hk.trans_lt h.close.2
  exact_mod_cast Nat.lt_succ_iff.1 (by exact_mod_cast this)

theorem IsRound.ge_of_ge {mode : Nat} {s : Bool} {x : ℝ} {r k : Nat} (h : IsRound mode s x r) (hk : x ≤ k) : r ≤ k := by
  have : (r : ℝ) < k + 1 := by linarith [h.close.1]
  exact_mod_cast Nat.lt_succ_iff.1 (by exact_mod_cast this)

/-- An integer is itself. -/
theorem IsRound.exact (mode : Nat) (s : Bool) (r : Nat) : IsRound mode s r r :=
  ⟨fun _ => ⟨by linarith, by linarith, fun h => by rcases h with h | h <;> linarith⟩, fun _ => ⟨by linarith, le_refl _⟩,
    fun _ _ => ⟨le_refl _, by linarith⟩⟩

/-- The integer part of a magnitude, or one more, as the mode and the fraction say (R111). -/
theorem IsRound.of_fraction {mode : Nat} (hmode : mode < 4) (s : Bool) (r rem half : Nat) {t : ℝ} (h0 : 0 ≤ t) (h1 : t < 1)
    (hzero : t = 0 ↔ rem = 0) (hlt : t < 1 / 2 ↔ rem < half) (heq : t = 1 / 2 ↔ rem = half) :
    IsRound mode s (r + t) (if roundUp mode s r rem half then r + 1 else r) := by
  have hgt : 1 / 2 < t ↔ half < rem := by
    rcases lt_trichotomy rem half with h | h | h
    · have := hlt.2 h
      constructor <;> intro <;> [linarith; omega]
    · have := heq.2 h
      constructor <;> intro <;> [linarith; omega]
    · refine ⟨fun _ => h, fun _ => lt_of_le_of_ne (not_lt.1 fun k => ?_) fun k => ?_⟩
      · have := hlt.1 k; omega
      · have := heq.1 k.symm; omega
  match mode, hmode with
  | 0, _ =>
    refine ⟨fun _ => ?_, fun h => absurd rfl (away_ne_zero h), fun h => absurd rfl h⟩
    simp only [roundUp, Bool.or_eq_true, decide_eq_true_eq, Bool.and_eq_true]
    rcases lt_trichotomy rem half with h | h | h
    · have := hlt.2 h
      rw [if_neg (by omega)]
      exact ⟨by linarith, by linarith, fun k => by rcases k with k | k <;> linarith⟩
    · have := heq.2 h
      by_cases hr : r % 2 = 1
      · rw [if_pos (.inr ⟨h, hr⟩)]
        push_cast
        exact ⟨by linarith, by linarith, fun _ => by omega⟩
      · rw [if_neg (by omega)]
        exact ⟨by linarith, by linarith, fun _ => by omega⟩
    · have := hgt.2 h
      rw [if_pos (.inl h)]
      push_cast
      exact ⟨by linarith, by linarith, fun k => by rcases k with k | k <;> linarith⟩
  | 1, _ =>
    refine ⟨fun h => (by cases h), fun h => ?_, fun _ _ => ?_⟩
    · rcases h with ⟨h, -⟩ | ⟨h, -⟩ <;> cases h
    · rw [show roundUp 1 s r rem half = false from rfl, if_neg Bool.false_ne_true]
      exact ⟨by linarith, by linarith⟩
  | 2, _ =>
    refine ⟨fun h => (by cases h), fun h => ?_, fun _ h => ?_⟩
    · have hs : s = true := by rcases h with ⟨-, h⟩ | ⟨h, -⟩ <;> [exact h; cases h]
      by_cases hr : rem = 0
      · have := hzero.2 hr
        rw [if_neg (by simp [roundUp, hr])]
        exact ⟨by linarith, by linarith⟩
      · have : 0 < t := lt_of_le_of_ne h0 fun k => hr (hzero.1 k.symm)
        rw [if_pos (by simp [roundUp, hs, hr])]
        push_cast
        exact ⟨by linarith, by linarith⟩
    · have hs : s = false := Bool.eq_false_iff.2 fun k => h (.inl ⟨rfl, k⟩)
      rw [if_neg (by simp [roundUp, hs])]
      exact ⟨by linarith, by linarith⟩
  | 3, _ =>
    refine ⟨fun h => (by cases h), fun h => ?_, fun _ h => ?_⟩
    · have hs : s = false := by rcases h with ⟨h, -⟩ | ⟨-, h⟩ <;> [cases h; exact h]
      by_cases hr : rem = 0
      · have := hzero.2 hr
        rw [if_neg (by simp [roundUp, hr])]
        exact ⟨by linarith, by linarith⟩
      · have : 0 < t := lt_of_le_of_ne h0 fun k => hr (hzero.1 k.symm)
        rw [if_pos (by simp [roundUp, hs, hr])]
        push_cast
        exact ⟨by linarith, by linarith⟩
    · have hs : s = true := by
        cases s with
        | true => rfl
        | false => exact absurd (.inr ⟨rfl, rfl⟩) h
      rw [if_neg (by simp [roundUp, hs])]
      exact ⟨by linarith, by linarith⟩

/-- The number m stands for the magnitude x: it is x, or it is odd and x lies between its even neighbours, which a sticky bit says, and m has more
than b
bits. -/
def Stands (b m : Nat) (x : ℝ) : Prop := x = m ∨ (m % 2 = 1 ∧ (m : ℝ) - 1 < x ∧ x < m + 1 ∧ 2 ^ b ≤ m)

/-- The fraction of x / d, where m stands for x, is that of m / d as far as rounding sees it. -/
theorem fraction_facts {m d : Nat} {x : ℝ} (hd : 0 < d) (h : x = m ∨ (m % 2 = 1 ∧ (m : ℝ) - 1 < x ∧ x < m + 1 ∧ d % 4 = 0)) :
    let t := x / d - (m / d : Nat)
    0 ≤ t ∧ t < 1 ∧ (t = 0 ↔ 2 * (m % d) = 0) ∧ (t < 1 / 2 ↔ 2 * (m % d) < d) ∧ (t = 1 / 2 ↔ 2 * (m % d) = d) := by
  intro t
  have hd' : (0 : ℝ) < d := Nat.cast_pos.2 hd
  have hm : (m : ℝ) = d * (m / d : Nat) + (m % d : Nat) := by exact_mod_cast (Nat.div_add_mod m d).symm
  have hlt : m % d < d := Nat.mod_lt _ hd
  have hpar : d % 4 = 0 → m % d % 2 = m % 2 := fun h4 => Nat.mod_mod_of_dvd m (by omega)
  have ht : t = (x - d * (m / d : Nat)) / d := by
    dsimp only [t]
    field_simp
  generalize m % d = u at hm hlt hpar
  rcases h with h | ⟨hodd, lo, hi, h4⟩
  · have hx : x - d * (m / d : Nat) = u := by linarith
    have hu : (u : ℝ) < d := Nat.cast_lt.2 hlt
    rw [ht, hx]
    refine ⟨by positivity, (div_lt_one hd').2 hu, ?_, ?_, ?_⟩
    · rw [div_eq_zero_iff, or_iff_left hd'.ne', Nat.cast_eq_zero]
      omega
    · rw [div_lt_div_iff₀ hd' two_pos, one_mul]
      exact_mod_cast Iff.of_eq (congrArg (· < d) (mul_comm u 2))
    · rw [div_eq_div_iff hd'.ne' two_ne_zero, one_mul]
      exact_mod_cast Iff.of_eq (congrArg (· = d) (mul_comm u 2))
  · have hu := hpar h4
    have hy1 : ((u : ℝ) - 1) / d < t := by rw [ht]; exact div_lt_div_of_pos_right (by linarith) hd'
    have hy2 : t < ((u : ℝ) + 1) / d := by rw [ht]; exact div_lt_div_of_pos_right (by linarith) hd'
    have u1 : (1 : ℝ) ≤ u := by exact_mod_cast (by omega : 1 ≤ u)
    have ud : (u : ℝ) + 1 ≤ d := by exact_mod_cast (by omega : u + 1 ≤ d)
    have pos : 0 < t := lt_of_le_of_lt (div_nonneg (by linarith) hd'.le) hy1
    have lt1 : t < 1 := hy2.trans_le ((div_le_one hd').2 ud)
    rcases lt_or_gt_of_ne (show 2 * u ≠ d by omega) with hlow | hhigh
    · have half : t < 1 / 2 := hy2.trans_le <| by
        rw [div_le_div_iff₀ hd' two_pos]
        exact_mod_cast (by omega : (u + 1) * 2 ≤ 1 * d)
      exact ⟨pos.le, lt1, ⟨fun h => absurd h pos.ne', fun h => by omega⟩, ⟨fun _ => hlow, fun _ => half⟩,
        ⟨fun h => absurd h half.ne, fun h => by omega⟩⟩
    · have half : 1 / 2 < t := lt_of_le_of_lt (by
        rw [div_le_div_iff₀ two_pos hd']
        have : (d : ℝ) + 2 ≤ 2 * u := by exact_mod_cast (by omega : d + 2 ≤ 2 * u)
        linarith) hy1
      exact ⟨pos.le, lt1, ⟨fun h => absurd h pos.ne', fun h => by omega⟩, ⟨fun h => absurd h half.not_gt, fun h => by omega⟩,
        ⟨fun h => absurd h half.ne', fun h => by omega⟩⟩

/-- An exact magnitude is not taken up. -/
theorem roundUp_zero (mode : Nat) (s : Bool) (r : Nat) {half : Nat} (h : 0 < half) : roundUp mode s r 0 half = false := by
  unfold roundUp
  split
  · simp [h.ne, Nat.not_lt.2 h.le]
  · rfl
  · simp
  · simp

/-- `roundShift` rounds the magnitude that its number stands for, two bits or more below the place of rounding, and says whether that was inexact
(R111). -/
theorem roundShift_isRound {mode : Nat} (hmode : mode < 4) (s : Bool) {m : Nat} {x : ℝ} {k : Int}
    (h : x = m ∨ (m % 2 = 1 ∧ (m : ℝ) - 1 < x ∧ x < m + 1 ∧ 2 ≤ k)) :
    IsRound mode s (x * 2 ^ (-k)) (roundShift mode s m k).1 ∧ ((roundShift mode s m k).2 = true ↔ x * 2 ^ (-k) ≠ (roundShift mode s m k).1) := by
  unfold roundShift
  by_cases hk : k ≤ 0
  · rw [if_pos hk]
    have hx : x = m := h.resolve_right fun ⟨_, _, _, h2⟩ => by omega
    have e : x * 2 ^ (-k) = (m * 2 ^ k.natAbs : Nat) := by
      rw [hx, show -k = (k.natAbs : Int) by omega, zpow_natCast]
      push_cast
      rfl
    rw [e]
    exact ⟨.exact _ _ _, by simp⟩
  · rw [if_neg hk]
    obtain ⟨j, rfl⟩ : ∃ j : Nat, k = j + 1 := ⟨(k - 1).toNat, by omega⟩
    rw [show ((j : Int) + 1).toNat = j + 1 by omega]
    have hpos : 0 < 2 ^ (j + 1) := Nat.two_pow_pos _
    have e : x * 2 ^ (-((j : Int) + 1)) = x / (2 ^ (j + 1) : Nat) := by
      rw [zpow_neg, ← div_eq_mul_inv, show ((j : Int) + 1) = ((j + 1 : Nat) : Int) by omega, zpow_natCast]
      push_cast
      rfl
    have h4 : 2 ≤ (j : Int) + 1 → 2 ^ (j + 1) % 4 = 0 := fun h => by
      obtain ⟨i, rfl⟩ : ∃ i, j = i + 1 := ⟨j - 1, by omega⟩
      rw [pow_succ, pow_succ, Nat.mul_assoc]
      omega
    obtain ⟨t0, t1, tz, tl, te⟩ := fraction_facts hpos (h.imp id fun ⟨ho, lo, hi, h2⟩ => ⟨ho, lo, hi, h4 h2⟩)
    rw [e]
    generalize ht : x / (2 ^ (j + 1) : Nat) - (m / 2 ^ (j + 1) : Nat) = t at t0 t1 tz tl te
    have hx : x / (2 ^ (j + 1) : Nat) = (m / 2 ^ (j + 1) : Nat) + t := by linarith
    have hround := IsRound.of_fraction hmode s (m / 2 ^ (j + 1)) _ _ t0 t1 tz tl te
    dsimp only
    rw [hx]
    refine ⟨hround, ?_⟩
    rw [bne_iff_ne, not_iff_not]
    constructor
    · intro hz
      have := tz.2 (by omega)
      rw [hz, Nat.mul_zero, roundUp_zero _ _ _ hpos, if_neg Bool.false_ne_true, this, add_zero]
    · intro hz
      have : t = 0 := by
        split at hz
        · push_cast at hz
          linarith
        · linarith
      have := tz.1 this
      omega

end Sys2Proof.Machine
end

section
/-! PROOF. Rounding to a format (O22): the bits of a format, and the result of `FFmt.round`. -/

namespace Sys2Proof.Machine

open Sys2Proof.Safety

/-! ### The bits of a format (R110) -/

/-- What FP16, BF16 and FP32 share: the bias is the middle of the exponents, and there are fewer fraction bits than exponents above 0. -/
structure FFmt.Good (f : FFmt) : Prop where
  mb_pos : 1 ≤ f.mb
  mb_le : f.mb ≤ 23
  mb_lt_bias : f.mb + 1 ≤ f.bias
  bias_le : f.bias ≤ 127
  eb_eq : 2 ^ f.eb = 2 * f.bias + 2

theorem FFmt.good_of {f : FFmt} (h : f = fp16 ∨ f = bf16 ∨ f = fp32) : f.Good := by
  rcases h with rfl | rfl | rfl <;> exact ⟨by decide, by decide, by decide, by decide, by decide⟩

/-- The exponent of the lowest place of a format. -/
def FFmt.low (f : FFmt) : Int := 1 - f.bias - f.mb

/-- The exponent of the last place of the largest finite values. -/
def FFmt.high (f : FFmt) : Int := f.bias - f.mb

/-- m 2^i is a value of a format as its bits spell it. -/
structure FFmt.Spelled (f : FFmt) (m : Nat) (i : Int) : Prop where
  lt : m < 2 ^ (f.mb + 1)
  low : f.low ≤ i
  high : i ≤ f.high
  normal : 2 ^ f.mb ≤ m ∨ i = f.low

/-- The fields of a pattern of a format. -/
theorem FFmt.fields_pack (f : FFmt) (s : Bool) {E M : Nat} (hE : E < 2 ^ f.eb) (hM : M < 2 ^ f.mb) :
    let v := f.sgn s + E * 2 ^ f.mb + M
    (v / 2 ^ (f.eb + f.mb) % 2 = bit s) ∧ v / 2 ^ f.mb % 2 ^ f.eb = E ∧ v % 2 ^ f.mb = M := by
  have hv : f.sgn s + E * 2 ^ f.mb + M = M + 2 ^ f.mb * (E + 2 ^ f.eb * bit s) := by
    rw [FFmt.sgn, pow_add]
    ring
  have hdiv : (M + 2 ^ f.mb * (E + 2 ^ f.eb * bit s)) / 2 ^ f.mb = E + 2 ^ f.eb * bit s := by
    rw [Nat.add_mul_div_left _ _ (Nat.two_pow_pos _), Nat.div_eq_of_lt hM, Nat.zero_add]
  have hs : bit s < 2 := by cases s <;> decide
  refine ⟨?_, ?_, ?_⟩
  · rw [hv, Nat.add_comm f.eb, pow_add, ← Nat.div_div_eq_div_mul, hdiv, Nat.add_mul_div_left _ _ (Nat.two_pow_pos _),
      Nat.div_eq_of_lt hE, Nat.zero_add,
      Nat.mod_eq_of_lt hs]
  · rw [hv, hdiv, Nat.add_mul_mod_self_left, Nat.mod_eq_of_lt hE]
  · rw [hv, Nat.add_mul_mod_self_left, Nat.mod_eq_of_lt hM]

/-- The value that a pattern of a finite number spells. -/
theorem FFmt.decode_pack {f : FFmt} (hf : f.Good) (s : Bool) {E M : Nat} (hE : E < 2 * f.bias + 1) (hM : M < 2 ^ f.mb) :
    f.decode (f.sgn s + E * 2 ^ f.mb + M) = if E = 0 then .fin s M f.low else .fin s (2 ^ f.mb + M) ((E : Int) - f.bias - f.mb) := by
  have heb := hf.eb_eq
  obtain ⟨sign, expo, frac⟩ := f.fields_pack s (by omega : E < 2 ^ f.eb) hM
  have hs : decide (bit s = 1) = s := by cases s <;> rfl
  unfold FFmt.decode
  simp only [sign, expo, frac, hs]
  rw [if_neg (by omega)]
  rfl

theorem FFmt.decode_infBits {f : FFmt} (hf : f.Good) (s : Bool) : f.decode (f.infBits s) = .inf s := by
  have heb := hf.eb_eq
  obtain ⟨sign, expo, frac⟩ := f.fields_pack s (by omega : 2 ^ f.eb - 1 < 2 ^ f.eb) (Nat.two_pow_pos f.mb)
  rw [Nat.add_zero] at sign expo frac
  have hs : decide (bit s = 1) = s := by cases s <;> rfl
  unfold FFmt.decode FFmt.infBits
  simp only [sign, expo, frac, hs, if_true]

theorem FFmt.decode_maxBits {f : FFmt} (hf : f.Good) (s : Bool) : f.decode (f.maxBits s) = .fin s (2 ^ (f.mb + 1) - 1) f.high := by
  have heb := hf.eb_eq
  have hp := Nat.two_pow_pos f.mb
  have hv : f.maxBits s = f.sgn s + (2 * f.bias) * 2 ^ f.mb + (2 ^ f.mb - 1) := by
    rw [FFmt.maxBits, heb, show 2 * f.bias + 2 - 1 = 2 * f.bias + 1 by omega, Nat.add_mul, one_mul]
    omega
  have hb := hf.mb_lt_bias
  rw [hv, FFmt.decode_pack hf s (by omega) (by omega), if_neg (by omega), pow_succ, FFmt.high]
  congr 1
  · omega
  · push_cast
    ring

/-- A finite value is one that bits can spell. -/
theorem FFmt.spelled_of_decode {f : FFmt} (hf : f.Good) {y : Nat} {t : Bool} {m : Nat} {i : Int} (h : f.decode y = .fin t m i) : f.Spelled m i := by
  have heb := hf.eb_eq
  have hb := hf.mb_lt_bias
  have hM : y % 2 ^ f.mb < 2 ^ f.mb := Nat.mod_lt _ (Nat.two_pow_pos _)
  have hE : y / 2 ^ f.mb % 2 ^ f.eb < 2 ^ f.eb := Nat.mod_lt _ (Nat.two_pow_pos _)
  have hp : 2 ^ (f.mb + 1) = 2 ^ f.mb + 2 ^ f.mb := by rw [pow_succ]; ring
  unfold FFmt.decode at h
  dsimp only at h
  generalize y / 2 ^ f.mb % 2 ^ f.eb = E at *
  generalize y % 2 ^ f.mb = M at *
  split at h
  · split at h <;> cases h
  · next hne =>
    split at h
    · cases h
      exact ⟨by omega, le_refl _, by unfold FFmt.high; omega, .inr rfl⟩
    · cases h
      exact ⟨by omega, by unfold FFmt.low; omega, by unfold FFmt.high; omega, .inl (by omega)⟩

/-- The bits that `FFmt.round` gives a rounded magnitude. -/
def FFmt.packBits (f : FFmt) (r : Nat) (q : Int) : Nat := if r < 2 ^ f.mb then r else (q + f.mb + f.bias).toNat * 2 ^ f.mb + (r - 2 ^ f.mb)

theorem FFmt.decode_packBits {f : FFmt} (hf : f.Good) (s : Bool) {r : Nat} {q : Int} (h : f.Spelled r q) :
    f.decode (f.sgn s + f.packBits r q) = .fin s r q := by
  obtain ⟨hlt, hlow, hhigh, hnormal⟩ := h
  rw [pow_succ] at hlt
  unfold FFmt.packBits
  split
  · next hsub =>
    have hq : q = f.low := hnormal.resolve_left (Nat.not_le.2 hsub)
    have := FFmt.decode_pack hf s (E := 0) (by omega) hsub
    rwa [Nat.zero_mul, Nat.add_zero, if_pos rfl, ← hq] at this
  · next hnorm =>
    unfold FFmt.low at hlow
    unfold FFmt.high at hhigh
    have := FFmt.decode_pack hf s (E := (q + f.mb + f.bias).toNat) (M := r - 2 ^ f.mb) (by omega) (by omega)
    rw [Nat.add_assoc] at this
    rw [this, if_neg (by omega)]
    congr 1 <;> omega

/-- The parity of a finite result is that of its magnitude. -/
theorem FFmt.packBits_even {f : FFmt} (hf : f.Good) (s : Bool) {r : Nat} (q : Int) (h : r % 2 = 0) : (f.sgn s + f.packBits r q) % 2 = 0 := by
  have hb := hf.mb_pos
  obtain ⟨k, hk⟩ : ∃ k, f.mb = k + 1 := ⟨f.mb - 1, by omega⟩
  have hs : f.sgn s % 2 = 0 := by
    rw [FFmt.sgn, hk, ← Nat.add_assoc, pow_succ, ← Nat.mul_assoc]
    exact Nat.mul_mod_left _ _
  have hp : f.packBits r q % 2 = 0 := by
    unfold FFmt.packBits
    split
    · exact h
    · have e : 2 ^ f.mb = 2 ^ k * 2 := by rw [hk, pow_succ]
      rw [e, ← Nat.mul_assoc]
      omega
  omega

/-! ### Values of a format beside a rounded one -/

theorem dyad_succ (n : Nat) (j : Int) : dyad (n + 1) j = dyad n j + 2 ^ j := by
  rw [dyad, dyad]
  push_cast
  ring

/-- A magnitude of a format, counted in places below its own, is at most the lowest one with all its bits. -/
theorem FFmt.Spelled.lt_places {f : FFmt} {m : Nat} {i q : Int} (h : f.Spelled m i) (hi : i < q) : m < 2 ^ f.mb * 2 ^ (q - i).toNat := by
  obtain ⟨k, hk⟩ : ∃ k, (q - i).toNat = k + 1 := ⟨(q - i).toNat - 1, by omega⟩
  calc m < 2 ^ f.mb * 2 := by rw [← pow_succ]; exact h.lt
    _ ≤ 2 ^ f.mb * 2 ^ (q - i).toNat := Nat.mul_le_mul_left _ (by rw [hk, pow_succ]; have := Nat.two_pow_pos k; omega)

/-- A value of a format above r 2^q, where magnitudes have their places at q, is above it by a whole place. -/
theorem FFmt.Spelled.above {f : FFmt} {m r : Nat} {i q : Int} (h : f.Spelled m i) (hr : 2 ^ f.mb ≤ r ∨ q = f.low) (hlt : dyad r q < dyad m i) :
    dyad r q + 2 ^ q ≤ dyad m i := by
  rcases le_or_gt q i with hi | hi
  · rw [← dyad_succ]
    rw [← dyad_shift m hi] at hlt ⊢
    rw [dyad_le_iff]
    exact Nat.succ_le_of_lt (lt_of_not_ge fun k => hlt.not_ge (dyad_le_iff.2 k))
  · have hlow := h.low
    have hr' := hr.resolve_right (by omega)
    refine absurd hlt (not_lt.2 ?_)
    rw [← dyad_shift r hi.le, dyad_le_iff]
    exact (h.lt_places hi).le.trans (Nat.mul_le_mul_right _ hr')

/-- A value of a format below r 2^q is below it by a whole place, but for the lowest magnitude with its places at q. -/
theorem FFmt.Spelled.below {f : FFmt} {m r : Nat} {i q : Int} (h : f.Spelled m i) (hr : 2 ^ f.mb ≤ r ∨ q = f.low) (hlt : dyad m i < dyad r q) :
    dyad m i + 2 ^ q ≤ dyad r q ∨ (r = 2 ^ f.mb ∧ q ≠ f.low) := by
  obtain ⟨k, rfl⟩ : ∃ k, r = k + 1 := by
    refine ⟨r - 1, ?_⟩
    rcases Nat.eq_zero_or_pos r with rfl | h0
    · rw [show dyad 0 q = 0 by simp [dyad]] at hlt
      exact absurd hlt (dyad_nonneg _ _).not_gt
    · omega
  rw [dyad_succ, add_le_add_iff_right]
  rcases le_or_gt q i with hi | hi
  · left
    rw [← dyad_shift m hi] at hlt ⊢
    rw [dyad_le_iff]
    exact Nat.lt_succ_iff.1 (lt_of_not_ge fun k => hlt.not_ge (dyad_le_iff.2 k))
  · have hlow := h.low
    have hr' := hr.resolve_right (by omega)
    rcases hr'.lt_or_eq with hgt | heq
    · left
      rw [← dyad_shift k hi.le, dyad_le_iff]
      exact (h.lt_places hi).le.trans (Nat.mul_le_mul_right _ (Nat.lt_succ_iff.1 hgt))
    · exact .inr ⟨heq.symm, by omega⟩

/-- A rounded magnitude, in places of 2^q. -/
theorem IsRound.scaled {mode : Nat} {s : Bool} {x : ℝ} {q : Int} {r : Nat} (h : IsRound mode s (x * 2 ^ (-q)) r) :
    (mode = 0 → dyad r q - 2 ^ q / 2 ≤ x ∧ x ≤ dyad r q + 2 ^ q / 2 ∧ ((x = dyad r q - 2 ^ q / 2 ∨ x = dyad r q + 2 ^ q / 2) → r % 2 = 0)) ∧
    (Away mode s → dyad r q - 2 ^ q < x ∧ x ≤ dyad r q) ∧ (mode ≠ 0 → ¬Away mode s → dyad r q ≤ x ∧ x < dyad r q + 2 ^ q) := by
  have hP := two_zpow_pos q
  have hx : x = x * 2 ^ (-q) * 2 ^ q := by rw [mul_assoc, ← zpow_add₀ two_ne_zero, neg_add_cancel, zpow_zero, mul_one]
  unfold dyad
  generalize x * 2 ^ (-q) = X at h hx
  generalize (2 : ℝ) ^ q = P at hx hP
  subst hx
  refine ⟨fun h0 => ?_, fun ha => ?_, fun h0 ha => ?_⟩
  · obtain ⟨lo, hi, tie⟩ := h.near h0
    refine ⟨by nlinarith, by nlinarith, fun k => tie (k.imp (fun k => ?_) fun k => ?_)⟩
    · exact mul_right_cancel₀ hP.ne' (k.trans (by ring))
    · exact mul_right_cancel₀ hP.ne' (k.trans (by ring))
  · obtain ⟨lo, hi⟩ := h.up ha
    constructor <;> nlinarith
  · obtain ⟨lo, hi⟩ := h.down h0 ha
    constructor <;> nlinarith

/-- n 2^j is the value of a format that a mode rounds x to: no value m 2^i of the format lies nearer in the direction of the mode, and of two that lie
equally near it is the one that `even` holds of. -/
structure Nearest (mode : Nat) (s : Bool) (x : ℝ) (n : Nat) (j : Int) (even : Prop) (m : Nat) (i : Int) : Prop where
  below : mode = 0 → dyad n j < dyad m i → 2 * x ≤ dyad m i + dyad n j ∧ (dyad m i + dyad n j ≤ 2 * x → even)
  above : mode = 0 → dyad m i < dyad n j → dyad m i + dyad n j ≤ 2 * x ∧ (2 * x ≤ dyad m i + dyad n j → even)
  up : Away mode s → x ≤ dyad n j ∧ (x ≤ dyad m i → dyad n j ≤ dyad m i)
  down : mode ≠ 0 → ¬Away mode s → dyad n j ≤ x ∧ (dyad m i ≤ x → dyad m i ≤ dyad n j)

/-- A magnitude rounded to places that the format has at its size is the nearest value of the format. -/
theorem IsRound.nearest {f : FFmt} {mode : Nat} {s : Bool} {x : ℝ} {q : Int} {r : Nat} (h : IsRound mode s (x * 2 ^ (-q)) r)
    (hx : dyad (2 ^ f.mb) q ≤ x ∨ q = f.low) (hr : 2 ^ f.mb ≤ r ∨ q = f.low) {m : Nat} {i : Int} (hm : f.Spelled m i) :
    Nearest mode s x r q (r % 2 = 0) m i := by
  obtain ⟨near, up, down⟩ := h.scaled
  have hP := two_zpow_pos q
  have above := hm.above hr
  have below (hlt : dyad m i < dyad r q) : dyad m i + 2 ^ q ≤ dyad r q ∨ dyad r q ≤ x :=
    (hm.below hr hlt).imp id fun ⟨e, hq⟩ => by
      rw [e]
      exact hx.resolve_right hq
  refine ⟨fun h0 hlt => ?_, fun h0 hlt => ?_, fun ha => ?_, fun h0 ha => ?_⟩
  · obtain ⟨-, hi, tie⟩ := near h0
    have := above hlt
    exact ⟨by linarith, fun k => tie (.inr (le_antisymm hi (by linarith)))⟩
  · obtain ⟨lo, -, tie⟩ := near h0
    rcases below hlt with k | k
    · exact ⟨by linarith, fun k' => tie (.inl (le_antisymm (by linarith) lo))⟩
    · exact ⟨by linarith, fun k' => by linarith⟩
  · obtain ⟨lo, hi⟩ := up ha
    refine ⟨hi, fun k => not_lt.1 fun hlt => ?_⟩
    rcases below hlt with k' | k' <;> linarith
  · obtain ⟨lo, hi⟩ := down h0 ha
    refine ⟨lo, fun k => not_lt.1 fun hlt => ?_⟩
    have := above hlt
    linarith

/-! ### Thresholds: overflow and tininess (R111, R112) -/

/-- x rounds beyond the magnitudes of 2^j that the fraction of a format holds. -/
def FFmt.Passes (f : FFmt) (mode : Nat) (s : Bool) (x : ℝ) (j : Int) : Prop :=
  (mode = 0 ∧ dyad (2 * (2 ^ (f.mb + 1) - 1) + 1) (j - 1) ≤ x) ∨ (Away mode s ∧ dyad (2 ^ (f.mb + 1) - 1) j < x) ∨
  (mode ≠ 0 ∧ ¬Away mode s ∧ dyad (2 ^ (f.mb + 1) - 1 + 1) j ≤ x)

/-- The three thresholds in places of 2^j. -/
theorem FFmt.passes_iff (f : FFmt) (mode : Nat) (s : Bool) (x : ℝ) (j : Int) : f.Passes mode s x j ↔
    (mode = 0 ∧ dyad (2 ^ (f.mb + 1)) j - 2 ^ j / 2 ≤ x) ∨ (Away mode s ∧ dyad (2 ^ (f.mb + 1)) j - 2 ^ j < x) ∨
    (mode ≠ 0 ∧ ¬Away mode s ∧ dyad (2 ^ (f.mb + 1)) j ≤ x) := by
  obtain ⟨k, hk⟩ : ∃ k, 2 ^ (f.mb + 1) = k + 1 := ⟨2 ^ (f.mb + 1) - 1, by have := Nat.two_pow_pos (f.mb + 1); omega⟩
  have hj := two_zpow_succ (j - 1)
  rw [sub_add_cancel] at hj
  have half : dyad (2 * k + 1) (j - 1) = dyad (k + 1) j - 2 ^ j / 2 := by
    simp only [dyad, hj]
    push_cast
    ring
  unfold FFmt.Passes
  rw [hk, Nat.add_sub_cancel, half, dyad_succ, add_sub_cancel_right]

/-- x passes exactly where it rounds to one more place than the fraction holds. -/
theorem IsRound.passes_iff {f : FFmt} {mode : Nat} {s : Bool} {x : ℝ} {j : Int} {r : Nat} (h : IsRound mode s (x * 2 ^ (-j)) r) :
    f.Passes mode s x j ↔ 2 ^ (f.mb + 1) ≤ r := by
  obtain ⟨near, up, down⟩ := h.scaled
  have hP := two_zpow_pos j
  have more : 2 ^ (f.mb + 1) ≤ r → dyad (2 ^ (f.mb + 1)) j ≤ dyad r j := dyad_le_iff.2
  have less (hr : ¬2 ^ (f.mb + 1) ≤ r) : dyad r j + 2 ^ j ≤ dyad (2 ^ (f.mb + 1)) j := by
    rw [← dyad_succ]
    exact dyad_le_iff.2 (not_le.1 hr)
  rw [FFmt.passes_iff]
  constructor
  · intro k
    by_contra hr
    have hr' := less hr
    rcases k with ⟨h0, k⟩ | ⟨ha, k⟩ | ⟨h0, ha, k⟩
    · obtain ⟨lo, hi, tie⟩ := near h0
      have even := tie (.inr (le_antisymm hi (by linarith)))
      have e : dyad (r + 1) j = dyad (2 ^ (f.mb + 1)) j := by rw [dyad_succ]; linarith
      have e' : r + 1 = 2 ^ (f.mb + 1) := le_antisymm (dyad_le_iff.1 e.le) (dyad_le_iff.1 e.ge)
      rw [pow_succ] at e'
      omega
    · obtain ⟨lo, hi⟩ := up ha
      linarith
    · obtain ⟨lo, hi⟩ := down h0 ha
      linarith
  · intro hr
    have hr' := more hr
    by_cases h0 : mode = 0
    · obtain ⟨lo, -, -⟩ := near h0
      exact .inl ⟨h0, by linarith⟩
    · by_cases ha : Away mode s
      · obtain ⟨lo, -⟩ := up ha
        exact .inr (.inl ⟨ha, by linarith⟩)
      · obtain ⟨lo, -⟩ := down h0 ha
        exact .inr (.inr ⟨h0, ha, by linarith⟩)

/-- A magnitude at or above the next power of two passes. -/
theorem FFmt.passes_of_ge {f : FFmt} (mode : Nat) (s : Bool) {x : ℝ} {j : Int} (h : dyad (2 ^ (f.mb + 1)) j ≤ x) : f.Passes mode s x j := by
  have hP := two_zpow_pos j
  rw [FFmt.passes_iff]
  by_cases h0 : mode = 0
  · exact .inl ⟨h0, by linarith⟩
  · by_cases ha : Away mode s
    · exact .inr (.inl ⟨ha, by linarith⟩)
    · exact .inr (.inr ⟨h0, ha, h⟩)

/-- A magnitude below half of that does not. -/
theorem FFmt.not_passes_of_lt {f : FFmt} (mode : Nat) (s : Bool) {x : ℝ} {j : Int} (h : x < dyad (2 ^ f.mb) j) : ¬f.Passes mode s x j := by
  have hP := two_zpow_pos j
  have hb : dyad (2 ^ f.mb) j + 2 ^ j ≤ dyad (2 ^ (f.mb + 1)) j := by
    rw [← dyad_succ, dyad_le_iff, pow_succ]
    have := Nat.two_pow_pos f.mb
    omega
  rw [FFmt.passes_iff]
  rintro (⟨-, k⟩ | ⟨-, k⟩ | ⟨-, -, k⟩) <;> linarith

end Sys2Proof.Machine
end

section
/-! PROOF. Rounding to a format (O22): the result of `FFmt.round`. -/

namespace Sys2Proof.Machine

open Sys2Proof.Safety

/-! ### The claim, in values -/

/-- What `roundsTo` says of a real magnitude. -/
structure FFmt.Rounds (f : FFmt) (ov : Over) (mode : Nat) (s : Bool) (x : ℝ) (out : Nat × BitVec 12) : Prop where
  beyond : f.Passes mode s x f.high → (ov = .arith → out.2 = cOVF ∧
      ((mode = 0 ∨ Away mode s) → f.decode out.1 = .inf s) ∧ (¬(mode = 0 ∨ Away mode s) → f.decode out.1 = .fin s (2 ^ (f.mb + 1) - 1) f.high)) ∧
    (ov = .conv → out.2 = cCONV ∧ f.decode out.1 = .fin s (2 ^ (f.mb + 1) - 1) f.high)
  finite : ¬f.Passes mode s x f.high → ∃ n j, f.decode out.1 = .fin s n j ∧ (out.2 = 0 ∨ out.2 = cUNF) ∧
    (out.2 = cUNF ↔ ¬f.Passes mode s x (f.low - 1) ∧ dyad n j ≠ x) ∧ ∀ m i, f.Spelled m i → Nearest mode s x n j (out.1 % 2 = 0) m i

/-- Half the sum of two values. -/
theorem dyad_mid (m n : Nat) (i j : Int) :
    let z := min i j - 1
    2 * dyad (m * 2 ^ (i - 1 - z).toNat + n * 2 ^ (j - 1 - z).toNat) z = dyad m i + dyad n j := by
  intro z
  have half (k : Nat) (e : Int) (h : z ≤ e - 1) : 2 * dyad (k * 2 ^ (e - 1 - z).toNat) z = dyad k e := by
    have he := two_zpow_succ (e - 1)
    rw [sub_add_cancel] at he
    rw [dyad_shift k h, dyad, dyad, he]
    ring
  have hi := half m i (by omega)
  have hj := half n j (by omega)
  rw [← hi, ← hj]
  simp only [dyad]
  push_cast
  ring

/-- `roundsTo` is said of whatever magnitude the two bounds are of. -/
theorem FFmt.Rounds.roundsTo {f : FFmt} (hf : f.Good) {ov : Over} {mode : Nat} {s : Bool} {x : ℝ} {out : Nat × BitVec 12}
    {below above : Nat → Int → Prop}
    (hbelow : ∀ n j, below n j ↔ dyad n j ≤ x) (habove : ∀ n j, above n j ↔ x ≤ dyad n j) (h : f.Rounds ov mode s x out) :
    roundsTo f ov mode s below above out := by
  obtain ⟨beyond, finite⟩ := h
  have hlow : (-f.bias - f.mb : Int) = f.low - 1 := by unfold FFmt.low; ring
  unfold Safety.roundsTo
  simp only [hbelow, habove, not_le, atMost_iff, hlow]
  change (f.Passes mode s x f.high → _) ∧ (f.Passes mode s x f.high → _) ∧ (¬f.Passes mode s x f.high → _)
  refine ⟨fun hp ho => ?_, fun hp ho => (beyond hp).2 ho, fun hp => ?_⟩
  · obtain ⟨hc, hinf, hmax⟩ := (beyond hp).1 ho
    refine ⟨hc, ?_⟩
    by_cases ha : mode = 0 ∨ Away mode s
    · exact (hinf ha).trans (if_pos ha).symm
    · exact (hmax ha).trans (if_neg ha).symm
  · obtain ⟨n, j, hdec, hcause, hunf, near⟩ := finite hp
    refine ⟨n, j, hdec, hcause, hunf.trans (and_congr_right fun _ => ?_), fun y t m i hy => ?_⟩
    · rw [not_iff_not]
      exact ⟨fun e => ⟨e.le, e.ge⟩, fun ⟨lo, hi⟩ => le_antisymm lo hi⟩
    · obtain ⟨below, above, up, down⟩ := near m i (FFmt.spelled_of_decode hf hy)
      have mid := dyad_mid m n i j
      dsimp only at mid ⊢
      generalize dyad (m * 2 ^ (i - 1 - (min i j - 1)).toNat + n * 2 ^ (j - 1 - (min i j - 1)).toNat) (min i j - 1) = z at mid ⊢
      refine ⟨fun h0 hlt => ?_, fun h0 hlt => ?_, up, down⟩
      · obtain ⟨hle, even⟩ := below h0 hlt
        exact ⟨by linarith, fun k => even (by linarith)⟩
      · obtain ⟨hle, even⟩ := above h0 hlt
        exact ⟨by linarith, fun k => even (by linarith)⟩

/-! ### `FFmt.round` (R111, R112) -/

/-- The exponent of the last place of a magnitude whose leading bit is at `top`. -/
def FFmt.place (f : FFmt) (top : Int) : Int := if top < 1 - f.bias then 1 - f.bias - f.mb else top - f.mb

theorem FFmt.place_eq (f : FFmt) (top : Int) : f.place top = max f.low (top - f.mb) := by
  unfold FFmt.place FFmt.low
  split <;> omega

/-- A rounded magnitude of one bit too many, by half at twice the place. -/
def FFmt.carry (f : FFmt) (r : Nat) (q : Int) : Nat × Int := (if 2 ^ (f.mb + 1) ≤ r then r / 2 else r, if 2 ^ (f.mb + 1) ≤ r then q + 1 else q)

/-- Overflow gives the infinity, not the largest finite value (R111 Table 3). -/
def toInf (mode : Nat) (s : Bool) : Bool :=
  match mode with
  | 0 => true
  | 1 => false
  | 2 => s
  | _ => !s

/-- The result of a magnitude that has been rounded to r 2^q. -/
def FFmt.result (f : FFmt) (ov : Over) (mode : Nat) (s : Bool) (r : Nat) (q : Int) (unf : Bool) : Nat × BitVec 12 :=
  let p := f.carry r q
  if f.bias < p.2 + f.mb ∧ 2 ^ f.mb ≤ p.1 then
    match ov with
    | .conv => (f.maxBits s, cCONV)
    | .arith => (if toInf mode s then f.infBits s else f.maxBits s, cOVF)
  else (f.sgn s + f.packBits p.1 p.2, if unf then cUNF else 0)

/-- The magnitude is tiny: it rounds below the least normal one, without a lower limit on exponents (R112). -/
def FFmt.tiny (f : FFmt) (mode : Nat) (s : Bool) (m : Nat) (e : Int) : Bool :=
  fvLog m e < 1 - f.bias - 1 || (fvLog m e = 1 - f.bias - 1 && (roundShift mode s m (fvLog m e - f.mb - e)).1 < 2 ^ (f.mb + 1))

theorem FFmt.round_eq (f : FFmt) (ov : Over) (mode : Nat) (s : Bool) (m : Nat) (e : Int) : f.round ov mode s m e =
    let p := roundShift mode s m (f.place (fvLog m e) - e)
    f.result ov mode s p.1 (f.place (fvLog m e)) (f.tiny mode s m e && p.2) := by
  rfl

theorem Nearest.congr {mode : Nat} {s : Bool} {x : ℝ} {n k m : Nat} {j l i : Int} {even even' : Prop} (h : Nearest mode s x n j even m i)
    (he : dyad k l = dyad n j) (hp : even → even') : Nearest mode s x k l even' m i := by
  obtain ⟨below, above, up, down⟩ := h
  refine ⟨?_, ?_, ?_, ?_⟩ <;> rw [he]
  · exact fun h0 hlt => (below h0 hlt).imp id fun g k => hp (g k)
  · exact fun h0 hlt => (above h0 hlt).imp id fun g k => hp (g k)
  · exact up
  · exact down

/-- Two halves of a value at twice the place. -/
theorem dyad_double (n : Nat) (j : Int) : dyad n (j + 1) = dyad (2 * n) j := by
  simp only [dyad, two_zpow_succ]
  push_cast
  ring

theorem dyad_mono (n : Nat) {i j : Int} (h : i ≤ j) : dyad n i ≤ dyad n j :=
  mul_le_mul_of_nonneg_left (zpow_le_zpow_right₀ one_le_two h) n.cast_nonneg

theorem dyad_two_pow (k : Nat) (j : Int) : dyad (2 ^ k) j = dyad 1 (k + j) := by
  rw [← dyad_shift 1 (show j ≤ k + j by omega), add_sub_cancel_right, Int.toNat_natCast, one_mul]

theorem dyad_unscale (m : Nat) (e : Int) : dyad m e * 2 ^ (-e) = m := by
  rw [dyad, mul_assoc, ← zpow_add₀ two_ne_zero, add_neg_cancel, zpow_zero, mul_one]

/-- A carried magnitude is the same value with its places in order. -/
theorem FFmt.carry_spec (f : FFmt) (hmb : 1 ≤ f.mb) {r : Nat} {q : Int} (hle : r ≤ 2 ^ (f.mb + 1)) (hr : 2 ^ f.mb ≤ r ∨ q = f.low) :
    let p := f.carry r q
    dyad p.1 p.2 = dyad r q ∧ p.1 < 2 ^ (f.mb + 1) ∧ (2 ^ f.mb ≤ p.1 ∨ p.2 = f.low) ∧ (r % 2 = 0 → p.1 % 2 = 0) ∧
    p.2 = if 2 ^ (f.mb + 1) ≤ r then q + 1 else q := by
  have hp := Nat.two_pow_pos f.mb
  unfold FFmt.carry
  dsimp only
  split
  · next hc =>
    obtain rfl : r = 2 ^ (f.mb + 1) := le_antisymm hle hc
    rw [pow_succ, Nat.mul_div_cancel _ two_pos]
    obtain ⟨k, hk⟩ : ∃ k, f.mb = k + 1 := ⟨f.mb - 1, by omega⟩
    exact ⟨by rw [dyad_double, mul_comm], by omega, .inl (le_refl _), fun _ => by rw [hk, pow_succ, Nat.mul_mod_left], rfl⟩
  · next hc => exact ⟨rfl, not_le.1 hc, hr, id, rfl⟩

/-- Which overflow results are infinities (R111 Table 3). -/
theorem toInf_iff {mode : Nat} (hmode : mode < 4) (s : Bool) : toInf mode s = true ↔ mode = 0 ∨ Away mode s := by
  unfold toInf Away
  match mode, hmode with
  | 0, _ => simp
  | 1, _ => simp
  | 2, _ => simp
  | 3, _ => simp

/-- A magnitude rounded at its place overflows exactly where it passes the largest finite values. -/
theorem FFmt.passes_high_iff {f : FFmt} (hf : f.Good) {mode : Nat} {s : Bool} {x : ℝ} {r : Nat} {q : Int} (hround : IsRound mode s (x * 2 ^ (-q)) r)
    (hlt : x < dyad (2 ^ (f.mb + 1)) q) (hge : dyad (2 ^ f.mb) q ≤ x ∨ q = f.low) :
    f.Passes mode s x f.high ↔ f.high < if 2 ^ (f.mb + 1) ≤ r then q + 1 else q := by
  have hb := hf.mb_lt_bias
  have hhigh : f.low < f.high := by unfold FFmt.low FFmt.high; omega
  rcases lt_trichotomy q f.high with h | h | h
  · have no : ¬f.Passes mode s x f.high := by
      refine f.not_passes_of_lt mode s (hlt.trans_le ?_)
      calc dyad (2 ^ (f.mb + 1)) q = dyad (2 ^ f.mb) (q + 1) := by rw [dyad_double, pow_succ, mul_comm]
        _ ≤ dyad (2 ^ f.mb) f.high := dyad_mono _ (by omega)
    refine ⟨fun k => absurd k no, fun k => ?_⟩
    split at k <;> omega
  · rw [← h, hround.passes_iff]
    split
    · next hc => exact ⟨fun _ => by omega, fun _ => hc⟩
    · next hc => exact ⟨fun k => absurd k hc, fun k => absurd k (lt_irrefl _)⟩
  · have yes : f.Passes mode s x f.high := by
      refine f.passes_of_ge mode s (le_trans ?_ (hge.resolve_right (by omega)))
      calc dyad (2 ^ (f.mb + 1)) f.high = dyad (2 ^ f.mb) (f.high + 1) := by rw [dyad_double, pow_succ, mul_comm]
        _ ≤ dyad (2 ^ f.mb) q := dyad_mono _ (by omega)
    refine ⟨fun _ => ?_, fun _ => yes⟩
    split <;> omega

/-- The result of a magnitude that has been rounded at its place is the rounding of that magnitude to the format (R111, R112, R114). -/
theorem FFmt.result_rounds {f : FFmt} (hf : f.Good) (ov : Over) {mode : Nat} (hmode : mode < 4) (s : Bool) {x : ℝ} {r : Nat} {q : Int} {unf : Bool}
    (hround : IsRound mode s (x * 2 ^ (-q)) r) (hlow : f.low ≤ q) (hlt : x < dyad (2 ^ (f.mb + 1)) q) (hge : dyad (2 ^ f.mb) q ≤ x ∨ q = f.low)
    (hunf : unf = true ↔ ¬f.Passes mode s x (f.low - 1) ∧ dyad r q ≠ x) : f.Rounds ov mode s x (f.result ov mode s r q unf) := by
  have scale : x * 2 ^ (-q) * 2 ^ q = x := by rw [mul_assoc, ← zpow_add₀ two_ne_zero, neg_add_cancel, zpow_zero, mul_one]
  have hle : r ≤ 2 ^ (f.mb + 1) := hround.ge_of_ge <| le_of_mul_le_mul_right (by rw [scale]; exact hlt.le) (two_zpow_pos q)
  have hr : 2 ^ f.mb ≤ r ∨ q = f.low := hge.imp_left fun h =>
    hround.le_of_le <| le_of_mul_le_mul_right (by rw [scale]; exact h) (two_zpow_pos q)
  have hpass := FFmt.passes_high_iff hf hround hlt hge
  obtain ⟨hval, hp1, hp2, heven, hq⟩ := f.carry_spec hf.mb_pos hle hr
  rw [← hq] at hpass
  have hb := hf.mb_lt_bias
  have hhigh : f.low < f.high := by unfold FFmt.low FFmt.high; omega
  have hcond : (f.bias < (f.carry r q).2 + f.mb ∧ 2 ^ f.mb ≤ (f.carry r q).1) ↔ f.Passes mode s x f.high := by
    rw [hpass]
    unfold FFmt.high at *
    constructor
    · rintro ⟨h, -⟩; omega
    · exact fun h => ⟨by omega, hp2.resolve_right (by omega)⟩
  unfold FFmt.result
  dsimp only
  refine ⟨fun hp => ?_, fun hp => ?_⟩
  · rw [if_pos (hcond.2 hp)]
    refine ⟨?_, ?_⟩
    · rintro rfl
      refine ⟨rfl, fun ha => ?_, fun ha => ?_⟩
      · dsimp only
        rw [if_pos ((toInf_iff hmode s).2 ha)]
        exact FFmt.decode_infBits hf s
      · dsimp only
        rw [if_neg fun h => ha ((toInf_iff hmode s).1 h)]
        exact FFmt.decode_maxBits hf s
    · rintro rfl
      exact ⟨rfl, FFmt.decode_maxBits hf s⟩
  · rw [if_neg fun h => hp (hcond.1 h)]
    have spelled : f.Spelled (f.carry r q).1 (f.carry r q).2 := by
      refine ⟨hp1, ?_, not_lt.1 fun h => hp (hpass.2 h), hp2⟩
      rw [hq]
      split <;> omega
    refine ⟨_, _, FFmt.decode_packBits hf s spelled, ?_, ?_, fun m i hm => ?_⟩
    · cases unf <;> simp
    · rw [hval, ← hunf]
      cases unf <;> simp [cUNF]
    · exact (hround.nearest hge hr hm).congr hval fun h => FFmt.packBits_even hf s _ (heven h)

/-- The bounds of a magnitude by the number that stands for it. -/
theorem stands_bounds {b m : Nat} (hm : 0 < m) {x : ℝ} {e : Int} (h : Stands (b + 2) m (x * 2 ^ (-e))) :
    dyad 1 (fvLog m e) ≤ x ∧ x < dyad 1 (fvLog m e + 1) ∧ (x * 2 ^ (-e) = m ∨ (m % 2 = 1 ∧ (m : ℝ) - 1 < x * 2 ^ (-e) ∧ x * 2 ^ (-e) < m + 1 ∧
      (b : Int) + 2 ≤ fvLog m e - e)) := by
  obtain ⟨hL, hlo, hhi⟩ := bitLen_bounds hm.ne'
  have hx : x = x * 2 ^ (-e) * 2 ^ e := by rw [mul_assoc, ← zpow_add₀ two_ne_zero, neg_add_cancel, zpow_zero, mul_one]
  generalize x * 2 ^ (-e) = X at h hx
  obtain ⟨L, hLen⟩ : ∃ L, bitLen m = L + 1 := ⟨bitLen m - 1, by omega⟩
  rw [hLen, Nat.add_sub_cancel] at hlo
  rw [hLen] at hhi
  have htop : fvLog m e = L + e := by unfold fvLog; rw [hLen]; push_cast; ring
  have bounds : (2 ^ L : Nat) ≤ X ∧ X < (2 ^ (L + 1) : Nat) := by
    rcases h with h | ⟨hodd, lo, hi, hbig⟩
    · rw [h]
      exact ⟨by exact_mod_cast hlo, by exact_mod_cast hhi⟩
    · obtain ⟨k, hk⟩ : ∃ k, L = k + 1 := by
        refine ⟨L - 1, ?_⟩
        rcases Nat.eq_zero_or_pos L with rfl | h0
        · rw [pow_add] at hbig
          have := Nat.two_pow_pos b
          omega
        · omega
      have e1 : 2 ^ L = 2 * 2 ^ k := by rw [hk, pow_succ, mul_comm]
      have e2 : 2 ^ (L + 1) = 2 * 2 ^ L := by rw [pow_succ, mul_comm]
      have l1 : ((2 ^ L : Nat) : ℝ) + 1 ≤ m := by exact_mod_cast (by omega : 2 ^ L + 1 ≤ m)
      have l2 : (m : ℝ) + 1 ≤ (2 ^ (L + 1) : Nat) := by exact_mod_cast (by omega : m + 1 ≤ 2 ^ (L + 1))
      exact ⟨by linarith, by linarith⟩
  have pe := two_zpow_pos e
  have dy (k : Nat) : dyad 1 (k + e) = (2 ^ k : Nat) * 2 ^ e := by
    rw [dyad, Nat.cast_one, one_mul, zpow_add₀ two_ne_zero, zpow_natCast]
    push_cast
    rfl
  refine ⟨?_, ?_, h.imp id fun ⟨hodd, lo, hi, hbig⟩ => ⟨hodd, lo, hi, ?_⟩⟩
  · rw [htop, dy, hx]
    exact mul_le_mul_of_nonneg_right bounds.1 pe.le
  · rw [htop, show (L : Int) + e + 1 = ((L + 1 : Nat) : Int) + e by push_cast; ring, dy, hx]
    exact mul_lt_mul_of_pos_right bounds.2 pe
  · have : b + 2 < L + 1 := (Nat.pow_lt_pow_iff_right (by decide : 1 < 2)).1 (hbig.trans_lt hhi)
    omega

/-- THE ROUNDING: `FFmt.round` rounds the magnitude that its number stands for (R111, R112, R114). -/
theorem FFmt.round_rounds {f : FFmt} (hf : f.Good) (ov : Over) {mode : Nat} (hmode : mode < 4) (s : Bool) {m : Nat} (hm : 0 < m) {e : Int} {x : ℝ}
    (h : Stands (f.mb + 2) m (x * 2 ^ (-e))) : f.Rounds ov mode s x (f.round ov mode s m e) := by
  obtain ⟨hlo, hhi, hst⟩ := stands_bounds hm h
  have at_ (q : Int) (hq : fvLog m e - f.mb ≤ q) : IsRound mode s (x * 2 ^ (-q)) (roundShift mode s m (q - e)).1 ∧
      ((roundShift mode s m (q - e)).2 = true ↔ dyad (roundShift mode s m (q - e)).1 q ≠ x) := by
    have scale : x * 2 ^ (-e) * 2 ^ (-(q - e)) = x * 2 ^ (-q) := by
      rw [mul_assoc, ← zpow_add₀ two_ne_zero]
      congr 2
      ring
    have back : x * 2 ^ (-q) * 2 ^ q = x := by rw [mul_assoc, ← zpow_add₀ two_ne_zero, neg_add_cancel, zpow_zero, mul_one]
    obtain ⟨hround, hinexact⟩ := roundShift_isRound hmode s (k := q - e) (hst.imp id fun ⟨hodd, lo, hi, hk⟩ => ⟨hodd, lo, hi, by omega⟩)
    rw [scale] at hround hinexact
    refine ⟨hround, hinexact.trans (not_congr ⟨fun k => ?_, fun k => ?_⟩)⟩
    · rw [dyad, ← k, back]
    · rw [← k, dyad, mul_assoc, ← zpow_add₀ two_ne_zero, add_neg_cancel, zpow_zero, mul_one]
  have hplace := f.place_eq (fvLog m e)
  obtain ⟨hround, hinexact⟩ := at_ (f.place (fvLog m e)) (by omega)
  have htiny : f.tiny mode s m e = true ↔ ¬f.Passes mode s x (f.low - 1) := by
    unfold FFmt.tiny
    simp only [Bool.or_eq_true, decide_eq_true_eq, Bool.and_eq_true]
    have hl : (1 : Int) - f.bias - 1 = f.low - 1 + f.mb := by unfold FFmt.low; ring
    rw [hl]
    rcases lt_trichotomy (fvLog m e) (f.low - 1 + f.mb) with h | h | h
    · refine ⟨fun _ => f.not_passes_of_lt mode s (hhi.trans_le ?_), fun _ => .inl h⟩
      rw [dyad_two_pow]
      exact dyad_mono _ (by omega)
    · obtain ⟨hr, -⟩ := at_ (f.low - 1) (by omega)
      rw [hr.passes_iff, not_le, show fvLog m e - f.mb - e = f.low - 1 - e by omega]
      exact ⟨fun k => (k.resolve_left (by omega)).2, fun k => .inr ⟨h, k⟩⟩
    · refine ⟨fun k => by omega, fun k => absurd (f.passes_of_ge mode s ?_) k⟩
      rw [dyad_two_pow]
      exact (dyad_mono _ (by push_cast; omega)).trans hlo
  rw [FFmt.round_eq]
  refine FFmt.result_rounds hf ov hmode s hround (by omega) (hhi.trans_le ?_) ?_ ?_
  · rw [dyad_two_pow]
    exact dyad_mono _ (by push_cast; omega)
  · rw [dyad_two_pow]
    rcases le_or_gt (fvLog m e - f.mb) f.low with h | h
    · exact .inr (by omega)
    · exact .inl ((dyad_mono _ (by omega)).trans hlo)
  · rw [Bool.and_eq_true, htiny, hinexact]

end Sys2Proof.Machine

namespace Sys2Proof.Proofs

open Sys2Proof.Machine Sys2Proof.Safety

/-- Settles O22: an exact value stands for itself, and `FFmt.round` rounds what its number stands for. -/
theorem roundingIsCorrect : Obligations.RoundingIsCorrect := by
  unfold Obligations.RoundingIsCorrect
  intro f hfmt ov mode s m e hmode
  have hf := FFmt.good_of hfmt
  refine ⟨fun h0 => ⟨if_pos h0, f.low, ?_⟩, fun hpos => ?_⟩
  · have := FFmt.decode_pack hf s (E := 0) (M := 0) (by omega) (Nat.two_pow_pos _)
    rwa [Nat.zero_mul, if_pos rfl] at this
  · rw [show f.ofExact ov mode s m e = f.round ov mode s m e from if_neg hpos.ne']
    exact (FFmt.round_rounds hf ov hmode s hpos (.inl (dyad_unscale m e))).roundsTo hf (fun _ _ => atMost_iff) fun _ _ => atMost_iff

end Sys2Proof.Proofs
end

section
/-! PROOF. Floating operations (O23): sums, products, extremes and special results by the kinds of their operands. -/

namespace Sys2Proof.Machine

open Sys2Proof.Safety

/-! ### NaN operands (R112) -/

theorem nanResult_nan (f : FFmt) {l : List FVal} (h : l.any FVal.isNan = true) :
    nanResult f l = some (f.qnan, if l.any (fun v => v == .nan true) then cINV else 0) :=
  if_pos h

theorem FVal.isNan_neg (x : FVal) : x.neg.isNan = x.isNan := by cases x <;> rfl

theorem FVal.signals_neg (x : FVal) : (x.neg == .nan true) = (x == .nan true) := by cases x <;> rfl

theorem fAddV_nan (f : FFmt) (mode : Nat) {x y : FVal} (h : (x.isNan || y.isNan) = true) :
    fAddV f mode x y = (f.qnan, if x == .nan true || y == .nan true then cINV else 0) := by
  have hl : [x, y].any FVal.isNan = true := by simpa using h
  simp [fAddV, nanResult_nan f hl]

theorem fMulAddV_nan (f : FFmt) (mode : Nat) {x y : FVal} {c : Option FVal} (h : (x.isNan || y.isNan || c.any FVal.isNan) = true) :
    fMulAddV f mode x y c = (f.qnan, if x == .nan true || y == .nan true || c.any (fun v => v == .nan true) then cINV else 0) := by
  have hl : ([x, y] ++ c.toList).any FVal.isNan = true := by
    cases c with
    | none => simpa using h
    | some z => simpa [or_assoc] using h
  have hs : ([x, y] ++ c.toList).any (fun v => v == .nan true) = (x == .nan true || y == .nan true || c.any (fun v => v == .nan true)) := by
    cases c <;> simp [Bool.or_assoc]
  simp only [fMulAddV, nanResult_nan f hl, hs]

theorem fDiv_nan (f : FFmt) (mode : Nat) {a b : Nat} (h : ((f.decode a).isNan || (f.decode b).isNan) = true) :
    fDiv f mode a b = (f.qnan, if f.decode a == .nan true || f.decode b == .nan true then cINV else 0) := by
  have hl : [f.decode a, f.decode b].any FVal.isNan = true := by simpa using h
  simp [fDiv, nanResult_nan f hl]

theorem fMinMax_nan (f : FFmt) (lo : Bool) {a b : Nat} (h : ((f.decode a).isNan || (f.decode b).isNan) = true) :
    fMinMax f lo a b = (if (f.decode a).isNan && (f.decode b).isNan then f.qnan else if (f.decode a).isNan then b else a,
      if f.decode a == .nan true || f.decode b == .nan true then cINV else 0) := by
  unfold fMinMax
  cases ha : (f.decode a).isNan <;> cases hb : (f.decode b).isNan <;> simp_all

theorem specialV_nan (f : FFmt) (fn mode : Nat) {x : FVal} (h : x.isNan = true) : specialV f fn mode x =
    (f.qnan, if x == .nan true then cINV else 0) := by
  have hl : [x].any FVal.isNan = true := by simpa using h
  simp [specialV, nanResult_nan f hl]

/-! ### Exact sums (R112) -/

/-- (-1)^q n 2^j in places of 2^z. -/
def signedAt (q : Bool) (n : Nat) (j z : Int) : Int := (if q then -1 else 1) * (n * 2 ^ (j - z).toNat : Nat)

theorem signedAt_true (n : Nat) (j z : Int) : signedAt true n j z = -(n * 2 ^ (j - z).toNat : Nat) := neg_one_mul _

theorem signedAt_false (n : Nat) (j z : Int) : signedAt false n j z = (n * 2 ^ (j - z).toNat : Nat) := one_mul _

theorem signedAt_not (q : Bool) (n : Nat) (j z : Int) : signedAt (!q) n j z = -signedAt q n j z := by
  cases q
  · exact (signedAt_true n j z).trans (congrArg Neg.neg (signedAt_false n j z).symm)
  · rw [Bool.not_true, signedAt_true, signedAt_false, neg_neg]

/-- A value at a lower place. -/
theorem signedAt_lower (q : Bool) (n : Nat) {j e z : Int} (hj : e ≤ j) (hz : z ≤ e) :
    signedAt q n j z = signedAt q (n * 2 ^ (j - e).toNat) e z := by
  unfold signedAt
  rw [Nat.mul_assoc, ← pow_add, show (j - e).toNat + (e - z).toNat = (j - z).toNat by omega]

/-- `exactAdd` is the exact sum; a zero sum of two signs is +0, or -0 in mode 2. -/
theorem exactAdd_spec (mode : Nat) (s1 : Bool) (m1 : Nat) (e1 : Int) (s2 : Bool) (m2 : Nat) (e2 : Int) :
    ∃ s m e, exactAdd mode s1 m1 e1 s2 m2 e2 = (s, m, e) ∧
      (∀ z, z ≤ e1 → z ≤ e2 → z ≤ e ∧ signedAt s m e z = signedAt s1 m1 e1 z + signedAt s2 m2 e2 z) ∧
      (m = 0 → s = if s1 = s2 then s1 else decide (mode = 2)) := by
  obtain ⟨e, he, h1, h2, hz⟩ : ∃ e : Int, (if e1 < e2 then e1 else e2) = e ∧ e ≤ e1 ∧ e ≤ e2 ∧ ∀ z, z ≤ e1 → z ≤ e2 → z ≤ e := by
    refine ⟨_, rfl, ?_, ?_, fun z _ _ => ?_⟩ <;> split <;> omega
  have at_ (s : Bool) (m : Nat) (z : Int) : signedAt s m e z = (if s then -1 else 1) * ((m : Int) * 2 ^ (e - z).toNat) := by
    rw [signedAt]
    push_cast
    rfl
  unfold exactAdd
  simp only [he]
  have sum (z : Int) (h : z ≤ e) (s : Bool) (m : Nat) (k : (if s then -1 else 1) * (m : Int) =
      (if s1 then -1 else 1) * (m1 * 2 ^ (e1 - e).toNat : Nat) + (if s2 then -1 else 1) * (m2 * 2 ^ (e2 - e).toNat : Nat)) :
      signedAt s m e z = signedAt s1 m1 e1 z + signedAt s2 m2 e2 z := by
    rw [signedAt_lower s1 m1 h1 h, signedAt_lower s2 m2 h2 h, at_, at_, at_, ← mul_assoc, k]
    ring
  generalize m1 * 2 ^ (e1 - e).toNat = a at sum
  generalize m2 * 2 ^ (e2 - e).toNat = b at sum
  split
  · next hs =>
    subst hs
    exact ⟨_, _, _, rfl, fun z k1 k2 => ⟨hz z k1 k2, sum z (hz z k1 k2) _ _ (by push_cast; ring)⟩, fun _ => rfl⟩
  · next hs =>
    obtain rfl : s2 = !s1 := by cases s1 <;> cases s2 <;> simp_all
    split
    · next hab =>
      subst hab
      exact ⟨_, _, _, rfl, fun z k1 k2 => ⟨hz z k1 k2, sum z (hz z k1 k2) _ _ (by cases s1 <;> simp)⟩, fun _ => rfl⟩
    · split
      · next hlt => exact ⟨_, _, _, rfl, fun z k1 k2 => ⟨hz z k1 k2, sum z (hz z k1 k2) _ _ (by cases s1 <;> simp <;> omega)⟩, fun h => by omega⟩
      · exact ⟨_, _, _, rfl, fun z k1 k2 => ⟨hz z k1 k2, sum z (hz z k1 k2) _ _ (by cases s1 <;> simp <;> omega)⟩, fun h => by omega⟩

/-- The sum of two finite values is the exact sum, rounded once. -/
theorem fAddV_fin (f : FFmt) (mode : Nat) (s1 : Bool) (m1 : Nat) (e1 : Int) (s2 : Bool) (m2 : Nat) (e2 : Int) :
    ∃ s m e, fAddV f mode (.fin s1 m1 e1) (.fin s2 m2 e2) = f.ofExact .arith mode s m e ∧
      (∀ z, z ≤ e1 → z ≤ e2 → z ≤ e ∧ signedAt s m e z = signedAt s1 m1 e1 z + signedAt s2 m2 e2 z) ∧
      (m = 0 → s = if s1 = s2 then s1 else decide (mode = 2)) := by
  obtain ⟨s, m, e, h, spec⟩ := exactAdd_spec mode s1 m1 e1 s2 m2 e2
  refine ⟨s, m, e, ?_, spec⟩
  change (let (s, m, e) := exactAdd mode s1 m1 e1 s2 m2 e2; f.ofExact .arith mode s m e) = _
  rw [h]

/-- The product of two finite values plus a third is the exact value, rounded once. -/
theorem fMulAddV_fin (f : FFmt) (mode : Nat) (s1 : Bool) (m1 : Nat) (e1 : Int) (s2 : Bool) (m2 : Nat) (e2 : Int) (s3 : Bool) (m3 : Nat) (e3 : Int) :
    ∃ s m e, fMulAddV f mode (.fin s1 m1 e1) (.fin s2 m2 e2) (some (.fin s3 m3 e3)) = f.ofExact .arith mode s m e ∧
      (∀ z, z ≤ e1 + e2 → z ≤ e3 → z ≤ e ∧ signedAt s m e z = signedAt (s1 != s2) (m1 * m2) (e1 + e2) z + signedAt s3 m3 e3 z) ∧
      (m = 0 → s = if (s1 != s2) = s3 then (s1 != s2) else decide (mode = 2)) := by
  obtain ⟨s, m, e, h, spec⟩ := exactAdd_spec mode (s1 != s2) (m1 * m2) (e1 + e2) s3 m3 e3
  refine ⟨s, m, e, ?_, spec⟩
  change (let (s, m, e) := exactAdd mode (s1 != s2) (m1 * m2) (e1 + e2) s3 m3 e3; f.ofExact .arith mode s m e) = _
  rw [h]

/-! ### Infinite operands (R112) -/

/-- An infinite product and an addend that is not a NaN. -/
theorem fMulAddV_inf_inf (f : FFmt) (mode : Nat) (q r : Bool) {c : FVal} (h : c.isNan = false) :
    fMulAddV f mode (.inf q) (.inf r) (some c) = if c = .inf (!(q != r)) then (f.qnan, cINV) else (f.infBits (q != r), 0) := by
  cases c with
  | nan t => cases h
  | fin t m e => rfl
  | inf t => cases q <;> cases r <;> cases t <;> rfl

theorem fMulAddV_inf_fin (f : FFmt) (mode : Nat) (q r : Bool) (n : Nat) (j : Int) {c : FVal} (h : c.isNan = false) :
    fMulAddV f mode (.inf q) (.fin r n j) (some c) =
      if n = 0 then (f.qnan, cINV) else if c = .inf (!(q != r)) then (f.qnan, cINV) else (f.infBits (q != r), 0) := by
  cases n with
  | zero => cases c with
    | nan t => cases h
    | fin t m e => rfl
    | inf t => rfl
  | succ n => cases c with
    | nan t => cases h
    | fin t m e => rfl
    | inf t => cases q <;> cases r <;> cases t <;> rfl

theorem fMul_inf_fin (f : FFmt) (mode : Nat) (q r : Bool) (n : Nat) (j : Int) :
    fMulAddV f mode (.inf q) (.fin r n j) none = if n = 0 then (f.qnan, cINV) else (f.infBits (q != r), 0) := by
  cases n <;> rfl

/-- A product does not depend on the order of an infinity and a finite value. -/
theorem fMulAddV_inf_comm (f : FFmt) (mode : Nat) (q r : Bool) (n : Nat) (j : Int) (c : Option FVal) :
    fMulAddV f mode (.fin r n j) (.inf q) c = fMulAddV f mode (.inf q) (.fin r n j) c := by
  cases n <;> cases c with
  | none => cases q <;> cases r <;> rfl
  | some c => cases c <;> cases q <;> cases r <;> rfl

/-! ### Extremes (R135) -/

/-- The order of two values that are not a NaN. -/
def FVal.Le (x y : FVal) : Prop :=
  match x, y with
  | .inf q, .inf r => q = true ∨ r = false
  | .inf q, _ => q = true
  | _, .inf r => r = false
  | .fin q n j, .fin r m i => signedAt q n j (min i j) ≤ signedAt r m i (min i j)
  | _, _ => False

theorem signedAt_neg_iff {q : Bool} {n : Nat} {j z : Int} : signedAt q n j z < 0 ↔ (q && n != 0) = true := by
  have hp := Nat.two_pow_pos (j - z).toNat
  cases q
  · rw [signedAt_false]
    simp
  · rw [signedAt_true, Int.neg_neg_iff_pos, Int.natCast_pos, Nat.mul_pos_iff_of_pos_right hp]
    simp [Nat.pos_iff_ne_zero]

/-- `fvLt` compares two finite values by their exact difference. -/
theorem fvLt_fin (s1 : Bool) (m1 : Nat) (e1 : Int) (s2 : Bool) (m2 : Nat) (e2 : Int) {z : Int} (h1 : z ≤ e1) (h2 : z ≤ e2) :
    fvLt (.fin s1 m1 e1) (.fin s2 m2 e2) = decide (signedAt s1 m1 e1 z < signedAt s2 m2 e2 z) := by
  obtain ⟨s, m, e, h, spec, -⟩ := exactAdd_spec 0 s1 m1 e1 (!s2) m2 e2
  obtain ⟨-, sum⟩ := spec z h1 h2
  rw [signedAt_not] at sum
  have hlt : fvLt (.fin s1 m1 e1) (.fin s2 m2 e2) = (s && m != 0) := by
    change (let (s, m, _) := exactAdd 0 s1 m1 e1 (!s2) m2 e2; s && m != 0) = _
    rw [h]
  rw [hlt, Bool.eq_iff_iff, ← signedAt_neg_iff (j := e) (z := z), sum, decide_eq_true_iff]
  omega

/-- Of two values that are not a NaN, `fvLt` says which is at most the other. -/
theorem FVal.le_of_fvLt {x y : FVal} (hx : x.isNan = false) (hy : y.isNan = false) : (fvLt x y = true → x.Le y) ∧ (fvLt x y = false → y.Le x) := by
  cases x with
  | nan => cases hx
  | inf q => cases y with
    | nan => cases hy
    | inf r => cases q <;> cases r <;> simp [fvLt, FVal.Le]
    | fin r m i => cases q <;> simp [fvLt, FVal.Le]
  | fin q n j => cases y with
    | nan => cases hy
    | inf r => cases r <;> simp [fvLt, FVal.Le]
    | fin r m i =>
      rw [fvLt_fin q n j r m i (min_le_right i j) (min_le_left i j), decide_eq_true_iff, decide_eq_false_iff_not, FVal.Le, FVal.Le, min_comm j i]
      exact ⟨le_of_lt, not_lt.1⟩

theorem FVal.le_refl_of {x : FVal} (h : x.isNan = false) : x.Le x := by
  cases x with
  | nan => cases h
  | inf q => cases q <;> simp [FVal.Le]
  | fin q n j => exact le_refl _

/-- Zeros are equal. -/
theorem FVal.le_of_zero {x y : FVal} (hx : x.isZero = true) (hy : y.isZero = true) : x.Le y := by
  cases x with
  | nan => cases hx
  | inf => cases hx
  | fin q n j => cases n with
    | succ => cases hx
    | zero => cases y with
      | nan => cases hy
      | inf => cases hy
      | fin r m i => cases m with
        | succ => cases hy
        | zero => simp [FVal.Le, signedAt]

/-- The bits of a zero are those of a sign. -/
theorem FFmt.zero_bits (f : FFmt) {a : Nat} (ha : a < 2 ^ (1 + f.eb + f.mb)) (h : a % 2 ^ (f.eb + f.mb) = 0) : a = 0 ∨ a = 2 ^ (f.eb + f.mb) := by
  rw [Nat.add_assoc, pow_add, pow_one, Nat.mul_comm] at ha
  obtain ⟨k, rfl⟩ := Nat.dvd_of_mod_eq_zero h
  have hk : k < 2 := Nat.lt_of_mul_lt_mul_left ha
  match k, hk with
  | 0, _ => exact .inl (Nat.mul_zero _)
  | 1, _ => exact .inr (Nat.mul_one _)

theorem FFmt.sgn_true (f : FFmt) : f.sgn true = 2 ^ (f.eb + f.mb) := Nat.one_mul _

theorem FFmt.sgn_false (f : FFmt) : f.sgn false = 0 := Nat.zero_mul _

theorem FFmt.isZero_of_bits {f : FFmt} (hf : f.Good) {a : Nat} (h : a = 0 ∨ a = 2 ^ (f.eb + f.mb)) : (f.decode a).isZero = true := by
  obtain ⟨s, rfl⟩ : ∃ s, a = f.sgn s + 0 * 2 ^ f.mb + 0 := by
    rcases h with h | h
    · exact ⟨false, by rw [f.sgn_false]; omega⟩
    · exact ⟨true, by rw [f.sgn_true]; omega⟩
  rw [FFmt.decode_pack hf s (by omega) (Nat.two_pow_pos _)]
  rfl

/-- vmin and vmax of two operands that are not a NaN return the least or the greatest of them. -/
theorem fMinMax_spec {f : FFmt} (hf : f.Good) (lo : Bool) {a b : Nat} (ha : (f.decode a).isNan = false) (hb : (f.decode b).isNan = false)
    (hla : a < 2 ^ (1 + f.eb + f.mb)) (hlb : b < 2 ^ (1 + f.eb + f.mb)) : ∃ r, (r = a ∨ r = b) ∧ fMinMax f lo a b = (r, 0) ∧
      (∀ x ∈ [a, b], if lo = true then (f.decode r).Le (f.decode x) else (f.decode x).Le (f.decode r)) ∧
      (a % 2 ^ (f.eb + f.mb) = 0 → b % 2 ^ (f.eb + f.mb) = 0 → a ≠ b → r = f.sgn lo) := by
  have hc : ¬(f.decode a = .nan true ∨ f.decode b = .nan true) := by
    rintro (h | h)
    · rw [h] at ha; cases ha
    · rw [h] at hb; cases hb
  obtain ⟨less, hless⟩ : ∃ less, (if (f.decode a).isZero ∧ (f.decode b).isZero then f.sgn true ≤ a && a ≠ b
    else fvLt (f.decode a) (f.decode b)) = less :=
    ⟨_, rfl⟩
  have hval : fMinMax f lo a b = (if less = lo then a else b, 0) := by
    unfold fMinMax
    simp only [ha, hb, if_neg hc, hless]
  have order : (less = true → (f.decode a).Le (f.decode b)) ∧ (less = false → (f.decode b).Le (f.decode a)) := by
    rw [← hless]
    split
    · next hz => exact ⟨fun _ => FVal.le_of_zero hz.1 hz.2, fun _ => FVal.le_of_zero hz.2 hz.1⟩
    · exact FVal.le_of_fvLt ha hb
  refine ⟨if less = lo then a else b, ?_, hval, ?_, fun h1 h2 hab => ?_⟩
  · split
    · exact .inl rfl
    · exact .inr rfl
  · have ra := FVal.le_refl_of ha
    have rb := FVal.le_refl_of hb
    cases less <;> cases lo <;> simp [order, ra, rb]
  · have za := f.zero_bits hla h1
    have zb := f.zero_bits hlb h2
    have hp := Nat.two_pow_pos (f.eb + f.mb)
    rw [if_pos ⟨FFmt.isZero_of_bits hf za, FFmt.isZero_of_bits hf zb⟩, f.sgn_true] at hless
    have hlt : less = decide (a = 2 ^ (f.eb + f.mb)) := by
      rw [← hless]
      rcases za with rfl | rfl
      · simp [hp.ne]
      · simp [hab]
    cases lo
    · rw [f.sgn_false, hlt]
      rcases za with rfl | rfl
      · simp [hp.ne]
      · simpa using zb.resolve_right fun h => hab h.symm
    · rw [f.sgn_true, hlt]
      rcases za with rfl | rfl
      · simpa [hp.ne] using zb.resolve_left fun h => hab h.symm
      · simp

end Sys2Proof.Machine
end

section
/-! PROOF. Quotients and roots (O23): the integers that stand for them. -/

namespace Sys2Proof.Machine

open Sys2Proof.Safety

theorem dyad_pos {n : Nat} (h : 0 < n) (j : Int) : 0 < dyad n j := mul_pos (Nat.cast_pos.2 h) (two_zpow_pos j)

theorem dyad_mul (n m : Nat) (j i : Int) : dyad (n * m) (j + i) = dyad n j * dyad m i := by
  simp only [dyad, zpow_add₀ (two_ne_zero (α := ℝ))]
  push_cast
  ring

theorem dyad_sq (m : Nat) (i : Int) : dyad (m * m) (2 * i) = dyad m i ^ 2 := by
  rw [two_mul, dyad_mul, sq]

/-- A magnitude between r and r + 1, in halves, with the sticky bit that says whether it is r. -/
theorem stands_sticky {b r : Nat} {exact : Bool} {x : ℝ} (hlo : (r : ℝ) ≤ x) (hhi : x < r + 1) (hex : exact = true ↔ x = r) (hb : 2 ^ b ≤ 2 * r) :
    Stands b (stickyNat r exact) (2 * x) := by
  unfold Stands stickyNat
  cases exact with
  | true =>
    left
    rw [hex.1 rfl]
    simp [bit]
  | false =>
    right
    have hne : (r : ℝ) < x := lt_of_le_of_ne hlo fun h => Bool.false_ne_true (hex.2 h.symm)
    have hcast : ((2 * r + bit (!false) : Nat) : ℝ) = 2 * r + 1 := by simp [bit]
    rw [hcast]
    exact ⟨by simp [bit], by linarith, by linarith, hb.trans (Nat.le_add_right _ _)⟩

theorem stickyNat_pos {r : Nat} (h : 0 < r) (exact : Bool) : 0 < stickyNat r exact := by
  unfold stickyNat
  omega

theorem div_lt_cast_add_one (m n : Nat) : (m / n : ℝ) < (m / n : Nat) + 1 := by
  rw [← Nat.floor_div_eq_div (K := ℝ)]
  exact Nat.lt_floor_add_one _

/-! ### Quotients (R112) -/

/-- The integer that stands for the quotient of n1 2^j1 by n2 2^j2. -/
theorem quotient_stands {b n1 n2 : Nat} (h1 : 0 < n1) (h2 : 0 < n2) (j1 j2 : Int) (hb : 2 ^ b * n2 ≤ 2 ^ 80) :
    0 < (quotient n1 n2 j1 j2).1 ∧ Stands b (quotient n1 n2 j1 j2).1 (dyad n1 j1 / dyad n2 j2 * 2 ^ (-(quotient n1 n2 j1 j2).2)) := by
  have hn2 : (0 : ℝ) < n2 := Nat.cast_pos.2 h2
  have hq : 2 ^ b ≤ n1 * 2 ^ 80 / n2 := by
    rw [Nat.le_div_iff_mul_le h2]
    exact hb.trans (Nat.le_mul_of_pos_left _ h1)
  have hx : dyad n1 j1 / dyad n2 j2 * 2 ^ (-(j1 - j2 - 81)) = 2 * ((n1 * 2 ^ 80 : Nat) / n2 : ℝ) := by
    have hz : (2 : ℝ) ^ (-(j1 - j2 - 81)) = 2 ^ j2 / 2 ^ j1 * (2 * 2 ^ 80) := by
      rw [show -(j1 - j2 - 81) = j2 - j1 + (81 : Nat) by push_cast; ring, zpow_add₀ two_ne_zero, zpow_sub₀ two_ne_zero, zpow_natCast]
      norm_num
    have p1 := two_zpow_pos j1
    have p2 := two_zpow_pos j2
    rw [hz, dyad, dyad, Nat.cast_mul, Nat.cast_pow, Nat.cast_ofNat]
    field_simp
  refine ⟨stickyNat_pos ((Nat.two_pow_pos b).trans_le hq) _, ?_⟩
  change Stands b (stickyNat (n1 * 2 ^ 80 / n2) (decide (n1 * 2 ^ 80 % n2 = 0))) (dyad n1 j1 / dyad n2 j2 * 2 ^ (-(j1 - j2 - 81)))
  rw [hx]
  generalize n1 * 2 ^ 80 = v at *
  refine stands_sticky Nat.cast_div_le (div_lt_cast_add_one _ _) ?_ (by omega)
  rw [decide_eq_true_iff, div_eq_iff hn2.ne', ← Nat.cast_mul, Nat.cast_inj, eq_comm (a := v)]
  exact ⟨fun h => Nat.div_mul_cancel (Nat.dvd_of_mod_eq_zero h), fun h => Nat.mod_eq_zero_of_dvd ⟨_, ((Nat.mul_comm _ _).trans h).symm⟩⟩

/-! ### Square roots (R147) -/

/-- `isqrt` finds the root of v from the bits below k. -/
theorem isqrt_spec (v k : Nat) : ∀ r, r * r ≤ v → v < (r + 2 ^ k) * (r + 2 ^ k) →
    isqrt v k r * isqrt v k r ≤ v ∧ v < (isqrt v k r + 1) * (isqrt v k r + 1) := by
  induction k with
  | zero => exact fun r lo hi => ⟨lo, hi⟩
  | succ k ih =>
    intro r lo hi
    unfold isqrt
    split
    · next h =>
      refine ih _ h ?_
      rwa [Nat.add_assoc, ← two_mul, ← pow_succ']
    · next h => exact ih r lo (not_le.1 h)

theorem isqrt_bounds {v k : Nat} (h : v < 2 ^ k * 2 ^ k) : isqrt v k 0 * isqrt v k 0 ≤ v ∧ v < (isqrt v k 0 + 1) * (isqrt v k 0 + 1) :=
  isqrt_spec v k 0 (Nat.zero_le v) (by rwa [Nat.zero_add])

/-- A root beside its integer part. -/
theorem sqrt_facts {r : Nat} {y : ℝ} (hlo : ((r * r : Nat) : ℝ) ≤ y) (hhi : y < ((r + 1) * (r + 1) : Nat)) :
    (r : ℝ) ≤ √y ∧ √y < r + 1 ∧ (√y = r ↔ ((r * r : Nat) : ℝ) = y) := by
  have h0 : (0 : ℝ) ≤ r := r.cast_nonneg
  push_cast at hlo hhi ⊢
  refine ⟨Real.le_sqrt_of_sq_le (by rwa [sq]), (Real.sqrt_lt' (by linarith)).2 (by rwa [sq]), ?_⟩
  rw [Real.sqrt_eq_iff_mul_self_eq ((mul_nonneg h0 h0).trans hlo) h0, eq_comm]

/-- A magnitude with an even exponent. -/
def evened (m : Nat) (e : Int) : Nat × Int := if e % 2 = 0 then (m, e) else (2 * m, e - 1)

theorem evened_spec (m : Nat) (e : Int) : ∃ h : Int, (evened m e).2 = 2 * h ∧ dyad m e = (evened m e).1 * ((2 : ℝ) ^ h) ^ 2 ∧
    m ≤ (evened m e).1 ∧ (evened m e).1 ≤ 2 * m := by
  have even (n : Nat) (h : Int) : dyad n (2 * h) = n * ((2 : ℝ) ^ h) ^ 2 := by
    rw [dyad, two_mul, zpow_add₀ two_ne_zero, sq]
  unfold evened
  split
  · next h =>
    obtain ⟨k, rfl⟩ := Int.dvd_of_emod_eq_zero h
    exact ⟨k, rfl, even m k, le_refl _, by omega⟩
  · next h =>
    obtain ⟨k, rfl⟩ : ∃ k, e = 2 * k + 1 := ⟨e / 2, by omega⟩
    refine ⟨k, add_sub_cancel_right _ _, ?_, by omega, le_refl _⟩
    rw [dyad_double, even]

/-- A root found with its bits below 2^k, and whether it is exact. -/
def rootBits (v k : Nat) (exact : Nat → Bool) : Nat := stickyNat (isqrt v k 0) (exact (isqrt v k 0))

/-- The integer part of a root, in halves, stands for the root. -/
theorem rootBits_stands {b v k : Nat} {y : ℝ} {exact : Nat → Bool} (hv : v < 2 ^ k * 2 ^ k) (hlo : (v : ℝ) ≤ y) (hhi : y < v + 1)
    (hex : ∀ r, exact r = true ↔ ((r * r : Nat) : ℝ) = y) (hb : 2 ^ b * 2 ^ b ≤ v) :
    0 < rootBits v k exact ∧ Stands b (rootBits v k exact) (2 * √y) := by
  obtain ⟨lo, hi⟩ := isqrt_bounds hv
  unfold rootBits
  generalize isqrt v k 0 = r at *
  have hr : 2 ^ b ≤ r := by
    by_contra hlt
    have := Nat.mul_le_mul (not_le.1 hlt) (not_le.1 hlt)
    exact absurd (hi.trans_le this) (not_lt.2 hb)
  have lo' : ((r * r : Nat) : ℝ) ≤ y := (Nat.cast_le.2 lo).trans hlo
  have hi' : y < ((r + 1) * (r + 1) : Nat) := hhi.trans_le (by exact_mod_cast hi)
  obtain ⟨h1, h2, h3⟩ := sqrt_facts lo' hi'
  exact ⟨stickyNat_pos ((Nat.two_pow_pos b).trans_le hr) _, stands_sticky h1 h2 ((hex r).trans h3.symm) (by omega)⟩

/-- The integer that stands for the root of m 2^e. -/
theorem rootOf_stands {m : Nat} (hm : 0 < m) (hlt : m < 2 ^ 24) (e : Int) :
    0 < (rootOf m e).1 ∧ Stands 25 (rootOf m e).1 (√(dyad m e) * 2 ^ (-(rootOf m e).2)) := by
  obtain ⟨h, h2, hval, hlo, hhi⟩ := evened_spec m e
  have hroot : rootOf m e = (rootBits ((evened m e).1 * 2 ^ 80) 64 fun r => decide (r * r = (evened m e).1 * 2 ^ 80), (evened m e).2 / 2 - 41) := rfl
  rw [hroot, h2, hval]
  generalize (evened m e).1 = n at *
  have hp := two_zpow_pos h
  have hx : √(n * ((2 : ℝ) ^ h) ^ 2) * 2 ^ (-(2 * h / 2 - 41)) = 2 * √((n * 2 ^ 80 : Nat) : ℝ) := by
    have hz : (2 : ℝ) ^ (-(2 * h / 2 - 41)) = 2 ^ 41 / 2 ^ h := by
      rw [show -(2 * h / 2 - 41) = ((41 : Nat) : Int) - h by omega, zpow_sub₀ two_ne_zero, zpow_natCast]
    have hs : √((n * 2 ^ 80 : Nat) : ℝ) = √n * 2 ^ 40 := by
      rw [show ((n * 2 ^ 80 : Nat) : ℝ) = n * (2 ^ 40) ^ 2 by push_cast; ring, Real.sqrt_mul' _ (sq_nonneg _), Real.sqrt_sq (by positivity)]
    rw [hz, hs, Real.sqrt_mul' _ (sq_nonneg _), Real.sqrt_sq hp.le]
    field_simp
  dsimp only
  rw [hx]
  refine rootBits_stands (b := 25) (k := 64) (by omega) (le_refl _) (lt_add_one _) (fun r => ?_) (by omega)
  rw [decide_eq_true_iff, Nat.cast_inj]

/-- The integer that stands for the reciprocal of the root of m 2^e. -/
theorem invRootOf_stands {m : Nat} (hm : 0 < m) (hlt : m < 2 ^ 24) (e : Int) :
    0 < (invRootOf m e).1 ∧ Stands 25 (invRootOf m e).1 (√(1 / dyad m e) * 2 ^ (-(invRootOf m e).2)) := by
  obtain ⟨h, h2, hval, hlo, hhi⟩ := evened_spec m e
  have hroot : invRootOf m e = (rootBits (2 ^ 140 / (evened m e).1) 72 fun r => decide (r * r * (evened m e).1 = 2 ^ 140),
    -((evened m e).2 / 2) - 71) := rfl
  rw [hroot, h2, hval]
  generalize (evened m e).1 = n at *
  have hp := two_zpow_pos h
  have hn : 0 < n := hm.trans_le hlo
  have hn' : (0 : ℝ) < n := Nat.cast_pos.2 hn
  have hx : √(1 / (n * ((2 : ℝ) ^ h) ^ 2)) * 2 ^ (-(-(2 * h / 2) - 71)) = 2 * √(((2 ^ 140 : Nat) : ℝ) / n) := by
    have hz : (2 : ℝ) ^ (-(-(2 * h / 2) - 71)) = 2 ^ h * 2 ^ 71 := by
      rw [show -(-(2 * h / 2) - 71) = h + ((71 : Nat) : Int) by omega, zpow_add₀ two_ne_zero, zpow_natCast]
    have hs : √(((2 ^ 140 : Nat) : ℝ) / n) = √(1 / n) * 2 ^ 70 := by
      rw [show ((2 ^ 140 : Nat) : ℝ) / n = 1 / n * (2 ^ 70) ^ 2 by push_cast; ring, Real.sqrt_mul' _ (sq_nonneg _), Real.sqrt_sq (by positivity)]
    have hd : √(1 / (n * ((2 : ℝ) ^ h) ^ 2)) = √(1 / n) / 2 ^ h := by
      rw [← div_div, Real.sqrt_div' _ (sq_nonneg _), Real.sqrt_sq hp.le]
    rw [hz, hs, hd]
    field_simp
  dsimp only
  rw [hx]
  have hq : 2 ^ 25 * 2 ^ 25 ≤ 2 ^ 140 / n := by
    rw [Nat.le_div_iff_mul_le hn]
    omega
  have hq' : 2 ^ 140 / n < 2 ^ 72 * 2 ^ 72 := (Nat.div_le_self _ _).trans_lt (by decide)
  refine rootBits_stands hq' Nat.cast_div_le (div_lt_cast_add_one _ _) (fun r => ?_) hq
  rw [decide_eq_true_iff, eq_div_iff hn'.ne', ← Nat.cast_inj (R := ℝ), Nat.cast_mul]

/-! ### The bounds that say which magnitude is rounded -/

/-- `roundsTo` of a quotient. -/
theorem FFmt.Rounds.roundsTo_div {f : FFmt} (hf : f.Good) {mode : Nat} {s : Bool} {n1 n2 : Nat} {j1 j2 : Int} {out : Nat × BitVec 12} (h2 : 0 < n2)
    (h : f.Rounds .arith mode s (dyad n1 j1 / dyad n2 j2) out) :
    Safety.roundsTo f .arith mode s (fun n j => atMost (n * n2) (j + j2) n1 j1) (fun n j => atMost n1 j1 (n * n2) (j + j2)) out := by
  have hp := dyad_pos h2 j2
  refine h.roundsTo hf (fun n j => ?_) fun n j => ?_
  · rw [atMost_iff, dyad_mul, le_div_iff₀ hp]
  · rw [atMost_iff, dyad_mul, div_le_iff₀ hp]

/-- `roundsTo` of a root. -/
theorem FFmt.Rounds.roundsTo_sqrt {f : FFmt} (hf : f.Good) {mode : Nat} {s : Bool} {n : Nat} {j : Int} {out : Nat × BitVec 12}
    (h : f.Rounds .arith mode s (√(dyad n j)) out) :
    Safety.roundsTo f .arith mode s (fun m i => atMost (m * m) (2 * i) n j) (fun m i => atMost n j (m * m) (2 * i)) out := by
  refine h.roundsTo hf (fun m i => ?_) fun m i => ?_
  · rw [atMost_iff, dyad_sq, Real.le_sqrt (dyad_nonneg m i) (dyad_nonneg n j)]
  · rw [atMost_iff, dyad_sq, Real.sqrt_le_left (dyad_nonneg m i)]

/-- `roundsTo` of the reciprocal of a root. -/
theorem FFmt.Rounds.roundsTo_rsqrt {f : FFmt} (hf : f.Good) {mode : Nat} {s : Bool} {n : Nat} {j : Int} {out : Nat × BitVec 12} (hn : 0 < n)
    (h : f.Rounds .arith mode s (√(1 / dyad n j)) out) :
    Safety.roundsTo f .arith mode s (fun m i => atMost (m * m * n) (2 * i + j) 1 0) (fun m i => atMost 1 0 (m * m * n) (2 * i + j)) out := by
  have hp := dyad_pos hn j
  have one : dyad 1 0 = 1 := by simp [dyad]
  refine h.roundsTo hf (fun m i => ?_) fun m i => ?_
  · rw [atMost_iff, dyad_mul, dyad_sq, one, Real.le_sqrt (dyad_nonneg m i) (one_div_pos.2 hp).le, le_div_iff₀ hp]
  · rw [atMost_iff, dyad_mul, dyad_sq, one, Real.sqrt_le_left (dyad_nonneg m i), div_le_iff₀ hp]

end Sys2Proof.Machine
end

section
/-! PROOF. Floating operations (O23): rounding to integers, values that a format holds, and powers of two. -/

namespace Sys2Proof.Machine

open Sys2Proof.Safety

/-! ### Rounding to an integer (R111, R142) -/

/-- A rounded magnitude N / d, counted in d. -/
theorem IsRound.counted {mode : Nat} {s : Bool} {x : ℝ} {r d N : Nat} (h : IsRound mode s x r) (hd : 0 < d) (hx : x * d = N) :
    (mode = 0 → 2 * (r * d : Int) - d ≤ 2 * N ∧ 2 * (N : Int) ≤ 2 * (r * d : Int) + d ∧
      ((2 * (N : Int) = 2 * (r * d : Int) - d ∨ 2 * (N : Int) = 2 * (r * d : Int) + d) → r % 2 = 0)) ∧
    (Away mode s → (r * d : Int) - d < N ∧ (N : Int) ≤ r * d) ∧ (mode ≠ 0 → ¬Away mode s → (r * d : Int) ≤ N ∧ (N : Int) < r * d + d) := by
  have hd' : (0 : ℝ) < d := Nat.cast_pos.2 hd
  refine ⟨fun h0 => ?_, fun ha => ?_, fun h0 ha => ?_⟩
  · obtain ⟨lo, hi, tie⟩ := h.near h0
    refine ⟨?_, ?_, fun k => tie (k.imp (fun k => ?_) fun k => ?_)⟩
    · have : 2 * ((r : ℝ) * d) - d ≤ 2 * N := by rw [← hx]; nlinarith
      exact_mod_cast this
    · have : 2 * (N : ℝ) ≤ 2 * ((r : ℝ) * d) + d := by rw [← hx]; nlinarith
      exact_mod_cast this
    · have : 2 * (N : ℝ) = 2 * ((r : ℝ) * d) - d := by exact_mod_cast k
      exact mul_right_cancel₀ hd'.ne' (by linarith)
    · have : 2 * (N : ℝ) = 2 * ((r : ℝ) * d) + d := by exact_mod_cast k
      exact mul_right_cancel₀ hd'.ne' (by linarith)
  · obtain ⟨lo, hi⟩ := h.up ha
    have h1 : (r : ℝ) * d - d < N := by rw [← hx]; nlinarith
    have h2 : (N : ℝ) ≤ r * d := by rw [← hx]; nlinarith
    exact ⟨by exact_mod_cast h1, by exact_mod_cast h2⟩
  · obtain ⟨lo, hi⟩ := h.down h0 ha
    have h1 : (r : ℝ) * d ≤ N := by rw [← hx]; nlinarith
    have h2 : (N : ℝ) < r * d + d := by rw [← hx]; nlinarith
    exact ⟨by exact_mod_cast h1, by exact_mod_cast h2⟩

/-- n 2^j in places of 2^z. -/
theorem dyad_in_places (n : Nat) {j z : Int} (hj : z ≤ j) (hz : z ≤ 0) : dyad n j * (2 ^ (-z).toNat : Nat) = (n * 2 ^ (j - z).toNat : Nat) := by
  rw [← dyad_shift n hj, dyad]
  have hp : ((2 ^ (-z).toNat : Nat) : ℝ) = 2 ^ (-z) := by
    rw [Nat.cast_pow, ← zpow_natCast, Int.toNat_of_nonneg (by omega)]
    rfl
  rw [hp, mul_assoc, ← zpow_add₀ two_ne_zero, add_neg_cancel, zpow_zero, mul_one]

/-- The magnitude of `toIntMode` is n 2^j rounded. -/
theorem roundShift_dyad {mode : Nat} (hmode : mode < 4) (q : Bool) (n : Nat) (j : Int) : IsRound mode q (dyad n j) (roundShift mode q n (-j)).1 := by
  have h := (roundShift_isRound hmode q (m := n) (x := n) (k := -j) (.inl rfl)).1
  rwa [neg_neg] at h

/-- `toIntMode` rounds to an integer in a mode. -/
theorem toIntMode_roundsInt {mode : Nat} (hmode : mode < 4) (q : Bool) (n : Nat) (j : Int) : roundsInt mode q n j (toIntMode mode q n j) := by
  have hd := Nat.two_pow_pos (-(min j 0)).toNat
  obtain ⟨near, up, down⟩ := (roundShift_dyad hmode q n j).counted hd (dyad_in_places n (min_le_left j 0) (min_le_right j 0))
  unfold roundsInt toIntMode
  generalize (roundShift mode q n (-j)).1 = r at *
  rw [show (2 : Int) ^ (-(min j 0)).toNat = (2 ^ (-(min j 0)).toNat : Nat) by push_cast; rfl]
  generalize n * 2 ^ (j - min j 0).toNat = N at *
  generalize 2 ^ (-(min j 0)).toNat = d at *
  obtain ⟨P, hP, hP0⟩ : ∃ P : Int, (r : Int) * d = P ∧ 0 ≤ P := ⟨_, rfl, by positivity⟩
  have hneg : (-(r : Int)) * d = -P := (Int.neg_mul _ _).trans (congrArg Neg.neg hP)
  obtain ⟨M, hM, hpos⟩ : ∃ M : Int, (r : Int) * N = M ∧ 0 ≤ M := ⟨_, rfl, by positivity⟩
  have hM' : (-(r : Int)) * (-1 * N) = M := by rw [← hM]; ring
  have hM1 : (r : Int) * (1 * N) = M := by rw [← hM]; ring
  rw [hP] at near up down
  match mode, hmode with
  | 0, _ =>
    have h := near rfl
    cases q <;> simp only [Bool.false_eq_true, if_true, if_false, hP, hneg] <;> omega
  | 1, _ =>
    have h := down one_ne_zero fun h => by rcases h with ⟨h, -⟩ | ⟨h, -⟩ <;> cases h
    cases q <;> simp only [Bool.false_eq_true, if_true, if_false, hP, hneg, hM', hM1] <;> omega
  | 2, _ =>
    cases q with
    | true =>
      have h := up (.inl ⟨rfl, rfl⟩)
      simp only [if_true, hneg]
      omega
    | false =>
      have h := down two_ne_zero fun h => by rcases h with ⟨-, h⟩ | ⟨h, -⟩ <;> cases h
      simp only [Bool.false_eq_true, if_false, hP]
      omega
  | 3, _ =>
    cases q with
    | true =>
      have h := down three_ne_zero fun h => by rcases h with ⟨h, -⟩ | ⟨-, h⟩ <;> cases h
      simp only [if_true, hneg]
      omega
    | false =>
      have h := up (.inr ⟨rfl, rfl⟩)
      simp only [Bool.false_eq_true, if_false, hP]
      omega

/-! ### Values that a format holds -/

/-- A magnitude of the fraction's bits, at an exponent of the format, is a value of the format. -/
theorem FFmt.exists_spelled {f : FFmt} (hf : f.Good) {R : Nat} {e : Int} (hR : R < 2 ^ (f.mb + 1)) (hlow : f.low ≤ e) (hhigh : e ≤ f.high) :
    ∃ m i, f.Spelled m i ∧ dyad m i = dyad R e := by
  have hb := hf.mb_lt_bias
  rcases Nat.eq_zero_or_pos R with rfl | hpos
  · exact ⟨0, f.low, ⟨Nat.two_pow_pos _, le_refl _, by unfold FFmt.low FFmt.high; omega, .inr rfl⟩, by simp [dyad]⟩
  · obtain ⟨hL, hlo, hhi⟩ := bitLen_bounds hpos.ne'
    have hlen : bitLen R ≤ f.mb + 1 := by
      have : bitLen R - 1 < f.mb + 1 := (Nat.pow_lt_pow_iff_right (by decide : 1 < 2)).1 (hlo.trans_lt hR)
      omega
    obtain ⟨i, hi⟩ : ∃ i, i = max f.low (e + bitLen R - 1 - f.mb) := ⟨_, rfl⟩
    have hie : i ≤ e := by omega
    refine ⟨R * 2 ^ (e - i).toNat, i, ⟨?_, by omega, by omega, ?_⟩, dyad_shift R hie⟩
    · calc R * 2 ^ (e - i).toNat < 2 ^ bitLen R * 2 ^ (e - i).toNat := Nat.mul_lt_mul_of_pos_right hhi (Nat.two_pow_pos _)
        _ = 2 ^ (bitLen R + (e - i).toNat) := (pow_add _ _ _).symm
        _ ≤ 2 ^ (f.mb + 1) := Nat.pow_le_pow_right two_pos (by omega)
    · rcases le_or_gt (e + bitLen R - 1 - f.mb) f.low with h | h
      · exact .inr (by omega)
      · left
        calc 2 ^ f.mb = 2 ^ (bitLen R - 1 + (e - i).toNat) := by rw [show bitLen R - 1 + (e - i).toNat = f.mb by omega]
          _ = 2 ^ (bitLen R - 1) * 2 ^ (e - i).toNat := pow_add _ _ _
          _ ≤ R * 2 ^ (e - i).toNat := Nat.mul_le_mul_right _ hlo

/-- A value of a format does not overflow. -/
theorem FFmt.Spelled.not_passes {f : FFmt} {m : Nat} {i : Int} (h : f.Spelled m i) (mode : Nat) (s : Bool) : ¬f.Passes mode s (dyad m i) f.high := by
  have hP := two_zpow_pos f.high
  have hle : dyad m i + 2 ^ f.high ≤ dyad (2 ^ (f.mb + 1)) f.high := by
    obtain ⟨k, hk⟩ : ∃ k, 2 ^ (f.mb + 1) = k + 1 := ⟨2 ^ (f.mb + 1) - 1, by have := Nat.two_pow_pos (f.mb + 1); omega⟩
    have := h.lt
    rw [hk, dyad_succ, add_le_add_iff_right]
    exact (dyad_mono m h.high).trans (dyad_le_iff.2 (by omega))
  rw [FFmt.passes_iff]
  rintro (⟨-, k⟩ | ⟨-, k⟩ | ⟨-, -, k⟩) <;> linarith

/-- The nearest value to a value is that value. -/
theorem Nearest.eq_of_value {mode : Nat} {s : Bool} {n m : Nat} {j i : Int} {even : Prop} (h : Nearest mode s (dyad m i) n j even m i) :
    dyad n j = dyad m i := by
  by_cases h0 : mode = 0
  · rcases lt_trichotomy (dyad n j) (dyad m i) with hlt | heq | hgt
    · have := (h.below h0 hlt).1
      linarith
    · exact heq
    · have := (h.above h0 hgt).1
      linarith
  · by_cases ha : Away mode s
    · obtain ⟨le, least⟩ := h.up ha
      exact le_antisymm (least (le_refl _)) le
    · obtain ⟨le, greatest⟩ := h.down h0 ha
      exact le_antisymm le (greatest (le_refl _))

/-- A value of the format rounds to itself. -/
theorem FFmt.Rounds.of_value {f : FFmt} {ov : Over} {mode : Nat} {s : Bool} {m : Nat} {i : Int} {out : Nat × BitVec 12} (hm : f.Spelled m i)
    (h : f.Rounds ov mode s (dyad m i) out) : ∃ n j, f.decode out.1 = .fin s n j ∧ dyad n j = dyad m i := by
  obtain ⟨n, j, hdec, -, -, near⟩ := h.finite (hm.not_passes mode s)
  exact ⟨n, j, hdec, (near m i hm).eq_of_value⟩

/-- The result of a rounding holds its sign. -/
theorem FFmt.sgn_le_result {f : FFmt} (hf : f.Good) (ov : Over) (mode : Nat) (s : Bool) (r : Nat) (q : Int) (unf : Bool) :
    f.sgn s ≤ (f.result ov mode s r q unf).1 := by
  have heb := hf.eb_eq
  have hinf : f.sgn s ≤ f.infBits s := Nat.le_add_right _ _
  have hmax : f.sgn s ≤ f.maxBits s := by
    have : 0 < (2 ^ f.eb - 1) * 2 ^ f.mb := Nat.mul_pos (by omega) (Nat.two_pow_pos _)
    unfold FFmt.maxBits
    omega
  unfold FFmt.result
  dsimp only
  split
  · cases ov with
    | arith =>
      dsimp only
      split
      · exact hinf
      · exact hmax
    | conv => exact hmax
  · exact Nat.le_add_right _ _

/-- A finite value rounded to an integral value of its format (R142). -/
theorem FFmt.ofExact_integral {f : FFmt} (hf : f.Good) {mode : Nat} (hmode : mode < 4) (q : Bool) {n : Nat} {j : Int} (hs : f.Spelled n j) :
    ∃ m k i, (f.ofExact .conv mode q (roundShift mode q n (-j)).1 0).1 = f.sgn q + m ∧ f.decode (f.sgn q + m) = .fin q k i ∧
      dyad k i = (roundShift mode q n (-j)).1 := by
  have hround := roundShift_dyad hmode q n j
  have hval : ∃ m i, f.Spelled m i ∧ dyad m i = (roundShift mode q n (-j)).1 := by
    rcases le_or_gt 0 j with hj | hj
    · refine ⟨n, j, hs, ?_⟩
      have hint : dyad n j = (n * 2 ^ j.toNat : Nat) := by
        rw [← dyad_shift n hj, sub_zero, dyad, zpow_zero, mul_one]
      rw [hint] at hround ⊢
      rw [Nat.cast_inj]
      exact le_antisymm (hround.le_of_le (le_refl _)) (hround.ge_of_ge (le_refl _))
    · have hb := hf.mb_lt_bias
      have hle : (roundShift mode q n (-j)).1 < 2 ^ (f.mb + 1) := by
        have hx : dyad n j ≤ (2 ^ f.mb : Nat) := by
          calc dyad n j ≤ dyad (2 ^ (f.mb + 1)) j := dyad_le_iff.2 hs.lt.le
            _ ≤ dyad (2 ^ (f.mb + 1)) (-1) := dyad_mono _ (by omega)
            _ = (2 ^ f.mb : Nat) := by rw [pow_succ, mul_comm, ← dyad_double, dyad]; simp
        exact (hround.ge_of_ge hx).trans_lt (Nat.pow_lt_pow_right (by decide) (by omega))
      obtain ⟨m, i, hm, he⟩ := FFmt.exists_spelled hf (e := 0) hle (by unfold FFmt.low; omega) (by unfold FFmt.high; omega)
      exact ⟨m, i, hm, he.trans (by simp [dyad])⟩
  generalize (roundShift mode q n (-j)).1 = R at *
  obtain ⟨m, i, hm, he⟩ := hval
  unfold FFmt.ofExact
  rcases Nat.eq_zero_or_pos R with rfl | hR
  · refine ⟨0, 0, f.low, rfl, ?_, by simp [dyad]⟩
    have := FFmt.decode_pack hf q (E := 0) (M := 0) (by omega) (Nat.two_pow_pos _)
    rwa [Nat.zero_mul, if_pos rfl] at this
  · rw [if_neg hR.ne']
    have hr := FFmt.round_rounds hf .conv hmode q hR (e := 0) (x := R) (.inl (by simp))
    rw [← he] at hr
    obtain ⟨k, l, hdec, hkl⟩ := hr.of_value hm
    obtain ⟨b, hb⟩ := Nat.exists_eq_add_of_le (FFmt.round_eq f .conv mode q R 0 ▸ FFmt.sgn_le_result hf .conv mode q _ _ _)
    exact ⟨b, k, l, hb, hb ▸ hdec, hkl.trans he⟩

end Sys2Proof.Machine
end

section
/-! PROOF. Floating operations (O23): the functions of R147, and the claim. -/

namespace Sys2Proof.Machine

open Sys2Proof.Safety

/-! ### Magnitudes that round alike -/

/-- All magnitudes beyond the format round alike. -/
theorem FFmt.Rounds.of_large {f : FFmt} {ov : Over} {mode : Nat} {s : Bool} {x y : ℝ} {out : Nat × BitVec 12} (h : f.Rounds ov mode s x out)
    (hx : f.Passes mode s x f.high) (hy : f.Passes mode s y f.high) : f.Rounds ov mode s y out :=
  ⟨fun _ => h.beyond hx, fun no => absurd hy no⟩

theorem dyad_add (n m : Nat) (j : Int) : dyad n j + dyad m j = dyad (n + m) j := by
  simp only [dyad, Nat.cast_add, add_mul]

/-- Two magnitudes that compare alike, doubled, with the values of a place. -/
def Alike (l : Int) (x y : ℝ) : Prop := ∀ N, (dyad N l ≤ 2 * x ↔ dyad N l ≤ 2 * y) ∧ (2 * x ≤ dyad N l ↔ 2 * y ≤ dyad N l)

theorem Alike.le {l : Int} {x y : ℝ} (h : Alike l x y) (n : Nat) {j : Int} (hj : l ≤ j) :
    (dyad n j ≤ x ↔ dyad n j ≤ y) ∧ (x ≤ dyad n j ↔ y ≤ dyad n j) := by
  have two (z : ℝ) : dyad (n * 2 ^ (j - l).toNat + n * 2 ^ (j - l).toNat) l ≤ 2 * z ↔ dyad n j ≤ z := by
    rw [← dyad_add, dyad_shift n hj, ← two_mul, mul_le_mul_iff_right₀ two_pos]
  have two' (z : ℝ) : 2 * z ≤ dyad (n * 2 ^ (j - l).toNat + n * 2 ^ (j - l).toNat) l ↔ z ≤ dyad n j := by
    rw [← dyad_add, dyad_shift n hj, ← two_mul, mul_le_mul_iff_right₀ two_pos]
  obtain ⟨h1, h2⟩ := h (n * 2 ^ (j - l).toNat + n * 2 ^ (j - l).toNat)
  exact ⟨by rw [← two, h1, two], by rw [← two', h2, two']⟩

/-- Magnitudes that compare alike have the same nearest values. -/
theorem Nearest.of_alike {mode : Nat} {s : Bool} {x y : ℝ} {n m : Nat} {j i l : Int} {even : Prop} (ha : Alike l x y) (hj : l ≤ j) (hi : l ≤ i)
    (h : Nearest mode s x n j even m i) : Nearest mode s y n j even m i := by
  obtain ⟨below, above, up, down⟩ := h
  obtain ⟨nlo, nhi⟩ := ha.le n hj
  obtain ⟨mlo, mhi⟩ := ha.le m hi
  obtain ⟨slo, shi⟩ := ha (m * 2 ^ (i - l).toNat + n * 2 ^ (j - l).toNat)
  rw [← dyad_add, dyad_shift n hj, dyad_shift m hi] at slo shi
  refine ⟨?_, ?_, ?_, ?_⟩
  · rwa [← slo, ← shi]
  · rwa [← slo, ← shi]
  · rwa [← nhi, ← mhi]
  · rwa [← nlo, ← mlo]

/-- All magnitudes below half the least value of the format round alike. -/
theorem FFmt.Rounds.of_small {f : FFmt} (hf : f.Good) {ov : Over} {mode : Nat} {s : Bool} {x y : ℝ} {out : Nat × BitVec 12}
    (h : f.Rounds ov mode s x out)
    (hx : 0 < x ∧ 2 * x < 2 ^ f.low) (hy : 0 < y ∧ 2 * y < 2 ^ f.low) : f.Rounds ov mode s y out := by
  have small {z : ℝ} (hz : 0 < z ∧ 2 * z < 2 ^ f.low) (N : Nat) : (dyad N f.low ≤ 2 * z ↔ N = 0) ∧ (2 * z ≤ dyad N f.low ↔ N ≠ 0) := by
    obtain ⟨h0, h1⟩ := hz
    rcases Nat.eq_zero_or_pos N with rfl | hN
    · have e : dyad 0 f.low = 0 := by simp [dyad]
      rw [e]
      exact ⟨⟨fun _ => rfl, fun _ => by linarith⟩, ⟨fun k => by linarith, fun k => absurd rfl k⟩⟩
    · have e : 2 ^ f.low ≤ dyad N f.low := by
        have := (dyad_le_iff (j := f.low)).2 (Nat.one_le_of_lt hN)
        rwa [dyad, Nat.cast_one, one_mul] at this
      exact ⟨⟨fun k => by linarith, fun k => by omega⟩, ⟨fun _ => hN.ne', fun _ => by linarith⟩⟩
  have ha : Alike f.low x y := fun N => ⟨(small hx N).1.trans (small hy N).1.symm, (small hx N).2.trans (small hy N).2.symm⟩
  have hb := hf.mb_lt_bias
  have no {z : ℝ} (hz : 0 < z ∧ 2 * z < 2 ^ f.low) (j : Int) (hj : f.low - 1 ≤ j) : ¬f.Passes mode s z j := by
    refine f.not_passes_of_lt mode s ?_
    have e := two_zpow_succ (f.low - 1)
    rw [sub_add_cancel] at e
    have e1 : dyad 1 (f.low - 1) = 2 ^ (f.low - 1) := by rw [dyad, Nat.cast_one, one_mul]
    calc z < dyad 1 (f.low - 1) := by rw [e1]; linarith [hz.2]
      _ ≤ dyad (2 ^ f.mb) (f.low - 1) := dyad_le_iff.2 (Nat.two_pow_pos _)
      _ ≤ dyad (2 ^ f.mb) j := dyad_mono _ hj
  have hh : f.low - 1 ≤ f.high := by unfold FFmt.low FFmt.high; omega
  refine ⟨fun k => absurd k (no hy _ hh), fun _ => ?_⟩
  obtain ⟨n, j, hdec, hc, hunf, near⟩ := h.finite (no hx _ hh)
  have hj := (FFmt.spelled_of_decode hf hdec).low
  refine ⟨n, j, hdec, hc, hunf.trans ?_, fun m i hm => (near m i hm).of_alike ha hj hm.low⟩
  rw [and_iff_right (no hx _ (le_refl _)), and_iff_right (no hy _ (le_refl _)), ne_eq, ne_eq, not_iff_not, le_antisymm_iff, le_antisymm_iff,
    (ha.le n hj).1, (ha.le n hj).2]

/-! ### 2^a of a whole number (R147) -/

theorem dyad_one (k : Int) : dyad 1 k = 2 ^ k := by rw [dyad, Nat.cast_one, one_mul]

theorem fvLog_bounds {m : Nat} (hm : 0 < m) (e : Int) : dyad 1 (fvLog m e) ≤ dyad m e ∧ dyad m e < dyad 1 (fvLog m e + 1) := by
  obtain ⟨lo, hi, -⟩ := stands_bounds (b := 0) hm (.inl (dyad_unscale m e))
  exact ⟨lo, hi⟩

/-- A whole number's sign and magnitude. -/
theorem whole_value {s : Bool} {m : Nat} {e k : Int} (h : signedAt s m e (min e 0) = k * 2 ^ (-(min e 0)).toNat) :
    dyad m e = k.natAbs ∧ k = if s then -(k.natAbs : Int) else k.natAbs := by
  have hd := Nat.two_pow_pos (-(min e 0)).toNat
  have hN := dyad_in_places m (min_le_left e 0) (min_le_right e 0)
  have hc : (2 : Int) ^ (-(min e 0)).toNat = (2 ^ (-(min e 0)).toNat : Nat) := by push_cast; rfl
  rw [signedAt, hc] at h
  generalize m * 2 ^ (e - min e 0).toNat = N at *
  generalize 2 ^ (-(min e 0)).toNat = d at *
  have hd' : (0 : ℝ) < d := Nat.cast_pos.2 hd
  have habs : N = k.natAbs * d := by
    have := congrArg Int.natAbs h
    cases s <;> simpa [Int.natAbs_mul] using this
  refine ⟨mul_right_cancel₀ hd'.ne' (by rw [hN, habs]; push_cast; rfl), ?_⟩
  have hd0 : (d : Int) ≠ 0 := by omega
  refine mul_right_cancel₀ hd0 ?_
  rw [← h, habs]
  push_cast
  cases s <;> simp

/-- 2^a of a whole number is the power, rounded once. -/
theorem exp2Fin_whole {f : FFmt} (hf : f.Good) {mode : Nat} (hmode : mode < 4) {s : Bool} {m : Nat} {e k : Int} (hm : 0 < m)
    (h : signedAt s m e (min e 0) = k * 2 ^ (-(min e 0)).toNat) : f.Rounds .arith mode false (dyad 1 k) (exp2Fin f mode s m e) := by
  obtain ⟨hval, hsign⟩ := whole_value h
  obtain ⟨hlo, hhi⟩ := fvLog_bounds hm e
  have power (i : Int) : f.Rounds .arith mode false (dyad 1 i) (f.round .arith mode false 1 i) :=
    FFmt.round_rounds hf .arith hmode false one_pos (.inl (dyad_unscale 1 i))
  have hb := hf.bias_le
  have hmb := hf.mb_le
  have hk : 1 ≤ k.natAbs := by
    have := dyad_pos hm e
    rw [hval] at this
    exact Nat.cast_pos.1 this
  have htop : ¬fvLog m e < -64 := fun hlt => by
    have h1 : dyad m e < dyad 1 0 := hhi.trans_le (dyad_mono 1 (by omega))
    rw [hval, dyad_one, zpow_zero] at h1
    have : k.natAbs < 1 := by exact_mod_cast h1
    omega
  unfold exp2Fin
  dsimp only
  by_cases h9 : 9 ≤ fvLog m e
  · rw [if_pos h9]
    have hbig : 512 ≤ k.natAbs := by
      have e : dyad 1 9 = (512 : Nat) := by
        rw [dyad_one]
        norm_num
      rw [← Nat.cast_le (α := ℝ), ← e, ← hval]
      exact (dyad_mono 1 h9).trans hlo
    split
    · next hs =>
      rw [if_pos hs] at hsign
      have small (i : Int) (hi : i ≤ -400) : 0 < dyad 1 i ∧ 2 * dyad 1 i < 2 ^ f.low := by
        refine ⟨dyad_pos one_pos i, ?_⟩
        rw [dyad_one, ← two_zpow_succ]
        exact zpow_lt_zpow_right₀ one_lt_two (by unfold FFmt.low; omega)
      exact (power _).of_small hf (small _ (le_refl _)) (small k (by omega))
    · next hs =>
      rw [if_neg hs] at hsign
      have large (i : Int) (hi : 400 ≤ i) : f.Passes mode false (dyad 1 i) f.high := by
        refine f.passes_of_ge mode false ?_
        rw [dyad_two_pow]
        exact dyad_mono 1 (by unfold FFmt.high; omega)
      exact (power _).of_large (large _ (le_refl _)) (large k (by omega))
  · have hwhole : (decide (0 ≤ e) || decide (m % 2 ^ (-e).toNat = 0)) = true := by
      rw [Bool.or_eq_true, decide_eq_true_iff, decide_eq_true_iff]
      refine or_iff_not_imp_left.2 fun he => ?_
      have hN := dyad_in_places m (min_le_left e 0) (min_le_right e 0)
      rw [min_eq_left (by omega : e ≤ 0), sub_self, Int.toNat_zero, pow_zero, mul_one, hval] at hN
      have hN' : k.natAbs * 2 ^ (-e).toNat = m := by exact_mod_cast hN
      rw [← hN', Nat.mul_mod_left]
    have hint : toIntMode 1 s m e = k := by
      have hround := roundShift_dyad (by decide : 1 < 4) s m e
      rw [hval] at hround
      rw [toIntMode, le_antisymm (hround.ge_of_ge (le_refl _)) (hround.le_of_le (le_refl _))]
      exact hsign.symm
    rw [if_neg h9, if_neg htop, if_pos hwhole, hint]
    exact power k

/-! ### The functions of R147 by number, on finite operands -/

/-- The bits of +1. -/
theorem FFmt.plus_bias (f : FFmt) : f.sgn false + f.bias * 2 ^ f.mb = f.bias * 2 ^ f.mb := by rw [f.sgn_false, Nat.zero_add]

theorem specialV_exp2 (f : FFmt) (mode : Nat) (s : Bool) {n : Nat} (hn : n ≠ 0) (j : Int) :
    specialV f 0 mode (.fin s n j) = exp2Fin f mode s n j := by
  cases n with
  | zero => exact absurd rfl hn
  | succ n => rfl

theorem specialV_log2_two_pow (f : FFmt) (mode k : Nat) (j : Int) :
    specialV f 1 mode (.fin false (2 ^ k) j) = f.ofExact .arith mode (decide (j + k < 0)) (j + k).natAbs 0 := by
  have hlen : bitLen (2 ^ k) - 1 = k := by
    rw [bitLen, if_neg (Nat.two_pow_pos k).ne', Nat.log2_two_pow, Nat.add_sub_cancel]
  obtain ⟨n, hn⟩ : ∃ n, 2 ^ k = n + 1 := ⟨2 ^ k - 1, by have := Nat.two_pow_pos k; omega⟩
  have h : specialV f 1 mode (.fin false (2 ^ k) j) = log2Fin f mode (2 ^ k) j := by
    rw [hn]
    rfl
  rw [h, log2Fin]
  simp only [hlen, if_true]

theorem FFmt.Spelled.times_le {f : FFmt} (hf : f.Good) {n : Nat} {j : Int} (h : f.Spelled n j) : 2 ^ (f.mb + 2) * n ≤ 2 ^ 80 := by
  have hmb := hf.mb_le
  calc 2 ^ (f.mb + 2) * n ≤ 2 ^ (f.mb + 2) * 2 ^ (f.mb + 1) := Nat.mul_le_mul_left _ h.lt.le
    _ = 2 ^ (f.mb + 2 + (f.mb + 1)) := (pow_add _ _ _).symm
    _ ≤ 2 ^ 80 := Nat.pow_le_pow_right two_pos (by omega)

theorem FFmt.Spelled.lt_24 {f : FFmt} (hf : f.Good) {n : Nat} {j : Int} (h : f.Spelled n j) : n < 2 ^ 24 :=
  h.lt.trans_le (Nat.pow_le_pow_right two_pos (by have := hf.mb_le; omega))

theorem Stands.fewer {b c m : Nat} {x : ℝ} (h : Stands c m x) (hbc : b ≤ c) : Stands b m x :=
  h.imp id fun ⟨hodd, lo, hi, hm⟩ => ⟨hodd, lo, hi, (Nat.pow_le_pow_right two_pos hbc).trans hm⟩

theorem specialV_rcp {f : FFmt} (hf : f.Good) {mode : Nat} (hmode : mode < 4) (s : Bool) {n : Nat} {j : Int} (hs : f.Spelled n j) (hn : n ≠ 0) :
    f.Rounds .arith mode s (dyad 1 0 / dyad n j) (specialV f 2 mode (.fin s n j)) := by
  obtain ⟨hpos, hst⟩ := quotient_stands one_pos (Nat.pos_of_ne_zero hn) 0 j (hs.times_le hf)
  have h : specialV f 2 mode (.fin s n j) = f.round .arith mode s (quotient 1 n 0 j).1 (quotient 1 n 0 j).2 := by
    cases n with
    | zero => exact absurd rfl hn
    | succ n => rfl
  rw [h]
  exact FFmt.round_rounds hf .arith hmode s hpos hst

theorem specialV_rsqrt {f : FFmt} (hf : f.Good) {mode : Nat} (hmode : mode < 4) {n : Nat} {j : Int} (hs : f.Spelled n j) (hn : n ≠ 0) :
    f.Rounds .arith mode false (√(1 / dyad n j)) (specialV f 3 mode (.fin false n j)) := by
  obtain ⟨hpos, hst⟩ := invRootOf_stands (Nat.pos_of_ne_zero hn) (hs.lt_24 hf) j
  have h : specialV f 3 mode (.fin false n j) = f.round .arith mode false (invRootOf n j).1 (invRootOf n j).2 := by
    cases n with
    | zero => exact absurd rfl hn
    | succ n => rfl
  rw [h]
  exact FFmt.round_rounds hf .arith hmode false hpos (hst.fewer (by have := hf.mb_le; omega))

theorem specialV_sqrt {f : FFmt} (hf : f.Good) {mode : Nat} (hmode : mode < 4) {n : Nat} {j : Int} (hs : f.Spelled n j) (hn : n ≠ 0) :
    f.Rounds .arith mode false (√(dyad n j)) (specialV f 4 mode (.fin false n j)) := by
  obtain ⟨hpos, hst⟩ := rootOf_stands (Nat.pos_of_ne_zero hn) (hs.lt_24 hf) j
  have h : specialV f 4 mode (.fin false n j) = f.round .arith mode false (rootOf n j).1 (rootOf n j).2 := by
    cases n with
    | zero => exact absurd rfl hn
    | succ n => rfl
  rw [h]
  exact FFmt.round_rounds hf .arith hmode false hpos (hst.fewer (by have := hf.mb_le; omega))

/-! ### Quotients (R112) -/

/-- The sign of a zero sum, where the second sign is the opposite one. -/
theorem sign_of_not (q r d : Bool) : (if q = !r then q else d) = if q = r then d else q := by cases q <;> cases r <;> rfl

theorem fDiv_fin {f : FFmt} (hf : f.Good) {mode : Nat} (hmode : mode < 4) {a b : Nat} {q1 q2 : Bool} {n1 n2 : Nat} {j1 j2 : Int}
    (ha : f.decode a = .fin q1 n1 j1) (hb : f.decode b = .fin q2 n2 j2) (h1 : n1 ≠ 0) (h2 : n2 ≠ 0) :
    f.Rounds .arith mode (q1 != q2) (dyad n1 j1 / dyad n2 j2) (fDiv f mode a b) := by
  have hs := FFmt.spelled_of_decode hf hb
  obtain ⟨hpos, hst⟩ := quotient_stands (Nat.pos_of_ne_zero h1) (Nat.pos_of_ne_zero h2) j1 j2 (hs.times_le hf)
  have h : fDiv f mode a b = f.round .arith mode (q1 != q2) (quotient n1 n2 j1 j2).1 (quotient n1 n2 j1 j2).2 := by
    rw [fDiv, ha, hb]
    cases n1 with
    | zero => exact absurd rfl h1
    | succ n => cases n2 with
      | zero => exact absurd rfl h2
      | succ n => rfl
  rw [h]
  exact FFmt.round_rounds hf .arith hmode _ hpos hst

/-- A finite dividend or divisor of 0. -/
theorem fDiv_zero (f : FFmt) (mode : Nat) {a b : Nat} {q1 q2 : Bool} {n1 n2 : Nat} {j1 j2 : Int} (ha : f.decode a = .fin q1 n1 j1)
    (hb : f.decode b = .fin q2 n2 j2) : (n1 = 0 → n2 = 0 → fDiv f mode a b = (f.qnan, cINV)) ∧
      (n1 ≠ 0 → n2 = 0 → fDiv f mode a b = (f.infBits (q1 != q2), cDZ)) ∧ (n1 = 0 → n2 ≠ 0 → fDiv f mode a b = (f.sgn (q1 != q2), 0)) := by
  rw [fDiv, ha, hb]
  cases n1 <;> cases n2 <;> simp [nanResult]

/-! ### vround (R142) -/

theorem roundElem_nan {p : Shape} {a : Nat} {q : Bool} (hty : tyFloat p.ty = true) (h : (tyFmt p.ty).decode a = .nan q) :
    roundElem p a = ((tyFmt p.ty).qnan, if q then cINV else 0) := by
  simp [roundElem, hty, h]

theorem roundElem_inf {p : Shape} {a : Nat} {q : Bool} (hty : tyFloat p.ty = true) (h : (tyFmt p.ty).decode a = .inf q) : roundElem p a = (a, 0) := by
  simp [roundElem, hty, h]

theorem roundElem_zero {p : Shape} {a : Nat} {q : Bool} {j : Int} (hty : tyFloat p.ty = true) (h : (tyFmt p.ty).decode a = .fin q 0 j) :
    roundElem p a = (a, 0) := by
  simp [roundElem, hty, h]

theorem roundElem_fin {p : Shape} {a n : Nat} {q : Bool} {j : Int} (hty : tyFloat p.ty = true) (h : (tyFmt p.ty).decode a = .fin q n j) (hn : n ≠ 0) :
    roundElem p a = (((tyFmt p.ty).ofExact .conv p.mode q (roundShift p.mode q n (-j)).1 0).1, 0) := by
  obtain ⟨k, rfl⟩ := Nat.exists_eq_succ_of_ne_zero hn
  simp [roundElem, hty, h]

/-- The integral value of a mode, as the bits of its sign and magnitude. -/
theorem FFmt.integral_bits {f : FFmt} (hf : f.Good) {mode : Nat} (hmode : mode < 4) (q : Bool) {n : Nat} {j : Int} (hs : f.Spelled n j) :
    ∃ (r : Int) (m : Nat) (i : Nat × Int), roundsInt mode q n j r ∧ (f.ofExact .conv mode q (roundShift mode q n (-j)).1 0).1 = f.sgn q + m ∧
      f.decode (f.sgn q + m) = .fin q i.1 i.2 ∧ ∀ z, z ≤ i.2 → z ≤ 0 → signedAt q i.1 i.2 z = r * 2 ^ (-z).toNat := by
  obtain ⟨m, k, i, hbits, hdec, hval⟩ := FFmt.ofExact_integral hf hmode q hs
  refine ⟨toIntMode mode q n j, m, (k, i), toIntMode_roundsInt hmode q n j, hbits, hdec, fun z hi hz => ?_⟩
  have h := dyad_in_places k hi hz
  rw [hval] at h
  have h' : (roundShift mode q n (-j)).1 * 2 ^ (-z).toNat = k * 2 ^ (i - z).toNat := by exact_mod_cast h
  rw [signedAt, ← h', toIntMode]
  push_cast
  cases q <;> simp

end Sys2Proof.Machine

namespace Sys2Proof.Proofs

open Sys2Proof.Machine Sys2Proof.Safety

/-- Settles O23, kind by kind of the operands. -/
theorem floatingSpecialCases : Obligations.FloatingSpecialCases := by
  unfold Obligations.FloatingSpecialCases
  intro f hfmt mode a b c hmode
  have hf := FFmt.good_of hfmt
  intro nan sig val le one fn
  refine ⟨fun h => ⟨?_, fun lo => fMinMax_nan f lo h⟩, fun h => ?_, fun ha hb hla hlb lo => fMinMax_spec hf lo ha hb hla hlb, ?_, ?_, ?_, ?_, ?_,
    ?_, ?_⟩
  · simp only [List.forall_mem_cons]
    refine ⟨fAddV_nan f mode h, ?_, ?_, fDiv_nan f mode h, List.forall_mem_nil _⟩
    · have := fAddV_nan f mode (x := f.decode a) (y := (f.decode b).neg) (by rwa [FVal.isNan_neg])
      rwa [FVal.signals_neg] at this
    · have := fMulAddV_nan f mode (x := f.decode a) (y := f.decode b) (c := none) (by simpa using h)
      rwa [Option.any_none, Bool.or_false] at this
  · exact fMulAddV_nan f mode (c := some (f.decode c)) h
  · intro q1 n1 j1 q2 n2 j2 ha hb
    obtain ⟨zero, byzero, ofzero⟩ := fDiv_zero f mode ha hb
    refine ⟨?_, ?_, ?_, ?_, ?_, zero, byzero, ofzero, fun h1 h2 => (fDiv_fin hf hmode ha hb h1 h2).roundsTo_div hf (Nat.pos_of_ne_zero h2)⟩
    · rw [fAdd, ha, hb]
      exact fAddV_fin f mode q1 n1 j1 q2 n2 j2
    · rw [fSub, ha, hb]
      obtain ⟨q, n, j, h, sum, sign⟩ := fAddV_fin f mode q1 n1 j1 (!q2) n2 j2
      refine ⟨q, n, j, h, fun z h1 h2 => ?_, fun h0 => (sign h0).trans (sign_of_not q1 q2 _)⟩
      have := sum z h1 h2
      rwa [signedAt_not, ← sub_eq_add_neg] at this
    · rw [fMul, ha, hb]
      rfl
    · intro q3 n3 j3 hc
      rw [fFma, ha, hb, hc]
      constructor
      · obtain ⟨q, n, j, h, sum, sign⟩ := fMulAddV_fin f mode q1 n1 j1 q2 n2 j2 q3 n3 j3
        refine ⟨q, n, j, h, fun z h1 h2 => ?_, fun h0 => ?_⟩
        · rw [← add_comm]
          exact sum z h1 h2
        · rw [sign h0]
          split
          · assumption
          · rfl
      · obtain ⟨q, n, j, h, sum, sign⟩ := fMulAddV_fin f mode (!q1) n1 j1 q2 n2 j2 q3 n3 j3
        rw [show ((!q1) != q2) = !(q1 != q2) by cases q1 <;> cases q2 <;> rfl] at sum sign
        refine ⟨q, n, j, h, fun z h1 h2 => ?_, fun h0 => (sign h0).trans ?_⟩
        · have := sum z h1 h2
          rwa [signedAt_not, ← sub_eq_neg_add] at this
        · generalize (q1 != q2) = p
          cases p <;> cases q3 <;> rfl
    · intro q3 hc
      rw [fFma, ha, hb, hc]
      rfl
  · intro q r ha hb
    rw [fAdd, fSub, fMul, fDiv, fFma, ha, hb]
    refine ⟨rfl, ?_, rfl, rfl, fun hc => fMulAddV_inf_inf f mode q r hc⟩
    cases q <;> cases r <;> rfl
  · intro q r n j ha hb
    refine ⟨?_, ?_, ?_, ?_, ?_, ?_, ?_, ?_, fun hc => ?_, ?_⟩
    all_goals simp only [fAdd, fSub, fMul, fFma, fDiv, ha, hb]
    · rfl
    · rfl
    · cases n <;> rfl
    · exact fMul_inf_fin f mode q r n j
    · rfl
    · rfl
    · cases n <;> cases q <;> cases r <;> rfl
    · exact fMulAddV_inf_comm f mode q r n j none
    · exact fMulAddV_inf_fin f mode q r n j hc
    · exact fMulAddV_inf_comm f mode q r n j (some (f.decode c))
  · rintro p hty rfl hp
    cases ha : (tyFmt p.ty).decode a with
    | nan q => exact roundElem_nan hty ha
    | inf q => exact roundElem_inf hty ha
    | fin q n j =>
      dsimp only
      split
      · next hn =>
        subst hn
        exact roundElem_zero hty ha
      · next hn =>
        obtain ⟨r, m, i, hr, hbits, hdec, hval⟩ := FFmt.integral_bits hf hp q (FFmt.spelled_of_decode hf ha)
        exact ⟨r, m, i, hr, (roundElem_fin hty ha hn).trans (by rw [hbits]), hdec, hval⟩
  · exact fun h n _ => specialV_nan f n mode h
  · intro q ha
    dsimp only [fn]
    rw [ha]
    refine ⟨rfl, rfl, rfl, rfl, rfl, rfl, ?_⟩
    cases q
    · exact congrArg (fun n => (n, 0)) f.plus_bias
    · rfl
  · intro q n j ha
    dsimp only [fn]
    rw [ha]
    have hs := FFmt.spelled_of_decode hf ha
    refine ⟨?_, ?_, fun hn => (specialV_rcp hf hmode q hs hn).roundsTo_div hf (Nat.pos_of_ne_zero hn), ?_, fun k hk hn => ?_, ?_⟩
    · rintro rfl
      refine ⟨congrArg (fun n => (n, 0)) f.plus_bias, rfl, rfl, rfl, rfl, rfl, ?_⟩
      exact congrArg (fun n => (n, 0)) (by rw [Nat.sub_mul, Nat.one_mul])
    · rintro hn rfl m hm
      obtain ⟨k, rfl⟩ := Nat.exists_eq_succ_of_ne_zero hn
      simp only [List.mem_cons, List.not_mem_nil, or_false] at hm
      rcases hm with rfl | rfl | rfl <;> rfl
    · rintro hn rfl
      exact ⟨(specialV_rsqrt hf hmode hs hn).roundsTo_rsqrt hf (Nat.pos_of_ne_zero hn), (specialV_sqrt hf hmode hs hn).roundsTo_sqrt hf⟩
    · rw [specialV_exp2 f mode q hn]
      exact (exp2Fin_whole hf hmode (Nat.pos_of_ne_zero hn) hk).roundsTo hf (fun _ _ => atMost_iff) fun _ _ => atMost_iff
    · rintro k rfl rfl
      exact specialV_log2_two_pow f mode k j

end Sys2Proof.Proofs
end

section
/-! SUPPORT. The bits of a tile: what a read returns and what writes leave (R174, R177, R178). -/

namespace Sys2Proof.Machine

open Sys2Proof.Safety

/-- Bit j of a tile; none beyond its bytes. -/
def Tile.bit (t : Tile) (j : Nat) : Bool := decide (j < 8 * t.size) && t.data.getLsbD j

/-- A tile with other bytes. -/
def Tile.withData (t : Tile) (d : TileBytes) : Tile := { t with data := d }

@[simp] theorem Tile.size_withData (t : Tile) (d : TileBytes) : (t.withData d).size = t.size := rfl

theorem Tile.bit_of_ge {t : Tile} {j : Nat} (h : 8 * t.size ≤ j) : t.bit j = false := by
  unfold Tile.bit
  rw [decide_eq_false (Nat.not_lt.2 h), Bool.false_and]

/-- A read returns the tile's bits. -/
theorem Tile.read_getLsbD (t : Tile) (o n j : Nat) : (t.read o n).getLsbD j = (decide (j < 8 * n) && t.bit (8 * o + j)) := by
  unfold Tile.read
  split
  · next h => rw [Tile.bit_of_ge (by omega)]; simp
  · next h =>
    have hlt : j < 8 * n → (decide (j < 8 * Nat.min n (t.size - o)) = decide (8 * o + j < 8 * t.size)) := fun hj => by
      rw [decide_eq_decide]
      have : Nat.min n (t.size - o) = min n (t.size - o) := rfl
      omega
    by_cases hj : j < 8 * n
    · simp only [BitVec.getLsbD_setWidth, fld, BitVec.getLsbD_extractLsb', Tile.bit, hj, hlt hj, decide_true, Bool.true_and]
    · simp [hj]

/-- Reads of equal bits are equal. -/
theorem Tile.read_congr {t u : Tile} {o n : Nat} (h : ∀ j, j < 8 * n → t.bit (8 * o + j) = u.bit (8 * o + j)) : t.read o n = u.read o n := by
  ext j hj
  rw [← BitVec.getLsbD_eq_getElem, ← BitVec.getLsbD_eq_getElem, Tile.read_getLsbD, Tile.read_getLsbD, h j hj]

theorem Tile.write_eq_withData (t : Tile) (o n : Nat) (v : BitVec (8 * n)) : t.write o n v = t.withData (t.write o n v).data := by
  unfold Tile.write
  split <;> rfl

theorem Tile.withData_write (t : Tile) (o n : Nat) (v : BitVec (8 * n)) (d : TileBytes) : (t.write o n v).withData d = t.withData d := by
  unfold Tile.write
  split <;> rfl

@[simp] theorem Tile.size_write (t : Tile) (o n : Nat) (v : BitVec (8 * n)) : (t.write o n v).size = t.size := by
  rw [Tile.write_eq_withData, Tile.size_withData]

/-- A write replaces the bits of its bytes that the tile has. -/
theorem Tile.bit_write {t : Tile} (ht : t.size ≤ 65536) (o n : Nat) (v : BitVec (8 * n)) (j : Nat) :
    (t.write o n v).bit j = if 8 * o ≤ j ∧ j < 8 * o + 8 * n then decide (j < 8 * t.size) && v.getLsbD (j - 8 * o) else t.bit j := by
  by_cases hj : j < 8 * t.size
  · unfold Tile.bit
    rw [Tile.size_write, decide_eq_true hj, Bool.true_and, Bool.true_and, Bool.true_and]
    unfold Tile.write
    split
    · next h => rw [if_neg (by omega)]
    · next h =>
      have hmin : Nat.min n (t.size - o) = min n (t.size - o) := rfl
      rw [putBits_getLsbD _ _ _ _ _ (by omega), BitVec.getLsbD_setWidth]
      by_cases hin : 8 * o ≤ j ∧ j < 8 * o + 8 * n
      · rw [if_pos (by omega), if_pos hin, decide_eq_true (by omega), Bool.true_and]
      · rw [if_neg (by omega), if_neg hin]
  · rw [Tile.bit_of_ge (by rw [Tile.size_write]; omega), Tile.bit_of_ge (t := t) (by omega), decide_eq_false hj, Bool.false_and, ite_self]

/-! ### Passes of writes -/

/-- n bytes of each of a list of places written. -/
def Tile.writes {α : Type} (n : Nat) (place : α → Nat) (val : α → BitVec (8 * n)) (t : Tile) (l : List α) : Tile :=
  l.foldl (fun u a => u.write (place a) n (val a)) t

theorem Tile.writes_eq_withData {α : Type} (n : Nat) (place : α → Nat) (val : α → BitVec (8 * n)) (t : Tile) (l : List α) :
    Tile.writes n place val t l = t.withData (Tile.writes n place val t l).data := by
  induction l generalizing t with
  | nil => rfl
  | cons a r ih =>
    exact (ih (t.write (place a) n (val a))).trans (Tile.withData_write t _ _ _ _)

/-- Writes to places apart give each place its own value, and leave the rest. -/
theorem Tile.bit_writes {α : Type} (n : Nat) (place : α → Nat) (val : α → BitVec (8 * n)) (t : Tile) (ht : t.size ≤ 65536) (l : List α)
    (hapart : l.Pairwise fun a b => place a + n ≤ place b ∨ place b + n ≤ place a) :
    let u := Tile.writes n place val t l
    (∀ a ∈ l, ∀ x, x < 8 * n → 8 * place a + x < 8 * t.size → u.bit (8 * place a + x) = (val a).getLsbD x) ∧
    ∀ j, (∀ a ∈ l, ¬(8 * place a ≤ j ∧ j < 8 * place a + 8 * n)) → u.bit j = t.bit j := by
  induction l generalizing t with
  | nil => exact ⟨fun a ha => absurd ha (List.not_mem_nil), fun _ _ => rfl⟩
  | cons a r ih =>
    obtain ⟨hp, hr⟩ := List.pairwise_cons.1 hapart
    obtain ⟨each, rest⟩ := ih (t.write (place a) n (val a)) (by rwa [Tile.size_write]) hr
    rw [Tile.size_write] at each
    refine ⟨fun b hb x hx hin => ?_, fun j hj => ?_⟩
    · rcases List.mem_cons.1 hb with rfl | hb
      · refine (rest _ fun c hc h => ?_).trans ?_
        · rcases hp c hc with h' | h' <;> omega
        · rw [Tile.bit_write ht, if_pos (by omega), decide_eq_true hin, Bool.true_and, Nat.add_sub_cancel_left]
      · exact each b hb x hx hin
    · refine (rest j fun c hc => hj c (.tail _ hc)).trans ?_
      rw [Tile.bit_write ht, if_neg (hj a (.head _))]

end Sys2Proof.Machine
end

section
/-! PROOF. Plane formats (O37): the code of an element and the scale of a block (R118, R119). -/

namespace Sys2Proof.Machine

open Sys2Proof.Safety

/-! ### Codes (R118, R119) -/

theorem elemExact_eq (ty v : Nat) : elemExact ty v = elemWorth ty v := rfl

/-- A clamped value, and whether it was clamped. -/
theorem clampConv_spec {lo hi : Int} (h : lo ≤ hi) (r : Int) : (clampConv lo hi r).1 = max lo (min hi r) ∧
    ((clampConv lo hi r).2 = cCONV ↔ r < lo ∨ hi < r) ∧ ((clampConv lo hi r).2 = 0 ∨ (clampConv lo hi r).2 = cCONV) := by
  have hne : (0 : BitVec 12) ≠ cCONV := by decide
  unfold clampConv
  split
  · next h1 => exact ⟨by dsimp only; omega, ⟨fun _ => .inl h1, fun _ => rfl⟩, .inr rfl⟩
  · split
    · next h2 => exact ⟨by dsimp only; omega, ⟨fun _ => .inr h2, fun _ => rfl⟩, .inr rfl⟩
    · exact ⟨by dsimp only; omega, ⟨fun k => absurd k hne, fun k => by omega⟩, .inl rfl⟩

/-- An integer is itself in every mode. -/
theorem toIntMode_int (mode : Nat) (x : Int) : toIntMode mode (decide (x < 0)) x.natAbs 0 = x := by
  simp only [toIntMode, roundShift, neg_zero, le_refl, if_true, Int.natAbs_zero, pow_zero, mul_one, decide_eq_true_eq]
  split <;> omega

/-- The code of an element, against the scale exponent of its block where the format has scales. -/
def encodeElem (apf : Bool) (n : Nat) (se : Int) (ty v : Nat) : Int × BitVec 12 := if apf then encodeApf n se ty v else encodeBpn n ty v

theorem encodeBpn_worth {n ty v : Nat} {z : Bool} {m : Nat} {e : Int} (h : elemWorth ty v = some (z, m, e)) :
    encodeBpn n ty v = clampConv (-(2 ^ (n - 1) : Nat)) ((2 ^ (n - 1) : Nat) - 1) (toIntMode 0 z m e) := by
  unfold elemWorth at h
  unfold encodeBpn
  by_cases hf : tyFloat ty = true
  · rw [if_pos hf] at h ⊢
    cases hd : (tyFmt ty).decode v with
    | nan q => simp [hd] at h
    | inf s => simp [hd] at h
    | fin s k i =>
      simp only [hd, Option.some.injEq, Prod.mk.injEq] at h
      obtain ⟨rfl, rfl, rfl⟩ := h
      rfl
  · rw [if_neg hf] at h ⊢
    simp only [Option.some.injEq, Prod.mk.injEq] at h
    obtain ⟨rfl, rfl, rfl⟩ := h
    rw [toIntMode_int]

theorem encodeBpn_none {n ty v : Nat} (h : elemWorth ty v = none) : encodeBpn n ty v = ((match (tyFmt ty).decode v with
    | .inf z => if z then -(2 ^ (n - 1) : Nat) else (2 ^ (n - 1) : Nat) - 1
    | _ => 0), cCONV) := by
  unfold elemWorth at h
  unfold encodeBpn
  by_cases hf : tyFloat ty = true
  · rw [if_pos hf] at h ⊢
    cases hd : (tyFmt ty).decode v with
    | nan q => rfl
    | inf s => rfl
    | fin s k i => simp [hd] at h
  · rw [if_neg hf] at h
    cases h

/-- An element's code is the one that its format gives it. -/
theorem encodeElem_codeOf (apf : Bool) (n : Nat) (se : Int) (ty v : Nat) :
    codeOf ty n (if apf then some se else none) v (encodeElem apf n se ty v).1 ((encodeElem apf n se ty v).2 = cCONV) ∧
    ((encodeElem apf n se ty v).2 = 0 ∨ (encodeElem apf n se ty v).2 = cCONV) := by
  have hp := Nat.two_pow_pos (n - 1)
  unfold codeOf
  cases hw : elemWorth ty v with
  | none =>
    cases apf with
    | true =>
      have h : encodeElem true n se ty v = (0, cCONV) := by simp [encodeElem, encodeApf, elemExact_eq, hw]
      rw [h]
      exact ⟨⟨rfl, rfl⟩, .inr rfl⟩
    | false =>
      have h : encodeElem false n se ty v = encodeBpn n ty v := rfl
      rw [h, encodeBpn_none hw]
      exact ⟨⟨rfl, rfl⟩, .inr rfl⟩
  | some w =>
    obtain ⟨z, m, e⟩ := w
    have h : encodeElem apf n se ty v = clampConv (-(2 ^ (n - 1) : Nat)) ((2 ^ (n - 1) : Nat) - 1)
        (toIntMode 0 z m (e - (if apf then some se else none).getD 0)) := by
      cases apf with
      | true => simp [encodeElem, encodeApf, elemExact_eq, hw]
      | false => simp [encodeElem, encodeBpn_worth hw]
    obtain ⟨hval, hconv, hcause⟩ := clampConv_spec (show -((2 ^ (n - 1) : Nat) : Int) ≤ (2 ^ (n - 1) : Nat) - 1 by omega)
      (toIntMode 0 z m (e - (if apf then some se else none).getD 0))
    rw [← h] at hval hconv hcause
    exact ⟨⟨_, toIntMode_roundsInt (by decide) z m _, hval, hconv⟩, hcause⟩

/-! ### The top of a block (R119) -/

/-- floor(log2 |x|) of an element that is a number other than 0. -/
def logOf (ty v : Nat) : Option Int := (elemWorth ty v).bind fun w => if w.2.1 = 0 then none else some (fvLog w.2.1 w.2.2)

/-- An element reaches 2^k exactly where its logarithm is at least k. -/
theorem reaches_iff (ty v : Nat) (k : Int) :
    (∃ z m e, elemWorth ty v = some (z, m, e) ∧ m ≠ 0 ∧ atMost 1 k m e) ↔ ∃ x, logOf ty v = some x ∧ k ≤ x := by
  have log {m : Nat} (hm : m ≠ 0) (e : Int) : atMost 1 k m e ↔ k ≤ fvLog m e := by
    obtain ⟨lo, hi⟩ := fvLog_bounds (Nat.pos_of_ne_zero hm) e
    rw [atMost_iff]
    refine ⟨fun h => ?_, fun h => (dyad_mono 1 h).trans lo⟩
    have hlt := h.trans_lt hi
    rw [dyad_one, dyad_one] at hlt
    exact Int.lt_add_one_iff.1 ((zpow_lt_zpow_iff_right₀ one_lt_two).1 hlt)
  unfold logOf
  cases elemWorth ty v with
  | none => simp
  | some w =>
    obtain ⟨z, m, e⟩ := w
    simp only [Option.bind_some, Option.some.injEq, Prod.mk.injEq]
    constructor
    · rintro ⟨_, _, _, ⟨rfl, rfl, rfl⟩, hm, h⟩
      exact ⟨_, if_neg hm, (log hm e).1 h⟩
    · rintro ⟨x, hx, h⟩
      split at hx
      · cases hx
      · next hm =>
        cases hx
        exact ⟨z, m, e, ⟨rfl, rfl, rfl⟩, hm, (log hm e).2 h⟩

/-- The greater of what has been found and an element's logarithm. -/
def topStep (ty : Nat) (b : Option Int) (v : Nat) : Option Int := (logOf ty v).elim b fun y => some (b.elim y fun x => max x y)

theorem foldl_topStep_some (ty : Nat) (l : List Nat) (x : Int) : l.foldl (topStep ty) (some x) = some ((l.filterMap (logOf ty)).foldl max x) := by
  induction l generalizing x with
  | nil => rfl
  | cons v r ih =>
    cases h : logOf ty v with
    | none => rw [List.foldl_cons, List.filterMap_cons_none h, topStep, h, Option.elim_none, ih]
    | some y => rw [List.foldl_cons, List.filterMap_cons_some h, topStep, h, Option.elim_some, Option.elim_some, ih, List.foldl_cons]

theorem foldl_topStep_none (ty : Nat) (l : List Nat) : l.foldl (topStep ty) none = (l.filterMap (logOf ty)).max? := by
  induction l with
  | nil => rfl
  | cons v r ih =>
    cases h : logOf ty v with
    | none => rw [List.foldl_cons, List.filterMap_cons_none h, topStep, h, Option.elim_none, ih]
    | some y => rw [List.foldl_cons, List.filterMap_cons_some h, topStep, h, Option.elim_some, Option.elim_none, foldl_topStep_some, List.max?_cons']

theorem blockExp_eq (ty : Nat) (l : List Nat) : blockExp ty l = (l.filterMap (logOf ty)).max?.getD (-133) := by
  have hstep : (fun (b : Option Int) v => match elemExact ty v with
      | some (_, m, e) =>
        if m = 0 then b
        else match b with
          | some x => some (if x < fvLog m e then fvLog m e else x)
          | none => some (fvLog m e)
      | none => b) = topStep ty := by
    funext b v
    unfold topStep logOf
    rw [elemExact_eq]
    cases elemWorth ty v with
    | none => rfl
    | some w =>
      obtain ⟨z, m, e⟩ := w
      by_cases hm : m = 0
      · simp [hm]
      · cases b with
        | none => simp [hm]
        | some x => simp only [hm, if_false, Option.bind_some, Option.elim_some, Option.some.injEq]; omega
  rw [← foldl_topStep_none, ← hstep]
  rfl

theorem blockExp_top (ty : Nat) (l : List Nat) : blockTop ty l (blockExp ty l) := by
  unfold blockTop
  simp only [reaches_iff]
  rw [blockExp_eq]
  cases h : (l.filterMap (logOf ty)).max? with
  | none =>
    have hnone : ∀ v ∈ l, logOf ty v = none := fun v hv => List.filterMap_eq_nil_iff.1 (List.max?_eq_none_iff.1 h) v hv
    refine ⟨fun _ => rfl, ?_⟩
    rintro ⟨v, hv, k, x, hx, -⟩
    rw [hnone v hv] at hx
    cases hx
  | some x =>
    obtain ⟨hmem, hmax⟩ := List.max?_eq_some_iff.1 h
    obtain ⟨v, hv, hx⟩ := List.mem_filterMap.1 hmem
    refine ⟨fun hno => (hno v hv x ⟨x, hx, le_refl x⟩).elim, fun _ => ⟨⟨v, hv, x, hx, le_refl x⟩, ?_⟩⟩
    rintro w hw ⟨y, hy, hle⟩
    have := hmax y (List.mem_filterMap.2 ⟨w, hw, hy⟩)
    simp only [Option.getD_some] at hle
    omega

/-! ### The scale of a block (R119, R120) -/

theorem tyFmt_good (ty : Nat) : (tyFmt ty).Good := by
  refine FFmt.good_of ?_
  unfold tyFmt
  split
  · exact .inl rfl
  · split
    · exact .inr (.inl rfl)
    · exact .inr (.inr rfl)

theorem tyBits_le (ty : Nat) : tyBits ty ≤ 64 := by
  unfold tyBits
  (repeat' split) <;> decide

/-- The integer of an element is within the width of its type. -/
theorem tyInt_natAbs_lt (ty v : Nat) : (tyInt ty v).natAbs < 2 ^ 65 := by
  have hpow : 2 ^ tyBits ty ≤ 2 ^ 64 := Nat.pow_le_pow_right two_pos (tyBits_le ty)
  have hmod : v % 2 ^ tyBits ty < 2 ^ tyBits ty := Nat.mod_lt _ (Nat.two_pow_pos _)
  unfold tyInt signed
  split
  · split <;> omega
  · omega

/-- No element of any type reaches 2^128. -/
theorem logOf_le {ty v : Nat} {x : Int} (h : logOf ty v = some x) : x ≤ 127 := by
  obtain ⟨z, m, e, hw, hm, hreach⟩ := (reaches_iff ty v x).2 ⟨x, h, le_refl x⟩
  rw [atMost_iff] at hreach
  have small : dyad m e < dyad 1 128 := by
    unfold elemWorth at hw
    split at hw
    · have hf := tyFmt_good ty
      have hb := hf.bias_le
      cases hd : (tyFmt ty).decode v with
      | nan q => simp [hd] at hw
      | inf s => simp [hd] at hw
      | fin s k i =>
        simp only [hd, Option.some.injEq, Prod.mk.injEq] at hw
        obtain ⟨rfl, rfl, rfl⟩ := hw
        have hs := FFmt.spelled_of_decode hf hd
        calc dyad k i ≤ dyad k (tyFmt ty).high := dyad_mono k hs.high
          _ < dyad (2 ^ ((tyFmt ty).mb + 1)) (tyFmt ty).high := lt_of_le_of_ne (dyad_le_iff.2 hs.lt.le) fun h => hs.lt.not_ge (dyad_le_iff.1 h.ge)
          _ ≤ dyad 1 128 := by rw [dyad_two_pow]; exact dyad_mono 1 (by unfold FFmt.high; omega)
    · simp only [Option.some.injEq, Prod.mk.injEq] at hw
      obtain ⟨-, rfl, rfl⟩ := hw
      have hlt := tyInt_natAbs_lt ty v
      calc dyad (tyInt ty v).natAbs 0 ≤ dyad (2 ^ 65) 0 := dyad_le_iff.2 hlt.le
        _ < dyad 1 128 := by rw [dyad_two_pow, dyad_one, dyad_one]; exact zpow_lt_zpow_right₀ one_lt_two (by norm_num)
  have hlt := hreach.trans_lt small
  rw [dyad_one, dyad_one] at hlt
  have := (zpow_lt_zpow_iff_right₀ (one_lt_two (α := ℝ))).1 hlt
  omega

theorem blockExp_le (ty : Nat) (l : List Nat) : blockExp ty l ≤ 127 := by
  rw [blockExp_eq]
  cases h : (l.filterMap (logOf ty)).max? with
  | none => decide
  | some x =>
    obtain ⟨hmem, -⟩ := List.max?_eq_some_iff.1 h
    obtain ⟨v, -, hx⟩ := List.mem_filterMap.1 hmem
    exact logOf_le hx

theorem scaleExp_eq (n : Nat) (e : Int) : scaleExp n e = max (e - n + 2) (-133) := by
  unfold scaleExp
  split <;> omega

/-- The scale bits of an exponent spell 2^se in BF16. -/
theorem scaleBits_spec {se : Int} (hlo : -133 ≤ se) (hhi : se ≤ 127) : scaleIs (scaleBits se) se ∧ scaleBits se < 2 ^ 16 := by
  have hf : bf16.Good := FFmt.good_of (.inr (.inl rfl))
  have spells {m : Nat} {j : Int} {v : Nat} (h : bf16.decode v = .fin false m j) (hv : dyad m j = dyad 1 se) : scaleIs v se :=
    ⟨m, j, h, atMost_iff.2 hv.le, atMost_iff.2 hv.ge⟩
  unfold scaleBits
  split
  · next hn =>
    have hd := FFmt.decode_pack hf false (E := (se + 127).toNat) (M := 0) (by change _ < 255; omega) (Nat.two_pow_pos _)
    rw [if_neg (by omega), FFmt.sgn_false, Nat.zero_add, Nat.add_zero, Nat.add_zero] at hd
    refine ⟨spells hd ?_, by omega⟩
    rw [dyad_two_pow]
    congr 1
    change (7 : Int) + (((se + 127).toNat : Int) - 127 - 7) = se
    omega
  · next hn =>
    have hM : 2 ^ (se + 133).toNat < 2 ^ 7 := Nat.pow_lt_pow_right (by decide) (by omega)
    have hd := FFmt.decode_pack hf false (E := 0) (M := 2 ^ (se + 133).toNat) (by decide) hM
    rw [if_pos rfl, FFmt.sgn_false, Nat.zero_mul, Nat.zero_add] at hd
    refine ⟨spells hd ?_, by omega⟩
    rw [dyad_two_pow]
    congr 1
    change ((se + 133).toNat : Int) + -133 = se
    omega

end Sys2Proof.Machine
end

section
/-! PROOF. `tplane` (O37): the planes and scales that it writes (R116, R119, R121, R183). -/

namespace Sys2Proof.Machine

open Sys2Proof.Safety

/-! ### Lists by number -/

/-- A flattened list of rows of one length, by number. -/
theorem flatMap_range {α : Type} (n q : Nat) (f : Nat → Nat → α) :
    (List.range q).flatMap (fun b => (List.range n).map (f b)) = (List.range (q * n)).map fun j => f (j / n) (j % n) := by
  rcases Nat.eq_zero_or_pos n with rfl | hn
  · simp
  · induction q with
    | zero => simp
    | succ q ih =>
      rw [List.range_succ, List.flatMap_append, ih, Nat.succ_mul, List.range_add, List.map_append, List.map_map]
      congr 1
      simp only [List.flatMap_cons, List.flatMap_nil, List.append_nil]
      refine List.map_congr_left fun j hj => ?_
      have hj' := List.mem_range.1 hj
      simp only [Function.comp_apply, Nat.mul_comm q n, Nat.mul_add_div hn, Nat.div_eq_of_lt hj', Nat.add_zero, Nat.mul_add_mod, Nat.mod_eq_of_lt hj']

/-- A group of 64 of a list by number. -/
theorem group_range {α : Type} {k g : Nat} (h : 64 * g + 64 ≤ k) (f : Nat → α) :
    (((List.range k).map f).drop (64 * g)).take 64 = (List.range 64).map fun j => f (64 * g + j) := by
  refine List.ext_getElem (by simp; omega) fun j h1 h2 => ?_
  simp

/-- A pass over three results apart. -/
theorem foldl_triple {α β γ δ : Type} (l : List α) (f : β → α → β) (g : γ → α → γ) (h : δ → α → δ) (b : β) (c : γ) (d : δ) :
    l.foldl (fun p a => (f p.1 a, g p.2.1 a, h p.2.2 a)) (b, c, d) = (l.foldl f b, l.foldl g c, l.foldl h d) := by
  induction l generalizing b c d with
  | nil => rfl
  | cons a r ih => exact ih _ _ _

/-! ### The parts of a row -/

/-- Causes of conversions gathered. -/
theorem foldl_conv {α : Type} (l : List α) (f : α → BitVec 12) (hf : ∀ a ∈ l, f a = 0 ∨ f a = cCONV) (c : BitVec 12) (hc : c = 0 ∨ c = cCONV) :
    (l.foldl (fun z a => z ||| f a) c = 0 ∨ l.foldl (fun z a => z ||| f a) c = cCONV) ∧
    (l.foldl (fun z a => z ||| f a) c = cCONV ↔ c = cCONV ∨ ∃ a ∈ l, f a = cCONV) := by
  induction l generalizing c with
  | nil => exact ⟨hc, by simp⟩
  | cons a r ih =>
    have hne : (0 : BitVec 12) ≠ cCONV := by decide
    have ha := hf a (.head _)
    have hor : (c ||| f a = 0 ∨ c ||| f a = cCONV) ∧ (c ||| f a = cCONV ↔ c = cCONV ∨ f a = cCONV) := by
      rcases hc with rfl | rfl <;> rcases ha with h | h <;> rw [h] <;> decide
    obtain ⟨h1, h2⟩ := ih (fun b hb => hf b (.tail _ hb)) (c ||| f a) hor.1
    exact ⟨h1, by rw [List.foldl_cons, h2, hor.2, List.exists_mem_cons_iff, or_assoc]⟩

/-- The elements of a row of the source of `tplane`. -/
def rowElem (A : Tile) (i j : Nat) : Nat := (A.read (i * A.rowBytes + j * (tyBits A.fmt.toNat / 8)) (tyBits A.fmt.toNat / 8)).toNat

/-- The scale exponent of a group of 64 elements of a row. -/
def groupScale (ty n : Nat) (elem : Nat → Nat) (g : Nat) : Int := scaleExp n (blockExp ty ((List.range 64).map fun j => elem (64 * g + j)))

/-- The code of element j of a row. -/
def rowCode (apf : Bool) (n ty : Nat) (elem : Nat → Nat) (j : Nat) : Int × BitVec 12 :=
  encodeElem apf n (groupScale ty n elem (j / 64)) ty (elem j)

/-- The word of plane m % n of group m / n. -/
def planeWord (n : Nat) (code : Nat → Int × BitVec 12) (m : Nat) : Nat :=
  packNat 1 ((List.range 64).map fun j => planeBit n (m % n) (code (64 * (m / n) + j)).1)

/-- A block encoded: its codes, with causes, and its scale (R118, R119). -/
def encodeBlock (apf : Bool) (n ty : Nat) (l : List Nat) : List (Int × BitVec 12) × Nat :=
  (l.map (encodeElem apf n (scaleExp n (blockExp ty l)) ty), scaleBits (scaleExp n (blockExp ty l)))

/-- The plane words of a list of codes, by groups of 64 (R116). -/
def planeWords (n : Nat) (codes : List (Int × BitVec 12)) : List Nat :=
  ((List.range (codes.length / 64)).map fun g => ((codes.drop (64 * g)).take 64).map Prod.fst).flatMap fun g =>
    (List.range n).map fun p => packNat 1 (g.map (planeBit n p))

theorem encodeRow_eq (apf : Bool) (n ty : Nat) (row : List Nat) : encodeRow apf n ty 64 row =
    let enc := ((List.range (ceilDiv row.length 64)).map fun b => (row.drop (b * 64)).take 64).map (encodeBlock apf n ty)
    (planeWords n (enc.flatMap Prod.fst), enc.map Prod.snd, (enc.flatMap Prod.fst).foldl (fun z q => z ||| q.2) 0) :=
  rfl

theorem encodeBlock_group (apf : Bool) (n ty : Nat) (elem : Nat → Nat) (g : Nat) :
    encodeBlock apf n ty ((List.range 64).map fun j => elem (64 * g + j)) =
    ((List.range 64).map fun j => rowCode apf n ty elem (64 * g + j), scaleBits (groupScale ty n elem g)) := by
  unfold encodeBlock
  rw [List.map_map]
  refine congrArg₂ Prod.mk (List.map_congr_left fun j hj => ?_) rfl
  have : (64 * g + j) / 64 = g := by have := List.mem_range.1 hj; omega
  rw [rowCode, this]
  rfl

theorem planeWords_range (n q : Nat) (code : Nat → Int × BitVec 12) :
    planeWords n ((List.range (64 * q)).map code) = (List.range (q * n)).map (planeWord n code) := by
  have hlen : ((List.range (64 * q)).map code).length / 64 = q := by simp
  have hgroups : (List.range q).map (fun g => ((((List.range (64 * q)).map code).drop (64 * g)).take 64).map Prod.fst) =
      (List.range q).map fun g => (List.range 64).map fun j => (code (64 * g + j)).1 := by
    refine List.map_congr_left fun g hg => ?_
    have := List.mem_range.1 hg
    rw [group_range (by omega), List.map_map]
    rfl
  unfold planeWords
  rw [hlen, hgroups, List.flatMap_map]
  simp only [List.map_map]
  exact flatMap_range n q fun g p => packNat 1 ((List.range 64).map fun j => planeBit n p (code (64 * g + j)).1)

/-- What `encodeRow` makes of a row of whole groups: plane words, scales and causes, each by number. -/
theorem encodeRow_range (apf : Bool) (n ty q : Nat) (elem : Nat → Nat) : encodeRow apf n ty 64 ((List.range (64 * q)).map elem) =
    ((List.range (q * n)).map (planeWord n (rowCode apf n ty elem)), (List.range q).map fun g => scaleBits (groupScale ty n elem g),
      (List.range (64 * q)).foldl (fun z j => z ||| (rowCode apf n ty elem j).2) 0) := by
  have hceil : ceilDiv (64 * q) 64 = q := by unfold ceilDiv; omega
  have henc : ((List.range q).map fun b => (((List.range (64 * q)).map elem).drop (b * 64)).take 64).map (encodeBlock apf n ty) =
      (List.range q).map fun g => ((List.range 64).map fun j => rowCode apf n ty elem (64 * g + j), scaleBits (groupScale ty n elem g)) := by
    rw [List.map_map]
    refine List.map_congr_left fun b hb => ?_
    have := List.mem_range.1 hb
    rw [Function.comp_apply, Nat.mul_comm b 64, group_range (by omega), encodeBlock_group]
  have hcodes : (List.range q).flatMap (fun b => (List.range 64).map fun j => rowCode apf n ty elem (64 * b + j)) =
      (List.range (64 * q)).map (rowCode apf n ty elem) := by
    rw [flatMap_range 64 q fun b j => rowCode apf n ty elem (64 * b + j), Nat.mul_comm q 64]
    refine List.map_congr_left fun j _ => ?_
    rw [Nat.div_add_mod]
  rw [encodeRow_eq, List.length_map, List.length_range, hceil]
  dsimp only
  rw [henc, List.flatMap_map, hcodes, planeWords_range, List.map_map, List.foldl_map]
  rfl

/-! ### The three results (R183) -/

/-- The elements of a row, split. -/
theorem splitNat_row (A : Tile) (i : Nat) {k : Nat} (hk : 8 * A.rowBytes = tyBits A.fmt.toNat * k) (h8 : tyBits A.fmt.toNat % 8 = 0) :
    splitNat (tyBits A.fmt.toNat) k (A.read (i * A.rowBytes) A.rowBytes).toNat = (List.range k).map (rowElem A i) := by
  refine List.ext_getElem (by simp [splitNat_length]) fun j h1 h2 => ?_
  have hj : j < k := by simpa using h2
  rw [splitNat_getElem, List.getElem_map, List.getElem_range, rowElem]
  refine Nat.eq_of_testBit_eq fun b => ?_
  rw [Nat.testBit_mod_two_pow, Nat.testBit_div_two_pow, BitVec.testBit_toNat, BitVec.testBit_toNat, Tile.read_getLsbD, Tile.read_getLsbD]
  generalize tyBits A.fmt.toNat = w at *
  obtain ⟨c, rfl⟩ : ∃ c, w = 8 * c := ⟨w / 8, by omega⟩
  rw [Nat.mul_div_cancel_left c (by decide)]
  by_cases hb : b < 8 * c
  · have hin : 8 * c * j + b < 8 * A.rowBytes := by
      rw [hk]
      calc 8 * c * j + b < 8 * c * (j + 1) := by rw [Nat.mul_succ]; omega
        _ ≤ 8 * c * k := Nat.mul_le_mul_left _ hj
    have hpos : 8 * (i * A.rowBytes) + (b + 8 * c * j) = 8 * (i * A.rowBytes + j * c) + b := by ring
    rw [decide_eq_true hb, decide_eq_true (by omega : b + 8 * c * j < 8 * A.rowBytes), Bool.true_and, Bool.true_and, hpos, Bool.true_and]
  · rw [decide_eq_false hb, Bool.false_and, Bool.false_and]

/-- The planes of row i. -/
def rowPlanes (A D : Tile) (q i : Nat) : List Nat :=
  (List.range (q * fmtPlanes D.fmt.toNat)).map
    (planeWord (fmtPlanes D.fmt.toNat) (rowCode (fmtApf D.fmt.toNat) (fmtPlanes D.fmt.toNat) A.fmt.toNat (rowElem A i)))

/-- The rows of the planes, written. -/
def planesD (A D : Tile) (q : Nat) : Tile :=
  Tile.writes (fmtPlanes D.fmt.toNat * (64 * q) / 8) (fun i => i * D.rowBytes) (fun i => packElems _ 64 (rowPlanes A D q i)) D (List.range A.rows)

/-- The rows and groups of a tile's scales. -/
def scalePlaces (A : Tile) (q : Nat) : List (Nat × Nat) := (List.range A.rows).flatMap fun i => (List.range q).map (Prod.mk i)

/-- The scales, written. -/
def planesC (A D C : Tile) (q : Nat) : Tile :=
  Tile.writes 2 (fun p => p.2 * C.rowBytes + 2 * p.1)
    (fun p => BitVec.ofNat _ (scaleBits (groupScale A.fmt.toNat (fmtPlanes D.fmt.toNat) (rowElem A p.1) p.2))) C (scalePlaces A q)

/-- The causes of a row. -/
def rowCauses (A D : Tile) (q i : Nat) : BitVec 12 :=
  (List.range (64 * q)).foldl
    (fun z j => z ||| (rowCode (fmtApf D.fmt.toNat) (fmtPlanes D.fmt.toNat) A.fmt.toNat (rowElem A i) j).2) 0

theorem zipIdx_range_map {α : Type} (f : Nat → α) (q : Nat) : ((List.range q).map f).zipIdx = (List.range q).map fun g => (f g, g) :=
  List.ext_getElem (by simp) fun j h1 h2 => by simp

/-- The scales of a row, written. -/
def scaleRow (A D C : Tile) (q : Nat) (c : Tile) (i : Nat) : Tile :=
  if fmtApf D.fmt.toNat then
    (List.range q).foldl (fun t g => t.write (g * C.rowBytes + 2 * i) 2
      (BitVec.ofNat _ (scaleBits (groupScale A.fmt.toNat (fmtPlanes D.fmt.toNat) (rowElem A i) g)))) c
  else c

theorem foldl_scaleRow (A D C : Tile) (q : Nat) :
    (List.range A.rows).foldl (scaleRow A D C q) C = if fmtApf D.fmt.toNat then planesC A D C q else C := by
  unfold scaleRow
  cases fmtApf D.fmt.toNat with
  | true => simp only [if_true, planesC, scalePlaces, Tile.writes, List.foldl_flatMap, List.foldl_map]
  | false => simp

/-- `planesOf` by its three results. -/
theorem planesOf_eq {A D C : Tile} {q : Nat} (hk : 8 * A.rowBytes = tyBits A.fmt.toNat * (64 * q)) (h8 : tyBits A.fmt.toNat % 8 = 0)
    (hpos : 0 < tyBits A.fmt.toNat) : planesOf A D C =
      (planesD A D q, if fmtApf D.fmt.toNat then planesC A D C q else C, (List.range A.rows).foldl (fun z i => z ||| rowCauses A D q i) 0) := by
  have hdiv : A.rowBytes * 8 / tyBits A.fmt.toNat = 64 * q := by rw [Nat.mul_comm, hk, Nat.mul_div_cancel_left _ hpos]
  unfold planesOf
  dsimp only
  rw [hdiv]
  simp only [splitNat_row A _ hk h8, encodeRow_range, zipIdx_range_map, List.foldl_map]
  refine (foldl_triple (List.range A.rows)
    (fun d i => d.write (i * D.rowBytes) (fmtPlanes D.fmt.toNat * (64 * q) / 8) (packElems _ 64 (rowPlanes A D q i))) (scaleRow A D C q)
    (fun z i => z ||| rowCauses A D q i) D C 0).trans ?_
  rw [foldl_scaleRow]
  rfl

/-- A bit of words packed. -/
theorem packElems_getLsbD {w : Nat} (l : List Nat) {m b : Nat} (hb : b < 64) (hw : 64 * m + b < w) :
    (packElems w 64 l).getLsbD (64 * m + b) = (l.getD m 0).testBit b := by
  have h := congrArg (Nat.testBit · b) (packNat_digit 64 l m)
  simp only [Nat.testBit_mod_two_pow, hb, decide_true, Bool.true_and, Nat.testBit_div_two_pow] at h
  rw [packElems, BitVec.getLsbD_ofNat, decide_eq_true hw, Bool.true_and, Nat.add_comm, h]

/-- Bit b of a plane word is the plane's bit of its code (R116). -/
theorem planeWord_testBit (n : Nat) (code : Nat → Int × BitVec 12) (g : Nat) {p b : Nat} (hp : p < n) (hb : b < 64) :
    (planeWord n code (g * n + p)).testBit b = (BitVec.ofInt n (code (64 * g + b)).1).getLsbD (n - 1 - p) := by
  have hmod : (g * n + p) % n = p := by rw [Nat.mul_comm, Nat.mul_add_mod, Nat.mod_eq_of_lt hp]
  have hdiv : (g * n + p) / n = g := by rw [Nat.mul_comm, Nat.mul_add_div (by omega), Nat.div_eq_of_lt hp, Nat.add_zero]
  have h := packNat_digit 1 ((List.range 64).map fun j => planeBit n p (code (64 * g + j)).1) b
  rw [Nat.one_mul, pow_one, List.getD_eq_getElem _ _ (by simpa using hb), List.getElem_map, List.getElem_range] at h
  have hbit : planeBit n p (code (64 * g + b)).1 % 2 = bit ((BitVec.ofInt n (code (64 * g + b)).1).getLsbD (n - 1 - p)) := by
    rw [planeBit, Nat.mod_mod, ← BitVec.testBit_toNat, BitVec.toNat_ofInt, Nat.testBit_eq_decide_div_mod_eq]
    unfold ofIntBits bit
    split <;> simp_all
  rw [planeWord, hmod, hdiv, Nat.testBit_eq_decide_div_mod_eq, h, hbit]
  cases (BitVec.ofInt n (code (64 * g + b)).1).getLsbD (n - 1 - p) <;> rfl

/-! ### Where the writes fall -/

theorem Tile.rows_le (t : Tile) : t.rows ≤ 64 := by
  have := t.rowsm1.isLt
  unfold Tile.rows
  omega

/-- A place within a row. -/
theorem row_place {i rb o d : Nat} (h : o = i * rb + d) (hd : d < rb) : o / rb = i ∧ o % rb = d := by
  subst h
  rw [Nat.mul_comm]
  exact ⟨by rw [Nat.mul_add_div (by omega), Nat.div_eq_of_lt hd, Nat.add_zero], by rw [Nat.mul_add_mod, Nat.mod_eq_of_lt hd]⟩

theorem row_le {i j rb : Nat} (h : i < j) : i * rb + rb ≤ j * rb := by
  have := Nat.mul_le_mul_right rb (Nat.succ_le_of_lt h)
  rwa [Nat.succ_mul] at this

/-- Each bit of the planes is that of its code, and no other bit changes. -/
theorem planesD_bits {A D : Tile} {q : Nat} (hD : D.size ≤ 65536) (hrows : D.rows = A.rows) (hw : 8 * (fmtPlanes D.fmt.toNat * q) ≤ D.rowBytes) :
    (∀ i g p b, i < A.rows → g < q → p < fmtPlanes D.fmt.toNat → b < 64 →
      (planesD A D q).bit (8 * (i * D.rowBytes + 8 * fmtPlanes D.fmt.toNat * g + 8 * p) + b) =
      (BitVec.ofInt (fmtPlanes D.fmt.toNat) (rowCode (fmtApf D.fmt.toNat) (fmtPlanes D.fmt.toNat) A.fmt.toNat (rowElem A i)
        (64 * g + b)).1).getLsbD (fmtPlanes D.fmt.toNat - 1 - p)) ∧
    ∀ o, 8 * (fmtPlanes D.fmt.toNat * q) ≤ o % D.rowBytes → (planesD A D q).read o 1 = D.read o 1 := by
  have hbytes : fmtPlanes D.fmt.toNat * (64 * q) / 8 = 8 * (fmtPlanes D.fmt.toNat * q) := by
    rw [show fmtPlanes D.fmt.toNat * (64 * q) = 8 * (8 * (fmtPlanes D.fmt.toNat * q)) by ring, Nat.mul_div_cancel_left _ (by decide)]
  obtain ⟨each, rest⟩ := Tile.bit_writes (fmtPlanes D.fmt.toNat * (64 * q) / 8) (fun i => i * D.rowBytes)
    (fun i => packElems _ 64 (rowPlanes A D q i)) D hD (List.range A.rows)
    (List.pairwise_lt_range.imp fun h => .inl (by rw [hbytes]; have := row_le (rb := D.rowBytes) h; omega))
  refine ⟨fun i g p b hi hg hp hb => ?_, fun o ho => Tile.read_congr fun x hx => rest _ fun i hi h => ?_⟩
  · have hword : g * fmtPlanes D.fmt.toNat + p < q * fmtPlanes D.fmt.toNat := by have := row_le (rb := fmtPlanes D.fmt.toNat) hg; omega
    have hcomm : fmtPlanes D.fmt.toNat * q = q * fmtPlanes D.fmt.toNat := Nat.mul_comm _ q
    have hin : 64 * (g * fmtPlanes D.fmt.toNat + p) + b < 8 * (fmtPlanes D.fmt.toNat * (64 * q) / 8) := by rw [hbytes]; omega
    have hrow : i * D.rowBytes + D.rowBytes ≤ D.size := by
      rw [Tile.size, hrows]
      exact row_le hi
    have h := each i (List.mem_range.2 hi) _ hin (by rw [hbytes] at hin; omega)
    rw [packElems_getLsbD _ hb hin, rowPlanes, List.getD_eq_getElem _ _ (by simpa using hword), List.getElem_map, List.getElem_range,
      planeWord_testBit _ _ g hp hb] at h
    rw [← h]
    exact congrArg _ (by ring)
  · rw [hbytes] at h
    obtain ⟨-, hmod⟩ := row_place (i := i) (rb := D.rowBytes) (o := o) (d := o - i * D.rowBytes) (by omega) (by omega)
    omega

/-- Each scale is that of its row and group, and no other bytes change. -/
theorem planesC_reads {A D C : Tile} {q : Nat} (hC : C.size ≤ 65536) (hq : q ≤ C.rows) (hw : 128 ≤ C.rowBytes) :
    (∀ i g, i < A.rows → g < q → (planesC A D C q).read (g * C.rowBytes + 2 * i) 2 =
      BitVec.ofNat _ (scaleBits (groupScale A.fmt.toNat (fmtPlanes D.fmt.toNat) (rowElem A i) g))) ∧
    ∀ o, (q ≤ o / C.rowBytes ∨ 2 * A.rows ≤ o % C.rowBytes) → (planesC A D C q).read o 1 = C.read o 1 := by
  have hrows := A.rows_le
  have mem {p : Nat × Nat} : p ∈ scalePlaces A q ↔ p.1 < A.rows ∧ p.2 < q := by
    obtain ⟨i, g⟩ := p
    simp [scalePlaces]
  have nodup : (scalePlaces A q).Nodup := List.nodup_range.product List.nodup_range
  have hapart : (scalePlaces A q).Pairwise fun p r =>
      p.2 * C.rowBytes + 2 * p.1 + 2 ≤ r.2 * C.rowBytes + 2 * r.1 ∨ r.2 * C.rowBytes + 2 * r.1 + 2 ≤ p.2 * C.rowBytes + 2 * p.1 := by
    refine nodup.imp_of_mem fun {p r} hp hr hne => ?_
    obtain ⟨hp1, -⟩ := mem.1 hp
    obtain ⟨hr1, -⟩ := mem.1 hr
    rcases lt_trichotomy p.2 r.2 with h | h | h
    · have := row_le (rb := C.rowBytes) h
      omega
    · have hne1 : p.1 ≠ r.1 := fun h1 => hne (Prod.ext h1 h)
      rw [h]
      omega
    · have := row_le (rb := C.rowBytes) h
      omega
  obtain ⟨each, rest⟩ := Tile.bit_writes 2 (fun p : Nat × Nat => p.2 * C.rowBytes + 2 * p.1)
    (fun p => BitVec.ofNat _ (scaleBits (groupScale A.fmt.toNat (fmtPlanes D.fmt.toNat) (rowElem A p.1) p.2))) C hC (scalePlaces A q) hapart
  refine ⟨fun i g hi hg => ?_, fun o ho => Tile.read_congr fun x hx => rest _ fun p hp h => ?_⟩
  · have hin : g * C.rowBytes + C.rowBytes ≤ C.size := row_le (hg.trans_le hq)
    ext x hx
    rw [← BitVec.getLsbD_eq_getElem, ← BitVec.getLsbD_eq_getElem, Tile.read_getLsbD, decide_eq_true hx, Bool.true_and]
    exact each (i, g) (mem.2 ⟨hi, hg⟩) x hx (by dsimp only; omega)
  · obtain ⟨hp1, hp2⟩ := mem.1 hp
    obtain ⟨hdiv, hmod⟩ := row_place (i := p.2) (rb := C.rowBytes) (o := o) (d := o - p.2 * C.rowBytes) (by omega) (by omega)
    omega

/-- The causes of `tplane` are CONV exactly where an element sets it. -/
theorem planes_causes (A D : Tile) (q : Nat) :
    let z := (List.range A.rows).foldl (fun z i => z ||| rowCauses A D q i) 0
    (z = 0 ∨ z = cCONV) ∧ (z = cCONV ↔ ∃ i j, i < A.rows ∧ j < 64 * q ∧
      (rowCode (fmtApf D.fmt.toNat) (fmtPlanes D.fmt.toNat) A.fmt.toNat (rowElem A i) j).2 = cCONV) := by
  have hne : ¬(0 : BitVec 12) = cCONV := by decide
  have row (i : Nat) := foldl_conv (List.range (64 * q))
    (fun j => (rowCode (fmtApf D.fmt.toNat) (fmtPlanes D.fmt.toNat) A.fmt.toNat (rowElem A i) j).2)
      (fun j _ => (encodeElem_codeOf _ _ _ _ _).2) 0 (.inl rfl)
  obtain ⟨h1, h2⟩ := foldl_conv (List.range A.rows) (rowCauses A D q) (fun i _ => (row i).1) 0 (.inl rfl)
  refine ⟨h1, h2.trans ?_⟩
  have hrow (i : Nat) : rowCauses A D q i = cCONV ↔ ∃ j, j < 64 * q ∧
      (rowCode (fmtApf D.fmt.toNat) (fmtPlanes D.fmt.toNat) A.fmt.toNat (rowElem A i) j).2 = cCONV := by
    refine (row i).2.trans ?_
    simp only [hne, false_or, List.mem_range]
  simp only [hne, false_or, List.mem_range, hrow, exists_and_left]

/-- `planesOf` makes the planes and scales of its source (R116, R119, R121, R183). -/
theorem planesOf_made {A D C : Tile} {q : Nat} (hk : 8 * A.rowBytes = tyBits A.fmt.toNat * (64 * q)) (h8 : tyBits A.fmt.toNat % 8 = 0)
    (hpos : 0 < tyBits A.fmt.toNat) (hn : 2 ≤ fmtPlanes D.fmt.toNat) (hrows : D.rows = A.rows)
    (hwD : 8 * (fmtPlanes D.fmt.toNat * q) ≤ D.rowBytes) (hq : q ≤ C.rows) (hwC : 128 ≤ C.rowBytes) (hD : D.size ≤ 65536) (hC : C.size ≤ 65536) :
    planesMade A D C (planesOf A D C) := by
  rw [planesOf_eq hk h8 hpos]
  obtain ⟨bits, restD⟩ := planesD_bits (A := A) hD hrows hwD
  obtain ⟨scales, restC⟩ := planesC_reads (A := A) (D := D) hC hq hwC
  obtain ⟨cause, conv⟩ := planes_causes A D q
  have hcols : A.rowBytes / (tyBits A.fmt.toNat / 8) = 64 * q := by
    obtain ⟨c, hc⟩ : ∃ c, tyBits A.fmt.toNat = 8 * c := ⟨tyBits A.fmt.toNat / 8, by omega⟩
    rw [hc] at hk hpos
    rw [hc, Nat.mul_div_cancel_left c (by decide), show A.rowBytes = c * (64 * q) by
      rw [Nat.mul_assoc] at hk
      omega, Nat.mul_div_cancel_left _ (by omega)]
  have hgroups : 64 * q / 64 = q := Nat.mul_div_cancel_left q (by decide)
  have hplane : fmtPlanes D.fmt.toNat * (64 * q) / 8 = 8 * (fmtPlanes D.fmt.toNat * q) := by
    rw [show fmtPlanes D.fmt.toNat * (64 * q) = 8 * (8 * (fmtPlanes D.fmt.toNat * q)) by ring, Nat.mul_div_cancel_left _ (by decide)]
  unfold planesMade
  simp only [hcols, hgroups, hplane]
  refine ⟨fun i j => (rowCode (fmtApf D.fmt.toNat) (fmtPlanes D.fmt.toNat) A.fmt.toNat (rowElem A i) j).1,
    fun i g => groupScale A.fmt.toNat (fmtPlanes D.fmt.toNat) (rowElem A i) g,
    fun i j => (rowCode (fmtApf D.fmt.toNat) (fmtPlanes D.fmt.toNat) A.fmt.toNat (rowElem A i) j).2 = cCONV,
    fun i j _ _ => (encodeElem_codeOf _ _ _ _ _).1, fun hapf i g hi hg => ?_, fun i j p hi hj hp => ?_, fun o _ ho => restD o ho, fun o _ ho => ?_,
    cause, conv⟩
  · have htop := blockExp_le A.fmt.toNat ((List.range 64).map fun j => rowElem A i (64 * g + j))
    have hse : groupScale A.fmt.toNat (fmtPlanes D.fmt.toNat) (rowElem A i) g =
        max (blockExp A.fmt.toNat ((List.range 64).map fun j => rowElem A i (64 * g + j)) - fmtPlanes D.fmt.toNat + 2) (-133) := scaleExp_eq _ _
    obtain ⟨hscale, hlt⟩ := scaleBits_spec (se := groupScale A.fmt.toNat (fmtPlanes D.fmt.toNat) (rowElem A i) g) (by omega) (by omega)
    refine ⟨?_, _, blockExp_top _ _, hse⟩
    rw [if_pos hapf, scales i g hi hg, BitVec.toNat_ofNat, Nat.mod_eq_of_lt hlt]
    exact hscale
  · rw [Tile.read_getLsbD, decide_eq_true (by omega), Bool.true_and, bits i (j / 64) p (j % 64) hi (by omega) hp (by omega), Nat.div_add_mod]
  · split
    · next hapf =>
      refine restC o (ho.resolve_left fun h => ?_)
      rw [hapf] at h
      cases h
    · rfl

end Sys2Proof.Machine
end

section
/-! PROOF. Parks, planes, rings, latches and quotas (O37). -/

namespace Sys2Proof.Machine

open Sys2Proof.Safety

theorem regsSame_done (cx : Ctx) (m : Fin 3) : regsSame cx (cx.done m) := regsSame_refl cx

/-- A word that changes its own unit, and is done. -/
theorem State.modMe_done {s : State} (hs : s.plain) {f : Ctx → Ctx} (hrep : (f s.me).rep = s.me.rep) (htiles : (f s.me).tiles = s.me.tiles) :
    State.Mine s (s.modMe f).mtDone ((f s.me).done (streamOf s.cur.slot)) := by
  have plain : (s.modMe f).plain := by
    unfold State.plain
    rw [State.me_modMe, hrep]
    exact hs
  have both := (s.modMe_mine htiles).trans (State.mtDone_mine plain)
  rw [State.me_modMe] at both
  exact both

/-- A word that sets causes, and is done. -/
theorem State.causeIn_done {s : State} (hs : s.plain) (z : BitVec 12) :
    State.Mine s (s.causeIn z).mtDone ((s.me.sticky1 s.cur.slot z s.cur.org).done (streamOf s.cur.slot)) := by
  have cause := State.causeIn_mine hs z
  have plain : (s.causeIn z).plain := by
    unfold State.plain
    rw [cause.me, Ctx.sticky1_rep]
    exact hs
  have both := cause.trans (State.mtDone_mine plain)
  rw [cause.me, cause.cur] at both
  exact both

/-- A word that changes one entry of a unit without a log, and is done. -/
theorem State.moved_done {s t : State} {l : TLoc} (hs : unlogged s) (m : State.TileMoved l s t) :
    let u := (t.noted s l).mtDone
    u.tile l = t.tile l ∧ tilesBut l s u ∧ regsSame s.me u.me ∧ u.mem = s.mem := by
  have done := State.mtDone_mine (State.plain_of_moved (State.plain_of_unlogged hs) m)
  rw [State.noted_of_unlogged hs]
  refine ⟨done.tile l, fun k hk => (done.tile k).trans (m.tiles k hk), ?_, done.mem.trans m.mem⟩
  rw [done.me]
  exact regsSame_trans (regsSame_of_moved m.me) (regsSame_done _ _)

/-- A context with another ring. -/
def Ctx.withRing (cx : Ctx) (n : BitVec 4) (r : Option Ring) : Ctx := { cx with h := vset (n := 2 ^ 4) cx.h n.toFin r }

/-- A context with another latch. -/
def Ctx.withLatch (cx : Ctx) (q : BitVec 2) (h : Option (BitVec 4)) : Ctx := { cx with q := vset (n := 2 ^ 2) cx.q q.toFin h }

/-! ### Parking (R168, R182) -/

/-- An entry in another state. -/
def Tile.inState (t : Tile) (st : TileState) : Tile := { t with st := st }

theorem State.park_present {s : State} {l : TLoc} {k : Launch} (hst : (s.tile l).st = .present) (hl : s.avail l = .ready)
    (hk : s.launch? (s.ownerLaunch l) = some k) (hp : s.parks l.core < 64) (hcap : k.parkUsed + (s.tile l).parkBytes ≤ k.parkCap) :
    ∃ f, s.park (some l) = (((s.setTile l ((s.tile l).inState .parking)).modLaunch k.id f).noted s l).mtDone := by
  have hw : s.avail l ≠ .waiting := by rw [hl]; decide
  unfold State.park
  simp only [hst, hk, if_neg hw, if_neg (Nat.not_le.2 hp), if_neg (Nat.not_lt.2 hcap)]
  exact ⟨_, rfl⟩

theorem State.unpark_parked {s : State} {l : TLoc} (hst : (s.tile l).st = .parked) (hp : s.parks l.core < 64)
    (hroom : s.allocOk l.core (s.unparkAccount l) (s.tile l).granules = true) :
    ∃ t : Tile, t.st = .unparking ∧ t.data = (s.tile l).data ∧ t.count = (s.tile l).count ∧
      s.unpark (some l) = ((s.setTile l t).noted s l).mtDone := by
  have hstart : s.startUnpark l = some (s.setTile l { s.tile l with st := .unparking, gb := s.place l.core (s.tile l).granules }) := by
    unfold State.startUnpark
    exact if_neg (by simp [hroom, hp])
  refine ⟨{ s.tile l with st := .unparking, gb := s.place l.core (s.tile l).granules }, rfl, rfl, rfl, ?_⟩
  unfold State.unpark
  simp only [hst, if_neg (Nat.not_le.2 hp), hstart]

/-! ### Planes (R183) -/

theorem tyBits_spec (ty : Nat) : tyBits ty % 8 = 0 ∧ 0 < tyBits ty ∧ 64 % tyBits ty = 0 := by
  unfold tyBits
  (repeat' split) <;> decide

/-- The tiles of planes and scales, with new bytes. -/
def State.planesPut (s : State) (ld lc : TLoc) (P : Tile × Tile × BitVec 12) : State :=
  (s.setTile ld ((s.tile ld).withData P.1.data)).setTile lc ((s.tile lc).withData P.2.1.data)

/-- The three tiles of `tplane` fit one another (R183). -/
def planesFit (ts td tc : Tile) : Bool :=
  let ty := ts.fmt.toNat
  let k := ts.rowBytes * 8 / tyBits ty
  let np := fmtPlanes td.fmt.toNat
  td.st = .present && tc.st = .present && !ts.layout && ty ≤ 10 && td.layout && td.rows = ts.rows && k % 64 = 0
    && np * k / 8 ≤ td.rowBytes && k / 64 ≤ tc.rows && 128 ≤ tc.rowBytes

/-- `tplane`, once its three tiles are found, and P is what it makes of them. -/
def State.planesDone (s : State) (ld lc ls : TLoc) (r : BitVec 2) (P : Tile × Tile × BitVec 12) : State :=
  let s2 := ((s.planesPut ld lc P).noteWrite ld 0 P.1.size (some s.cur.x)).noteWrite lc 0 P.2.1.size (some s.cur.x)
  (((s2.countRead ls r).noted s2 ls).causeIn (P.2.2 ||| 0)).mtDone

/-- What `tplane` does where its three tiles are ready and fit. -/
theorem execTplane_ready {s : State} (t : BitVec 3) (i : BitVec 2) (d n : BitVec 8) (r : BitVec 2) {ld lc ls : TLoc}
    (eld : s.resolve s.cur.core s.cur.x d.toNat = ld) (elc : s.resolve s.cur.core s.cur.x (d.toNat + 1) = lc)
    (els : s.resolve s.cur.core s.cur.x n.toNat = ls) (hls : s.avail ls = .ready) (hld : s.avail ld = .ready) (hlc : s.avail lc = .ready)
    (std : (s.tile ld).st = .present) (stc : (s.tile lc).st = .present) (hfit : planesFit (s.tile ls) (s.tile ld) (s.tile lc) = true) :
    execTplane t i d n r s = .next (s.planesDone ld lc ls r (planesOf (s.tile ls) (s.tile ld) (s.tile lc))) := by
  have waits (l : TLoc) (h : s.avail l = .ready) (hst : (s.tile l).st = .present) :
      ((s.tile l).st = .filling || (s.tile l).st = .unparking || s.avail l = .waiting : Bool) = false := by
    rw [h, hst]
    rfl
  have access (k : Bool → State) : s.access ls true k = k true := by
    unfold State.access
    rw [hls]
  have fits : (!planesFit (s.tile ls) (s.tile ld) (s.tile lc)) ≠ true := by rw [hfit]; decide
  subst eld elc els
  refine congrArg Host.Outcome.next ?_
  refine (if_neg (ne_true_of_eq_false (waits _ hld std))).trans ((if_neg (ne_true_of_eq_false (waits _ hlc stc))).trans ?_)
  refine (access _).trans ((if_neg fits).trans ?_)
  simp only [if_true]
  generalize planesOf (s.tile (s.resolve s.cur.core s.cur.x n.toNat)) (s.tile (s.resolve s.cur.core s.cur.x d.toNat))
    (s.tile (s.resolve s.cur.core s.cur.x (d.toNat + 1))) = P
  rfl

theorem State.planesDone_eq {s : State} (hs : unlogged s) {ld lc : TLoc} (hd : ld.inCore) (hc : lc.inCore) (ls : TLoc) (r : BitVec 2)
    (P : Tile × Tile × BitVec 12) : s.planesDone ld lc ls r P = (((s.planesPut ld lc P).countRead ls r).causeIn P.2.2).mtDone := by
  have put : unlogged (s.planesPut ld lc P) := unlogged_setTile (unlogged_setTile hs hd _) hc _
  unfold State.planesDone
  simp only [State.noteWrite_of_unlogged put, State.noted_of_unlogged put, BitVec.ofNat_eq_ofNat, BitVec.or_zero]

/-- Putting planes and scales changes those two tiles alone. -/
theorem State.planesPut_facts (s : State) {ld lc : TLoc} (hd : ld.inCore) (hc : lc.inCore) (hne : ld ≠ lc) (P : Tile × Tile × BitVec 12) :
    let t := s.planesPut ld lc P
    t.tile ld = (s.tile ld).withData P.1.data ∧ t.tile lc = (s.tile lc).withData P.2.1.data ∧ (∀ m, m ≠ ld → m ≠ lc → t.tile m = s.tile m) ∧
      s.me.TilesMoved t.me ∧ t.mem = s.mem ∧ t.cur = s.cur := by
  have m1 := s.setTile_moved hd ((s.tile ld).withData P.1.data)
  have m2 := (s.setTile ld ((s.tile ld).withData P.1.data)).setTile_moved hc ((s.tile lc).withData P.2.1.data)
  exact ⟨(m2.tiles ld hne).trans (s.tile_setTile hd _), State.tile_setTile _ hc _, fun m h1 h2 => (m2.tiles m h2).trans (m1.tiles m h1),
    m1.me.trans m2.me, m2.mem.trans m1.mem, m2.cur.trans m1.cur⟩

/-- What `tplane` leaves. -/
theorem State.planesDone_facts {s : State} (hs : unlogged s) {ld lc ls : TLoc} (hd : ld.inCore) (hc : lc.inCore) (hl : ls.inCore) (hsd : ls ≠ ld)
    (hsc : ls ≠ lc) (hdc : ld ≠ lc) (r : BitVec 2) (P : Tile × Tile × BitVec 12) :
    let u := s.planesDone ld lc ls r P
    counted s u ls r ∧ regsSame s.me u.me ∧ u.mem = s.mem ∧ causesSet s u P.2.2 ∧ u.tile ld = (s.tile ld).withData P.1.data ∧
      u.tile lc = (s.tile lc).withData P.2.1.data := by
  have put : unlogged (s.planesPut ld lc P) := unlogged_setTile (unlogged_setTile hs hd _) hc _
  obtain ⟨tileD, tileC, other, me, mem, cur⟩ := s.planesPut_facts hd hc hdc P
  obtain ⟨moved, count⟩ := (s.planesPut ld lc P).countRead_moved hl r
  have done := State.causeIn_done (State.plain_of_moved (State.plain_of_unlogged put) moved) P.2.2
  have moved' := me.trans moved.me
  rw [State.planesDone_eq hs hd hc]
  refine ⟨counted_congr r (other ls hsd hsc) (done.tile ls).symm count, ?_, done.mem.trans (moved.mem.trans mem), ?_,
    (done.tile ld).trans ((moved.tiles ld hsd.symm).trans tileD), (done.tile lc).trans ((moved.tiles lc hsc.symm).trans tileC)⟩
  · rw [done.me]
    exact regsSame_trans (regsSame_trans (regsSame_of_moved moved') (regsSame_sticky1 _ _ _ _)) (regsSame_done _ _)
  · have sticky : ((s.planesPut ld lc P).countRead ls r).me.sticky = s.me.sticky := (congrArg Ctx.sticky moved' :)
    unfold causesSet
    rw [done.me, moved.cur, cur]
    exact Ctx.sticky1_sticky_congr sticky _ _ _

/-- The planes and scales that fit their tiles, as bytes of those tiles (R116-R121, R183). -/
theorem planesOf_fit {A D C : Tile} (hfit : planesFit A D C = true) (hlegal : fmtLegal D.fmt.toNat = true) (hD : D.size ≤ 65536)
    (hC : C.size ≤ 65536) :
    planesMade A D C (planesOf A D C) ∧ (planesOf A D C).1 = D.withData (planesOf A D C).1.data ∧
      (planesOf A D C).2.1 = C.withData (planesOf A D C).2.1.data := by
  simp only [planesFit, Bool.and_eq_true, decide_eq_true_eq] at hfit
  obtain ⟨⟨⟨⟨⟨-, hrows⟩, hels⟩, hplanes⟩, hscales⟩, hwide⟩ := hfit
  obtain ⟨h8, hpos, h64⟩ := tyBits_spec A.fmt.toNat
  obtain ⟨q, hq⟩ : ∃ q, A.rowBytes * 8 / tyBits A.fmt.toNat = 64 * q := ⟨_, (Nat.mul_div_cancel' (Nat.dvd_of_mod_eq_zero hels)).symm⟩
  have hk : 8 * A.rowBytes = tyBits A.fmt.toNat * (64 * q) := by
    have hdvd : tyBits A.fmt.toNat ∣ A.rowBytes * 8 :=
      (Nat.dvd_of_mod_eq_zero h64).trans (Dvd.dvd.mul_right (Dvd.intro_left _ rfl) 8)
    rw [← hq, Nat.mul_div_cancel' hdvd, Nat.mul_comm]
  have hn : 2 ≤ fmtPlanes D.fmt.toNat := by
    simp only [fmtLegal, Bool.or_eq_true, Bool.and_eq_true, decide_eq_true_eq] at hlegal
    unfold fmtPlanes
    omega
  have hwD : 8 * (fmtPlanes D.fmt.toNat * q) ≤ D.rowBytes := by
    rw [hq, show fmtPlanes D.fmt.toNat * (64 * q) = 8 * (8 * (fmtPlanes D.fmt.toNat * q)) by ring, Nat.mul_div_cancel_left _ (by decide)] at hplanes
    exact hplanes
  have hqC : q ≤ C.rows := by
    rw [hq, Nat.mul_div_cancel_left _ (by decide)] at hscales
    exact hscales
  refine ⟨planesOf_made hk h8 hpos hn hrows hwD hqC hwide hD hC, ?_, ?_⟩
  · rw [planesOf_eq hk h8 hpos]
    exact Tile.writes_eq_withData _ _ _ _ _
  · rw [planesOf_eq hk h8 hpos]
    dsimp only
    split
    · exact Tile.writes_eq_withData _ _ _ _ _
    · rfl

/-! ### Quotas (R185) -/

/-- A context with another quota. -/
def Ctx.withQuota (cx : Ctx) (v : BitVec 11) : Ctx := { cx with quota := v }

/-- The quotas of a core where one is to be v. -/
theorem quota_sum (y : CtxId) (v : Nat) (g : CtxId → Nat) :
    (allCtx.map fun x => if x = y then v else g x).sum = v + ((allCtx.filter fun x => x ≠ y).map g).sum := by
  fin_cases y <;> simp [allCtx] <;> omega

/-- `tquota` of a context of the core, in any unit without a log. -/
theorem State.quota_done {s : State} (hs : unlogged s) (y : CtxId) (v : BitVec 11) :
    let u := (s.modCtx s.cur.core y (Ctx.withQuota · v)).mtDone
    regsSame s.me u.me ∧ u.mem = s.mem ∧ (u.ctx s.cur.core y).quota = v := by
  intro u
  have ctx (d : Nat) (z : CtxId) : ∃ k : Ctx, (s.modCtx s.cur.core y (Ctx.withQuota · v)).ctx d z = k ∧ k.rep = (s.ctx d z).rep ∧
    regsSame (s.ctx d z) k := by
    rw [State.ctx_modCtx_eq]
    split
    · next h =>
      obtain ⟨rfl, rfl⟩ := h
      exact ⟨_, rfl, rfl, regsSame_refl (s.ctx s.cur.core z)⟩
    · exact ⟨_, rfl, rfl, regsSame_refl _⟩
  obtain ⟨k, hk, hrep, hregs⟩ := ctx s.cur.core s.cur.x
  have plain : (s.modCtx s.cur.core y (Ctx.withQuota · v)).plain := by
    have h := State.plain_of_unlogged hs
    unfold State.plain at *
    rw [show (s.modCtx s.cur.core y (Ctx.withQuota · v)).me = k from hk, hrep]
    exact h
  have done := State.mtDone_mine plain
  refine ⟨?_, done.mem, ?_⟩
  · rw [done.me, show (s.modCtx s.cur.core y (Ctx.withQuota · v)).me = k from hk]
    exact regsSame_trans hregs (regsSame_done k _)
  · have quota (t : State) (g : Ctx → Ctx) (hg : ∀ cx, (g cx).quota = cx.quota) :
      ((t.modMe g).ctx s.cur.core y).quota = (t.ctx s.cur.core y).quota := by
      rw [State.modMe, State.ctx_modCtx_eq]
      split
      · next h =>
        rw [hg, h.1, h.2]
      · rfl
    rw [show u = _ from State.mtDone_plain plain, quota _ Ctx.ordered fun _ => rfl, quota _ (fun cx => cx.unwaited _) fun _ => rfl, State.ctx_modCtx]
    rfl

end Sys2Proof.Machine

namespace Sys2Proof.Proofs

open Sys2Proof.Machine Sys2Proof.Safety

/-- Settles O37, word by word. -/
theorem parksPlanesRingsLatchesAndQuotas : Obligations.ParksPlanesRingsLatchesAndQuotas := by
  unfold Obligations.ParksPlanesRingsLatchesAndQuotas
  intro t i x m e f n c h q r y a s hs rest parks unparks at_ ls ld lc els ring
  have plain := State.plain_of_unlogged hs
  have kept {u : State} (hr : regsSame s.me u.me) (hm : u.mem = s.mem) : rest u := by
    obtain ⟨hs', hv, hk, -, -, -, -, -, -, -, -, -, -, -, -, htif, -, hpc, -⟩ := hr
    exact ⟨hs', hv, hk, hpc, htif, hm⟩
  have park (l : TLoc) (hl : l.inCore) : parks (.next (s.park (some l))) l := by
    intro k hst hready hk hp hcap
    obtain ⟨g, hpark⟩ := State.park_present hst hready hk hp hcap
    obtain ⟨tile, other, regs, mem⟩ :=
      State.moved_done hs ((s.setTile_moved hl ((s.tile l).inState .parking)).trans (State.modLaunch_moved _ l k.id g))
    rw [State.tile_modLaunch, s.tile_setTile hl] at tile
    exact ⟨_, congrArg _ hpark, tile, other, kept regs mem⟩
  have unpark (l : TLoc) (hl : l.inCore) : unparks (.next (s.unpark (some l))) l := by
    intro hst hp hroom
    obtain ⟨t, tst, tdata, tcount, hunpark⟩ := State.unpark_parked hst hp hroom
    obtain ⟨tile, other, regs, mem⟩ := State.moved_done hs (s.setTile_moved hl t)
    rw [s.tile_setTile hl] at tile
    exact ⟨_, congrArg _ hunpark, by rw [tile, tst], by rw [tile, tdata], by rw [tile, tcount], other, kept regs mem⟩
  have changes (g : Ctx → Ctx) (hrep : (g s.me).rep = s.me.rep) (htiles : (g s.me).tiles = s.me.tiles)
      (hregs : (g s.me).s = s.me.s ∧ (g s.me).v = s.me.v ∧ (g s.me).k = s.me.k ∧ (g s.me).pc = s.me.pc ∧ (g s.me).tif = s.me.tif) :
      rest (s.modMe g).mtDone ∧ (s.modMe g).mtDone.me.h = (g s.me).h ∧ (s.modMe g).mtDone.me.q = (g s.me).q := by
    have done := State.modMe_done plain hrep htiles
    obtain ⟨h1, h2, h3, h4, h5⟩ := hregs
    dsimp only [rest]
    rw [done.me]
    exact ⟨⟨h1, h2, h3, h4, h5, done.mem⟩, rfl, rfl⟩
  refine ⟨fun l hx => ?_, fun l hreg hx => ?_, ?_, fun hm => ?_, fun hm => ?_, ?_, ?_, ?_, ?_, fun hp hst hsum => ?_, fun hp => ?_⟩
  · have hl := State.consumer_inCore hx
    change parks (.next (s.park (s.consumer x))) l ∧ unparks (.next (s.unpark (s.consumer x))) l
    rw [hx]
    exact ⟨park l hl, unpark l hl⟩
  · have hl := State.consumer_inCore hx
    have hpark : exec (.tparkReg t i a) s = .next (s.park (some l)) := congrArg Host.Outcome.next ((if_neg hreg).trans (congrArg s.park hx))
    have hunpark : exec (.tunparkReg t i a) s = .next (s.unpark (some l)) := congrArg Host.Outcome.next ((if_neg hreg).trans (congrArg s.unpark hx))
    rw [hpark, hunpark]
    exact ⟨park l hl, unpark l hl⟩
  · intro rs rd rc std stc lay ty layd rows he planes scales wide legal _ hsd hsc hne1 hne2 hne3
    have hfit : planesFit (s.tile ls) (s.tile ld) (s.tile lc) = true := by
      simp only [planesFit, std, stc, lay, ty, layd, rows, wide, decide_true, Bool.not_false, Bool.and_self, Bool.true_and, Bool.and_true,
        Bool.and_eq_true,
        decide_eq_true_eq]
      exact ⟨⟨he, planes⟩, scales⟩
    obtain ⟨made, shapeD, shapeC⟩ := planesOf_fit hfit legal hsd hsc
    obtain ⟨count, regs, mem, causes, tileD, tileC⟩ := State.planesDone_facts hs (s.resolve_inCore _ _ _) (s.resolve_inCore _ _ _)
      (s.resolve_inCore _ _ _) hne1 hne2 hne3 r (planesOf (s.tile ls) (s.tile ld) (s.tile lc))
    refine ⟨_, _, execTplane_ready t i e f r rfl rfl rfl rs rd rc std stc hfit, count, kept regs mem, causes, ?_, ?_, ?_⟩
    · rw [tileD]
      rfl
    · rw [tileC]
      rfl
    · rw [tileD, tileC, ← shapeD, ← shapeC]
      exact made
  · obtain ⟨hrest, hh, -⟩ := changes (Ctx.withRing · n (some ⟨m.toNat, c.toNat + 1, 0, 0⟩)) rfl rfl ⟨rfl, rfl, rfl, rfl, rfl⟩
    exact ⟨_, congrArg Host.Outcome.next (if_neg (by omega)), hrest, hh⟩
  · have done := State.causeIn_done plain cINV
    refine ⟨_, congrArg Host.Outcome.next (if_pos (by omega)), kept ?_ done.mem, ?_, ?_⟩
    · rw [done.me]
      exact regsSame_trans (regsSame_sticky1 _ _ _ _) (regsSame_done _ _)
    · rw [done.me]
      exact Ctx.sticky1_h _ _ _ _
    · exact (congrArg Ctx.sticky done.me :)
  · obtain ⟨hrest, hh, -⟩ := changes (fun cx => cx.withRing n ((cx.ring n).map fun g => { g with p := (g.p + c.toNat + 1) % g.n })) rfl rfl
      ⟨rfl, rfl, rfl, rfl, rfl⟩
    exact ⟨_, rfl, hrest, hh⟩
  · obtain ⟨hrest, hh, -⟩ := changes (fun cx => cx.withRing n ((cx.ring n).map fun g => { g with c := (g.c + c.toNat + 1) % g.n })) rfl rfl
      ⟨rfl, rfl, rfl, rfl, rfl⟩
    exact ⟨_, rfl, hrest, hh⟩
  · obtain ⟨hrest, -, hq⟩ := changes (Ctx.withLatch · q (some h)) rfl rfl ⟨rfl, rfl, rfl, rfl, rfl⟩
    exact ⟨_, rfl, hrest, hq⟩
  · obtain ⟨hrest, -, hq⟩ := changes (Ctx.withLatch · q none) rfl rfl ⟨rfl, rfl, rfl, rfl, rfl⟩
    exact ⟨_, rfl, hrest, hq⟩
  · have hv : (fld (s.opS a) 0 11 : BitVec 11).toNat = (s.opS a).toNat % 2048 := by
      rw [fld_toNat, pow_zero, Nat.div_one]
      rfl
    obtain ⟨regs, mem, quota⟩ := State.quota_done hs y.toFin (fld (s.opS a) 0 11)
    have sum := quota_sum y.toFin (fld (s.opS a) 0 11 : BitVec 11).toNat fun z => (s.ctx s.cur.core z).quota.toNat
    rw [hv] at sum
    refine ⟨_, congrArg Host.Outcome.next ((if_neg ?_).trans (if_pos ⟨hst, ?_, ?_⟩)), kept regs mem, (congrArg BitVec.toNat quota).trans hv⟩
    · rw [hp]
      decide
    · omega
    · rw [hv, sum]
      exact hsum
  · exact congrArg Host.Outcome.next (if_pos (by rw [hp]; rfl))

end Sys2Proof.Proofs
end

section
/-! SUPPORT. The matrix engine of a core beside tiles and logs (O43): what an access, a count or an entry leaves of calls and banks. -/

namespace Sys2Proof.Machine

open Sys2Proof.Safety

/-- What the engine of a core holds: its running call, those in its tail, its banks (R219, R223). -/
def Core.engine (k : Core) : Option Call × List Call × Vector Bank 8 := (k.call, k.tails, k.banks)

/-- A state in which the engines and the word at hand are those of another. -/
structure State.Beside (s t : State) : Prop where
  engine : ∀ d, (t.core d).engine = (s.core d).engine
  cur : t.cur = s.cur

/-- A state in which memory is the same too, and no log has begun. -/
structure State.Silent (s t : State) : Prop where
  beside : s.Beside t
  mem : t.mem = s.mem
  quiet : s.quiet → t.quiet

namespace State.Beside

variable {s t u : State}

theorem refl (s : State) : s.Beside s := ⟨fun _ => rfl, rfl⟩

theorem trans (h : s.Beside t) (g : t.Beside u) : s.Beside u := ⟨fun d => (g.engine d).trans (h.engine d), g.cur.trans h.cur⟩

theorem of_aside (h : s.Aside t) : s.Beside t := ⟨fun d => congrArg Core.engine (h.core d), (congrArg State.cur h.eq :)⟩

theorem foldl {α : Type} {f : State → α → State} (h : ∀ a x, State.Beside a (f a x)) (l : List α) (s : State) : s.Beside (l.foldl f s) := by
  induction l generalizing s with
  | nil => exact refl s
  | cons x r ih => exact (h s x).trans (ih _)

theorem ite {c : Prop} [Decidable c] (ht : s.Beside t) (hu : s.Beside u) : s.Beside (if c then t else u) := by
  split
  · exact ht
  · exact hu

/-- The engine of the core at hand. -/
theorem here (h : s.Beside t) : t.here.call = s.here.call ∧ t.here.tails = s.here.tails ∧ t.here.banks = s.here.banks := by
  have e := h.engine s.cur.core
  unfold State.here
  rw [h.cur]
  simpa only [Core.engine, Prod.mk.injEq] using e

end State.Beside

namespace State.Silent

variable {s t u : State}

theorem refl (s : State) : s.Silent s := ⟨.refl s, rfl, id⟩

theorem trans (h : s.Silent t) (g : t.Silent u) : s.Silent u := ⟨h.beside.trans g.beside, g.mem.trans h.mem, g.quiet ∘ h.quiet⟩

theorem foldl {α : Type} {f : State → α → State} (h : ∀ a x, State.Silent a (f a x)) (l : List α) (s : State) : s.Silent (l.foldl f s) := by
  induction l generalizing s with
  | nil => exact refl s
  | cons x r ih => exact (h s x).trans (ih _)

theorem ite {c : Prop} [Decidable c] (ht : s.Silent t) (hu : s.Silent u) : s.Silent (if c then t else u) := by
  split
  · exact ht
  · exact hu

end State.Silent

/-! ### Changes of cores, contexts and frames -/

theorem State.modCore_beside (s : State) (c : Nat) {f : Core → Core} (hf : ∀ k, (f k).engine = k.engine) : s.Beside (s.modCore c f) := by
  refine ⟨fun d => ?_, rfl⟩
  by_cases h : d = c
  · rw [h, State.core_modCore, hf]
  · rw [State.core_modCore_other _ _ h]

theorem State.modCore_silent (s : State) (c : Nat) {f : Core → Core} (hf : ∀ k, (f k).engine = k.engine)
    (hl : ∀ (k : Core) (x : CtxId), ((f k).ctx[x]).rep.logging = (k.ctx[x]).rep.logging) : s.Silent (s.modCore c f) := by
  refine ⟨s.modCore_beside c hf, rfl, fun ⟨hctx, hframe⟩ => ⟨fun d x => ?_, hframe⟩⟩
  rw [State.ctx_modCore]
  split
  · rw [hl]
    exact hctx c x
  · exact hctx d x

theorem State.modCtx_silent (s : State) (c : Nat) (x : CtxId) {f : Ctx → Ctx} (hf : ∀ k, (f k).rep.logging = k.rep.logging) :
    s.Silent (s.modCtx c x f) := by
  have engine (d : Nat) : ((s.modCtx c x f).core d).engine = (s.core d).engine := by
    by_cases h : d = c
    · subst h
      show ((s.modCore d _).core d).engine = _
      rw [State.core_modCore]
      rfl
    · exact congrArg Core.engine (s.core_modCore_other _ h)
  refine ⟨⟨engine, rfl⟩, rfl, fun ⟨hctx, hframe⟩ => ⟨fun d y => ?_, hframe⟩⟩
  rw [State.ctx_modCtx_eq]
  split
  · rw [hf]
    exact hctx c x
  · exact hctx d y

theorem State.mapFrames_silent (s : State) {g : Frame → Frame} (hg : ∀ f, (g f).ctx.rep.logging = f.ctx.rep.logging) : s.Silent (s.mapFrames g) := by
  refine ⟨⟨fun _ => rfl, rfl⟩, rfl, fun ⟨hctx, hframe⟩ => ⟨hctx, fun f hf => ?_⟩⟩
  obtain ⟨h, hh, rfl⟩ := List.mem_map.1 hf
  rw [hg]
  exact hframe h hh

theorem State.modFrame_silent (s : State) (l u : W32) {f : Ctx → Ctx} (hf : ∀ k, (f k).rep.logging = k.rep.logging) : s.Silent (s.modFrame l u f) :=
  s.mapFrames_silent (g := fun g => if g.ctx.launch = l ∧ g.ctx.unit = u then { g with ctx := f g.ctx } else g) fun g => by
    split
    · exact hf g.ctx
    · rfl

theorem State.modLaunch_silent (s : State) (i : W32) (f : Launch → Launch) : s.Silent (s.modLaunch i f) := ⟨⟨fun _ => rfl, rfl⟩, rfl, id⟩

/-! ### Tiles (R158, R159, R160) -/

theorem State.setTile_silent (s : State) (l : TLoc) (t : Tile) : s.Silent (s.setTile l t) := by
  unfold State.setTile
  cases l with
  | unit c x n => exact s.modCtx_silent c x fun _ => by rfl
  | launch c l n => exact s.modCore_silent c (fun _ => by rfl) fun _ _ => by rfl
  | frame c l u n => exact s.modFrame_silent l u fun _ => by rfl

/-- Contexts of a core changed by number. -/
theorem State.mapCtx_silent (s : State) (c : Nat) {g : Nat → Ctx → Ctx} (hg : ∀ i k, (g i k).rep.logging = k.rep.logging) :
    s.Silent (s.modCore c (Core.mapCtx g)) := by
  refine s.modCore_silent c (fun _ => by rfl) fun k x => ?_
  have h : (k.mapCtx g).ctx[x] = g x.val k.ctx[x] := vmapI_getElem g _ x.val x.isLt
  rw [h, hg]

theorem State.vanish_silent (s : State) (l : TLoc) : s.Silent (s.vanish l) := by
  have space : s.Silent (s.unparkedSpace l) := by
    unfold State.unparkedSpace
    exact .ite (s.modLaunch_silent _ _) (.refl s)
  have set := space.trans ((s.unparkedSpace l).setTile_silent l (s.tile l).gone)
  have rings := set.trans (State.mapCtx_silent _ l.core
    (g := fun i cx => cx.advanceC fun n => s.resolve l.core (Fin.ofNat 4 i) n == l) fun _ _ => by rfl)
  have frames (g : Frame → Nat → Bool) (t : State) :
      t.Silent (t.mapFrames fun f => if f.core = l.core then { f with ctx := f.ctx.advanceC (g f) } else f) :=
    t.mapFrames_silent fun f => by split <;> rfl
  have freed (t : State) := t.mapCtx_silent l.core (g := fun _ cx => { cx with allocWait := Vector.replicate 4 0 }) fun _ _ => by rfl
  unfold State.vanish
  dsimp only
  split
  · exact (rings.trans (frames _ _)).trans (freed _)
  · exact rings.trans (frames _ _)

theorem State.consume_silent (s : State) (l : TLoc) : s.Silent (s.consume l) := .ite (s.vanish_silent l) (s.setTile_silent l _)

theorem State.serve_silent (s before : State) (l : List TLoc) (place : Nat) : s.Silent (s.serve before l place) := by
  unfold State.serve
  refine .foldl (fun a p => ?_) l s
  exact a.modCore_silent p.core (fun _ => by rfl) fun _ _ => by rfl

/-! ### Logs (R394, R395, R399) -/

theorem State.logFor_beside (s : State) (c : Nat) (p : Logger) (kind src aux : Nat) (o : Org) (data : List W64) :
    s.Beside (s.logFor c p kind src aux o data) := by
  have words (v w : Nat) (r : Replay) (n : Nat) (l : List W64) (a b d : Nat) : s.Beside ((s.writeWords v r n l).storeVa w a b d) :=
    .of_aside ((s.writeWords_aside _ _ _ _).trans (State.storeVa_aside _ _ _ _ _))
  unfold State.logFor
  cases p with
  | ctx x => exact ((words _ _ _ _ _ _ _ _).trans (State.modCtx_silent _ c x fun _ => by rfl).beside).trans (State.modLaunch_silent _ _ _).beside
  | frame l u =>
    exact ((words _ _ _ _ _ _ _ _).trans (State.modFrame_silent _ l u fun _ => by rfl).beside).trans (State.modLaunch_silent _ _ _).beside

theorem State.logTstate_beside (s before : State) (l : TLoc) (b : Option Logger) : s.Beside (s.logTstate before l b) :=
  .foldl (fun a _ => a.logFor_beside _ _ _ _ _ _ _) _ s

theorem State.applyFill_silent (s : State) (c : Nat) (x : CtxId) (e : Entry) : s.Silent (s.applyFill c x e) := by
  unfold State.applyFill
  exact .ite (((s.setTile_silent _ _).trans (State.modCtx_silent _ c x fun _ => by rfl)).trans (State.setTile_silent _ _ _))
    ((s.setTile_silent _ _).trans (State.modCtx_silent _ c x fun _ => by rfl))

theorem State.applyTstate_silent (s : State) (c : Nat) (x : CtxId) (e : Entry) : s.Silent (s.applyTstate c x e) := by
  unfold State.applyTstate
  exact .ite (.ite (.refl s) (s.vanish_silent _)) (s.setTile_silent _ _)

theorem State.tookEntry_silent (s : State) (c : Nat) (x : CtxId) (e : Entry) : s.Silent (s.tookEntry c x e) := s.modCtx_silent c x fun _ => by rfl

/-- The entries that a replaying unit takes change tiles and records alone. -/
theorem State.drainLog_silent (c : Nat) (x : CtxId) (n : Nat) : ∀ s : State, s.Silent (s.drainLog c x n) := by
  induction n with
  | zero => exact .refl
  | succ n ih =>
    intro s
    unfold State.drainLog
    split
    · exact .refl s
    · next e _ =>
      dsimp only
      refine .ite (((s.tookEntry_silent c x e).trans (State.applyFill_silent _ c x e)).trans (ih _))
        (.ite (((s.tookEntry_silent c x e).trans (State.applyTstate_silent _ c x e)).trans (ih _)) (.ite ?_ (.refl s)))
      split
      · exact .refl s
      · exact ((s.tookEntry_silent c x e).trans (State.modCtx_silent _ c x fun k => by rw [Ctx.sticky1_rep])).trans (ih _)

theorem State.accessAt_silent (s : State) (c : Nat) (x : CtxId) : s.Silent (s.accessAt c x) :=
  (s.modCtx_silent c x fun _ => by rfl).trans (.ite (State.drainLog_silent c x _ _) (.refl _))

/-- Causes of an engine enter a unit's record. -/
theorem State.engineCause_beside (s : State) (c : Nat) (l u : W32) (slot src : Nat) (z : BitVec 12) (o : Org) :
    s.Beside (s.engineCause c l u slot src z o) := by
  have record : s.Beside (s.modUnit c l u fun k => k.sticky1 slot z o) := by
    unfold State.modUnit
    split
    · exact (s.modCtx_silent c _ fun k => by rw [Ctx.sticky1_rep]).beside
    · exact (s.modFrame_silent l u fun k => by rw [Ctx.sticky1_rep]).beside
  unfold State.engineCause
  split
  · exact .refl s
  · split
    · exact .refl s
    · dsimp only
      split
      · exact .refl s
      · split
        · exact record.trans (State.logFor_beside _ _ _ _ _ _ _ _)
        · exact record

theorem State.readmit_beside (s : State) (c : Nat) : s.Beside (s.readmit c) := by
  unfold State.readmit
  dsimp only
  split
  · exact .refl s
  · split
    · exact .refl s
    · split
      · exact .refl s
      · exact (s.modCtx_silent c _ fun _ => by rfl).beside.trans (State.modCore_beside _ c fun _ => by rfl)

/-! ### Counting what a call has read (R159, R226) -/

/-- A call with its reads counted or not. -/
def Call.withCounts (a : Call) (x y : Bool) : Call := { a with ckA := x, ckB := y }

/-- Two calls that differ in what has been counted. -/
def Call.Like (a b : Call) : Prop := a.withCounts b.ckA b.ckB = b

theorem Call.Like.refl (a : Call) : a.Like a := rfl

theorem Call.Like.trans {a b c : Call} (h : a.Like b) (g : b.Like c) : a.Like c := by
  unfold Call.Like at *
  rw [← h] at g
  exact g

theorem Call.like_withCounts (a : Call) (x y : Bool) : (a.withCounts x y).Like a := rfl

/-- What counting leaves: of the state the engines and the word at hand, and memory too where no unit keeps a log; of the call all but what it has
counted. -/
structure Counted (s : State) (a : Call) (r : State × Call) : Prop where
  beside : s.Beside r.1
  silent : s.quiet → s.Silent r.1
  like : r.2.Like a

theorem Counted.none (s : State) (a : Call) : Counted s a (s, a) := ⟨.refl s, fun _ => .refl s, .refl a⟩

theorem Counted.trans {s : State} {a : Call} {r q : State × Call} (h : Counted s a r) (g : Counted r.1 r.2 q) : Counted s a q :=
  ⟨h.beside.trans g.beside, fun hs => (h.silent hs).trans (g.silent ((h.silent hs).quiet hs)), g.like.trans h.like⟩

theorem Counted.ite {c : Prop} [Decidable c] {s : State} {a : Call} {r q : State × Call} (h : Counted s a r) (g : Counted s a q) :
    Counted s a (if c then r else q) := by
  split
  · exact h
  · exact g

/-- A counted read of an entry, told to the units that log it. -/
theorem State.countTold_spec (s : State) (l : TLoc) (o : Option Logger) :
    s.Beside (((s.serve s [l] 4).consume l).logTstate s l o) ∧ (s.quiet → s.Silent (((s.serve s [l] 4).consume l).logTstate s l o)) := by
  have read : s.Silent ((s.serve s [l] 4).consume l) := (s.serve_silent s [l] 4).trans (State.consume_silent _ l)
  refine ⟨read.beside.trans (State.logTstate_beside _ _ _ _), fun hs => ?_⟩
  rw [State.logTstate_of_quiet hs]
  exact read

theorem State.countSide_spec (s : State) (c : Nat) (b : Bool) (a : Call) : Counted s a (s.countSide c b a) := by
  have like : (if b then { a with ckB := true } else { a with ckA := true } : Call).Like a := by split <;> exact .refl a
  unfold State.countSide
  dsimp only
  generalize (if b then { a with ckB := true } else { a with ckA := true } : Call) = a1 at like ⊢
  refine .ite (.none s a) ?_
  split
  · exact ⟨.refl s, fun _ => .refl s, like⟩
  · next l _ =>
    obtain ⟨beside, silent⟩ := s.countTold_spec l (s.loggerOf c a.op.launch a.op.unit)
    exact ⟨.ite (.refl s) beside, fun hs => .ite (.refl s) (silent hs), like⟩

theorem State.countLoaded_spec (s : State) (c : Nat) (l : Option TLoc) (a : Call) : Counted s a (s.countLoaded c l a) := by
  have side (t : State) (x : Call) (b p : Bool) : Counted t x (if p then t.countSide c b x else (t, x)) := .ite (t.countSide_spec c b x) (.none t x)
  unfold State.countLoaded
  exact .ite (.none s a) ((side s a false _).trans (side _ _ true _))

end Sys2Proof.Machine
end

section
/-! PROOF. The routine words of a running call (O43). -/

namespace Sys2Proof.Machine

open Sys2Proof.Safety

/-! ### Words that act on the running call (R232) -/

theorem State.here_modHere (s : State) (f : Core → Core) : (s.modHere f).here = f s.here := s.core_modCore _ f

/-- What a word leaves that sets the call and nothing else of the engine. -/
def State.RunsTo (s : State) (o : Out) (b : Call) : Prop :=
  ∃ u, o = .next u ∧ u.here.call = some b ∧ u.here.tails = s.here.tails ∧ u.here.banks = s.here.banks ∧ u.mem = s.mem

/-- What a load leaves: the call b, but for what it has counted, and memory as it was where no unit keeps a log. -/
def State.LoadsTo (s : State) (o : Out) (b : Call) : Prop :=
  ∃ u x, o = .next u ∧ x.withCounts b.ckA b.ckB = b ∧ u.here.call = some x ∧ u.here.tails = s.here.tails ∧ u.here.banks = s.here.banks ∧
    (unlogged s → u.mem = s.mem)

/-- What the end of a call leaves: the call b, but for what it has counted, in the tail until t. -/
def State.EndsAt (s : State) (o : Out) (b : Call) (t : Nat) : Prop :=
  ∃ u x, o = .next u ∧ { x with doneAt := b.doneAt, ckA := b.ckA, ckB := b.ckB } = b ∧ x.doneAt = t ∧ u.here.call = none ∧
    u.here.tails = s.here.tails ++ [x] ∧ u.here.banks = s.here.banks

/-- The running call of the core at hand. -/
theorem State.onCall_some {s : State} {a : Call} (h : s.here.call = some a) (f : Call → State) : s.onCall f = f a := by
  unfold State.onCall
  rw [h]

theorem State.setCall_runs (s : State) (b : Call) : s.RunsTo (.next (s.setCall b)) b := by
  refine ⟨_, rfl, ?_, ?_, ?_, rfl⟩
  all_goals
    unfold State.setCall
    rw [State.here_modHere]

/-- A call that ends stands in the tail until its last step and its epilogue's rows are done (R223, R226, R233). -/
theorem State.finishCall_ends (s : State) (b : Call) : s.EndsAt (.next (s.finishCall b)) b (b.ready + 3 + b.rows) := by
  have sides := (s.countSide_spec s.cur.core false b).trans (State.countSide_spec _ s.cur.core true _)
  generalize hr : (s.countSide s.cur.core false b).1.countSide s.cur.core true (s.countSide s.cur.core false b).2 = r at sides
  have finish : s.finishCall b = r.1.modHere fun k =>
      { k with call := none, tails := k.tails ++ [{ r.2 with doneAt := r.2.ready + 3 + r.2.rows }] } := by
    rw [← hr]
    rfl
  obtain ⟨beside, -, like⟩ := sides
  obtain ⟨-, tails, banks⟩ := beside.here
  have like : r.2.withCounts b.ckA b.ckB = b := like
  have ready : r.2.ready = b.ready := (congrArg Call.ready like :)
  have rows : r.2.rows = b.rows := (congrArg Call.rows like :)
  refine ⟨_, { r.2 with doneAt := r.2.ready + 3 + r.2.rows }, by rw [finish], ?_, by rw [ready, rows], ?_, ?_, ?_⟩
  · exact congrArg (fun c : Call => { c with doneAt := b.doneAt }) like
  · rw [State.here_modHere]
  · rw [State.here_modHere, tails]
  · rw [State.here_modHere, banks]

/-! ### Loads (R116, R226, R227) -/

/-- An access of an entry in its place, or of none, and the call that has loaded from it. -/
theorem State.load_loads (s : State) (l : Option TLoc) (x : CtxId) (b : Call) :
    let r := (({ s with freeCtr := s.freeCtr + 1 }.serve s l.toList 4).accessAt s.cur.core x).countLoaded s.cur.core l b
    s.LoadsTo (.next (r.1.setCall r.2)) b := by
  have fresh : s.Silent { s with freeCtr := s.freeCtr + 1 } := ⟨⟨fun _ => rfl, rfl⟩, rfl, id⟩
  have access := (fresh.trans (State.serve_silent _ s l.toList 4)).trans (State.accessAt_silent _ s.cur.core x)
  obtain ⟨beside, silent, like⟩ := State.countLoaded_spec
    (({ s with freeCtr := s.freeCtr + 1 }.serve s l.toList 4).accessAt s.cur.core x) s.cur.core l b
  obtain ⟨-, tails, banks⟩ := (access.beside.trans beside).here
  refine ⟨_, _, rfl, like, ?_, ?_, ?_, fun h => ?_⟩
  · unfold State.setCall
    rw [State.here_modHere]
  · unfold State.setCall
    rw [State.here_modHere, tails]
  · unfold State.setCall
    rw [State.here_modHere, banks]
  · exact (access.trans (silent (access.quiet (State.quiet_of_unlogged h)))).mem

/-- The call that has loaded a slice of a side, A or with b B, from a tile of a number. -/
def Call.withSlice (a : Call) (b : Bool) (sl : List Int) (at_ : Option Nat) (z : BitVec 12) : Call :=
  if b then { a.next with causes := a.causes ||| z, bSl := some sl, atB := at_ }
  else { a.next with causes := a.causes ||| z, aSl := some sl, atA := at_ }

/-- The slice of a group, by the fields of the descriptor. -/
theorem sliceOf_eq (use : Nat) (t : Tile) (p : W64) (n q count stride group : Nat) : sliceOf use t p n q count stride group =
    (List.range count).flatMap fun i => (List.range 64).map fun m =>
      codeAt use t n q (p.toNat / 2 ^ 9 % 2 ^ 6 + i) (p.toNat / 2 ^ 16 % 2 ^ 18 + stride * (64 * group + m)) := by
  simp only [sliceOf, fld_toNat]

/-- The slice of a side that the call at its group reads from an entry. -/
def State.sliceOn (s : State) (a : Call) (b : Bool) (l : TLoc) : List Int :=
  let count := if b then a.par.n else a.par.m
  if b then sliceOf s.freeCtr (s.tile l) (a.op.p 1) (fmtPlanes a.par.fb.toNat) a.par.qb count a.par.sb a.group
  else sliceOf s.freeCtr (s.tile l) (a.op.p 0) (fmtPlanes a.par.fa.toNat) a.par.qa count a.par.sa a.group

theorem State.loadSide_ready {s : State} {a : Call} (h : s.here.call = some a) (hg : a.group < a.par.kg) {b : Bool} {l : TLoc}
    (hl : s.sideLoc s.cur.core a b = some l) (ready : s.avail l = .ready) (turn : s.outOfTurn [l] 4 = false) :
    s.LoadsTo (.next (s.loadSide b)) (a.withSlice b (s.sliceOn a b l) (some (s.tile l).uid) 0) := by
  have meet : s.meetTile (some l) = .go := by simp only [State.meetTile, ready]
  have load : s.loadSide b = _ := s.onCall_some h _
  simp only [hl, if_neg (Nat.not_le.2 hg), Option.toList, turn, meet, Option.map_some, Option.getD_some, State.st_of_ready ready,
    Bool.false_eq_true, if_false] at load
  rw [load]
  exact s.load_loads (some l) a.op.x _

/-- No entry reads as zeros with ABSENT (R226). -/
theorem State.loadSide_none {s : State} {a : Call} (h : s.here.call = some a) (hg : a.group < a.par.kg) {b : Bool}
    (hl : s.sideLoc s.cur.core a b = none) :
    s.LoadsTo (.next (s.loadSide b)) (a.withSlice b (List.replicate ((if b then a.par.n else a.par.m) * 64) 0) none cABSENT) := by
  have turn : s.outOfTurn [] 4 = false := rfl
  have load : s.loadSide b = _ := s.onCall_some h _
  simp only [hl, if_neg (Nat.not_le.2 hg), Option.toList, turn, State.meetTile, Option.map_none, Option.getD_none, Bool.false_eq_true,
    if_false] at load
  rw [load]
  exact s.load_loads none a.op.x _

/-! ### Dot products and inner accumulators (R126, R227) -/

/-- The dot product of the first n elements of two rows; those past a row's end are 0. -/
theorem dot_take (n : Nat) : ∀ la lb : List Int, dot (la.take n) (lb.take n) = ((List.range n).map fun e => la.getD e 0 * lb.getD e 0).sum := by
  induction n with
  | zero => intro la lb; rfl
  | succ n ih =>
    intro la lb
    rw [List.range_succ_eq_map, List.map_cons, List.map_map, List.sum_cons]
    cases la with
    | nil => simp [dot, Function.comp_def]
    | cons x la =>
      cases lb with
      | nil => simp [dot, Function.comp_def]
      | cons y lb =>
        rw [List.take_succ_cons, List.take_succ_cons, dot, ih]
        rfl

/-- A row of a slice, by number. -/
theorem dot_row (la lb : List Int) (i j : Nat) : dot ((la.drop (64 * i)).take 64) ((lb.drop (64 * j)).take 64) =
    ((List.range 64).map fun e => la.getD (64 * i + e) 0 * lb.getD (64 * j + e) 0).sum := by
  rw [dot_take]
  simp only [List.getD_eq_getElem?_getD, List.getElem?_drop]

/-- An inner accumulator after a step, with its cause. -/
def Call.sum (a : Call) (la lb : List Int) (i j : Nat) : Int × BitVec 12 :=
  let d := dot ((la.drop (64 * i)).take 64) ((lb.drop (64 * j)).take 64)
  sat32 (a.inner.getD (i * a.par.n + j) 0 + (if a.op.nega != a.op.negb then -d else d))

theorem Call.sum_fst (a : Call) (la lb : List Int) (i j : Nat) :
    let dp : Int := ((List.range 64).map fun e => la.getD (64 * i + e) 0 * lb.getD (64 * j + e) 0).sum
    (a.sum la lb i j).1 =
      max (-2 ^ 31) (min (2 ^ 31 - 1) (a.inner.getD (i * a.par.n + j) 0 + (if a.op.nega = a.op.negb then dp else -dp))) := by
  unfold Call.sum
  dsimp only
  rw [sat32_eq, dot_row]
  by_cases hs : a.op.nega = a.op.negb
  · rw [if_pos hs, if_neg (by simpa using hs)]
  · rw [if_neg hs, if_pos (by simpa using hs)]

/-- The inner accumulators after a step, with their causes. -/
def Call.sums (a : Call) (la lb : List Int) : List (Int × BitVec 12) :=
  (List.range a.par.m).flatMap fun i => (List.range a.par.n).map fun j => a.sum la lb i j

theorem Call.sums_range (a : Call) (la lb : List Int) :
    a.sums la lb = (List.range (a.par.m * a.par.n)).map fun k => a.sum la lb (k / a.par.n) (k % a.par.n) := flatMap_range _ _ _

theorem Call.length_sums (a : Call) (la lb : List Int) : (a.sums la lb).length = a.par.m * a.par.n := by
  rw [Call.sums_range, List.length_map, List.length_range]

/-- The accumulator of row i and column j. -/
theorem Call.sums_getD (a : Call) (la lb : List Int) {i j : Nat} (hi : i < a.par.m) (hj : j < a.par.n) :
    ((a.sums la lb).map Prod.fst).getD (i * a.par.n + j) 0 = (a.sum la lb i j).1 := by
  have at_ : i * a.par.n + j < a.par.m * a.par.n := by
    calc i * a.par.n + j < (i + 1) * a.par.n := by rw [Nat.succ_mul]; omega
      _ ≤ a.par.m * a.par.n := Nat.mul_le_mul_right _ hi
  have row : (i * a.par.n + j) / a.par.n = i := by
    rw [Nat.mul_comm, Nat.mul_add_div (by omega), Nat.div_eq_of_lt hj, Nat.add_zero]
  have col : (i * a.par.n + j) % a.par.n = j := by rw [Nat.mul_comm, Nat.mul_add_mod, Nat.mod_eq_of_lt hj]
  rw [Call.sums_range, List.map_map, List.getD_eq_getElem?_getD, List.getElem?_map, List.getElem?_range at_, Option.map_some, Option.getD_some,
    Function.comp_apply, row, col]

/-- The call after a step (R227). -/
def State.steppedCall (s : State) (a : Call) (la lb : List Int) : Call :=
  { a.next with
    inner := (a.sums la lb).map Prod.fst, stepped := true, steps := a.steps + a.par.qa * a.par.qb, ready := s.here.cyc + s.stepCycles a.par
    causes := (a.sums la lb).foldl (fun c q => c ||| q.2) a.causes }

theorem State.step_runs {s : State} {a : Call} (h : s.here.call = some a) {la lb : List Int} (ha : a.aSl = some la) (hb : a.bSl = some lb) :
    s.RunsTo (exec .rwStep s) (s.steppedCall a la lb) := by
  have step : exec .rwStep s = .next ((s.setCall (s.steppedCall a la lb)).charge a.op.launch (s.stepCycles a.par)) := by
    show Host.Outcome.next (s.onCall _) = _
    rw [State.onCall_some h]
    simp only [ha, hb]
    rfl
  obtain ⟨u, hu, call, tails, banks, mem⟩ := s.setCall_runs (s.steppedCall a la lb)
  cases hu
  exact ⟨_, step, call, tails, banks, mem⟩

theorem State.step_errs {s : State} {a : Call} (h : s.here.call = some a) (hn : a.aSl = none ∨ a.bSl = none) :
    exec .rwStep s = .next (s.routineError a) := by
  show Host.Outcome.next (s.onCall _) = _
  rw [State.onCall_some h]
  rcases hn with hn | hn
  · simp only [hn]
  · cases ha : a.aSl <;> simp only [hn]

/-! ### Points of the k loop (R126) -/

theorem Call.atPromotion_iff (a : Call) : a.atPromotion = true ↔ a.group < a.par.kg ∧ ((a.group + 1) % a.par.g = 0 ∨ a.group + 1 = a.par.kg) := by
  simp only [Call.atPromotion, Bool.and_eq_true, Bool.or_eq_true, decide_eq_true_iff]

theorem Call.allPromoted_iff (a : Call) : a.allPromoted = true ↔ a.par.kg ≤ a.group ∨ (a.group + 1 = a.par.kg ∧ a.promoted = true) := by
  simp only [Call.allPromoted, Bool.and_eq_true, Bool.or_eq_true, decide_eq_true_iff]

/-- Result rows of an epilogue (R223, R234). -/
theorem Call.rows_eq (a : Call) : a.rows = if a.epi = none then 0 else if a.tr = some true then a.par.n else a.par.m := by
  simp only [Call.rows, Option.isNone_iff_eq_none]

/-! ### Scales and promotions (R120, R123, R126) -/

/-- A vector of scales holds a forbidden exponent in one of its 64 (R120). -/
theorem scalesBad_eq (e : BitVec 1024) : scalesBad e = decide (∃ n, n < 64 ∧ e.toNat / 2 ^ (16 * n + 7) % 2 ^ 8 = 255) := by
  have one (n : Nat) : (fld e (16 * n + 7) 8 : BitVec 8) = 255#8 ↔ e.toNat / 2 ^ (16 * n + 7) % 2 ^ 8 = 255 := by
    rw [← BitVec.toNat_inj, fld_toNat]
    rfl
  rw [Bool.eq_iff_iff, decide_eq_true_iff]
  simp only [scalesBad, List.any_eq_true, List.mem_range, decide_eq_true_iff, one]

/-- The context whose scale queues a call has popped. -/
def Ctx.popScales (cx : Ctx) (ua ub : Bool) : Ctx :=
  { cx with sqA := if ua then cx.sqA.drop 1 else cx.sqA, sqB := if ub then cx.sqB.drop 1 else cx.sqB }

/-- The call that has popped its scales. -/
def Call.poppedFrom (a : Call) (cx : Ctx) : Call :=
  { a.next with
    popped := true, scA := cx.sqA.headD 0, scB := cx.sqB.headD 0
    causes := a.causes ||| (if (a.par.smode.getLsbD 0 && scalesBad (cx.sqA.headD 0)) || (a.par.smode.getLsbD 1 && scalesBad (cx.sqB.headD 0))
      then cSCALEBAD else 0) }

/-- A pop of the sides used, where each holds an entry (R123). -/
theorem State.spop_eq {s : State} {a : Call} (h : s.here.call = some a) (hs : a.stepped = true) (hp : a.atPromotion = true) (hn : a.popped = false)
    (hA : a.par.smode.getLsbD 0 = true → (s.ctx s.cur.core a.op.x).sqA ≠ [])
    (hB : a.par.smode.getLsbD 1 = true → (s.ctx s.cur.core a.op.x).sqB ≠ []) :
    exec .rwSpop s = .next ((s.modCtx s.cur.core a.op.x fun k => k.popScales (a.par.smode.getLsbD 0) (a.par.smode.getLsbD 1)).setCall
      (a.poppedFrom (s.ctx s.cur.core a.op.x))) := by
  have held {α : Type} {p : Bool} {q : List α} (hq : p = true → q ≠ []) : (p && q.isEmpty) = false := by
    cases p
    · rfl
    · exact List.isEmpty_eq_false_iff.2 (hq rfl)
  show Host.Outcome.next (s.onCall _) = _
  rw [State.onCall_some h]
  simp only [hs, hp, hn, held hA, held hB, Bool.and_self, Bool.not_true, Bool.or_self, Bool.false_eq_true, if_false]
  rfl

theorem State.spop_errs {s : State} {a : Call} (h : s.here.call = some a) (hn : a.stepped = false ∨ a.atPromotion = false ∨ a.popped = true) :
    exec .rwSpop s = .next (s.routineError a) := by
  have out : (!(a.stepped && a.atPromotion) || a.popped) = true := by
    rcases hn with hn | hn | hn
    · rw [hn]; rfl
    · rw [hn, Bool.and_false]; rfl
    · rw [hn, Bool.or_true]
  show Host.Outcome.next (s.onCall _) = _
  rw [State.onCall_some h]
  simp only [out, if_true]

/-- What a pop leaves of the call and of the unit's scale queues. -/
theorem State.popScales_spec (s : State) (x : CtxId) (ua ub : Bool) (b : Call) :
    let u := (s.modCtx s.cur.core x fun k => k.popScales ua ub).setCall b
    u.here.call = some b ∧ u.ctx s.cur.core x = (s.ctx s.cur.core x).popScales ua ub := by
  refine ⟨?_, ?_⟩
  · unfold State.setCall
    rw [State.here_modHere]
  · refine (State.ctx_modCore _ _ _ _ _).trans ((if_pos rfl).trans ?_)
    exact s.ctx_modCtx s.cur.core x _

/-- The call that has promoted its accumulators. -/
def Call.promotedBy (a : Call) (tr : Bool) (c : BitVec 12) : Call :=
  { a.next with
    promoted := true, first := false, tr := some tr, causes := a.causes ||| c, inner := List.replicate (a.par.m * a.par.n) 0 }

/-- A promotion in its place, on a bank that no earlier operation is still to write (R126, R153, R223). -/
theorem State.prom_eq {s : State} {a : Call} (h : s.here.call = some a) {tr : Bool} (hs : a.stepped = true) (hp : a.atPromotion = true)
    (hn : a.promoted = false) (hm : a.par.smode = 0 ∨ a.popped = true) (htr : a.tr ≠ some (!tr)) (ht : ∀ e ∈ s.here.tails, e.op.d ≠ a.op.d)
    (hl : s.here.bankLanding a.op.d = false) :
    let r := overRegion a.par tr (vget (n := 3) s.here.banks a.op.d) (promoteElem a)
    exec (.rwProm tr) s = .next ((s.setCall (a.promotedBy tr r.2)).modHere fun k =>
      { k with banks := vset (n := 2 ^ 3) k.banks a.op.d.toFin r.1 }) := by
  have scaled : (a.par.smode != 0 && !a.popped) = false := by
    rcases hm with hm | hm
    · rw [hm]; rfl
    · rw [hm, Bool.not_true, Bool.and_false]
  have free : (s.here.tails.any fun b => decide (b.op.d = a.op.d)) = false := by
    simpa only [List.any_eq_false, decide_eq_true_iff] using ht
  show Host.Outcome.next (s.onCall _) = _
  rw [State.onCall_some h]
  simp only [hs, hp, hn, scaled, htr, free, hl, Bool.and_self, Bool.not_true, Bool.or_self, decide_false, Bool.false_eq_true, if_false]
  rfl

/-! ### The loop, the epilogue and the end (R232, R233, R234) -/

/-- The call at its next group. -/
def Call.advanced (a : Call) : Call :=
  { a.next with group := a.group + 1, aSl := none, bSl := none, stepped := false, popped := false, promoted := false, kadv := true }

theorem State.skip_eq {s : State} {a : Call} (h : s.here.call = some a) (g : BitVec 11) :
    exec (.rwSkip g) s = .next (s.setCall (if a.atPromotion then a.next else { a with pos := g.toNat })) :=
  congrArg Host.Outcome.next (State.onCall_some h _)

theorem State.kadv_eq {s : State} {a : Call} (h : s.here.call = some a) :
    exec .rwKadv s = .next (if !a.stepped || (a.atPromotion && !a.promoted) then s.routineError a else s.setCall a.advanced) :=
  congrArg Host.Outcome.next (State.onCall_some h _)

theorem State.jmore_eq {s : State} {a : Call} (h : s.here.call = some a) (g : BitVec 11) :
    exec (.rwJmore g) s = .next (if a.par.kg ≤ a.group then s.setCall a.next else if !a.kadv then s.routineError a
      else s.setCall { a with pos := g.toNat, kadv := false }) :=
  congrArg Host.Outcome.next (State.onCall_some h _)

theorem State.bwr_eq {s : State} {a : Call} (h : s.here.call = some a) (e : BitVec 2) :
    exec (.rwBwr e) s = .next (if a.bwrDone || !a.allPromoted then s.routineError a else if s.here.bankLanding a.op.d then s
      else s.setCall { a.next with bwrDone := true, epi := some e }) :=
  congrArg Host.Outcome.next (State.onCall_some h _)

theorem State.end_eq {s : State} {a : Call} (h : s.here.call = some a) :
    exec .rwEnd s = .next (if a.allPromoted then s.finishCall a else s.routineError a) :=
  congrArg Host.Outcome.next (State.onCall_some h _)

/-! ### Completion (R223, R234) -/

/-- The core once the oldest call b in its tail has completed, before the calls q: its epilogue stands in the bank. -/
def Core.completed (k : Core) (b : Call) (q : List Call) : Core :=
  { k with tails := q, banks := vset (n := 2 ^ 3) k.banks b.op.d.toFin (b.epilogue (vget (n := 3) k.banks b.op.d)).1 }

/-- The causes of a call and of its epilogue. -/
def Call.allCauses (b : Call) (k : Core) : BitVec 12 := b.causes ||| (b.epilogue (vget (n := 3) k.banks b.op.d)).2

/-- The payload of a completed call's trace record (R236). -/
def Call.payload (b : Call) : Nat := b.steps * 2 ^ 32 + b.op.idx.toNat * 2 ^ 24 + b.par.kg

theorem State.complete_eq {s : State} (hc : s.ev.c = s.cur.core) {b : Call} {q : List Call} (ht : s.here.tails = b :: q)
    (hd : b.doneAt ≤ s.here.cyc) :
    exec .matrixCallComplete s = .next ((((s.setCore s.cur.core (s.here.completed b q)).opCause s.cur.core b.op (b.allCauses s.here)).readmit
      s.cur.core).traceFor s.cur.core b.op.x b.op.launch 0x0B 1 b.op.d.toNat b.op.org b.payload) := by
  have tails : (s.core s.ev.c).tails = b :: q := by rw [hc]; exact ht
  have due : ¬(s.core s.ev.c).cyc < b.doneAt := by rw [hc]; exact Nat.not_lt.2 hd
  show execMatrixCallComplete s = _
  unfold execMatrixCallComplete
  simp only [tails, if_neg due]
  rw [hc]
  rfl

/-- What enters the record, the queue and the trace after a call has completed is beside the engine's calls and banks. -/
theorem State.complete_oldest {s : State} (hc : s.ev.c = s.cur.core) {b : Call} {q : List Call} (ht : s.here.tails = b :: q)
    (hd : b.doneAt ≤ s.here.cyc) :
    ∃ u, exec .matrixCallComplete s = .next u ∧ u.here.tails = q ∧
      u.here.banks = vset (n := 2 ^ 3) s.here.banks b.op.d.toFin (b.epilogue (vget (n := 3) s.here.banks b.op.d)).1 := by
  refine ⟨_, State.complete_eq hc ht hd, ?_⟩
  have caused := (s.setCore s.cur.core (s.here.completed b q)).engineCause_beside s.cur.core b.op.launch b.op.unit 4 8 (b.allCauses s.here) b.op.org
  have traced := (caused.trans (State.readmit_beside _ s.cur.core)).trans
    (.of_aside (State.traceFor_aside _ s.cur.core b.op.x b.op.launch 0x0B 1 b.op.d.toNat b.op.org b.payload))
  have set : (s.setCore s.cur.core (s.here.completed b q)).here = s.here.completed b q := s.core_setCore _ _
  obtain ⟨-, tails, banks⟩ := traced.here
  rw [set] at tails banks
  exact ⟨tails, banks⟩

end Sys2Proof.Machine

namespace Sys2Proof.Proofs

open Sys2Proof.Machine Sys2Proof.Safety

/-- Settles O43: each word is its equation on the running call; a load and an end go through what counting a side leaves of the engine. -/
theorem routineWordsRunTheCall : Obligations.RoutineWordsRunTheCall := by
  unfold Obligations.RoutineWordsRunTheCall
  intro s a h bank locA locB runs like rows ends errs loads atProm allProm slice
  have set (b : Call) : runs (.next (s.setCall b)) b := s.setCall_runs b
  have finish : ends (.next (s.finishCall a)) a := by
    have ended := s.finishCall_ends a
    rwa [Call.rows_eq] at ended
  have routineError : errs (.next (s.routineError a)) := by
    have ended := s.finishCall_ends { a with causes := a.causes ||| cINV }
    rwa [Call.rows_eq] at ended
  have causes : a.causes ||| 0 = a.causes := BitVec.or_zero
  have point : a.atPromotion = true ↔ atProm := a.atPromotion_iff
  have noPoint (n : ¬atProm) : a.atPromotion = false := Bool.eq_false_iff.2 fun p => n (point.1 p)
  have promoted : a.allPromoted = true ↔ allProm := a.allPromoted_iff
  refine ⟨?lda, ?ldb, ?ldaNone, ?step, ?stepErr, ?skip, ⟨?spop, ?spopErr⟩, ?prom, ⟨?kadv, ?kadvErr⟩, ?jmore, ?bwr, ?complete, ?done, ?doneErr⟩
  case lda =>
    intro hg l hl ready turn
    have load := State.loadSide_ready h hg (b := false) hl ready turn
    simp only [Call.withSlice, State.sliceOn, sliceOf_eq, Bool.false_eq_true, if_false, causes] at load
    exact load
  case ldb =>
    intro hg l hl ready turn
    have load := State.loadSide_ready h hg (b := true) hl ready turn
    simp only [Call.withSlice, State.sliceOn, sliceOf_eq, if_true, causes] at load
    exact load
  case ldaNone =>
    intro hg hl
    exact State.loadSide_none h hg (b := false) hl
  case step =>
    intro la lb ha hb
    refine ⟨_, State.step_runs h ha hb, rfl, rfl, rfl, rfl, ?_, fun i j hi hj => ?_⟩
    · exact (List.length_map _).trans (a.length_sums la lb)
    · exact (a.sums_getD la lb hi hj).trans (a.sum_fst la lb i j)
  case stepErr =>
    intro hn
    rw [State.step_errs h hn]
    exact routineError
  case skip =>
    intro g
    refine ⟨fun p => ?_, fun n => ?_⟩
    · rw [State.skip_eq h, if_pos (point.2 p)]
      exact set _
    · rw [State.skip_eq h, if_neg (fun p => n (point.1 p))]
      exact set _
  case spop =>
    intro hs hp hn hA hB bad
    obtain ⟨call, ctx⟩ := s.popScales_spec a.op.x (a.par.smode.getLsbD 0) (a.par.smode.getLsbD 1) (a.poppedFrom (s.ctx s.cur.core a.op.x))
    refine ⟨_, State.spop_eq h hs (point.2 hp) hn hA hB, ?_, (congrArg Ctx.sqA ctx :), (congrArg Ctx.sqB ctx :)⟩
    rw [call, Call.poppedFrom]
    simp only [scalesBad_eq]
    rfl
  case spopErr =>
    intro hn
    rw [State.spop_errs h (hn.imp_right (Or.imp_left noPoint))]
    exact routineError
  case prom =>
    intro tr hs hp hn hm htr ht hl r
    refine ⟨_, State.prom_eq h hs (point.2 hp) hn hm htr ht hl, ?_, ?_⟩
    all_goals
      unfold State.setCall
      rw [State.here_modHere, State.here_modHere]
    rfl
  case kadv =>
    intro hs hp
    have stay : ¬(!a.stepped || (a.atPromotion && !a.promoted)) = true := by
      rcases hp with hp | hp
      · simp [hs, noPoint hp]
      · simp [hs, hp]
    rw [State.kadv_eq h, if_neg stay]
    exact set _
  case kadvErr =>
    intro hs
    rw [State.kadv_eq h, if_pos (by rw [hs]; rfl)]
    exact routineError
  case jmore =>
    intro g
    rw [State.jmore_eq h]
    refine ⟨fun hg => ?_, fun hg hk => ?_, fun hg hk => ?_⟩
    · rw [if_pos hg]
      exact set _
    · rw [if_neg (Nat.not_le.2 hg), if_neg (by rw [hk]; decide)]
      exact set _
    · rw [if_neg (Nat.not_le.2 hg), if_pos (by rw [hk]; rfl)]
      exact routineError
  case bwr =>
    intro e hb hp hl
    rw [State.bwr_eq h, if_neg (by rw [hb, promoted.2 hp]; decide), if_neg (by rw [hl]; decide)]
    exact set _
  case complete =>
    intro b q hc ht hd left r
    have last : r = (b.epilogue left).1 := by
      simp only [r, Call.epilogue]
      cases b.epi <;> rfl
    rw [last]
    exact State.complete_oldest hc ht hd
  case done =>
    intro hp
    rw [State.end_eq h, if_pos (promoted.2 hp)]
    exact finish
  case doneErr =>
    intro hn
    rw [State.end_eq h, if_neg (fun p => hn (promoted.1 p))]
    exact routineError

end Sys2Proof.Proofs
end

section
/-! SUPPORT. Element-wise results by the elements of their sources (R128, R131). -/

namespace Sys2Proof.Machine

open Sys2Proof.Safety

/-- Only the elements that the shape has count for what an element-wise result is. -/
theorem vecLands_congr {s t : State} {n : Nat} {p : Shape} {d : BitVec 5} {k : BitVec 3} {l : BitVec 1} {c : BitVec 12} {f g : Nat → Nat × BitVec 12}
    (h : ∀ e, e < p.count → f e = g e) (hl : vecLands s t n p d k l c f) : vecLands s t n p d k l c g := by
  obtain ⟨r, z, ht, hr, hz⟩ := hl
  refine ⟨r, z, ht, fun e he => (hr e he).trans (by simp only [h e he]), fun j => (hz j).trans (congrArg _ ?_)⟩
  rw [Bool.eq_iff_iff, List.any_eq_true, List.any_eq_true]
  exact exists_congr fun e => and_congr_right fun he => by simp only [h e (List.mem_range.mp he)]

/-- An operation on one source puts its values at the source's elements in flight. -/
theorem State.elem1_lands (s : State) (n : Nat) (f : Shape → Nat → Nat × BitVec 12) (d a : BitVec 5) (h : BitVec 2) (k : BitVec 3) (l : BitVec 1) :
    vecLands s (s.elem1 n f d a h k l) n (s.shape h) d k l (s.vsrc a).2 fun e => f (s.shape h) (elemOf (s.shape h) (s.vsrc a).1 e) :=
  vecLands_congr (fun _ he => congrArg (f (s.shape h)) (nth_elems _ (s.vsrc a).1 _ he)) (s.vecOp_lands n (s.shape h) d k l _ _)

/-- An operation on the elements of two registers puts its values at the elements of both in flight. -/
theorem State.vecOp_pairs_lands (s : State) (n : Nat) (p : Shape) (d : BitVec 5) (k : BitVec 3) (l : BitVec 1) (c : BitVec 12) (v w : VReg)
    (f : Nat → Nat → Nat × BitVec 12) :
    vecLands s (s.vecOp n p d k l c fun e => f (nth (elems p v) e) (nth (elems p w) e)) n p d k l c fun e => f (elemOf p v e) (elemOf p w e) :=
  vecLands_congr (fun _ he => congrArg₂ f (nth_elems p v _ he) (nth_elems p w _ he)) (s.vecOp_lands n p d k l c _)

end Sys2Proof.Machine
end

section
/-! PROOF. Saturation, and the special functions, division and rounding of integer types (O15). -/

namespace Sys2Proof.Machine

open Sys2Proof.Safety

/-! ### Saturation (R136) -/

theorem tyRange_le (t : Nat) : (tyRange t).1 ≤ (tyRange t).2 := by
  have hlow := Nat.two_pow_pos (tyBits t - 1)
  have hall := Nat.two_pow_pos (tyBits t)
  simp only [tyRange]
  split <;> omega

/-- The exact result of the operation that `vsat` selects. -/
def satExact (o : Nat) (x y : Int) : Int := if o = 0 then x + y else if o = 1 then x - y else x * y

theorem satOp_int {p : Shape} (hp : tyFloat p.ty = false) (o a b : Nat) :
    satOp o p a b = (ofIntBits p.bits (max (tyRange p.ty).1 (min (tyRange p.ty).2 (satExact o (tyInt p.ty a) (tyInt p.ty b)))), 0) := by
  rw [satOp, if_neg (ne_true_of_eq_false hp), ← (clampConv_spec (tyRange_le p.ty) _).1]
  rfl

theorem satOp_float {p : Shape} (hp : tyFloat p.ty = true) (o a b : Nat) :
    satOp o p a b = if o = 0 then fAdd (tyFmt p.ty) p.mode a b else if o = 1 then fSub (tyFmt p.ty) p.mode a b else fMul (tyFmt p.ty) p.mode a b := by
  rw [satOp, if_pos hp]
  split_ifs <;> exact if_pos hp

theorem exec_vsat_lands (t : BitVec 3) (i : BitVec 2) (d a b : BitVec 5) (h o : BitVec 2) (l : BitVec 1) (s : State) :
    ∃ u, exec (.vsat t i d a b h o l) s = .next u ∧ vecLands s u 2 (s.shape h) d 0 l ((s.vsrc a).2 ||| (s.vsrc b).2)
      fun e => satOp o.toNat (s.shape h) (elemOf (s.shape h) (s.vsrc a).1 e) (elemOf (s.shape h) (s.vsrc b).1 e) :=
  ⟨_, rfl, s.vecOp_pairs_lands 2 (s.shape h) d 0 l _ _ _ (satOp o.toNat (s.shape h))⟩

/-! ### Functions of integer types (R142, R147) -/

theorem specialElem_int {p : Shape} (hp : tyFloat p.ty = false) (fn a : Nat) : specialElem fn p a = (0, cINV) := by
  rw [specialElem, if_neg (ne_true_of_eq_false hp)]

theorem divElem_int {p : Shape} (hp : tyFloat p.ty = false) (a b : Nat) : divElem p a b = (0, cINV) := by
  rw [divElem, if_neg (ne_true_of_eq_false hp)]

theorem roundElem_int {p : Shape} (hp : tyFloat p.ty = false) (a : Nat) : roundElem p a = (a, 0) := by
  rw [roundElem, if_pos (by rw [hp]; decide)]

/-- A special function of an integer type gives 0 with INV in every element that takes part. -/
theorem State.special_int_lands (s : State) {h : BitVec 2} (hp : tyFloat (s.shape h).ty = false) (n fn : Nat) (d a : BitVec 5) (k : BitVec 3) (l : BitVec 1) :
    vecLands s (s.special n fn d a h k l) n (s.shape h) d k l (s.vsrc a).2 fun _ => (0, cINV) :=
  vecLands_congr (fun _ _ => specialElem_int hp fn _) (s.elem1_lands n (specialElem fn) d a h k l)

end Sys2Proof.Machine

namespace Sys2Proof.Proofs

open Sys2Proof.Machine Sys2Proof.Safety

/-- Settles O15: every word is an element-wise operation, known by what its element function gives for the type of the shape. -/
theorem vectorSaturationAndIntegerCorners : Obligations.VectorSaturationAndIntegerCorners := by
  unfold Obligations.VectorSaturationAndIntegerCorners
  intro t i d a b h k l s p X Y ca cb num lands
  have sat (o : BitVec 2) (g : Nat → Nat × BitVec 12) (hg : ∀ e, satOp o.toNat p (X e) (Y e) = g e) :
      ∃ u, exec (.vsat t i d a b h o l) s = .next u ∧ vecLands s u 2 p d 0 l (ca ||| cb) g := by
    obtain ⟨u, hu, hl⟩ := exec_vsat_lands t i d a b h o l s
    exact ⟨u, hu, vecLands_congr (fun e _ => hg e) hl⟩
  refine ⟨fun hp => ?integer, fun hp => ?floating⟩
  case integer =>
    have special (n fn : Nat) : lands (.next (s.special n fn d a h k l)) n ca fun _ => (0, cINV) := ⟨_, rfl, s.special_int_lands hp n fn d a k l⟩
    have div : lands (exec (.vdiv t i d a b h k l) s) 12 (ca ||| cb) fun _ => (0, cINV) :=
      ⟨_, rfl, vecLands_congr (fun _ _ => divElem_int hp _ _) (s.vecOp_pairs_lands 12 p d k l _ _ _ (divElem p))⟩
    have round : lands (exec (.vround t i d a h k l) s) 3 ca fun e => (X e, 0) :=
      ⟨_, rfl, vecLands_congr (fun _ _ => roundElem_int hp _) (s.elem1_lands 3 roundElem d a h k l)⟩
    exact ⟨special 8 0, special 8 1, special 8 2, special 8 3, special 8 4, special 10 5, special 10 6, div, round,
      sat 0 _ fun _ => satOp_int hp 0 _ _, sat 1 _ fun _ => satOp_int hp 1 _ _, sat 2 _ fun _ => satOp_int hp 2 _ _⟩
  case floating =>
    exact ⟨sat 0 _ fun _ => satOp_float hp 0 _ _, sat 1 _ fun _ => satOp_float hp 1 _ _, sat 2 _ fun _ => satOp_float hp 2 _ _⟩

end Sys2Proof.Proofs
end

section
/-! SUPPORT. A word that acts on one tile: what it has done for its unit step by step, and once it is performed (R159-R163, R178, R268). -/

namespace Sys2Proof.Machine

open Sys2Proof.Safety

/-! ### What a word has done so far -/

/-- The word at hand of s, of a unit without a log, has led to t: it has set causes z, its unit's interlocked writes are p and its condition queue q, the
registers and memory stay, and the tile entries are those of w. -/
structure State.Acted (s w t : State) (z : BitVec 12) (p : List Pend) (q : List CqEntry) : Prop where
  plain : t.plain
  causes : causesSet s t z
  regs : regsSame s.me t.me
  pend : t.me.pend = p
  cq : t.me.cq = q
  tile : ∀ m, t.tile m = w.tile m
  mem : t.mem = s.mem
  cur : t.cur = s.cur

namespace State.Acted

variable {s w t : State} {z : BitVec 12} {p : List Pend} {q : List CqEntry}

theorem refl {s : State} (hs : s.plain) : State.Acted s s s 0 s.me.pend s.me.cq where
  plain := hs
  causes := (congrArg Ctx.sticky (Ctx.sticky1_zero s.me _ _)).symm
  regs := regsSame_refl _
  pend := rfl
  cq := rfl
  tile _ := rfl
  mem := rfl
  cur := rfl

/-- A change of the unit at hand that keeps its records and its registers. -/
theorem mine {u : State} {k : Ctx} (h : State.Acted s w t z p q) (m : State.Mine t u k)
    (hrep : k.rep.logging = t.me.rep.logging ∧ k.rep.replaying = t.me.rep.replaying) (hsticky : k.sticky = t.me.sticky)
    (hregs : regsSame t.me k) : State.Acted s w u z k.pend k.cq where
  plain := by
    have := h.plain
    unfold State.plain at *
    rwa [m.me, hrep.1, hrep.2]
  causes := by
    have := h.causes
    unfold causesSet at *
    rwa [m.me, hsticky]
  regs := by
    rw [m.me]
    exact regsSame_trans h.regs hregs
  pend := congrArg Ctx.pend m.me
  cq := congrArg Ctx.cq m.me
  tile n := (m.tile n).trans (h.tile n)
  mem := m.mem.trans h.mem
  cur := m.cur.trans h.cur

/-- A change of tile entries keeps everything else. -/
theorem moved {l : TLoc} {u : State} (h : State.Acted s w t z p q) (m : State.TileMoved l t u) : State.Acted s u u z p q where
  plain := State.plain_of_moved h.plain m
  causes := (congrArg Ctx.sticky m.me).trans h.causes
  regs := regsSame_trans h.regs (regsSame_of_moved m.me)
  pend := (congrArg Ctx.pend m.me).trans h.pend
  cq := (congrArg Ctx.cq m.me).trans h.cq
  tile _ := rfl
  mem := m.mem.trans h.mem
  cur := m.cur.trans h.cur

/-- The word sets its causes (R347). -/
theorem causeIn (h : State.Acted s w t 0 p q) (z : BitVec 12) : State.Acted s w (t.causeIn z) z p q := by
  have m := State.causeIn_mine h.plain z
  have sticky : t.me.sticky = s.me.sticky := h.causes.trans (congrArg Ctx.sticky (Ctx.sticky1_zero s.me _ _))
  refine ⟨?_, ?_, ?_, ?_, ?_, fun n => (m.tile n).trans (h.tile n), m.mem.trans h.mem, m.cur.trans h.cur⟩
  · have := h.plain
    unfold State.plain at *
    rwa [m.me, Ctx.sticky1_rep]
  · unfold causesSet
    rw [m.me, h.cur]
    exact Ctx.sticky1_sticky_congr sticky _ _ _
  · rw [m.me]
    exact regsSame_trans h.regs (regsSame_sticky1 _ _ _ _)
  · rw [m.me, Ctx.sticky1_pend, h.pend]
  · rw [m.me, Ctx.sticky1_cq, h.cq]

/-- Its interlocked write gets a value (R40). -/
theorem result (h : State.Acted s w t z s.me.pend q) (left : Nat) (v : VReg) :
    State.Acted s w (t.result left v) z (s.me.fillPend s.cur.tok left v none).pend q := by
  have r := h.mine (t.modMe_mine (f := (·.fillPend t.cur.tok left v none)) rfl) ⟨rfl, rfl⟩ rfl (regsSame_refl _)
  have pend : (t.me.fillPend t.cur.tok left v none).pend = (s.me.fillPend s.cur.tok left v none).pend := by
    rw [Ctx.fillPend, Ctx.fillPend, h.pend, h.cur]
  rw [pend, show (t.me.fillPend t.cur.tok left v none).cq = q from h.cq] at r
  exact r

/-- Its condition entry fills as the kind of the read says (R161). -/
theorem pushRead (h : State.Acted s w t z p s.me.cq) (r : BitVec 2) (b : Bool) :
    State.Acted s w (if r = 2 then t.pushCqIn b else t) z p (s.me.pushedBy r s.cur.cqTok b).cq := by
  have m := h.mine (State.pushRead_mine h.plain r b)
      (by rw [Ctx.pushedBy_rep]; exact ⟨rfl, rfl⟩) (by unfold Ctx.pushedBy; split <;> rfl) (regsSame_pushedBy _ _ _ _)
  have pend : (t.me.pushedBy r t.cur.cqTok b).pend = p := by
    rw [← h.pend]
    unfold Ctx.pushedBy
    split <;> rfl
  have cq : (t.me.pushedBy r t.cur.cqTok b).cq = (s.me.pushedBy r s.cur.cqTok b).cq := by
    unfold Ctx.pushedBy
    split
    · rw [Ctx.fillCq, Ctx.fillCq, h.cq, h.cur]
    · exact h.cq
  rw [pend, cq] at m
  exact m

/-- The word's stream waits on nothing (R44). -/
theorem performed (h : State.Acted s w t z p q) : State.Acted s w t.performed z p q := by
  have m := h.mine (t.modMe_mine (f := fun cx => cx.unwaited (streamOf t.cur.slot)) rfl) ⟨rfl, rfl⟩ rfl (regsSame_refl _)
  rw [show (t.me.unwaited (streamOf t.cur.slot)).pend = p from h.pend, show (t.me.unwaited (streamOf t.cur.slot)).cq = q from h.cq] at m
  exact m

/-- The word is performed, and its unit has made one access (R44, R394). -/
theorem mtDone (h : State.Acted s w t z p q) : State.Acted s w t.mtDone z p q := by
  have m := h.mine (State.mtDone_mine h.plain) ⟨rfl, rfl⟩ rfl (regsSame_done _ _)
  rw [show (t.me.done (streamOf t.cur.slot)).pend = p from h.pend, show (t.me.done (streamOf t.cur.slot)).cq = q from h.cq] at m
  exact m

/-- A peer word is performed, at its unit's own core or at another (R394). -/
theorem mcDone (h : State.Acted s w t z p q) (own : Bool) : State.Acted s w (t.mcDone own) z p q := by
  cases own with
  | false => exact h.performed
  | true => exact h.mtDone

theorem rest (h : State.Acted s w t z p q) : regsSame s.me t.me ∧ t.mem = s.mem := ⟨h.regs, h.mem⟩

end State.Acted

/-! ### Reads (R159, R161) -/

/-- A read of an entry that is there counts on it, fills its condition entry and is performed. -/
theorem State.Acted.readDone {s t : State} {z : BitVec 12} {p : List Pend} (h : State.Acted s s t z p s.me.cq) (ht : unlogged t) {l : TLoc} (hl : l.inCore)
    (r : BitVec 2) (own : Bool) :
    let u := (t.readDone (some l) r).mcDone own
    State.Acted s (t.countRead l r) u z p (s.me.pushedBy r s.cur.cqTok true).cq ∧ counted s u l r ∧ tilesBut l s u := by
  obtain ⟨moved, count⟩ := t.countRead_moved hl r
  have read : t.readDone (some l) r = if r = 2 then (t.countRead l r).pushCqIn true else t.countRead l r := by
    unfold State.readDone
    simp only [State.noted_of_unlogged ht]
    rfl
  have done := ((h.moved moved).pushRead r true).mcDone own
  rw [← read] at done
  exact ⟨done, counted_congr r (h.tile l) (done.tile l).symm count, fun m hm => (done.tile m).trans ((moved.tiles m hm).trans (h.tile m))⟩

/-! ### Writes (R163, R178) -/

/-- A write leaves every other entry, and its own as the written tile, PRESENT if its park is abandoned (R163). -/
theorem State.writeTile_moved (s : State) {l : TLoc} (hl : l.inCore) (f : Tile → Tile) :
    State.TileMoved l s (s.writeTile l f) ∧
      (s.writeTile l f).tile l = f ((s.tile l).inState (if (s.tile l).st = .parking then .present else (s.tile l).st)) := by
  unfold State.writeTile
  dsimp only
  split
  · exact ⟨(s.modLaunch_moved l _ _).trans (State.setTile_moved _ hl _), State.tile_setTile _ hl _⟩
  · exact ⟨State.setTile_moved _ hl _, State.tile_setTile _ hl _⟩

theorem unlogged_writeTile {s : State} (hs : unlogged s) {l : TLoc} (hl : l.inCore) (f : Tile → Tile) : unlogged (s.writeTile l f) := by
  unfold State.writeTile
  dsimp only
  split
  · exact unlogged_setTile (s := s.unparkSpace l (s.tile l)) hs hl _
  · exact unlogged_setTile hs hl _

/-- A ready entry is PRESENT or PARKING. -/
theorem State.st_of_avail_ready {s : State} {l : TLoc} (h : s.avail l = .ready) : (s.tile l).st = .present ∨ (s.tile l).st = .parking := by
  unfold State.avail at h
  split at h <;> simp_all

/-- A write keeps the state of its entry. -/
theorem Tile.write_inState (t : Tile) (st : TileState) (o n : Nat) (v : BitVec (8 * n)) : (t.inState st).write o n v = (t.write o n v).inState st := by
  by_cases h : t.size ≤ o
  · rw [Tile.write, Tile.write, if_pos h, if_pos (show (t.inState st).size ≤ o from h)]
  · rw [Tile.write, Tile.write, if_neg h, if_neg (show ¬(t.inState st).size ≤ o from h)]
    rfl

/-- The causes of an access at an offset of a tile: INV where it is wholly beyond it (R177, R178). -/
def Tile.pastEnd (t : Tile) (o : Nat) : BitVec 12 := if t.size ≤ o then cINV else 0

/-- Data written to a ready entry (R178). -/
theorem State.Acted.writeData {s : State} (hs : unlogged s) {l : TLoc} (hl : l.inCore) (o n : Nat) (v : BitVec (8 * n)) :
    State.Acted s (s.writeTile l (·.write o n v)) (s.writeData (some l) o n v) ((s.tile l).pastEnd o) s.me.pend s.me.cq := by
  obtain ⟨moved, -⟩ := s.writeTile_moved hl (·.write o n v)
  have written : s.writeData (some l) o n v = (s.writeTile l (·.write o n v)).causeIn ((s.tile l).pastEnd o) := by
    unfold State.writeData Tile.pastEnd
    simp only [State.noteWrite_of_unlogged (unlogged_writeTile hs hl _), State.noted_of_unlogged hs]
    split
    · rfl
    · exact (if_pos (.inl rfl)).symm
  rw [written]
  exact ((State.Acted.refl (State.plain_of_unlogged hs)).moved moved).causeIn _

/-- An atomic on a ready entry (R178). -/
theorem State.Acted.atom {s : State} (hs : unlogged s) {l : TLoc} (hl : l.inCore) (op : BitVec 2) (o : Nat) (a b : W64) (left : Nat) :
    State.Acted s (s.writeTile l (·.write o 8 (atomicWord op ((s.tile l).read o 8) a b)))
      ((s.atomData (some l) op o a b).2.result left ((s.atomData (some l) op o a b).1.setWidth 4096)) ((s.tile l).pastEnd o)
      (s.me.fillPend s.cur.tok left (((s.tile l).read o 8).setWidth 4096) none).pend s.me.cq :=
  (State.Acted.writeData hs hl o 8 (atomicWord op ((s.tile l).read o 8) a b)).result left _

/-- An atomic that finds no entry delivers 0 (R161). -/
theorem State.Acted.atom_none {s : State} (hs : s.plain) (op : BitVec 2) (o : Nat) (a b : W64) (left : Nat) :
    State.Acted s s ((s.atomData none op o a b).2.result left ((s.atomData none op o a b).1.setWidth 4096)) cABSENT
      (s.me.fillPend s.cur.tok left 0 none).pend s.me.cq := by
  have value : (s.atomData none op o a b).1.setWidth 4096 = (0 : VReg) := by
    rw [show (s.atomData none op o a b).1 = 0 from rfl]
    simp
  rw [value]
  exact ((State.Acted.refl hs).causeIn cABSENT).result left 0

/-- What a word that has written a ready entry leaves of the entries (R163, R178). -/
theorem State.Acted.written {s u : State} {z : BitVec 12} {p : List Pend} {q : List CqEntry} {l : TLoc} {o n : Nat} {v : BitVec (8 * n)}
    (h : State.Acted s (s.writeTile l (·.write o n v)) u z p q) (hl : l.inCore) (hready : s.avail l = .ready) :
    tilesBut l s u ∧ u.tile l = { (s.tile l).write o n v with st := .present } := by
  obtain ⟨moved, tile⟩ := s.writeTile_moved hl (·.write o n v)
  have st : (if (s.tile l).st = .parking then TileState.present else (s.tile l).st) = .present := by
    rcases State.st_of_avail_ready hready with h | h <;> simp [h]
  rw [st, Tile.write_inState] at tile
  exact ⟨fun m hm => (h.tile m).trans (moved.tiles m hm), (h.tile l).trans tile⟩

theorem State.access_ready {s : State} {l : TLoc} (h : s.avail l = .ready) (trap : Bool) (k : Bool → State) : s.access l trap k = k true := by
  unfold State.access
  rw [h]

/-- An atomic delivers what it found in the state that it leaves. -/
theorem State.atomData_result {s : State} {l : Option TLoc} (op : BitVec 2) (o : Nat) (a b : W64) (left : Nat) (done : State → State) :
    (match s.atomData l op o a b with
      | (old, u) => done (u.result left (old.setWidth 4096))) =
    done ((s.atomData l op o a b).2.result left ((s.atomData l op o a b).1.setWidth 4096)) := rfl

/-- A write operand of a ready entry goes on with it. -/
theorem State.writeOp_ready {s : State} {x : BitVec 9} {l : TLoc} (hx : s.consumer x = some l) (hl : s.avail l = .ready) (k : Option TLoc → State) :
    s.writeOp x k = k (some l) := by
  unfold State.writeOp
  simp only [hx, State.access_ready hl, if_true]

/-- A write operand of an ABSENT entry goes on without one, through a handle too (R161, R411). -/
theorem State.writeOp_absent {s : State} {x : BitVec 9} {l : TLoc} (hx : s.consumer x = some l) (hl : (s.tile l).st = .absent)
    (k : Option TLoc → State) : s.writeOp x k = k none := by
  unfold State.writeOp State.access
  simp only [hx, State.avail_absent hl, Bool.false_eq_true, if_false]

/-- What a write leaves of the bytes, the count and the shape of a tile (R178). -/
theorem Tile.write_bytes {e : Tile} (he : e.size ≤ 65536) (n k : Nat) (v : BitVec (8 * k)) {j : Nat} (hj : j < e.size) :
    (e.write n k v).count = e.count ∧ (e.write n k v).size = e.size ∧
      (e.write n k v).read j 1 = if n ≤ j ∧ j < n + k then v.extractLsb' (8 * (j - n)) (8 * 1) else e.read j 1 := by
  refine ⟨by rw [Tile.write_eq_withData]; rfl, Tile.size_write e n k v, ?_⟩
  ext i hi
  rw [← BitVec.getLsbD_eq_getElem, ← BitVec.getLsbD_eq_getElem, Tile.read_getLsbD, Tile.bit_write he]
  by_cases hin : n ≤ j ∧ j < n + k
  · have place : 8 * j + i - 8 * n = 8 * (j - n) + i := by omega
    rw [if_pos hin, if_pos (by omega), BitVec.getLsbD_extractLsb', place, decide_eq_true (show 8 * j + i < 8 * e.size by omega), Bool.true_and]
  · rw [if_neg hin, if_neg (by omega), Tile.read_getLsbD]

end Sys2Proof.Machine
end

section
/-! PROOF. Writes of own tiles (O35). -/

namespace Sys2Proof.Machine

open Sys2Proof.Safety

/-- `tst` of an aligned offset writes its operand (R178). -/
theorem execTst_aligned (t : BitVec 3) (i : BitVec 2) (x : BitVec 9) (a p : BitVec 5) (s : State) (h : s.pOffset p 512 % 64 = 0) :
    exec (.tst t i x a p) s = .next (s.writeOp x fun l => (s.writeData l (s.pOffset p 512) 512 s.cur.ops.v).mtDone) :=
  congrArg _ (if_neg (not_not.2 h))

/-- `tsw` of an aligned offset writes its operand (R178). -/
theorem execTsw_aligned (t : BitVec 3) (i : BitVec 2) (x : BitVec 9) (a b : BitVec 5) (s : State) (h : (s.opS a).toNat % 65536 % 8 = 0) :
    exec (.tsw t i x a b) s = .next (s.writeOp x fun l => (s.writeData l ((s.opS a).toNat % 65536) 8 (s.opS b)).mtDone) :=
  congrArg _ (if_neg (not_not.2 h))

/-- `tatom` of an aligned offset is an atomic on its operand (R178). -/
theorem execTatom_aligned (t : BitVec 3) (i : BitVec 2) (x : BitVec 9) (op : BitVec 2) (d a : BitVec 5) {s : State}
    (h : (s.opS d).toNat % 65536 % 8 = 0) :
    exec (.tatom t i x op d a) s = .next (s.writeOp x fun l => match s.atomData l op ((s.opS d).toNat % 65536) (s.opS a) (s.opS (a + 1)) with
      | (old, u) => (u.result 3 (old.setWidth 4096)).mtDone) :=
  congrArg Host.Outcome.next (if_neg (not_not.2 h))

/-- `tatom` of an aligned offset on an operand that is found, or is not (R178). -/
theorem execTatom_on (t : BitVec 3) (i : BitVec 2) (x : BitVec 9) (op : BitVec 2) (d a : BitVec 5) {s : State} {l : Option TLoc}
    (h : (s.opS d).toNat % 65536 % 8 = 0) (hx : ∀ k, s.writeOp x k = k l) :
    exec (.tatom t i x op d a) s = .next (((s.atomData l op ((s.opS d).toNat % 65536) (s.opS a) (s.opS (a + 1))).2.result 3
      ((s.atomData l op ((s.opS d).toNat % 65536) (s.opS a) (s.opS (a + 1))).1.setWidth 4096)).mtDone) :=
  (execTatom_aligned t i x op d a h).trans (congrArg Host.Outcome.next ((hx _).trans (State.atomData_result op _ _ _ 3 State.mtDone)))

/-- The signed maximum of an atomic is that of the integers that its words spell (R178). -/
theorem atomicWord_eq (op : BitVec 2) (old a b : W64) : atomicWord op old a b = match op.toNat with
    | 0 => old + a
    | 1 => if old.toInt < a.toInt then a else old
    | 2 => a
    | _ => if old = a then b else old := by
  unfold atomicWord
  generalize op.toNat = n
  match n with
  | 0 => rfl
  | 1 => exact if_congr decide_eq_true_iff rfl rfl
  | 2 => rfl
  | _ + 3 => rfl

end Sys2Proof.Machine

namespace Sys2Proof.Proofs

open Sys2Proof.Machine Sys2Proof.Safety

/-- Settles O35: each word is a write of its operand, which changes a ready entry in one way, and sets ABSENT where there is none. -/
theorem tileWritesStoreTheirBytes : Obligations.TileWritesStoreTheirBytes := by
  unfold Obligations.TileWritesStoreTheirBytes
  intro t i x p a b d op s hs o w z past rest wrote none_
  have start := State.Acted.refl (State.plain_of_unlogged hs)
  have found {l : TLoc} (hl : l.inCore) (hready : s.avail l = .ready) {n k : Nat} {v v' : BitVec (8 * k)} {u : State} {pend : List Pend}
      (h : State.Acted s (s.writeTile l (·.write n k v)) u (past l n) pend s.me.cq) (hv : v = v') : wrote u l n k v' := by
    subst hv
    obtain ⟨other, tile⟩ := h.written hl hready
    exact ⟨h.causes, other, ⟨h.regs, h.mem, h.cq⟩, tile⟩
  have missed {u : State} {pend : List Pend} (h : State.Acted s s u cABSENT pend s.me.cq) : none_ u := ⟨h.causes, h.tile, h.regs, h.mem, h.cq⟩
  refine ⟨fun l hx hready => ?ready, fun l hx habsent => ?absent, fun e n k j v he hj => Tile.write_bytes he n k v hj,
    fun ho => congrArg _ (if_pos ho), fun hw => congrArg _ (if_pos hw), fun hz => congrArg _ (if_pos hz)⟩
  case ready =>
    have hl := State.consumer_inCore hx
    refine ⟨fun ho => ?_, fun hw => ?_, fun hz => ?_⟩
    · have h := (State.Acted.writeData hs hl o 512 s.cur.ops.v).mtDone
      exact ⟨_, (execTst_aligned t i x a p s ho).trans (congrArg _ (State.writeOp_ready hx hready _)), h.pend, found hl hready h rfl⟩
    · have h := (State.Acted.writeData hs hl w 8 (s.opS b)).mtDone
      exact ⟨_, (execTsw_aligned t i x a b s hw).trans (congrArg _ (State.writeOp_ready hx hready _)), h.pend, found hl hready h rfl⟩
    · have h := (State.Acted.atom hs hl op z (s.opS a) (s.opS (a + 1)) 3).mtDone
      exact ⟨_, execTatom_on t i x op d a hz (State.writeOp_ready hx hready), h.pend, found hl hready h (atomicWord_eq op _ _ _)⟩
  case absent =>
    have h := (start.causeIn cABSENT).mtDone
    refine ⟨fun ho => ?_, fun hw => ?_, fun hz => ?_⟩
    · exact ⟨_, (execTst_aligned t i x a p s ho).trans (congrArg _ (State.writeOp_absent hx habsent _)), missed h⟩
    · exact ⟨_, (execTsw_aligned t i x a b s hw).trans (congrArg _ (State.writeOp_absent hx habsent _)), missed h⟩
    · have h := (State.Acted.atom_none (State.plain_of_unlogged hs) op z (s.opS a) (s.opS (a + 1)) 3).mtDone
      exact ⟨_, execTatom_on t i x op d a hz (State.writeOp_absent hx habsent), h.pend, missed h⟩

end Sys2Proof.Proofs
end

section
/-! PROOF. Peer reads, writes, atomics and counts (O38). -/

namespace Sys2Proof.Machine

open Sys2Proof.Safety

/-! ### Peer words (R268) -/

/-- The reserved bits of a peer word, as R268 lists them. -/
theorem peerOk_iff (p : W64) : peerOk p = true ↔ p.extractLsb' 60 4 = 0#4 ∧ p.getLsbD 51 = false ∧ p.extractLsb' 7 9 = 0#9 := by
  have one : p.extractLsb' 51 1 = 0#1 ↔ p.getLsbD 51 = false := by
    refine ⟨fun h => ?_, fun h => ?_⟩
    · simpa using congrArg (·.getLsbD 0) h
    · ext i hi
      obtain rfl : i = 0 := by omega
      simpa using h
  unfold peerOk fld
  rw [Bool.and_eq_true, Bool.and_eq_true, decide_eq_true_iff, decide_eq_true_iff, decide_eq_true_iff, one, and_assoc]

/-- The core that a peer word names within its cluster (R268). -/
theorem peerCore_eq (c : Nat) (w : W64) : peerCore c w = c / 96 * 96 + w.toNat % 128 := by
  rw [peerCore, fld_toNat, pow_zero, Nat.div_one]
  rfl

theorem State.peerChecked_reserved {w : W64} (h : ¬peerOk w = true) (s : State) (n : Nat) (bad k : State) : s.peerChecked w n bad k = bad :=
  if_pos (by simpa using h)

theorem State.peerChecked_far {w : W64} (h : peerOk w = true) (hfar : ¬w.toNat % 128 < 96) (s : State) (n : Nat) (bad k : State) :
    s.peerChecked w n bad k = s.fatalMe .permission := by
  have far : 96 ≤ (fld w 0 7).toNat := by
    rw [fld_toNat, pow_zero, Nat.div_one]
    exact Nat.not_lt.1 hfar
  unfold State.peerChecked
  rw [if_neg (by simp [h]), if_pos far]

/-- A peer word of a core of its cluster is judged by its offset. -/
theorem State.peerChecked_near {w : W64} (h : peerOk w = true) (hnear : w.toNat % 128 < 96) (s : State) (n : Nat) (bad k : State) :
    s.peerChecked w n bad k = if (fld w 16 16).toNat % n ≠ 0 then s.fatalMe .misalign else k := by
  have near : ¬96 ≤ (fld w 0 7).toNat := by
    rw [fld_toNat, pow_zero, Nat.div_one]
    exact Nat.not_le.2 hnear
  unfold State.peerChecked
  rw [if_neg (by simp [h]), if_neg near]

theorem State.peerChecked_passes {w : W64} (h : peerOk w = true) (hnear : w.toNat % 128 < 96) {n : Nat} (ho : w.toNat / 2 ^ 16 % 2 ^ 16 % n = 0)
    (s bad k : State) : s.peerChecked w n bad k = k := by
  rw [State.peerChecked_near h hnear, fld_toNat, if_neg (not_not.2 ho)]

/-- The entry that a peer word and a tile operand name (R268). -/
theorem State.peerLoc_some {s : State} {x : BitVec 9} {n : Nat} (hx : s.me.name false x = some n) (w : W64) :
    s.peerLoc w x = some (.launch (s.cur.core / 96 * 96 + w.toNat % 128) s.me.launch n) := by
  rw [State.peerLoc, hx, peerCore_eq]
  rfl

/-- A peer access to a ready entry goes on with it, in a unit that is not replayed (R399). -/
theorem State.peerAccess_ready {s : State} (hs : s.plain) {w : W64} {x : BitVec 9} {l : TLoc} (hx : s.peerLoc w x = some l) (hl : s.avail l = .ready)
    (k : Option TLoc → State) : s.peerAccess w x k = k (some l) := by
  obtain ⟨-, hr⟩ := hs
  unfold State.peerAccess State.replaying
  simp only [hx, hr, Bool.false_and, Bool.false_eq_true, if_false, State.access_ready hl, if_true]

/-- The word's interlocked write is dropped (R268). -/
theorem State.Acted.dropPend {s w t : State} {z : BitVec 12} {p : List Pend} {q : List CqEntry} (h : State.Acted s w t z p q) (tok : Nat) :
    State.Acted s w (t.modMe (·.dropPend tok)) z (p.filter fun e => e.tok != tok) q := by
  have m := h.mine (t.modMe_mine (f := (·.dropPend tok)) rfl) ⟨rfl, rfl⟩ rfl (regsSame_refl _)
  rw [show (t.me.dropPend tok).pend = p.filter fun e => e.tok != tok from congrArg _ h.pend, show (t.me.dropPend tok).cq = q from h.cq] at m
  exact m

theorem gets_congr {s u : State} {left : Nat} {v v' : VReg} (hv : v = v') (h : gets s u left v) : gets s u left v' := hv ▸ h

/-- What follows a read of a found entry follows its bytes and its causes. -/
theorem State.readData_then {s : State} {l : TLoc} {o n : Nat} {β : Type} (f : BitVec (8 * n) → BitVec 12 → β) :
    (match s.readData (some l) o n with | (v, z) => f v z) = f ((s.tile l).read o n) ((s.tile l).pastEnd o) := rfl

/-! ### Reads, writes and counts of a peer's entry (R273, R274, R275) -/

section

variable {s : State} {x : BitVec 9} {n g : Nat} {l : TLoc} {c d : BitVec 5}

/-- A peer read whose checks pass and whose entry is found (R273). -/
theorem State.peerRead_found (hg : (if n = 512 then 64 else 8) = g) (hcheck : ∀ bad k, s.peerChecked (s.opS c) g bad k = k)
    (hfound : ∀ k, s.peerAccess (s.opS c) x k = k (some l)) (r : BitVec 2) : s.peerRead x r c n =
      (((s.result 0 (((s.tile l).read ((s.opS c).toNat / 2 ^ 16 % 2 ^ 16) n).setWidth 4096)).causeIn
        ((s.tile l).pastEnd ((s.opS c).toNat / 2 ^ 16 % 2 ^ 16))).readDone (some l) r).mcDone (s.isOwn (s.opS c)) := by
  subst hg
  rw [← fld_toNat (s.opS c) 16 16]
  exact (hcheck _ _).trans ((hfound _).trans (State.readData_then fun v z =>
    (((s.result 0 (v.setWidth 4096)).causeIn z).readDone (some l) r).mcDone (s.isOwn (s.opS c))))

/-- A peer read with reserved bits set sets INV and drops its result (R268). -/
theorem State.peerRead_reserved (h : ¬peerOk (s.opS c) = true) (r : BitVec 2) : s.peerRead x r c n =
    (if r = 2 then ((s.causeIn cINV).modMe (·.dropPend s.cur.tok)).pushCqIn false else (s.causeIn cINV).modMe (·.dropPend s.cur.tok)).performed :=
  State.peerChecked_reserved h _ _ _ _

/-- A peer write whose checks pass and whose entry is found (R273). -/
theorem State.peerWrite_found (hg : (if n = 512 then 64 else 8) = g) (hcheck : ∀ bad k, s.peerChecked (s.opS c) g bad k = k)
    (hfound : ∀ k, s.peerAccess (s.opS c) x k = k (some l)) (v : BitVec (8 * n)) :
    s.peerWrite x c n v = (s.writeData (some l) ((s.opS c).toNat / 2 ^ 16 % 2 ^ 16) n v).mcDone (s.isOwn (s.opS c)) := by
  subst hg
  rw [← fld_toNat (s.opS c) 16 16]
  exact (hcheck _ _).trans (hfound _)

/-- `catom` is an atomic on the entry of its peer word (R274). -/
theorem execCatom_eq (t : BitVec 3) (i : BitVec 2) (op : BitVec 2) (a : BitVec 5) : exec (.catom t i x op d a) s =
    .next (s.peerChecked (s.opS d) 8 ((s.causeIn cINV).result 0 0).performed (s.peerAccess (s.opS d) x fun l =>
      match s.atomData l op (fld (s.opS d) 16 16).toNat (s.opS a) (s.opS (a + 1)) with
      | (old, u) => (u.result 0 (old.setWidth 4096)).mcDone (s.isOwn (s.opS d)))) := rfl

/-- A peer atomic whose checks pass and whose entry is found (R274). -/
theorem execCatom_found (t : BitVec 3) (i : BitVec 2) (op : BitVec 2) (a : BitVec 5) (hcheck : ∀ bad k, s.peerChecked (s.opS d) 8 bad k = k)
    (hfound : ∀ k, s.peerAccess (s.opS d) x k = k (some l)) :
    exec (.catom t i x op d a) s =
      .next (((s.atomData (some l) op ((s.opS d).toNat / 2 ^ 16 % 2 ^ 16) (s.opS a) (s.opS (a + 1))).2.result 0
        ((s.atomData (some l) op ((s.opS d).toNat / 2 ^ 16 % 2 ^ 16) (s.opS a) (s.opS (a + 1))).1.setWidth 4096)).mcDone (s.isOwn (s.opS d))) := by
  rw [execCatom_eq, hcheck, hfound, fld_toNat]

/-- A peer count whose checks pass (R275). -/
theorem execCcnt_found (hs : s.plain) (t : BitVec 3) (i : BitVec 2) (a : BitVec 5) (hcheck : ∀ bad k, s.peerChecked (s.opS c) 1 bad k = k)
    (hx : s.peerLoc (s.opS c) x = some l) :
    exec (.ccnt t i x a c) s = .next ((s.changeCount (some l) (s.opS a).toInt).mcDone (s.isOwn (s.opS c))) := by
  obtain ⟨-, hr⟩ := hs
  have world : ¬(s.replaying && !(s.isOwn (s.opS c))) = true := by
    rw [State.replaying, hr]
    simp
  exact congrArg Host.Outcome.next ((hcheck _ _).trans ((if_neg world).trans (by rw [hx])))

end

/-- A count with a signed value added lies in [0, 65,535] (R180). -/
theorem addCount_fst (n : Nat) (v : Int) : (addCount n v).1 = (min 65535 ((n : Int) + v)).toNat := by
  unfold addCount
  dsimp only
  split_ifs <;> omega

/-- A count set changes its entry alone, and 0 ends its tile (R180). -/
theorem State.setCount_moved (s : State) {l : TLoc} (hl : l.inCore) (n : Nat) :
    State.TileMoved l s (s.setCount l n) ∧ (n = 0 → ((s.setCount l n).tile l).st = .absent) ∧
      (n ≠ 0 → (s.setCount l n).tile l = { s.tile l with count := n }) := by
  unfold State.setCount
  split
  · next h =>
    obtain ⟨moved, gone⟩ := s.vanish_moved hl
    exact ⟨moved, fun _ => by rw [gone]; rfl, fun h' => absurd h h'⟩
  · next h => exact ⟨s.setTile_moved hl _, fun h' => absurd h' h, fun _ => s.tile_setTile hl _⟩

/-- The count of a live tile changes by a signed value (R180). -/
theorem State.Acted.changeCount {s : State} (hs : unlogged s) {l : TLoc} (hl : l.inCore) (hlive : (s.tile l).st ≠ .absent) (v : Int) :
    State.Acted s (s.setCount l (addCount (s.tile l).count v).1) (s.changeCount (some l) v)
      (if (addCount (s.tile l).count v).2 then cCOUNTSAT else 0) s.me.pend s.me.cq := by
  obtain ⟨moved, -⟩ := s.setCount_moved hl (addCount (s.tile l).count v).1
  have changed : s.changeCount (some l) v =
      (s.setCount l (addCount (s.tile l).count v).1).causeIn (if (addCount (s.tile l).count v).2 then cCOUNTSAT else 0) := by
    unfold State.changeCount
    simp only [if_neg hlive, State.noted_of_unlogged hs]
  rw [changed]
  exact ((State.Acted.refl (State.plain_of_unlogged hs)).moved moved).causeIn _

/-- What a word that has changed a count leaves of the entries (R180). -/
theorem State.Acted.recounted {s u : State} {z : BitVec 12} {p : List Pend} {q : List CqEntry} {l : TLoc} {v : Int}
    (h : State.Acted s (s.setCount l (addCount (s.tile l).count v).1) u z p q) (hl : l.inCore) :
    tilesBut l s u ∧ (((s.tile l).count : Int) + v ≤ 0 → (u.tile l).st = .absent) ∧
      (0 < ((s.tile l).count : Int) + v → u.tile l = { s.tile l with count := (min 65535 (((s.tile l).count : Int) + v)).toNat }) := by
  obtain ⟨moved, gone, stays⟩ := s.setCount_moved hl (addCount (s.tile l).count v).1
  have count := addCount_fst (s.tile l).count v
  refine ⟨fun m hm => (h.tile m).trans (moved.tiles m hm), fun hv => ?_, fun hv => ?_⟩
  · rw [h.tile]
    exact gone (by omega)
  · rw [h.tile, stays (by omega), count]

end Sys2Proof.Machine

namespace Sys2Proof.Proofs

open Sys2Proof.Machine Sys2Proof.Safety

/-- Settles O38: a peer word that passes its checks acts on its entry as the own core's word does; the checks come first. -/
theorem peerReadsDeliverAndCount : Obligations.PeerReadsDeliverAndCount := by
  unfold Obligations.PeerReadsDeliverAndCount
  intro t i x r op d a b c s hs w y o z past rest wrote good near loc bad
  have plain := State.plain_of_unlogged hs
  have start := State.Acted.refl plain
  have found {l : TLoc} (hl : l.inCore) (hready : s.avail l = .ready) {n k : Nat} {v : BitVec (8 * k)} {u : State} {pend : List Pend}
      (h : State.Acted s (s.writeTile l (·.write n k v)) u (past l n) pend s.me.cq) : wrote u l n k v := by
    obtain ⟨other, tile⟩ := h.written hl hready
    exact ⟨h.causes, other, h.rest, tile⟩
  have passes {p : W64} (hp : good p) (hnear : near p) {k : Nat} (ho : p.toNat / 2 ^ 16 % 2 ^ 16 % k = 0) :=
    State.peerChecked_passes ((peerOk_iff p).2 hp) hnear ho s
  have reserved {p : W64} (hp : ¬good p) : ¬peerOk p = true := fun h => hp ((peerOk_iff p).1 h)
  refine ⟨fun n hx hw hnear => ?found, fun n hx hy hnear hready hz => ?atom, fun hw => ?reserved, fun hw hfar => ?far, fun hw hnear ho => ?misaligned⟩
  case found =>
    intro l
    have hl : l.inCore := trivial
    have access (hready : s.avail l = .ready) := State.peerAccess_ready plain (State.peerLoc_some hx w) hready
    have read (k : Nat) :
        let u := (((s.result 0 (((s.tile l).read o k).setWidth 4096)).causeIn ((s.tile l).pastEnd o)).readDone (some l) r).mcDone (s.isOwn w)
        gets s u 0 (((s.tile l).read o k).setWidth 4096) ∧ causesSet s u (past l o) ∧ counted s u l r ∧ pushed s u r true ∧ tilesBut l s u ∧ rest u := by
      obtain ⟨acted, count, other⟩ := ((start.result 0 (((s.tile l).read o k).setWidth 4096)).causeIn ((s.tile l).pastEnd o)).readDone
        (unlogged_causeIn (unlogged_modMe hs rfl) _) hl r (s.isOwn w)
      refine ⟨acted.pend, acted.causes, count, acted.cq.trans ?_, other, acted.rest⟩
      unfold Ctx.pushedBy
      split <;> rfl
    have stored (k : Nat) (v : BitVec (8 * k)) := (State.Acted.writeData hs hl o k v).mcDone (s.isOwn w)
    have reads {k g : Nat} (hg : (if k = 512 then 64 else 8) = g) (ho : o % g = 0) (hready : s.avail l = .ready) :=
      congrArg (Host.Outcome.next : State → Out) (State.peerRead_found hg (passes hw hnear ho) (access hready) r)
    have writes {k g : Nat} (hg : (if k = 512 then 64 else 8) = g) (ho : o % g = 0) (hready : s.avail l = .ready) (v : BitVec (8 * k)) :=
      congrArg (Host.Outcome.next : State → Out) (State.peerWrite_found hg (passes hw hnear ho) (access hready) v)
    refine ⟨fun hready ho => ⟨?_, ?_⟩, fun hready ho => ⟨?_, ?_⟩, fun hlive => ?_⟩
    · obtain ⟨got, done⟩ := read 512
      exact ⟨_, reads (k := 512) rfl ho hready, gets_congr (BitVec.setWidth_eq _) got, done⟩
    · exact ⟨_, writes (k := 512) rfl ho hready _, found hl hready (stored 512 _)⟩
    · exact ⟨_, reads (k := 8) rfl ho hready, read 8⟩
    · exact ⟨_, writes (k := 8) rfl ho hready _, found hl hready (stored 8 _)⟩
    · have h := (State.Acted.changeCount hs hl hlive (s.opS a).toInt).mcDone (s.isOwn w)
      obtain ⟨other, gone, stays⟩ := h.recounted hl
      exact ⟨_, execCcnt_found plain t i a (passes hw hnear (Nat.mod_one _)) (State.peerLoc_some hx w), other, h.rest, gone, stays⟩
  case atom =>
    have hl : (loc y n).inCore := trivial
    have h := (State.Acted.atom hs hl op z (s.opS a) (s.opS (a + 1)) 0).mcDone (s.isOwn y)
    exact ⟨_, execCatom_found t i op a (passes hy hnear hz) (State.peerAccess_ready plain (State.peerLoc_some hx y) hready), h.pend,
      found hl hready h⟩
  case reserved =>
    have caused := start.causeIn cINV
    have unread := ((caused.dropPend s.cur.tok).pushRead r false).performed
    have refused {u : State} {pend : List Pend} {cq : List CqEntry} (h : State.Acted s s u cINV pend cq) : bad (.next u) :=
      ⟨u, rfl, h.causes, h.rest, h.tile⟩
    have read (n : Nat) : bad (.next (s.peerRead x r c n)) := by
      rw [State.peerRead_reserved (reserved hw)]
      exact refused unread
    have write (n : Nat) (v : BitVec (8 * n)) : bad (.next (s.peerWrite x c n v)) := by
      rw [State.peerWrite, State.peerChecked_reserved (reserved hw)]
      exact refused caused.performed
    refine ⟨read 512, read 8, write 512 _, write 8 _, ?_⟩
    have count := State.peerChecked_reserved (reserved hw) s 1 (s.causeIn cINV).performed
    exact ⟨_, congrArg Host.Outcome.next (count _), caused.performed.causes, caused.performed.rest, caused.performed.tile⟩
  case far =>
    have fatal := State.peerChecked_far ((peerOk_iff w).2 hw) hfar s
    exact ⟨congrArg Host.Outcome.next (fatal _ _ _), congrArg Host.Outcome.next (fatal _ _ _), congrArg Host.Outcome.next (fatal _ _ _)⟩
  case misaligned =>
    have fatal (e g : State) : s.peerChecked w 64 e g = s.fatalMe .misalign := by
      rw [State.peerChecked_near ((peerOk_iff w).2 hw) hnear, fld_toNat, if_pos ho]
    exact ⟨congrArg Host.Outcome.next (fatal _ _), congrArg Host.Outcome.next (fatal _ _)⟩

end Sys2Proof.Proofs
end

section
/-! PROOF. `tshare` in a cancelled launch (O36): the tile that it moves vanishes at once (R75, R157, R181). -/

namespace Sys2Proof.Machine

open Sys2Proof.Safety

theorem unlogged_reset : unlogged State.reset := by
  refine ⟨fun c x => ?_, fun f hf => absurd hf List.not_mem_nil, ?_⟩
  · rw [State.ctx_reset]
    rfl
  · rw [State.me, State.ctx_reset]
    rfl

/-- A PRESENT tile of one count. -/
def shareWitnessTile : Tile := Tile.absent.inState .present

/-- The device after reset, but that tile 5 of the unit at hand is PRESENT, and its launch is cancelled. -/
def shareWitness : State :=
  { State.reset.modMe (·.withTiles [(5, shareWitnessTile)]) with launches := [{ packetLaunch 0 0 0 0 with stage := .cancelled }] }

theorem unlogged_shareWitness : unlogged shareWitness :=
  unlogged_modMe (f := (·.withTiles [(5, shareWitnessTile)])) unlogged_reset rfl

/-- The state of entry 5 of the launch's table after `tshare` of tile 5. -/
def shareWitnessEntry : Option TileState :=
  match exec (.tshare 0 0 5) shareWitness with
  | .next u => some (u.tile (.launch 0 0 5)).st
  | _ => none

/-- The run: the launch's entry is ABSENT. -/
theorem shareWitnessEntry_eq : shareWitnessEntry = some .absent := by decide

end Sys2Proof.Machine

namespace Sys2Proof.Proofs

open Sys2Proof.Machine Sys2Proof.Safety

/-- Refutes O36, in its clause on `tshare`, which is about every launch, also a cancelled one: there the tile that moves into the launch table vanishes at
once (R75, R157), where the clause has it PRESENT. -/
theorem not_tilesAreMadeCountedAndEnded : ¬ Obligations.TilesAreMadeCountedAndEnded := by
  unfold Obligations.TilesAreMadeCountedAndEnded
  intro h
  obtain ⟨-, -, -, -, -, hshare⟩ := h 0 0 5 0 0 0 0 0 shareWitness unlogged_shareWitness
  obtain ⟨u, hu, -, hmoved, -⟩ := hshare 5 (by decide) (by decide) (by decide)
  have run := shareWitnessEntry_eq
  rw [shareWitnessEntry, hu] at run
  have absent : (u.tile (.launch 0 0 5)).st = .absent := Option.some.inj run
  have present : (u.tile (.launch 0 0 5)).st = .present := congrArg Tile.st hmoved
  rw [absent] at present
  cases present

end Sys2Proof.Proofs
end

section
/-! PROOF. A front whose κ names no objective (O53): the tuple that the policy of R254 picks is not before all older ones, where y(κ) of one is a NaN. -/

namespace Sys2Proof.Machine

open Sys2Proof.Safety

/-- Objectives 1.0, 2.0 and a third value, which no configuration of two objectives names. -/
def kappaTuple (third : Nat) : Tuple := ⟨BitVec.ofNat 128 (third * 2 ^ 64 + 0x40000000 * 2 ^ 32 + 0x3F800000), 0⟩

/-- The third value is 1.0. -/
def kappaLow : Tuple := kappaTuple 0x3F800000

/-- The third value is a NaN. -/
def kappaNan : Tuple := kappaTuple 0x7FC00000

/-- The third value is 2.0. -/
def kappaHigh : Tuple := kappaTuple 0x40000000

/-- A full front of two objectives with κ = 2. -/
def kappaFront : Front := { Front.empty with dm1 := 1, kappa := 2, tuples := kappaLow :: kappaNan :: List.replicate 254 kappaHigh }

/-- An arrival that is neither better nor worse than any of them. -/
def kappaArrival : Tuple := ⟨BitVec.ofNat 128 (0x3F800000 * 2 ^ 32 + 0x40000000), 0⟩

theorem length_kappaFront : kappaFront.tuples.length = 256  :=
  congrArg (· + 2) List.length_replicate

/-- What holds of the three kinds of tuples of the front holds of all its tuples. -/
theorem forall_kappaFront {P : Tuple → Prop} (hlow : P kappaLow) (hnan : P kappaNan) (hhigh : P kappaHigh) (t : Tuple) (h : t ∈ kappaFront.tuples) :
    P t := by
  rcases List.mem_cons.1 h with rfl | h
  · exact hlow
  · rcases List.mem_cons.1 h with rfl | h
    · exact hnan
    · rwa [List.eq_of_mem_replicate h]

/-- A NaN is less than nothing. -/
theorem valLess_nan (q : Bool) (v : FVal) : valLess (.nan q) v = false := by
  cases v <;> rfl

end Sys2Proof.Machine

namespace Sys2Proof.Proofs

open Sys2Proof.Machine Sys2Proof.Safety

/-- Refutes O53, in its last clause, which is about every front, also one whose κ names no objective (`finit` refuses that, R260). Such a front may hold a
NaN as y(κ), though each of its objectives is a number: here y(κ) is 1.0, a NaN, and then 2.0, so that the tuples with the largest y(κ) come after one that is
not less, and no place in the front is the one that the clause asserts. -/
theorem not_storeEventsAndEngineOperations : ¬ Obligations.StoreEventsAndEngineOperations := by
  unfold Obligations.StoreEventsAndEngineOperations
  intro h
  obtain ⟨-, -, -, -, -, -, -, -, -, -, hfront⟩ := h State.reset unlogged_reset
  obtain ⟨-, harrives⟩ := hfront kappaFront kappaArrival
  obtain ⟨-, -, hnone⟩ := harrives (by decide) (forall_kappaFront (by decide) (by decide) (by decide))
  obtain ⟨-, hfull⟩ := hnone (forall_kappaFront (by decide) (by decide) (by decide))
  rw [List.filter_eq_self.2 (forall_kappaFront (by decide) (by decide) (by decide))] at hfull
  obtain ⟨i, w, hi, hmax, hold, -⟩ := hfull length_kappaFront.ge
  have high : kappaHigh ∈ kappaFront.tuples := List.mem_of_getElem? (i := 2) rfl
  match i with
  | 0 =>
    obtain rfl : kappaLow = w := Option.some.inj hi
    exact absurd (hmax kappaHigh high) (by decide)
  | 1 =>
    obtain rfl : kappaNan = w := Option.some.inj hi
    exact absurd (hold 0 kappaLow (by decide) rfl) (by decide)
  | n + 2 => exact absurd (hold 1 kappaNan (by omega) rfl) (ne_true_of_eq_false (valLess_nan false _))

end Sys2Proof.Proofs
end

section
/-! ### Memory stays canonical (R186)

Memory changes through `Memory.writeByte`, `Memory.writeNat` and a filter of its cells alone, which keep the canonical
form. Every function of the model is a composition of functions of that kind, so each has one lemma, by its own name, that
follows its definition: `memOk.f` for a function that gives a state, and after these `outOk.f` for a word or a row. Both are
in the model's order. -/

namespace Sys2Proof.Safety
open Sys2Proof Sys2Proof.Machine

/-- What an outcome goes on with has canonical memory. -/
def outOk : Out → Prop
  | .next t => memOk t
  | .fault _ => True
  | .refused _ => True

/- Elaborated one after another: side by side, some hundred short proofs each hold a thread's stack, which the check's
memory limit counts. -/
section
set_option autoImplicit true
set_option Elab.async false
namespace memOk

/-- Whatever keeps the memory keeps it canonical; by `rfl` where the record update leaves `mem` out. -/
theorem upd (h : memOk s) (e : t.mem = s.mem := by rfl) : memOk t :=
  (congrArg (fun m => Memory.wf m = true) e).mpr h

theorem ite {c : Prop} [Decidable c] (hs : memOk s) (ht : memOk t) : memOk (if c then s else t) := by
  split
  · exact hs
  · exact ht

theorem foldl {α : Type} {f : State → α → State} {l : List α} (h : memOk s)
    (hf : ∀ {t}, memOk t → ∀ a, memOk (f t a)) :
    memOk (l.foldl f s) := by
  induction l generalizing s with
  | nil => exact h
  | cons a r ih => exact ih (hf h a)

theorem elim {α : Type} {f : α → State} {o : Option α} (h : memOk s) (hf : ∀ a, memOk (f a)) :
    memOk (o.elim s f) := by
  cases o with
  | none => exact h
  | some a => exact hf a

theorem getD {α : Type} {f : α → State} {o : Option α} (h : memOk s) (hf : ∀ a, memOk (f a)) :
    memOk ((o.map f).getD s) := by
  cases o with
  | none => exact h
  | some a => exact hf a

theorem iteFst {α : Type} {p q : State × α} {c : Prop} [Decidable c] (hp : memOk p.1) (hq : memOk q.1) :
    memOk (if c then p else q).1 := by
  split
  · exact hp
  · exact hq

theorem iteSnd {α : Type} {p q : α × State} {c : Prop} [Decidable c] (hp : memOk p.2) (hq : memOk q.2) :
    memOk (if c then p else q).2 := by
  split
  · exact hp
  · exact hq

theorem of_snd {α : Type} {p : α × State} {a : α} (e : p = (a, t)) (h : memOk p.2) : memOk t := by
  subst e
  exact h

theorem foldl_fst {α β : Type} {f : State × β → α → State × β} {p : State × β} {l : List α} (h : memOk p.1)
    (hf : ∀ {p}, memOk p.1 → ∀ a, memOk (f p a).1) : memOk (l.foldl f p).1 := by
  induction l generalizing p with
  | nil => exact h
  | cons a r ih => exact ih (hf h a)

/-! #### Reading and writing the parts of the state -/

theorem setCore (h : memOk s) : memOk (s.setCore c k) := h
theorem modCore (h : memOk s) : memOk (s.modCore c f) := .setCore h
theorem setCtx (h : memOk s) : memOk (s.setCtx c x a) := .modCore h
theorem modCtx (h : memOk s) : memOk (s.modCtx c x f) := .setCtx h
theorem modMe (h : memOk s) : memOk (s.modMe f) := .modCtx h
theorem modHere (h : memOk s) : memOk (s.modHere f) := .modCore h
theorem modLaunch (h : memOk s) : memOk (s.modLaunch i f) := h
theorem setVf (h : memOk s) : memOk (s.setVf n v) := h
theorem modVf (h : memOk s) : memOk (s.modVf n f) := .setVf h
theorem charge (h : memOk s) : memOk (s.charge i n) := .modLaunch h
theorem slewTo (h : memOk s) : memOk (s.slewTo d) := h
theorem land (h : memOk s) : memOk (s.land l d c) := .modMe h
theorem waitHead (h : memOk s) : memOk (s.waitHead w) := .modMe h
theorem performed (h : memOk s) : memOk s.performed := .modMe h
theorem result (h : memOk s) : memOk (s.result l v) := .modMe h
theorem pushCq (h : memOk s) : memOk (s.pushCq b) := .modMe h
theorem free (h : memOk s) : memOk (s.free).2 := h
theorem newUid (h : memOk s) : memOk (s.newUid).2 := h
theorem cause (h : memOk s) : memOk (s.cause x) := .modMe h

/-! #### Device memory -/

theorem fenAdd (h : memOk s) : memOk (s.fenAdd n) := .ite h h
theorem fenTouch (h : memOk s) : memOk (s.fenTouch p) := .fenAdd h
theorem setPoison (h : memOk s) : memOk (s.setPoison p n) := h
theorem fenWritten (h : memOk s) : memOk (s.fenWritten p n) := .ite h (.upd (.fenAdd h))
theorem settleFirst (h : memOk s) : memOk (s.settleFirst k) := s.settleFirst_wf k h
theorem settleBy (h : memOk s) : memOk (s.settleBy p) := .settleFirst h
theorem settle (h : memOk s) : memOk (s.settle a n) := s.settle_wf a n h
theorem store (h : memOk s) : memOk (s.store a n v) := s.store_wf a n v h

theorem scrubRange (h : memOk s) : memOk (s.scrubRange a n) := by
  refine scrub_wf _ _ (?_ : memOk (if region a = 1 then (s.settle a n).fenWritten a n else s.settle a n))
  exact .ite (.fenWritten (.settle h)) (.settle h)

theorem storeVa (h : memOk s) : memOk (s.storeVa a b n v) := by
  unfold State.storeVa
  split
  · exact .ite (.store h) h
  · exact h

theorem countError (h : memOk s) : memOk (s.countError v) := .modVf h
theorem missed (h : memOk s) : memOk (s.missed v w) := h
theorem install (h : memOk s) : memOk (s.install c v a l) := h
theorem touchVa (h : memOk s) : memOk (s.touchVa v a n) := .getD h (fun _ => .fenTouch h)
theorem dropTlb (h : memOk s) : memOk (s.dropTlb c) := h
theorem forgetOld (h : memOk s) : memOk (s.forgetOld c) := h

/-! #### Trace records and fault records -/

theorem traceOut (h : memOk s) : memOk (s.traceOut e) := .ite h (.ite (.setVf h) (.modVf (.storeVa h)))
theorem trace (h : memOk s) : memOk (s.trace v r) := .ite h (.ite (.traceOut h) (.ite (.modVf h) h))
theorem traceGate (h : memOk s) : memOk (s.traceGate a) := .ite h (.foldl h (fun g _ => .traceOut g))
theorem traceCtx (h : memOk s) : memOk (s.traceCtx c x t e a o p) := .trace h

theorem traceFor (h : memOk s) : memOk (s.traceFor c x l t e a o p) := by
  unfold State.traceFor
  split
  · exact .trace h
  · exact h

theorem logRecord (h : memOk s) : memOk (s.logRecord c x v r o) :=
  .foldl (.trace (.trace (.modVf h))) (fun g _ => .ite g (.trace g))
theorem logFault (h : memOk s) : memOk (s.logFault c x) := .logRecord h

/-! #### Weight objects and window slots -/

theorem setObjs (h : memOk s) : memOk (s.setObjs l) := .forgetOld (.dropTlb h)
theorem unpinAll (h : memOk s) : memOk (s.unpinAll i) := .setObjs h
theorem modObj (h : memOk s) : memOk (s.modObj v i f) := .setObjs h

theorem seekSlots (h : memOk s) : memOk (s.seekSlots o) := by
  unfold State.seekSlots
  dsimp only
  split
  · exact .modObj h
  · exact .ite (.modObj h) h
  · exact .elim h (fun _ => .ite (.modObj h) h)

theorem serveSlots (h : memOk s) : memOk s.serveSlots := by
  unfold State.serveSlots
  refine .foldl h (fun g _ => ?_)
  split
  · exact .ite (.seekSlots g) g
  · exact g

/-! #### The Counted Tile Store -/

theorem modFrame (h : memOk s) : memOk (s.modFrame l u a) := h

theorem modUnit (h : memOk s) : memOk (s.modUnit c l u a) := by
  unfold State.modUnit
  split
  · exact .modCtx h
  · exact .modFrame h

theorem setTile (h : memOk s) : memOk (s.setTile l t) := by
  unfold State.setTile
  split
  · exact .modCtx h
  · exact .modCore h
  · exact .modFrame h

theorem advanceP (h : memOk s) : memOk (s.advanceP o) := .ite (.modMe h) h
theorem makeTile (h : memOk s) : memOk (s.makeTile l a c x) := .setTile (.newUid h)
theorem freed (h : memOk s) : memOk (s.freed c) := .modCore h
theorem unparkSpace (h : memOk s) : memOk (s.unparkSpace l t) := .modLaunch h
theorem vanish (h : memOk s) : memOk (s.vanish l) :=
  .ite (.freed (.upd (.setTile (.ite (.unparkSpace h) h)))) (.upd (.setTile (.ite (.unparkSpace h) h)))
theorem wakeBanks (h : memOk s) : memOk (s.wakeBanks l) := .modCore h

theorem startUnpark (h : memOk s) (e : s.startUnpark l = some t) : memOk t := by
  unfold State.startUnpark at e
  dsimp only at e
  split at e
  · cases e
  · cases e
    exact .setTile h

theorem consume (h : memOk s) : memOk (s.consume l) := .ite (.vanish h) (.setTile h)
theorem countRead (h : memOk s) : memOk (s.countRead l r) := .ite h (.consume h)
theorem writeTile (h : memOk s) : memOk (s.writeTile l f) := .setTile (.ite (.unparkSpace h) h)
theorem setCount (h : memOk s) : memOk (s.setCount l n) := .ite (.vanish h) (.setTile h)
theorem addResidue (h : memOk s) : memOk (s.addResidue i n) := .modLaunch h
theorem endTiles (h : memOk s) : memOk (s.endTiles i l) := .foldl (.addResidue h) (fun g _ => .vanish g)
theorem endUnitTiles (h : memOk s) : memOk (s.endUnitTiles c x) := .endTiles h
theorem endLaunchTiles (h : memOk s) : memOk (s.endLaunchTiles i) := .endTiles h
theorem serve (h : memOk s) : memOk (s.serve b l p) := .foldl h (fun g _ => .modCore g)

/-! #### Named barriers -/

theorem setNb (h : memOk s) : memOk (s.setNb c n b) := .modCore h
theorem addBytes (h : memOk s) : memOk (s.addBytes c p n) := .ite h (.setNb h)
theorem landBytes (h : memOk s) : memOk (s.landBytes c p i n) := .ite h (.ite h (.setNb h))
theorem settleMoves (h : memOk s) : memOk s.settleMoves := .ite h (.foldl h (fun g _ => .modVf g))
theorem leaveCore (h : memOk s) : memOk (s.leaveCore c i) := .settleMoves (.ite h (.modCore h))

/-! #### The named operations over contexts -/

theorem tick (h : memOk s) : memOk (s.tick c) := h
theorem landAll (h : memOk s) : memOk (s.landAll c x) := .modCore h
theorem deliver (h : memOk s) : memOk (s.deliver c x) := .modCtx h
theorem unfreeze (h : memOk s) : memOk (s.unfreeze c x) := .deliver (.modCtx h)
theorem release (h : memOk s) : memOk (s.release c x) := .modCore h
theorem noteDone (h : memOk s) : memOk (s.noteDone i f) := .modLaunch h
theorem unitDone (h : memOk s) : memOk (s.unitDone c x i u o) := .noteDone (.traceFor h)
theorem forgetDirect (h : memOk s) : memOk (s.forgetDirect c x) := h
theorem flushStores (h : memOk s) : memOk (s.flushStores c x) := .modCtx (.upd (.foldl h (fun g _ => .store g)))
theorem endUnit (h : memOk s) : memOk (s.endUnit c x) :=
  .leaveCore (.forgetDirect (.unitDone (.modCore (.release (.endUnitTiles (.flushStores h))))))
theorem sendAbort (h : memOk s) : memOk (s.sendAbort c x v l o a i) := .trace h

theorem abortColls (h : memOk s) : memOk (s.abortColls c x a f) := by
  unfold State.abortColls
  refine .foldl (.foldl h (fun g _ => .sendAbort g)) (fun g1 _ => ?_)
  dsimp only
  split
  · exact g1
  · exact .foldl g1 (fun g2 _ => .sendAbort g2)

theorem deadCmds (h : memOk s) : memOk (s.deadCmds l u) := h
theorem endFatal (h : memOk s) : memOk (s.endFatal c x) := .endUnit (.modLaunch (.abortColls (.logFault h)))
theorem fatal (h : memOk s) : memOk (s.fatal c x f a o) :=
  .ite (.traceCtx (.modCtx (.release (.modCtx (.landAll h))))) (.endFatal (.modCtx (.landAll h)))
theorem dropIssue (h : memOk s) : memOk (s.dropIssue c x) := .ite h h
theorem fatalMe (h : memOk s) : memOk (s.fatalMe f) := .dropIssue (.fatal h)
theorem enterTrap (h : memOk s) : memOk (s.enterTrap c x a b d o) :=
  .ite (.fatal h) (.ite (.fatal h) (.traceCtx (.setCtx h)))

theorem leaveTrap (h : memOk s) : memOk (s.leaveTrap c x) := by
  unfold State.leaveTrap
  split
  · exact h
  · exact .unfreeze (.modCtx h)

theorem debugStop (h : memOk s) : memOk (s.debugStop c x w a) := .traceCtx (.modCtx (.release h))
theorem preemptFreeze (h : memOk s) : memOk (s.preemptFreeze c x) := .modCtx (.modCore (.release h))
theorem makeIssuing (h : memOk s) : memOk (s.makeIssuing c x) := .modCore (.modCtx (.ite (.unfreeze h) h))
theorem blockCtx (h : memOk s) : memOk (s.blockCtx c x) := .release (.modCtx h)

/-! #### The work hierarchy -/

theorem modInst (h : memOk s) : memOk (s.modInst n f) := h

theorem countUp (h : memOk s) : memOk (State.countUp f s n) := by
  induction f generalizing s n with
  | zero => exact h
  | succ f ih =>
    unfold State.countUp
    split
    · exact h
    · exact .ite (ih (.modInst h)) (.modInst h)

theorem countDown (h : memOk s) : memOk (State.countDown f s n) := by
  induction f generalizing s n with
  | zero => exact h
  | succ f ih =>
    unfold State.countDown
    split
    · exact h
    · exact .ite (ih (.modInst h)) (.modInst h)

theorem leaveGraph (h : memOk s) : memOk (s.leaveGraph i) := by
  unfold State.leaveGraph
  split
  · exact h
  · exact .ite h (.countDown (.modLaunch h))

theorem newId (h : memOk s) : memOk (s.newId).2 := h
theorem endFramed (h : memOk s) : memOk (s.endFramed f) :=
  .leaveCore (.unitDone (.upd (.endTiles (.deadCmds (.abortColls h)))))
theorem killUnits (h : memOk s) : memOk (s.killUnits i w) :=
  .foldl (.foldl h (fun g _ => .endUnitTiles (.modCtx g))) (fun g1 _ => .endFramed g1)
theorem modQueue (h : memOk s) : memOk (s.modQueue v q f) := .ite h (.modVf h)
theorem passHead (h : memOk s) : memOk (s.passHead v q) := .modQueue h
theorem finishStops (h : memOk s) : memOk s.finishStops := .ite h h
theorem finishEntry (h : memOk s) : memOk (s.finishEntry v q) := .finishStops (.modQueue h)

theorem passIfHead (h : memOk s) : memOk (s.passIfHead l) := by
  unfold State.passIfHead
  split
  · exact .ite (.passHead h) h
  · exact h

theorem cancelOne (h : memOk s) : memOk (s.cancelOne i c) := by
  unfold State.cancelOne
  split
  · exact h
  · exact .ite h (.passIfHead (.unpinAll (.endLaunchTiles (.killUnits (.modLaunch h)))))

theorem breakSignal (h : memOk s) : memOk (s.breakSignal l) := .ite h (.modVf h)

theorem cancelAll (h : memOk s) : memOk (State.cancelAll n s l) := by
  induction n generalizing s l with
  | zero => cases l <;> exact h
  | succ n ih =>
    cases l with
    | nil => exact h
    | cons p r =>
      unfold State.cancelAll
      split
      · exact ih h
      · exact .ite (ih h) (ih (.breakSignal (.cancelOne h)))

theorem cancelLaunches (h : memOk s) : memOk (s.cancelLaunches i c) := .cancelAll h
theorem cancelInst (h : memOk s) : memOk (s.cancelInst i c) := .ite h (.cancelLaunches h)
theorem cancelUnit (h : memOk s) : memOk (s.cancelUnit i u) := .ite h (.killUnits (.noteDone h))
theorem msi (h : memOk s) : memOk (s.msi v a) := .ite h h
theorem postRecord (h : memOk s) : memOk (s.postRecord v q n r) :=
  .ite (.msi (.ite (.modVf (.storeVa h)) (.storeVa (.modVf (.storeVa h)))))
    (.ite (.modVf (.storeVa h)) (.storeVa (.modVf (.storeVa h))))

/-! #### Replay logs -/

theorem writeWords (h : memOk s) : memOk (s.writeWords v r n l) := by
  induction l generalizing s n with
  | nil => exact h
  | cons w t ih => exact ih (.storeVa h)

theorem logFor (h : memOk s) : memOk (s.logFor c p k a b o d) := by
  unfold State.logFor
  refine .charge ?_
  dsimp only
  split
  · exact .modCtx (.storeVa (.writeWords h))
  · exact .modFrame (.storeVa (.writeWords h))

theorem logEntry (h : memOk s) : memOk (s.logEntry c x k a b o d) := .logFor h
theorem tookEntry (h : memOk s) : memOk (s.tookEntry c x e) := .modCtx h
theorem applyFill (h : memOk s) : memOk (s.applyFill c x e) :=
  .ite (.setTile (.modCtx (.setTile h))) (.modCtx (.setTile h))
theorem applyTstate (h : memOk s) : memOk (s.applyTstate c x e) := .ite (.ite h (.vanish h)) (.setTile h)

theorem drainLog (h : memOk s) : memOk (s.drainLog c x n) := by
  induction n generalizing s with
  | zero => exact h
  | succ n ih =>
    unfold State.drainLog
    split
    · exact h
    · refine .ite (ih (.applyFill (.tookEntry h))) (.ite (ih (.applyTstate (.tookEntry h))) (.ite ?_ h))
      split
      · exact h
      · exact ih (.modCtx (.tookEntry h))

theorem drained (h : memOk s) : memOk (s.drained c x) := .ite (.drainLog h) h

theorem inputAux (h : memOk s) : memOk (s.inputAux c x k a b o d).1 := by
  unfold State.inputAux
  split
  · dsimp only
    split
    · exact .debugStop (.drained h)
    · exact .tookEntry (.drained h)
    · exact .drained h
  · split
    · exact .logEntry h
    · exact h

theorem input (h : memOk s) : memOk (s.input c x k a b o d).1 := .inputAux h
theorem inputMe (h : memOk s) : memOk (s.inputMe k a d).1 := .input h
theorem accessAt (h : memOk s) : memOk (s.accessAt c x) := .drained (.modCtx h)
theorem ownAccess (h : memOk s) : memOk s.ownAccess := .accessAt h

theorem engineCause (h : memOk s) : memOk (s.engineCause c l u a b x o) := by
  unfold State.engineCause
  refine .ite h ?_
  split
  · exact h
  · exact .ite h (.ite (.logFor (.modUnit h)) (.modUnit h))

theorem causeIn (h : memOk s) : memOk (s.causeIn x) := .ite h (.ite (.logEntry (.cause h)) (.cause h))
theorem pushCqIn (h : memOk s) : memOk (s.pushCqIn b) := .ite (.pushCq h) (.pushCq (.inputAux h))
theorem logFill (h : memOk s) : memOk (s.logFill l o d b a) := .foldl h (fun g _ => .logFor g)
theorem noteWrite (h : memOk s) : memOk (s.noteWrite l o n x) := .ite h (.logFill h)
theorem logTstate (h : memOk s) : memOk (s.logTstate b l a) := .foldl h (fun g _ => .logFor g)

/-! #### Events at a bundle boundary, in the order of R339, and as a log records and replays them -/

theorem enterLogged (h : memOk s) : memOk (s.enterLogged c x a b d o) := .enterTrap (.ite (.logEntry h) h)

theorem boundary (h : memOk s) : memOk (s.boundary c x) := by
  unfold State.boundary
  refine .ite h ?_
  refine .ite (.fatal h) ?_
  dsimp only
  split
  · exact .debugStop h
  · refine .ite (.preemptFreeze h) ?_
    refine .ite (.debugStop h) ?_
    refine .ite h ?_
    refine .ite ?_ ?_
    · split
      · exact .enterTrap (.tookEntry h)
      · exact .ite (.fatal (.modCtx h)) (.enterTrap (.modCtx h))
      · exact h
    · refine .ite h ?_
      split
      · exact .ite (.modCtx h) (.enterLogged (.modCtx h))
      · split
        · exact .ite (.fatal (.modCtx h)) (.enterTrap (.modCtx h))
        · exact .ite (.ite (.modCtx h) (.enterLogged (.modCtx h))) h

/-! #### Hardware loops, branches, iteration positions and generator steps -/

theorem branch (h : memOk s) : memOk (s.branch t) := .ite (.fatalMe h) (.ite (.fatalMe h) (.modMe h))
theorem goEnd (h : memOk s) : memOk (s.goEnd t) := .modMe h

/-! #### The control slot -/

theorem loop (h : memOk s) : memOk (s.loop n c e) :=
  .ite (.fatalMe h) (.ite (.fatalMe h) (.ite (.goEnd h) (.modMe h)))

theorem setEvents (h : memOk s) : memOk (s.setEvents c m v) := .modCore h

theorem xdispDone (h : memOk s) : memOk (s.xdispDone c x t o v a) := by
  unfold State.xdispDone
  split
  · exact .fatal h
  · exact .modCtx h

/-! #### Operand forms -/

theorem vecOp (h : memOk s) : memOk (s.vecOp a p d k l e f) := .land h

/-! #### The scalar slot -/

theorem landS (h : memOk s) : memOk (s.landS l d v) := .land h
theorem landCq (h : memOk s) : memOk (s.landCq l b) := .land h

/-! #### The vector slots VA and VB -/

theorem elem2 (h : memOk s) : memOk (s.elem2 o d a b c k l) := .vecOp h
theorem elem1 (h : memOk s) : memOk (s.elem1 b f d a c k l) := .vecOp h
theorem reduce (h : memOk s) : memOk (s.reduce f d a b k l) := .land h
theorem special (h : memOk s) : memOk (s.special b f d a c k l) := .elem1 h
theorem vacr (h : memOk s) : memOk (s.vacr d b i) := .ite (.fatalMe h) (.ite (.land h) (.land h))
theorem vacw (h : memOk s) : memOk (s.vacw a b i) := .ite (.fatalMe h) (.ite (.land h) (.land h))

/-! #### The matrix engine -/

theorem accept (h : memOk s) : memOk (s.accept m) := .modHere h
theorem opCause (h : memOk s) : memOk (s.opCause c m x) := .engineCause h

theorem meetTile (h : memOk s) (e : s.meetTile l = .wait t) : memOk t := by
  unfold State.meetTile at e
  split at e
  · cases e
  · next l =>
    split at e
    · cases e
    · cases e
    · cases e
      exact .wakeBanks h
    · cases e
      cases u : s.startUnpark l with
      | none => exact h
      | some t => exact .startUnpark h u
    · cases e

theorem startCall (h : memOk s) : memOk (s.startCall c m r) := by
  unfold State.startCall
  refine .ite h (.ite (.opCause (.setCore h)) ?_)
  split
  · next e => exact .meetTile h e
  · exact .fatal (.modCore h)
  · split
    · next e => exact .meetTile h e
    · exact .fatal (.modCore h)
    · exact .ite (.modCtx (.modCore (.modCore h))) (.modCore (.modCore h))

theorem readmit (h : memOk s) : memOk (s.readmit c) := by
  unfold State.readmit
  refine .ite h ?_
  split
  · exact h
  · split
    · exact h
    · exact .modCore (.modCtx h)

theorem onCall (h : memOk s) (hf : ∀ t, memOk (f t)) : memOk (s.onCall f) := by
  unfold State.onCall
  split
  · exact hf _
  · exact h

theorem setCall (h : memOk s) : memOk (s.setCall a) := .modHere h

theorem countSide (h : memOk s) : memOk (s.countSide c b a).1 := by
  refine .iteFst h ?_
  dsimp only
  split
  · exact h
  · exact .ite h (.logTstate (.consume (.serve h)))

theorem finishCall (h : memOk s) : memOk (s.finishCall a) := .modHere (.countSide (.countSide h))
theorem routineError (h : memOk s) : memOk (s.routineError a) := .finishCall h

theorem countLoaded (h : memOk s) : memOk (s.countLoaded c l a).1 := by
  unfold State.countLoaded
  dsimp only
  split
  · exact h
  · split
    · refine .countSide ?_
      split
      · exact .countSide h
      · exact h
    · split
      · exact .countSide h
      · exact h

theorem loadSide (h : memOk s) : memOk (s.loadSide b) := by
  refine .onCall h fun a => .ite (.routineError h) (.ite h ?_)
  split
  · next e => exact .meetTile h e
  · exact .fatal (.modHere h)
  · exact .setCall (.countLoaded (.accessAt (.serve (.upd h))))

theorem withdraw (h : memOk s) : memOk (s.withdraw c x) := .modCtx (.setCore h)

/-! #### Front banks -/

theorem spill (h : memOk s) : memOk (s.spill c x i t).1 := by
  unfold State.spill
  dsimp only
  split
  · exact .ite (.modCtx (.modCore (.noteWrite (.setTile (.serve h))))) (.modCore (.noteWrite (.setTile (.serve h))))
  · exact h

theorem frontDone (h : memOk s) : memOk (s.frontDone c i o x) := .traceFor (.engineCause (.modCore h))

theorem frontStart (h : memOk s) : memOk (s.frontStart c i o) := by
  unfold State.frontStart
  dsimp only
  split
  · exact .ite (.modCore (.charge (.modCore h))) (.modCore (.charge h))
  · exact .modCore (.charge (.modCore h))
  · exact .ite (.modCore (.charge h)) (.ite (.modCore (.charge h)) (.modCore h))
  · split
    · exact .modCore (.charge h)
    · exact .ite (.modCore (.charge h)) (.ite (.modCore (.charge h)) (.modCore h))

theorem acceptFront (h : memOk s) : memOk (s.acceptFront b k a c n v x) := by
  unfold State.acceptFront
  refine .ite (.fatalMe h) ?_
  split
  · exact .land h
  · exact .ite (.land h) (.modHere (.ite h (.land h)))

theorem readmitFront (h : memOk s) : memOk (s.readmitFront c x) := by
  unfold State.readmitFront
  refine .modCtx ?_
  refine .foldl h (fun g _ => ?_)
  split
  · exact .modCore g
  · exact g

/-! #### The MT slot -/

theorem waitAlloc (h : memOk s) : memOk (s.waitAlloc n) := .waitHead (.upd (.ite (.modMe h) h))
theorem unnoted (h : memOk s) : memOk s.unnoted := h
theorem noted (h : memOk s) : memOk (s.noted b l) := .logTstate h

theorem meetParked (h : memOk s) : memOk (s.meetParked l b) := by
  refine .ite (.waitHead (.unnoted h)) ?_
  split
  · next e => exact .waitHead (.unnoted (.noted (.startUnpark h e)))
  · exact .ite (.waitAlloc h) (.waitHead h)

theorem access (h : memOk s) (hf : ∀ t, memOk (k t)) : memOk (s.access l t k) := by
  unfold State.access
  split
  · exact hf _
  · exact hf _
  · exact .waitHead (.unnoted (.wakeBanks h))
  · exact .meetParked h
  · exact .fatalMe h

theorem readOp (h : memOk s) (hf : ∀ t, memOk (k t)) : memOk (s.readOp o k) := by
  unfold State.readOp
  split
  · exact hf _
  · exact .ite (.waitHead h) (.access h (fun _ => hf _))

theorem writeOp (h : memOk s) (hf : ∀ t, memOk (k t)) : memOk (s.writeOp o k) := by
  unfold State.writeOp
  split
  · exact hf _
  · exact .access h (fun _ => hf _)

theorem mtDone (h : memOk s) : memOk s.mtDone := .ownAccess (.performed h)

theorem readDone (h : memOk s) : memOk (s.readDone l r) := by
  unfold State.readDone
  refine .ite ?_ ?_
  · refine .pushCqIn ?_
    split
    · exact .noted (.countRead h)
    · exact h
  · split
    · exact .noted (.countRead h)
    · exact h

theorem writeData (h : memOk s) : memOk (s.writeData l o n v) := by
  unfold State.writeData
  split
  · exact .causeIn h
  · exact .ite (.causeIn (.noted (.noteWrite (.writeTile h)))) (.noted (.noteWrite (.writeTile h)))

theorem atomData (h : memOk s) : memOk (s.atomData l c o a b).2 := by
  unfold State.atomData
  split
  · exact .causeIn h
  · exact .writeData h

theorem talloc (h : memOk s) : memOk (s.talloc o d n) := by
  unfold State.talloc
  dsimp only
  split
  · exact .mtDone (.causeIn h)
  · exact .ite (.waitHead h)
      (.ite (.mtDone (.causeIn h))
        (.ite (.mtDone (.setTile h))
          (.ite (.waitAlloc h) (.mtDone (.causeIn (.advanceP (.makeTile (.setTile h))))))))

theorem changeCount (h : memOk s) : memOk (s.changeCount l v) := by
  unfold State.changeCount
  split
  · exact .causeIn h
  · exact .ite (.causeIn h) (.causeIn (.noted (.setCount h)))

theorem park (h : memOk s) : memOk (s.park l) := by
  unfold State.park
  split
  · exact .mtDone (.causeIn h)
  · dsimp only
    split
    · exact .mtDone (.causeIn h)
    · exact .waitHead h
    · split
      · exact .mtDone h
      · exact .ite (.waitHead (.wakeBanks h))
          (.ite (.waitHead h) (.ite (.mtDone (.causeIn h)) (.mtDone (.noted (.modLaunch (.setTile h))))))
    · exact .mtDone h
    · exact .mtDone h
    · exact .mtDone h
    · exact .mtDone h

theorem unpark (h : memOk s) : memOk (s.unpark l) := by
  unfold State.unpark
  split
  · exact .mtDone (.causeIn h)
  · split
    · exact .mtDone (.causeIn h)
    · refine .ite (.waitHead h) ?_
      split
      · next e => exact .mtDone (.noted (.startUnpark h e))
      · exact .waitAlloc h
    · exact .mtDone h

theorem moveRing (h : memOk s) : memOk (s.moveRing n f) := .modMe h

/-! #### The MC slot -/

theorem mcDone (h : memOk s) : memOk (s.mcDone o) := .ite (.ownAccess (.performed h)) (.performed h)
theorem peerChecked (h : memOk s) (h1 : memOk b) (h2 : memOk k) : memOk (s.peerChecked w a b k) :=
  .ite h1 (.ite (.fatalMe h) (.ite (.fatalMe h) h2))

theorem peerAccess (h : memOk s) (hf : ∀ t, memOk (k t)) : memOk (s.peerAccess w x k) := by
  unfold State.peerAccess
  split
  · exact hf _
  · exact .ite (hf _) (.access h (fun _ => hf _))

theorem peerRead (h : memOk s) : memOk (s.peerRead x r c n) :=
  .peerChecked h (.performed (.ite (.pushCqIn (.modMe (.causeIn h))) (.modMe (.causeIn h))))
    (.peerAccess h (fun _ => .mcDone (.readDone (.causeIn (.result h)))))

theorem peerWrite (h : memOk s) : memOk (s.peerWrite x c n v) :=
  .peerChecked h (.performed (.causeIn h)) (.peerAccess h (fun _ => .mcDone (.writeData h)))

theorem enterPb (h : memOk s) : memOk (s.enterPb p n) :=
  .ite h (.ite (.upd (.causeIn (s := { s with cur := { s.cur with slot := 6 } }) h)) (.addBytes h))

theorem barrierWord (h : memOk s) (h1 : memOk f) (hf : ∀ t, memOk (k t)) : memOk (s.barrierWord c n f k) :=
  .ite h1 (.ite (.fatalMe h) (hf _))
theorem binit (h : memOk s) : memOk (s.binit n t) :=
  .ite (.performed h) (.barrierWord h (.performed (.setNb h))
    (fun _ => .ite (.performed (.setNb h)) (.performed (.causeIn h))))
theorem arrive (h : memOk s) : memOk (s.arrive c n o) :=
  .barrierWord h (.performed (.causeIn h))
    (fun _ => .ite (.performed (.causeIn h)) (.performed (.setNb (.ite (.modMe h) h))))

theorem wake (h : memOk s) : memOk s.wake := .performed (.inputMe h)

/-! #### What a write to a management window does -/

theorem resumeCtx (h : memOk s) : memOk (s.resumeCtx c x a) :=
  .ite h (.ite (.endFatal (.modCtx h))
    (.ite (.boundary (.modCtx h)) (.ite (.fatal (.modCtx h)) (.ite (.fatal (.modCtx h)) (.boundary (.modCtx h))))))
theorem haltCtx (h : memOk s) : memOk (s.haltCtx c x a) := .ite h (.boundary (.modCtx h))

theorem startLog (h : memOk s) : memOk (s.startLog c x) := by
  unfold State.startLog
  dsimp only
  split
  · exact h
  · exact .ite h (.storeVa (.storeVa (.storeVa (.modCtx h))))

theorem putWords (h : memOk s) : memOk (s.putWords v a l) := by
  induction l generalizing s a with
  | nil => exact h
  | cons w r ih => exact ih (.storeVa h)

theorem snapCtx (h : memOk s) : memOk (s.snapCtx c x) :=
  .ite h (.startLog (.upd (.putWords (.putWords (.putWords (.putWords (.putWords h)))))))

theorem dctl (h : memOk s) : memOk (s.dctl c x v) := by
  unfold State.dctl
  split
  · exact .haltCtx h
  · exact .resumeCtx h
  · exact .resumeCtx h
  · exact .snapCtx h
  · exact h

theorem slotWrite (h : memOk s) : memOk (s.slotWrite a d r v) :=
  .ite h (.ite (.ite (.foldl (.modVf h) (fun g _ => .haltCtx g)) (.modVf h))
    (.ite (.modVf h) (.ite (.modVf h) (.ite (.modVf h) h))))
theorem windowWrite (h : memOk s) : memOk (s.windowWrite a o v) :=
  .ite (.slotWrite h) (.ite (.ite h (.ite (.dctl h) (.ite (.modCore h) h)))
    (.ite (.modVf h) (.ite (.ite (.setCtx h) h) h)))
theorem put (h : memOk s) : memOk (s.put a p n v) := .ite (.store h) (.foldl h (fun g _ => .windowWrite g))

/-! #### The MG slot -/

theorem inOrder (h : memOk s) (hf : ∀ {t}, memOk t → memOk (k t)) : memOk (s.inOrder v n w k) :=
  .ite (.waitHead h) (hf h)

theorem direct (h : memOk s) (hf : ∀ t, memOk (k t)) : memOk (s.direct v n r w k) := by
  unfold State.direct
  refine .inOrder h (fun g => ?_)
  refine .ite (.waitHead g) ?_
  refine .ite (.waitHead g) ?_
  dsimp only
  split
  · exact .fatalMe g
  · exact .waitHead (.missed g)
  · exact .waitHead g
  · exact g
  · exact .fenAdd (hf _)

theorem performStores (h : memOk s) : memOk (s.performStores v l) := .foldl h (fun g _ => .put g)
theorem performWindow (h : memOk s) : memOk (s.performWindow l) := .foldl h (fun g _ => .performStores g)
theorem flushTo (h : memOk s) : memOk (s.flushTo p n) := .modMe (.performStores h)

theorem ownRead (h : memOk s) : memOk (s.ownRead p n).2.2 := by
  unfold State.ownRead
  dsimp only
  split
  · exact h
  · split
    · exact h
    · exact .flushTo h

theorem observe (h : memOk s) : memOk (s.observe v l) := .modMe h
theorem keepRels (h : memOk s) : memOk (s.keepRels p l) := .ite h h
theorem acquire (h : memOk s) : memOk (s.acquire v a) := .ite h h
theorem loaded (h : memOk s) : memOk (s.loaded v) := .modMe h
theorem hostLoad (h : memOk s) : memOk (s.hostLoad p) := .ite (.modMe h) h

theorem issueStore (h : memOk s) : memOk (s.issueStore a v p) := .performed (.modMe (.newUid h))

theorem atomicAt (h : memOk s) (hf : ∀ t, ∀ u, ∀ v, memOk v → memOk (k t u v)) : memOk (s.atomicAt v a f r k) := by
  unfold State.atomicAt
  refine .direct h (fun _ => ?_)
  refine .ite (.fatalMe h) ?_
  refine hf _ _ _ ?_
  split
  · exact .settle (.flushTo h)
  · exact .keepRels (.put (.settle (.flushTo h)))

theorem gatomic (h : memOk s) : memOk (s.gatomic e a f) :=
  .ite (.fatalMe h) (.ite (.performed (.result h)) (.atomicAt h (fun _ _ _ g => .performed (.result (.observe g)))))

theorem keepSeen (h : memOk s) : memOk (s.keepSeen f) := h

theorem invalidate (h : memOk s) : memOk (s.invalidate v c w p) := h

theorem handOff (h : memOk s) : memOk (s.handOff q m b) := .performed (.modMe (.ite h (.enterPb h)))
theorem canHand (h : memOk s) (h1 : memOk k) : memOk (s.canHand q p b r k) :=
  .ite (.fatalMe h) (.ite (.waitHead h) (.ite (.waitHead h) (.ite (.waitHead h) (.ite (.waitHead h) h1))))

theorem gfetch (h : memOk s) : memOk (s.gfetch o n c p) := by
  unfold State.gfetch
  refine .ite (.fatalMe h) ?_
  refine .ite (.fatalMe h) ?_
  dsimp only
  split
  · exact .performed (.causeIn h)
  · refine .ite (.waitHead h) ?_
    refine .ite (.performed h) ?_
    refine .ite (.waitHead h) ?_
    refine .ite (.canHand h (.ite (.waitAlloc h) (.handOff (.causeIn (.advanceP (.makeTile h)))))) ?_
    split
    · exact .performed (.causeIn h)
    · exact .canHand h (.ite (.waitAlloc h) (.handOff (.causeIn (.advanceP (.makeTile (.makeTile h))))))

theorem beyond (h : memOk s) : memOk (s.beyond o q a p) := .ite (.performed h) (.canHand h (.handOff h))

/-! #### Issuing a bundle -/

theorem latchMeet (h : memOk s) : memOk (s.latchMeet c x a n).2 := by
  unfold State.latchMeet
  split
  · exact h
  · dsimp only
    split
    · exact h
    · exact h
    · exact .wakeBanks h
    · exact h
    · split
      · exact h
      · split
        · next e => exact .logTstate (.startUnpark h e)
        · exact h

theorem latchesMeet (h : memOk s) : memOk (s.latchesMeet c x l).2 := by
  induction l generalizing s with
  | nil => exact h
  | cons p r ih =>
    unfold State.latchesMeet
    split
    · next e => exact ih (.of_snd e (.latchMeet h))
    · next e => exact .of_snd e (.latchMeet h)

theorem verdict (h : memOk s) : memOk (s.verdict c x).2.2.2 := by
  unfold State.verdict
  dsimp only
  split
  · exact h
  split
  · exact h
  split
  · exact h
  · exact h
  split
  · exact h
  split
  · exact h
  split
  · exact h
  split
  · exact h
  split
  · exact h
  split
  · exact h
  split
  · next e => exact .of_snd e (.latchesMeet h)
  · next e =>
    have g := of_snd e (latchesMeet h)
    split
    · exact g
    · split
      · exact g
      · exact g

/-- What a verdict leaves the state as. -/
theorem of_verdict (h : memOk s) (e : s.verdict c x = (v, a, w, t)) : memOk t := by
  have g := verdict (c := c) (x := x) h
  rw [e] at g
  exact g

theorem stallCycle (h : memOk s) : memOk (s.stallCycle c x) := .charge (.modCtx h)
theorem enterWord (h : memOk s) : memOk (s.enterWord c x o w) := .ite h (.ite (.setCtx h) (.causeIn h))
theorem bankNoted (h : memOk s) : memOk (s.bankNoted b l) := .foldl h (fun g _ => .modCore g)

theorem issueBundle (h : memOk s) : memOk (s.issueBundle c x a w l) := by
  unfold State.issueBundle
  dsimp only
  split
  · refine .fatal (.modCtx (.bankNoted ?_))
    refine .ite (.traceCtx (.ite (.logEntry ?_) ?_)) (.ite (.logEntry ?_) ?_) <;>
      (split <;> [exact .tookEntry (.drained h); exact .drained h])
  · refine .upd ?_
    refine .foldl ?_ (fun g _ => .enterWord g)
    refine .upd ?_
    refine .bankNoted ?_
    refine .ite (.traceCtx (.ite (.logEntry ?_) ?_)) (.ite (.logEntry ?_) ?_) <;>
      (split <;> [exact .tookEntry (.drained h); exact .drained h])

theorem popLatches (h : memOk s) : memOk (s.popLatches c x m) := by
  unfold State.popLatches
  refine .foldl h (fun g _ => ?_)
  split
  · exact g
  · exact .ite g (.logTstate (.bankNoted (.consume g)))

theorem afterIssue (h : memOk s) : memOk (s.afterIssue c x) := .ite (.blockCtx h) (.ite (.blockCtx (.modCtx h)) h)
theorem endIssue (h : memOk s) : memOk s.endIssue :=
  .afterIssue (.boundary (.charge (.modCtx (.tick (.modCtx (.popLatches h))))))

theorem rouse (h : memOk s) : memOk (s.rouse c x) := by
  unfold State.rouse
  refine .ite ?_ ?_
  · refine .ite ?_ (.drained h)
    split
    · exact .debugStop (.drained h)
    · exact .input (.modCtx (.drained h))
  · refine .ite ?_ (.drained h)
    dsimp only
    split
    · exact .drained h
    · refine .ite (.drained h) ?_
      split
      · exact .debugStop (.drained h)
      · exact .xdispDone (.modCtx (.input (.drained h)))

theorem noteWait (h : memOk s) : memOk (s.noteWait c x w a) := .modCtx h

theorem reconsider (h : memOk s) : memOk (s.reconsider c x) := by
  refine .ite (.rouse h) ?_
  split
  · next e => exact .noteWait (.of_verdict (.rouse h) e)
  · next e => exact .noteWait (.of_verdict (.rouse h) e)
  · next e => exact .modCtx (.of_verdict (.rouse h) e)

theorem switchIn (h : memOk s) : memOk (s.switchIn c) := by
  unfold State.switchIn
  split
  · exact .tick h
  · exact .modCore (.stallCycle (.makeIssuing (.tick h)))

theorem takeAgain (h : memOk s) : memOk (s.takeAgain c) := by
  unfold State.takeAgain
  split
  · exact .ite (.modCore (.makeIssuing h)) h
  · exact h

theorem blockOn (h : memOk s) : memOk (s.blockOn c x w a) := .switchIn (.blockCtx (.noteWait (.modCtx h)))

theorem issueCycle (h : memOk s) : memOk (s.issueCycle c x) := by
  unfold State.issueCycle
  split
  · next e => exact .issueBundle (.of_verdict h e)
  · next e => exact .stallCycle (.tick (.modCtx (.of_verdict h e)))
  · next e => exact .blockOn (.of_verdict h e)
  · next e => exact .blockOn (.of_verdict h e)
  · next e => exact .tick (.debugStop (.of_verdict h e))
  · next e => exact .fatal (.of_verdict h e)
  · next e => exact .afterIssue (.boundary (.leaveTrap (.modCtx (.stallCycle (.tick (.of_verdict h e))))))

/-! #### The engine queues at work -/

theorem modCmd (h : memOk s) : memOk (s.modCmd c x q n f) := .modCtx h
theorem holdCmd (h : memOk s) : memOk (s.holdCmd c x q m v w) := .ite (.modUnit (.modCmd h)) h
theorem endPreempted (h : memOk s) : memOk (s.endPreempted f c a o v) := .endFramed (.modLaunch (.logRecord h))

theorem cmdFatal (h : memOk s) : memOk (s.cmdFatal c m f) := by
  unfold State.cmdFatal
  split
  · exact .fatal h
  · split
    · exact .endPreempted h
    · exact .deadCmds (.modLaunch h)

theorem cmdCause (h : memOk s) : memOk (s.cmdCause c m k) := .engineCause h

theorem noteObjs (h : memOk s) : memOk (s.noteObjs c x q m p) := by
  unfold State.noteObjs
  dsimp only
  split
  · exact h
  · exact .modCmd h

theorem cmdAccess (h : memOk s) (hf : ∀ t, memOk (k t).2) : memOk (s.cmdAccess c x q m w v n k).2 := by
  unfold State.cmdAccess
  split
  · exact h
  · dsimp only
    split
    · exact .cmdFatal h
    · exact .missed h
    · exact .holdCmd h
    · exact h
    · exact .ite (hf _) (.fenAdd (.noteObjs (hf _)))

theorem storePieces (h : memOk s) : memOk (s.storePieces f l v) := by
  induction l generalizing s v with
  | nil => exact h
  | cons p r ih => exact ih (.put h)

theorem cmdRead (h : memOk s) (hf : ∀ t, memOk (k t).2) : memOk (s.cmdRead c x q m v n k).2 :=
  .cmdAccess h (fun _ => hf _)
theorem cmdWrite (h : memOk s) (hf : ∀ {t}, memOk t → memOk (k t).2) : memOk (s.cmdWrite c x q m a n v k).2 :=
  .cmdAccess h (fun _ => hf (.storePieces h))

theorem accessBy (h : memOk s) : memOk (s.accessBy c l u) := by
  unfold State.accessBy
  split
  · exact .accessAt h
  · exact .modFrame h

theorem moved (h : memOk s) : memOk (s.moved c x q m l w) := .landBytes (.modCmd h)
theorem elementDone (h : memOk s) : memOk (s.elementDone c x q m l w) := .charge (.moved h)

theorem landTile (h : memOk s) : memOk (s.landTile c m u o n v) := by
  unfold State.landTile
  split
  · exact h
  · exact .serve (.logFill (.setTile h))

theorem spoilTile (h : memOk s) : memOk (s.spoilTile c m u) := by
  unfold State.spoilTile
  split
  · exact h
  · exact .ite h (.logTstate (.setTile h))

theorem poisonFill (h : memOk s) : memOk (s.poisonFill c x q m) := .charge (.modCmd (.spoilTile (.spoilTile h)))

theorem filledTile (h : memOk s) : memOk (s.filledTile c m u) := by
  unfold State.filledTile
  split
  · exact h
  · exact .ite (.logTstate (.setTile h)) h

theorem countSource (h : memOk s) : memOk (s.countSource c m) := by
  unfold State.countSource
  refine .ite h ?_
  split
  · exact h
  · exact .ite h (.logTstate (.consume (.serve h)))

theorem landWhole (h : memOk s) : memOk (s.landWhole c m u t) := by
  unfold State.landWhole
  split
  · exact h
  · exact .serve (.logFill (.setTile h))

theorem convertDone (h : memOk s) : memOk (s.convertDone c x q m) :=
  .elementDone (.filledTile (.filledTile (.ite (.cmdCause (.landWhole (.landWhole h))) h)))

theorem fetchLine (h : memOk s) : memOk (s.fetchLine c x q m).2 := by
  refine .iteSnd h ?_
  split
  · exact .wakeBanks h
  · refine .cmdAccess h (fun _ => ?_)
    refine .iteSnd (.poisonFill h) (.iteSnd (.ite (.convertDone h) (.elementDone h)) ?_)
    exact .elementDone (.ite (.filledTile (.landTile h)) (.landTile h))

theorem rowLine (h : memOk s) : memOk (s.rowLine c x q m) :=
  .ite (.elementDone (.ite (.filledTile (.countSource h)) h)) (.charge (.moved h))

theorem rowStep (h : memOk s) : memOk (s.rowStep c x q m a r).2 := by
  unfold State.rowStep
  split
  · exact .rowLine h
  · split
    · refine .cmdAccess h (fun _ => ?_)
      split
      · exact .poisonFill h
      · exact .charge (.modCmd h)
    · dsimp only
      split
      · exact .cmdFatal h
      · split
        · exact .cmdWrite h (fun g => .rowLine g)
        · split
          · exact h
          · split
            · exact .wakeBanks h
            · refine .cmdAccess h (fun _ => ?_)
              split
              · exact .poisonFill h
              · exact .rowLine (.landTile h)

theorem storeLine (h : memOk s) : memOk (s.storeLine c x q m r).2 := by
  unfold State.storeLine
  dsimp only
  split
  · exact .elementDone (.ite (.countSource h) h)
  · exact .cmdWrite h (fun g => .elementDone (.ite (.countSource g) g))

theorem copyLine (h : memOk s) : memOk (s.copyLine c x q m).2 :=
  .cmdAccess h (fun _ => .cmdAccess h
    (fun _ => .elementDone (.ite (.foldl (.storePieces h) (fun g _ => .setPoison g)) (.storePieces h))))

theorem bringIn (h : memOk s) : memOk (s.bringIn c v a) := by
  unfold State.bringIn
  dsimp only
  split
  · exact .modCore h
  · exact h
  · exact h

theorem prefPage (h : memOk s) : memOk (s.prefPage c x q m).2 := by
  unfold State.prefPage
  dsimp only
  split
  · exact .missed h
  · exact .moved (.bringIn h)

theorem mloadLine (h : memOk s) : memOk (s.mloadLine c x q m).2 := .cmdAccess h (fun _ => .elementDone h)

theorem xdispClose (h : memOk s) : memOk (s.xdispClose c x q m).2 := by
  unfold State.xdispClose
  refine .cmdRead h (fun _ => ?_)
  dsimp only
  split
  · exact .elementDone (.cmdCause h)
  · refine .cmdRead h (fun _ => ?_)
    split
    · exact .elementDone (.cmdCause h)
    · refine .cmdRead h (fun _ => ?_)
      split
      · exact .elementDone (.cmdCause h)
      · exact .cmdWrite h (fun g => .elementDone (.ite (.cmdCause g) g))

theorem xdispStep (h : memOk s) : memOk (s.xdispStep c x q m).2 := by
  unfold State.xdispStep
  split
  · dsimp only
    split
    · exact .cmdRead h (fun _ => .cmdWrite h (fun g => .elementDone g))
    · split
      · exact .cmdWrite h (fun g1 => .elementDone g1)
      · exact .cmdWrite h (fun g2 => .elementDone g2)
  · exact h

theorem deadLine (h : memOk s) : memOk (s.deadLine c x q m) := .charge (.moved (.ite (.countSource h) h))

theorem moveLine (h : memOk s) : memOk (s.moveLine c x q m).2 := by
  unfold State.moveLine
  dsimp only
  split
  · exact h
  · split
    · exact h
    · split
      · exact .deadLine h
      · split
        · exact h
        · split
          · split
            · exact .xdispClose h
            · exact .xdispStep h
          · split
            · exact .mloadLine h
            · split
              · split
                · exact h
                · exact .fetchLine h
              · split
                · exact h
                · exact .rowStep h
              · exact .rowStep h
              · exact .storeLine h
              · split
                · exact .elementDone h
                · exact .copyLine h
              · exact .prefPage h
              · exact h

theorem moveFirst (h : memOk s) : memOk (s.moveFirst c x q l).2 := by
  induction l generalizing s with
  | nil => exact h
  | cons m r ih =>
    unfold State.moveFirst
    split
    · next e =>
      split
      · exact ih h
      · exact .of_snd e (.moveLine h)
    · next e => exact ih (.of_snd e (.moveLine h))

theorem moveCtx (h : memOk s) : memOk (s.moveCtx c x).2 := by
  unfold State.moveCtx
  dsimp only
  split
  · next e => exact .modCore (.of_snd e (.moveFirst h))
  · next e =>
    have g := of_snd e (moveFirst h)
    split
    · next e => exact .modCore (.of_snd e (.moveFirst g))
    · next e => exact .of_snd e (.moveFirst g)

theorem moveAny (h : memOk s) : memOk (s.moveAny c l) := by
  induction l generalizing s with
  | nil => exact h
  | cons x r ih =>
    unfold State.moveAny
    split
    · next e => exact .of_snd e (.moveCtx h)
    · next e => exact ih (.of_snd e (.moveCtx h))

theorem ccopyLine (h : memOk s) : memOk (s.ccopyLine c x m) := by
  unfold State.ccopyLine
  refine .ite h ?_
  refine .ite (.deadLine h) ?_
  refine .ite h ?_
  split
  · exact .wakeBanks h
  · exact .elementDone (.ite (.filledTile (.countSource (.landTile h))) (.landTile h))

theorem walkFault (h : memOk s) : memOk (s.walkFault w) := by
  unfold State.walkFault
  refine .ite (.ite (.modCtx h) h) ?_
  split
  · exact h
  · exact .ite (.moved h) (.ite (.modCmd h) (.holdCmd h))

theorem early (h : memOk s) : memOk (s.early c x q n) := by
  unfold State.early
  dsimp only
  split
  · exact .ite h h
  · exact h

theorem atHead (h : memOk s) : memOk (s.atHead c x m w r) := h

theorem servedWord (h : memOk t) : memOk (t.servedWord b c x m w l) := by
  unfold State.servedWord
  split
  · exact h
  · exact .ite h (.serve h)

theorem outcome (h : memOk b) (h1 : memOk a) : memOk (b.outcome a c x m w) :=
  .ite (.modCtx h) (.ite (.ite (.modCtx h) (.debugStop (.drained h))) h1)

/-! #### The memory tiers -/

theorem modQueued (h : memOk s) : memOk (s.modQueued n f) := h

theorem promoteOne (h : memOk s) : memOk (s.promoteOne n i v l e u a).1 := by
  unfold State.promoteOne
  split
  · exact h
  · split
    · exact h
    · split
      · exact h
      · split
        · exact h
        · dsimp only
          split
          · exact .seekSlots h
          · exact .modObj h
          · exact .modObj h
          · exact .modObj h
          · exact .modObj h

theorem oweBytes (h : memOk s) : memOk (s.oweBytes c x m n) := .ite h (.modCmd (.addBytes h))

theorem sluiceStart (h : memOk s) : memOk (s.sluiceStart c x m) := by
  refine .ite (.modCmd h) (.cmdRead h fun v => ?_)
  split
  · exact .modCmd (.foldl h fun g _ => .modObj g)
  · exact .modCmd (.oweBytes (.foldl_fst h fun g _ => .promoteOne g))

theorem giveResult (h : memOk s) : memOk (s.giveResult w e) := .modQueued h

theorem copyDone (h : memOk s) : memOk (s.copyDone o a b) := by
  unfold State.copyDone
  refine .serveSlots ?_
  dsimp only
  split
  · exact .landBytes (.modQueued
      (.charge (.foldl (.modObj (.foldl (.fenTouch (.store h)) (fun g _ => .setPoison g)))
        (fun g1 _ => .giveResult g1))))
  · exact .charge (.foldl (.modObj (.foldl (.fenTouch (.store h)) (fun g2 _ => .setPoison g2)))
      (fun g3 _ => .giveResult g3))

theorem loseStripes (h : memOk s) : memOk (s.loseStripes l) := h

theorem setBias (h : memOk s) : memOk (s.setBias d a b) := h

theorem skimStart (h : memOk s) : memOk (s.skimStart c x m) := by
  unfold State.skimStart
  refine .ite (.modCmd h) ?_
  dsimp only
  split
  · exact .modCmd h
  · exact .cmdRead h (fun _ => .modCmd (.foldl h (fun g _ => .setBias g)))
  · exact .modCmd h

theorem chargeSkim (h : memOk s) : memOk (s.chargeSkim i n) := by
  unfold State.chargeSkim
  split
  · exact h
  · exact .charge (.modLaunch h)

theorem tierStatus (h : memOk s) : memOk (s.tierStatus m).2 := by
  unfold State.tierStatus
  dsimp only
  split
  · split
    · exact .free h
    · split
      · exact .free h
      · split
        · exact .free h
        · exact h
  · split
    · exact .free h
    · split
      · exact .free h
      · split
        · exact .free h
        · exact .free h

/-! #### The Causeway -/

theorem emit (h : memOk s) : memOk (s.emit f) := h
theorem emitTo (h : memOk s) : memOk (s.emitTo d n f) := h
theorem fabricStatus (h : memOk s) : memOk (s.fabricStatus m).2 := .free h
theorem lineMoved (h : memOk s) : memOk (s.lineMoved c x m l f) := .charge (.landBytes (.modCmd h))
theorem lineRead {g : Nat → Cmd → Cmd} (h : memOk s) :
    memOk (s.cmdRead c x 3 m a n fun v => (true, s.lineMoved c x m true (g v))).2 :=
  .cmdRead h fun _ => .lineMoved h

theorem sendLines (h : memOk s) : memOk (s.sendLines c x n d f) := by
  induction f generalizing s with
  | zero => exact h
  | succ f ih =>
    unfold State.sendLines
    split
    · exact h
    · refine .ite (.modCmd (.emitTo h)) ?_
      split
      · next e => exact ih (.of_snd e (.lineRead h))
      · next e => exact .of_snd e (.lineRead h)

theorem sendStart (h : memOk s) : memOk (s.sendStart c x m a b d) :=
  .ite (.modCmd h) (.ite (.modCmd h)
    (.ite (.cmdRead h (fun _ => .charge (.modCmd (.emitTo h))))
      (.ite (.modCmd h) (.ite (.modCmd h) (.sendLines (.modCmd h))))))

theorem recvStart (h : memOk s) : memOk (s.recvStart c x m) :=
  .ite (.modCmd h) (.ite (.modCmd h) (.modCmd (.modVf h)))

theorem recvLines (h : memOk s) : memOk (s.recvLines c x n l d f) := by
  induction f generalizing s with
  | zero => exact h
  | succ f ih =>
    unfold State.recvLines
    split
    · exact h
    · refine .ite (.modCmd h) ?_
      split
      · next e => exact ih (.of_snd e (.cmdWrite h fun g => .lineMoved g))
      · next e => exact .of_snd e (.cmdWrite h fun g => .lineMoved g)

theorem recvAnswer (h : memOk s) : memOk (s.recvAnswer m) := by
  unfold State.recvAnswer
  split
  · exact .ite (.emitTo h) h
  · exact h

theorem modGroup (h : memOk s) : memOk (s.modGroup a f) := h

theorem collWrite (h : memOk s) : memOk (s.collWrite c x n f) := by
  induction f generalizing s with
  | zero => exact h
  | succ f ih =>
    unfold State.collWrite
    split
    · exact h
    · dsimp only
      split
      · exact h
      · refine .ite h (.ite (.modCmd h) ?_)
        split
        · next e => exact ih (.of_snd e (.cmdWrite h fun g => .lineMoved (.cmdCause g)))
        · next e => exact .of_snd e (.cmdWrite h fun g => .lineMoved (.cmdCause g))

theorem collGo (h : memOk s) : memOk (s.collGo a i) := .foldl h (fun g _ => .collWrite g)

theorem collDead (h : memOk s) : memOk (s.collDead a i) := by
  unfold State.collDead
  split
  · exact h
  · split
    · exact h
    · exact .sendAbort h

theorem collRead (h : memOk s) : memOk (s.collRead c x n r f) := by
  induction f generalizing s with
  | zero => exact h
  | succ f ih =>
    unfold State.collRead
    split
    · exact h
    · dsimp only
      split
      · exact h
      · refine .ite (.collDead (.collGo (.modCmd (.emit (.modGroup h))))) ?_
        split
        · next e => exact ih (.of_snd e (.cmdRead h fun _ => .charge (.modGroup h)))
        · next e => exact .of_snd e (.cmdRead h fun _ => .charge (.modGroup h))

theorem collStart (h : memOk s) : memOk (s.collStart c x m r) := by
  unfold State.collStart
  dsimp only
  split
  · exact .ite (.modCmd h) (.modCmd h)
  · split
    · exact .ite (.modCmd h) (.modCmd h)
    · exact .ite (.collRead h)
        (.ite (.modCmd h) (.ite (.modCmd h)
          (.ite (.modCmd (.modGroup h)) (.ite (.modCmd (.modGroup h)) (.collRead (.modCmd (.modGroup h)))))))

/-! #### The start and the completion of queued commands -/

theorem startPlain (h : memOk s) : memOk (s.startPlain c x q m) := .modCmd h

theorem startFrom (h : memOk s) (hg : memOk g) : memOk (s.startFrom c x q m l g f) := by
  unfold State.startFrom
  dsimp only
  split
  · exact .ite (.accessBy (.modCmd (.cmdCause hg))) (.modCmd (.cmdCause hg))
  · split
    · exact .ite h (.serve (.ite (.accessBy (.modCmd (.cmdCause hg))) (.modCmd (.cmdCause hg))))
    · exact .wakeBanks h
    · split
      · next e => exact .logTstate (.startUnpark h e)
      · exact h
    · exact .cmdFatal h
    · exact .ite h (.serve (.ite (.accessBy (.modCmd h)) (.modCmd h)))

theorem storeStart (h : memOk s) : memOk (s.storeStart c x m) := .ite (.modCmd (.cmdCause h)) (.startFrom h h)

theorem ccopyStart (h : memOk s) : memOk (s.ccopyStart c x m) := by
  unfold State.ccopyStart
  refine .ite (.startPlain h) ?_
  refine .ite ?_ (.startFrom h (.filledTile h))
  refine .cmdFatal ?_
  split
  · exact .vanish h
  · exact h

theorem beyondStart (h : memOk s) : memOk (s.beyondStart c x q m) := by
  unfold State.beyondStart
  extract_lets s0
  have g : memOk s0 := .ite h (.ite (.cmdFatal h) (.cmdRead h fun _ => .modCmd h))
  split
  · exact g
  · refine .ite g (.ite ?_ (.ite (.collWrite g) g))
    split
    · exact .sluiceStart g
    · exact .skimStart g
    · exact .collStart g
    · exact .sendStart g
    · exact .recvStart g

theorem cmdWrites (h : memOk s) (hf : ∀ {t}, memOk t → memOk (k t).2) : memOk (s.cmdWrites c x q m k l d).2 := by
  induction l generalizing d with
  | nil => exact hf (.foldl h fun g _ => .storePieces g)
  | cons p r ih => exact .cmdAccess h fun _ => ih

theorem completed (h : memOk s) : memOk (s.completed c x q n) := by
  unfold State.completed
  split
  · exact h
  · exact .ite (.foldl (.landBytes (.modCtx h)) (fun g _ => .modObj g))
      (.ite (.ite (.traceFor (.foldl (.landBytes (.modCtx h)) (fun g1 _ => .modObj g1)))
        (.foldl (.landBytes (.modCtx h)) (fun g2 _ => .modObj g2)))
          (.leaveCore (.unitDone
            (.ite (.traceFor (.foldl (.landBytes (.modCtx h)) (fun g3 _ => .modObj g3)))
              (.foldl (.landBytes (.modCtx h)) (fun g4 _ => .modObj g4))))))

theorem xdispComplete (h : memOk s) : memOk (s.xdispComplete c m) := by
  unfold State.xdispComplete
  dsimp only
  split
  · exact .xdispDone (.ite (.logEntry h) h)
  · split
    · exact h
    · split
      · exact .endPreempted (.ite (.logFor h) h)
      · exact .modFrame (.ite (.logFor h) h)

/-! #### Events of a core -/

theorem tileError (h : memOk s) : memOk (s.tileError l) :=
  .ite h (.countError (.logTstate (.setTile (.ite (.unparkSpace h) h))))

/-! #### Admission, launches and dispatch -/

theorem examine (h : memOk s) : memOk (s.examine l) := .ite (.passIfHead (.modLaunch h)) h
theorem rejectEntry (h : memOk s) : memOk (s.rejectEntry v q n c a) := .passHead (.postRecord h)

theorem answerPacket (h : memOk s) : memOk (s.answerPacket a c b i) := by
  unfold State.answerPacket
  dsimp only
  split
  · refine .upd ?_
    split
    · refine .upd ?_
      split
      · exact .finishEntry (.ite h (.rejectEntry h))
      · exact h
    · split
      · exact .finishEntry (.ite h (.rejectEntry h))
      · exact h
  · split
    · refine .upd ?_
      split
      · exact .finishEntry (.ite h (.rejectEntry h))
      · exact h
    · split
      · exact .finishEntry (.ite h (.rejectEntry h))
      · exact h

theorem traceAdmit (h : memOk s) : memOk (s.traceAdmit a c b i) := by
  unfold State.traceAdmit
  dsimp only
  split
  · exact .trace h
  · split
    · exact .trace h
    · exact .trace h

theorem openInst (h : memOk s) : memOk (s.openInst v l i u).2 := by
  unfold State.openInst
  refine .upd ?_
  dsimp only
  split
  · exact .newId h
  · exact h

theorem openGraph (h : memOk s) : memOk (s.openGraph a j).2 := by
  unfold State.openGraph
  dsimp only
  split
  · exact h
  · refine .openInst ?_
    split
    · split
      · exact h
      · exact .openInst h
    · refine .openInst ?_
      split
      · exact h
      · exact .openInst h

theorem takeIn (h : memOk s) : memOk (s.takeIn a l j).2 := by
  unfold State.takeIn
  refine .examine ?_
  split
  · exact .modQueue (.ite (.countUp (.upd (.openGraph h))) (.modVf (.countUp (.upd (.openGraph h)))))
  · exact .ite (.countUp (.upd (.openGraph h))) (.modVf (.countUp (.upd (.openGraph h))))

theorem modUnits (h : memOk s) : memOk (s.modUnits i f) := h
theorem traceTime (h : memOk s) : memOk (s.traceTime l a) := .trace h

theorem noteLate (h : memOk s) : memOk (s.noteLate l) := .ite h (.traceTime (.modUnits (.modVf (.modLaunch h))))

theorem recordOf (h : memOk s) : memOk (s.recordOf l) := by
  unfold State.recordOf
  split
  · exact h
  · exact .modLaunch (.postRecord h)

theorem noteTie (h : memOk s) : memOk (s.noteTie c a) := .ite h h
theorem settings (h : memOk s) : memOk (s.settings c x l p) :=
  .ite (.haltCtx (.ite (.modCtx (.ite (.modCtx h) h)) (.ite (.modCtx h) h)))
    (.ite (.modCtx (.ite (.modCtx h) h)) (.ite (.modCtx h) h))

theorem placeUnit (h : memOk s) : memOk (s.placeUnit c l m u) := by
  unfold State.placeUnit
  split
  · exact h
  · exact .settings (.startLog (.traceCtx (.modCore h)))

/-! #### The host interface and the firmware -/

theorem traceFw (h : memOk s) : memOk (s.traceFw v a b n) := .trace h

theorem stopSlot (h : memOk s) : memOk (s.stopSlot n a) := h

theorem replaceWaiting (h : memOk s) : memOk s.replaceWaiting := .foldl h (fun g _ => .traceFw (.traceFw g))

theorem resetFw (h : memOk s) : memOk (s.resetFw q) := h

theorem closeInst (h : memOk s) : memOk (s.closeInst v l i) := by
  unfold State.closeInst
  split
  · exact .modInst h
  · exact .ite h h

theorem renewId (h : memOk s) : memOk (s.renewId v l i) := h
theorem layWindow (h : memOk s) : memOk (s.layWindow m) := h

theorem hostAcquire (h : memOk s) : memOk (s.hostAcquire p n) := .settleBy h

/-! #### The debugger's rows -/

theorem sampleCtx (h : memOk s) : memOk (s.sampleCtx v c x) := by
  unfold State.sampleCtx
  extract_lets t cx r size words put s1 s2
  have h1 : memOk s1 := .storeVa h
  have h2 : memOk s2 := .foldl h1 fun g _ => .storeVa g
  exact .trace (.modVf h2)

/-! #### Boot, attestation, fuse errors and temperature -/

theorem coldBoot (h : memOk s) : memOk s.coldBoot := Memory.wf_filter _ h
theorem bootStop (h : memOk s) : memOk (s.bootStop a c) := h

theorem cancelEvery (h : memOk s) : memOk s.cancelEvery := .cancelLaunches h
theorem trip (h : memOk s) : memOk s.trip := .upd (.foldl (.cancelEvery h) (fun g _ => .ite (.recordOf g) g))

/-! #### How the agents run the instructions of a program -/

theorem atWord (h : memOk s) : memOk (s.atWord w) := h

end memOk

namespace outOk

theorem next (h : memOk t) : outOk (.next t) := h

theorem ite {c : Prop} [Decidable c] (hs : outOk o) (ht : outOk p) : outOk (if c then o else p) := by
  split
  · exact hs
  · exact ht

/-! #### The control slot -/

theorem lbrk (h : memOk s) : outOk (execLbrk t i n s) := by
  unfold execLbrk
  refine .next ?_
  split
  · exact .ite (.goEnd (.modMe h)) h
  · exact h

theorem yield (h : memOk s) : outOk (execYield t i s) := by
  unfold execYield
  refine .next ?_
  split
  · exact h
  · exact .modHere (.modMe h)

theorem cancel (h : memOk s) : outOk (execCancel t i l a s) := by
  unfold execCancel
  refine .next ?_
  dsimp only
  split
  · split
    · exact .ite (.cancelUnit h) (.fatalMe h)
    · exact .fatalMe h
  · exact .ite (.cancelLaunches h) (.fatalMe h)
  · split
    · exact .cancelInst h
    · exact .fatalMe h

/-! #### The matrix engine -/

theorem matrixOpStart (h : memOk s) : outOk (execMatrixOpStart s) := by
  unfold execMatrixOpStart
  refine .next ?_
  dsimp only
  split
  · exact .readmit h
  · refine .ite (.readmit h) ?_
    split
    · exact .startCall (.readmit h)
    · exact .ite (.opCause (.setCore (.readmit h))) (.setCore (.readmit h))
    · exact .ite (.opCause (.setCore (.readmit h))) (.setCore (.readmit h))
    · exact .ite (.readmit h) (.modCore (.modCtx (.newUid (.readmit h))))

theorem rwStep (h : memOk s) : outOk (execRwStep s) := by
  unfold execRwStep
  refine .next ?_
  refine .onCall h (fun _ => ?_)
  split
  · exact .charge (.setCall h)
  · exact .routineError h

theorem rwSpop (h : memOk s) : outOk (execRwSpop s) :=
  .next (.onCall h (fun _ => .ite (.routineError h)
    (.ite (.ite h (.fatal (.modHere h))) (.ite (.ite h (.fatal (.modHere h))) (.setCall (.modCtx h))))))

theorem matrixCallComplete (h : memOk s) : outOk (execMatrixCallComplete s) := by
  unfold execMatrixCallComplete
  refine .next ?_
  dsimp only
  split
  · exact h
  · exact .ite h (.traceFor (.readmit (.opCause (.setCore h))))

theorem matrixOpComplete (h : memOk s) : outOk (execMatrixOpComplete s) := by
  unfold execMatrixOpComplete
  refine .next ?_
  dsimp only
  split
  · exact h
  · exact .ite h (.ite (.readmit (.setCore h)) (.readmit (.opCause (.modCore (.setCore h)))))

/-! #### Front banks -/

theorem frontOpStart (h : memOk s) : outOk (execFrontOpStart s) := by
  unfold execFrontOpStart
  refine .next ?_
  split
  · exact .ite (.frontStart (.setCore h)) h
  · exact h

theorem frontInsert (h : memOk s) : outOk (execFrontInsert s) := by
  unfold execFrontInsert
  refine .next ?_
  dsimp only
  split
  · exact h
  · refine .ite h ?_
    split
    · exact .frontDone h
    · refine .ite (.ite (.frontDone (.charge h)) (.modCore (.charge h))) ?_
      refine .ite h ?_
      refine .ite (.frontDone ?_) (.modCore ?_) <;>
        (split <;> [exact .spill (.charge (.setCore h)); exact .charge (.setCore h)])

theorem frd (h : memOk s) : outOk (execFrd t i d n a s) := by
  unfold execFrd
  refine .next ?_
  refine .ite (.fatalMe h) ?_
  split
  · exact .land h
  · exact .land h

theorem fcnt (h : memOk s) : outOk (execFcnt t i d n k s) := by
  unfold execFcnt
  refine .next ?_
  refine .ite (.fatalMe h) ?_
  split
  · exact .land h
  · exact .land h

/-! #### The MT slot -/

theorem tld (h : memOk s) : outOk (execTld t i x r d p s) :=
  .next (.ite (.fatalMe h) (.readOp h (fun _ => .mtDone (.readDone (.causeIn (.result h))))))
theorem tlw (h : memOk s) : outOk (execTlw t i x r d a s) :=
  .next (.ite (.fatalMe h) (.readOp h (fun _ => .mtDone (.readDone (.causeIn (.result h))))))
theorem sqld (h : memOk s) : outOk (execSqld t i x r d p s) :=
  .next (.ite (.fatalMe h) (.ite (.waitHead h) (.readOp h (fun _ => .mtDone (.readDone (.causeIn (.modMe h)))))))

theorem tdrop (h : memOk s) : outOk (execTdrop t i x s) := by
  unfold execTdrop
  refine .next ?_
  split
  · exact .ite (.mtDone h) (.mtDone (.noted (.vanish h)))
  · exact .mtDone h

theorem tshare (h : memOk s) : outOk (execTshare t i x s) := by
  unfold execTshare
  refine .next ?_
  split
  · exact .mtDone (.causeIn h)
  · exact .ite (.mtDone (.causeIn h))
      (.ite (.mtDone h) (.ite (.mtDone (.causeIn h))
        (.mtDone (.ite (.endTiles (.logTstate (.setTile (.setTile h)))) (.logTstate (.setTile (.setTile h)))))))

theorem tplane (h : memOk s) : outOk (execTplane t i d n r s) :=
  .next (.ite (.waitHead (.wakeBanks h))
    (.ite (.waitHead (.wakeBanks h))
      (.access h (fun _ => .ite (.mtDone (.causeIn h))
        (.mtDone (.causeIn (.ite (.noted (.countRead (.noteWrite (.noteWrite (.setTile (.setTile h))))))
          (.noteWrite (.noteWrite (.setTile (.setTile h)))))))))))

/-! #### The MC slot -/

theorem cld (h : memOk s) : outOk (execCld t i x r d c s) := .next (.peerRead h)
theorem clw (h : memOk s) : outOk (execClw t i x r d c s) := .next (.peerRead h)

theorem cst (h : memOk s) : outOk (execCst t i x a c s) := .next (.peerWrite h)
theorem csw (h : memOk s) : outOk (execCsw t i x b c s) := .next (.peerWrite h)
theorem catom (h : memOk s) : outOk (execCatom t i x o d a s) :=
  .next (.peerChecked h (.performed (.result (.causeIn h)))
    (.peerAccess h (fun _ => .mcDone (.result (.atomData h)))))
theorem ccnt (h : memOk s) : outOk (execCcnt t i x a c s) :=
  .next (.peerChecked h (.performed (.causeIn h)) (.ite (.performed h) (.mcDone (.changeCount h))))

theorem ccopy (h : memOk s) : outOk (execCcopy t i x r c s) := by
  unfold execCcopy
  refine .next ?_
  refine .peerChecked h (.performed (.causeIn h)) ?_
  refine .ite (.fatalMe h) ?_
  dsimp only
  split
  · exact .performed (.causeIn h)
  · exact .ite (.waitHead h)
      (.ite (.waitHead h) (.ite (.performed (.causeIn h))
        (.ite (.performed h)
          (.ite (.waitHead h) (.ite (.waitAlloc h) (.mcDone (.modMe (.enterPb (.advanceP (.makeTile h))))))))))

theorem barvRemote (h : memOk s) : outOk (execBarvRemote t i n c s) :=
  .next (.ite (.fatalMe h) (.ite (.performed h) (.arrive h)))

theorem bwait (h : memOk s) : outOk (execBwait t i n s) :=
  .next (.ite (.ite (.wake (.modMe h)) (.waitHead h))
    (.barrierWord h (.wake (.causeIn h)) (fun _ => .ite (.wake (.modMe h)) (.waitHead h))))

theorem btry (h : memOk s) : outOk (execBtry t i n s) := by
  unfold execBtry
  refine .next ?_
  refine .ite (.performed (.pushCqIn h)) ?_
  refine .barrierWord h (.performed (.pushCqIn (.causeIn h))) (fun _ => ?_)
  split
  · exact .ite (.performed (.pushCqIn (.modMe h))) (.performed (.pushCqIn h))
  · exact .performed (.pushCqIn h)

theorem bexp (h : memOk s) : outOk (execBexp t i n a s) :=
  .next (.ite (.performed h) (.barrierWord h (.performed (.causeIn h)) (fun _ => .performed (.setNb h))))
theorem csev (h : memOk s) : outOk (execCsev t i c m s) :=
  .next (.ite (.fatalMe h) (.ite (.performed h) (.performed (.setEvents h))))

/-! #### The MG slot -/

theorem gls (h : memOk s) : outOk (execGls t i d e y s) :=
  .next (.ite (.fatalMe h)
    (.ite (.performed (.loaded h))
      (.direct h (fun _ => .ite (.fatalMe h) (.performed (.hostLoad (.loaded (.observe (.ownRead h)))))))))

theorem gwait (h : memOk s) : outOk (execGwait t i f v s) :=
  .next (.ite (.fatalMe h)
    (.ite (.ite (.performed (.inputMe h)) (.waitHead h))
      (.direct h (fun _ => .ite (.fatalMe h)
        (.ite (.waitHead (.ownRead h)) (.performed (.inputMe (.observe (.ownRead h)))))))))
theorem gacq (h : memOk s) : outOk (execGacq t i f a s) :=
  .next (.ite (.fatalMe h) (.ite (.performed h) (.inOrder h (fun g => .performed (.acquire g)))))
theorem grel (h : memOk s) : outOk (execGrel t i f a s) :=
  .next (.ite (.fatalMe h) (.ite (.performed h) (.ite (.waitHead h) (.atomicAt h (fun _ _ _ g => .performed g)))))
theorem gbind (h : memOk s) : outOk (execGbind t i r l f s) :=
  .next (.ite (.fatalMe h) (.inOrder h (fun g => .ite (.performed g) (.ite (.fatalMe g) (.performed (.modMe g))))))

theorem gunbind (h : memOk s) : outOk (execGunbind t i r f s) := by
  unfold execGunbind
  refine .next ?_
  refine .ite (.fatalMe h) ?_
  refine .inOrder h (fun g => ?_)
  split
  · exact .fatalMe g
  · exact .performed (.modMe (.keepSeen g))

theorem gtlbi (h : memOk s) : outOk (execGtlbi t i a b m s) := by
  unfold execGtlbi
  refine .next ?_
  refine .ite (.fatalMe h) ?_
  refine .ite (.performed h) ?_
  refine .ite (.waitHead h) ?_
  refine .ite (.performed h) ?_
  refine .ite (.waitHead h) ?_
  dsimp only
  split
  · exact .waitHead (.invalidate h)
  · exact .waitHead (.invalidate h)
  · exact .waitHead (.invalidate h)

theorem ggather (h : memOk s) : outOk (execGgather t i o n j s) := by
  unfold execGgather
  refine .next ?_
  refine .ite (.fatalMe h) ?_
  refine .ite (.fatalMe h) ?_
  dsimp only
  split
  · exact .performed (.causeIn h)
  · exact .ite (.waitHead h)
      (.ite (.performed (.causeIn h))
        (.ite (.performed h) (.canHand h (.ite (.waitAlloc h) (.handOff (.advanceP (.makeTile h)))))))

theorem gscatter (h : memOk s) : outOk (execGscatter t i o n j r s) :=
  .next (.ite (.fatalMe h)
    (.ite (.fatalMe h) (.ite (.waitHead h) (.ite (.performed (.causeIn h)) (.canHand h (.handOff h))))))
theorem gstore (h : memOk s) : outOk (execGstore t i o n r p s) :=
  .next (.ite (.fatalMe h) (.ite (.fatalMe h) (.ite (.waitHead h) (.canHand h (.handOff h)))))
theorem gcopy (h : memOk s) : outOk (execGcopy t i d n l p s) :=
  .next (.ite (.fatalMe h) (.ite (.performed (.causeIn h)) (.ite (.performed h) (.canHand h (.handOff h)))))

/-! #### The engine queues at work -/

theorem copyEngineLine (h : memOk s) : outOk (execCopyEngineLine s) := by
  unfold execCopyEngineLine
  refine .next ?_
  refine .ite ?_ (.moveAny h)
  split
  · exact .ccopyLine h
  · exact h

theorem preemptedCommandFault (h : memOk s) : outOk (execPreemptedCommandFault s) := by
  unfold execPreemptedCommandFault
  refine .next ?_
  dsimp only
  split
  · exact h
  · exact .ite h (.ite (.moveLine h) h)

theorem translationWalkDone (h : memOk s) : outOk (execTranslationWalkDone s) := by
  unfold execTranslationWalkDone
  refine .next ?_
  dsimp only
  split
  · exact h
  · split
    · exact .foldl h (fun g _ => .install g)
    · exact .foldl h (fun g1 _ => .walkFault g1)

theorem pageFaultResolved (h : memOk s) : outOk (execPageFaultResolved s) := by
  unfold execPageFaultResolved
  refine .next ?_
  refine .ite h ?_
  dsimp only
  split
  · exact h
  · refine .ite ?_ ?_
    · split
      · exact h
      · exact .forgetOld (.dropTlb (.modCmd (.upd (.early h))))
      · refine .ite (.fatal (.upd (.early h))) ?_
        split
        · exact .cmdFatal (.modCmd (.upd (.early h)))
        · exact .modCmd (.upd (.early h))
    · split
      · exact .forgetOld (.dropTlb (.ite (.upd (.early h)) (.store (.modCmd (.upd (.early h))))))
      · refine .ite (.fatal (.upd (.early h))) ?_
        split
        · exact .cmdFatal (.modCmd (.upd (.early h)))
        · exact .modCmd (.upd (.early h))

theorem invalidationComplete (h : memOk s) : outOk (execInvalidationComplete s) := by
  unfold execInvalidationComplete
  refine .next ?_
  split
  · exact h
  · exact .foldl h (fun g _ => .scrubRange g)

theorem storePerformed (h : memOk s) : outOk (execStorePerformed s) :=
  .next (.ite (.performWindow h) (.ite (.settleBy h) (.ite h (.modCtx (.ite h (.performStores h))))))

theorem gwaitReread (h : memOk s) : outOk (execGwaitReread s) := by
  unfold execGwaitReread
  dsimp only
  split
  · split
    · exact .ite (.gwait (.atHead h)) (.next h)
    · exact .next h
  · exact .next h

theorem parkComplete (h : memOk s) : outOk (execParkComplete s) := by
  unfold execParkComplete
  refine .next ?_
  split
  · exact h
  · exact .ite h (.ite (.wakeBanks h) (.logTstate (.charge (.freed (.setTile (.serve h))))))

theorem unparkComplete (h : memOk s) : outOk (execUnparkComplete s) := by
  unfold execUnparkComplete
  refine .next ?_
  split
  · exact h
  · exact .ite h (.ite (.wakeBanks h) (.serve (.logTstate (.charge (.setTile (.unparkSpace h))))))

/-! #### The memory tiers -/

theorem promoteCopyComplete (h : memOk s) : outOk (execPromoteCopyComplete s) := by
  unfold execPromoteCopyComplete
  refine .next ?_
  split
  · exact .ite (.copyDone h) h
  · exact h

theorem stripeUncorrectable (h : memOk s) : outOk (execStripeUncorrectable s) := by
  unfold execStripeUncorrectable
  refine .next ?_
  split
  · refine .ite h ?_
    refine .ite (.countError (.loseStripes (.copyDone h))) ?_
    dsimp only
    split
    · exact .serveSlots (.modObj (.charge (.loseStripes h)))
    · exact .serveSlots (.modObj (.charge (.loseStripes h)))
  · exact h

theorem promoteNospace (h : memOk s) : outOk (execPromoteNospace s) := by
  unfold execPromoteNospace
  refine .next ?_
  split
  · exact .ite h (.ite (.seekSlots h) (.foldl (.modObj h) (fun g _ => .giveResult g)))
  · exact h

theorem leaveComplete (h : memOk s) : outOk (execLeaveComplete s) := by
  unfold execLeaveComplete
  refine .next ?_
  split
  · exact .ite h (.serveSlots (.foldl (.scrubRange (.modObj h)) (fun g _ => .seekSlots g)))
  · exact h

theorem skimRow (h : memOk s) : outOk (execSkimRow s) := by
  unfold execSkimRow
  refine .next ?_
  dsimp only
  split
  · exact h
  · exact .ite h (.ite (.modCmd h)
      (.cmdAccess h (fun _ => .cmdWrite h (fun g => .chargeSkim (.landBytes (.modCmd g))))))

theorem skimEpochDequeue (h : memOk s) : outOk (execSkimEpochDequeue s) := by
  unfold execSkimEpochDequeue
  refine .next ?_
  dsimp only
  split
  · exact h
  · exact .ite h (.modCmd (.setBias h))

/-! #### The Causeway -/

theorem answerFlit (h : memOk s) : outOk (execAnswerFlit s) := by
  unfold execAnswerFlit
  refine .next ?_
  split
  · exact .ite (.modCmd h) (.ite (.modCmd h) (.ite (.modCmd h) h))
  · exact h

theorem sendFlit (h : memOk s) : outOk (execSendFlit s) := by
  unfold execSendFlit
  refine .next ?_
  refine .ite h ?_
  refine .ite (.emitTo h) ?_
  dsimp only
  split
  · exact .ite (.recvLines h) h
  · split
    · exact h
    · exact .recvLines (.modCmd (.modVf h))

theorem abortFlit (h : memOk s) : outOk (execAbortFlit s) := by
  unfold execAbortFlit
  refine .next ?_
  dsimp only
  split
  · exact h
  · exact h

/-! #### The start and the completion of queued commands -/

theorem commandStart (h : memOk s) : outOk (execCommandStart s) := by
  unfold execCommandStart
  refine .next ?_
  dsimp only
  split
  · exact h
  · exact .ite h (.ite (.modCmd h)
      (.ite (.modCmd h) (.ite (.ccopyStart h)
        (.ite (.beyondStart h)
          (.ite (.ite h (.modCmd h)) (.ite (.storeStart h) (.ite (.modCmd h) (.startPlain h))))))))

theorem commandComplete (h : memOk s) : outOk (execCommandComplete s) := by
  unfold execCommandComplete
  refine .next ?_
  dsimp only
  split
  · exact h
  · refine .ite h ?_
    refine .ite (.ite h (.completed h)) ?_
    refine .ite h ?_
    refine .ite (.ite (.ite h (.completed (.xdispComplete h))) (.completed h)) ?_
    refine .cmdWrites ?_ (fun g => .completed (.recvAnswer g))
    split
    · exact .tierStatus h
    · exact .fabricStatus h

theorem mloadInstall (h : memOk s) : outOk (execMloadInstall s) := by
  unfold execMloadInstall
  refine .next ?_
  dsimp only
  split
  · exact h
  · refine .ite h ?_
    split
    · exact .readmit (.setCore h)
    · refine .ite h ?_
      refine .ite (.readmit (.completed (.setCore h))) ?_
      split
      · exact .readmit (.completed (.setCore (.setCore h)))
      · exact .readmit (.completed (.opCause (.setCore h)))

/-! #### Events of a core -/

theorem globalLoadReturn (h : memOk s) : outOk (execGlobalLoadReturn s) := by
  unfold execGlobalLoadReturn
  refine .next ?_
  dsimp only
  split
  · exact h
  · exact .ite h (.ite (.modCtx h) (.ite h (.ite h (.ite (.input h) (.modCtx (.input h))))))

theorem forcedSwitch (h : memOk s) : outOk (execForcedSwitch s) := by
  unfold execForcedSwitch
  refine .next ?_
  dsimp only
  split
  · exact .ite h (.modCore (.modCtx h))
  · exact h

theorem launchAnswer (h : memOk s) : outOk (execLaunchAnswer s) := by
  unfold execLaunchAnswer
  refine .next ?_
  dsimp only
  split
  · exact h
  · refine .ite h ?_
    refine .ite (.ite h (.ite (.input h) (.modCtx (.input h)))) ?_
    split
    · exact h
    · exact .ite h (.modCtx (.input h))

theorem retireComplete (h : memOk s) : outOk (execRetireComplete s) :=
  .next (.ite h (.leaveCore
    (.ite (.modCore (.endUnitTiles (.performWindow (.flushStores h))))
      (.unitDone (.modCore (.endUnitTiles (.performWindow (.flushStores h))))))))

theorem storeFull (h : memOk s) : outOk (execStoreFull s) := by
  unfold execStoreFull
  refine .next ?_
  refine .ite h ?_
  dsimp only
  split
  · exact h
  · exact .boundary (.modCtx h)

theorem storeErrorUncorrectable (h : memOk s) : outOk (execStoreErrorUncorrectable s) := by
  unfold execStoreErrorUncorrectable
  refine .next ?_
  split
  · exact .tileError h
  · exact .modCore h

theorem retentionExitDone (h : memOk s) : outOk (execRetentionExitDone s) := by
  unfold execRetentionExitDone
  refine .next ?_
  split
  · exact .tileError (.modCore h)
  · exact .modCore h

/-! #### Admission, launches and dispatch -/

theorem admissionTest (h : memOk s) : outOk (execAdmissionTest s) := by
  unfold execAdmissionTest
  refine .next ?_
  split
  · exact h
  · next a _ =>
    have g : memOk { s with adm := s.adm.erase a } := h
    exact .ite h (.answerPacket (.traceAdmit (.iteSnd (.takeIn g) g)))

theorem overrunCrossing (h : memOk s) : outOk (execOverrunCrossing s) := by
  unfold execOverrunCrossing
  refine .next ?_
  split
  · exact h
  · refine .ite h ?_
    refine .ite (.traceTime (.modLaunch h)) ?_
    dsimp only
    split
    · exact .modLaunch (.traceTime (.modLaunch h))
    · exact .modUnits (.traceTime (.modLaunch h))
    · exact .cancelLaunches (.traceTime (.modLaunch h))

theorem late (h : memOk s) : outOk (execLate s) := by
  unfold execLate
  refine .next ?_
  split
  · exact h
  · exact .noteLate h

theorem launchComplete (h : memOk s) : outOk (execLaunchComplete s) := by
  unfold execLaunchComplete
  refine .next ?_
  dsimp only
  split
  · exact .ite (.settleBy (.performWindow h)) h
  · split
    · exact .ite (.settleBy (.performWindow h)) h
    · exact .ite (.leaveGraph (.recordOf (.endLaunchTiles (.ite (.settleBy (.performWindow h)) h))))
        (.ite (.settleBy (.performWindow h)) h)
    · exact .ite (.ite (.settleBy (.performWindow h)) h)
        (.leaveGraph (.recordOf
          (.ite (.modVf (.unpinAll
            (.endLaunchTiles (.modLaunch (.noteLate (.ite (.settleBy (.performWindow h)) h))))))
              (.storeVa (.modVf (.unpinAll
                (.endLaunchTiles (.modLaunch (.noteLate (.ite (.settleBy (.performWindow h)) h))))))))))

theorem unitPlace (h : memOk s) : outOk (execUnitPlace s) := by
  unfold execUnitPlace
  refine .next ?_
  dsimp only
  split
  · exact h
  · exact .ite h (.upd (.foldl (.modCore (.noteTie h)) (fun g _ => .placeUnit g)))

theorem preempt (h : memOk s) : outOk (execPreempt s) := by
  unfold execPreempt
  refine .next ?_
  dsimp only
  split
  · exact h
  · exact .boundary (.modCtx h)

theorem frameWritten (h : memOk s) : outOk (execFrameWritten s) :=
  .next (.ite h (.leaveCore
    (.forgetDirect (.upd (.traceCtx (.free (.withdraw (.performWindow (.flushStores h)))))))))

theorem unitResume (h : memOk s) : outOk (execUnitResume s) := by
  unfold execUnitResume
  refine .next ?_
  dsimp only
  split
  · exact h
  · split
    · exact .leaveCore (.settings (.readmit (.readmitFront (.traceCtx (.upd (.noteTie h))))))
    · exact h

/-! #### The host interface and the firmware -/

theorem queueEntryFetch (h : memOk s) : outOk (execQueueEntryFetch s) := by
  unfold execQueueEntryFetch
  refine .next ?_
  split
  · exact h
  · refine .ite h ?_
    refine .upd ?_
    refine .modQueue ?_
    split
    · refine .newId ?_
      split
      · exact .newId (.touchVa h)
      · exact .touchVa h
    · split
      · exact .newId (.touchVa h)
      · exact .touchVa h

theorem unmap (h : memOk s) : outOk (execUnmap s) := by
  unfold execUnmap
  refine .next ?_
  split
  · exact h
  · exact .ite h (.traceFw (.stopSlot h))

theorem allWaiting (h : memOk s) : outOk (execAllWaiting s) := by
  unfold execAllWaiting
  refine .next ?_
  refine .ite h ?_
  refine .ite (.replaceWaiting (.foldl h (fun g _ => .traceFw g))) ?_
  dsimp only
  split
  · exact .foldl h (fun g1 _ => .traceFw g1)
  · split
    · exact .cancelInst (.foldl h (fun g2 _ => .traceFw g2))
    · exact .foldl h (fun g3 _ => .traceFw g3)

theorem partitionMove (h : memOk s) : outOk (execPartitionMove s) := by
  unfold execPartitionMove
  refine .next ?_
  refine .ite h ?_
  dsimp only
  split
  · exact .traceFw (.modVf h)
  · exact .ite h (.traceFw (.traceFw (.settleMoves h)))

theorem registerWrite (h : memOk s) : outOk (execRegisterWrite s) := by
  unfold execRegisterWrite
  refine .next ?_
  dsimp only
  split
  · exact .modQueue h
  · exact .modQueue h
  · exact .modQueue h
  · exact .modQueue h
  · exact .modCore h
  · exact .windowWrite h
  · exact .windowWrite h
  · exact .windowWrite h
  · exact .windowWrite h
  · exact .windowWrite h
  · exact .windowWrite h
  · exact .windowWrite h
  · exact .ite (.ite h h) (.ite (.fatal h) h)
  · exact .modVf h
  · exact .ite h h
  · exact .ite (.layWindow h) h
  · exact .ite (.layWindow (.modVf h)) h
  · exact .ite (.modVf h) h
  · exact .ite (.slewTo h) h
  · exact h
  · exact .ite h h
  · exact .ite h h
  · exact h

theorem functionDestroy (h : memOk s) : outOk (execFunctionDestroy s) :=
  .next (.ite h (.ite (.cancelLaunches h)
    (.dropTlb (.setObjs (.upd
      (.foldl (.foldl (.foldl h (fun g _ => .scrubRange g)) (fun g1 _ => .scrubRange g1))
        (fun g2 _ => .scrubRange g2)))))))

/-! #### The debugger's rows -/

theorem replayRequest (h : memOk s) : outOk (execReplayRequest s) := by
  unfold execReplayRequest
  refine .next ?_
  dsimp only
  split
  · exact .ite h (.settings (.readmit (.readmitFront (.traceCtx (.modLaunch (.modCore h))))))
  · exact h

/-! #### Boot, attestation, fuse errors and temperature -/

theorem powerOn (h : memOk s) : outOk (execPowerOn s) :=
  .next (.ite (.bootStop (.coldBoot h))
    (.ite (.bootStop (.coldBoot h))
      (.ite (.bootStop (.coldBoot h))
        (.ite (.bootStop (.coldBoot h))
          (.ite (.bootStop (.upd (.coldBoot h))) (.ite (.bootStop (.upd (.coldBoot h))) (.upd (.coldBoot h))))))))

theorem attestationReport (h : memOk s) : outOk (execAttestationReport s) := by
  unfold execAttestationReport
  refine .next ?_
  refine .ite h ?_
  split
  · exact h
  · exact h

theorem thermalSample (h : memOk s) : outOk (execThermalSample s) :=
  .next (.ite (.trip (.ite h (.foldl h (fun g _ => .trace g)))) (.ite h (.foldl h (fun g1 _ => .trace g1))))

/-! #### Issuing a bundle -/

theorem bundleIssue (h : memOk s) : outOk (execBundleIssue s) := by
  unfold execBundleIssue
  extract_lets c s1
  have h1 : memOk s1 := .takeAgain (.foldl h fun g _ => .ite (.reconsider g) g)
  refine .next ?_
  split
  · exact .switchIn h1
  · exact .ite (.tick (.boundary h1)) (.ite (.stallCycle (.tick (.boundary h1))) (.issueCycle (.boundary h1)))

/-- The state that an outcome goes on with is the one its predicate speaks of. -/
theorem of_next (h : outOk o) (e : o = .next t) : memOk t := by
  subst e
  exact h

theorem peerMeaning (h : memOk s) (e : peerMeaning i = some f) : outOk (f s) := by
  unfold Sys2Proof.Machine.peerMeaning at e
  split at e
  · cases e
    exact .cld h
  · cases e
    exact .cst h
  · cases e
    exact .ccnt h
  · cases e
    exact .clw h
  · cases e
    exact .csw h
  · cases e
    exact .catom h
  · cases e
    exact .barvRemote h
  · cases e
    exact .csev h
  · cases e

/-! #### The engine queues at work -/

theorem peerRequest (h : memOk s) : outOk (execPeerRequest s) := by
  unfold execPeerRequest
  dsimp only
  split
  · next w r _ =>
    split
    · refine .ite ?_ (.next h)
      split
      · exact .next h
      · next f e =>
        have g : outOk (f (s.atHead s.ev.c s.ev.x 1 w r)) := .peerMeaning (.atHead h) e
        split
        · next e => exact .next (.outcome h (.servedWord (g.of_next e)))
        · exact g
    · exact .next h
  · exact .next h

/-- Every word, row and engine move that goes on keeps memory canonical. -/
theorem exec (h : memOk s) : outOk (exec i s) := by
  unfold Sys2Proof.Machine.exec
  cases i with dsimp only
  | nop => exact .next (.ite (.performed h) h)
  | br | brt => exact .next (.branch h)
  | mbr => exact .next (.ite (.branch h) h)
  | call => exact .next (.branch (.land h))
  | ret => exact .next (.ite (.fatalMe h) (.branch h))
  | loopReg | loopImm => exact .next (.loop h)
  | lbrk => exact .lbrk h
  | tgsetLabel | tgsetReg | div | divu | rem | remu | agset | agstep | vcmp | vcvt | vli | vrlen | kop | vext
    | vscan | vtrans | vcompact | vexpand | mpset | ftsel => exact .next (.land h)
  | idle | cqclr | sqclr => exact .next (.modMe h)
  | wfe => exact .next (.ite (.inputMe (.modMe h)) (.modMe h))
  | sev => exact .next (.ite h (.setEvents h))
  | yield => exact .yield h
  | launch | bkpt => exact .next (.ite (.modMe h) h)
  | retire => exact .next (.deliver (.release (.modMe h)))
  | xdisp => exact .next (.ite (.modMe h) (.modMe (.newUid h)))
  | trap | segld => exact .next (.ite (.fatalMe h) (.modMe h))
  | eret => exact .next (.ite (.modMe h) (.fatalMe h))
  | csrr => exact .next (.ite (.land (.inputMe h)) (.land h))
  | csrw => exact .next (.ite (.modMe h) (.ite (.land h) h))
  | cancel => exact .cancel h
  | add | sub | mul | mulh | mulhu | and | or | xor | shl | shr | sar | rot | min | max | minu | maxu | clz
    | ctz | popc | sext | zext | addi | andi | ori | xori | shli | shri | sari | li | lih | sel | agrd | mpget =>
    exact .next (.landS h)
  | cmp | cmpi | cqpush | vany | vall => exact .next (.landCq h)
  | vaddVa | vsubVa | vmulVa | vfmaVa | vfms | vminVa | vmaxVa | vand | vor | vxor | vshl | vshr | vsar
    | vaddVb | vsubVb | vmulVb | vfmaVb | vminVb | vmaxVb => exact .next (.elem2 h)
  | vabs | vneg | vnot | vmov | vround => exact .next (.elem1 h)
  | vsel | vbcast | vsat | vclamp | vdiv | vperm | vrot => exact .next (.vecOp h)
  | vshape | ftset => exact .next (.ite (.land h) (.land h))
  | vbmm => exact .ite (.next (.land (.modMe h))) (.next (.land (.modMe h)))
  | vacrVaImm | vacrVaReg | vacrVbImm | vacrVbReg => exact .next (.vacr h)
  | vacwVaImm | vacwVaReg | vacwVbImm | vacwVbReg => exact .next (.vacw h)
  | vexp2 | vlog2 | vrcp | vrsqrt | vsqrt | vtanh | vsigm => exact .next (.special h)
  | vrsum | vrmax | vrmin | vargmax => exact .next (.reduce h)
  | mcall | mload | aclr | acmv => exact .next (.ite (.fatalMe h) (.accept h))
  | aclass => exact .next (.ite (.fatalMe h) (.ite h (.ite (.land h) (.modHere h))))
  | mwaitAll | launchFlit | linkLevelRetry | attestationRequest => exact .next h
  | mwaitBank => exact .next (.ite h (.fatalMe h))
  | finit | fins | fmrg | fclr => exact .next (.acceptFront h)
  | frd => exact .frd h
  | fcnt => exact .fcnt h
  | tallocImm | tallocReg => exact .next (.talloc h)
  | tld => exact .tld h
  | tst | tsw => exact .next (.ite (.fatalMe h) (.writeOp h (fun _ => .mtDone (.writeData h))))
  | tcntImm | tcntReg => exact .next (.mtDone (.changeCount h))
  | tdrop => exact .tdrop h
  | tparkTile => exact .next (.park h)
  | tparkReg => exact .next (.ite (.mtDone h) (.park h))
  | tunparkTile => exact .next (.unpark h)
  | tunparkReg => exact .next (.ite (.mtDone h) (.unpark h))
  | tstat => exact .next (.mtDone (.result h))
  | tplane => exact .tplane h
  | hbind => exact .next (.ite (.mtDone (.causeIn h)) (.mtDone (.modMe h)))
  | hadvp | hadvc => exact .next (.mtDone (.moveRing h))
  | qbind | qbindUnbind => exact .next (.mtDone (.modMe h))
  | sqld => exact .sqld h
  | tshare => exact .tshare h
  | tlw => exact .tlw h
  | tatom => exact .next (.ite (.fatalMe h) (.writeOp h (fun _ => .mtDone (.result (.atomData h)))))
  | tquota => exact .next (.ite (.fatalMe h) (.ite (.mtDone (.modCtx h)) (.mtDone (.causeIn h))))
  | cld => exact .cld h
  | cst => exact .cst h
  | ccopy => exact .ccopy h
  | ccnt => exact .ccnt h
  | clw => exact .clw h
  | csw => exact .csw h
  | catom => exact .catom h
  | binitImm | binitReg => exact .next (.binit h)
  | barv => exact .next (.ite (.performed h) (.arrive h))
  | barvRemote => exact .barvRemote h
  | bwait => exact .bwait h
  | bexp => exact .bexp h
  | btry => exact .btry h
  | csev => exact .csev h
  | gls => exact .gls h
  | gss | gvst => exact .next (.ite (.fatalMe h) (.ite (.performed h) (.direct h (fun _ => .issueStore h))))
  | gfetchImm | gfetchReg => exact .next (.gfetch h)
  | ggather => exact .ggather h
  | gscatter => exact .gscatter h
  | gstore => exact .gstore h
  | gcopy => exact .gcopy h
  | gatom | gcas => exact .next (.gatomic h)
  | gwait => exact .gwait h
  | gacq => exact .gacq h
  | grel => exact .grel h
  | gbind => exact .gbind h
  | gunbind => exact .gunbind h
  | gqfence => exact .next (.ite (.waitHead h) (.performed (.foldl h (fun g _ => .modMe (.newUid g)))))
  | gsluicePromote | gsluicePromoteX | gsluiceRelease | gskimSelect | gskimBiasw | gskimEpoch | gcollAllreduce
    | gcollReducescatter | gcollAllgather | gcollBroadcast | gsendData | gsendLaunch | grecv =>
    exact .next (.beyond h)
  | gpref => exact .next (.canHand h (.handOff h))
  | gtlbi => exact .gtlbi h
  | rwLda | rwLdb => exact .next (.loadSide h)
  | rwStep => exact .rwStep h
  | rwSkip => exact .next (.onCall h (fun _ => .setCall h))
  | rwSpop => exact .rwSpop h
  | rwProm => exact .next (.onCall h (fun _ => .ite (.routineError h) (.ite h (.modHere (.setCall h)))))
  | rwKadv => exact .next (.onCall h (fun _ => .ite (.routineError h) (.setCall h)))
  | rwJmore => exact .next (.onCall h (fun _ => .ite (.setCall h) (.ite (.routineError h) (.setCall h))))
  | rwBwr => exact .next (.onCall h (fun _ => .ite (.routineError h) (.ite h (.setCall h))))
  | rwEnd => exact .next (.onCall h (fun _ => .ite (.finishCall h) (.routineError h)))
  | bundleIssue => exact .bundleIssue h
  | computeResultLand => exact .next (.ite (.tick (.traceGate h)) (.traceGate h))
  | globalLoadReturn => exact .globalLoadReturn h
  | idleExpire => exact .next (.ite (.reconsider h) h)
  | forcedSwitch => exact .forcedSwitch h
  | segmentCopyComplete | debuggerEventSet => exact .next (.modCtx h)
  | launchAnswer => exact .launchAnswer h
  | retireComplete => exact .retireComplete h
  | killed | overrun => exact .next (.ite (.boundary h) h)
  | watchdog => exact .next (.ite (.fatal h) h)
  | storeFull => exact .storeFull h
  | overrunCrossing => exact .overrunCrossing h
  | late => exact .late h
  | unitPlace => exact .unitPlace h
  | preempt => exact .preempt h
  | frameWritten => exact .frameWritten h
  | unitResume => exact .unitResume h
  | preemptedCommandFault => exact .preemptedCommandFault h
  | translationWalkDone => exact .translationWalkDone h
  | pageFaultResolved => exact .pageFaultResolved h
  | commandStart => exact .commandStart h
  | copyEngineLine => exact .copyEngineLine h
  | commandComplete => exact .commandComplete h
  | invalidation => exact .next (.foldl (.invalidate h) (fun g _ => .store g))
  | invalidationComplete => exact .invalidationComplete h
  | gwaitReread => exact .gwaitReread h
  | parkComplete => exact .parkComplete h
  | unparkComplete => exact .unparkComplete h
  | storeErrorUncorrectable => exact .storeErrorUncorrectable h
  | softErrorCorrected | retentionEnter | retentionEntryDone => exact .next (.modCore h)
  | retentionExitDone => exact .retentionExitDone h
  | matrixOpStart => exact .matrixOpStart h
  | matrixCallComplete => exact .matrixCallComplete h
  | matrixOpComplete => exact .matrixOpComplete h
  | mloadInstall => exact .mloadInstall h
  | frontOpStart => exact .frontOpStart h
  | frontInsert => exact .frontInsert h
  | admissionTest => exact .admissionTest h
  | signalRecheck => exact .next (.foldl h (fun g _ => .examine g))
  | launchComplete => exact .launchComplete h
  | queueEntryFetch => exact .queueEntryFetch h
  | map => exact .next (.ite h (.traceFw h))
  | unmap => exact .unmap h
  | switch => exact .next (.ite h (.traceFw (.stopSlot h)))
  | allWaiting => exact .allWaiting h
  | partitionMove => exact .partitionMove h
  | pluginCall => exact .next (.ite h (.modVf h))
  | pluginTimeout => exact .next (.ite h (.traceFw (.modVf h)))
  | firmwareCoreReset => exact .next (.ite (.settleMoves (.finishStops h)) (.ite (.resetFw h) h))
  | tail | enSet | enClear => exact .next (.modQueue h)
  | phase => exact .next (.ite h (.modQueue (.ite h (.renewId (.closeInst h)))))
  | job => exact .next (.ite h (.modQueue (.renewId (.closeInst (.closeInst h)))))
  | registerWrite => exact .registerWrite h
  | hostSnoop => exact .next (.ite (.store h) h)
  | hostMemAccess => exact .next (.ite (.ite (.store h) (.upd (.hostAcquire h))) h)
  | ideIntegrityFail => exact .next (.ite h (.foldl h (fun g _ => .ite (.fatal g) g)))
  | sendFlit => exact .sendFlit h
  | collFlit => exact .next (.ite (.emitTo h) (.collDead (.collGo (.modGroup h))))
  | abortFlit => exact .abortFlit h
  | timeFlit => exact .next (.ite (.emitTo h) (.ite (.slewTo h) h))
  | creditFlit => exact .next (.ite (.emit h) h)
  | answerFlit => exact .answerFlit h
  | promoteCopyComplete => exact .promoteCopyComplete h
  | stripeUncorrectable => exact .stripeUncorrectable h
  | promoteNospace => exact .promoteNospace h
  | leaveComplete => exact .leaveComplete h
  | fenChannelDown => exact .next (.ite h (.ite (.ite h h) h))
  | skimRow => exact .skimRow h
  | skimEpochDequeue => exact .skimEpochDequeue h
  | debugSlotWrite => exact .next (.slotWrite h)
  | halt => exact .next (.haltCtx h)
  | resume | dctlStep => exact .next (.resumeCtx h)
  | snap => exact .next (.snapCtx h)
  | liveStateWrite => exact .next (.ite h (.modCtx h))
  | tenSet | pluginLoad => exact .next (.modVf h)
  | sample => exact .next (.ite h (.foldl h (fun g _ => .sampleCtx g)))
  | replayRequest => exact .replayRequest h
  | powerOn => exact .powerOn h
  | commit | ideKeySet => exact .next (.ite h h)
  | fuseError => exact .next (.cancelEvery h)
  | thermalSample => exact .thermalSample h
  | storePerformed => exact .storePerformed h
  | peerRequest => exact .peerRequest h
  | functionCreate => exact .next (.ite h (.ite (.setVf h) (.ite (.layWindow h) (.layWindow (.setVf h)))))
  | functionDestroy => exact .functionDestroy h
  | weightObjectRegister => exact .next (.ite h (.setObjs h))
  | fenRangeAssign => exact .next (.ite h (.ite (.dropTlb h) (.scrubRange h)))
  | attestationReport => exact .attestationReport h
  | firmwareUncorrectableError => exact .next (.resetFw h)

theorem runWords (h : memOk s) : outOk (State.runWords l s) := by
  induction l generalizing s with
  | nil => exact .next (.ite (.endIssue h) (.tick h))
  | cons w r ih =>
    refine .ite (.next (.tick h)) ?_
    split
    · trivial
    · next i _ =>
      have g : outOk (Sys2Proof.Machine.exec i (s.atWord w)) := .exec (.atWord h)
      split
      · next e => exact ih (g.of_next e)
      · exact g

theorem runStream (h : memOk s) : outOk (s.runStream c x m) := by
  refine .ite (.next h) ?_
  split
  · exact .next h
  · next w r _ =>
    split
    · trivial
    · next i _ =>
      refine .ite (.next (.modCtx h)) ?_
      have g : outOk (Sys2Proof.Machine.exec i (s.atHead c x m w r)) := .exec (.atHead h)
      split
      · next e => exact .next (.outcome h (.servedWord (g.of_next e)))
      · exact g

theorem runEngine (h : memOk s) : outOk (s.runEngine c) := by
  unfold State.runEngine
  extract_lets cur s1
  have h1 : memOk s1 := h
  split
  · exact .next h
  · split
    · exact .next (.withdraw h1)
    · exact .next (.ite h (.routineError h1))
    · split
      · trivial
      · next i _ =>
        refine .ite (.next h) ?_
        have g : outOk (Sys2Proof.Machine.exec i s1) := .exec h1
        split
        · next e => exact .next (.ite h (g.of_next e))
        · exact g

theorem runRow (h : memOk s) : outOk (s.runRow i a) := by
  refine .ite trivial ?_
  have g : outOk (Sys2Proof.Machine.exec i { s with ev := a }) := .exec h
  split
  · next e => exact .ite (.runWords (g.of_next e)) (.next (.ite h (g.of_next e)))
  · exact g

theorem run (h : memOk s) : outOk (s.run m) := by
  refine .ite (.next h) ?_
  cases m with
  | row i a => exact .runRow h
  | stream c x m => exact .runStream h
  | engine c => exact .runEngine h

theorem step (h : memOk s) : outOk (step s) := by
  unfold Sys2Proof.Machine.step
  split
  · exact .next h
  · exact .ite trivial (.run h)

end outOk
end
end Sys2Proof.Safety

namespace Sys2Proof.Proofs
open Sys2Proof Sys2Proof.Machine Sys2Proof.Safety

/-- Settles O59: every function that a step is built of keeps memory canonical. -/
theorem memoryStaysCanonical : Obligations.MemoryStaysCanonical := by
  unfold Obligations.MemoryStaysCanonical
  intro s t h e
  exact (outOk.step h).of_next e

end Sys2Proof.Proofs
end

section

/-! ### The start of a gstore reads its tile (O52)

A store command takes the bytes of its source as it starts, an access that its core counts among those that its banks have
served in the cycle (R160, R163). -/

namespace Sys2Proof.Machine

/-- A `gstore` of tile 0 that waits in `eq1`. -/
def startWitnessCmd : Cmd := { Cmd.zero with slot := 7, op := 0x07, aux := [0] }

/-- Its unit, whose tile 0 is PRESENT. -/
def startWitnessUnit : Ctx :=
  ({ Ctx.reset with st := .ready, eq := Vector.set Ctx.reset.eq 1 [startWitnessCmd] } : Ctx).withTiles [(0, Tile.absent.inState .present)]

/-- The state in which the command is to start. -/
def startWitness : State :=
  { State.reset.setCore 0 (Core.reset.setCtx 0 startWitnessUnit) with ev := { Args.zero with q := 1 } }

/-- How many accesses core 0 has served in the cycle after COMMAND_START. -/
def startWitnessTook : Option Nat :=
  match exec .commandStart startWitness with
  | .next u => some (u.core 0).took.length
  | _ => none

/-- The run: the read of the tile is one. -/
theorem startWitnessTook_eq : startWitnessTook = some 1 := by decide +kernel

end Sys2Proof.Machine

namespace Sys2Proof.Proofs
open Sys2Proof.Machine Sys2Proof.Safety

/-- Refutes O52, in its clause on the start of a `gstore`, which has all but the context of the queue as before: the read of the
source is an access that the core serves, and counts among those of the cycle. -/
theorem not_translationsCommandsAndCopies : ¬ Obligations.TranslationsCommandsAndCopies := by
  unfold Obligations.TranslationsCommandsAndCopies
  intro h
  obtain ⟨-, -, hstart, -⟩ := h startWitness
  obtain ⟨-, -, hstore⟩ := hstart startWitnessCmd rfl rfl rfl rfl
  obtain ⟨u, hu, honly, -⟩ := hstore 0 [] 0 rfl rfl rfl rfl (by decide +kernel) (by decide +kernel) (by decide +kernel)
  have hkept : (u.core 0).took.length = 0 := congrArg (fun t => (t.core 0).took.length) honly
  have hrun := startWitnessTook_eq
  rw [startWitnessTook, hu] at hrun
  have hserved : (u.core 0).took.length = 1 := Option.some.inj hrun
  omega

end Sys2Proof.Proofs
end

section

/-! ### A GWAIT that has waited for older commands (O46)

A word that waits for the lines of older commands is marked in its note. A GWAIT that goes on from there and reads the value it
waits for returns to the stream with that mark. -/

namespace Sys2Proof.Machine

/-- A GWAIT for a word that is still 0 is at hand, marked as one that has waited; page 0 maps to page 0. -/
def waitWitness : State :=
  { State.reset.setCore 0 { Core.reset with tlb := [⟨0, 0, 15, 0, true, false⟩] } with cur := { Cur.zero with note := some 1 } }

/-- The marks of the words that wait in the stream after the GWAIT. -/
def waitWitnessNotes : Option (List (Option Nat)) :=
  match exec (.gwait 0 0 0 0) waitWitness with
  | .next u => some ((u.me.stream (streamOf waitWitness.cur.slot)).map fun w => w.note)
  | _ => none

/-- The run: the one word that waits keeps its mark. -/
theorem waitWitnessNotes_eq : waitWitnessNotes = some [some 1] := by decide +kernel

end Sys2Proof.Machine

namespace Sys2Proof.Proofs
open Sys2Proof.Machine Sys2Proof.Safety

/-- Refutes O46, in its clause on a `gwait` whose word has not changed yet, which has the word at hand return to its stream without
a mark: a `gwait` that has waited for lines of older commands before keeps its mark. -/
theorem not_atomicsReadModifyWriteOneWord : ¬ Obligations.AtomicsReadModifyWriteOneWord := by
  unfold Obligations.AtomicsReadModifyWriteOneWord
  intro h
  obtain ⟨-, -, hwait, -⟩ := h 0 0 0 0 0 0 0 0 0 waitWitness rfl rfl rfl (fun st hst => absurd hst List.not_mem_nil)
  obtain ⟨-, hstays⟩ := hwait rfl ⟨by decide +kernel, by decide +kernel, by decide +kernel, rfl, by decide⟩ 0 (by decide +kernel)
    ⟨by decide +kernel, by decide⟩ (fun st hst => absurd hst List.not_mem_nil)
  obtain ⟨u, hu, -, hstream⟩ := hstays (by decide +kernel)
  have hrun := waitWitnessNotes_eq
  rw [waitWitnessNotes, hu] at hrun
  have hnotes := Option.some.inj hrun
  rw [hstream] at hnotes
  cases hnotes

end Sys2Proof.Proofs
end

section

/-! ### A store of HALT to the unit's own DCTL (O45)

A direct load performs the unit's own stores that meet its bytes, and a store to the debug window acts at once. A unit that loads
its own DCTL word after a store of HALT to it stops there, and the stop writes TRAPCAUSE. -/

namespace Sys2Proof.Machine

/-- The DCTL word of context 0 of core 0 in the management window of the function. -/
def haltWitnessDctl : Nat := 3 * 2 ^ 48 + 0x900000

/-- A running unit that still holds its store of HALT to its own DCTL word. -/
def haltWitnessUnit : Ctx := { Ctx.reset with st := .issuing, stores := [⟨0, 0, haltWitnessDctl, 8, 1⟩] }

/-- The state with that unit at hand; its page 0 is the page of the window that holds the word. -/
def haltWitness : State :=
  State.reset.setCore 0 { Core.reset.setCtx 0 haltWitnessUnit with tlb := [⟨0, 0, 15, haltWitnessDctl, true, false⟩] }

/-- The TRAPCAUSE of the unit after its load of the word. -/
def haltWitnessCause : Option W32 :=
  match exec (.gls 0 0 0 0 3) haltWitness with
  | .next u => some u.me.trapcause
  | _ => none

/-- The run: TRAPCAUSE names the stop. -/
theorem haltWitnessCause_ne : haltWitnessCause ≠ some 0 := by decide +kernel

end Sys2Proof.Machine

namespace Sys2Proof.Proofs
open Sys2Proof.Machine Sys2Proof.Safety

/-- Refutes O45, in its clause on a load that first performs the unit's own stores, which is about every store, also one to the
debug window. A store of HALT to the unit's own DCTL stops the unit there, and TRAPCAUSE is among the registers that the clause
has unchanged. -/
theorem not_directLoadsAndStores : ¬ Obligations.DirectLoadsAndStores := by
  unfold Obligations.DirectLoadsAndStores
  intro h
  obtain ⟨-, hload, -⟩ := h 0 0 0 0 0 3 haltWitness rfl
  obtain ⟨hok, -⟩ := hload rfl ⟨by decide +kernel, rfl, by decide +kernel, rfl, by decide⟩
  obtain ⟨-, -, hworld⟩ := hok haltWitnessDctl (by decide +kernel) rfl
  obtain ⟨u, hu, -, hregs, -⟩ := hworld [] _ rfl (.inl rfl)
  obtain ⟨-, -, -, -, -, -, -, -, -, -, -, -, hcause, -⟩ := hregs
  have hrun := haltWitnessCause_ne
  rw [haltWitnessCause, hu] at hrun
  exact hrun (congrArg some hcause)

end Sys2Proof.Proofs
end

section
/-! SUPPORT. A word that hands a command over: what holds it, what its command, its barrier and its tile leave (R192, R195, R196, R283). -/

namespace Sys2Proof.Machine

open Sys2Proof.Safety

/-! ### What the word leaves as it is -/

/-- A context of which the producer place of a ring has moved on (R173). -/
def Ctx.advanced (cx : Ctx) (n : BitVec 4) : Ctx :=
  match cx.ring n with
  | some r => { cx with h := vset (n := 2 ^ 4) cx.h n.toFin (some { r with p := (r.p + 1) % r.n }) }
  | none => cx

theorem Ctx.advanced_eq (cx : Ctx) (n : BitVec 4) : ∃ h, cx.advanced n = cx.moved cx.tiles h cx.allocWait := by
  unfold Ctx.advanced
  split
  · exact ⟨_, rfl⟩
  · exact ⟨cx.h, rfl⟩

theorem State.advanceP_eq (s : State) (o : BitVec 9) :
    s.advanceP o = if isHandle o ∧ fld o 0 4 = 0#4 then s.modMe (·.advanced (fld o 4 4)) else s := rfl

theorem State.advanceP_mine (s : State) (o : BitVec 9) : ∃ h, State.Mine s (s.advanceP o) (s.me.moved s.me.tiles h s.me.allocWait) := by
  rw [State.advanceP_eq]
  split
  · obtain ⟨h, e⟩ := s.me.advanced_eq (fld o 4 4)
    have m := s.modMe_mine (f := (·.advanced (fld o 4 4))) (by rw [e]; rfl)
    rw [e] at m
    exact ⟨h, m⟩
  · exact ⟨s.me.h, rfl, fun _ => rfl, rfl, rfl⟩

/-- A tile is made of its entry alone (R158, R166). -/
theorem State.makeTile_moved (s : State) {l : TLoc} (hl : l.inCore) (st : TileState) (n : Nat) (x : CtxId) : State.TileMoved l s (s.makeTile l st n x) := by
  unfold State.makeTile
  obtain ⟨ctx, tiles, mem, cur⟩ := s.newUid.2.setTile_moved hl { s.tile l with
    uid := s.newUid.1, st := st, count := n, scope := false, data := 0, charge := some ((s.ctx l.core x).launch, (s.ctx l.core x).unit)
    gb := s.place l.core (s.tile l).granules }
  exact ⟨ctx, tiles, mem, cur⟩

theorem State.tile_makeTile (s : State) {l : TLoc} (hl : l.inCore) (st : TileState) (n : Nat) (x : CtxId) :
    (s.makeTile l st n x).tile l = { s.tile l with
      uid := s.uidCtr, st := st, count := n, scope := false, data := 0, charge := some ((s.ctx l.core x).launch, (s.ctx l.core x).unit)
      gb := s.place l.core (s.tile l).granules } :=
  State.tile_setTile s.newUid.2 hl _

/-! ### The barrier of a command (R196, R265) -/

/-- A barrier of a core is in no context and no entry. -/
theorem State.setNb_mine (s : State) (c n : Nat) (b : Barrier) : State.Mine s (s.setNb c n b) s.me := by
  have ctx (d : Nat) (x : CtxId) : (s.setNb c n b).ctx d x = s.ctx d x := by
    unfold State.setNb
    rw [State.ctx_modCore]
    split
    · next h => rw [h]; rfl
    · rfl
  have ltiles (d : Nat) : ((s.setNb c n b).core d).ltiles = (s.core d).ltiles := by
    by_cases h : d = c
    · subst h
      unfold State.setNb
      rw [State.core_modCore]
    · exact congrArg Core.ltiles (s.core_modCore_other _ h)
  exact ⟨ctx _ _, State.tile_congr (fun d x => congrArg Ctx.tiles (ctx d x)) ltiles fun _ _ _ => rfl, rfl, rfl⟩

/-- A free barrier gets no bytes: INV is set in STICKY6 (R265). -/
theorem State.enterPb_free {s : State} (hs : s.plain) {pb : BitVec 3} (h : pb ≠ 0) (hi : s.pbInst pb = 0) (n : Nat) :
    State.Mine s (s.enterPb pb n) (s.me.sticky1 6 cINV s.cur.org) := by
  unfold State.enterPb
  rw [if_neg h, if_pos hi]
  have m := State.causeIn_mine (s := { s with cur := { s.cur with slot := 6 } }) hs cINV
  refine ⟨?_, m.tile, m.mem, rfl⟩
  have me := m.me
  rw [State.me, m.cur] at me
  exact me

/-- A barrier in use gets the bytes (R196). -/
theorem State.enterPb_held (s : State) {pb : BitVec 3} (h : pb ≠ 0) (hi : s.pbInst pb ≠ 0) (n : Nat) :
    s.enterPb pb n = s.setNb s.cur.core pb.toNat
      { s.nb s.cur.core pb.toNat with pend := (s.nb s.cur.core pb.toNat).pend + BitVec.ofNat 36 n } := by
  unfold State.enterPb State.addBytes
  rw [if_neg h, if_neg hi, if_neg h]

/-- The word at hand of s, of a unit without a log, has led to t: the registers, the queues and memory stay, and the tile entries are those of w. -/
structure State.Readied (s w t : State) : Prop where
  plain : t.plain
  regs : regsSame s.me t.me
  eq : t.me.eq = s.me.eq
  ccq : t.me.ccq = s.me.ccq
  tile : ∀ l, t.tile l = w.tile l
  mem : t.mem = s.mem
  cur : t.cur = s.cur

namespace State.Readied

variable {s w t u : State}

theorem refl (h : s.plain) : State.Readied s s s := ⟨h, regsSame_refl _, rfl, rfl, fun _ => rfl, rfl, rfl⟩

/-- A change of the unit at hand that keeps its records, its registers and its queues. -/
theorem mine {k : Ctx} (h : State.Readied s w t) (m : State.Mine t u k) (hrep : k.rep.logging = t.me.rep.logging ∧ k.rep.replaying = t.me.rep.replaying)
    (hregs : regsSame t.me k) (heq : k.eq = t.me.eq) (hccq : k.ccq = t.me.ccq) : State.Readied s w u where
  plain := by
    have := h.plain
    unfold State.plain at *
    rwa [m.me, hrep.1, hrep.2]
  regs := by
    rw [m.me]
    exact regsSame_trans h.regs hregs
  eq := by rw [m.me, heq, h.eq]
  ccq := by rw [m.me, hccq, h.ccq]
  tile l := (m.tile l).trans (h.tile l)
  mem := m.mem.trans h.mem
  cur := m.cur.trans h.cur

/-- A change of tile entries. -/
theorem moved {l : TLoc} (h : State.Readied s w t) (m : State.TileMoved l t u) : State.Readied s u u where
  plain := State.plain_of_moved h.plain m
  regs := regsSame_trans h.regs (regsSame_of_moved m.me)
  eq := (congrArg Ctx.eq m.me).trans h.eq
  ccq := (congrArg Ctx.ccq m.me).trans h.ccq
  tile _ := rfl
  mem := m.mem.trans h.mem
  cur := m.cur.trans h.cur

/-- Causes are set. -/
theorem caused {n : Nat} {z : BitVec 12} {o : Org} (h : State.Readied s w t) (m : State.Mine t u (t.me.sticky1 n z o)) : State.Readied s w u := by
  rw [Ctx.sticky1_eq] at m
  exact h.mine m ⟨rfl, rfl⟩ (regsSame_refl _) rfl rfl

theorem causeIn (h : State.Readied s w t) (z : BitVec 12) : State.Readied s w (t.causeIn z) := h.caused (State.causeIn_mine h.plain z)

/-- A producer handle moves on (R173). -/
theorem advanceP (h : State.Readied s w t) (o : BitVec 9) : State.Readied s w (t.advanceP o) := by
  obtain ⟨r, m⟩ := t.advanceP_mine o
  exact h.mine m ⟨rfl, rfl⟩ (regsSame_refl _) rfl rfl

/-- The bytes of a command are added to its barrier, or a free one has INV set in STICKY6 (R196, R265). -/
theorem enterPb (h : State.Readied s w t) (pb : BitVec 3) (n : Nat) : State.Readied s w (t.enterPb pb n) := by
  by_cases h0 : pb = 0
  · rw [State.enterPb, if_pos h0]
    exact h
  by_cases hi : t.pbInst pb = 0
  · exact h.caused (State.enterPb_free h.plain h0 hi n)
  · rw [State.enterPb_held t h0 hi]
    exact h.mine (t.setNb_mine _ _ _) ⟨rfl, rfl⟩ (regsSame_refl _) rfl rfl

/-- The stream waits on nothing more (R44). -/
theorem performed (h : State.Readied s w t) : State.Readied s w t.performed :=
  h.mine (t.modMe_mine (f := fun cx => cx.unwaited (streamOf t.cur.slot)) rfl) ⟨rfl, rfl⟩ (regsSame_refl _) rfl rfl

end State.Readied


/-! ### What holds a command, and its place in the queue (R192, R195, R283) -/

/-- No access of the unit at hand to the bytes of a range has still to take effect (R283, R337). -/
def State.clearOf (s : State) (r : Bool × Nat × Nat) : Prop :=
  s.behindOwn r.1 r.2.1 r.2.2 = false ∧ ∀ st ∈ s.me.stores, bytesMeet st.va.toNat st.n r.2.1 r.2.2 = false ∧
    ∀ z ∈ s.physOf s.me.vf r.2.1 r.2.2, bytesMeet st.pa st.n z.1 z.2 = false

theorem State.canHand_foreign {s : State} {pb : BitVec 3} (h : s.foreignPb pb = true) (q : BitVec 2) (n : Nat) (l : List (Bool × Nat × Nat)) (k : State) :
    s.canHand q pb n l k = s.fatalMe .permission := by
  rw [State.canHand, if_pos h]

theorem State.canHand_full {s : State} {q : BitVec 2} {pb : BitVec 3} (h : s.foreignPb pb = false) (hq : 32 ≤ (vget (n := 2) s.me.eq q).length) (n : Nat)
    (l : List (Bool × Nat × Nat)) (k : State) : s.canHand q pb n l k = s.waitHead .queueFull := by
  rw [State.canHand, if_neg (ne_true_of_eq_false h), if_pos hq]

/-- Nothing holds a command that has room and whose bytes no own access has still to reach. -/
theorem State.canHand_free {s : State} {q : BitVec 2} {pb : BitVec 3} {n : Nat} {l : List (Bool × Nat × Nat)} (h : s.foreignPb pb = false)
    (hq : (vget (n := 2) s.me.eq q).length < 32) (hb : s.bytesFit s.cur.core pb n = true) (hl : ∀ r ∈ l, s.clearOf r) (k : State) :
    s.canHand q pb n l k = k := by
  have behind : (l.any fun r => s.behindOwn r.1 r.2.1 r.2.2) = false := List.any_eq_false.2 fun r hr => ne_true_of_eq_false (hl r hr).1
  have meets : (s.me.stores.any fun st => l.any fun r => bytesMeet st.va.toNat st.n r.2.1 r.2.2
      || (s.physOf s.me.vf r.2.1 r.2.2).any fun p => bytesMeet st.pa st.n p.1 p.2) = false := by
    simp only [List.any_eq_false, Bool.not_eq_true, Bool.or_eq_false_iff]
    exact fun st hst r hr => (hl r hr).2 st hst
  rw [State.canHand, if_neg (ne_true_of_eq_false h), if_neg (Nat.not_le.2 hq), hb, if_neg (by simp), if_neg (ne_true_of_eq_false behind),
    if_neg (ne_true_of_eq_false meets)]

theorem Ctx.queue_pushEq (cx : Ctx) (q : BitVec 2) (m : Cmd) : vget (n := 2) (cx.pushEq q m).eq q = vget (n := 2) cx.eq q ++ [m] := by
  simp [Ctx.pushEq, vget, vset]

theorem Ctx.queue_pushEq_other (cx : Ctx) {q o : BitVec 2} (h : o ≠ q) (m : Cmd) : vget (n := 2) (cx.pushEq q m).eq o = vget (n := 2) cx.eq o := by
  have : q.toNat ≠ o.toNat := fun e => h (BitVec.eq_of_toNat_eq e.symm)
  simp [Ctx.pushEq, vget, vset, Vector.getElem_set_ne, this]

/-- The word at hand of s has led to u: a command has entered a queue, the registers, the other queues and memory stay, and the tile entries are those
of w. -/
structure State.Handed (s w u : State) (q : BitVec 2) (m : Cmd) : Prop where
  queue : vget (n := 2) u.me.eq q = vget (n := 2) s.me.eq q ++ [m]
  others : ∀ o, o ≠ q → vget (n := 2) u.me.eq o = vget (n := 2) s.me.eq o
  regs : regsSame s.me u.me
  mem : u.mem = s.mem
  tile : ∀ l, u.tile l = w.tile l

theorem State.Readied.pushEq {s w t : State} (h : State.Readied s w t) (q : BitVec 2) (m : Cmd) : State.Handed s w (t.modMe (·.pushEq q m)) q m where
  queue := by rw [State.me_modMe, Ctx.queue_pushEq, h.eq]
  others o ho := by rw [State.me_modMe, Ctx.queue_pushEq_other _ ho, h.eq]
  regs := by
    rw [State.me_modMe]
    exact h.regs
  mem := h.mem
  tile l := (t.tile_modMe rfl l).trans (h.tile l)

theorem State.Handed.performed {s w u : State} {q : BitVec 2} {m : Cmd} (h : State.Handed s w u q m) : State.Handed s w u.performed q m := by
  have me : u.performed.me = u.me.unwaited (streamOf u.cur.slot) := u.me_modMe _
  refine ⟨?_, fun o ho => ?_, ?_, h.mem, fun l => (u.tile_modMe rfl l).trans (h.tile l)⟩
  · rw [me]
    exact h.queue
  · rw [me]
    exact h.others o ho
  · rw [me]
    exact h.regs

/-- A command enters its queue with its bytes and the hold of its barrier that they count for (R192, R196). -/
theorem State.Readied.handOff {s w t : State} (h : State.Readied s w t) (q : BitVec 2) (m : Cmd) (n : Nat) :
    ∃ p, State.Handed s w (t.handOff q m n) q { m with pbInst := p, pbLeft := n } := by
  have free : t.replaying = false := h.plain.2
  have start : State.Readied s w { t with uidCtr := t.uidCtr + 1 } := ⟨h.plain, h.regs, h.eq, h.ccq, h.tile, h.mem, h.cur⟩
  have handed := ((start.enterPb m.pb n).pushEq q { m with pbInst := t.pbInst m.pb, pbLeft := n }).performed
  refine ⟨t.pbInst m.pb, ?_⟩
  unfold State.handOff
  rw [free]
  exact handed

end Sys2Proof.Machine
end

section
/-! PROOF. Descriptor commands at hand-off (O48). -/

namespace Sys2Proof.Machine

open Sys2Proof.Safety

theorem State.bytesFit_none (s : State) (c n : Nat) : s.bytesFit c 0 n = true := rfl

/-- A word of a descriptor command hands over what its descriptor says it will write (R196, R213). -/
theorem State.beyond_eq {s : State} (h : s.replaying = false) (op : BitVec 6) (q : BitVec 2) (a : BitVec 5) (p : BitVec 3) :
    let d : BitVec 512 := BitVec.ofNat 512 (s.loadVa s.me.vf (s.opS a).toNat 64)
    let n := if p = 0 then 0 else s.descTotal s.me.vf op d
    s.beyond op q a p = s.canHand q p n ((true, (s.opS a).toNat, 64) :: s.descRanges (s.cmdAt op (s.opS a) p) d)
      (s.handOff q (s.cmdAt op (s.opS a) p) n) := by
  intro d n
  unfold State.beyond
  dsimp only
  rw [h, if_neg Bool.false_ne_true]

end Sys2Proof.Machine

namespace Sys2Proof.Proofs

open Sys2Proof.Machine Sys2Proof.Safety

/-- Settles O48: the thirteen words are one hand-off, by opcode and queue. -/
theorem descriptorCommandsEnterTheirQueues : Obligations.DescriptorCommandsEnterTheirQueues := by
  unfold Obligations.DescriptorCommandsEnterTheirQueues
  intro t i a p s h d queue hands
  have plain := State.plain_of_unlogged h
  have word {j : Instr} (op : BitVec 6) (q : BitVec 2) (hj : exec j s = .next (s.beyond op q a p)) : hands j op q := by
    rw [State.beyond_eq plain.2] at hj
    refine ⟨fun hf hq hb hmeet hbehind => ?free, fun hf => ?foreign, fun hf hq => ?full⟩
    case free =>
      have fits : s.bytesFit s.cur.core p (if p = 0 then 0 else s.descTotal s.me.vf op d) = true := by
        split
        · next h0 => rw [h0, State.bytesFit_none]
        · next h0 => exact hb.resolve_left h0
      rw [State.canHand_free hf hq fits fun r hr => ⟨hbehind r hr, fun st hst => hmeet st hst r hr⟩] at hj
      obtain ⟨b, handed⟩ := (State.Readied.refl plain).handOff q (s.cmdAt op (s.opS a) p) (if p = 0 then 0 else s.descTotal s.me.vf op d)
      exact ⟨_, _, hj, handed.queue, handed.others, rfl, rfl, rfl, rfl, rfl, rfl, rfl, handed.regs, handed.mem, handed.tile⟩
    case foreign => rw [hj, State.canHand_foreign hf]
    case full => rw [hj, State.canHand_full hf hq]
  exact ⟨word 0x11 2 rfl, word 0x11 2 rfl, word 0x11 2 rfl, word 0x12 2 rfl, word 0x12 2 rfl, word 0x12 2 rfl, word 0x13 3 rfl, word 0x13 3 rfl,
    word 0x13 3 rfl, word 0x13 3 rfl, word 0x14 3 rfl, word 0x14 3 rfl, word 0x15 3 rfl⟩

end Sys2Proof.Proofs
end

section
/-! PROOF. Bindings, fences and invalidation by words (O47). -/

namespace Sys2Proof.Machine

open Sys2Proof.Safety

/-! ### The turn of a word on global memory (R195) -/

/-- The state in which the word at hand has another note. -/
def State.marked (s : State) (o : Option Nat) : State := { s with cur := { s.cur with note := o } }

/-- The state in which a word goes on that waits for no older access: its note is gone. -/
def State.ready (s : State) : State := s.marked none

theorem State.inOrder_turn {s : State} {va : W64} {n : Nat} {wr : Bool} (hb : s.lineBusy va n = false) (ho : s.behindOwn wr va.toNat n = false)
    (k : State → State) : s.inOrder va n wr k = k s.ready := by
  unfold State.inOrder
  dsimp only
  rw [hb, ho]
  rfl

theorem State.sw_waitHead (s : State) (w : Wait) : (s.waitHead w).me.sw[streamOf s.cur.slot] = w := by
  have me : (s.waitHead w).me = _ := s.me_modMe _
  rw [me]
  simp [vset]

theorem Ctx.setStream_binds (cx : Ctx) (m : Fin 3) (l : List StreamWord) : (cx.setStream m l).binds = cx.binds := by
  unfold Ctx.setStream
  split <;> rfl

theorem State.me_performed (s : State) : s.performed.me = s.me.unwaited (streamOf s.cur.slot) := s.me_modMe _

/-- A word that has to wait for an older access is back at its stream's head. -/
theorem State.inOrder_waits {s : State} {va : W64} {n : Nat} {wr : Bool} (h : ¬(s.lineBusy va n = false ∧ s.behindOwn wr va.toNat n = false))
    (k : State → State) : ∃ o, s.inOrder va n wr k = (s.marked o).waitHead .stall := by
  have held : (s.lineBusy va n || s.behindOwn wr va.toNat n) = true := by
    rw [← Bool.not_eq_false, Bool.or_eq_false_iff]
    exact h
  unfold State.inOrder
  dsimp only
  rw [held]
  exact ⟨_, rfl⟩

/-! ### Bindings (R211) -/

theorem bytesMeet_iff (a n b k : Nat) : bytesMeet a n b k = true ↔ n ≠ 0 ∧ k ≠ 0 ∧ a < b + k ∧ b < a + n := by
  simp [bytesMeet, and_assoc]

/-- What a `gbind` does in its turn. -/
def State.bind (g : Binding) (s : State) : State :=
  if g.len = 0 then s.performed
  else if 16 ≤ s.me.binds.length
      || s.me.binds.any (fun o => o.flag != g.flag && bytesMeet o.base.toNat o.len.toNat g.base.toNat g.len.toNat) then s.fatalMe .unbound
  else (s.modMe fun cx => { cx with binds := cx.binds ++ [g] }).performed

theorem exec_gbind (t : BitVec 3) (i : BitVec 2) (r l f : BitVec 5) (s : State) :
    let g : Binding := ⟨s.opS r, s.opS l, s.opS f⟩
    exec (.gbind t i r l f) s = .next (if g.flag.toNat % 8 ≠ 0 ∨ g.base.toNat % 64 ≠ 0 ∨ g.len.toNat % 64 ≠ 0 then s.fatalMe .misalign
      else s.inOrder g.flag 8 false (State.bind g)) := rfl

/-- What a `gunbind` does in its turn with the binding it finds. -/
def State.unbind (found : Binding → Bool) (s : State) : State :=
  match s.me.binds.find? found with
  | none => s.fatalMe .unbound
  | some b => ((s.keepSeen b.flag).modMe fun cx => { cx with binds := cx.binds.erase b }).performed

theorem exec_gunbind (t : BitVec 3) (i : BitVec 2) (r f : BitVec 5) (s : State) :
    exec (.gunbind t i r f) s = .next (if (s.opS f).toNat % 8 ≠ 0 then s.fatalMe .misalign
      else s.inOrder (s.opS f) 8 false (State.unbind fun b => b.base = s.opS r && b.flag = s.opS f)) := rfl

/-- A change of the bindings alone, by a word that is then performed. -/
theorem State.binds_performed (s : State) (f : List Binding → List Binding) :
    let u := (s.modMe fun cx => { cx with binds := f cx.binds }).performed
    u.me.binds = f s.me.binds ∧ regsSame s.me u.me ∧ u.mem = s.mem := by
  intro u
  have me : u.me = ({ s.me with binds := f s.me.binds } : Ctx).unwaited (streamOf s.cur.slot) := by
    rw [← s.me_modMe fun cx => { cx with binds := f cx.binds }]
    exact State.me_performed _
  rw [me]
  exact ⟨rfl, regsSame_refl s.me, rfl⟩

/-! ### Fences (R212) -/

/-- A fence that waits for the commands `older` enters queue q of the unit at hand of s. -/
def State.pushFence (s : State) (older : List Nat) (t : State) (q : BitVec 2) : State :=
  t.newUid.2.modMe fun cx => cx.pushEq q { s.newCmd 0x10 with num := t.newUid.1, aux := older }

/-- Fences have entered each queue of a list. -/
structure State.Fenced (older : List Nat) (l : List (BitVec 2)) (t u : State) : Prop where
  regs : regsSame t.me u.me
  mem : u.mem = t.mem
  named : ∀ q ∈ l, ∃ c : Cmd, vget (n := 2) u.me.eq q = vget (n := 2) t.me.eq q ++ [c] ∧ c.op = 0x10#6 ∧ c.state = 0 ∧ c.aux = older
  others : ∀ q, q ∉ l → vget (n := 2) u.me.eq q = vget (n := 2) t.me.eq q

theorem State.pushFence_fenced (s : State) (older : List Nat) (t : State) (q : BitVec 2) : State.Fenced older [q] t (s.pushFence older t q) := by
  have me : (s.pushFence older t q).me = t.me.pushEq q _ := State.me_modMe t.newUid.2 _
  refine ⟨?_, rfl, fun o ho => ?_, fun o ho => ?_⟩
  · rw [me]
    exact regsSame_refl t.me
  · obtain rfl := List.mem_singleton.1 ho
    exact ⟨{ s.newCmd 0x10 with num := t.newUid.1, aux := older }, by rw [me, Ctx.queue_pushEq], rfl, rfl, rfl⟩
  · rw [me, Ctx.queue_pushEq_other _ (fun e => ho (List.mem_singleton.2 e))]

/-- Fences enter one queue after the other. -/
theorem State.Fenced.cons {older : List Nat} {q : BitVec 2} {l : List (BitVec 2)} {t u v : State} (hq : q ∉ l) (h : State.Fenced older [q] t u)
    (g : State.Fenced older l u v) : State.Fenced older (q :: l) t v := by
  refine ⟨regsSame_trans h.regs g.regs, g.mem.trans h.mem, fun o ho => ?_, fun o ho => ?_⟩
  · rcases List.mem_cons.1 ho with rfl | ho
    · rw [g.others o hq]
      exact h.named o (List.mem_singleton.2 rfl)
    · have ne : o ≠ q := fun e => hq (e ▸ ho)
      rw [← h.others o (fun e => ne (List.mem_singleton.1 e))]
      exact g.named o ho
  · obtain ⟨hne, hl⟩ := not_or.1 (fun e => ho (List.mem_cons.2 e))
    rw [g.others o hl, h.others o (fun e => hne (List.mem_singleton.1 e))]

theorem State.Fenced.performed {older : List Nat} {l : List (BitVec 2)} {t u : State} (h : State.Fenced older l t u) :
    State.Fenced older l t u.performed := by
  obtain ⟨regs, mem, named, others⟩ := h
  refine ⟨?_, mem, ?_, ?_⟩
  all_goals rw [u.me_performed]
  · exact regs
  · exact named
  · exact others

theorem State.foldl_pushFence (s : State) (older : List Nat) {l : List (BitVec 2)} (hl : l.Nodup) (t : State) :
    State.Fenced older l t (l.foldl (s.pushFence older) t) := by
  induction l generalizing t with
  | nil => exact ⟨regsSame_refl _, rfl, fun _ h => absurd h List.not_mem_nil, fun _ _ => rfl⟩
  | cons q r ih =>
    obtain ⟨hq, hr⟩ := List.nodup_cons.1 hl
    exact (s.pushFence_fenced older t q).cons hq (ih hr _)

/-- The queues that a mask names. -/
def namedQueues (k : BitVec 4) : List (BitVec 2) := ((List.range 4).filter fun n => k.getLsbD n).map (BitVec.ofNat 2)

theorem nodup_namedQueues : ∀ k, (namedQueues k).Nodup := by decide

theorem mem_namedQueues : ∀ k q, q ∈ namedQueues k ↔ k.getLsbD q.toNat = true := by decide

/-! ### Invalidation (R200, R214) -/

theorem State.dropTlb_core (s : State) (f : Tlb → Bool) (c : Nat) : (s.dropTlb f).core c = { s.core c with tlb := (s.core c).tlb.filter fun t => !(f t) } :=
  alGet_map Core.reset (fun k => { k with tlb := k.tlb.filter fun t => !(f t) }) rfl c s.cores

theorem State.dropTlb_ctlb (s : State) (f : Tlb → Bool) (c : Nat) : alGet [] c (s.dropTlb f).ctlb = (alGet [] c s.ctlb).filter fun t => !(f t) :=
  alGet_map [] (fun l => l.filter fun t => !(f t)) rfl c s.ctlb

theorem State.core_modMe_tlb (s : State) (f : Ctx → Ctx) (c : Nat) : ((s.modMe f).core c).tlb = (s.core c).tlb := by
  by_cases h : c = s.cur.core
  · subst h
    show ((s.modCore s.cur.core _).core s.cur.core).tlb = _
    rw [State.core_modCore]
    rfl
  · exact congrArg Core.tlb (s.core_modCore_other _ h)

/-- An invalidation that a word asks for and waits for. -/
theorem State.invalidate_waits (s : State) (vf : Option Nat) (covers : Tlb → Bool) (w : Option (Nat × CtxId × Nat)) :
    let u := (s.invalidate vf covers w []).waitHead .stall
    ∃ v : Inval, u.invs = s.invs ++ [v] ∧ v.waiter = w ∧ u.me.sw[streamOf s.cur.slot] = .stall ∧ u.mem = s.mem ∧
      (∀ c, (u.core c).tlb = (s.core c).tlb.filter fun e => !(covers e)) ∧
      ∀ c, alGet [] c u.ctlb = (alGet [] c s.ctlb).filter fun e => !(covers e) := by
  intro u
  refine ⟨_, rfl, rfl, (s.invalidate vf covers w []).sw_waitHead .stall, rfl, fun c => ?_, s.dropTlb_ctlb covers⟩
  have waits : (u.core c).tlb = ((s.invalidate vf covers w []).core c).tlb := State.core_modMe_tlb _ _ c
  have drop : (s.invalidate vf covers w []).core c = (s.dropTlb covers).core c := rfl
  rw [waits, drop, State.dropTlb_core]

/-- The buffer entries that a `gtlbi` of mode m covers, by its two operands (R214). -/
def tlbiCovers (m : BitVec 2) (vf lo pages : Nat) (e : Tlb) : Bool :=
  match m.toNat with
  | 0 => e.vf = vf && e.va < lo + pages * 32768 && lo < e.va + 2 ^ e.bits
  | 1 => e.vf = lo % 256
  | _ => true

/-- A privileged `gtlbi` that has not asked yet, asks. -/
theorem exec_gtlbi_asks (t : BitVec 3) (i : BitVec 2) (a b : BitVec 5) (m : BitVec 2) {s : State} (hlive : s.replaying = false) (hpriv : s.me.priv = true)
    (hnew : (s.invs.any fun v => v.waiter = some (s.cur.core, s.cur.x, s.cur.tok)) = false) (hnote : s.cur.note = none) (hbusy : s.lineBusy 0 0 = false) :
    ∃ vf, exec (.gtlbi t i a b m) s =
      .next (((s.marked (some 1)).invalidate vf (tlbiCovers m s.me.vf (s.opS a).toNat (s.opS b).toNat) (some (s.cur.core, s.cur.x, s.cur.tok)) []).waitHead
        .stall) := by
  show ∃ vf, execGtlbi t i a b m s = _
  unfold execGtlbi
  dsimp only
  rw [hpriv, hlive, hnew, hnote, hbusy]
  unfold tlbiCovers
  generalize m.toNat = n
  match n with
  | 0 => exact ⟨_, rfl⟩
  | 1 => exact ⟨_, rfl⟩
  | n + 2 => exact ⟨_, rfl⟩

theorem exec_gtlbi_done (t : BitVec 3) (i : BitVec 2) (a b : BitVec 5) (m : BitVec 2) {s : State} (hlive : s.replaying = false) (hpriv : s.me.priv = true)
    (hnew : (s.invs.any fun v => v.waiter = some (s.cur.core, s.cur.x, s.cur.tok)) = false) (hnote : s.cur.note.isSome = true) :
    exec (.gtlbi t i a b m) s = .next s.performed := by
  show execGtlbi t i a b m s = _
  unfold execGtlbi
  dsimp only
  rw [hpriv, hlive, hnew, hnote]
  rfl

end Sys2Proof.Machine

namespace Sys2Proof.Proofs

open Sys2Proof.Machine Sys2Proof.Safety

/-- Settles O47: bindings by the turn of the flag word, fences one after the other, and an invalidation by what it leaves of the buffers. -/
theorem bindingsFencesAndInvalidations : Obligations.BindingsFencesAndInvalidations := by
  unfold Obligations.BindingsFencesAndInvalidations
  intro t i r l f a b m k s hlive g aligned meets fits named queue turn ready lo covers
  have overlaps (hg : g.len ≠ 0) : (s.me.binds.any fun o => o.flag != g.flag && bytesMeet o.base.toNat o.len.toNat g.base.toNat g.len.toNat) = true ↔
      ∃ o ∈ s.me.binds, meets o := by
    have hn : g.len.toNat ≠ 0 := fun e => hg (BitVec.eq_of_toNat_eq e)
    have zero (v : W64) : v.toNat ≠ 0 ↔ v ≠ 0 := not_congr ⟨fun e => BitVec.eq_of_toNat_eq e, fun e => by rw [e]; rfl⟩
    simp only [List.any_eq_true, Bool.and_eq_true, bne_iff_ne, bytesMeet_iff, zero, meets, ne_eq, hg, not_false_eq_true, true_and]
  have unfit (hg : g.len ≠ 0) : (16 ≤ s.me.binds.length
      || s.me.binds.any fun o => o.flag != g.flag && bytesMeet o.base.toNat o.len.toNat g.base.toNat g.len.toNat) = true ↔ ¬fits := by
    rw [Bool.or_eq_true, overlaps hg, decide_eq_true_eq]
    simp only [fits, not_and_or, Nat.not_lt, not_forall, not_not, exists_prop]
  have turned (hturn : turn) (k : State → State) : s.inOrder g.flag 8 false k = k s.ready := State.inOrder_turn hturn.1 hturn.2 k
  have unasked (hnew : ∀ v ∈ s.invs, v.waiter ≠ some (s.cur.core, s.cur.x, s.cur.tok)) :
      (s.invs.any fun v => v.waiter = some (s.cur.core, s.cur.x, s.cur.tok)) = false := by
    simp only [List.any_eq_false, decide_eq_true_eq]
    exact hnew
  refine ⟨?bind, ?unfit, ?misaligned, ?unbind, ?unbound, ?held, ?fence, ?tlbi, ?done, ?perm⟩
  case bind =>
    intro ⟨hf, hb, hl⟩ hturn hlen hfits
    obtain ⟨binds, regs, mem⟩ := s.ready.binds_performed (· ++ [g])
    refine ⟨_, ?_, binds, regs, mem⟩
    rw [exec_gbind, if_neg (by simp only [not_or, not_not]; exact ⟨hf, hb, hl⟩), turned hturn]
    exact congrArg Host.Outcome.next ((if_neg hlen).trans (if_neg fun h => (unfit hlen).1 h hfits))
  case unfit =>
    intro ⟨hf, hb, hl⟩ hturn hlen hfits
    rw [exec_gbind, if_neg (by simp only [not_or, not_not]; exact ⟨hf, hb, hl⟩), turned hturn]
    exact congrArg Host.Outcome.next ((if_neg hlen).trans (if_pos ((unfit hlen).2 hfits)))
  case misaligned =>
    intro h
    rw [exec_gbind, if_pos (by simpa only [aligned, not_and_or] using h)]
  case unbind =>
    intro hf hturn ⟨o, ho, hbase, hflag⟩
    cases hfound : s.me.binds.find? fun b => b.base = s.opS r && b.flag = s.opS f with
    | none =>
      have := List.find?_eq_none.1 hfound o ho
      simp only [Bool.and_eq_true, decide_eq_true_eq] at this
      exact absurd ⟨hbase, hflag⟩ this
    | some b =>
      have is := List.find?_some hfound
      simp only [Bool.and_eq_true, decide_eq_true_eq] at is
      obtain ⟨binds, regs, mem⟩ := (s.ready.keepSeen b.flag).binds_performed (·.erase b)
      refine ⟨_, b, ?_, List.mem_of_find?_eq_some hfound, is.1, is.2, binds, regs, mem⟩
      rw [exec_gunbind, if_neg (not_not.2 hf), turned hturn, State.unbind]
      show Host.Outcome.next (match s.me.binds.find? _ with | none => _ | some b => _) = _
      rw [hfound]
  case unbound =>
    intro hf hturn hnone
    have none : s.me.binds.find? (fun b => b.base = s.opS r && b.flag = s.opS f) = none := by
      refine List.find?_eq_none.2 fun o ho => ?_
      simp only [Bool.and_eq_true, decide_eq_true_eq]
      exact hnone o ho
    rw [exec_gunbind, if_neg (not_not.2 hf), turned hturn, State.unbind]
    show Host.Outcome.next (match s.me.binds.find? _ with | .none => _ | some b => _) = _
    rw [none]
    rfl
  case held =>
    intro hf hturn
    obtain ⟨o, waits⟩ := State.inOrder_waits hturn (State.unbind fun b => b.base = s.opS r && b.flag = s.opS f)
    refine ⟨(s.marked o).waitHead .stall, ?_, ?_, (s.marked o).sw_waitHead .stall, rfl⟩
    · rw [exec_gunbind, if_neg (not_not.2 hf), waits]
    · exact (congrArg Ctx.binds ((s.marked o).me_modMe _)).trans (s.me.setStream_binds _ _)
  case fence =>
    intro hroom
    have full : ((namedQueues k).any fun q => 32 ≤ (vget (n := 2) s.me.eq q).length) = false := by
      simp only [List.any_eq_false, decide_eq_true_eq, Nat.not_le]
      exact hroom
    obtain ⟨regs, mem, pushed, others⟩ := (s.foldl_pushFence ((named.flatMap fun p => queue s p).map (·.num)) (nodup_namedQueues k) s).performed
    refine ⟨_, (congrArg Host.Outcome.next (if_neg (ne_true_of_eq_false full)) :), regs, mem, fun q => ?_⟩
    split
    · next hq => exact pushed q ((mem_namedQueues k q).2 hq)
    · next hq => exact others q fun h => hq ((mem_namedQueues k q).1 h)
  case tlbi =>
    intro hpriv hnew hnote hbusy
    obtain ⟨vf, asks⟩ := exec_gtlbi_asks t i a b m hlive hpriv (unasked hnew) hnote hbusy
    obtain ⟨v, left⟩ := (s.marked (some 1)).invalidate_waits vf (tlbiCovers m s.me.vf lo (s.opS b).toNat) (some (s.cur.core, s.cur.x, s.cur.tok))
    exact ⟨_, v, asks, left⟩
  case done =>
    intro hpriv hnew hnote
    exact exec_gtlbi_done t i a b m hlive hpriv (unasked hnew) (Option.isSome_iff_ne_none.2 hnote)
  case perm =>
    intro hpriv
    show execGtlbi t i a b m s = _
    unfold execGtlbi
    dsimp only
    rw [hpriv]
    rfl

end Sys2Proof.Proofs
end

section
/-! PROOF. Commands on tiles at hand-off (O49). -/

namespace Sys2Proof.Machine

open Sys2Proof.Safety

/-! ### Fetches (R203, R204) -/

theorem declared_fst (v : W64) : (declared v).1 = min v.toNat 65535 := by
  unfold declared
  split <;> dsimp only <;> omega

theorem declared_pos {v : W64} (h : v ≠ 0) : (declared v).1 ≠ 0 := by
  have : v.toNat ≠ 0 := fun e => h (BitVec.eq_of_toNat_eq e)
  rw [declared_fst]
  omega

section
variable {s : State} {o : BitVec 9} {n : BitVec 3} {cnt : W64} {pb : BitVec 3} {k : Nat}

theorem State.gfetch_misaligned (ha : (vget (n := 3) s.cur.ops.ag n).toNat % 64 ≠ 0) : s.gfetch o n cnt pb = s.fatalMe .misalign := by
  unfold State.gfetch
  exact if_pos ha

variable (ha : (vget (n := 3) s.cur.ops.ag n).toNat % 64 = 0) (hf : s.foreignPb pb = false) (hk : s.me.name true o = some k)
  (hd : (s.tile (.unit s.cur.core s.cur.x k)).st = .absent)
include ha hf hk hd

/-- A fetch of count 0 does nothing (R203). -/
theorem State.gfetch_zero (hc : cnt = 0) : s.gfetch o n cnt pb = s.performed := by
  unfold State.gfetch
  dsimp only
  rw [if_neg (not_not.2 ha), if_neg (ne_true_of_eq_false hf), hk]
  dsimp only
  rw [if_neg (not_not.2 hd), hc]
  rfl

/-- A fetch of elements hands over one command for the bytes of its tile. -/
theorem State.gfetch_plain (hc : cnt ≠ 0) (hlay : (s.tile (.unit s.cur.core s.cur.x k)).layout = false)
    (ho : s.allocOk s.cur.core (some s.cur.x) (s.tile (.unit s.cur.core s.cur.x k)).granules = true) :
    let l : TLoc := .unit s.cur.core s.cur.x k
    let a := vget (n := 3) s.cur.ops.ag n
    let w := s.makeTile l .filling (declared cnt).1 s.cur.x
    s.gfetch o n cnt pb = s.canHand 0 pb (s.tile l).size [(false, a.toNat, (s.tile l).size)] (((w.advanceP o).causeIn (declared cnt).2).handOff 0
      { s.cmdAt 0x04 a pb with len := (s.tile l).size, total := (s.tile l).size / 64, num := w.uidCtr, dst := some (w.tile l).uid } (s.tile l).size) := by
  intro l a w
  unfold State.gfetch
  dsimp only
  rw [if_neg (not_not.2 ha), if_neg (ne_true_of_eq_false hf), hk]
  dsimp only
  rw [if_neg (not_not.2 hd), if_neg (declared_pos hc), hlay, if_neg (by simp), if_pos (by rfl), ho]
  rfl

/-- A converting fetch hands over one command for the tile and its scale tile. -/
theorem State.gfetch_convert {ke np rows : Nat} (hc : cnt ≠ 0) (hs : (s.tile (.unit s.cur.core s.cur.x (k + 1))).st = .absent)
    (hlay : (s.tile (.unit s.cur.core s.cur.x k)).layout = true)
    (hp : convertPlan (s.tile (.unit s.cur.core s.cur.x k)) (s.tile (.unit s.cur.core s.cur.x (k + 1))) k s.cur.ops.ft = some (ke, np, rows))
    (ho : s.allocOk s.cur.core (some s.cur.x)
      ((s.tile (.unit s.cur.core s.cur.x k)).granules + (s.tile (.unit s.cur.core s.cur.x (k + 1))).granules) = true) :
    let l : TLoc := .unit s.cur.core s.cur.x k
    let l2 : TLoc := .unit s.cur.core s.cur.x (k + 1)
    let a := vget (n := 3) s.cur.ops.ag n
    let len := ceilDiv ((s.tile l).rows * ke * tyBits (s.tile l2).fmt.toNat) 8
    let bytes := (s.tile l).size + if fmtApf (s.tile l).fmt.toNat then 128 * rows else 0
    let w := (s.makeTile l .filling (declared cnt).1 s.cur.x).makeTile l2 .filling (declared cnt).1 s.cur.x
    s.gfetch o n cnt pb = s.canHand 0 pb bytes [(false, a.toNat, len)] (((w.advanceP o).causeIn (declared cnt).2).handOff 0
      { s.cmdAt 0x04 a pb with
        num := w.uidCtr, len := len, total := ceilDiv len 64, aux := [((s.tile l).word false).toNat, ((s.tile l2).word false).toNat]
        ctl := fld s.cur.ops.ft 20 6 |>.setWidth 64, dst := some (w.tile l).uid, dst2 := some (w.tile l2).uid } bytes) := by
  intro l l2 a len bytes w
  unfold State.gfetch
  dsimp only
  rw [if_neg (not_not.2 ha), if_neg (ne_true_of_eq_false hf), hk]
  dsimp only
  rw [if_neg (not_not.2 hd), if_neg (declared_pos hc), if_neg (fun h => h.2.2 hs), hlay, if_neg (by simp), hp]
  dsimp only
  rw [ho]
  rfl

/-- A converting fetch that fits no scale tile does nothing but set INV (R204). -/
theorem State.gfetch_refused (hc : cnt ≠ 0) (hs : (s.tile (.unit s.cur.core s.cur.x (k + 1))).st = .absent)
    (hlay : (s.tile (.unit s.cur.core s.cur.x k)).layout = true)
    (hp : convertPlan (s.tile (.unit s.cur.core s.cur.x k)) (s.tile (.unit s.cur.core s.cur.x (k + 1))) k s.cur.ops.ft = none) :
    s.gfetch o n cnt pb = (s.causeIn cINV).performed := by
  unfold State.gfetch
  dsimp only
  rw [if_neg (not_not.2 ha), if_neg (ne_true_of_eq_false hf), hk]
  dsimp only
  rw [if_neg (not_not.2 hd), if_neg (declared_pos hc), if_neg (fun h => h.2.2 hs), hlay, if_neg (by simp), hp]

end

/-! ### Gathers and scatters (R205) -/

theorem fld_eq_zero {n : Nat} (w : W64) (lo : Nat) : fld w lo n = 0#n ↔ w.toNat / 2 ^ lo % 2 ^ n = 0 := by
  rw [← fld_toNat, ← BitVec.toNat_inj]
  rfl

theorem gatherOk_iff (w : W64) (rows : Nat) (scatter : Bool) : gatherOk w rows scatter = true ↔
    w.toNat / 2 ^ 33 = 0 ∧ w.toNat / 2 ^ 16 % 4 ≠ 3 ∧ rows % (w.toNat / 2 ^ 24 % 64 + 1) = 0 ∧ (scatter = true → w.toNat % 2 ^ 16 = 0) := by
  have top : fld w 33 31 = 0#31 ↔ w.toNat / 2 ^ 33 = 0 := by
    rw [fld_eq_zero, Nat.mod_eq_of_lt (by have := w.isLt; omega)]
  have ty : fld w 16 2 ≠ 3#2 ↔ w.toNat / 2 ^ 16 % 4 ≠ 3 := by
    rw [ne_eq, ← BitVec.toNat_inj, fld_toNat]
    rfl
  have count : fld w 0 16 = 0#16 ↔ w.toNat % 2 ^ 16 = 0 := by
    rw [fld_eq_zero, Nat.pow_zero, Nat.div_one]
  unfold gatherOk
  rw [Bool.and_eq_true, Bool.and_eq_true, Bool.and_eq_true, decide_eq_true_eq, top, bne_iff_ne, ty, decide_eq_true_eq, fld_toNat, and_assoc, and_assoc]
  cases scatter <;> simp [count]

theorem indexAligned_iff (w a : W64) : indexAligned w a = true ↔ w.toNat / 2 ^ 16 % 4 = 3 ∨ a.toNat % (2 * 2 ^ (w.toNat / 2 ^ 16 % 4)) = 0 := by
  unfold indexAligned
  rw [Bool.or_eq_true, decide_eq_true_eq, decide_eq_true_eq, ← BitVec.toNat_inj, fld_toNat]
  rfl

section
variable {s : State} {o : BitVec 9} {n : BitVec 3} {j : BitVec 5} {k : Nat} (t : BitVec 3) (i : BitVec 2)

theorem exec_ggather_misaligned (ha : indexAligned (s.opS (j + 1)) (s.opS j) = false) : exec (.ggather t i o n j) s = .next (s.fatalMe .misalign) := by
  show execGgather t i o n j s = _
  unfold execGgather
  dsimp only
  rw [ha]
  rfl

theorem exec_gscatter_misaligned (r : BitVec 2) (ha : indexAligned (s.opS (j + 1)) (s.opS j) = false) :
    exec (.gscatter t i o n j r) s = .next (s.fatalMe .misalign) := by
  show execGscatter t i o n j r s = _
  unfold execGscatter
  dsimp only
  rw [ha]
  rfl

variable (ha : indexAligned (s.opS (j + 1)) (s.opS j) = true) (hf : s.foreignPb (fld (s.opS (j + 1)) 30 3) = false)
include ha hf

/-- A gather in its entry: its control word and its count are judged before it takes a place in its queue. -/
theorem exec_ggather (hk : s.me.name true o = some k) (hd : (s.tile (.unit s.cur.core s.cur.x k)).st = .absent) :
    let l : TLoc := .unit s.cur.core s.cur.x k
    let w := s.opS (j + 1)
    let pb : BitVec 3 := fld w 30 3
    let u := s.makeTile l .filling (fld w 0 16).toNat s.cur.x
    exec (.ggather t i o n j) s = .next (if !(gatherOk w (s.tile l).rows false) then (s.causeIn cINV).performed
      else if (fld w 0 16).toNat = 0 then s.performed
      else s.canHand 0 pb (s.tile l).size [(false, 0, 2 ^ 64)] (
        if !(s.allocOk s.cur.core (some s.cur.x) (s.tile l).granules) then s.waitAlloc (s.tile l).granules
        else (u.advanceP o).handOff 0 { s.cmdAt 0x05 (vget (n := 3) s.cur.ops.ag n) pb with
          a2 := s.opS j, ctl := w, len := (s.tile l).rowBytes, total := (s.tile l).rows, num := u.uidCtr, dst := some (u.tile l).uid } (s.tile l).size)) := by
  intro l w pb u
  have named : s.producer o = some l := by
    unfold State.producer
    rw [hk]
    rfl
  show execGgather t i o n j s = _
  unfold execGgather
  dsimp only
  rw [ha, if_neg (by simp), if_neg (ne_true_of_eq_false hf), named]
  dsimp only
  rw [if_neg (not_not.2 hd)]

/-- A scatter of an entry that is there: its control word is judged before it takes a place in its queue. -/
theorem exec_gscatter (r : BitVec 2) (hk : s.me.name false o = some k) (hd : (s.tile (s.resolve s.cur.core s.cur.x k)).st ≠ .absent) :
    let src := s.tile (s.resolve s.cur.core s.cur.x k)
    let w := s.opS (j + 1)
    let pb : BitVec 3 := fld w 30 3
    exec (.gscatter t i o n j r) s = .next (if !(gatherOk w src.rows true) then (s.causeIn cINV).performed
      else s.canHand 1 pb src.size [(true, 0, 2 ^ 64)] (s.handOff 1 { s.cmdAt 0x06 (vget (n := 3) s.cur.ops.ag n) pb with
        a2 := s.opS j, ctl := w, len := src.rowBytes, total := src.rows, aux := [k], consume := r = 0 } src.size)) := by
  intro src w pb
  have named : s.sourceOf o = ([k], src) := by
    unfold State.sourceOf
    rw [hk]
  have live : (src.st != .absent) = true := bne_iff_ne.2 hd
  show execGscatter t i o n j r s = _
  unfold execGscatter
  dsimp only
  rw [ha, if_neg (by simp), if_neg (ne_true_of_eq_false hf), named]
  dsimp only
  rw [live, if_neg (by simp), if_neg (List.cons_ne_nil _ _), if_pos rfl]

end

/-! ### Stores, copies and prefetches (R206, R207) -/

theorem exec_gstore {s : State} {o : BitVec 9} {n : BitVec 3} {pb : BitVec 3} {k : Nat} (t : BitVec 3) (i r : BitVec 2)
    (ha : (vget (n := 3) s.cur.ops.ag n).toNat % 64 = 0) (hf : s.foreignPb pb = false) (hk : s.me.name false o = some k)
    (hd : (s.tile (s.resolve s.cur.core s.cur.x k)).st ≠ .absent) :
    let a := vget (n := 3) s.cur.ops.ag n
    let src := s.tile (s.resolve s.cur.core s.cur.x k)
    exec (.gstore t i o n r pb) s = .next (s.canHand 1 pb src.size [(true, a.toNat, src.size)]
      (s.handOff 1 { s.cmdAt 0x07 a pb with len := src.size, total := src.size / 64, aux := [k], consume := r = 0 } src.size)) := by
  intro a src
  have named : s.sourceOf o = ([k], src) := by
    unfold State.sourceOf
    rw [hk]
  have live : (src.st != .absent) = true := bne_iff_ne.2 hd
  show execGstore t i o n r pb s = _
  unfold execGstore
  dsimp only
  rw [if_neg (not_not.2 ha), if_neg (ne_true_of_eq_false hf), named]
  dsimp only
  rw [live, if_neg (by simp), if_pos rfl]

theorem exec_gcopy {s : State} {d n : BitVec 3} {l : BitVec 5} {pb : BitVec 3} (t : BitVec 3) (i : BitVec 2)
    (hd : (vget (n := 3) s.cur.ops.ag d).toNat % 64 = 0) (hn : (vget (n := 3) s.cur.ops.ag n).toNat % 64 = 0) (hl : (s.opS l).toNat % 64 = 0)
    (h0 : 0 < (s.opS l).toNat) :
    let dst := vget (n := 3) s.cur.ops.ag d
    let src := vget (n := 3) s.cur.ops.ag n
    let len := (s.opS l).toNat
    exec (.gcopy t i d n l pb) s = .next (if 2 ^ 32 < len || bytesMeet dst.toNat len src.toNat len then (s.causeIn cINV).performed
      else s.canHand 1 pb len [(false, src.toNat, len), (true, dst.toNat, len)]
        (s.handOff 1 { s.cmdAt 0x08 src pb with a2 := dst, len := len, total := len / 64 } len)) := by
  intro dst src len
  show execGcopy t i d n l pb s = _
  unfold execGcopy
  dsimp only
  rw [if_neg (by simp only [not_or, not_not]; exact ⟨hd, hn, hl⟩), if_neg (Nat.pos_iff_ne_zero.1 h0)]

/-- A refused command sets INV in the record of its slot and does nothing else. -/
theorem State.refuses {s : State} (hs : s.plain) : causesSet s (s.causeIn cINV).performed cINV ∧ State.Readied s s (s.causeIn cINV).performed :=
  ⟨((State.Acted.refl hs).causeIn cINV).performed.causes, ((State.Readied.refl hs).causeIn cINV).performed⟩

end Sys2Proof.Machine

namespace Sys2Proof.Proofs

open Sys2Proof.Machine Sys2Proof.Safety

/-- Settles O49: each word is its equation where nothing holds it, and what it leaves is that of the tile that it makes and of its hand-off. -/
theorem tileCommandsEnterTheirQueues : Obligations.TileCommandsEnterTheirQueues := by
  unfold Obligations.TileCommandsEnterTheirQueues
  intro t i x n g p c j l e r k m s hun hk hm a b w len dst scl src queue room clear rest idle refused control listAt enters filling fetches
  have plain := State.plain_of_unlogged hun
  have hdst : dst.inCore := trivial
  have hscl : scl.inCore := trivial
  have idles {u : State} (h : State.Readied s s u) : idle u := ⟨⟨h.regs, h.mem⟩, h.tile, fun q => congrArg (fun v => vget (n := 2) v q) h.eq⟩
  have refuses {o : Out} (h : o = .next (s.causeIn cINV).performed) : refused o := ⟨_, h, (State.refuses plain).1, idles (State.refuses plain).2⟩
  have filled {u : State} {q : TLoc} (hq : q.inCore) {v : State} {count : Nat} (hv : v.tile q = s.tile q)
      (hu : u.tile q = (v.makeTile q .filling count s.cur.x).tile q) : filling u q count := by
    rw [State.tile_makeTile v hq, hv] at hu
    simp only [filling, hu]
    exact ⟨trivial, trivial, trivial, rfl⟩
  have apart {u : State} {count : Nat} (hu : ∀ q, u.tile q = (s.makeTile dst .filling count s.cur.x).tile q) : tilesBut dst s u := fun q hq =>
    (hu q).trans ((s.makeTile_moved hdst .filling count s.cur.x).tiles q hq)
  have judged (rows : Nat) (sc : Bool) : gatherOk w rows sc = true ↔ control rows sc := gatherOk_iff w rows sc
  have unfit {rows : Nat} {sc : Bool} (h : ¬control rows sc) : (!gatherOk w rows sc) = true := by
    rw [Bool.not_eq_true', Bool.eq_false_iff]
    exact fun ok => h ((judged rows sc).1 ok)
  have listed : indexAligned w (s.opS j) = true ↔ listAt (s.opS j) := indexAligned_iff w (s.opS j)
  have low (v : W64) : (fld v 0 16).toNat = v.toNat % 2 ^ 16 := by rw [fld_toNat, Nat.pow_zero, Nat.div_one]
  have put {o : Out} {v z : State} {q : BitVec 2} {m : Cmd} {n : Nat} (ready : State.Readied s v z) (run : o = .next (z.handOff q m n)) :
      ∃ u b, o = .next u ∧ State.Handed s v u q { m with pbInst := b, pbLeft := n } := by
    obtain ⟨b, handed⟩ := ready.handOff q m n
    exact ⟨_, b, run, handed⟩
  have start := State.Readied.refl plain
  have one {wr : Bool} {lo sz : Nat} (h : clear wr lo sz) : ∀ r ∈ [(wr, lo, sz)], s.clearOf r := fun r hr => List.mem_singleton.1 hr ▸ h
  have fetch (cnt : W64) : fetches (.next (s.gfetch x n cnt p)) cnt := by
    refine ⟨fun ha hd hlay hc ⟨hf, hq, hb⟩ hclear ho => ?plain, fun ke np rows ha hd hs hlay hc hp => ?convert,
      fun ha hf hd hs hlay hc hp => ?unfit, fun ha hf hd hc => ?zero, fun ha => ?askew⟩
    case plain =>
      have readied := ((start.moved (s.makeTile_moved hdst .filling (declared cnt).1 s.cur.x)).advanceP x).causeIn (declared cnt).2
      obtain ⟨b, handed⟩ := readied.handOff 0 _ (s.tile dst).size
      refine ⟨_, congrArg _ ((State.gfetch_plain ha hf hm hd hc hlay ho).trans (State.canHand_free hf hq hb (one hclear) _)), ⟨handed.regs, handed.mem⟩,
        apart handed.tile, ?_, _, handed.queue, handed.others, rfl, rfl, rfl, rfl, rfl, rfl, rfl, rfl, ?_, rfl, rfl⟩
      · rw [← declared_fst]
        exact filled hdst rfl (handed.tile dst)
      · rw [handed.tile]
    case convert =>
      intro bytes from_ ⟨hf, hq, hb⟩ hclear ho
      have ne : dst ≠ scl := by simp [dst, scl]
      have readied := (start.moved (s.makeTile_moved hdst .filling (declared cnt).1 s.cur.x)).moved
        (State.makeTile_moved _ hscl .filling (declared cnt).1 s.cur.x)
      obtain ⟨b, handed⟩ := ((readied.advanceP x).causeIn (declared cnt).2).handOff 0 _ bytes
      refine ⟨_, congrArg _ ((State.gfetch_convert ha hf hm hd hc hs hlay hp ho).trans (State.canHand_free hf hq hb (one hclear) _)),
        ⟨handed.regs, handed.mem⟩, ?_, ?_, _, handed.queue, handed.others, rfl, rfl, rfl, rfl, rfl, rfl, rfl, ?_, ?_⟩
      · rw [← declared_fst]
        exact filled hdst rfl ((handed.tile dst).trans ((State.makeTile_moved _ hscl _ _ _).tiles dst ne))
      · rw [← declared_fst]
        exact filled hscl ((s.makeTile_moved hdst _ _ _).tiles scl ne.symm) (handed.tile scl)
      · rw [handed.tile]
      · rw [handed.tile]
    case unfit => exact refuses (congrArg _ (State.gfetch_refused ha hf hm hd hc hs hlay hp))
    case zero => rw [State.gfetch_zero ha hf hm hd hc]
    case askew => rw [State.gfetch_misaligned ha]
  refine ⟨fetch _, fetch _, ?gather, ?scatter, ?judged, ?misaligned, ?uncopied, ?store, ?copy, ?prefetch⟩
  case gather =>
    intro pb hl hd hok hcount ⟨hf, hq, hb⟩ hclear ho
    have okay : ¬(!gatherOk w (s.tile dst).rows false) = true := by rw [(judged _ _).2 hok]; simp
    have counts : ¬(fld w 0 16).toNat = 0 := fun e => hcount ((low w).symm.trans e)
    have fits : ¬(!s.allocOk s.cur.core (some s.cur.x) (s.tile dst).granules) = true := by rw [ho]; simp
    have run := exec_ggather (n := n) t i (listed.2 hl) hf hm hd
    dsimp only at run
    rw [if_neg okay, if_neg counts, State.canHand_free (pb := fld w 30 3) hf hq hb (one hclear), if_neg fits] at run
    obtain ⟨u, b, hu, handed⟩ := put ((start.moved (s.makeTile_moved hdst .filling (fld w 0 16).toNat s.cur.x)).advanceP x) run
    refine ⟨u, hu, ⟨handed.regs, handed.mem⟩, apart handed.tile, ?_, _, handed.queue, handed.others, rfl, rfl, rfl, rfl, rfl, rfl, rfl, rfl, rfl,
      rfl, ?_⟩
    · rw [← low w]
      exact filled hdst rfl (handed.tile dst)
    · rw [handed.tile]
  case scatter =>
    intro pb hl hd hok ⟨hf, hq, hb⟩ hclear
    have okay : ¬(!gatherOk w (s.tile src).rows true) = true := by rw [(judged _ _).2 hok]; simp
    obtain ⟨u, b, hu, handed⟩ := put start ((exec_gscatter (n := n) t i (listed.2 hl) hf r hk hd).trans (congrArg Host.Outcome.next
      ((if_neg okay).trans (State.canHand_free hf hq hb (one hclear) _))))
    exact ⟨u, hu, ⟨handed.regs, handed.mem⟩, handed.tile, _, handed.queue, handed.others, rfl, rfl, rfl, rfl, rfl, rfl, rfl, rfl, rfl,
      decide_eq_true_iff⟩
  case judged =>
    intro hl hf
    refine ⟨fun hd hn => ?_, fun hd hok hcount => ?_, fun hd hn => ?_⟩
    · exact refuses ((exec_ggather t i (listed.2 hl) hf hm hd).trans (congrArg _ (if_pos (unfit hn))))
    · refine ⟨_, ?_, idles start.performed⟩
      rw [exec_ggather t i (listed.2 hl) hf hm hd, (judged _ _).2 hok, if_neg (by simp), if_pos ((low w).trans hcount)]
    · exact refuses ((exec_gscatter t i (listed.2 hl) hf r hk hd).trans (congrArg _ (if_pos (unfit hn))))
  case misaligned =>
    intro hl
    have h := Bool.eq_false_iff.2 fun h => hl (listed.1 h)
    exact ⟨exec_ggather_misaligned t i h, exec_gscatter_misaligned t i r h⟩
  case uncopied =>
    intro ha hb hl hbad h0
    refine refuses ((exec_gcopy t i ha hb hl h0).trans (congrArg _ (if_pos ?_)))
    rw [Bool.or_eq_true, decide_eq_true_eq, bytesMeet_iff]
    show 2 ^ 32 < len ∨ len ≠ 0 ∧ len ≠ 0 ∧ a.toNat < b.toNat + len ∧ b.toNat < a.toNat + len
    omega
  case store =>
    intro ha hd ⟨hf, hq, hb⟩ hclear
    obtain ⟨u, b, hu, handed⟩ := put start ((exec_gstore t i r ha hf hk hd).trans (congrArg Host.Outcome.next (State.canHand_free hf hq hb (one hclear) _)))
    exact ⟨u, hu, ⟨handed.regs, handed.mem⟩, handed.tile, _, handed.queue, handed.others, rfl, rfl, rfl, rfl, rfl, rfl, rfl, rfl, rfl,
      decide_eq_true_iff⟩
  case copy =>
    intro ha hb hl h0 hmost hapart ⟨hf, hq, hroom⟩ hto hfrom
    have good : ¬((decide (2 ^ 32 < len) || bytesMeet a.toNat len b.toNat len) = true) := by
      rw [Bool.or_eq_true, decide_eq_true_eq, bytesMeet_iff]
      omega
    have both : ∀ r ∈ [(false, b.toNat, len), (true, a.toNat, len)], s.clearOf r := fun r hr =>
      (List.mem_cons.1 hr).elim (fun e => e ▸ hfrom) (one hto r)
    obtain ⟨u, b, hu, handed⟩ := put start ((exec_gcopy t i ha hb hl h0).trans (congrArg Host.Outcome.next
      ((if_neg good).trans (State.canHand_free hf hq hroom both _))))
    exact ⟨u, hu, ⟨handed.regs, handed.mem⟩, handed.tile, _, handed.queue, handed.others, rfl, rfl, rfl, rfl, rfl, rfl, rfl, rfl, rfl⟩
  case prefetch =>
    intro hq
    have own : s.foreignPb 0 = false := by simp [State.foreignPb]
    obtain ⟨u, b, hu, handed⟩ := put start (congrArg Host.Outcome.next (State.canHand_free own hq rfl (fun _ h => absurd h List.not_mem_nil) _) :
      exec (.gpref t i e l) s = _)
    refine ⟨u, hu, ⟨handed.regs, handed.mem⟩, handed.tile, _, handed.queue, handed.others, rfl, rfl, rfl, rfl, rfl, rfl, rfl, Nat.min_le_right _ _,
      fun h => ?_⟩
    show Nat.min (if len = 0 then 0 else _) 256 = _
    rw [if_neg (Nat.pos_iff_ne_zero.1 h), Nat.min_comm]

end Sys2Proof.Proofs
end

section
/-! PROOF. Peer copies at hand-off (O39). -/

namespace Sys2Proof.Machine

open Sys2Proof.Safety

/-! ### The barriers of a core (R264, R265) -/

/-- A context holds no barrier of its core. -/
theorem State.modCtx_nb (s : State) (c : Nat) (x : CtxId) (f : Ctx → Ctx) (d n : Nat) : (s.modCtx c x f).nb d n = s.nb d n := by
  unfold State.nb
  by_cases h : d = c
  · subst h
    show alGet _ _ ((s.modCore d _).core d).nb = _
    rw [State.core_modCore]
    rfl
  · exact congrArg (fun k => alGet Barrier.free n (Core.nb k)) (s.core_modCore_other _ h)

theorem State.modMe_nb (s : State) (f : Ctx → Ctx) (d n : Nat) : (s.modMe f).nb d n = s.nb d n := s.modCtx_nb _ _ f d n

theorem State.advanceP_nb (s : State) (o : BitVec 9) (d n : Nat) : (s.advanceP o).nb d n = s.nb d n := by
  rw [State.advanceP_eq]
  split
  · exact s.modMe_nb _ d n
  · rfl

theorem State.causeIn_nb {s : State} (hs : s.plain) (z : BitVec 12) (d n : Nat) : (s.causeIn z).nb d n = s.nb d n := by
  rw [State.causeIn_plain hs]
  split
  · rfl
  · exact s.modMe_nb _ d n

theorem alGet_filter_ne {α : Type} (d : α) (n : Nat) (l : List (Nat × α)) : alGet d n (l.filter fun p => p.1 != n) = d := by
  induction l with
  | nil => rfl
  | cons p r ih =>
    rw [List.filter_cons]
    split
    · next h => rw [alGet, if_neg (bne_iff_ne.1 h), ih]
    · exact ih

theorem State.nb_setNb (s : State) (c n : Nat) (b : Barrier) : (s.setNb c n b).nb c n = b := by
  unfold State.setNb State.nb
  rw [State.core_modCore]
  dsimp only
  split
  · next h => rw [h, alGet_filter_ne]
  · exact alGet_alSet_self _ _ _ _

theorem State.makeTile_nb (s : State) {l : TLoc} (hl : l.inCore) (st : TileState) (count : Nat) (x : CtxId) (d n : Nat) :
    (s.makeTile l st count x).nb d n = s.nb d n := by
  cases l with
  | unit c y k => exact s.newUid.2.modCtx_nb c y _ d n
  | launch c a k =>
    unfold State.nb
    by_cases h : d = c
    · subst h
      show alGet _ _ ((s.newUid.2.modCore d _).core d).nb = _
      rw [State.core_modCore]
      rfl
    · exact congrArg (fun k => alGet Barrier.free n (Core.nb k)) (s.newUid.2.core_modCore_other _ h)
  | frame c a y k => exact hl.elim

/-- The bytes of a command that enters its queue pend on its barrier, or on none where that is free (R196). -/
theorem State.enterPb_pend {s : State} (hs : s.plain) (pb : BitVec 3) (n : Nat) : ((s.enterPb pb n).nb s.cur.core pb.toNat).pend =
    if s.pbInst pb = 0 then (s.nb s.cur.core pb.toNat).pend else (s.nb s.cur.core pb.toNat).pend + BitVec.ofNat 36 n := by
  by_cases h0 : pb = 0
  · have none : s.pbInst pb = 0 := if_pos (.inl h0)
    rw [if_pos none, State.enterPb, if_pos h0]
  split
  · next hi =>
    unfold State.enterPb
    rw [if_neg h0, if_pos hi]
    exact congrArg Barrier.pend (State.causeIn_nb (s := { s with cur := { s.cur with slot := 6 } }) hs cINV s.cur.core pb.toNat)
  · next hi => rw [State.enterPb_held s h0 hi, State.nb_setNb]

/-! ### The word (R276, R277) -/

/-- The command of a `ccopy` at hand, but for the tile that it fills. -/
def State.copyCmd (s : State) (r : BitVec 2) (w : W64) (size : Nat) : Cmd :=
  { s.newCmd 0x03 with
    srcCore := peerCore s.cur.core w, aux := [(fld w 52 8).toNat], consume := r = 0, total := size / 64, pb := fld w 48 3, pbInst := s.pbInst (fld w 48 3)
    pbLeft := size }

/-- What a `ccopy` does that nothing holds. -/
def State.copyTo (s : State) (x : BitVec 9) (l : TLoc) (r : BitVec 2) (w : W64) : State :=
  let size := (s.tile l).size
  let s1 := ({ s with uidCtr := s.uidCtr + 1 } : State).makeTile l .filling (fld w 32 16).toNat s.cur.x
  let m : Cmd := { s.copyCmd r w size with dst := some (s1.tile l).uid }
  (((s1.advanceP x).enterPb (fld w 48 3) size).modMe fun cx => { cx with ccq := cx.ccq ++ [m] }).mcDone true

theorem exec_ccopy {s : State} {x : BitVec 9} {c : BitVec 5} {l : TLoc} (t : BitVec 3) (i r : BitVec 2) (hok : peerOk (s.opS c) = true)
    (hnear : (s.opS c).toNat % 128 < 96) (hf : s.foreignPb (fld (s.opS c) 48 3) = false) (hl : s.producer x = some l) (hd : (s.tile l).st = .absent)
    (hq : s.me.ccq.length < 8)
    (hsize : (s.tile (.launch (peerCore s.cur.core (s.opS c)) s.me.launch (fld (s.opS c) 52 8).toNat)).size = (s.tile l).size)
    (hc : (fld (s.opS c) 32 16).toNat ≠ 0) (hb : s.bytesFit s.cur.core (fld (s.opS c) 48 3) (s.tile l).size = true)
    (ho : s.allocOk s.cur.core (some s.cur.x) (s.tile l).granules = true) :
    exec (.ccopy t i x r c) s = .next (s.copyTo x l r (s.opS c)) := by
  show execCcopy t i x r c s = _
  unfold execCcopy
  dsimp only
  rw [State.peerChecked_near hok hnear, if_neg (by omega), if_neg (ne_true_of_eq_false hf), hl]
  dsimp only
  rw [if_neg (not_not.2 hd), if_neg (Nat.not_le.2 hq), if_neg (not_not.2 hsize), if_neg hc, hb, if_neg (by simp), ho, if_neg (by simp)]
  rfl

/-- A command enters the copy queue, and the word is done. -/
theorem State.Readied.pushCopy {s w t : State} (h : State.Readied s w t) (m : Cmd) :
    let u := (t.modMe fun cx => { cx with ccq := cx.ccq ++ [m] }).mcDone true
    u.me.ccq = s.me.ccq ++ [m] ∧ u.me.sticky = t.me.sticky ∧ regsSame s.me u.me ∧ u.mem = s.mem ∧ (∀ l, u.tile l = w.tile l) ∧
      ∀ c n, u.nb c n = t.nb c n := by
  intro u
  have pushed := t.modMe_mine (f := fun cx => { cx with ccq := cx.ccq ++ [m] }) rfl
  have plain : (t.modMe fun cx => { cx with ccq := cx.ccq ++ [m] }).plain := by
    have := h.plain
    unfold State.plain at *
    rwa [pushed.me]
  have done := pushed.trans (State.mtDone_mine plain)
  have nb (c n : Nat) : u.nb c n = t.nb c n := by
    have out : u = _ := State.mtDone_plain plain
    rw [out, State.modMe_nb, State.modMe_nb, State.modMe_nb]
  rw [pushed.me] at done
  refine ⟨?_, ?_, ?_, done.mem.trans h.mem, fun l => (done.tile l).trans (h.tile l), nb⟩
  · rw [← h.ccq]
    exact congrArg Ctx.ccq done.me
  · exact (congrArg Ctx.sticky done.me :)
  · have me : u.me = _ := done.me
    rw [me]
    exact regsSame_trans h.regs (regsSame_refl t.me)

end Sys2Proof.Machine

namespace Sys2Proof.Proofs

open Sys2Proof.Machine Sys2Proof.Safety

/-- Settles O39: where nothing holds it the word is one chain of changes, each of which leaves what the others change. -/
theorem peerCopiesEnterTheCopyQueue : Obligations.PeerCopiesEnterTheCopyQueue := by
  unfold Obligations.PeerCopiesEnterTheCopyQueue
  intro t i x r c s l hun w peer src count pb bar size htop hmid hlow hnear hl hd hq hsize hc hpb ho
  have plain := State.plain_of_unlogged hun
  have hin : l.inCore := by
    obtain ⟨n, -, rfl⟩ := Option.map_eq_some_iff.1 hl
    trivial
  have barrier : (fld w 48 3).toNat = pb := fld_toNat w 48 3
  have tile : (fld w 52 8).toNat = src := fld_toNat w 52 8
  have number : (fld w 32 16).toNat = count := fld_toNat w 32 16
  have there : peerCore s.cur.core w = peer := peerCore_eq s.cur.core w
  have zero : fld w 48 3 = 0#3 ↔ pb = 0 := by rw [← barrier]; exact ⟨fun h => by rw [h]; rfl, fun h => BitVec.eq_of_toNat_eq h⟩
  have native : s.foreignPb (fld w 48 3) = false := by
    rcases hpb with h | ⟨h, -⟩ | h
    · simp [State.foreignPb, zero.2 h]
    · simp [State.foreignPb, barrier, show (s.nb s.cur.core pb).owner = s.me.launch from h]
    · simp [State.foreignPb, barrier, show (s.nb s.cur.core pb).owner = 0 from h]
  have fits : s.bytesFit s.cur.core (fld w 48 3) size = true := by
    rcases hpb with h | ⟨-, h⟩ | h
    · simp [State.bytesFit, zero.2 h]
    · have room : (s.nb s.cur.core pb).pend.toNat + size < 2 ^ 36 := h
      rw [State.bytesFit, barrier, decide_eq_true room, Bool.or_true]
    · simp [State.bytesFit, barrier, show (s.nb s.cur.core pb).owner = 0 from h]
  have run := exec_ccopy t i r ((peerOk_iff w).2 ⟨htop, hmid, hlow⟩) hnear native hl hd hq (by rw [there, tile]; exact hsize) (by rw [number]; exact hc)
    fits ho
  let s1 := ({ s with uidCtr := s.uidCtr + 1 } : State).makeTile l .filling (fld w 32 16).toNat s.cur.x
  let s2 := s1.advanceP x
  let s3 := s2.enterPb (fld w 48 3) size
  have made : State.TileMoved l s s1 := by
    obtain ⟨ctx, tiles, mem, cur⟩ := ({ s with uidCtr := s.uidCtr + 1 } : State).makeTile_moved hin .filling (fld w 32 16).toNat s.cur.x
    exact ⟨ctx, tiles, mem, cur⟩
  have advanced : State.Readied s s1 s2 := ((State.Readied.refl plain).moved made).advanceP x
  have entered : State.Readied s s1 s3 := advanced.enterPb (fld w 48 3) size
  obtain ⟨ccq, sticky, regs, mem, tiles, nb⟩ := entered.pushCopy { s.copyCmd r w size with dst := some (s1.tile l).uid }
  have new := State.tile_makeTile ({ s with uidCtr := s.uidCtr + 1 } : State) hin .filling (fld w 32 16).toNat s.cur.x
  have held (n : Nat) : s2.nb s.cur.core n = s.nb s.cur.core n :=
    (s1.advanceP_nb x _ _).trans (State.makeTile_nb _ hin _ _ _ _ _)
  have inst : s2.pbInst (fld w 48 3) = s.pbInst (fld w 48 3) := by
    unfold State.pbInst
    rw [advanced.cur, held]
  refine ⟨_, _, run, ?_, ?_, ?_, ?_, fun q hq => (tiles q).trans (made.tiles q hq), regs, mem, ccq, there, congrArg (fun n => [n]) tile,
    decide_eq_true_iff, rfl, rfl, rfl, ?_, fun h0 hfree => ?_, ?_⟩
  · rw [State.copyTo, tiles, new]
  · rw [State.copyTo, tiles, new, number]
  · rw [State.copyTo, tiles, new]
  · rw [State.copyTo, tiles, new]
    rfl
  · rw [State.copyTo, tiles]
  · have free : s2.pbInst (fld w 48 3) = 0 := by
      rw [inst, State.pbInst, barrier]
      exact if_pos (.inr hfree)
    have kept : s2.me.sticky = s.me.sticky := by
      obtain ⟨h, m⟩ := s1.advanceP_mine x
      have same : s2.me.sticky = s1.me.sticky := (congrArg Ctx.sticky m.me :)
      exact same.trans (congrArg Ctx.sticky made.me :)
    have caused := (State.enterPb_free advanced.plain (fun h => h0 (zero.1 h)) free size).me
    rw [advanced.cur] at caused
    exact sticky.trans ((congrArg Ctx.sticky caused).trans (Ctx.sticky1_sticky_congr kept _ _ _))
  · have named : BitVec.ofNat 3 pb = fld w 48 3 := by rw [← barrier, BitVec.ofNat_toNat, BitVec.setWidth_eq]
    have pend := State.enterPb_pend advanced.plain (fld w 48 3) size
    rw [advanced.cur, barrier, inst, held] at pend
    rw [named]
    exact (congrArg Barrier.pend (nb _ _)).trans pend

end Sys2Proof.Proofs
end
